-- ==== Sys2Proof/Word.lean ====
section
/-!
DEFINITION. The word types and their plainest arithmetic: registers of 32 bits (R6), bytes, and the sparse
tables every indexed piece of state is held in.
-/
namespace Sys2Proof

/-- A register word (R6). -/
abbrev Word := BitVec 32

/-- A byte of memory, of an image, of a datagram. -/
abbrev Byte := BitVec 8

/-- An instant or a span of device time, counted in units of 2^-16 ns (R348): seconds, nanoseconds and
fraction are read off it by `Time.sec`, `Time.ns` and `Time.frac`. -/
abbrev Time := Nat

/-- A sparse table: the listed keys rise strictly and no entry equals the default of its key. -/
abbrev Tab (α : Type) := List (Nat × α)

/-- What a table holds at `k`; an unlisted key holds its default. -/
def tget {α : Type} (d : Nat → α) : Tab α → Nat → α
  | [], k => d k
  | (k', v) :: r, k => if k' = k then v else tget d r k

/-- Enter `v` at `k`, keeping the keys in order. -/
def tins {α : Type} : Tab α → Nat → α → Tab α
  | [], k, v => [(k, v)]
  | (k', v') :: r, k, v =>
    if k < k' then (k, v) :: (k', v') :: r
    else if k' = k then (k, v) :: r
    else (k', v') :: tins r k v

/-- Take the entry of `k` out. -/
def tdel {α : Type} : Tab α → Nat → Tab α
  | [], _ => []
  | (k', v') :: r, k => if k' = k then tdel r k else (k', v') :: tdel r k

/-- Write `v` at `k`, in canonical form: the default is not listed. -/
def tset {α : Type} [DecidableEq α] (d : Nat → α) (t : Tab α) (k : Nat) (v : α) : Tab α :=
  if v = d k then tdel t k else tins t k v

/-- Every listed key lies above `k`. -/
def tabove {α : Type} (k : Nat) (t : Tab α) : Bool :=
  t.all fun e => decide (k < e.1)

/-- The canonical form of a table. -/
def twf {α : Type} [DecidableEq α] (d : Nat → α) : Tab α → Bool
  | [] => true
  | (k, v) :: r => decide (v ≠ d k) && tabove k r && twf d r

/-- Whole seconds of an instant (R348: 48 bits in the registers). -/
def Time.sec (t : Time) : Nat := t / 65536000000000

/-- Nanoseconds within the second, 0 to 999,999,999. -/
def Time.ns (t : Time) : Nat := t / 65536 % 1000000000

/-- Fraction of a nanosecond in units of 2^-16 ns. -/
def Time.frac (t : Time) : Nat := t % 65536

/-- The instant with the given seconds, nanoseconds and fraction. -/
def Time.ofParts (sec ns frac : Nat) : Time := 65536 * (1000000000 * sec + ns) + frac

/-- A span of whole nanoseconds. -/
def Time.ofNs (ns : Nat) : Time := 65536 * ns

/-- A span of whole microseconds. -/
def Time.ofUs (us : Nat) : Time := 65536000 * us

/-- A span of whole milliseconds. -/
def Time.ofMs (ms : Nat) : Time := 65536000000 * ms

end Sys2Proof
end

