-- ==== Sys2Proof/Syntax.lean ====
section
/-!
DEFINITION. The commands of the block: one constructor per row of the opcode table. A command that stands for a
write of a register field carries what the write carries; a command that stands for something the outside world or
a clock does carries what it brings or what was measured. `fn` is the function a register access comes from, 0 for
the management function.
-/
namespace Sys2Proof

inductive Instr
  /-- REGISTER_WRITE (R8): A write to a register field that has no row of its own takes effect under its access code (RW, W1C, W1S, RWK). -/
  | registerWrite (fn : Nat) (off : Nat) (value : Word)
  /-- MISALIGNED_ACCESS (R6): An access to BAR0 that is not an aligned 32-bit access completes with an unsupported-request completion and leaves register state unchanged. -/
  | misalignedAccess (fn : Nat) (off : Nat) (len : Nat)
  /-- UNDEFINED_OFFSET_ACCESS (R12): A read or write at a BAR0 offset with no register returns zero or is ignored, and GLB_ACCERR_TALLY counts it. -/
  | undefinedOffsetAccess (fn : Nat) (off : Nat) (write : Bool) (value : Word)
  /-- WIDE_VALUE_LOW_READ (R7): A read of the lowest word of a wide value captures the whole value into the function's snapshot. -/
  | wideValueLowRead (fn : Nat) (off : Nat)
  /-- READ_TO_CLEAR (R16): A read of an RC field returns its value and clears it, keeping any increment that falls in the same clock. -/
  | readToClear (fn : Nat) (off : Nat) (inc : Word)
  /-- BELLWETHER_TICK (R33): A tick begins at a period boundary and runs carried work, trigger rules, posting, collection, commits and events in order. -/
  | bellwetherTick
  /-- BW_PERIOD_WRITE (R31): A write of GLB_BW_CTRL.PERIOD_NS stages a new tick period, replaces or withdraws any pending period, and sets PENDING. -/
  | bwPeriodWrite (v : Nat)
  /-- BW_PERIOD_APPLY (R31): At the next whole second of device time, the pending tick period takes effect and PENDING clears. -/
  | bwPeriodApply
  /-- CONTROL_SHADOW_COMMIT (R21): The control plane commits a stream's control-side shadow sets and publishes the context generation in the first tick after its start of frame. -/
  | controlShadowCommit (st : Nat)
  /-- RECORD_COMPLETE (R20): A frame record completes in the first tick whose end finds the tag history covering the frame's exposure midpoint. -/
  | recordComplete (slot : Nat)
  /-- RECORD_TAG_TIMEOUT (R20): At the end of the eighth tick after exposure end, a record still uncovered is assembled from the latest samples with its tag-late count incremented. -/
  | recordTagTimeout (slot : Nat)
  /-- FOLD_ENABLE (R25): A write of FH_CONTROL.ENABLE enables or disables a fold, taking a port from Off to Listen. -/
  | foldEnable (off : Nat) (on : Bool)
  /-- FOLD_HALT (R25): A write of FH_CONTROL.HALT stops the fold at its next frame boundary, or lets it resume at the following one. -/
  | foldHalt (off : Nat) (on : Bool)
  /-- LANE_BLOCK_RESET (R101): FH_CONTROL.RESET on a lane cell clears alignment and lock, restarts adaptation, ends a scan and restarts the port's bring-up. -/
  | laneBlockReset (n : Nat)
  /-- PORT_BLOCK_RESET (R123): FH_CONTROL.RESET on a port fold resets its lanes and returns the port to Listen with ATTEMPT 0. -/
  | portBlockReset (P : Nat)
  /-- PIXEL_FOLD_BLOCK_RESET (R210): FH_CONTROL.RESET on a pixel fold abandons the unit in progress with a trailer and clears the dark and coder history. -/
  | pixelFoldBlockReset (f : Nat)
  /-- STR_GO (R62): A write of STR_CTRL.GO checks the named image and, if it passes, starts its activation. -/
  | strGo (source : Nat) (wait : Nat)
  /-- STR_CHECK (R60): A write of STR_CTRL.CHECK checks the named image without activating it and reports RESULT 10 or 2. -/
  | strCheck (source : Nat) (wait : Nat)
  /-- STR_PROGRAM (R68): A write of STR_CTRL.PROGRAM checks the uploaded image and starts writing it to the named flash slot. -/
  | strProgram (source : Nat) (wait : Nat)
  /-- PROGRAM_DONE (R68): The flash write and verification of a slot complete, setting WRITTEN and RESULT 7, or RESULT 11 on a flash failure. -/
  | programDone (fail : Bool)
  /-- POST_WAIT_END (R61): The wait for open post windows ends, when every window has closed or POST_WAIT_S expires, and the quiesce stage begins. -/
  | postWaitEnd
  /-- ACTIVATION_QUIESCE (R62): The quiesce stage stops intake at frame boundaries, idles the trigger outputs and stops the drover channels. -/
  | activationQuiesce
  /-- QUIESCE_TIMEOUT (R62): A stream with no frame boundary within 100 ms of quiesce has its open frame closed truncated with cause 5. -/
  | quiesceTimeout (st : Nat)
  /-- ACTIVATION_RETAIN (R63): The retain stage completes open records, checkpoints the index, marks frozen regions retained and compares rings with the new image. -/
  | activationRetain
  /-- ACTIVATION_RECONFIGURE (R62): The reconfigure stage rebuilds the fold tree, loads contexts, pens, channels and partitions, and applies the presets. -/
  | activationReconfigure
  /-- ACTIVATION_RETRAIN (R62): The retrain stage restarts every enabled port from Listen and ends when each port is Active or has spent one Train limit. -/
  | activationRetrain
  /-- ACTIVATION_RESUME (R62): The resume stage writes the commit marker, restarts intake, releases the trigger outputs, applies held freezes and raises EV865. -/
  | activationResume
  /-- ACTIVATION_ROLLBACK (R65): After a reset during an activation, Reconfigure, Retrain and Resume are run again for the previous image. -/
  | activationRollback
  /-- LANE_POWER_REQUEST (R98): A write of LN_PWR.REQ takes a lane to Rest, Idle or Active, starting an exit where one is needed. -/
  | lanePowerRequest (n : Nat) (req : Nat)
  /-- LANE_EXIT_COMPLETE (R99): A lane's exit from Rest or Idle completes with CDR_LOCK 1 and POWER 3, and EV(4n+2) is raised. -/
  | laneExitComplete (n : Nat) (vstep : Nat) (phase : Nat) (latency : Nat)
  /-- LANE_EXIT_TIMEOUT (R100): When CDR_LOCK has not risen 10 ms after the request, the lane stays Active with FAULT 0x4. -/
  | laneExitTimeout (n : Nat)
  /-- CDR_COAST_TIMEOUT (R76): After 100,000 UI without a transition, the clock recovery drops CDR_LOCK. -/
  | cdrCoastTimeout (n : Nat)
  /-- DENSITY_WINDOW_END (R80): At the end of a density window, LN_DENSITY is written and adaptation is frozen or resumed. -/
  | densityWindowEnd (n : Nat) (density : Nat) (ctle : Word) (dfe : Word)
  /-- FREEZE_LIMIT_EXPIRE (R81): When a frozen interval reaches LN_FREEZE_LIMIT, EV(4n+1) is raised once for that interval. -/
  | freezeLimitExpire (n : Nat)
  /-- INVALID_HEADER (R89): A block with an invalid sync header causes a bit slip before lock, or counts in LN_HDR_ERR_TALLY while locked. -/
  | invalidHeader (n : Nat) (valid : Nat)
  /-- BLOCK_LOCK_ACQUIRED (R89): After 64 consecutive valid headers, BLOCK_LOCK sets and EV(4n) is raised. -/
  | blockLockAcquired (n : Nat) (latency : Nat)
  /-- BLOCK_LOCK_LOST (R89): Sixteen invalid headers within 64 blocks clear BLOCK_LOCK, count a lock loss, raise EV(4n) and restart the hunt. -/
  | blockLockLost (n : Nat)
  /-- SLIP_WRITE (R90): A write of LN_ALIGN.SLIP queues manual slips, or sets SLIP_IGNORED when MANUAL is 0. -/
  | slipWrite (n : Nat) (value : Word)
  /-- PATTERN_CHECKER_SYNC (R92): The PRBS checker synchronises within 64 bits, sets RX_SYNC and then counts mismatches. -/
  | patternCheckerSync (n : Nat) (errors : Nat)
  /-- SCAN_START (R95): A write of LN_SCAN_CTRL.START begins an eye scan at the given point, or ends it at once with END 2 when the lane is not Active. -/
  | scanStart (n : Nat) (value : Word)
  /-- SCAN_ABORT (R94): A write of ABORT ends a scan with END 1 and raises EV(4n+3). -/
  | scanAbort (n : Nat)
  /-- SCAN_COMPLETE (R94): A scan that reaches its bit count ends with END 0 and raises EV(4n+3). -/
  | scanComplete (n : Nat) (errors : Nat)
  /-- PARTNER_DETECT (R105): A lane of a port in Listen that has shown SIGNAL and CDR_LOCK for 1 ms, or a detected copper termination, moves the port to Train. -/
  | partnerDetect (P : Nat) (seen : List Nat)
  /-- LISTEN_CANDIDATE_TIMEOUT (R106): After 20 ms without a partner, Listen moves on to the next candidate rate or standard. -/
  | listenCandidateTimeout (P : Nat)
  /-- LISTEN_LIMIT_EXPIRE (R114): The 100 ms Listen limit expires with no partner, and the attempt fails. -/
  | listenLimitExpire (P : Nat)
  /-- TRAIN_EXIT (R107): The exit condition of Train is met and the port enters Lock. -/
  | trainExit (P : Nat) (seen : List Nat)
  /-- TRAIN_LIMIT_EXPIRE (R114): The 500 ms Train limit expires, and the attempt fails. -/
  | trainLimitExpire (P : Nat)
  /-- ORDER_STEP (R116): A bonded port finds inverted lanes and the lane order from the training blocks, and corrects both. -/
  | orderStep (P : Nat)
  /-- LOCK_EXIT (R108): All participating lanes hold block lock and are deskewed, and the port enters Exchange. -/
  | lockExit (P : Nat) (skew : Nat) (standard : Nat)
  /-- LOCK_LIMIT_EXPIRE (R114): The 50 ms Lock limit expires, and the attempt fails. -/
  | lockLimitExpire (P : Nat)
  /-- EXCHANGE_COMPLETE (R109): The port and camera agree on lanes, rate, streams, formats and latency, and the port enters Active. -/
  | exchangeComplete (P : Nat) (caps : List (Nat × Nat))
  /-- EXCHANGE_LIMIT_EXPIRE (R114): The 200 ms Exchange limit expires, and the attempt fails. -/
  | exchangeLimitExpire (P : Nat)
  /-- PARTNER_LOST (R111): An Active port loses block lock, signal or keep-alive, truncates its open frames and returns to Listen. -/
  | partnerLost (P : Nat) (lane : Nat)
  /-- REST_POLL (R113): Every 100 ms a port in Rest reads SIGNAL and enters Listen when any lane shows it. -/
  | restPoll (P : Nat) (seen : List Nat)
  /-- RETRAIN (R114): A write of PT_LINK_CTRL.RETRAIN sends the port to Listen, or ends Rest, without counting a failure. -/
  | retrain (P : Nat)
  /-- TRAINING_BLOCK (R132): A received training block delivers the lane number, the READY flag, a tap request and a reply. -/
  | trainingBlock (n : Nat) (number : Nat) (ready : Bool) (tap : Nat) (action : Nat) (reply : Nat) (inverted : Bool) (better : Bool)
  /-- CAPABILITY_BLOCK (R137): A received capability set advances the exchange of declared and agreed values. -/
  | capabilityBlock (P : Nat) (agreed : Bool) (reject : Bool) (fields : List (Nat × Nat))
  /-- CAPABILITY_REPEAT (R137): Every 50 µs a sender repeats its capability set until the first block of the next step arrives. -/
  | capabilityRepeat (P : Nat)
  /-- VIDEO_PACKET (R166): A received video packet is placed in the open frame at its line and offset, or filled, marked or discarded. -/
  | videoPacket (st : Nat) (line : Nat) (offset : Nat) (data : List Byte) (crcOk : Bool) (cont : Bool) (resent : Bool)
  /-- CONTROL_READ_RESPONSE (R142): A received read response completes its outstanding request with its status and data. -/
  | controlReadResponse (P : Nat) (tag : Nat) (status : Nat) (data : List Byte)
  /-- CONTROL_WRITE_ACK (R142): A received write acknowledgement completes its outstanding request. -/
  | controlWriteAck (P : Nat) (tag : Nat) (status : Nat)
  /-- CONTROL_REQUEST_TIMEOUT (R142): A control request with no answer within its timeout completes as timed out. -/
  | controlRequestTimeout (P : Nat) (tag : Nat)
  /-- CAMERA_EVENT_PACKET (R143): A received camera event is dated and delivered to the freeze and trigger sources. -/
  | cameraEventPacket (P : Nat) (event : Nat) (stream : Nat) (age : Nat) (arrival : Nat)
  /-- HEARTBEAT_PACKET (R120): A received CoaXPress heartbeat packet renews the keep-alive of R111. -/
  | heartbeatPacket (P : Nat)
  /-- PROBE_TIMER (R151): Every 1 s an Active Torvelink port sends a latency probe. -/
  | probeTimer (P : Nat)
  /-- PROBE_NOW (R151): A write of PT_TV_CTRL.PROBE_NOW sends a latency probe within 10 µs. -/
  | probeNow (P : Nat)
  /-- ECHO_RECEIVED (R152): A received echo yields RTT and the one-way latency d, which apply to later trigger blocks. -/
  | echoReceived (P : Nat) (seq : Nat) (elapsed : Nat) (turn : Nat)
  /-- PROBE_MISS (R151): A probe with no echo 1 ms after it was sent counts in PT_TV_PROBE_MISS_TALLY, and d is kept. -/
  | probeMiss (P : Nat) (seq : Nat)
  /-- START_OF_FRAME (R165): A port recognises the start of a frame, numbers it and assigns its record slot; the banks swap and throttle and region rules apply. -/
  | startOfFrame (st : Nat) (camFrame : Nat) (arrival : Nat) (startAge : Nat) (endAge : Nat) (trigLate : Bool) (egen : Nat) (egenValid : Bool)
  /-- END_OF_FRAME (R166): An end marker closes the frame, which is filled and marked as needed and counted in ST_FRAME_TALLY. -/
  | endOfFrame (st : Nat)
  /-- FRAME_TIMEOUT (R166): With no end marker ST_FRAME_TIMEOUT after start of frame, the frame is closed truncated with cause 1. -/
  | frameTimeout (st : Nat)
  /-- RESEND_TIMEOUT (R168): When no resent Camera Link HS packet arrives within 50 µs, the failed payload stands with its CRC mark. -/
  | resendTimeout (st : Nat)
  /-- CAM_CHANNEL_GO (R176): A write of PT_CAM_CMD.GO issues a camera register read or write over the control channel, or sets REFUSED while BUSY. -/
  | camChannelGo (fn : Nat) (P : Nat) (value : Word)
  /-- PP_ALIGN_ACQUIRED (R179): A parallel-port channel link reads its clock word for 16 clocks and sets its ALIGNED bit. -/
  | ppAlignAcquired (link : Nat)
  /-- PP_ALIGN_LOST (R179): Four mismatches within 16 clocks clear ALIGNED, count a loss and truncate an open frame with cause 6. -/
  | ppAlignLost (link : Nat)
  /-- PP_ALIGN_SLIP (R179): A write of PP_ALIGN.SLIP in manual mode slips the selected link by 1 to 6 bits. -/
  | ppAlignSlip (value : Word)
  /-- PP_CLOCK_LOST (R178): Absence of the pixel clock for 2 µs clears CLK_OK and truncates any open frame with cause 6. -/
  | ppClockLost
  /-- PP_CLOCK_PRESENT (R178): The return of the pixel clock sets CLK_OK and raises EV322. -/
  | ppClockPresent
  /-- PP_SER_TX_WRITE (R181): A write of PP_SER_TX queues a byte to send, or discards it and sets TX_OVF when the FIFO is full. -/
  | ppSerTxWrite (byte : Nat)
  /-- PP_SER_RX_READ (R181): A read of PP_SER_RX removes the oldest received byte from the FIFO. -/
  | ppSerRxRead (fn : Nat)
  /-- PP_SER_BYTE_RECEIVED (R181): A received serial byte enters the receive FIFO, or is discarded on overflow or a framing error. -/
  | ppSerByteReceived (byte : Nat) (stop : Bool)
  /-- UNIT_READY (R186): A frame or stripe becomes ready in the paddock for its fold. -/
  | unitReady (st : Nat)
  /-- FOLD_UNIT_START (R204): The scheduler gives the fold the ready unit of the context least served for its due rate. -/
  | foldUnitStart (f : Nat)
  /-- FOLD_UNIT_COMPLETE (R200): A fold finishes a unit and writes its tap lines and trailer. -/
  | foldUnitComplete (f : Nat)
  /-- THROTTLE_STEP_CHANGE (R206): A fold receives a new throttle step from the thermal controller, changes its clock and raises EV(328+8f)+4. -/
  | throttleStepChange (f : Nat) (k : Nat)
  /-- SCHEDULER_REBALANCE (R207): Every 100 µs the scheduler moves contexts away from overloaded folds or returns guests home. -/
  | schedulerRebalance
  /-- CONTEXT_COMMIT_REQ (R208): A write of FXC_COMMIT.REQ validates the shadow bank and sets PENDING, or writes a REJECT code. -/
  | contextCommitReq (fn : Nat) (f : Nat) (c : Nat)
  /-- CONTEXT_COMMIT_CANCEL (R210): A write of FXC_COMMIT.CANCEL clears a pending commit without changing the banks. -/
  | contextCommitCancel (fn : Nat) (f : Nat) (c : Nat)
  /-- BURST_REARM (R252): A write of PD_ST_CTRL.BURST_REARM marks the region's records overwritten and starts a new burst fill. -/
  | burstRearm (fn : Nat) (st : Nat)
  /-- WINDOW_GRACE_EXPIRE (R261): PD_FG_GRACE without a completed record closes a member's window with GRACE and CLIP_POST. -/
  | windowGraceExpire (g : Nat) (st : Nat)
  /-- FG_ARM (R258): PD_FG_CMD.ARM moves a Disarmed group to Armed. -/
  | fgArm (fn : Nat) (g : Nat)
  /-- FG_DISARM (R258): PD_FG_CMD.DISARM moves a group to Disarmed, or ends Post in Frozen with a clipped post. -/
  | fgDisarm (fn : Nat) (g : Nat)
  /-- FG_FREEZE (R259): PD_FG_CMD.FREEZE issues a software freeze request with T from the write or from PD_FG_SW_TIME. -/
  | fgFreeze (fn : Nat) (g : Nat)
  /-- FG_REARM (R264): PD_FG_CMD.REARM checks every member's region B and, if all pass, switches the members to their other regions. -/
  | fgRearm (fn : Nat) (g : Nat)
  /-- FG_RELEASE (R264): PD_FG_CMD.RELEASE ends the hold on a region and clears the held flags of its window records. -/
  | fgRelease (fn : Nat) (g : Nat) (r : Nat)
  /-- FREEZE_REQUEST (R259): A hardware or network freeze request reaches a group, which applies it when Armed and enters Post, or else refuses it. -/
  | freezeRequest (g : Nat) (cause : Nat) (time : Nat)
  /-- RECOVERY_SCAN_COMPLETE (R267): The recovery scan finishes rebuilding the index, records and groups, and intake resumes. -/
  | recoveryScanComplete (us : Nat) (rate : Nat)
  /-- FRAME_FIND (R271): A write of PD_FIND_CTRL.GO looks up a stream and frame number in the index and writes PD_FIND_RESULT. -/
  | frameFind (fn : Nat)
  /-- BAR4_READ (R249): A BAR4 read returns paddock bytes, with zero in the bytes the function may not read. -/
  | bar4Read (fn : Nat) (addr : Nat) (len : Nat)
  /-- BAR4_WRITE (R249): A BAR4 write writes the bytes the function may write and counts a partial refusal once. -/
  | bar4Write (fn : Nat) (addr : Nat) (data : List (Option Byte))
  /-- PEN_CFG_WRITE (R273): A write of PN_CFG enables or configures a pen, or sets CFG_REFUSED on invalid rings or a change while enabled. -/
  | penCfgWrite (fn : Nat) (p : Nat) (value : Word)
  /-- PEN_POP (R276): A write of PN_POP removes COUNT words after the refusal and stale checks. -/
  | penPop (fn : Nat) (p : Nat) (count : Nat)
  /-- PEN_POP_COMPLETE (R276): A software pop completes, BUSY falls and RD is advanced. -/
  | penPopComplete (p : Nat)
  /-- PEN_HOST_PUSH (R277): PN_CMD.PUSH pushes COUNT host-written words, or is refused whole under backpressure. -/
  | penHostPush (fn : Nat) (p : Nat) (count : Nat)
  /-- PEN_DROP (R279): PN_CMD.DROP removes the consumer's current packet, or sets DROPPING when the pen holds no END word. -/
  | penDrop (fn : Nat) (p : Nat)
  /-- PEN_CLEAR (R279): PN_CMD.CLEAR sets RD to WR and clears PN_PACKETS, MIDPKT and DROPPING. -/
  | penClear (fn : Nat) (p : Nat)
  /-- HURDLE_INPUT_CHANGE (R287): A hurdle input takes a new filtered level, updates HU_IN and throttles ports and channels. -/
  | hurdleInputChange (k : Nat) (level : Bool)
  /-- CHANNEL_START (R312): A write of CH_CTRL.START makes a channel Ready, or is refused and sets REFUSED. -/
  | channelStart (fn : Nat) (c : Nat) (enable : Bool)
  /-- CHANNEL_DISABLE (R313): Clearing CH_CTRL.ENABLE stops a channel at once, with STOP_CAUSE 1. -/
  | channelDisable (fn : Nat) (c : Nat)
  /-- CHANNEL_RESET (R314): A write of CH_CTRL.RESET returns a channel to Idle and clears its counts and sticky bits. -/
  | channelReset (fn : Nat) (c : Nat)
  /-- LIST_ENTRY_FETCH (R298): A channel fetches its next list entry and follows a LINK, or begins moving data. -/
  | listEntryFetch (d : Nat)
  /-- ENTRY_COMPLETE (R299): An entry's transfer ends and its LENGTH and control word are written back. -/
  | entryComplete (d : Nat)
  /-- READ_COMPLETION (R310): A read completion arrives for a drover request, or is discarded and counted when its request has timed out. -/
  | readCompletion (d : Nat) (tag : Nat) (err : Bool) (data : List Byte)
  /-- COMPLETION_TIMEOUT (R310): A read, list fetch or waiting write not answered within CTO_US fails its entry with status 0x3. -/
  | completionTimeout (d : Nat) (write : Bool) (tag : Nat)
  /-- POWERDOWN_FORCE_STOP (R315): A channel still Running or Held 1 ms after a power-down or quiesce request is stopped with STOP_CAUSE 3. -/
  | powerdownForceStop (c : Nat)
  /-- LINK_UP (R335): The host link enters DL_Up, and EV832 is raised. -/
  | linkUp (rate : Nat) (width : Nat) (flit : Nat)
  /-- LINK_DOWN (R323): A hot reset or DL_Down without PERST_N applies the function-level reset scope to every function. -/
  | linkDown (hot : Bool)
  /-- LINK_RATE_CHANGE (R322): The link settles below 64 GT/s x16 or changes rate or width, updates DEGRADED and raises EV833. -/
  | linkRateChange (rate : Nat) (width : Nat) (flit : Nat)
  /-- LINK_RECOVERY (R335): The link enters Recovery, HI_RECOVERY_TALLY counts it and EV834 is raised. -/
  | linkRecovery
  /-- PCIE_ERROR_LOGGED (R335): A correctable, non-fatal or fatal error is logged and its event is raised. -/
  | pcieErrorLogged (kind : Nat)
  /-- FUNCTION_LEVEL_RESET (R330): An FLR of a capture function resets its event views, channels and pens while keeping capture. -/
  | functionLevelReset (fn : Nat)
  /-- MF_FUNCTION_LEVEL_RESET (R331): An FLR of the management function resets MF's resources, aborts data object exchange and discards an incomplete upload. -/
  | mfFunctionLevelReset
  /-- FLR_COMPLETE (R330): A function-level reset completes, and EV(841+f) is raised. -/
  | flrComplete (fn : Nat)
  /-- PARTITION_COMMIT (R325): HI_PART_CMD.COMMIT validates one function's new partition and sets RESULT. -/
  | partitionCommit (fn : Nat)
  /-- PARTITION_APPLY (R326): A validated partition is applied, moving resources to their new owners, and EV841 is raised. -/
  | partitionApply
  /-- PARTITION_REVERT (R346): HI_PART_CMD.REVERT reloads a function's HI_PART registers from the active partition. -/
  | partitionRevert (fn : Nat)
  /-- DOE_DISCOVERY (R332): A data object exchange discovery request is answered. -/
  | doeDiscovery (index : Nat)
  /-- UPLOAD_BEGIN (R333): BEGIN discards any incomplete upload and opens a new one of the declared length. -/
  | uploadBegin (mailbox : Bool) (total : Nat)
  /-- UPLOAD_DATA (R333): DATA appends payload bytes at the expected offset. -/
  | uploadData (mailbox : Bool) (offset : Nat) (data : List Byte)
  /-- UPLOAD_END (R333): END makes a complete upload the uploaded image and raises EV840. -/
  | uploadEnd (mailbox : Bool)
  /-- UPLOAD_ABORT (R333): ABORT discards the incomplete upload. -/
  | uploadAbort (mailbox : Bool)
  /-- UPLOAD_QUERY (R333): QUERY returns the upload's progress. -/
  | uploadQuery (mailbox : Bool)
  /-- UPLOAD_UNKNOWN_OP (R333): An upload object with an undefined OP is answered with status 4. -/
  | uploadUnknownOp (mailbox : Bool) (op : Nat)
  /-- EVENT_OCCURRENCE (R337): An occurrence of a source updates each view's tally, PENDING, UNDELIVERED and cause times. -/
  | eventOccurrence (src : Nat) (detail : Nat)
  /-- EVENT_HOLDOFF_EXPIRE (R338): HOLDOFF_US after the earliest undelivered occurrence, the view delivers. -/
  | eventHoldoffExpire (fn : Nat) (src : Nat)
  /-- EVENT_ENABLE (R339): Enabling a view with PENDING or UNDELIVERED set delivers at once with FLAGS bit 1. -/
  | eventEnable (fn : Nat) (src : Nat)
  /-- EVENT_RAISE (R343): A write of EV_RAISE raises a permitted software source, dated at the write. -/
  | eventRaise (fn : Nat) (src : Nat)
  /-- MSIX_UNMASK (R340): Unmasking a vector with its pending bit set sends one message. -/
  | msixUnmask (fn : Nat) (vec : Nat)
  /-- INC_COMMIT (R350): A write of TD_INC_INT commits the integer and the staged fraction as the counter's base increment. -/
  | incCommit (d : Nat) (int : Nat)
  /-- ADJUST_START (R351): A write of TD_ADJ_TICKS starts, replaces or cancels an adjustment. -/
  | adjustStart (d : Nat) (ticks : Nat)
  /-- ADJUST_END (R351): An adjustment's tick count runs out, and the counter returns to its base increment. -/
  | adjustEnd (d : Nat)
  /-- TIME_SET (R352): TD_CMD.SET gives the counter the set value at the next clock, or refuses a backward set. -/
  | timeSet (d : Nat)
  /-- SET_ON_PPS (R352): TD_CMD.SET_ON_PPS arms a set of whole seconds at the next PPS_IN rising edge. -/
  | setOnPps (d : Nat)
  /-- RESTART_SERVO (R357): TD_CMD.RESTART_SERVO clears the servo's history. -/
  | restartServo (d : Nat)
  /-- CATCHUP_END (R352): A halving catch-up ends, and the counter returns to its full increment. -/
  | catchupEnd (d : Nat)
  /-- JOIN_START (R353): A change of TB_CTRL.SEL measures the gap g, raises EV648 and steps, catches up or waits. -/
  | joinStart (sel : Nat)
  /-- JOIN_COMPLETE (R355): A catch-up join reaches the new counter, and device time follows it from then on. -/
  | joinComplete
  /-- JOIN_FORCE (R354): TB_CTRL.JOIN_FORCE takes a waiting join's step or starts its catch-up. -/
  | joinForce
  /-- JOIN_CANCEL (R354): TB_CTRL.JOIN_CANCEL restores SEL to the old counter. -/
  | joinCancel
  /-- PTP_SYNC (R358): A received Sync steps, slews or updates the servo according to its history. -/
  | ptpSync (d : Nat) (master : Nat) (gm : Nat)
  /-- PTP_ANNOUNCE (R357): A received Announce feeds master selection. -/
  | ptpAnnounce (d : Nat) (domain : Nat) (transport : Nat) (data : List Nat)
  /-- PTP_DELAY_RESPONSE (R358): A completed Delay_Resp or Pdelay exchange updates the mean path delay. -/
  | ptpDelayResponse (d : Nat) (delay : Nat)
  /-- PTP_MANAGEMENT_GET (R356): A management GET is answered from the data sets, and a SET is refused. -/
  | ptpManagementGet (d : Nat) (id : Nat) (set : Bool)
  /-- PTP_MESSAGE_TRANSMIT (R356): At each configured interval the instance sends its Sync, Delay_Req or Announce message. -/
  | ptpMessageTransmit (d : Nat) (kind : Nat)
  /-- ANNOUNCE_TIMEOUT (R357): No valid Sync within the announce receipt timeout takes a Locked servo to Holdover. -/
  | announceTimeout (d : Nat)
  /-- HOLDOVER_EXPIRE (R357): Holdover lasting HOLDOVER_S takes the servo to Free without history. -/
  | holdoverExpire (d : Nat)
  /-- PPS_IN_EDGE (R360): A PPS_IN rising edge records TB_PPS_IN, applies SET_ON_PPS and corrects the grandmaster phase. -/
  | ppsInEdge
  /-- PPS_TIMEOUT (R360): After 1.1 s without a PPS_IN edge, PPS_LOCK clears. -/
  | ppsTimeout
  /-- REFCLK_LOCK (R360): REFCLK held within ±2 ppm for 1 s sets REF_LOCK. -/
  | refclkLock
  /-- REF_SEL_CHANGE (R361): A change of TB_CTRL.REF_SEL moves the synthesiser to the new reference at no more than 10 ppm. -/
  | refSelChange (v : Nat)
  /-- PPS_OUT_PULSE (R361): At each whole second of device time, PPS_OUT rises for WIDTH_US. -/
  | ppsOutPulse
  /-- SLOT_ARM (R536): TC_CTRL.ARM arms a slot with its time, period and count, and marks it LATE when the time is already due. -/
  | slotArm (k : Nat)
  /-- SLOT_DISARM (R536): TC_CTRL.DISARM disarms a slot. -/
  | slotDisarm (k : Nat)
  /-- SLOT_FIRE (R362): A slot whose time is reached fires to its consumers with its slot time and residual, and re-arms when periodic. -/
  | slotFire (k : Nat)
  /-- ENCODER_COUNT_EDGE (R371): A filtered transition counts the position, is stamped and updates the speed. -/
  | encoderCountEdge (k : Nat) (a : Bool) (b : Bool) (sample : Nat)
  /-- ENCODER_SET (R375): EN_CMD.SET gives the counter the value of EN_SET in the next sample. -/
  | encoderSet (k : Nat)
  /-- ENCODER_SET_ON_INDEX (R375): EN_CMD.SET_ON_INDEX arms a set at the next qualified index event. -/
  | encoderSetOnIndex (k : Nat)
  /-- ENCODER_ADJUST (R375): EN_CMD.ADJUST adds EN_SET as a signed offset to the counter. -/
  | encoderAdjust (k : Nat)
  /-- CMP_RESET (R394): EN_CMD.CMP_RESET sets HEAD, TAIL and WADDR to 0. -/
  | cmpReset (k : Nat)
  /-- INDEX_EVENT (R376): A qualified index event stores the position and applies a pending SET_ON_INDEX. -/
  | indexEvent (k : Nat) (z : Bool) (sample : Nat)
  /-- LINE_FAULT (R378): An open, short or out-of-range common mode on a receiver starts or ends a line fault. -/
  | lineFault (k : Nat) (signal : Nat) (on : Bool)
  /-- HALL_STATE_CHANGE (R379): A filtered Hall state change updates HALL and flags the states 000 and 111. -/
  | hallStateChange (k : Nat) (state : Nat) (sample : Nat)
  /-- SPEED_STILL_TIMEOUT (R381): After STILL_MS without an edge, the speed reads 0 and STILL sets. -/
  | speedStillTimeout (k : Nat)
  /-- CMP_ENTRY_WRITE (R385): A write of EN_CMP_WDATA_HI stores a compare entry at WADDR, or refuses a slot in use. -/
  | cmpEntryWrite (k : Nat) (hi : Word)
  /-- CMP_TAIL_WRITE (R386): A write of EN_CMP_CTRL arms the entries up to TAIL and evaluates them for being behind. -/
  | cmpTailWrite (k : Nat) (value : Word)
  /-- HIST_SNAPSHOT_READ (R394): A read of EN_HIST_HEAD captures the 64-edge history. -/
  | histSnapshotRead (k : Nat)
  /-- SA_REQUEST_NOW (R389): SA_REQ.NOW requests an absolute-position transfer. -/
  | saRequestNow (j : Nat) (line : Bool)
  /-- SA_TRANSFER_COMPLETE (R390): A transfer ends, updating the position or flagging a parity or monoflop error. -/
  | saTransferComplete (j : Nat) (word : Nat) (parity : Bool) (high : Bool)
  /-- TRIGGER_INPUT_EDGE (R408): A filtered trigger input edge is dated and reaches the channels and freeze groups. -/
  | triggerInputEdge (n : Nat) (level : Bool) (first : Nat)
  /-- SOFTWARE_TRIGGER (R396): A write of TR_SW sends a software pulse to the named channels. -/
  | softwareTrigger (mask : Nat)
  /-- CHANNEL_PULSE (R397): Source pulses combine into a channel pulse, which passes the divider. -/
  | channelPulse (n : Nat)
  /-- ROUTE_EDGE_EMIT (R400): A route emits its output edge, control-line edge or in-band message at E less its latency. -/
  | routeEdgeEmit (n : Nat) (route : Nat)
  /-- INBAND_SEND (R402): A Torvelink trigger block is sent at the next lane-0 slot with its DELAY computed under R149. -/
  | inbandSend (P : Nat)
  /-- EXPOSURE_COMMIT_REQ (R405): TR_COMMIT.REQ validates the exposure shadow and sets PENDING, or writes REJECT. -/
  | exposureCommitReq (fn : Nat) (n : Nat)
  /-- EXPOSURE_COMMIT_CANCEL (R412): TR_COMMIT.CANCEL clears a pending exposure commit. -/
  | exposureCommitCancel (fn : Nat) (n : Nat)
  /-- EXPOSURE_COMMIT_APPLY (R406): In step 5 of the due tick, the shadow half becomes active and the exposure generation increments. -/
  | exposureCommitApply (n : Nat)
  /-- CAMERA_EXPOSURE_WRITE (R407): In step 2 of the next tick, the device writes the camera's exposure register and its generation. -/
  | cameraExposureWrite (n : Nat)
  /-- AI_CONVERT_NOW (R416): AI_START.NOW requests a conversion on the channel. -/
  | aiConvertNow (c : Nat)
  /-- CONVERSION_START (R416): A start source begins a conversion, or the start is dropped as a miss. -/
  | conversionStart (c : Nat)
  /-- CONVERSION_COMPLETE (R418): A conversion yields a calibrated sample, which goes into the sample word and threshold test. -/
  | conversionComplete (c : Nat) (raw : Nat)
  /-- RANGE_SETTLED (R417): Five microseconds after a RANGE change, SETTLING clears. -/
  | rangeSettled (c : Nat)
  /-- SAMPLE_WORD_FLUSH (R419): AI_FLUSH after T0, an open sample word closes and is pushed to the pen. -/
  | sampleWordFlush (c : Nat)
  /-- CAL_RUN_DUE (R423): A block's run becomes due at reset or on a temperature change beyond CAL_TEMP_DELTA. -/
  | calRunDue (b : Nat) (temp : Nat)
  /-- CAL_RUN (R423): CAL_CMD.RUN makes the named blocks' runs due. -/
  | calRun (blocks : Nat)
  /-- CAL_SAVE (R432): CAL_CMD.SAVE writes the coefficient set in force to flash. -/
  | calSave
  /-- CAL_OVERRIDE (R434): CAL_CMD.OVERRIDE checks the staged coefficients and applies them to the named blocks, or sets OVR_REFUSED. -/
  | calOverride (blocks : Nat)
  /-- CAL_LOAD (R434): CAL_CMD.LOAD copies the set in force into staging. -/
  | calLoad
  /-- CAL_FACTORY (R434): CAL_CMD.FACTORY copies the factory set into staging. -/
  | calFactory
  /-- CAL_GAP_CONVERSION (R427): A calibration conversion runs in an unbooked gap or in a reserve window. -/
  | calGapConversion (c : Nat) (raw : Nat)
  /-- DELAY_LINE_MEASURE (R426): A delay line measures its taps in an idle window of at least 2 µs. -/
  | delayLineMeasure (l : Nat) (counts : List Nat)
  /-- CAL_RUN_COMPLETE (R425): A block's run finishes and is accepted or rejected by its residual. -/
  | calRunComplete (b : Nat)
  /-- CAL_DEADLINE_EXPIRE (R430): A run not accepted within CAL_DEADLINE is deferred, counted and reported by an event. -/
  | calDeadlineExpire (b : Nat)
  /-- CAL_NV_SAVE_COMPLETE (R432): A coefficient flash write completes, raising EV796, or fails, raising EV797. -/
  | calNvSaveComplete (ok : Bool)
  /-- ARP_REQUEST (R440): The active path answers an ARP or neighbour solicitation for its addresses. -/
  | arpRequest (k : Nat) (v6 : Bool) (addr : List Nat)
  /-- ICMP_ECHO_REQUEST (R439): The active path answers an ICMP or ICMPv6 echo request. -/
  | icmpEchoRequest (k : Nat) (v6 : Bool) (addr : List Nat) (data : List Byte)
  /-- PAUSE_FRAME (R439): A received PAUSE frame is honoured. -/
  | pauseFrame (k : Nat) (quanta : Nat)
  /-- NEIGHBOR_RESOLVE_TIMEOUT (R441): An unresolved destination after 1 s discards its datagram and raises EV(800+16k)+12. -/
  | neighborResolveTimeout (f : Nat)
  /-- NEIGHBOR_AGE_OUT (R441): A dynamic neighbour entry unused for 300 s is removed. -/
  | neighborAgeOut (n : Nat)
  /-- FLOW_DATAGRAM_SEND (R444): A flow with a datagram ready sends it within its rate, in weighted round-robin. -/
  | flowDatagramSend (f : Nat)
  /-- FRAME_TRANSPORT_REQUEST (R447): A received request datagram queues the named frames, or is refused with a status datagram. -/
  | frameTransportRequest (k : Nat) (stream : Nat) (first : Nat) (count : Nat) (v6 : Bool) (addr : List Nat) (port : Nat)
  /-- NETWORK_FREEZE (R448): A received freeze datagram sends a network freeze request to each named group. -/
  | networkFreeze (k : Nat) (v6 : Bool) (addr : List Nat) (groups : Nat) (useT : Bool) (time : Nat)
  /-- REMOTE_CONTROL (R449): A received control datagram makes a register read or write and sends a control reply. -/
  | remoteControl (k : Nat) (v6 : Bool) (addr : List Nat) (port : Nat) (op : Nat) (off : Nat) (value : Word) (tag : Nat)
  /-- DATAGRAM_DISCARD (R450): A malformed datagram, one of a kind not accepted, or one received by the standby path is discarded and counted. -/
  | datagramDiscard (k : Nat)
  /-- FLOW_RESTART (R459): NF_CTRL.RESTART sends a resync marker with CAUSE 3 and restarts the frame in progress. -/
  | flowRestart (f : Nat)
  /-- CROOK_PULSE (R451): Every 10 µs the holder drives a crook pulse. -/
  | crookPulse (k : Nat) (back : Bool)
  /-- CROOK_SILENCE (R452): After 50 µs of silence, or its power-up listen, a healthy path drives a probe pulse to seize the crook. -/
  | crookSilence (k : Nat)
  /-- CROOK_PROBE_RETURN (R452): The probe returns within 1 µs, so the path becomes holder, announces itself and resumes its flows, or sets LOOP_FAULT. -/
  | crookProbeReturn (k : Nat) (back : Bool)
  /-- CROOK_LOOP_CHECK_FAIL (R451): A holder that sees no return of its pulses for 30 µs stops transmitting and pulsing. -/
  | crookLoopCheckFail (k : Nat)
  /-- CROOK_CONTENTION (R452): A holder that sees a foreign pulse stops, and the contention is counted. -/
  | crookContention (k : Nat)
  /-- PATH_HEALTH_LOSS (R452): A path that is no longer healthy stops pulsing at once. -/
  | pathHealthLoss (k : Nat) (txFault : Bool)
  /-- EPOCH_SNAPSHOT (R453): At each whole millisecond, the active path snapshots its state as an epoch and sends it over the mirror link. -/
  | epochSnapshot
  /-- EPOCH_RECEIVED (R453): The other path installs a received epoch when its CRC holds and its number follows. -/
  | epochReceived (k : Nat) (ok : Bool)
  /-- MIRROR_STALE (R454): A standby without an installed epoch for NP_STALE.EPOCHS ms sets MIRROR_STALE. -/
  | mirrorStale (k : Nat)
  /-- REVERT_HOLDOFF_EXPIRE (R457): Once NP0 has been healthy for NP_HOLDOFF_MS, NP1 starts handing the crook back. -/
  | revertHoldoffExpire
  /-- CROOK_RELEASE (R457): NP_CTRL.RELEASE starts a handback from the holder to a current standby. -/
  | crookRelease
  /-- SHEPHERD_BOOT (R464): After a cold or module reset, the shepherd measures the ROM, starts the firmware, loads identity and coefficients, and selects an image. -/
  | shepherdBoot
  /-- SPDM_GET_VERSION (R469): GET_VERSION is answered with version 1.2. -/
  | spdmGetVersion (smbus : Bool)
  /-- SPDM_GET_CAPABILITIES (R469): GET_CAPABILITIES is answered. -/
  | spdmGetCapabilities (smbus : Bool)
  /-- SPDM_NEGOTIATE_ALGORITHMS (R469): NEGOTIATE_ALGORITHMS selects P-384 and SHA-384. -/
  | spdmNegotiateAlgorithms (smbus : Bool)
  /-- SPDM_GET_DIGESTS (R469): GET_DIGESTS returns the digest of certificate slot 0. -/
  | spdmGetDigests (smbus : Bool)
  /-- SPDM_GET_CERTIFICATE (R469): GET_CERTIFICATE returns the chain of R471. -/
  | spdmGetCertificate (smbus : Bool) (slot : Nat) (off : Nat) (len : Nat)
  /-- SPDM_CHALLENGE (R469): CHALLENGE is answered with a signed response. -/
  | spdmChallenge (smbus : Bool) (slot : Nat) (nonce : List Byte)
  /-- SPDM_GET_MEASUREMENTS (R469): GET_MEASUREMENTS returns measurement blocks taken at one instant, signed. -/
  | spdmGetMeasurements (smbus : Bool) (op : Nat) (sign : Bool) (nonce : List Byte)
  /-- SPDM_RESPOND_IF_READY (R469): RESPOND_IF_READY returns a deferred response. -/
  | spdmRespondIfReady (smbus : Bool) (code : Nat) (token : Nat)
  /-- SPDM_UNSUPPORTED_REQUEST (R469): An unsupported SPDM request is answered with ERROR UnsupportedRequest. -/
  | spdmUnsupportedRequest (smbus : Bool) (code : Nat)
  /-- MCTP_SET_ENDPOINT_ID (R470): Set Endpoint ID sets the MCTP endpoint ID. -/
  | mctpSetEndpointId (eid : Nat)
  /-- MCTP_GET_ENDPOINT_ID (R470): Get Endpoint ID returns the endpoint ID. -/
  | mctpGetEndpointId
  /-- MCTP_GET_VERSION_SUPPORT (R470): Get MCTP Version Support is answered. -/
  | mctpGetVersionSupport
  /-- MCTP_GET_MESSAGE_TYPE_SUPPORT (R470): Get Message Type Support reports SPDM. -/
  | mctpGetMessageTypeSupport
  /-- FIRMWARE_BEGIN (R478): Mailbox OP 0x10 opens a firmware upload. -/
  | firmwareBegin (total : Nat)
  /-- FIRMWARE_DATA (R478): Mailbox OP 0x11 appends firmware bytes. -/
  | firmwareData (offset : Nat) (data : List Byte)
  /-- FIRMWARE_END (R466): Mailbox OP 0x12 writes the firmware to the slot that is not running and raises EV871. -/
  | firmwareEnd (fail : Bool)
  /-- FIRMWARE_ABORT (R478): Mailbox OP 0x14 discards the firmware upload. -/
  | firmwareAbort
  /-- SHEPHERD_RESTART (R477): Mailbox OP 0x13 restarts the shepherd firmware, or is refused during an activation. -/
  | shepherdRestart
  /-- READ_LOG_ENTRY (R478): Mailbox OP 0x20 reads a measurement log entry into SH_MB_DATA. -/
  | readLogEntry (entry : Nat)
  /-- WATCHDOG_EXPIRE (R477): A watchdog left unserviced for 2 s restarts the shepherd and counts in SH_WDOG_TALLY. -/
  | watchdogExpire
  /-- THERMAL_SAMPLE (R473): Every 100 µs the thermal controller reads its 12 sensors. -/
  | thermalSample (temps : List Nat)
  /-- HEALTH_LOG_WRITE (R476): Every 60 s, and at each trip, the lifetime tallies are appended to the health log. -/
  | healthLogWrite (fail : Bool)
  /-- COLD_RESET (R487): 12 V becoming good starts a cold reset with the paddock empty and the counters at zero. -/
  | coldReset (mv : Nat)
  /-- V12_LOSS (R483): 12 V below 10.5 V for 20 µs unpowers every domain but always-on, and the paddock contents are lost. -/
  | v12Loss
  /-- V12_RANGE_CHANGE (R483): 12 V leaves or returns to its operating range, setting UV_WARN or OV_WARN and raising EV912. -/
  | v12RangeChange (mv : Nat)
  /-- AUX_SUPPLY_CHANGE (R501): The auxiliary supply is lost or returns, and EV913 is raised. -/
  | auxSupplyChange (present : Bool)
  /-- POWER_DOWN_REQUEST (R485): Clearing a GLB_PWR_REQ bit starts powering a domain down, or is refused with a REASON. -/
  | powerDownRequest (d : Nat)
  /-- POWER_DOWN_COMPLETE (R485): The domain goes off once its channels have stopped, and EV896 is raised. -/
  | powerDownComplete (d : Nat)
  /-- POWER_UP_REQUEST (R486): Setting a GLB_PWR_REQ bit starts powering a domain up. -/
  | powerUpRequest (d : Nat)
  /-- POWER_UP_COMPLETE (R486): The domain comes up, its ports, path or fold start afresh, and EV896 is raised. -/
  | powerUpComplete (d : Nat)
  /-- MODULE_RESET_ASSERT (R488): MRST_N or PERST_N held low for 1 µs idles outputs, stops intake and puts the paddock into self-refresh. -/
  | moduleResetAssert (line : Nat)
  /-- MODULE_RESET_RELEASE (R488): Release of both reset lines starts the start-up sequence and the recovery scan. -/
  | moduleResetRelease (line : Nat)
  /-- WARM_RESET (R489): GLB_RESET.WARM starts the stopping phase of a warm reset. -/
  | warmReset
  /-- WARM_RESET_RELOAD (R489): After stopping, non-kept fields return to their reset values, presets are reapplied and index 4 is extended. -/
  | warmResetReload
  /-- MODULE_UNSEATING (R495): PRSNT2_N high for 2 µs idles outputs, holds flash writes, stops the network and clears SEATED. -/
  | moduleUnseating
  /-- MODULE_RESEATED (R495): PRSNT2_N low again for 10 ms with 12 V held releases the outputs and sets SEATED. -/
  | moduleReseated
  /-- MODULE_REMOVAL (R496): Removal of the module at any moment loses the paddock, and the next insertion is a cold reset. -/
  | moduleRemoval
  /-- CAGE_MODULE_INSERT (R497): ModPrsL asserting detects a cage module and starts its low-power identification. -/
  | cageModuleInsert (c : Nat)
  /-- CAGE_MODULE_READY (R497): The module's identity and power are read, and it is released to high power or refused. -/
  | cageModuleReady (c : Nat) (kind : Nat) (class_ : Nat)
  /-- CAGE_MODULE_REMOVE (R498): ModPrsL deasserting switches off the module rail and clears the cage state. -/
  | cageModuleRemove (c : Nat)
  /-- CAGE_RAIL_FAULT (R499): A rail overcurrent or undervoltage for 50 µs switches the rail off and sets FAULT. -/
  | cageRailFault (c : Nat)
  /-- EXCHANGE_LOCK_LOSS_TIMEOUT (R114): A participating lane of a port in Exchange that has been without BLOCK_LOCK for 1 ms fails the attempt with cause 0x0B. -/
  | exchangeLockLossTimeout (P : Nat) (lane : Nat)
  /-- NETWORK_PATH_LINK_UP (R455): A network path regains its PCS block lock and FEC lock, becomes healthy, raises its link-up event and leaves Down for Syncing. -/
  | networkPathLinkUp (k : Nat)
  /-- NEIGHBOR_REPLY (R441): A received ARP reply or neighbour advertisement resolves a pending address into the path's neighbour table. -/
  | neighborReply (k : Nat) (v6 : Bool) (addr : List Nat) (mac : Nat)
  /-- REFCLK_LOST (R360): REFCLK leaves ±2 ppm of 10 MHz or disappears, REF_LOCK clears and EV654 is raised. -/
  | refclkLost
  /-- PP_SER_BYTE_SENT (R181): The parallel port's serial channel finishes sending a byte on PP_SERTC and takes the next one from the transmit FIFO. -/
  | ppSerByteSent
  /-- WRITE_CREDIT_RETURN (R293): The host link returns posted-write credit, or a target accepts a write, and a channel Held on write credit can issue again. -/
  | writeCreditReturn (d : Nat) (n : Nat)
deriving DecidableEq, Repr

end Sys2Proof
end

