-- ==== Sys2Proof/Decode.lean ====
section
/-!
DEFINITION. What a word spells by the command table's bits. The table gives no row any bits: the block has no
instruction words, and commands reach it as they are (R6–R8 lay down accesses, not encodings of commands).
-/
namespace Sys2Proof

/-- The command that a word of `nbits` bits spells: no row of the table gives bits, so no word spells one. -/
def decodeTableWord (_nbits _w : Nat) : Option Instr := none

end Sys2Proof
end

