-- ==== Sys2Proof/Config.lean ====
section
/-!
DEFINITION. What a part fixes and what the spec leaves open: constants with no body, so that nothing can be
proved of their value (R9's Part entries; the free values of the assumption log).
-/
namespace Sys2Proof.Config

/-- GLB_IDENT.GRADE of this part: 0 for SV9648-C, 1 for SV9648-X (R1, R2). -/
opaque grade : Fin 2

/-- GLB_IDENT.STEPPING of this part less one (R2: counted from 0x1). -/
opaque steppingLess1 : Fin 15

/-- GLB_IDENT.MODREV of this part less one (R2: counted from 0x1). -/
opaque modrevLess1 : Fin 15

/-- PP_CC_LATENCY of this part (R180). -/
opaque ccLatency : Fin (2 ^ 32)

/-- The device MAC address in NP_MAC (R440). -/
opaque mac : Fin (2 ^ 48)

/-- The fixed receiver delay of the position inputs, set at the factory, in 2^-16 ns (R380). -/
opaque encoderDelay : Nat

/-- The fixed receiver delay of the trigger inputs, set at the factory, in 2^-16 ns (R408). -/
opaque triggerDelay : Nat

/-- Word `i` of the factory coefficient set (R432). -/
opaque factoryWord (i : Nat) : BitVec 32

/-! Free values. The first argument is the number of the draw (log entry 1). -/

/-- The base increment a servo's loop gives, from the increment in force and the offset (R358). -/
opaque servoIncrement (draw base : Nat) (offset : Int) : Nat

/-- What stage 2 makes of a pixel that a map entry of the reserved KIND 3 covers (R193). -/
opaque reservedDefect (x y value : Nat) : Nat

/-- From a request to the first falling clock edge of its transfer, in 2^-16 ns: within 50 ns (R389). -/
opaque absStart (draw : Nat) : Fin 3276801

/-- From a slot's firing to its pulse at a trigger channel, in 2^-16 ns: at most 2.5 ns (R396). -/
opaque slotReach (draw : Nat) : Fin 163841

/-- From a channel pulse to its issue, in 2^-16 ns: at most 20 ns (R398). -/
opaque issueDelay (draw : Nat) : Fin 1310721

/-- Where a lane's 66-bit block slots lie, in 2^-16 ns: taken modulo the block period (R400–R402). -/
opaque blockPhase (draw : Nat) : Nat

/-- ZERO of a delay line, signed ps in 32 bits, as a line run writes it (R426). -/
opaque lineZero (draw : Nat) : BitVec 32

/-- GROUP bits 3 to 0 in the record of a stream without a freeze group (R255). -/
opaque noGroup : Fin 16

/-- A tag of a record for which nothing has been recorded: an encoder without an edge, an absolute channel without a
good word, an analogue channel without a sample (R384, R391, R420). -/
opaque absentTag (draw : Nat) : BitVec 64

/-- The 16 bytes of a zone that holds no pixel of a plane (R220). -/
opaque emptyZone : BitVec 128

/-- A dark level of a plane none of whose pixels lies in the dark rows (R191). -/
opaque emptyDark (draw : Nat) : BitVec 24

/-- Disagreements and bits counted by an eye scan that is cut short (R93, R94). -/
opaque scanPartial (draw : Nat) : BitVec 32

/-- Posted host writes that a drover may have without their credit, less one: one eighth of a credit that the spec gives
no number for (R316). -/
opaque postedLimit : Nat

/-- CH_ENTRIES and the two words of CH_BYTES after a channel has been stopped at once (R313). -/
opaque stoppedCount (draw : Nat) : BitVec 32

/-- The digest of the module ROM (R464). -/
opaque romDigest : BitVec 384

/-- The digest of the factory image (R57, R70). -/
opaque factoryDigest : BitVec 384

/-- The identity region and the certificate chain in it (R471). -/
opaque identity : List (BitVec 8)
opaque certificates : List (BitVec 8)

/-- SEQ and digest of the firmware that the part comes with (R465): SEQ is not zero. -/
opaque shippedSeq : Fin 4294967295
opaque shippedDigest : BitVec 384

/-- A signature by the identity key, and the nonce the responder adds (R469). -/
opaque signature (draw : Nat) : BitVec 768
opaque nonce (draw : Nat) : BitVec 256

/-- The value types of the measurement blocks, and the sizes that CAPABILITIES reports, to which the spec gives no value
(R469). -/
opaque measurementType (block : Nat) : Fin 128
opaque spdmSizes : BitVec 64

/-- The progress word of a mailbox operation to which no rule gives one (R478). -/
opaque mailboxProgress (draw : Nat) : BitVec 32

/-- What the drawers of power draw: GLB_SUPPLY.POWER (R502). -/
opaque inputPower (draw : Nat) : Fin 65536

/-- Where the fold header of a network path stands, to which the spec gives no window (R25, R461). -/
opaque pathHeader (path : Nat) : BitVec 32

end Sys2Proof.Config
end

