-- ==== Sys2Proof/Machine/RegMap.lean ====
section
/-!
DEFINITION. The register map as data (R529): every block's windows, the registers in them, and every field's
bits, access code (R8), reset value (R9, R533) and defined encodings (R11).
-/
namespace Sys2Proof.Machine

/-- The access codes of R8. -/
inductive Acc
  | rw | ro | w1c | w1s | wo | rc | rwk | rok
deriving DecidableEq, Repr

/-- What the Reset column of a field says (R9, R533): a number, the part, the structure image, the health log
or the coefficient set. -/
inductive Src
  | num | part | img | log | loaded
deriving DecidableEq, Repr

/-- The encodings the Meaning column of a field defines (R11). -/
inductive Legal
  | any
  | range (lo hi : Nat)
  | ranges (l : List (Nat × Nat))
  | multiple (of lo hi : Nat)
  | divisor (of lo hi : Nat)
  /-- two's complement in `width` bits, from −neg to +pos -/
  | signedRange (width neg pos : Nat)
deriving DecidableEq, Repr

/-- A field of a register. -/
structure Field where
  hi : Nat
  lo : Nat
  acc : Acc
  reset : Nat := 0
  src : Src := .num
  legal : Legal := .any
deriving DecidableEq, Repr

/-- A register of a block's window, or an array of `count` registers `stride` apart; `word` is its place in a
wide value (0 for the lowest word) and `words` how many words that value has (R7). -/
structure RegDef where
  off : Nat
  stride : Nat := 0
  count : Nat := 1
  fields : List Field
  word : Nat := 0
  words : Nat := 1
deriving DecidableEq, Repr

/-- A block: `count` windows `stride` apart, each with `count2` inner windows `stride2` apart. -/
structure Block where
  base : Nat
  stride : Nat := 0
  count : Nat := 1
  stride2 : Nat := 0
  count2 : Nat := 1
  regs : List RegDef
deriving DecidableEq, Repr

/-- A field of a register map, its reset value a number. -/
def fl (hi lo : Nat) (acc : Acc) (reset : Nat := 0) (legal : Legal := .any) : Field :=
  ⟨hi, lo, acc, reset, .num, legal⟩

/-- A field whose reset value comes from elsewhere (R533). -/
def fi (hi lo : Nat) (acc : Acc) (src : Src) (legal : Legal := .any) : Field :=
  ⟨hi, lo, acc, 0, src, legal⟩


/-- The fold header block (R25). -/
def headerRegs : List RegDef := [
  { off := 0x0, fields := [fi 31 16 .ro .img, fi 15 8 .ro .img, fl 7 0 .ro 1] },
  { off := 0x4, fields := [fi 31 16 .ro .img, fi 15 8 .ro .img, fi 7 0 .ro .img] },
  { off := 0x8, fields := [fi 31 0 .ro .img] },
  { off := 0xC, fields := [fi 31 0 .ro .img] },
  { off := 0x10, fields := [fi 31 0 .ro .img] },
  { off := 0x14, fields := [fl 2 2 .rw, fl 1 1 .wo, fi 0 0 .rw .img] },
  { off := 0x18, fields := [fl 7 4 .ro, fi 3 2 .ro .img, fl 1 1 .ro, fl 0 0 .ro] },
  { off := 0x1C, fields := [fi 31 16 .ro .img, fi 15 0 .ro .img] },
  { off := 0x20, fields := [fi 31 0 .ro .img] },
  { off := 0x24, fields := [fi 31 0 .ro .img] },
  { off := 0x28, fields := [fi 31 0 .ro .img] },
  { off := 0x2C, fields := [fi 31 0 .ro .img] },
  { off := 0x30, fields := [fi 31 0 .ro .img] },
  { off := 0x34, fields := [fi 31 0 .ro .img] },
  { off := 0x38, fields := [fi 31 0 .ro .img] }]

def glbRegs0 : List RegDef := [
  { off := 0x0, fields := [fl 31 16 .ro 38472, fi 15 12 .ro .part, fi 11 8 .ro .part, fi 7 4 .ro .part] },
  { off := 0x8, fields := [fl 31 0 .rc] },
  { off := 0x100, fields := [fl 31 31 .ro, fl 19 0 .rwk 1000 (.divisor 1000000000 100 1000000)] },
  { off := 0x104, fields := [fl 19 0 .ro] },
  { off := 0x108, fields := [fl 19 0 .rc] },
  { off := 0x10C, fields := [fl 19 0 .ro 760] },
  { off := 0x110, fields := [fl 31 0 .rc] },
  { off := 0x114, fields := [fl 31 0 .rc] },
  { off := 0x200, fields := [fl 31 31 .wo, fl 30 30 .ro, fl 7 4 .ro] },
  { off := 0x204, fields := [fl 31 28 .rok, fl 27 27 .rok, fl 26 26 .rok] },
  { off := 0x210, fields := [fl 31 31 .rwk, fl 24 24 .rwk 1, fl 23 16 .rwk 255, fl 9 8 .rwk 3, fl 5 0 .rwk 63] },
  { off := 0x214, fields := [fl 31 31 .ro, fl 30 30 .w1c, fl 29 26 .ro, fl 24 24 .ro, fl 23 16 .ro, fl 9 8 .ro, fl 7 7 .ro, fl 6 6 .ro, fl 5 0 .ro] },
  { off := 0x218, fields := [fl 31 16 .ro, fl 15 0 .ro] },
  { off := 0x21C, fields := [fl 31 31 .ro, fl 30 30 .ro, fl 29 29 .ro, fl 28 28 .w1c, fl 27 27 .w1c] },
  { off := 0x220, stride := 0x4, count := 8, fields := [fl 31 0 .ro] },
  { off := 0x240, fields := [fl 31 0 .ro] },
  { off := 0x260, stride := 0x4, count := 8, fields := [fl 31 31 .ro, fl 30 30 .ro, fl 29 29 .w1c, fl 28 28 .w1c, fl 27 24 .ro, fl 23 16 .ro, fl 0 0 .rwk 1] },
  { off := 0x400, fields := [fl 31 31 .ro, fl 30 30 .ro, fl 29 29 .ro, fl 19 16 .ro, fl 4 0 .ro] },
  { off := 0x408, fields := [fl 31 0 .rc] },
  { off := 0x40C, fields := [fl 31 0 .rc] },
  { off := 0x410, fields := [fl 31 0 .rc] },
  { off := 0x414, fields := [fl 31 0 .rc] },
  { off := 0xA00, fields := [fl 31 31 .wo, fl 30 30 .wo, fl 29 29 .ro, fl 11 8 .rw 1 (.range 1 8), fl 3 0 .ro] }]

/-- R2, R37, R346, R502, R503, R530. -/
def glbBlock : Block :=
  { base := 0x0, stride := 0x0, count := 1, stride2 := 0x0, count2 := 1, regs := glbRegs0 }

def partRegs0 : List RegDef := [
  { off := 0x0, fields := [fi 15 0 .rw .img] },
  { off := 0x4, fields := [fi 16 0 .rw .img (.range 0 65536)] },
  { off := 0x8, fields := [fi 28 16 .rw .img, fi 11 0 .rw .img] },
  { off := 0xC, fields := [fi 15 0 .rw .img (.range 4096 49151)] },
  { off := 0x10, fields := [fi 15 0 .rw .img] },
  { off := 0x14, stride := 0x4, count := 4, fields := [fi 31 0 .rw .img] }]

/-- R346. -/
def partBlock : Block :=
  { base := 0x800, stride := 0x40, count := 8, stride2 := 0x0, count2 := 1, regs := partRegs0 }

def strRegs0 : List RegDef := [
  { off := 0x0, fields := [fl 31 31 .wo, fl 30 30 .wo, fl 29 29 .wo, fl 11 8 .rw 10, fl 1 0 .rw] },
  { off := 0x4, fields := [fl 31 28 .ro, fl 27 27 .ro, fl 26 24 .ro, fl 23 20 .ro, fl 3 2 .ro, fi 1 0 .ro .img] },
  { off := 0x8, fields := [fl 31 24 .ro, fl 23 0 .ro] },
  { off := 0xC, fields := [fi 31 0 .ro .img] },
  { off := 0x10, stride := 0x8, count := 2, fields := [fi 1 1 .ro .part, fi 0 0 .ro .part] },
  { off := 0x14, stride := 0x8, count := 2, fields := [fi 31 0 .ro .part] },
  { off := 0x20, fields := [fi 31 0 .ro .img] },
  { off := 0x24, fields := [fl 31 0 .ro] }]

/-- R58. -/
def strBlock : Block :=
  { base := 0x100000, stride := 0x0, count := 1, stride2 := 0x0, count2 := 1, regs := strRegs0 }

def lnRegs0 : List RegDef := [
  { off := 0x40, fields := [fl 7 7 .rw, fl 6 6 .rw, fi 5 5 .rw .img, fi 4 4 .rw .img, fi 2 0 .rw .img (.range 1 4)] },
  { off := 0x44, fields := [fl 31 26 .ro, fl 7 7 .ro, fl 6 6 .ro, fl 5 5 .ro, fl 4 4 .ro, fl 3 3 .ro, fl 2 0 .ro] },
  { off := 0x48, fields := [fl 31 31 .ro, fi 1 0 .rw .img (.range 1 3)] },
  { off := 0x4C, fields := [fl 31 31 .ro, fi 23 16 .rw .img (.range 0 31), fi 15 8 .rw .img (.range 16 63), fi 7 0 .rw .img (.range 0 15)] },
  { off := 0x50, fields := [fi 23 16 .rw .img (.range 0 31), fi 15 8 .rw .img (.range 16 63), fi 7 0 .rw .img (.range 0 15)] },
  { off := 0x54, fields := [fi 9 8 .rw .img, fi 3 0 .rw .img] },
  { off := 0x58, fields := [fl 31 26 .rw 0 (.signedRange 6 31 31), fl 25 20 .rw 0 (.signedRange 6 31 31), fl 19 14 .rw 0 (.signedRange 6 31 31), fl 13 8 .rw 0 (.signedRange 6 31 31), fl 7 0 .rw 0 (.signedRange 8 63 63)] },
  { off := 0x5C, fields := [fl 27 24 .rw 2 (.range 1 15), fl 23 16 .rw 16 (.range 1 128), fl 10 8 .rw 4, fi 1 0 .rw .img (.range 0 2)] },
  { off := 0x60, fields := [fl 8 0 .ro] },
  { off := 0x64, fields := [fl 19 0 .rw 100 (.range 1 1000000)] },
  { off := 0x68, fields := [fl 31 0 .rc] },
  { off := 0x6C, fields := [fl 16 16 .w1c, fl 14 8 .wo 0 (.range 0 65), fl 0 0 .rw] },
  { off := 0x70, fields := [fl 26 16 .ro, fl 6 0 .ro] },
  { off := 0x74, fields := [fl 31 0 .rc] },
  { off := 0x78, fields := [fl 31 0 .rc] },
  { off := 0x7C, fields := [fl 23 0 .ro] },
  { off := 0x80, fields := [fl 31 31 .wo, fl 30 30 .wo, fl 20 16 .rw 0 (.range 0 20), fl 14 8 .rw 0 (.signedRange 7 63 63), fl 6 0 .rw 0 (.signedRange 7 32 31)] },
  { off := 0x84, fields := [fl 31 20 .ro, fl 4 4 .ro, fl 3 1 .ro, fl 0 0 .ro] },
  { off := 0x88, fields := [fl 31 0 .ro] },
  { off := 0x8C, fields := [fl 31 0 .ro], word := 0, words := 2 },
  { off := 0x90, fields := [fl 31 0 .ro], word := 1, words := 2 },
  { off := 0x94, fields := [fl 8 8 .ro, fl 6 4 .rw 0 (.range 0 2), fl 2 0 .rw 0 (.range 0 3)] },
  { off := 0x98, fields := [fl 31 0 .rc] },
  { off := 0x9C, fields := [fl 17 16 .ro, fl 15 0 .rc] }]

/-- R102. -/
def lnBlock : Block :=
  { base := 0x200000, stride := 0x1000, count := 56, stride2 := 0x0, count2 := 1, regs := headerRegs ++ lnRegs0 }

/-- R125. -/
def pthBlock : Block :=
  { base := 0x300000, stride := 0x2000, count := 31, stride2 := 0x0, count2 := 1, regs := headerRegs }

def ptpRegs0 : List RegDef := [
  { off := 0x100, fields := [fi 15 0 .ro .img] },
  { off := 0x104, fields := [fl 31 31 .rw, fl 17 16 .rw 0 (.range 0 2), fl 15 0 .rw] }]

/-- R184. -/
def ptpBlock : Block :=
  { base := 0x300000, stride := 0x2000, count := 25, stride2 := 0x0, count2 := 1, regs := ptpRegs0 }

def ptRegs1 : List RegDef := [
  { off := 0x40, fields := [fl 31 31 .wo, fl 8 8 .rw] },
  { off := 0x44, fields := [fl 31 28 .ro, fl 27 27 .ro, fl 23 21 .ro, fl 20 16 .ro, fl 14 12 .ro, fl 10 8 .ro, fl 7 4 .ro] },
  { off := 0x48, fields := [fl 31 28 .ro, fl 15 8 .ro 255, fl 7 0 .ro] },
  { off := 0x4C, fields := [fl 31 0 .rc] },
  { off := 0x50, fields := [fl 31 0 .rc] },
  { off := 0x54, fields := [fl 31 0 .rc] },
  { off := 0x58, fields := [fl 31 0 .rc] },
  { off := 0x5C, fields := [fl 31 0 .rc] },
  { off := 0x60, fields := [fl 31 0 .rc] },
  { off := 0x64, fields := [fl 31 0 .ro] },
  { off := 0x68, fields := [fl 31 0 .ro] },
  { off := 0x6C, fields := [fl 31 0 .ro], word := 0, words := 2 },
  { off := 0x70, fields := [fl 31 0 .ro], word := 1, words := 2 },
  { off := 0x74, fields := [fl 15 0 .ro] },
  { off := 0x78, fields := [fi 31 0 .rw .img (.range 0 4000000000)] },
  { off := 0x80, fields := [fl 31 0 .ro] },
  { off := 0x84, fields := [fl 31 0 .ro] },
  { off := 0x88, fields := [fl 31 0 .rc] },
  { off := 0x8C, fields := [fl 31 0 .rc] },
  { off := 0x90, fields := [fl 31 31 .wo, fl 9 0 .rw 50 (.range 1 1000)] },
  { off := 0x94, fields := [fl 31 0 .rc] },
  { off := 0x98, fields := [fl 31 0 .rc] },
  { off := 0x9C, fields := [fl 31 0 .rc] },
  { off := 0xA0, fields := [fl 31 0 .ro] }]

def ptRegs2 : List RegDef := [
  { off := 0xA4, fields := [fl 31 16 .ro, fl 15 8 .ro, fl 4 0 .ro] },
  { off := 0x110, fields := [fl 31 0 .rw 0 (.multiple 4 0 4294967295)], word := 0, words := 2 },
  { off := 0x114, fields := [fl 31 0 .rw], word := 1, words := 2 },
  { off := 0x118, fields := [fl 31 31 .wo, fl 30 30 .rw, fl 10 0 .rw 4 (.multiple 4 4 1024)] },
  { off := 0x11C, fields := [fl 31 31 .ro, fl 30 30 .w1c, fl 3 0 .ro] },
  { off := 0x400, stride := 0x4, count := 256, fields := [fl 31 0 .rw] }]

/-- R125, R156, R184. -/
def ptBlock : Block :=
  { base := 0x300000, stride := 0x2000, count := 24, stride2 := 0x0, count2 := 1, regs := ptRegs1 ++ ptRegs2 }

def ppRegs0 : List RegDef := [
  { off := 0x120, fields := [fl 8 8 .rw 1, fl 7 6 .rw, fl 3 0 .rw 1 (.range 1 10)] },
  { off := 0x124, fields := [fl 4 0 .rw 8 (.ranges [(8, 8), (10, 10), (12, 12), (14, 14), (16, 16)])] },
  { off := 0x128, fields := [fl 3 3 .ro, fl 2 0 .ro] },
  { off := 0x12C, fields := [fl 10 8 .wo 0 (.range 0 6), fl 5 4 .rw 0 (.range 0 2), fl 0 0 .rw] },
  { off := 0x130, fields := [fl 31 30 .rw, fl 28 24 .rw 0 (.range 0 23), fl 23 22 .rw, fl 20 16 .rw 0 (.range 0 23), fl 15 14 .rw, fl 12 8 .rw 0 (.range 0 23), fl 7 6 .rw, fl 4 0 .rw 0 (.range 0 23)] },
  { off := 0x134, fields := [fl 19 0 .rw 9600 (.range 9600 921600)] },
  { off := 0x138, fields := [fl 7 0 .wo] },
  { off := 0x13C, fields := [fl 8 8 .rc, fl 7 0 .rc] },
  { off := 0x140, fields := [fl 26 26 .w1c, fl 25 25 .w1c, fl 24 24 .w1c, fl 20 12 .ro, fl 8 0 .ro] },
  { off := 0x144, fields := [fi 31 0 .ro .part] },
  { off := 0x148, fields := [fi 31 0 .rw .img (.range 0 4000000000)] },
  { off := 0x14C, fields := [fl 31 0 .rc] },
  { off := 0x150, fields := [fl 31 0 .rc] }]

/-- R184. -/
def ppBlock : Block :=
  { base := 0x330000, stride := 0x0, count := 1, stride2 := 0x0, count2 := 1, regs := ppRegs0 }

def stRegs1 : List RegDef := [
  { off := 0x0, fields := [fi 31 31 .rw .img, fl 28 24 .rw 0 (.range 0 24), fl 0 0 .rw 1] },
  { off := 0x4, fields := [fi 31 16 .ro .img, fi 15 0 .ro .img] },
  { off := 0x8, fields := [fi 31 0 .ro .img] },
  { off := 0xC, fields := [fi 31 0 .ro .img] },
  { off := 0x10, fields := [fl 31 0 .rw 1000000 (.range 1 16777215)] },
  { off := 0x14, fields := [fl 31 0 .rw 2000 (.range 1 65535)] },
  { off := 0x18, fields := [fi 31 0 .rw .img] },
  { off := 0x1C, fields := [fi 31 0 .rw .img] },
  { off := 0x20, fields := [fl 31 0 .rok], word := 0, words := 2 },
  { off := 0x24, fields := [fl 31 0 .rok], word := 1, words := 2 },
  { off := 0x28, fields := [fl 31 31 .ro, fl 30 30 .ro, fl 29 29 .ro, fl 15 0 .ro] },
  { off := 0x2C, fields := [fl 6 4 .ro, fl 3 0 .ro] },
  { off := 0x30, fields := [fl 31 0 .rc] },
  { off := 0x34, fields := [fl 31 0 .rc] },
  { off := 0x38, fields := [fl 31 0 .rc] },
  { off := 0x3C, fields := [fl 31 0 .rc] },
  { off := 0x40, fields := [fl 31 0 .rc] },
  { off := 0x44, fields := [fl 31 0 .rc] },
  { off := 0x48, fields := [fl 31 0 .rc] },
  { off := 0x4C, fields := [fl 31 0 .rc] },
  { off := 0x50, fields := [fl 31 0 .rc] },
  { off := 0x54, fields := [fl 31 0 .rc] },
  { off := 0x58, fields := [fl 31 0 .rc] },
  { off := 0x5C, fields := [fl 31 0 .rc] }]

def stRegs2 : List RegDef := [
  { off := 0x60, fields := [fl 31 0 .rc] }]

/-- R184. -/
def stBlock : Block :=
  { base := 0x300800, stride := 0x2000, count := 25, stride2 := 0x100, count2 := 4, regs := stRegs1 ++ stRegs2 }

def fxRegs0 : List RegDef := [
  { off := 0x40, fields := [fl 1 1 .rw 1, fl 0 0 .rw 1] },
  { off := 0x44, fields := [fi 24 16 .ro .img, fl 10 8 .ro, fl 7 0 .ro] },
  { off := 0x48, fields := [fl 31 0 .ro 20000] },
  { off := 0x4C, fields := [fl 31 0 .ro] },
  { off := 0x50, fields := [fl 31 0 .rc] },
  { off := 0x54, fields := [fl 31 0 .rc] },
  { off := 0x80, stride := 0x4, count := 8, fields := [fl 31 0 .w1c] }]

/-- R213. -/
def fxBlock : Block :=
  { base := 0x400000, stride := 0x20000, count := 8, stride2 := 0x0, count2 := 1, regs := headerRegs ++ fxRegs0 }

/-- R213. -/
def fxjBlock : Block :=
  { base := 0x400800, stride := 0x40000, count := 4, stride2 := 0x0, count2 := 1, regs := headerRegs }

/-- R213. -/
def fxgBlock : Block :=
  { base := 0x401000, stride := 0x20000, count := 8, stride2 := 0x1000, count2 := 6, regs := headerRegs }

def fxcRegs1 : List RegDef := [
  { off := 0x0, fields := [fl 31 31 .wo, fl 30 30 .wo, fl 29 29 .ro, fl 28 28 .ro, fl 3 0 .ro] },
  { off := 0x4, fields := [fl 31 31 .ro 1, fl 30 30 .ro, fl 29 29 .ro, fi 10 8 .ro .img, fl 6 0 .ro 127] },
  { off := 0x8, fields := [fl 15 0 .rok] },
  { off := 0xC, fields := [fl 31 0 .rw] },
  { off := 0x10, fields := [fl 31 0 .ro] },
  { off := 0x14, stride := 0x4, count := 4, fields := [fl 23 0 .ro] },
  { off := 0x28, fields := [fl 31 0 .rc] },
  { off := 0x2C, fields := [fl 31 0 .rc] },
  { off := 0x30, fields := [fl 31 0 .rc] },
  { off := 0x34, fields := [fl 31 0 .rc] },
  { off := 0x38, fields := [fl 31 0 .rc] },
  { off := 0x3C, fields := [fl 31 0 .rc] },
  { off := 0x40, fields := [fi 31 0 .rw .img] },
  { off := 0x44, fields := [fl 4 4 .rw, fl 3 3 .rw, fl 2 2 .rw, fl 1 1 .rw, fl 0 0 .rw] },
  { off := 0x48, fields := [fl 31 16 .rw, fl 15 0 .rw] },
  { off := 0x4C, fields := [fl 31 16 .rw, fl 14 8 .rw 1, fl 3 0 .rw] },
  { off := 0x50, fields := [fl 26 0 .rw] },
  { off := 0x54, fields := [fl 26 0 .rw] },
  { off := 0x58, fields := [fl 20 0 .rw] },
  { off := 0x5C, fields := [fl 26 0 .rw] },
  { off := 0x60, fields := [fl 31 24 .rw 2, fl 23 16 .rw 2, fl 11 8 .rw 10, fl 3 0 .rw 10] },
  { off := 0x64, fields := [fl 31 16 .rw, fl 15 0 .rw] },
  { off := 0x68, fields := [fi 31 16 .rw .img, fi 15 0 .rw .img] },
  { off := 0x6C, fields := [fl 5 4 .rw 0 (.range 0 2), fl 3 2 .rw 0 (.range 0 2), fl 1 1 .rw, fl 0 0 .rw] }]

def fxcRegs2 : List RegDef := [
  { off := 0x70, fields := [fi 31 16 .rw .img, fi 15 0 .rw .img] },
  { off := 0x74, fields := [fi 10 8 .rw .img, fi 2 0 .rw .img] },
  { off := 0x78, fields := [fi 16 16 .rw .img, fi 10 0 .rw .img] },
  { off := 0x80, fields := [fi 31 0 .ro .img] },
  { off := 0x84, fields := [fl 4 4 .ro, fl 3 3 .ro, fl 2 2 .ro, fl 1 1 .ro, fl 0 0 .ro] },
  { off := 0x88, fields := [fl 31 16 .ro, fl 15 0 .ro] },
  { off := 0x8C, fields := [fl 31 16 .ro, fl 14 8 .ro 1, fl 3 0 .ro] },
  { off := 0x90, fields := [fl 26 0 .ro] },
  { off := 0x94, fields := [fl 26 0 .ro] },
  { off := 0x98, fields := [fl 20 0 .ro] },
  { off := 0x9C, fields := [fl 26 0 .ro] },
  { off := 0xA0, fields := [fl 31 24 .ro 2, fl 23 16 .ro 2, fl 11 8 .ro 10, fl 3 0 .ro 10] },
  { off := 0xA4, fields := [fl 31 16 .ro, fl 15 0 .ro] },
  { off := 0xA8, fields := [fi 31 16 .ro .img, fi 15 0 .ro .img] },
  { off := 0xAC, fields := [fl 5 4 .ro, fl 3 2 .ro, fl 1 1 .ro, fl 0 0 .ro] },
  { off := 0xB0, fields := [fi 31 16 .ro .img, fi 15 0 .ro .img] },
  { off := 0xB4, fields := [fi 10 8 .ro .img, fi 2 0 .ro .img] },
  { off := 0xB8, fields := [fi 16 16 .ro .img, fi 10 0 .ro .img] }]

/-- R213, R214. -/
def fxcBlock : Block :=
  { base := 0x410000, stride := 0x20000, count := 8, stride2 := 0x100, count2 := 256, regs := fxcRegs1 ++ fxcRegs2 }

def fsRegs0 : List RegDef := [
  { off := 0x0, fields := [fl 20 16 .rw, fl 9 8 .rw, fl 4 4 .rw, fl 1 1 .rw, fl 0 0 .rw] },
  { off := 0x4, fields := [fl 15 0 .rw] },
  { off := 0x8, fields := [fl 31 16 .rw, fl 15 0 .rw] },
  { off := 0xC, fields := [fi 31 16 .rw .img, fi 15 0 .rw .img] },
  { off := 0x10, fields := [fl 13 8 .rw 1, fl 5 0 .rw 1] },
  { off := 0x14, fields := [fl 26 0 .rw] },
  { off := 0x18, fields := [fl 6 0 .rw 1] },
  { off := 0x40, fields := [fl 20 16 .ro, fl 9 8 .ro, fl 4 4 .ro, fl 1 1 .ro, fl 0 0 .ro] },
  { off := 0x44, fields := [fl 15 0 .ro] },
  { off := 0x48, fields := [fl 31 16 .ro, fl 15 0 .ro] },
  { off := 0x4C, fields := [fi 31 16 .ro .img, fi 15 0 .ro .img] },
  { off := 0x50, fields := [fl 13 8 .ro 1, fl 5 0 .ro 1] },
  { off := 0x54, fields := [fl 26 0 .ro] },
  { off := 0x58, fields := [fl 6 0 .ro 1] },
  { off := 0x80, fields := [fl 31 0 .ro], word := 0, words := 2 },
  { off := 0x84, fields := [fl 31 0 .ro], word := 1, words := 2 },
  { off := 0x88, fields := [fl 31 0 .rc] },
  { off := 0x8C, fields := [fl 31 0 .rc] },
  { off := 0x90, fields := [fl 31 0 .rc] }]

/-- R231. -/
def fsBlock : Block :=
  { base := 0x500000, stride := 0x10000, count := 8, stride2 := 0x100, count2 := 256, regs := fsRegs0 }

def cxRegs0 : List RegDef := [
  { off := 0x0, fields := [fl 12 0 .rw] },
  { off := 0x4, fields := [fl 31 31 .ro 1, fl 3 0 .ro 4] },
  { off := 0x8, fields := [fl 31 0 .ro] },
  { off := 0xC, fields := [fl 31 0 .ro] },
  { off := 0x10, fields := [fl 31 0 .rc] },
  { off := 0x14, fields := [fl 31 0 .rc] },
  { off := 0x18, fields := [fl 31 0 .rc] }]

/-- R247. -/
def cxBlock : Block :=
  { base := 0x5A0000, stride := 0x20, count := 2048, stride2 := 0x0, count2 := 1, regs := cxRegs0 }

def egRegs0 : List RegDef := [
  { off := 0x0, fields := [fi 1 0 .rw .img] },
  { off := 0x4, fields := [fl 31 0 .rw 0 (.range 0 4000000000)] },
  { off := 0x8, fields := [fl 17 17 .ro 1, fl 16 16 .ro, fl 15 0 .rok] },
  { off := 0xC, fields := [fl 31 0 .rc] }]

/-- R232. -/
def egBlock : Block :=
  { base := 0x5C0000, stride := 0x40, count := 97, stride2 := 0x0, count2 := 1, regs := egRegs0 }

def pdRegs0 : List RegDef := [
  { off := 0x0, fields := [fl 31 30 .ro, fl 29 29 .ro] },
  { off := 0x4, fields := [fl 31 0 .ro] },
  { off := 0x8, fields := [fl 31 0 .ro] },
  { off := 0xC, fields := [fl 31 0 .ro] },
  { off := 0x10, fields := [fl 31 0 .ro] },
  { off := 0x14, fields := [fl 31 0 .ro] },
  { off := 0x18, fields := [fl 31 0 .ro] },
  { off := 0x1C, fields := [fl 31 0 .rc] },
  { off := 0x20, fields := [fl 31 0 .rc] },
  { off := 0x24, fields := [fi 31 31 .rw .img, fi 19 16 .rw .img (.range 0 8), fi 15 0 .rw .img] },
  { off := 0x28, fields := [fl 31 0 .rc] },
  { off := 0x40, stride := 0x8, count := 8, fields := [fi 11 0 .rw .img (.range 128 4095)] },
  { off := 0x44, stride := 0x8, count := 8, fields := [fi 11 0 .rw .img (.range 0 3968)] },
  { off := 0x80, fields := [fl 31 31 .wo, fl 6 0 .rw 0 (.range 0 96)] },
  { off := 0x84, fields := [fl 31 0 .rw], word := 0, words := 2 },
  { off := 0x88, fields := [fl 31 0 .rw], word := 1, words := 2 },
  { off := 0x8C, fields := [fl 31 31 .ro, fl 30 30 .ro, fl 17 0 .ro] }]

/-- R271. -/
def pdBlock : Block :=
  { base := 0x600000, stride := 0x0, count := 1, stride2 := 0x0, count2 := 1, regs := pdRegs0 }

def fgRegs0 : List RegDef := [
  { off := 0x0, fields := [fl 31 31 .wo, fl 30 30 .wo, fl 29 29 .wo, fl 28 28 .wo, fl 27 27 .wo, fl 0 0 .wo] },
  { off := 0x4, fields := [fl 31 31 .rw, fl 30 30 .rw, fi 23 16 .rw .img, fi 9 8 .rw .img (.range 0 2), fi 7 4 .rw .img (.range 0 5), fi 0 0 .rw .img] },
  { off := 0x8, fields := [fi 31 0 .rw .img] },
  { off := 0xC, fields := [fi 31 0 .rw .img] },
  { off := 0x10, fields := [fl 31 0 .rw 1000 (.range 0 1000000)] },
  { off := 0x14, fields := [fl 31 0 .rw 10 (.range 1 60000)] },
  { off := 0x18, fields := [fi 31 30 .ro .img, fl 29 29 .ro, fl 28 28 .ro, fl 27 27 .ro, fl 7 7 .w1c, fl 6 6 .w1c, fl 5 5 .w1c, fl 4 4 .w1c, fl 3 3 .w1c, fl 2 2 .w1c] },
  { off := 0x1C, fields := [fl 31 16 .ro, fl 15 0 .ro], word := 0, words := 3 },
  { off := 0x20, fields := [fl 31 16 .ro, fl 15 0 .ro], word := 1, words := 3 },
  { off := 0x24, fields := [fl 31 0 .ro], word := 2, words := 3 },
  { off := 0x28, fields := [fl 31 16 .rw, fl 15 0 .rw], word := 0, words := 3 },
  { off := 0x2C, fields := [fl 31 16 .rw, fl 15 0 .rw], word := 1, words := 3 },
  { off := 0x30, fields := [fl 31 0 .rw], word := 2, words := 3 },
  { off := 0x34, fields := [fl 31 31 .rw, fl 15 0 .rw] },
  { off := 0x38, fields := [fl 31 0 .ro] },
  { off := 0x3C, fields := [fl 31 0 .rc] },
  { off := 0x40, fields := [fl 31 0 .rc] },
  { off := 0x44, fields := [fl 31 0 .rc] },
  { off := 0x48, stride := 0x4, count := 4, fields := [fi 31 0 .ro .img] }]

/-- R271. -/
def fgBlock : Block :=
  { base := 0x610000, stride := 0x100, count := 16, stride2 := 0x0, count2 := 1, regs := fgRegs0 }

def psRegs0 : List RegDef := [
  { off := 0x0, fields := [fl 31 31 .wo, fl 4 4 .ro, fl 3 3 .ro, fl 2 2 .ro, fi 1 0 .ro .img] },
  { off := 0x4, fields := [fi 15 0 .ro .img] },
  { off := 0x8, fields := [fi 15 0 .ro .img] },
  { off := 0xC, fields := [fl 15 0 .rw 0 (.range 4096 49151)] },
  { off := 0x10, fields := [fl 15 0 .rw] },
  { off := 0x14, fields := [fl 31 0 .ro] },
  { off := 0x18, fields := [fl 31 0 .ro], word := 0, words := 2 },
  { off := 0x1C, fields := [fl 31 0 .ro], word := 1, words := 2 },
  { off := 0x20, fields := [fl 31 0 .ro], word := 0, words := 2 },
  { off := 0x24, fields := [fl 31 0 .ro], word := 1, words := 2 },
  { off := 0x28, fields := [fl 31 31 .ro, fl 30 30 .ro, fl 29 29 .ro, fl 28 28 .ro, fl 15 0 .ro] },
  { off := 0x2C, fields := [fl 31 0 .rc] },
  { off := 0x30, fields := [fl 31 0 .rc] }]

/-- R271. -/
def psBlock : Block :=
  { base := 0x620000, stride := 0x80, count := 97, stride2 := 0x0, count2 := 1, regs := psRegs0 }

def pnRegs0 : List RegDef := [
  { off := 0x0, fields := [fi 31 31 .rw .img, fl 17 17 .rw, fl 16 16 .rw, fl 15 15 .rw, fi 14 14 .rw .img, fl 12 8 .rw 0 (.range 0 16), fi 4 0 .rw .img (.ranges [(0, 0), (4, 24)])] },
  { off := 0x4, fields := [fi 26 0 .rw .img] },
  { off := 0x8, fields := [fi 26 0 .rw .img] },
  { off := 0xC, fields := [fl 24 0 .ro] },
  { off := 0x10, fields := [fl 24 0 .ro] },
  { off := 0x14, fields := [fl 24 0 .ro] },
  { off := 0x18, fields := [fl 24 0 .ro] },
  { off := 0x1C, fields := [fi 24 0 .rw .img] },
  { off := 0x20, fields := [fi 24 0 .rw .img] },
  { off := 0x24, fields := [fl 24 0 .wo] },
  { off := 0x28, fields := [fl 31 31 .rw, fl 24 0 .rw] },
  { off := 0x2C, fields := [fl 31 31 .wo, fl 30 30 .wo, fl 29 29 .wo, fl 24 0 .wo] },
  { off := 0x30, fields := [fl 31 31 .ro, fl 30 30 .w1c, fl 29 29 .w1c, fl 28 28 .ro, fl 27 27 .ro, fl 26 26 .w1c, fl 25 25 .w1c, fl 24 24 .w1c, fl 23 23 .w1c, fl 22 22 .w1c, fl 21 21 .ro, fl 20 20 .ro, fl 19 19 .ro] },
  { off := 0x34, fields := [fl 31 0 .rc] },
  { off := 0x38, fields := [fl 31 16 .rc, fl 15 0 .rc] },
  { off := 0x3C, fields := [fl 31 16 .rc, fl 15 0 .rc] }]

/-- R291. -/
def pnBlock : Block :=
  { base := 0x1000000, stride := 0x40, count := 65536, stride2 := 0x0, count2 := 1, regs := pnRegs0 }

def pngRegs0 : List RegDef := [
  { off := 0x0, stride := 0x4, count := 16, fields := [fl 31 0 .w1c] }]

/-- R292. -/
def pngBlock : Block :=
  { base := 0xF60000, stride := 0x40, count := 128, stride2 := 0x0, count2 := 1, regs := pngRegs0 }

def huRegs0 : List RegDef := [
  { off := 0x0, fields := [fl 31 16 .ro, fl 15 0 .rwk] },
  { off := 0x4, fields := [fl 15 0 .rwk] },
  { off := 0x8, fields := [fl 31 24 .w1c, fl 23 16 .w1c, fl 15 8 .rwk, fl 7 0 .ro] },
  { off := 0xC, fields := [fl 5 0 .rwk 4 (.range 1 63)] }]

/-- R292. -/
def huBlock : Block :=
  { base := 0xF62000, stride := 0x0, count := 1, stride2 := 0x0, count2 := 1, regs := huRegs0 }

def dvRegs0 : List RegDef := [
  { off := 0x0, fields := [fl 15 0 .rw 10000 (.range 50 64000)] },
  { off := 0x4, fields := [fl 24 16 .ro, fl 8 8 .ro, fl 7 0 .ro] },
  { off := 0x8, fields := [fl 31 0 .rc] },
  { off := 0xC, fields := [fl 31 0 .rc] },
  { off := 0x10, fields := [fl 31 0 .ro], word := 0, words := 2 },
  { off := 0x14, fields := [fl 31 0 .ro], word := 1, words := 2 },
  { off := 0x40, stride := 0x4, count := 8, fields := [fl 31 0 .w1c] }]

/-- R319. -/
def dvBlock : Block :=
  { base := 0x800000, stride := 0x10000, count := 16, stride2 := 0x0, count2 := 1, regs := dvRegs0 }

def chRegs0 : List RegDef := [
  { off := 0x0, fields := [fl 31 31 .wo, fl 30 30 .wo, fl 0 0 .rw] },
  { off := 0x4, fields := [fl 31 30 .rw, fl 29 29 .rw, fl 28 28 .rw, fl 12 0 .rw 64 (.range 1 4096)] },
  { off := 0x8, fields := [fl 15 0 .rw] },
  { off := 0xC, fields := [fl 31 31 .rw, fl 17 16 .rw 0 (.range 0 2), fl 15 0 .rw] },
  { off := 0x10, fields := [fl 31 0 .rw 0 (.multiple 16 0 4294967295)], word := 0, words := 2 },
  { off := 0x14, fields := [fl 31 0 .rw], word := 1, words := 2 },
  { off := 0x18, fields := [fl 31 0 .rw], word := 0, words := 2 },
  { off := 0x1C, fields := [fl 31 0 .rw], word := 1, words := 2 },
  { off := 0x20, fields := [fl 31 16 .rw, fl 15 0 .rw 0 (.range 4096 49151)] },
  { off := 0x24, fields := [fl 31 29 .ro, fl 28 26 .ro, fl 9 9 .w1c, fl 8 8 .w1c, fl 7 7 .w1c, fl 6 6 .w1c, fl 5 5 .w1c, fl 3 0 .ro] },
  { off := 0x28, fields := [fl 31 0 .ro], word := 0, words := 2 },
  { off := 0x2C, fields := [fl 31 0 .ro], word := 1, words := 2 },
  { off := 0x30, fields := [fl 31 0 .ro] },
  { off := 0x34, fields := [fl 31 0 .ro], word := 0, words := 2 },
  { off := 0x38, fields := [fl 31 0 .ro], word := 1, words := 2 },
  { off := 0x3C, fields := [fl 31 0 .rc] }]

/-- R319. -/
def chBlock : Block :=
  { base := 0x804000, stride := 0x10000, count := 16, stride2 := 0x40, count2 := 256, regs := chRegs0 }

def evRegs0 : List RegDef := [
  { off := 0x0, fields := [fl 31 31 .rw, fl 29 28 .rw, fl 23 16 .rw, fl 15 0 .rw] },
  { off := 0x4, fields := [fl 31 24 .rw 1 (.range 1 255), fl 15 0 .rw] },
  { off := 0x8, fields := [fl 31 31 .w1c, fl 30 30 .w1c, fl 15 0 .ro] },
  { off := 0xC, fields := [fl 31 0 .rc] }]

/-- R347. -/
def evBlock : Block :=
  { base := 0xF00000, stride := 0x10, count := 1024, stride2 := 0x0, count2 := 1, regs := evRegs0 }

def evgRegs0 : List RegDef := [
  { off := 0x0, stride := 0x4, count := 32, fields := [fl 31 0 .ro] },
  { off := 0x80, fields := [fl 31 0 .wo] },
  { off := 0x84, fields := [fl 31 0 .ro] },
  { off := 0x88, fields := [fl 31 0 .rc] }]

/-- R347. -/
def evgBlock : Block :=
  { base := 0xF10000, stride := 0x0, count := 1, stride2 := 0x0, count2 := 1, regs := evgRegs0 }

def msixRegs0 : List RegDef := [
  { off := 0x0, fields := [fl 31 0 .rw] },
  { off := 0x4, fields := [fl 31 0 .rw] },
  { off := 0x8, fields := [fl 31 0 .rw] },
  { off := 0xC, fields := [fl 0 0 .rw 1] }]

/-- R340, R347. -/
def msixBlock : Block :=
  { base := 0xF40000, stride := 0x10, count := 256, stride2 := 0x0, count2 := 1, regs := msixRegs0 }

def pbaRegs0 : List RegDef := [
  { off := 0x0, stride := 0x4, count := 8, fields := [fl 31 0 .ro] }]

/-- R340, R347. -/
def pbaBlock : Block :=
  { base := 0xF41000, stride := 0x0, count := 1, stride2 := 0x0, count2 := 1, regs := pbaRegs0 }

def tbRegs0 : List RegDef := [
  { off := 0x0, fields := [fl 31 31 .wo, fl 30 30 .wo, fl 3 3 .rwk 1, fl 2 2 .rwk, fl 1 1 .rwk, fl 0 0 .rwk] },
  { off := 0x4, fields := [fl 5 5 .ro, fl 4 4 .ro, fl 3 3 .ro, fl 2 2 .ro, fl 0 0 .ro] },
  { off := 0x8, fields := [fl 31 0 .rwk 1000] },
  { off := 0xC, fields := [fl 31 0 .rwk 1000000] },
  { off := 0x10, fields := [fl 31 16 .ro, fl 15 0 .ro], word := 0, words := 3 },
  { off := 0x14, fields := [fl 31 16 .ro, fl 15 0 .ro], word := 1, words := 3 },
  { off := 0x18, fields := [fl 31 0 .ro], word := 2, words := 3 },
  { off := 0x1C, fields := [fl 31 0 .ro] },
  { off := 0x20, fields := [fl 31 0 .rc] },
  { off := 0x24, fields := [fl 31 16 .ro, fl 15 0 .ro], word := 0, words := 3 },
  { off := 0x28, fields := [fl 31 16 .ro, fl 15 0 .ro], word := 1, words := 3 },
  { off := 0x2C, fields := [fl 31 0 .ro], word := 2, words := 3 },
  { off := 0x30, fields := [fl 31 31 .rwk, fl 18 0 .rwk 100 (.range 1 500000)] }]

/-- R369. -/
def tbBlock : Block :=
  { base := 0x900000, stride := 0x0, count := 1, stride2 := 0x0, count2 := 1, regs := tbRegs0 }

def tdRegs0 : List RegDef := [
  { off := 0x0, fields := [fl 31 0 .rwk 1073741824] },
  { off := 0x4, fields := [fl 7 0 .rwk 1] },
  { off := 0x8, fields := [fl 31 0 .rw] },
  { off := 0xC, fields := [fl 7 0 .rw] },
  { off := 0x10, fields := [fl 31 0 .rw] },
  { off := 0x14, fields := [fl 31 16 .ro, fl 15 0 .ro], word := 0, words := 3 },
  { off := 0x18, fields := [fl 31 16 .ro, fl 15 0 .ro], word := 1, words := 3 },
  { off := 0x1C, fields := [fl 31 0 .ro], word := 2, words := 3 },
  { off := 0x20, fields := [fl 31 16 .rw, fl 15 0 .rw], word := 0, words := 3 },
  { off := 0x24, fields := [fl 31 16 .rw, fl 15 0 .rw], word := 1, words := 3 },
  { off := 0x28, fields := [fl 31 0 .rw], word := 2, words := 3 },
  { off := 0x2C, fields := [fl 31 31 .wo, fl 30 30 .wo, fl 29 29 .wo] },
  { off := 0x30, fields := [fl 31 29 .ro, fl 4 4 .ro, fl 3 3 .ro, fl 2 2 .w1c, fl 1 1 .w1c] },
  { off := 0x34, fields := [fi 31 28 .rwk .img (.ranges [(0, 4), (13, 15)]), fi 27 24 .rwk .img (.ranges [(0, 5), (9, 15)]), fi 23 20 .rwk .img (.ranges [(0, 4), (9, 15)]), fi 19 18 .rwk .img, fi 17 17 .rwk .img, fi 16 16 .rwk .img, fi 15 14 .rwk .img (.range 0 2), fi 8 8 .rwk .img, fi 6 0 .rwk .img] },
  { off := 0x38, fields := [fl 31 24 .ro 248, fl 15 8 .rwk 128, fl 7 0 .rwk 128] },
  { off := 0x3C, fields := [fl 31 16 .rwk 1000 (.range 1 65535), fl 15 8 .rwk 60 (.range 1 255), fl 2 0 .rwk 4] },
  { off := 0x40, fields := [fl 31 0 .ro] },
  { off := 0x44, fields := [fl 31 0 .ro] },
  { off := 0x48, fields := [fl 31 0 .rc] },
  { off := 0x4C, fields := [fl 31 0 .rc] },
  { off := 0x50, fields := [fl 31 0 .rc] }]

/-- R369. -/
def tdBlock : Block :=
  { base := 0x900100, stride := 0x100, count := 2, stride2 := 0x0, count2 := 1, regs := tdRegs0 }

def tcRegs0 : List RegDef := [
  { off := 0x0, fields := [fl 31 31 .wo, fl 30 30 .wo, fl 29 29 .ro, fl 0 0 .rw] },
  { off := 0x4, fields := [fl 31 16 .rw, fl 15 0 .rw], word := 0, words := 3 },
  { off := 0x8, fields := [fl 31 16 .rw, fl 15 0 .rw], word := 1, words := 3 },
  { off := 0xC, fields := [fl 31 0 .rw], word := 2, words := 3 },
  { off := 0x10, fields := [fl 31 0 .rw 0 (.ranges [(0, 0), (100, 4294967295)])] },
  { off := 0x14, fields := [fl 15 0 .rw] },
  { off := 0x18, fields := [fl 31 0 .rw] },
  { off := 0x1C, fields := [fl 31 31 .w1c, fl 30 30 .w1c, fl 29 29 .w1c, fl 15 0 .rc] }]

/-- R369. -/
def tcBlock : Block :=
  { base := 0x901000, stride := 0x20, count := 64, stride2 := 0x0, count2 := 1, regs := tcRegs0 }

def enRegs1 : List RegDef := [
  { off := 0x0, fields := [fl 31 31 .rwk, fl 29 28 .rwk, fl 27 27 .rwk, fl 26 25 .rwk, fl 24 24 .rwk 1, fl 23 23 .rwk, fl 5 0 .rwk 4] },
  { off := 0x4, fields := [fl 31 31 .wo, fl 30 30 .wo, fl 29 29 .wo, fl 28 28 .wo] },
  { off := 0x8, fields := [fl 31 0 .ro], word := 0, words := 2 },
  { off := 0xC, fields := [fl 15 0 .ro], word := 1, words := 2 },
  { off := 0x10, fields := [fl 31 0 .rwk], word := 0, words := 2 },
  { off := 0x14, fields := [fl 15 0 .rwk], word := 1, words := 2 },
  { off := 0x18, fields := [fl 31 0 .rwk], word := 0, words := 2 },
  { off := 0x1C, fields := [fl 15 0 .rwk 32768], word := 1, words := 2 },
  { off := 0x20, fields := [fl 31 0 .rwk 4294967295], word := 0, words := 2 },
  { off := 0x24, fields := [fl 15 0 .rwk 32767], word := 1, words := 2 },
  { off := 0x28, fields := [fl 31 31 .ro, fl 30 30 .ro, fl 29 29 .ro, fl 28 26 .ro, fl 25 25 .ro, fl 24 24 .w1c, fl 23 23 .ro, fl 21 16 .ro, fl 15 15 .w1c, fl 14 14 .w1c, fl 13 13 .w1c, fl 12 12 .w1c, fl 11 11 .ro, fl 10 10 .w1c] },
  { off := 0x2C, fields := [fl 31 0 .ro] },
  { off := 0x30, fields := [fl 31 31 .ro, fl 30 30 .ro, fl 29 29 .ro, fl 28 28 .ro] },
  { off := 0x34, fields := [fl 31 20 .rwk 100, fl 15 8 .rwk 16, fl 3 0 .rwk 4] },
  { off := 0x38, fields := [fl 31 24 .rwk 2, fl 23 0 .rwk 1024] },
  { off := 0x3C, fields := [fl 31 0 .ro], word := 0, words := 2 },
  { off := 0x40, fields := [fl 15 0 .ro], word := 1, words := 2 },
  { off := 0x44, fields := [fl 31 28 .ro, fl 27 0 .ro] },
  { off := 0x48, fields := [fl 31 0 .rc] },
  { off := 0x4C, fields := [fl 31 0 .rc] },
  { off := 0x50, fields := [fl 31 0 .rc] },
  { off := 0x54, fields := [fl 31 0 .rc] },
  { off := 0x58, fields := [fl 31 0 .rc] },
  { off := 0x5C, fields := [fl 31 0 .rc] }]

def enRegs2 : List RegDef := [
  { off := 0x60, fields := [fl 31 31 .rwk, fl 16 0 .rwk] },
  { off := 0x64, fields := [fl 16 0 .ro] },
  { off := 0x68, fields := [fl 15 0 .rw] },
  { off := 0x6C, fields := [fl 31 0 .rw], word := 0, words := 2 },
  { off := 0x70, fields := [fl 31 0 .rw], word := 1, words := 2 },
  { off := 0x74, fields := [fl 15 0 .ro] },
  { off := 0x100, fields := [fl 5 0 .ro] },
  { off := 0x200, stride := 0x10, count := 64, fields := [fl 31 16 .ro, fl 15 0 .ro] },
  { off := 0x204, stride := 0x10, count := 64, fields := [fl 31 16 .ro, fl 15 0 .ro] },
  { off := 0x208, stride := 0x10, count := 64, fields := [fl 31 0 .ro] },
  { off := 0x20C, stride := 0x10, count := 64, fields := [fl 31 31 .ro, fl 30 0 .ro] }]

/-- R394. -/
def enBlock : Block :=
  { base := 0xA00000, stride := 0x1000, count := 4, stride2 := 0x0, count2 := 1, regs := enRegs1 ++ enRegs2 }

def saRegs0 : List RegDef := [
  { off := 0x0, fields := [fl 31 31 .rwk, fl 30 29 .rwk, fl 28 28 .rwk, fl 27 26 .rwk, fl 21 16 .rwk 24, fl 15 0 .rwk 1000] },
  { off := 0x4, fields := [fl 31 31 .wo, fl 30 30 .rwk, fl 29 29 .rwk, fl 28 28 .rwk, fl 27 27 .rwk, fl 26 16 .rwk 0 (.range 1 2047), fl 15 14 .rwk, fl 13 12 .rwk, fl 11 6 .rwk, fl 4 0 .rwk] },
  { off := 0x8, fields := [fl 31 24 .rwk 20 (.range 1 255)] },
  { off := 0xC, fields := [fl 31 0 .ro], word := 0, words := 2 },
  { off := 0x10, fields := [fl 15 0 .ro], word := 1, words := 2 },
  { off := 0x14, fields := [fl 31 16 .ro, fl 15 0 .ro], word := 0, words := 3 },
  { off := 0x18, fields := [fl 31 16 .ro, fl 15 0 .ro], word := 1, words := 3 },
  { off := 0x1C, fields := [fl 31 0 .ro], word := 2, words := 3 },
  { off := 0x20, fields := [fl 31 31 .rwk, fl 1 0 .rwk] },
  { off := 0x24, fields := [fl 31 0 .ro], word := 0, words := 2 },
  { off := 0x28, fields := [fl 15 0 .ro], word := 1, words := 2 },
  { off := 0x2C, fields := [fl 31 31 .ro, fl 30 30 .ro, fl 29 29 .w1c, fl 28 28 .w1c, fl 27 27 .w1c] },
  { off := 0x30, fields := [fl 31 0 .rc] },
  { off := 0x34, fields := [fl 31 0 .rc] },
  { off := 0x38, fields := [fl 31 0 .rc] }]

/-- R394. -/
def saBlock : Block :=
  { base := 0xA08000, stride := 0x100, count := 4, stride2 := 0x0, count2 := 1, regs := saRegs0 }

def trRegs1 : List RegDef := [
  { off := 0x0, fields := [fl 31 31 .rwk, fl 30 30 .rwk, fl 29 29 .rwk, fl 28 28 .rwk, fl 27 27 .rwk, fl 25 24 .rwk 0 (.range 0 2), fl 6 0 .rwk 0 (.range 0 96)] },
  { off := 0x4, fields := [fl 31 28 .rwk 0 (.range 0 5), fl 27 26 .rwk, fl 24 20 .rwk 0 (.range 0 24), fl 15 0 .rwk] },
  { off := 0x8, fields := [fl 31 28 .rwk 0 (.range 0 5), fl 27 26 .rwk, fl 24 20 .rwk 0 (.range 0 24), fl 15 0 .rwk] },
  { off := 0xC, fields := [fl 19 0 .rwk 100 (.range 1 1000000)] },
  { off := 0x10, fields := [fl 31 31 .rwk, fl 30 30 .rwk, fl 29 28 .rwk 0 (.range 0 2)] },
  { off := 0x14, fields := [fl 31 0 .rwk] },
  { off := 0x18, fields := [fl 31 31 .rwk, fl 28 24 .rwk 0 (.range 0 23), fl 3 0 .rwk] },
  { off := 0x1C, fields := [fl 31 0 .rwk 1000 (.range 1 4000000000)] },
  { off := 0x20, fields := [fl 31 0 .rwk 0 (.multiple 4 0 4294967295)], word := 0, words := 2 },
  { off := 0x24, fields := [fl 31 0 .rwk], word := 1, words := 2 },
  { off := 0x28, fields := [fl 31 31 .wo, fl 30 30 .wo, fl 29 29 .ro, fl 19 16 .ro, fl 15 0 .rok] },
  { off := 0x2C, fields := [fl 31 31 .w1c, fl 30 30 .w1c, fl 29 29 .w1c, fl 28 28 .w1c, fl 27 27 .ro, fl 6 0 .ro] },
  { off := 0x40, fields := [fl 31 0 .rwk], word := 0, words := 2 },
  { off := 0x44, fields := [fl 5 0 .rwk], word := 1, words := 2 },
  { off := 0x48, fields := [fl 31 0 .rwk 640000], word := 0, words := 2 },
  { off := 0x4C, fields := [fl 5 0 .rwk], word := 1, words := 2 },
  { off := 0x50, fields := [fl 15 0 .rwk 1] },
  { off := 0x54, fields := [fl 15 0 .rwk 1] },
  { off := 0x58, fields := [fl 31 0 .rwk], word := 0, words := 2 },
  { off := 0x5C, fields := [fl 5 0 .rwk], word := 1, words := 2 },
  { off := 0x60, fields := [fl 31 0 .rok], word := 0, words := 2 },
  { off := 0x64, fields := [fl 5 0 .rok], word := 1, words := 2 },
  { off := 0x68, fields := [fl 31 0 .rok 640000], word := 0, words := 2 },
  { off := 0x6C, fields := [fl 5 0 .rok], word := 1, words := 2 }]

def trRegs2 : List RegDef := [
  { off := 0x70, fields := [fl 15 0 .rok 1] },
  { off := 0x74, fields := [fl 15 0 .rok 1] },
  { off := 0x78, fields := [fl 31 0 .rok], word := 0, words := 2 },
  { off := 0x7C, fields := [fl 5 0 .rok], word := 1, words := 2 },
  { off := 0x80, fields := [fl 31 16 .ro, fl 15 0 .ro], word := 0, words := 3 },
  { off := 0x84, fields := [fl 31 16 .ro, fl 15 0 .ro], word := 1, words := 3 },
  { off := 0x88, fields := [fl 31 0 .ro], word := 2, words := 3 },
  { off := 0x8C, fields := [fl 31 0 .rc] },
  { off := 0x90, fields := [fl 31 0 .rc] },
  { off := 0x94, fields := [fl 31 0 .rc] },
  { off := 0x98, fields := [fl 31 0 .rc] },
  { off := 0x9C, fields := [fl 31 0 .rc] },
  { off := 0xA0, fields := [fl 31 0 .rc] },
  { off := 0xA4, fields := [fl 31 0 .rc] }]

/-- R414. -/
def trBlock : Block :=
  { base := 0xB00000, stride := 0x100, count := 24, stride2 := 0x0, count2 := 1, regs := trRegs1 ++ trRegs2 }

def trgRegs0 : List RegDef := [
  { off := 0x0, fields := [fl 23 0 .wo] },
  { off := 0x4, fields := [fi 9 8 .rwk .img, fi 5 0 .rwk .img] },
  { off := 0x8, fields := [fl 19 0 .ro] }]

/-- R414. -/
def trgBlock : Block :=
  { base := 0xB02000, stride := 0x0, count := 1, stride2 := 0x0, count2 := 1, regs := trgRegs0 }

def tiRegs0 : List RegDef := [
  { off := 0x0, fields := [fl 8 8 .rwk, fl 7 0 .rwk 4 (.range 1 255)] },
  { off := 0x4, fields := [fl 31 31 .ro, fl 30 30 .w1c, fl 29 29 .w1c] },
  { off := 0x8, fields := [fl 31 16 .ro, fl 15 0 .ro], word := 0, words := 3 },
  { off := 0xC, fields := [fl 31 16 .ro, fl 15 0 .ro], word := 1, words := 3 },
  { off := 0x10, fields := [fl 31 0 .ro], word := 2, words := 3 },
  { off := 0x14, fields := [fl 31 0 .rc] }]

/-- R414. -/
def tiBlock : Block :=
  { base := 0xB03000, stride := 0x40, count := 8, stride2 := 0x0, count2 := 1, regs := tiRegs0 }

def aiRegs0 : List RegDef := [
  { off := 0x0, fields := [fl 31 31 .rwk, fl 30 30 .rwk, fl 29 28 .rwk, fl 27 27 .rwk, fl 15 0 .rwk] },
  { off := 0x4, fields := [fl 31 31 .wo, fl 30 30 .rwk, fl 29 29 .rwk, fl 28 28 .rwk, fl 27 27 .rwk, fl 26 16 .rwk, fl 13 8 .rwk, fl 7 3 .rwk 0 (.range 0 23), fl 2 0 .rwk] },
  { off := 0x8, fields := [fl 15 0 .rwk 100 (.range 1 65535)] },
  { off := 0xC, fields := [fl 17 0 .rwk] },
  { off := 0x10, fields := [fl 31 31 .rwk, fl 25 16 .rwk 16, fl 7 0 .rwk 1 (.range 1 255)] },
  { off := 0x14, fields := [fl 31 31 .rwk, fl 17 0 .rwk 0 (.range 0 131071)] },
  { off := 0x18, fields := [fl 7 0 .rwk 0 (.range 0 250)] },
  { off := 0x1C, fields := [fl 31 31 .ro, fl 17 0 .ro] },
  { off := 0x20, fields := [fl 31 16 .ro, fl 15 0 .ro], word := 0, words := 3 },
  { off := 0x24, fields := [fl 31 16 .ro, fl 15 0 .ro], word := 1, words := 3 },
  { off := 0x28, fields := [fl 31 0 .ro], word := 2, words := 3 },
  { off := 0x2C, fields := [fl 31 16 .ro, fl 15 0 .ro], word := 0, words := 3 },
  { off := 0x30, fields := [fl 31 16 .ro, fl 15 0 .ro], word := 1, words := 3 },
  { off := 0x34, fields := [fl 31 0 .ro], word := 2, words := 3 },
  { off := 0x38, fields := [fl 31 31 .ro, fl 30 30 .ro, fl 29 29 .w1c, fl 28 28 .w1c, fl 27 27 .w1c, fl 26 26 .ro, fl 25 25 .ro] },
  { off := 0x3C, fields := [fl 31 0 .rc] },
  { off := 0x40, fields := [fl 31 0 .rc] },
  { off := 0x44, fields := [fl 31 0 .rc] },
  { off := 0x48, fields := [fl 31 0 .rc] },
  { off := 0x4C, fields := [fl 31 0 .rc] },
  { off := 0x50, fields := [fl 31 0 .rc] }]

/-- R437. -/
def aiBlock : Block :=
  { base := 0xC00000, stride := 0x100, count := 8, stride2 := 0x0, count2 := 1, regs := aiRegs0 }

def calRegs0 : List RegDef := [
  { off := 0x0, fields := [fl 3 0 .rwk 15] },
  { off := 0x4, fields := [fl 31 31 .wo, fl 30 30 .wo, fl 29 29 .wo, fl 28 28 .wo, fl 27 27 .wo, fl 3 0 .wo] },
  { off := 0x8, fields := [fl 8 0 .rwk 32 (.range 4 320)] },
  { off := 0xC, fields := [fl 15 0 .rwk 1000 (.range 1 60000)] },
  { off := 0x10, fields := [fl 22 0 .rwk 0 (.ranges [(0, 0), (2500000, 5000000)])] },
  { off := 0x14, fields := [fl 15 0 .rwk 100] },
  { off := 0x18, fields := [fl 15 0 .rwk 20] },
  { off := 0x1C, fields := [fl 3 0 .rwk 8 (.range 4 12)] },
  { off := 0x20, fields := [fl 31 0 .rwk 3600] },
  { off := 0x24, fields := [fl 31 31 .ro 1, fl 30 30 .ro, fl 29 29 .ro, fl 28 28 .w1c] },
  { off := 0x28, fields := [fl 31 0 .ro] },
  { off := 0x2C, fields := [fl 31 0 .rc] },
  { off := 0x1000, stride := 0x4, count := 640, fields := [fi 31 0 .ro .loaded] },
  { off := 0x2000, stride := 0x4, count := 640, fields := [fl 31 0 .rw] }]

/-- R438. -/
def calBlock : Block :=
  { base := 0xD00000, stride := 0x0, count := 1, stride2 := 0x0, count2 := 1, regs := calRegs0 }

def cbRegs0 : List RegDef := [
  { off := 0x0, fields := [fl 31 29 .ro, fl 28 28 .rok, fl 27 27 .ro, fl 26 26 .rok, fl 25 25 .w1c, fl 15 0 .rok] },
  { off := 0x4, fields := [fl 31 16 .ro, fl 15 0 .ro] },
  { off := 0x8, fields := [fl 31 0 .ro] },
  { off := 0xC, fields := [fl 31 0 .ro] },
  { off := 0x10, fields := [fl 31 0 .rc] },
  { off := 0x14, fields := [fl 31 0 .rc] },
  { off := 0x18, fields := [fl 31 0 .rc] }]

/-- R438. -/
def cbBlock : Block :=
  { base := 0xD00100, stride := 0x40, count := 4, stride2 := 0x0, count2 := 1, regs := cbRegs0 }

def npRegs0 : List RegDef := [
  { off := 0x0, fields := [fl 31 31 .wo, fl 4 4 .rwk, fl 3 3 .rwk, fi 2 2 .rwk .img, fl 1 1 .rwk 1] },
  { off := 0x4, fields := [fl 31 31 .ro, fl 30 29 .ro, fl 28 28 .w1c, fl 27 27 .w1c] },
  { off := 0x8, fields := [fl 31 0 .ro] },
  { off := 0xC, fields := [fl 19 0 .rwk 5000 (.range 100 600000)] },
  { off := 0x10, fields := [fl 31 0 .rwk 1048576 (.range 65536 4294967295)] },
  { off := 0x14, fields := [fl 3 0 .rwk 3 (.range 1 15)] },
  { off := 0x20, fields := [fi 31 0 .rwk .img] },
  { off := 0x24, stride := 0x4, count := 4, fields := [fi 31 0 .rwk .img] },
  { off := 0x34, fields := [fi 15 8 .rwk .img (.range 0 128), fi 7 0 .rwk .img (.range 0 32)] },
  { off := 0x38, fields := [fi 31 0 .rwk .img] },
  { off := 0x3C, fields := [fl 31 31 .rwk, fl 14 12 .rwk, fl 11 0 .rwk] },
  { off := 0x40, fields := [fl 13 0 .rwk 1500 (.range 1500 9216)] },
  { off := 0x44, fields := [fl 15 0 .rwk 21334] },
  { off := 0x48, fields := [fi 31 0 .ro .part], word := 0, words := 2 },
  { off := 0x4C, fields := [fi 15 0 .ro .part], word := 1, words := 2 },
  { off := 0x60, fields := [fl 31 0 .rc] },
  { off := 0x64, fields := [fl 31 0 .rc] },
  { off := 0x68, fields := [fl 31 0 .rc] },
  { off := 0x6C, fields := [fl 31 0 .rc] },
  { off := 0x70, fields := [fl 31 0 .rc] },
  { off := 0x74, fields := [fl 31 0 .rc] }]

/-- R461. -/
def npBlock : Block :=
  { base := 0xE00000, stride := 0x0, count := 1, stride2 := 0x0, count2 := 1, regs := npRegs0 }

def nppRegs0 : List RegDef := [
  { off := 0x0, fields := [fl 31 29 .ro, fl 28 28 .ro, fl 27 27 .ro, fl 26 26 .ro, fl 25 25 .ro, fl 24 24 .ro, fl 23 0 .ro] },
  { off := 0x4, fields := [fi 31 31 .rwk .img, fl 1 1 .rwk 1, fl 0 0 .rwk 1] },
  { off := 0x8, fields := [fl 31 0 .ro] },
  { off := 0x10, fields := [fl 31 0 .rc] },
  { off := 0x14, fields := [fl 31 0 .rc] },
  { off := 0x18, fields := [fl 31 0 .rc] },
  { off := 0x1C, fields := [fl 31 0 .rc] },
  { off := 0x20, fields := [fl 31 0 .rc] },
  { off := 0x24, fields := [fl 31 0 .rc] },
  { off := 0x28, fields := [fl 31 0 .rc] }]

/-- R461. -/
def nppBlock : Block :=
  { base := 0xE01000, stride := 0x1000, count := 2, stride2 := 0x0, count2 := 1, regs := nppRegs0 }

def nfRegs0 : List RegDef := [
  { off := 0x0, fields := [fi 31 31 .rwk .img, fl 30 30 .wo, fi 29 28 .rwk .img, fi 27 24 .rwk .img, fi 6 0 .rwk .img] },
  { off := 0x4, fields := [fi 31 0 .rwk .img] },
  { off := 0x8, stride := 0x4, count := 4, fields := [fl 31 0 .rwk] },
  { off := 0x18, fields := [fl 31 31 .rwk, fl 15 0 .rwk] },
  { off := 0x1C, fields := [fl 13 0 .rwk 1408 (.multiple 64 64 9152)] },
  { off := 0x20, fields := [fl 31 16 .rwk 64 (.range 1 65535), fl 13 0 .rwk 12500 (.range 1 12500)] },
  { off := 0x24, fields := [fl 31 0 .ro], word := 0, words := 2 },
  { off := 0x28, fields := [fl 15 0 .ro], word := 1, words := 2 },
  { off := 0x2C, fields := [fl 31 0 .ro], word := 0, words := 2 },
  { off := 0x30, fields := [fl 31 0 .ro], word := 1, words := 2 },
  { off := 0x34, fields := [fl 31 0 .rc] },
  { off := 0x38, fields := [fl 31 0 .rc] },
  { off := 0x3C, fields := [fl 31 0 .rc] }]

/-- R461. -/
def nfBlock : Block :=
  { base := 0xE04000, stride := 0x40, count := 64, stride2 := 0x0, count2 := 1, regs := nfRegs0 }

def nbRegs0 : List RegDef := [
  { off := 0x0, fields := [fl 31 31 .ro, fl 30 30 .rwk, fl 29 29 .rwk, fl 28 28 .rwk, fl 27 16 .ro] },
  { off := 0x4, stride := 0x4, count := 4, fields := [fl 31 0 .rwk] },
  { off := 0x14, fields := [fl 31 0 .rwk], word := 0, words := 2 },
  { off := 0x18, fields := [fl 15 0 .rwk], word := 1, words := 2 }]

/-- R461. -/
def nbBlock : Block :=
  { base := 0xE08000, stride := 0x20, count := 64, stride2 := 0x0, count2 := 1, regs := nbRegs0 }

def shRegs1 : List RegDef := [
  { off := 0x0, fields := [fl 31 31 .wo, fl 30 30 .ro, fl 23 16 .ro, fl 7 0 .rw] },
  { off := 0x4, fields := [fl 31 0 .rw] },
  { off := 0x8, fields := [fl 12 0 .rw 0 (.range 0 4096)] },
  { off := 0xC, fields := [fl 31 0 .ro] },
  { off := 0x10, fields := [fl 31 29 .ro, fl 28 28 .ro, fl 27 27 .ro, fl 26 26 .rok] },
  { off := 0x14, fields := [fl 31 0 .ro] },
  { off := 0x18, fields := [fl 6 0 .rwk 76] },
  { off := 0x20, fields := [fl 31 24 .rwk 100 (.range 85 110), fl 23 16 .rwk 24 (.range 4 80), fl 15 8 .rwk 32 (.range 8 160), fl 7 0 .rwk 108 (.range 95 112)] },
  { off := 0x24, fields := [fl 31 0 .ro] },
  { off := 0x40, stride := 0x4, count := 12, fields := [fl 15 0 .ro] },
  { off := 0x80, stride := 0x4, count := 12, fields := [fi 15 0 .rok .log] },
  { off := 0xC0, fields := [fi 31 0 .rok .log] },
  { off := 0xC4, fields := [fi 31 0 .rok .log] },
  { off := 0xC8, fields := [fi 31 0 .rok .log] },
  { off := 0xCC, fields := [fi 31 0 .rok .log] },
  { off := 0xD0, fields := [fi 31 0 .rok .log] },
  { off := 0xD4, fields := [fi 31 0 .rok .log] },
  { off := 0x100, stride := 0x40, count := 6, fields := [fl 31 0 .ro] },
  { off := 0x104, stride := 0x40, count := 6, fields := [fl 31 0 .ro] },
  { off := 0x108, stride := 0x40, count := 6, fields := [fl 31 0 .ro] },
  { off := 0x10C, stride := 0x40, count := 6, fields := [fl 31 0 .ro] },
  { off := 0x110, stride := 0x40, count := 6, fields := [fl 31 0 .ro] },
  { off := 0x114, stride := 0x40, count := 6, fields := [fl 31 0 .ro] },
  { off := 0x118, stride := 0x40, count := 6, fields := [fl 31 0 .ro] }]

def shRegs2 : List RegDef := [
  { off := 0x11C, stride := 0x40, count := 6, fields := [fl 31 0 .ro] },
  { off := 0x120, stride := 0x40, count := 6, fields := [fl 31 0 .ro] },
  { off := 0x124, stride := 0x40, count := 6, fields := [fl 31 0 .ro] },
  { off := 0x128, stride := 0x40, count := 6, fields := [fl 31 0 .ro] },
  { off := 0x12C, stride := 0x40, count := 6, fields := [fl 31 0 .ro] },
  { off := 0x130, stride := 0x40, count := 6, fields := [fl 31 0 .ro] },
  { off := 0x1000, stride := 0x4, count := 1024, fields := [fl 31 0 .rw] }]

/-- R481. -/
def shBlock : Block :=
  { base := 0xF80000, stride := 0x0, count := 1, stride2 := 0x0, count2 := 1, regs := shRegs1 ++ shRegs2 }

/-- R25. -/
def rootBlock : Block :=
  { base := 0x1000, stride := 0x0, count := 1, stride2 := 0x0, count2 := 1, regs := headerRegs }

/-- Every block of the address map (R529). -/
def blocks : List Block := [
  glbBlock, partBlock, strBlock, lnBlock, pthBlock, ptpBlock, ptBlock, ppBlock, stBlock, fxBlock, fxjBlock, fxgBlock, fxcBlock, fsBlock, cxBlock, egBlock, pdBlock, fgBlock, psBlock, pnBlock, pngBlock, huBlock, dvBlock, chBlock, evBlock, evgBlock, msixBlock, pbaBlock, tbBlock, tdBlock, tcBlock, enBlock, saBlock, trBlock, trgBlock, tiBlock, aiBlock, calBlock, cbBlock, npBlock, nppBlock, nfBlock, nbBlock, shBlock, rootBlock]

end Sys2Proof.Machine
end

