-- ==== Sys2Proof/Machine/RegNames.lean ====
section
/-!
DEFINITION. The names of the registers and of their fields, at the offsets the chapters give them (R529):
a register's name is its offset in the management function's BAR0 as a function of the numbers of its
windows, a field's name is a reference to its bits. `fn` is the function whose own copy is meant, 0 for the
management function, where each function has one (R530, R336, R271, R347).
-/
namespace Sys2Proof.Machine

/-- A field: the key of its register and its highest and lowest bit. -/
structure FRef where
  key : Nat
  hi : Nat
  lo : Nat
deriving DecidableEq, Repr


/-! Block glb at 0x0 (R2, R37, R346, R502, R503, R530). -/

def GLB_IDENT : Nat := 0x0
def GLB_IDENT_PART : FRef := ⟨GLB_IDENT, 31, 16⟩
def GLB_IDENT_GRADE : FRef := ⟨GLB_IDENT, 15, 12⟩
def GLB_IDENT_STEPPING : FRef := ⟨GLB_IDENT, 11, 8⟩
def GLB_IDENT_MODREV : FRef := ⟨GLB_IDENT, 7, 4⟩
def GLB_ACCERR_TALLY (fn : Nat) : Nat := 0x4000000 * fn + 0x8
def GLB_ACCERR_TALLY_COUNT (fn : Nat) : FRef := ⟨GLB_ACCERR_TALLY fn, 31, 0⟩
def GLB_BW_CTRL : Nat := 0x100
def GLB_BW_CTRL_PENDING : FRef := ⟨GLB_BW_CTRL, 31, 31⟩
def GLB_BW_CTRL_PERIOD_NS : FRef := ⟨GLB_BW_CTRL, 19, 0⟩
def GLB_BW_LOAD : Nat := 0x104
def GLB_BW_LOAD_LAST : FRef := ⟨GLB_BW_LOAD, 19, 0⟩
def GLB_BW_PEAK : Nat := 0x108
def GLB_BW_PEAK_PEAK : FRef := ⟨GLB_BW_PEAK, 19, 0⟩
def GLB_BW_CAPACITY : Nat := 0x10C
def GLB_BW_CAPACITY_UNITS : FRef := ⟨GLB_BW_CAPACITY, 19, 0⟩
def GLB_BW_OVERRUN_TALLY : Nat := 0x110
def GLB_BW_OVERRUN_TALLY_COUNT : FRef := ⟨GLB_BW_OVERRUN_TALLY, 31, 0⟩
def GLB_BW_SKIP_TALLY : Nat := 0x114
def GLB_BW_SKIP_TALLY_COUNT : FRef := ⟨GLB_BW_SKIP_TALLY, 31, 0⟩
def GLB_RESET : Nat := 0x200
def GLB_RESET_WARM : FRef := ⟨GLB_RESET, 31, 31⟩
def GLB_RESET_BUSY : FRef := ⟨GLB_RESET, 30, 30⟩
def GLB_RESET_PHASE : FRef := ⟨GLB_RESET, 7, 4⟩
def GLB_RESET_CAUSE : Nat := 0x204
def GLB_RESET_CAUSE_LAST : FRef := ⟨GLB_RESET_CAUSE, 31, 28⟩
def GLB_RESET_CAUSE_AFTER_TRIP : FRef := ⟨GLB_RESET_CAUSE, 27, 27⟩
def GLB_RESET_CAUSE_AUX_HELD : FRef := ⟨GLB_RESET_CAUSE, 26, 26⟩
def GLB_PWR_REQ : Nat := 0x210
def GLB_PWR_REQ_PHY_OFF_IN_RESET : FRef := ⟨GLB_PWR_REQ, 31, 31⟩
def GLB_PWR_REQ_CODERS : FRef := ⟨GLB_PWR_REQ, 24, 24⟩
def GLB_PWR_REQ_FOLDS : FRef := ⟨GLB_PWR_REQ, 23, 16⟩
def GLB_PWR_REQ_PATHS : FRef := ⟨GLB_PWR_REQ, 9, 8⟩
def GLB_PWR_REQ_CAGES : FRef := ⟨GLB_PWR_REQ, 5, 0⟩
def GLB_PWR_STATUS : Nat := 0x214
def GLB_PWR_STATUS_BUSY : FRef := ⟨GLB_PWR_STATUS, 31, 31⟩
def GLB_PWR_STATUS_REFUSED : FRef := ⟨GLB_PWR_STATUS, 30, 30⟩
def GLB_PWR_STATUS_REASON : FRef := ⟨GLB_PWR_STATUS, 29, 26⟩
def GLB_PWR_STATUS_CODERS : FRef := ⟨GLB_PWR_STATUS, 24, 24⟩
def GLB_PWR_STATUS_FOLDS : FRef := ⟨GLB_PWR_STATUS, 23, 16⟩
def GLB_PWR_STATUS_PATHS : FRef := ⟨GLB_PWR_STATUS, 9, 8⟩
def GLB_PWR_STATUS_PHY : FRef := ⟨GLB_PWR_STATUS, 7, 7⟩
def GLB_PWR_STATUS_PADDOCK_SR : FRef := ⟨GLB_PWR_STATUS, 6, 6⟩
def GLB_PWR_STATUS_CAGES : FRef := ⟨GLB_PWR_STATUS, 5, 0⟩
def GLB_SUPPLY : Nat := 0x218
def GLB_SUPPLY_V12_MV : FRef := ⟨GLB_SUPPLY, 31, 16⟩
def GLB_SUPPLY_POWER : FRef := ⟨GLB_SUPPLY, 15, 0⟩
def GLB_SUPPLY_STAT : Nat := 0x21C
def GLB_SUPPLY_STAT_AUX_OK : FRef := ⟨GLB_SUPPLY_STAT, 31, 31⟩
def GLB_SUPPLY_STAT_V12_OK : FRef := ⟨GLB_SUPPLY_STAT, 30, 30⟩
def GLB_SUPPLY_STAT_SEATED : FRef := ⟨GLB_SUPPLY_STAT, 29, 29⟩
def GLB_SUPPLY_STAT_UV_WARN : FRef := ⟨GLB_SUPPLY_STAT, 28, 28⟩
def GLB_SUPPLY_STAT_OV_WARN : FRef := ⟨GLB_SUPPLY_STAT, 27, 27⟩
def GLB_START_TIME (i : Nat) : Nat := 0x220 + 0x4 * i
def GLB_START_TIME_MICROSECONDS (i : Nat) : FRef := ⟨GLB_START_TIME i, 31, 0⟩
def GLB_LINK_REF : Nat := 0x240
def GLB_LINK_REF_MICROSECONDS : FRef := ⟨GLB_LINK_REF, 31, 0⟩
def GLB_CAGE (i : Nat) : Nat := 0x260 + 0x4 * i
def GLB_CAGE_PRESENT (i : Nat) : FRef := ⟨GLB_CAGE i, 31, 31⟩
def GLB_CAGE_HIGH_POWER (i : Nat) : FRef := ⟨GLB_CAGE i, 30, 30⟩
def GLB_CAGE_FAULT (i : Nat) : FRef := ⟨GLB_CAGE i, 29, 29⟩
def GLB_CAGE_REFUSED (i : Nat) : FRef := ⟨GLB_CAGE i, 28, 28⟩
def GLB_CAGE_KIND (i : Nat) : FRef := ⟨GLB_CAGE i, 27, 24⟩
def GLB_CAGE_CLASS (i : Nat) : FRef := ⟨GLB_CAGE i, 23, 16⟩
def GLB_CAGE_MODPWR (i : Nat) : FRef := ⟨GLB_CAGE i, 0, 0⟩
def HI_LINK_STATUS : Nat := 0x400
def HI_LINK_STATUS_UP : FRef := ⟨HI_LINK_STATUS, 31, 31⟩
def HI_LINK_STATUS_FLIT : FRef := ⟨HI_LINK_STATUS, 30, 30⟩
def HI_LINK_STATUS_DEGRADED : FRef := ⟨HI_LINK_STATUS, 29, 29⟩
def HI_LINK_STATUS_RATE : FRef := ⟨HI_LINK_STATUS, 19, 16⟩
def HI_LINK_STATUS_WIDTH : FRef := ⟨HI_LINK_STATUS, 4, 0⟩
def HI_CORR_TALLY : Nat := 0x408
def HI_CORR_TALLY_COUNT : FRef := ⟨HI_CORR_TALLY, 31, 0⟩
def HI_UNCORR_TALLY : Nat := 0x40C
def HI_UNCORR_TALLY_COUNT : FRef := ⟨HI_UNCORR_TALLY, 31, 0⟩
def HI_RECOVERY_TALLY : Nat := 0x410
def HI_RECOVERY_TALLY_COUNT : FRef := ⟨HI_RECOVERY_TALLY, 31, 0⟩
def HI_DOWN_TALLY : Nat := 0x414
def HI_DOWN_TALLY_COUNT : FRef := ⟨HI_DOWN_TALLY, 31, 0⟩
def HI_PART_CMD : Nat := 0xA00
def HI_PART_CMD_COMMIT : FRef := ⟨HI_PART_CMD, 31, 31⟩
def HI_PART_CMD_REVERT : FRef := ⟨HI_PART_CMD, 30, 30⟩
def HI_PART_CMD_BUSY : FRef := ⟨HI_PART_CMD, 29, 29⟩
def HI_PART_CMD_FUNCTION : FRef := ⟨HI_PART_CMD, 11, 8⟩
def HI_PART_CMD_RESULT : FRef := ⟨HI_PART_CMD, 3, 0⟩

/-! Block part at 0x800 (R346). -/

def HI_PART_PEN_FIRST (n : Nat) : Nat := 0x800 + 0x40 * n
def HI_PART_PEN_FIRST_PEN (n : Nat) : FRef := ⟨HI_PART_PEN_FIRST n, 15, 0⟩
def HI_PART_PEN_COUNT (n : Nat) : Nat := 0x804 + 0x40 * n
def HI_PART_PEN_COUNT_COUNT (n : Nat) : FRef := ⟨HI_PART_PEN_COUNT n, 16, 0⟩
def HI_PART_CHANNELS (n : Nat) : Nat := 0x808 + 0x40 * n
def HI_PART_CHANNELS_COUNT (n : Nat) : FRef := ⟨HI_PART_CHANNELS n, 28, 16⟩
def HI_PART_CHANNELS_FIRST (n : Nat) : FRef := ⟨HI_PART_CHANNELS n, 11, 0⟩
def HI_PART_PAGE_FIRST (n : Nat) : Nat := 0x80C + 0x40 * n
def HI_PART_PAGE_FIRST_PAGE (n : Nat) : FRef := ⟨HI_PART_PAGE_FIRST n, 15, 0⟩
def HI_PART_PAGE_COUNT (n : Nat) : Nat := 0x810 + 0x40 * n
def HI_PART_PAGE_COUNT_COUNT (n : Nat) : FRef := ⟨HI_PART_PAGE_COUNT n, 15, 0⟩
def HI_PART_STREAMS (n i : Nat) : Nat := 0x814 + 0x40 * n + 0x4 * i
def HI_PART_STREAMS_STREAMS (n i : Nat) : FRef := ⟨HI_PART_STREAMS n i, 31, 0⟩

/-! Block str at 0x100000 (R58). -/

def STR_CTRL : Nat := 0x100000
def STR_CTRL_GO : FRef := ⟨STR_CTRL, 31, 31⟩
def STR_CTRL_CHECK : FRef := ⟨STR_CTRL, 30, 30⟩
def STR_CTRL_PROGRAM : FRef := ⟨STR_CTRL, 29, 29⟩
def STR_CTRL_POST_WAIT_S : FRef := ⟨STR_CTRL, 11, 8⟩
def STR_CTRL_SOURCE : FRef := ⟨STR_CTRL, 1, 0⟩
def STR_STATUS : Nat := 0x100004
def STR_STATUS_STATE : FRef := ⟨STR_STATUS, 31, 28⟩
def STR_STATUS_ROLLBACK : FRef := ⟨STR_STATUS, 27, 27⟩
def STR_STATUS_INTERRUPTED : FRef := ⟨STR_STATUS, 26, 24⟩
def STR_STATUS_RESULT : FRef := ⟨STR_STATUS, 23, 20⟩
def STR_STATUS_PREVIOUS : FRef := ⟨STR_STATUS, 3, 2⟩
def STR_STATUS_ACTIVE : FRef := ⟨STR_STATUS, 1, 0⟩
def STR_CHECK : Nat := 0x100008
def STR_CHECK_CODE : FRef := ⟨STR_CHECK, 31, 24⟩
def STR_CHECK_OFFSET : FRef := ⟨STR_CHECK, 23, 0⟩
def STR_ACTIVE_SERIAL : Nat := 0x10000C
def STR_ACTIVE_SERIAL_SERIAL : FRef := ⟨STR_ACTIVE_SERIAL, 31, 0⟩
def STR_SLOT_STATE (i : Nat) : Nat := 0x100010 + 0x8 * i
def STR_SLOT_STATE_WRITTEN (i : Nat) : FRef := ⟨STR_SLOT_STATE i, 1, 1⟩
def STR_SLOT_STATE_GOOD (i : Nat) : FRef := ⟨STR_SLOT_STATE i, 0, 0⟩
def STR_SLOT_SERIAL (i : Nat) : Nat := 0x100014 + 0x8 * i
def STR_SLOT_SERIAL_SERIAL (i : Nat) : FRef := ⟨STR_SLOT_SERIAL i, 31, 0⟩
def STR_ACT_TIME : Nat := 0x100020
def STR_ACT_TIME_MICROSECONDS : FRef := ⟨STR_ACT_TIME, 31, 0⟩
def STR_RAM_LEN : Nat := 0x100024
def STR_RAM_LEN_BYTES : FRef := ⟨STR_RAM_LEN, 31, 0⟩

/-! Block ln at 0x200000 (R102). -/

def LN_HDR (n : Nat) : Nat := 0x200000 + 0x1000 * n
def LN_CTRL (n : Nat) : Nat := 0x200040 + 0x1000 * n
def LN_CTRL_LOOPBACK (n : Nat) : FRef := ⟨LN_CTRL n, 7, 7⟩
def LN_CTRL_SCRAMBLE_BYPASS (n : Nat) : FRef := ⟨LN_CTRL n, 6, 6⟩
def LN_CTRL_TX_INVERT (n : Nat) : FRef := ⟨LN_CTRL n, 5, 5⟩
def LN_CTRL_RX_INVERT (n : Nat) : FRef := ⟨LN_CTRL n, 4, 4⟩
def LN_CTRL_RATE (n : Nat) : FRef := ⟨LN_CTRL n, 2, 0⟩
def LN_STATUS (n : Nat) : Nat := 0x200044 + 0x1000 * n
def LN_STATUS_PHASE (n : Nat) : FRef := ⟨LN_STATUS n, 31, 26⟩
def LN_STATUS_FREQ_OK (n : Nat) : FRef := ⟨LN_STATUS n, 7, 7⟩
def LN_STATUS_ADAPT_FROZEN (n : Nat) : FRef := ⟨LN_STATUS n, 6, 6⟩
def LN_STATUS_BLOCK_LOCK (n : Nat) : FRef := ⟨LN_STATUS n, 5, 5⟩
def LN_STATUS_CDR_LOCK (n : Nat) : FRef := ⟨LN_STATUS n, 4, 4⟩
def LN_STATUS_SIGNAL (n : Nat) : FRef := ⟨LN_STATUS n, 3, 3⟩
def LN_STATUS_RATE_ACTIVE (n : Nat) : FRef := ⟨LN_STATUS n, 2, 0⟩
def LN_PWR (n : Nat) : Nat := 0x200048 + 0x1000 * n
def LN_PWR_EXIT_BUSY (n : Nat) : FRef := ⟨LN_PWR n, 31, 31⟩
def LN_PWR_REQ (n : Nat) : FRef := ⟨LN_PWR n, 1, 0⟩
def LN_TXEQ (n : Nat) : Nat := 0x20004C + 0x1000 * n
def LN_TXEQ_REMOTE (n : Nat) : FRef := ⟨LN_TXEQ n, 31, 31⟩
def LN_TXEQ_POST (n : Nat) : FRef := ⟨LN_TXEQ n, 23, 16⟩
def LN_TXEQ_MAIN (n : Nat) : FRef := ⟨LN_TXEQ n, 15, 8⟩
def LN_TXEQ_PRE (n : Nat) : FRef := ⟨LN_TXEQ n, 7, 0⟩
def LN_TXPRESET (n : Nat) : Nat := 0x200050 + 0x1000 * n
def LN_TXPRESET_POST (n : Nat) : FRef := ⟨LN_TXPRESET n, 23, 16⟩
def LN_TXPRESET_MAIN (n : Nat) : FRef := ⟨LN_TXPRESET n, 15, 8⟩
def LN_TXPRESET_PRE (n : Nat) : FRef := ⟨LN_TXPRESET n, 7, 0⟩
def LN_CTLE (n : Nat) : Nat := 0x200054 + 0x1000 * n
def LN_CTLE_GAIN (n : Nat) : FRef := ⟨LN_CTLE n, 9, 8⟩
def LN_CTLE_PEAK (n : Nat) : FRef := ⟨LN_CTLE n, 3, 0⟩
def LN_DFE (n : Nat) : Nat := 0x200058 + 0x1000 * n
def LN_DFE_TAP5 (n : Nat) : FRef := ⟨LN_DFE n, 31, 26⟩
def LN_DFE_TAP4 (n : Nat) : FRef := ⟨LN_DFE n, 25, 20⟩
def LN_DFE_TAP3 (n : Nat) : FRef := ⟨LN_DFE n, 19, 14⟩
def LN_DFE_TAP2 (n : Nat) : FRef := ⟨LN_DFE n, 13, 8⟩
def LN_DFE_TAP1 (n : Nat) : FRef := ⟨LN_DFE n, 7, 0⟩
def LN_ADAPT (n : Nat) : Nat := 0x20005C + 0x1000 * n
def LN_ADAPT_RESUME (n : Nat) : FRef := ⟨LN_ADAPT n, 27, 24⟩
def LN_ADAPT_THRESH (n : Nat) : FRef := ⟨LN_ADAPT n, 23, 16⟩
def LN_ADAPT_WINDOW (n : Nat) : FRef := ⟨LN_ADAPT n, 10, 8⟩
def LN_ADAPT_MODE (n : Nat) : FRef := ⟨LN_ADAPT n, 1, 0⟩
def LN_DENSITY (n : Nat) : Nat := 0x200060 + 0x1000 * n
def LN_DENSITY_DENSITY (n : Nat) : FRef := ⟨LN_DENSITY n, 8, 0⟩
def LN_FREEZE_LIMIT (n : Nat) : Nat := 0x200064 + 0x1000 * n
def LN_FREEZE_LIMIT_MICROSECONDS (n : Nat) : FRef := ⟨LN_FREEZE_LIMIT n, 19, 0⟩
def LN_FREEZE_TALLY (n : Nat) : Nat := 0x200068 + 0x1000 * n
def LN_FREEZE_TALLY_COUNT (n : Nat) : FRef := ⟨LN_FREEZE_TALLY n, 31, 0⟩
def LN_ALIGN (n : Nat) : Nat := 0x20006C + 0x1000 * n
def LN_ALIGN_SLIP_IGNORED (n : Nat) : FRef := ⟨LN_ALIGN n, 16, 16⟩
def LN_ALIGN_SLIP (n : Nat) : FRef := ⟨LN_ALIGN n, 14, 8⟩
def LN_ALIGN_MANUAL (n : Nat) : FRef := ⟨LN_ALIGN n, 0, 0⟩
def LN_ALIGN_STAT (n : Nat) : Nat := 0x200070 + 0x1000 * n
def LN_ALIGN_STAT_VALID (n : Nat) : FRef := ⟨LN_ALIGN_STAT n, 26, 16⟩
def LN_ALIGN_STAT_PENDING (n : Nat) : FRef := ⟨LN_ALIGN_STAT n, 6, 0⟩
def LN_HDR_ERR_TALLY (n : Nat) : Nat := 0x200074 + 0x1000 * n
def LN_HDR_ERR_TALLY_COUNT (n : Nat) : FRef := ⟨LN_HDR_ERR_TALLY n, 31, 0⟩
def LN_LOCK_LOSS_TALLY (n : Nat) : Nat := 0x200078 + 0x1000 * n
def LN_LOCK_LOSS_TALLY_COUNT (n : Nat) : FRef := ⟨LN_LOCK_LOSS_TALLY n, 31, 0⟩
def LN_RX_LATENCY (n : Nat) : Nat := 0x20007C + 0x1000 * n
def LN_RX_LATENCY_LATENCY (n : Nat) : FRef := ⟨LN_RX_LATENCY n, 23, 0⟩
def LN_SCAN_CTRL (n : Nat) : Nat := 0x200080 + 0x1000 * n
def LN_SCAN_CTRL_START (n : Nat) : FRef := ⟨LN_SCAN_CTRL n, 31, 31⟩
def LN_SCAN_CTRL_ABORT (n : Nat) : FRef := ⟨LN_SCAN_CTRL n, 30, 30⟩
def LN_SCAN_CTRL_PRESCALE (n : Nat) : FRef := ⟨LN_SCAN_CTRL n, 20, 16⟩
def LN_SCAN_CTRL_VOFF (n : Nat) : FRef := ⟨LN_SCAN_CTRL n, 14, 8⟩
def LN_SCAN_CTRL_HOFF (n : Nat) : FRef := ⟨LN_SCAN_CTRL n, 6, 0⟩
def LN_SCAN_STAT (n : Nat) : Nat := 0x200084 + 0x1000 * n
def LN_SCAN_STAT_VSTEP (n : Nat) : FRef := ⟨LN_SCAN_STAT n, 31, 20⟩
def LN_SCAN_STAT_LOCK_LOST (n : Nat) : FRef := ⟨LN_SCAN_STAT n, 4, 4⟩
def LN_SCAN_STAT_END (n : Nat) : FRef := ⟨LN_SCAN_STAT n, 3, 1⟩
def LN_SCAN_STAT_BUSY (n : Nat) : FRef := ⟨LN_SCAN_STAT n, 0, 0⟩
def LN_SCAN_ERR (n : Nat) : Nat := 0x200088 + 0x1000 * n
def LN_SCAN_ERR_COUNT (n : Nat) : FRef := ⟨LN_SCAN_ERR n, 31, 0⟩
def LN_SCAN_BITS (n : Nat) : Nat := 0x20008C + 0x1000 * n
def LN_PATTERN (n : Nat) : Nat := 0x200094 + 0x1000 * n
def LN_PATTERN_RX_SYNC (n : Nat) : FRef := ⟨LN_PATTERN n, 8, 8⟩
def LN_PATTERN_RX_SEL (n : Nat) : FRef := ⟨LN_PATTERN n, 6, 4⟩
def LN_PATTERN_TX_SEL (n : Nat) : FRef := ⟨LN_PATTERN n, 2, 0⟩
def LN_PAT_ERR_TALLY (n : Nat) : Nat := 0x200098 + 0x1000 * n
def LN_PAT_ERR_TALLY_COUNT (n : Nat) : FRef := ⟨LN_PAT_ERR_TALLY n, 31, 0⟩
def LN_TAPREQ (n : Nat) : Nat := 0x20009C + 0x1000 * n
def LN_TAPREQ_LAST_REPLY (n : Nat) : FRef := ⟨LN_TAPREQ n, 17, 16⟩
def LN_TAPREQ_COUNT (n : Nat) : FRef := ⟨LN_TAPREQ n, 15, 0⟩

/-! Block pth at 0x300000 (R125). -/

def PT_HDR (n : Nat) : Nat := 0x300000 + 0x2000 * n

/-! Block ptp at 0x300000 (R184). -/

def PT_FILL (n : Nat) : Nat := 0x300100 + 0x2000 * n
def PT_FILL_VALUE (n : Nat) : FRef := ⟨PT_FILL n, 15, 0⟩
def PT_THROTTLE (n : Nat) : Nat := 0x300104 + 0x2000 * n
def PT_THROTTLE_ENABLE (n : Nat) : FRef := ⟨PT_THROTTLE n, 31, 31⟩
def PT_THROTTLE_KIND (n : Nat) : FRef := ⟨PT_THROTTLE n, 17, 16⟩
def PT_THROTTLE_INDEX (n : Nat) : FRef := ⟨PT_THROTTLE n, 15, 0⟩

/-! Block pt at 0x300000 (R125, R156, R184). -/

def PT_LINK_CTRL (n : Nat) : Nat := 0x300040 + 0x2000 * n
def PT_LINK_CTRL_RETRAIN (n : Nat) : FRef := ⟨PT_LINK_CTRL n, 31, 31⟩
def PT_LINK_CTRL_LISTEN_HOLD (n : Nat) : FRef := ⟨PT_LINK_CTRL n, 8, 8⟩
def PT_LINK_STATUS (n : Nat) : Nat := 0x300044 + 0x2000 * n
def PT_LINK_STATUS_STATE (n : Nat) : FRef := ⟨PT_LINK_STATUS n, 31, 28⟩
def PT_LINK_STATUS_ORDERING (n : Nat) : FRef := ⟨PT_LINK_STATUS n, 27, 27⟩
def PT_LINK_STATUS_STREAMS (n : Nat) : FRef := ⟨PT_LINK_STATUS n, 23, 21⟩
def PT_LINK_STATUS_LANES (n : Nat) : FRef := ⟨PT_LINK_STATUS n, 20, 16⟩
def PT_LINK_STATUS_RATE (n : Nat) : FRef := ⟨PT_LINK_STATUS n, 14, 12⟩
def PT_LINK_STATUS_STANDARD (n : Nat) : FRef := ⟨PT_LINK_STATUS n, 10, 8⟩
def PT_LINK_STATUS_ATTEMPT (n : Nat) : FRef := ⟨PT_LINK_STATUS n, 7, 4⟩
def PT_LAST_FAIL (n : Nat) : Nat := 0x300048 + 0x2000 * n
def PT_LAST_FAIL_STAGE (n : Nat) : FRef := ⟨PT_LAST_FAIL n, 31, 28⟩
def PT_LAST_FAIL_LANE (n : Nat) : FRef := ⟨PT_LAST_FAIL n, 15, 8⟩
def PT_LAST_FAIL_CAUSE (n : Nat) : FRef := ⟨PT_LAST_FAIL n, 7, 0⟩
def PT_LISTEN_FAIL_TALLY (n : Nat) : Nat := 0x30004C + 0x2000 * n
def PT_LISTEN_FAIL_TALLY_COUNT (n : Nat) : FRef := ⟨PT_LISTEN_FAIL_TALLY n, 31, 0⟩
def PT_TRAIN_FAIL_TALLY (n : Nat) : Nat := 0x300050 + 0x2000 * n
def PT_TRAIN_FAIL_TALLY_COUNT (n : Nat) : FRef := ⟨PT_TRAIN_FAIL_TALLY n, 31, 0⟩
def PT_LOCK_FAIL_TALLY (n : Nat) : Nat := 0x300054 + 0x2000 * n
def PT_LOCK_FAIL_TALLY_COUNT (n : Nat) : FRef := ⟨PT_LOCK_FAIL_TALLY n, 31, 0⟩
def PT_EXCH_FAIL_TALLY (n : Nat) : Nat := 0x300058 + 0x2000 * n
def PT_EXCH_FAIL_TALLY_COUNT (n : Nat) : FRef := ⟨PT_EXCH_FAIL_TALLY n, 31, 0⟩
def PT_DOWN_TALLY (n : Nat) : Nat := 0x30005C + 0x2000 * n
def PT_DOWN_TALLY_COUNT (n : Nat) : FRef := ⟨PT_DOWN_TALLY n, 31, 0⟩
def PT_REST_TALLY (n : Nat) : Nat := 0x300060 + 0x2000 * n
def PT_REST_TALLY_COUNT (n : Nat) : FRef := ⟨PT_REST_TALLY n, 31, 0⟩
def PT_BRINGUP_TIME (n : Nat) : Nat := 0x300064 + 0x2000 * n
def PT_BRINGUP_TIME_MICROSECONDS (n : Nat) : FRef := ⟨PT_BRINGUP_TIME n, 31, 0⟩
def PT_TRAIN_MIN (n : Nat) : Nat := 0x300068 + 0x2000 * n
def PT_TRAIN_MIN_MICROSECONDS (n : Nat) : FRef := ⟨PT_TRAIN_MIN n, 31, 0⟩
def PT_ORDER (n : Nat) : Nat := 0x30006C + 0x2000 * n
def PT_POLARITY (n : Nat) : Nat := 0x300074 + 0x2000 * n
def PT_POLARITY_INVERTED (n : Nat) : FRef := ⟨PT_POLARITY n, 15, 0⟩
def PT_DECL_LATENCY (n : Nat) : Nat := 0x300078 + 0x2000 * n
def PT_DECL_LATENCY_PICOSECONDS (n : Nat) : FRef := ⟨PT_DECL_LATENCY n, 31, 0⟩
def PT_TV_RTT (n : Nat) : Nat := 0x300080 + 0x2000 * n
def PT_TV_RTT_UNITS (n : Nat) : FRef := ⟨PT_TV_RTT n, 31, 0⟩
def PT_TV_ONEWAY (n : Nat) : Nat := 0x300084 + 0x2000 * n
def PT_TV_ONEWAY_UNITS (n : Nat) : FRef := ⟨PT_TV_ONEWAY n, 31, 0⟩
def PT_TV_PROBE_TALLY (n : Nat) : Nat := 0x300088 + 0x2000 * n
def PT_TV_PROBE_TALLY_COUNT (n : Nat) : FRef := ⟨PT_TV_PROBE_TALLY n, 31, 0⟩
def PT_TV_PROBE_MISS_TALLY (n : Nat) : Nat := 0x30008C + 0x2000 * n
def PT_TV_PROBE_MISS_TALLY_COUNT (n : Nat) : FRef := ⟨PT_TV_PROBE_MISS_TALLY n, 31, 0⟩
def PT_TV_CTRL (n : Nat) : Nat := 0x300090 + 0x2000 * n
def PT_TV_CTRL_PROBE_NOW (n : Nat) : FRef := ⟨PT_TV_CTRL n, 31, 31⟩
def PT_TV_CTRL_RESP_TIMEOUT (n : Nat) : FRef := ⟨PT_TV_CTRL n, 9, 0⟩
def PT_TV_CTRL_TIMEOUT_TALLY (n : Nat) : Nat := 0x300094 + 0x2000 * n
def PT_TV_CTRL_TIMEOUT_TALLY_COUNT (n : Nat) : FRef := ⟨PT_TV_CTRL_TIMEOUT_TALLY n, 31, 0⟩
def PT_TV_STRAY_TALLY (n : Nat) : Nat := 0x300098 + 0x2000 * n
def PT_TV_STRAY_TALLY_COUNT (n : Nat) : FRef := ⟨PT_TV_STRAY_TALLY n, 31, 0⟩
def PT_TV_CHK_TALLY (n : Nat) : Nat := 0x30009C + 0x2000 * n
def PT_TV_CHK_TALLY_COUNT (n : Nat) : FRef := ⟨PT_TV_CHK_TALLY n, 31, 0⟩
def PT_TV_SENSOR_OFFSET (n : Nat) : Nat := 0x3000A0 + 0x2000 * n
def PT_TV_SENSOR_OFFSET_PICOSECONDS (n : Nat) : FRef := ⟨PT_TV_SENSOR_OFFSET n, 31, 0⟩
def PT_TV_TRIGGER (n : Nat) : Nat := 0x3000A4 + 0x2000 * n
def PT_TV_TRIGGER_LEAD_MIN (n : Nat) : FRef := ⟨PT_TV_TRIGGER n, 31, 16⟩
def PT_TV_TRIGGER_PRECISION (n : Nat) : FRef := ⟨PT_TV_TRIGGER n, 15, 8⟩
def PT_TV_TRIGGER_IDS (n : Nat) : FRef := ⟨PT_TV_TRIGGER n, 4, 0⟩
def PT_CAM_ADDR (n : Nat) : Nat := 0x300110 + 0x2000 * n
def PT_CAM_CMD (n : Nat) : Nat := 0x300118 + 0x2000 * n
def PT_CAM_CMD_GO (n : Nat) : FRef := ⟨PT_CAM_CMD n, 31, 31⟩
def PT_CAM_CMD_WRITE (n : Nat) : FRef := ⟨PT_CAM_CMD n, 30, 30⟩
def PT_CAM_CMD_LENGTH (n : Nat) : FRef := ⟨PT_CAM_CMD n, 10, 0⟩
def PT_CAM_STATUS (n : Nat) : Nat := 0x30011C + 0x2000 * n
def PT_CAM_STATUS_BUSY (n : Nat) : FRef := ⟨PT_CAM_STATUS n, 31, 31⟩
def PT_CAM_STATUS_REFUSED (n : Nat) : FRef := ⟨PT_CAM_STATUS n, 30, 30⟩
def PT_CAM_STATUS_RESULT (n : Nat) : FRef := ⟨PT_CAM_STATUS n, 3, 0⟩
def PT_CAM_DATA (n i : Nat) : Nat := 0x300400 + 0x2000 * n + 0x4 * i
def PT_CAM_DATA_DATA (n i : Nat) : FRef := ⟨PT_CAM_DATA n i, 31, 0⟩

/-! Block pp at 0x330000 (R184). -/

def PP_CTRL : Nat := 0x330120
def PP_CTRL_USE_DVAL : FRef := ⟨PP_CTRL, 8, 8⟩
def PP_CTRL_CONFIG : FRef := ⟨PP_CTRL, 7, 6⟩
def PP_CTRL_TAPS : FRef := ⟨PP_CTRL, 3, 0⟩
def PP_CTRL2 : Nat := 0x330124
def PP_CTRL2_TAP_BITS : FRef := ⟨PP_CTRL2, 4, 0⟩
def PP_STATUS : Nat := 0x330128
def PP_STATUS_CLK_OK : FRef := ⟨PP_STATUS, 3, 3⟩
def PP_STATUS_ALIGNED : FRef := ⟨PP_STATUS, 2, 0⟩
def PP_ALIGN : Nat := 0x33012C
def PP_ALIGN_SLIP : FRef := ⟨PP_ALIGN, 10, 8⟩
def PP_ALIGN_LINK : FRef := ⟨PP_ALIGN, 5, 4⟩
def PP_ALIGN_MANUAL : FRef := ⟨PP_ALIGN, 0, 0⟩
def PP_CC_SEL : Nat := 0x330130
def PP_CC_SEL_MODE4 : FRef := ⟨PP_CC_SEL, 31, 30⟩
def PP_CC_SEL_CHANNEL4 : FRef := ⟨PP_CC_SEL, 28, 24⟩
def PP_CC_SEL_MODE3 : FRef := ⟨PP_CC_SEL, 23, 22⟩
def PP_CC_SEL_CHANNEL3 : FRef := ⟨PP_CC_SEL, 20, 16⟩
def PP_CC_SEL_MODE2 : FRef := ⟨PP_CC_SEL, 15, 14⟩
def PP_CC_SEL_CHANNEL2 : FRef := ⟨PP_CC_SEL, 12, 8⟩
def PP_CC_SEL_MODE1 : FRef := ⟨PP_CC_SEL, 7, 6⟩
def PP_CC_SEL_CHANNEL1 : FRef := ⟨PP_CC_SEL, 4, 0⟩
def PP_SER_BAUD : Nat := 0x330134
def PP_SER_BAUD_BAUD : FRef := ⟨PP_SER_BAUD, 19, 0⟩
def PP_SER_TX : Nat := 0x330138
def PP_SER_TX_BYTE : FRef := ⟨PP_SER_TX, 7, 0⟩
def PP_SER_RX : Nat := 0x33013C
def PP_SER_RX_VALID : FRef := ⟨PP_SER_RX, 8, 8⟩
def PP_SER_RX_BYTE : FRef := ⟨PP_SER_RX, 7, 0⟩
def PP_SER_STATUS : Nat := 0x330140
def PP_SER_STATUS_RX_FRAMING : FRef := ⟨PP_SER_STATUS, 26, 26⟩
def PP_SER_STATUS_RX_OVF : FRef := ⟨PP_SER_STATUS, 25, 25⟩
def PP_SER_STATUS_TX_OVF : FRef := ⟨PP_SER_STATUS, 24, 24⟩
def PP_SER_STATUS_TX_LEVEL : FRef := ⟨PP_SER_STATUS, 20, 12⟩
def PP_SER_STATUS_RX_LEVEL : FRef := ⟨PP_SER_STATUS, 8, 0⟩
def PP_CC_LATENCY : Nat := 0x330144
def PP_CC_LATENCY_VALUE : FRef := ⟨PP_CC_LATENCY, 31, 0⟩
def PP_DECL_LATENCY : Nat := 0x330148
def PP_DECL_LATENCY_VALUE : FRef := ⟨PP_DECL_LATENCY, 31, 0⟩
def PP_SER_OVR_TALLY : Nat := 0x33014C
def PP_SER_OVR_TALLY_COUNT : FRef := ⟨PP_SER_OVR_TALLY, 31, 0⟩
def PP_ALIGN_LOSS_TALLY : Nat := 0x330150
def PP_ALIGN_LOSS_TALLY_COUNT : FRef := ⟨PP_ALIGN_LOSS_TALLY, 31, 0⟩

/-! Block st at 0x300800 (R184). -/

def ST_CTRL (n m : Nat) : Nat := 0x300800 + 0x2000 * n + 0x100 * m
def ST_CTRL_ENABLE (n m : Nat) : FRef := ⟨ST_CTRL n m, 31, 31⟩
def ST_CTRL_TRIG_BIND (n m : Nat) : FRef := ⟨ST_CTRL n m, 28, 24⟩
def ST_CTRL_MARK_EV (n m : Nat) : FRef := ⟨ST_CTRL n m, 0, 0⟩
def ST_GEOMETRY (n m : Nat) : Nat := 0x300804 + 0x2000 * n + 0x100 * m
def ST_GEOMETRY_HEIGHT (n m : Nat) : FRef := ⟨ST_GEOMETRY n m, 31, 16⟩
def ST_GEOMETRY_WIDTH (n m : Nat) : FRef := ⟨ST_GEOMETRY n m, 15, 0⟩
def ST_FORMAT (n m : Nat) : Nat := 0x300808 + 0x2000 * n + 0x100 * m
def ST_FORMAT_VALUE (n m : Nat) : FRef := ⟨ST_FORMAT n m, 31, 0⟩
def ST_LINE_BYTES (n m : Nat) : Nat := 0x30080C + 0x2000 * n + 0x100 * m
def ST_LINE_BYTES_VALUE (n m : Nat) : FRef := ⟨ST_LINE_BYTES n m, 31, 0⟩
def ST_FRAME_TIMEOUT (n m : Nat) : Nat := 0x300810 + 0x2000 * n + 0x100 * m
def ST_FRAME_TIMEOUT_VALUE (n m : Nat) : FRef := ⟨ST_FRAME_TIMEOUT n m, 31, 0⟩
def ST_MATCH_WINDOW (n m : Nat) : Nat := 0x300814 + 0x2000 * n + 0x100 * m
def ST_MATCH_WINDOW_VALUE (n m : Nat) : FRef := ⟨ST_MATCH_WINDOW n m, 31, 0⟩
def ST_DECL_READOUT (n m : Nat) : Nat := 0x300818 + 0x2000 * n + 0x100 * m
def ST_DECL_READOUT_VALUE (n m : Nat) : FRef := ⟨ST_DECL_READOUT n m, 31, 0⟩
def ST_DECL_EXPOSURE (n m : Nat) : Nat := 0x30081C + 0x2000 * n + 0x100 * m
def ST_DECL_EXPOSURE_VALUE (n m : Nat) : FRef := ⟨ST_DECL_EXPOSURE n m, 31, 0⟩
def ST_NEXT_FRAME (n m : Nat) : Nat := 0x300820 + 0x2000 * n + 0x100 * m
def ST_STATUS (n m : Nat) : Nat := 0x300828 + 0x2000 * n + 0x100 * m
def ST_STATUS_OPEN (n m : Nat) : FRef := ⟨ST_STATUS n m, 31, 31⟩
def ST_STATUS_BANK (n m : Nat) : FRef := ⟨ST_STATUS n m, 30, 30⟩
def ST_STATUS_THROTTLED (n m : Nat) : FRef := ⟨ST_STATUS n m, 29, 29⟩
def ST_STATUS_LINES (n m : Nat) : FRef := ⟨ST_STATUS n m, 15, 0⟩
def ST_LAST_MARKS (n m : Nat) : Nat := 0x30082C + 0x2000 * n + 0x100 * m
def ST_LAST_MARKS_CAUSE (n m : Nat) : FRef := ⟨ST_LAST_MARKS n m, 6, 4⟩
def ST_LAST_MARKS_MARKS (n m : Nat) : FRef := ⟨ST_LAST_MARKS n m, 3, 0⟩
def ST_FRAME_TALLY (n m : Nat) : Nat := 0x300830 + 0x2000 * n + 0x100 * m
def ST_FRAME_TALLY_COUNT (n m : Nat) : FRef := ⟨ST_FRAME_TALLY n m, 31, 0⟩
def ST_SHORT_TALLY (n m : Nat) : Nat := 0x300834 + 0x2000 * n + 0x100 * m
def ST_SHORT_TALLY_COUNT (n m : Nat) : FRef := ⟨ST_SHORT_TALLY n m, 31, 0⟩
def ST_LONG_TALLY (n m : Nat) : Nat := 0x300838 + 0x2000 * n + 0x100 * m
def ST_LONG_TALLY_COUNT (n m : Nat) : FRef := ⟨ST_LONG_TALLY n m, 31, 0⟩
def ST_SURPLUS_LINE_TALLY (n m : Nat) : Nat := 0x30083C + 0x2000 * n + 0x100 * m
def ST_SURPLUS_LINE_TALLY_COUNT (n m : Nat) : FRef := ⟨ST_SURPLUS_LINE_TALLY n m, 31, 0⟩
def ST_TRUNC_TALLY (n m : Nat) : Nat := 0x300840 + 0x2000 * n + 0x100 * m
def ST_TRUNC_TALLY_COUNT (n m : Nat) : FRef := ⟨ST_TRUNC_TALLY n m, 31, 0⟩
def ST_CRC_TALLY (n m : Nat) : Nat := 0x300844 + 0x2000 * n + 0x100 * m
def ST_CRC_TALLY_COUNT (n m : Nat) : FRef := ⟨ST_CRC_TALLY n m, 31, 0⟩
def ST_STRAY_TALLY (n m : Nat) : Nat := 0x300848 + 0x2000 * n + 0x100 * m
def ST_STRAY_TALLY_COUNT (n m : Nat) : FRef := ⟨ST_STRAY_TALLY n m, 31, 0⟩
def ST_SKIP_TALLY (n m : Nat) : Nat := 0x30084C + 0x2000 * n + 0x100 * m
def ST_SKIP_TALLY_COUNT (n m : Nat) : FRef := ⟨ST_SKIP_TALLY n m, 31, 0⟩
def ST_IN_DROP_TALLY (n m : Nat) : Nat := 0x300850 + 0x2000 * n + 0x100 * m
def ST_IN_DROP_TALLY_COUNT (n m : Nat) : FRef := ⟨ST_IN_DROP_TALLY n m, 31, 0⟩
def ST_UNMATCHED_TALLY (n m : Nat) : Nat := 0x300854 + 0x2000 * n + 0x100 * m
def ST_UNMATCHED_TALLY_COUNT (n m : Nat) : FRef := ⟨ST_UNMATCHED_TALLY n m, 31, 0⟩
def ST_ORPHAN_TRIG_TALLY (n m : Nat) : Nat := 0x300858 + 0x2000 * n + 0x100 * m
def ST_ORPHAN_TRIG_TALLY_COUNT (n m : Nat) : FRef := ⟨ST_ORPHAN_TRIG_TALLY n m, 31, 0⟩
def ST_RESEND_TALLY (n m : Nat) : Nat := 0x30085C + 0x2000 * n + 0x100 * m
def ST_RESEND_TALLY_COUNT (n m : Nat) : FRef := ⟨ST_RESEND_TALLY n m, 31, 0⟩
def ST_CAM_GAP_TALLY (n m : Nat) : Nat := 0x300860 + 0x2000 * n + 0x100 * m
def ST_CAM_GAP_TALLY_COUNT (n m : Nat) : FRef := ⟨ST_CAM_GAP_TALLY n m, 31, 0⟩

/-! Block fx at 0x400000 (R213). -/

def FX_HDR (n : Nat) : Nat := 0x400000 + 0x20000 * n
def FX_CTRL (n : Nat) : Nat := 0x400040 + 0x20000 * n
def FX_CTRL_ACCEPT_GUESTS (n : Nat) : FRef := ⟨FX_CTRL n, 1, 1⟩
def FX_CTRL_MOVE_OUT (n : Nat) : FRef := ⟨FX_CTRL n, 0, 0⟩
def FX_STATUS (n : Nat) : Nat := 0x400044 + 0x20000 * n
def FX_STATUS_CONTEXTS (n : Nat) : FRef := ⟨FX_STATUS n, 24, 16⟩
def FX_STATUS_THROTTLE (n : Nat) : FRef := ⟨FX_STATUS n, 10, 8⟩
def FX_STATUS_LOAD_PCT (n : Nat) : FRef := ⟨FX_STATUS n, 7, 0⟩
def FX_CAPACITY (n : Nat) : Nat := 0x400048 + 0x20000 * n
def FX_CAPACITY_VALUE (n : Nat) : FRef := ⟨FX_CAPACITY n, 31, 0⟩
def FX_LOAD (n : Nat) : Nat := 0x40004C + 0x20000 * n
def FX_LOAD_VALUE (n : Nat) : FRef := ⟨FX_LOAD n, 31, 0⟩
def FX_LATE_TALLY (n : Nat) : Nat := 0x400050 + 0x20000 * n
def FX_LATE_TALLY_COUNT (n : Nat) : FRef := ⟨FX_LATE_TALLY n, 31, 0⟩
def FX_MOVE_TALLY (n : Nat) : Nat := 0x400054 + 0x20000 * n
def FX_MOVE_TALLY_COUNT (n : Nat) : FRef := ⟨FX_MOVE_TALLY n, 31, 0⟩
def FX_COMMIT_DONE (n i : Nat) : Nat := 0x400080 + 0x20000 * n + 0x4 * i
def FX_COMMIT_DONE_DONE (n i : Nat) : FRef := ⟨FX_COMMIT_DONE n i, 31, 0⟩

/-! Block fxj at 0x400800 (R213). -/

def FXJ_HDR (n : Nat) : Nat := 0x400800 + 0x40000 * n

/-! Block fxg at 0x401000 (R213). -/

def FXSTG_HDR (n m : Nat) : Nat := 0x401000 + 0x20000 * n + 0x1000 * m

/-! Block fxc at 0x410000 (R213, R214). -/

def FXC_COMMIT (n m : Nat) : Nat := 0x410000 + 0x20000 * n + 0x100 * m
def FXC_COMMIT_REQ (n m : Nat) : FRef := ⟨FXC_COMMIT n m, 31, 31⟩
def FXC_COMMIT_CANCEL (n m : Nat) : FRef := ⟨FXC_COMMIT n m, 30, 30⟩
def FXC_COMMIT_PENDING (n m : Nat) : FRef := ⟨FXC_COMMIT n m, 29, 29⟩
def FXC_COMMIT_RETIRING (n m : Nat) : FRef := ⟨FXC_COMMIT n m, 28, 28⟩
def FXC_COMMIT_REJECT (n m : Nat) : FRef := ⟨FXC_COMMIT n m, 3, 0⟩
def FXC_STATUS (n m : Nat) : Nat := 0x410004 + 0x20000 * n + 0x100 * m
def FXC_STATUS_DARK_NOHIST (n m : Nat) : FRef := ⟨FXC_STATUS n m, 31, 31⟩
def FXC_STATUS_LATE (n m : Nat) : FRef := ⟨FXC_STATUS n m, 30, 30⟩
def FXC_STATUS_GUEST (n m : Nat) : FRef := ⟨FXC_STATUS n m, 29, 29⟩
def FXC_STATUS_SERVING (n m : Nat) : FRef := ⟨FXC_STATUS n m, 10, 8⟩
def FXC_STATUS_STREAM (n m : Nat) : FRef := ⟨FXC_STATUS n m, 6, 0⟩
def FXC_GEN (n m : Nat) : Nat := 0x410008 + 0x20000 * n + 0x100 * m
def FXC_GEN_VALUE (n m : Nat) : FRef := ⟨FXC_GEN n m, 15, 0⟩
def FXC_DUE (n m : Nat) : Nat := 0x41000C + 0x20000 * n + 0x100 * m
def FXC_DUE_VALUE (n m : Nat) : FRef := ⟨FXC_DUE n m, 31, 0⟩
def FXC_MEASURED (n m : Nat) : Nat := 0x410010 + 0x20000 * n + 0x100 * m
def FXC_MEASURED_VALUE (n m : Nat) : FRef := ⟨FXC_MEASURED n m, 31, 0⟩
def FXC_DARK_STATE (n m i : Nat) : Nat := 0x410014 + 0x20000 * n + 0x100 * m + 0x4 * i
def FXC_DARK_STATE_F (n m i : Nat) : FRef := ⟨FXC_DARK_STATE n m i, 23, 0⟩
def FXC_CLIP_LO_TALLY (n m : Nat) : Nat := 0x410028 + 0x20000 * n + 0x100 * m
def FXC_CLIP_LO_TALLY_COUNT (n m : Nat) : FRef := ⟨FXC_CLIP_LO_TALLY n m, 31, 0⟩
def FXC_CLIP_HI_TALLY (n m : Nat) : Nat := 0x41002C + 0x20000 * n + 0x100 * m
def FXC_CLIP_HI_TALLY_COUNT (n m : Nat) : FRef := ⟨FXC_CLIP_HI_TALLY n m, 31, 0⟩
def FXC_UNFIXED_TALLY (n m : Nat) : Nat := 0x410030 + 0x20000 * n + 0x100 * m
def FXC_UNFIXED_TALLY_COUNT (n m : Nat) : FRef := ⟨FXC_UNFIXED_TALLY n m, 31, 0⟩
def FXC_MAP_ORDER_TALLY (n m : Nat) : Nat := 0x410034 + 0x20000 * n + 0x100 * m
def FXC_MAP_ORDER_TALLY_COUNT (n m : Nat) : FRef := ⟨FXC_MAP_ORDER_TALLY n m, 31, 0⟩
def FXC_LATE_TALLY (n m : Nat) : Nat := 0x410038 + 0x20000 * n + 0x100 * m
def FXC_LATE_TALLY_COUNT (n m : Nat) : FRef := ⟨FXC_LATE_TALLY n m, 31, 0⟩
def FXC_LOST_TALLY (n m : Nat) : Nat := 0x41003C + 0x20000 * n + 0x100 * m
def FXC_LOST_TALLY_COUNT (n m : Nat) : FRef := ⟨FXC_LOST_TALLY n m, 31, 0⟩
def FXB_OUT_FORMAT (n m h : Nat) : Nat := 0x410040 + 0x20000 * n + 0x100 * m + 0x40 * h
def FXB_OUT_FORMAT_FORMAT (n m h : Nat) : FRef := ⟨FXB_OUT_FORMAT n m h, 31, 0⟩
def FXB_ENABLES (n m h : Nat) : Nat := 0x410044 + 0x20000 * n + 0x100 * m + 0x40 * h
def FXB_ENABLES_CODER (n m h : Nat) : FRef := ⟨FXB_ENABLES n m h, 4, 4⟩
def FXB_ENABLES_SHADING (n m h : Nat) : FRef := ⟨FXB_ENABLES n m h, 3, 3⟩
def FXB_ENABLES_DEFECT (n m h : Nat) : FRef := ⟨FXB_ENABLES n m h, 2, 2⟩
def FXB_ENABLES_DARK (n m h : Nat) : FRef := ⟨FXB_ENABLES n m h, 1, 1⟩
def FXB_ENABLES_COL (n m h : Nat) : FRef := ⟨FXB_ENABLES n m h, 0, 0⟩
def FXB_BLACK (n m h : Nat) : Nat := 0x410048 + 0x20000 * n + 0x100 * m + 0x40 * h
def FXB_BLACK_PEDESTAL (n m h : Nat) : FRef := ⟨FXB_BLACK n m h, 31, 16⟩
def FXB_BLACK_GLOBAL (n m h : Nat) : FRef := ⟨FXB_BLACK n m h, 15, 0⟩
def FXB_DARK (n m h : Nat) : Nat := 0x41004C + 0x20000 * n + 0x100 * m + 0x40 * h
def FXB_DARK_DARK_FIRST (n m h : Nat) : FRef := ⟨FXB_DARK n m h, 31, 16⟩
def FXB_DARK_DARK_ROWS (n m h : Nat) : FRef := ⟨FXB_DARK n m h, 14, 8⟩
def FXB_DARK_K (n m h : Nat) : FRef := ⟨FXB_DARK n m h, 3, 0⟩
def FXB_COLTAB_ADDR (n m h : Nat) : Nat := 0x410050 + 0x20000 * n + 0x100 * m + 0x40 * h
def FXB_COLTAB_ADDR_ADDRESS (n m h : Nat) : FRef := ⟨FXB_COLTAB_ADDR n m h, 26, 0⟩
def FXB_DEFECT_ADDR (n m h : Nat) : Nat := 0x410054 + 0x20000 * n + 0x100 * m + 0x40 * h
def FXB_DEFECT_ADDR_ADDRESS (n m h : Nat) : FRef := ⟨FXB_DEFECT_ADDR n m h, 26, 0⟩
def FXB_DEFECT_COUNT (n m h : Nat) : Nat := 0x410058 + 0x20000 * n + 0x100 * m + 0x40 * h
def FXB_DEFECT_COUNT_COUNT (n m h : Nat) : FRef := ⟨FXB_DEFECT_COUNT n m h, 20, 0⟩
def FXB_MESH_ADDR (n m h : Nat) : Nat := 0x41005C + 0x20000 * n + 0x100 * m + 0x40 * h
def FXB_MESH_ADDR_ADDRESS (n m h : Nat) : FRef := ⟨FXB_MESH_ADDR n m h, 26, 0⟩
def FXB_MESH (n m h : Nat) : Nat := 0x410060 + 0x20000 * n + 0x100 * m + 0x40 * h
def FXB_MESH_NX (n m h : Nat) : FRef := ⟨FXB_MESH n m h, 31, 24⟩
def FXB_MESH_NY (n m h : Nat) : FRef := ⟨FXB_MESH n m h, 23, 16⟩
def FXB_MESH_SX (n m h : Nat) : FRef := ⟨FXB_MESH n m h, 11, 8⟩
def FXB_MESH_SY (n m h : Nat) : FRef := ⟨FXB_MESH n m h, 3, 0⟩
def FXB_CROP_XY (n m h : Nat) : Nat := 0x410064 + 0x20000 * n + 0x100 * m + 0x40 * h
def FXB_CROP_XY_Y0 (n m h : Nat) : FRef := ⟨FXB_CROP_XY n m h, 31, 16⟩
def FXB_CROP_XY_X0 (n m h : Nat) : FRef := ⟨FXB_CROP_XY n m h, 15, 0⟩
def FXB_CROP_WH (n m h : Nat) : Nat := 0x410068 + 0x20000 * n + 0x100 * m + 0x40 * h
def FXB_CROP_WH_CH (n m h : Nat) : FRef := ⟨FXB_CROP_WH n m h, 31, 16⟩
def FXB_CROP_WH_CW (n m h : Nat) : FRef := ⟨FXB_CROP_WH n m h, 15, 0⟩
def FXB_GEOM (n m h : Nat) : Nat := 0x41006C + 0x20000 * n + 0x100 * m + 0x40 * h
def FXB_GEOM_BIN (n m h : Nat) : FRef := ⟨FXB_GEOM n m h, 5, 4⟩
def FXB_GEOM_DECIM (n m h : Nat) : FRef := ⟨FXB_GEOM n m h, 3, 2⟩
def FXB_GEOM_MIRROR_V (n m h : Nat) : FRef := ⟨FXB_GEOM n m h, 1, 1⟩
def FXB_GEOM_MIRROR_H (n m h : Nat) : FRef := ⟨FXB_GEOM n m h, 0, 0⟩
def FXB_TAP_PENS (n m h : Nat) : Nat := 0x410070 + 0x20000 * n + 0x100 * m + 0x40 * h
def FXB_TAP_PENS_PEN_B (n m h : Nat) : FRef := ⟨FXB_TAP_PENS n m h, 31, 16⟩
def FXB_TAP_PENS_PEN_A (n m h : Nat) : FRef := ⟨FXB_TAP_PENS n m h, 15, 0⟩
def FXB_TAP_SEL (n m h : Nat) : Nat := 0x410074 + 0x20000 * n + 0x100 * m + 0x40 * h
def FXB_TAP_SEL_TAP_B (n m h : Nat) : FRef := ⟨FXB_TAP_SEL n m h, 10, 8⟩
def FXB_TAP_SEL_TAP_A (n m h : Nat) : FRef := ⟨FXB_TAP_SEL n m h, 2, 0⟩
def FXB_STRIPE (n m h : Nat) : Nat := 0x410078 + 0x20000 * n + 0x100 * m + 0x40 * h
def FXB_STRIPE_MUX (n m h : Nat) : FRef := ⟨FXB_STRIPE n m h, 16, 16⟩
def FXB_STRIPE_LINES (n m h : Nat) : FRef := ⟨FXB_STRIPE n m h, 10, 0⟩

/-! Block fs at 0x500000 (R231). -/

def FXS_CTRL (n m h : Nat) : Nat := 0x500000 + 0x10000 * n + 0x100 * m + 0x40 * h
def FXS_CTRL_SHIFT (n m h : Nat) : FRef := ⟨FXS_CTRL n m h, 20, 16⟩
def FXS_CTRL_FOCUS_PLANE (n m h : Nat) : FRef := ⟨FXS_CTRL n m h, 9, 8⟩
def FXS_CTRL_FOCUS_OP (n m h : Nat) : FRef := ⟨FXS_CTRL n m h, 4, 4⟩
def FXS_CTRL_FOCUS_EN (n m h : Nat) : FRef := ⟨FXS_CTRL n m h, 1, 1⟩
def FXS_CTRL_FRAME_EN (n m h : Nat) : FRef := ⟨FXS_CTRL n m h, 0, 0⟩
def FXS_PEN (n m h : Nat) : Nat := 0x500004 + 0x10000 * n + 0x100 * m + 0x40 * h
def FXS_PEN_PEN (n m h : Nat) : FRef := ⟨FXS_PEN n m h, 15, 0⟩
def FXS_ZONE_XY (n m h : Nat) : Nat := 0x500008 + 0x10000 * n + 0x100 * m + 0x40 * h
def FXS_ZONE_XY_ZONE_Y0 (n m h : Nat) : FRef := ⟨FXS_ZONE_XY n m h, 31, 16⟩
def FXS_ZONE_XY_ZONE_X0 (n m h : Nat) : FRef := ⟨FXS_ZONE_XY n m h, 15, 0⟩
def FXS_ZONE_SIZE (n m h : Nat) : Nat := 0x50000C + 0x10000 * n + 0x100 * m + 0x40 * h
def FXS_ZONE_SIZE_ZH (n m h : Nat) : FRef := ⟨FXS_ZONE_SIZE n m h, 31, 16⟩
def FXS_ZONE_SIZE_ZW (n m h : Nat) : FRef := ⟨FXS_ZONE_SIZE n m h, 15, 0⟩
def FXS_ZONE_COUNT (n m h : Nat) : Nat := 0x500010 + 0x10000 * n + 0x100 * m + 0x40 * h
def FXS_ZONE_COUNT_ZY (n m h : Nat) : FRef := ⟨FXS_ZONE_COUNT n m h, 13, 8⟩
def FXS_ZONE_COUNT_ZX (n m h : Nat) : FRef := ⟨FXS_ZONE_COUNT n m h, 5, 0⟩
def FXS_WIN_ADDR (n m h : Nat) : Nat := 0x500014 + 0x10000 * n + 0x100 * m + 0x40 * h
def FXS_WIN_ADDR_ADDRESS (n m h : Nat) : FRef := ⟨FXS_WIN_ADDR n m h, 26, 0⟩
def FXS_WIN_COUNT (n m h : Nat) : Nat := 0x500018 + 0x10000 * n + 0x100 * m + 0x40 * h
def FXS_WIN_COUNT_COUNT (n m h : Nat) : FRef := ⟨FXS_WIN_COUNT n m h, 6, 0⟩
def FXS_LAST_FRAME (n m : Nat) : Nat := 0x500080 + 0x10000 * n + 0x100 * m
def FXS_RECORD_TALLY (n m : Nat) : Nat := 0x500088 + 0x10000 * n + 0x100 * m
def FXS_RECORD_TALLY_COUNT (n m : Nat) : FRef := ⟨FXS_RECORD_TALLY n m, 31, 0⟩
def FXS_DROP_TALLY (n m : Nat) : Nat := 0x50008C + 0x10000 * n + 0x100 * m
def FXS_DROP_TALLY_COUNT (n m : Nat) : FRef := ⟨FXS_DROP_TALLY n m, 31, 0⟩
def FXS_SAT_TALLY (n m : Nat) : Nat := 0x500090 + 0x10000 * n + 0x100 * m
def FXS_SAT_TALLY_COUNT (n m : Nat) : FRef := ⟨FXS_SAT_TALLY n m, 31, 0⟩

/-! Block cx at 0x5A0000 (R247). -/

def CX_CTRL (n : Nat) : Nat := 0x5A0000 + 0x20 * n
def CX_CTRL_RESTART (n : Nat) : FRef := ⟨CX_CTRL n, 12, 0⟩
def CX_STATUS (n : Nat) : Nat := 0x5A0004 + 0x20 * n
def CX_STATUS_NOHIST (n : Nat) : FRef := ⟨CX_STATUS n, 31, 31⟩
def CX_STATUS_K_NEXT (n : Nat) : FRef := ⟨CX_STATUS n, 3, 0⟩
def CX_LAST_RAW (n : Nat) : Nat := 0x5A0008 + 0x20 * n
def CX_LAST_RAW_BYTES (n : Nat) : FRef := ⟨CX_LAST_RAW n, 31, 0⟩
def CX_LAST_CODED (n : Nat) : Nat := 0x5A000C + 0x20 * n
def CX_LAST_CODED_BYTES (n : Nat) : FRef := ⟨CX_LAST_CODED n, 31, 0⟩
def CX_LINE_TALLY (n : Nat) : Nat := 0x5A0010 + 0x20 * n
def CX_LINE_TALLY_COUNT (n : Nat) : FRef := ⟨CX_LINE_TALLY n, 31, 0⟩
def CX_RAW_BLOCK_TALLY (n : Nat) : Nat := 0x5A0014 + 0x20 * n
def CX_RAW_BLOCK_TALLY_COUNT (n : Nat) : FRef := ⟨CX_RAW_BLOCK_TALLY n, 31, 0⟩
def CX_ESCAPE_TALLY (n : Nat) : Nat := 0x5A0018 + 0x20 * n
def CX_ESCAPE_TALLY_COUNT (n : Nat) : FRef := ⟨CX_ESCAPE_TALLY n, 31, 0⟩

/-! Block eg at 0x5C0000 (R232). -/

def EG_CTRL (n : Nat) : Nat := 0x5C0000 + 0x40 * n
def EG_CTRL_SOURCE (n : Nat) : FRef := ⟨EG_CTRL n, 1, 0⟩
def EG_LATENCY (n : Nat) : Nat := 0x5C0004 + 0x40 * n
def EG_LATENCY_PICOSECONDS (n : Nat) : FRef := ⟨EG_LATENCY n, 31, 0⟩
def EG_CURRENT (n : Nat) : Nat := 0x5C0008 + 0x40 * n
def EG_CURRENT_NONE (n : Nat) : FRef := ⟨EG_CURRENT n, 17, 17⟩
def EG_CURRENT_INFERRED (n : Nat) : FRef := ⟨EG_CURRENT n, 16, 16⟩
def EG_CURRENT_EGEN (n : Nat) : FRef := ⟨EG_CURRENT n, 15, 0⟩
def EG_NO_ECHO_TALLY (n : Nat) : Nat := 0x5C000C + 0x40 * n
def EG_NO_ECHO_TALLY_COUNT (n : Nat) : FRef := ⟨EG_NO_ECHO_TALLY n, 31, 0⟩

/-! Block pd at 0x600000 (R271). -/

def PD_STATUS : Nat := 0x600000
def PD_STATUS_SCAN : FRef := ⟨PD_STATUS, 31, 30⟩
def PD_STATUS_SELF_REFRESH : FRef := ⟨PD_STATUS, 29, 29⟩
def PD_SCAN_RECORDS : Nat := 0x600004
def PD_SCAN_RECORDS_VALUE : FRef := ⟨PD_SCAN_RECORDS, 31, 0⟩
def PD_SCAN_BAD : Nat := 0x600008
def PD_SCAN_BAD_VALUE : FRef := ⟨PD_SCAN_BAD, 31, 0⟩
def PD_SCAN_TIME : Nat := 0x60000C
def PD_SCAN_TIME_VALUE : FRef := ⟨PD_SCAN_TIME, 31, 0⟩
def PD_SCAN_RATE : Nat := 0x600010
def PD_SCAN_RATE_VALUE : FRef := ⟨PD_SCAN_RATE, 31, 0⟩
def PD_RECORD_NEXT : Nat := 0x600014
def PD_RECORD_NEXT_VALUE : FRef := ⟨PD_RECORD_NEXT, 31, 0⟩
def PD_RECORD_SEQ : Nat := 0x600018
def PD_RECORD_SEQ_VALUE : FRef := ⟨PD_RECORD_SEQ, 31, 0⟩
def PD_NO_RECORD_TALLY : Nat := 0x60001C
def PD_NO_RECORD_TALLY_COUNT : FRef := ⟨PD_NO_RECORD_TALLY, 31, 0⟩
def PD_BAR4_REFUSED_TALLY : Nat := 0x600020
def PD_BAR4_REFUSED_TALLY_COUNT : FRef := ⟨PD_BAR4_REFUSED_TALLY, 31, 0⟩
def PD_OFFER : Nat := 0x600024
def PD_OFFER_ENABLE : FRef := ⟨PD_OFFER, 31, 31⟩
def PD_OFFER_FUNCTION : FRef := ⟨PD_OFFER, 19, 16⟩
def PD_OFFER_PEN : FRef := ⟨PD_OFFER, 15, 0⟩
def PD_OFFER_DROP_TALLY : Nat := 0x600028
def PD_OFFER_DROP_TALLY_COUNT : FRef := ⟨PD_OFFER_DROP_TALLY, 31, 0⟩
def PD_FN_AREA_FIRST (i : Nat) : Nat := 0x600040 + 0x8 * i
def PD_FN_AREA_FIRST_PAGES (i : Nat) : FRef := ⟨PD_FN_AREA_FIRST i, 11, 0⟩
def PD_FN_AREA_COUNT (i : Nat) : Nat := 0x600044 + 0x8 * i
def PD_FN_AREA_COUNT_PAGES (i : Nat) : FRef := ⟨PD_FN_AREA_COUNT i, 11, 0⟩
def PD_FIND_CTRL (fn : Nat) : Nat := 0x4000000 * fn + 0x600080
def PD_FIND_CTRL_GO (fn : Nat) : FRef := ⟨PD_FIND_CTRL fn, 31, 31⟩
def PD_FIND_CTRL_STREAM (fn : Nat) : FRef := ⟨PD_FIND_CTRL fn, 6, 0⟩
def PD_FIND_FRAME (fn : Nat) : Nat := 0x4000000 * fn + 0x600084
def PD_FIND_RESULT (fn : Nat) : Nat := 0x4000000 * fn + 0x60008C
def PD_FIND_RESULT_BUSY (fn : Nat) : FRef := ⟨PD_FIND_RESULT fn, 31, 31⟩
def PD_FIND_RESULT_FOUND (fn : Nat) : FRef := ⟨PD_FIND_RESULT fn, 30, 30⟩
def PD_FIND_RESULT_SLOT (fn : Nat) : FRef := ⟨PD_FIND_RESULT fn, 17, 0⟩

/-! Block fg at 0x610000 (R271). -/

def PD_FG_CMD (n : Nat) : Nat := 0x610000 + 0x100 * n
def PD_FG_CMD_ARM (n : Nat) : FRef := ⟨PD_FG_CMD n, 31, 31⟩
def PD_FG_CMD_DISARM (n : Nat) : FRef := ⟨PD_FG_CMD n, 30, 30⟩
def PD_FG_CMD_FREEZE (n : Nat) : FRef := ⟨PD_FG_CMD n, 29, 29⟩
def PD_FG_CMD_REARM (n : Nat) : FRef := ⟨PD_FG_CMD n, 28, 28⟩
def PD_FG_CMD_RELEASE (n : Nat) : FRef := ⟨PD_FG_CMD n, 27, 27⟩
def PD_FG_CMD_REGION (n : Nat) : FRef := ⟨PD_FG_CMD n, 0, 0⟩
def PD_FG_CFG (n : Nat) : Nat := 0x610004 + 0x100 * n
def PD_FG_CFG_AUTO_REARM (n : Nat) : FRef := ⟨PD_FG_CFG n, 31, 31⟩
def PD_FG_CFG_USE_TIME (n : Nat) : FRef := ⟨PD_FG_CFG n, 30, 30⟩
def PD_FG_CFG_SOURCE_INDEX (n : Nat) : FRef := ⟨PD_FG_CFG n, 23, 16⟩
def PD_FG_CFG_EDGE (n : Nat) : FRef := ⟨PD_FG_CFG n, 9, 8⟩
def PD_FG_CFG_SOURCE (n : Nat) : FRef := ⟨PD_FG_CFG n, 7, 4⟩
def PD_FG_CFG_UNIT (n : Nat) : FRef := ⟨PD_FG_CFG n, 0, 0⟩
def PD_FG_PRE (n : Nat) : Nat := 0x610008 + 0x100 * n
def PD_FG_PRE_VALUE (n : Nat) : FRef := ⟨PD_FG_PRE n, 31, 0⟩
def PD_FG_POST (n : Nat) : Nat := 0x61000C + 0x100 * n
def PD_FG_POST_VALUE (n : Nat) : FRef := ⟨PD_FG_POST n, 31, 0⟩
def PD_FG_LATE (n : Nat) : Nat := 0x610010 + 0x100 * n
def PD_FG_LATE_VALUE (n : Nat) : FRef := ⟨PD_FG_LATE n, 31, 0⟩
def PD_FG_GRACE (n : Nat) : Nat := 0x610014 + 0x100 * n
def PD_FG_GRACE_VALUE (n : Nat) : FRef := ⟨PD_FG_GRACE n, 31, 0⟩
def PD_FG_STATUS (n : Nat) : Nat := 0x610018 + 0x100 * n
def PD_FG_STATUS_STATE (n : Nat) : FRef := ⟨PD_FG_STATUS n, 31, 30⟩
def PD_FG_STATUS_REGION (n : Nat) : FRef := ⟨PD_FG_STATUS n, 29, 29⟩
def PD_FG_STATUS_HELD_A (n : Nat) : FRef := ⟨PD_FG_STATUS n, 28, 28⟩
def PD_FG_STATUS_HELD_B (n : Nat) : FRef := ⟨PD_FG_STATUS n, 27, 27⟩
def PD_FG_STATUS_CLIP_PRE (n : Nat) : FRef := ⟨PD_FG_STATUS n, 7, 7⟩
def PD_FG_STATUS_CLIP_POST (n : Nat) : FRef := ⟨PD_FG_STATUS n, 6, 6⟩
def PD_FG_STATUS_PRE_SHORT (n : Nat) : FRef := ⟨PD_FG_STATUS n, 5, 5⟩
def PD_FG_STATUS_REARM_REFUSED (n : Nat) : FRef := ⟨PD_FG_STATUS n, 4, 4⟩
def PD_FG_STATUS_REFUSED (n : Nat) : FRef := ⟨PD_FG_STATUS n, 3, 3⟩
def PD_FG_STATUS_CFG_REFUSED (n : Nat) : FRef := ⟨PD_FG_STATUS n, 2, 2⟩
def PD_FG_T (n : Nat) : Nat := 0x61001C + 0x100 * n
def PD_FG_SW_TIME (n : Nat) : Nat := 0x610028 + 0x100 * n
def PD_FG_SUMMARY (n : Nat) : Nat := 0x610034 + 0x100 * n
def PD_FG_SUMMARY_ENABLE (n : Nat) : FRef := ⟨PD_FG_SUMMARY n, 31, 31⟩
def PD_FG_SUMMARY_PEN (n : Nat) : FRef := ⟨PD_FG_SUMMARY n, 15, 0⟩
def PD_FG_CAUSE (n : Nat) : Nat := 0x610038 + 0x100 * n
def PD_FG_CAUSE_VALUE (n : Nat) : FRef := ⟨PD_FG_CAUSE n, 31, 0⟩
def PD_FG_FREEZE_TALLY (n : Nat) : Nat := 0x61003C + 0x100 * n
def PD_FG_FREEZE_TALLY_COUNT (n : Nat) : FRef := ⟨PD_FG_FREEZE_TALLY n, 31, 0⟩
def PD_FG_LOST_TALLY (n : Nat) : Nat := 0x610040 + 0x100 * n
def PD_FG_LOST_TALLY_COUNT (n : Nat) : FRef := ⟨PD_FG_LOST_TALLY n, 31, 0⟩
def PD_FG_CLIP_TALLY (n : Nat) : Nat := 0x610044 + 0x100 * n
def PD_FG_CLIP_TALLY_COUNT (n : Nat) : FRef := ⟨PD_FG_CLIP_TALLY n, 31, 0⟩
def PD_FG_MEMBERS (n i : Nat) : Nat := 0x610048 + 0x100 * n + 0x4 * i
def PD_FG_MEMBERS_STREAMS (n i : Nat) : FRef := ⟨PD_FG_MEMBERS n i, 31, 0⟩

/-! Block ps at 0x620000 (R271). -/

def PD_ST_CTRL (n : Nat) : Nat := 0x620000 + 0x80 * n
def PD_ST_CTRL_BURST_REARM (n : Nat) : FRef := ⟨PD_ST_CTRL n, 31, 31⟩
def PD_ST_CTRL_ACTIVE_REGION (n : Nat) : FRef := ⟨PD_ST_CTRL n, 4, 4⟩
def PD_ST_CTRL_BURST_DONE (n : Nat) : FRef := ⟨PD_ST_CTRL n, 3, 3⟩
def PD_ST_CTRL_SMALL (n : Nat) : FRef := ⟨PD_ST_CTRL n, 2, 2⟩
def PD_ST_CTRL_MODE (n : Nat) : FRef := ⟨PD_ST_CTRL n, 1, 0⟩
def PD_ST_REGION_A_FIRST (n : Nat) : Nat := 0x620004 + 0x80 * n
def PD_ST_REGION_A_FIRST_PAGES (n : Nat) : FRef := ⟨PD_ST_REGION_A_FIRST n, 15, 0⟩
def PD_ST_REGION_A_PAGES (n : Nat) : Nat := 0x620008 + 0x80 * n
def PD_ST_REGION_A_PAGES_PAGES (n : Nat) : FRef := ⟨PD_ST_REGION_A_PAGES n, 15, 0⟩
def PD_ST_REGION_B_FIRST (n : Nat) : Nat := 0x62000C + 0x80 * n
def PD_ST_REGION_B_FIRST_PAGES (n : Nat) : FRef := ⟨PD_ST_REGION_B_FIRST n, 15, 0⟩
def PD_ST_REGION_B_PAGES (n : Nat) : Nat := 0x620010 + 0x80 * n
def PD_ST_REGION_B_PAGES_PAGES (n : Nat) : FRef := ⟨PD_ST_REGION_B_PAGES n, 15, 0⟩
def PD_ST_WRITE (n : Nat) : Nat := 0x620014 + 0x80 * n
def PD_ST_WRITE_OFFSET (n : Nat) : FRef := ⟨PD_ST_WRITE n, 31, 0⟩
def PD_ST_WIN_FIRST (n : Nat) : Nat := 0x620018 + 0x80 * n
def PD_ST_WIN_LAST (n : Nat) : Nat := 0x620020 + 0x80 * n
def PD_ST_WIN (n : Nat) : Nat := 0x620028 + 0x80 * n
def PD_ST_WIN_CLIP_PRE (n : Nat) : FRef := ⟨PD_ST_WIN n, 31, 31⟩
def PD_ST_WIN_CLIP_POST (n : Nat) : FRef := ⟨PD_ST_WIN n, 30, 30⟩
def PD_ST_WIN_GRACE (n : Nat) : FRef := ⟨PD_ST_WIN n, 29, 29⟩
def PD_ST_WIN_PRE_SHORT (n : Nat) : FRef := ⟨PD_ST_WIN n, 28, 28⟩
def PD_ST_WIN_COUNT (n : Nat) : FRef := ⟨PD_ST_WIN n, 15, 0⟩
def PD_ST_OVERWRITE_TALLY (n : Nat) : Nat := 0x62002C + 0x80 * n
def PD_ST_OVERWRITE_TALLY_COUNT (n : Nat) : FRef := ⟨PD_ST_OVERWRITE_TALLY n, 31, 0⟩
def PD_ST_DISCARD_TALLY (n : Nat) : Nat := 0x620030 + 0x80 * n
def PD_ST_DISCARD_TALLY_COUNT (n : Nat) : FRef := ⟨PD_ST_DISCARD_TALLY n, 31, 0⟩

/-! Block pn at 0x1000000 (R291). -/

def PN_CFG (n : Nat) : Nat := 0x1000000 + 0x40 * n
def PN_CFG_ENABLE (n : Nat) : FRef := ⟨PN_CFG n, 31, 31⟩
def PN_CFG_LOSS_EV (n : Nat) : FRef := ⟨PN_CFG n, 17, 17⟩
def PN_CFG_WM_EV (n : Nat) : FRef := ⟨PN_CFG n, 16, 16⟩
def PN_CFG_WM_EN (n : Nat) : FRef := ⟨PN_CFG n, 15, 15⟩
def PN_CFG_POLICY (n : Nat) : FRef := ⟨PN_CFG n, 14, 14⟩
def PN_CFG_HO_PIN (n : Nat) : FRef := ⟨PN_CFG n, 12, 8⟩
def PN_CFG_SIZE_LOG2 (n : Nat) : FRef := ⟨PN_CFG n, 4, 0⟩
def PN_DATA_ADDR (n : Nat) : Nat := 0x1000004 + 0x40 * n
def PN_DATA_ADDR_ADDRESS (n : Nat) : FRef := ⟨PN_DATA_ADDR n, 26, 0⟩
def PN_SIDE_ADDR (n : Nat) : Nat := 0x1000008 + 0x40 * n
def PN_SIDE_ADDR_ADDRESS (n : Nat) : FRef := ⟨PN_SIDE_ADDR n, 26, 0⟩
def PN_WR (n : Nat) : Nat := 0x100000C + 0x40 * n
def PN_WR_VALUE (n : Nat) : FRef := ⟨PN_WR n, 24, 0⟩
def PN_RD (n : Nat) : Nat := 0x1000010 + 0x40 * n
def PN_RD_VALUE (n : Nat) : FRef := ⟨PN_RD n, 24, 0⟩
def PN_LEVEL (n : Nat) : Nat := 0x1000014 + 0x40 * n
def PN_LEVEL_VALUE (n : Nat) : FRef := ⟨PN_LEVEL n, 24, 0⟩
def PN_PACKETS (n : Nat) : Nat := 0x1000018 + 0x40 * n
def PN_PACKETS_VALUE (n : Nat) : FRef := ⟨PN_PACKETS n, 24, 0⟩
def PN_HWM (n : Nat) : Nat := 0x100001C + 0x40 * n
def PN_HWM_WORDS (n : Nat) : FRef := ⟨PN_HWM n, 24, 0⟩
def PN_LWM (n : Nat) : Nat := 0x1000020 + 0x40 * n
def PN_LWM_WORDS (n : Nat) : FRef := ⟨PN_LWM n, 24, 0⟩
def PN_POP (n : Nat) : Nat := 0x1000024 + 0x40 * n
def PN_POP_COUNT (n : Nat) : FRef := ⟨PN_POP n, 24, 0⟩
def PN_EXPECT (n : Nat) : Nat := 0x1000028 + 0x40 * n
def PN_EXPECT_CHECK (n : Nat) : FRef := ⟨PN_EXPECT n, 31, 31⟩
def PN_EXPECT_POINTER (n : Nat) : FRef := ⟨PN_EXPECT n, 24, 0⟩
def PN_CMD (n : Nat) : Nat := 0x100002C + 0x40 * n
def PN_CMD_DROP (n : Nat) : FRef := ⟨PN_CMD n, 31, 31⟩
def PN_CMD_CLEAR (n : Nat) : FRef := ⟨PN_CMD n, 30, 30⟩
def PN_CMD_PUSH (n : Nat) : FRef := ⟨PN_CMD n, 29, 29⟩
def PN_CMD_COUNT (n : Nat) : FRef := ⟨PN_CMD n, 24, 0⟩
def PN_STATUS (n : Nat) : Nat := 0x1000030 + 0x40 * n
def PN_STATUS_HURDLE (n : Nat) : FRef := ⟨PN_STATUS n, 31, 31⟩
def PN_STATUS_UP (n : Nat) : FRef := ⟨PN_STATUS n, 30, 30⟩
def PN_STATUS_DOWN (n : Nat) : FRef := ⟨PN_STATUS n, 29, 29⟩
def PN_STATUS_MIDPKT (n : Nat) : FRef := ⟨PN_STATUS n, 28, 28⟩
def PN_STATUS_DROPPING (n : Nat) : FRef := ⟨PN_STATUS n, 27, 27⟩
def PN_STATUS_STALE (n : Nat) : FRef := ⟨PN_STATUS n, 26, 26⟩
def PN_STATUS_POP_REFUSED (n : Nat) : FRef := ⟨PN_STATUS n, 25, 25⟩
def PN_STATUS_PUSH_REFUSED (n : Nat) : FRef := ⟨PN_STATUS n, 24, 24⟩
def PN_STATUS_CFG_REFUSED (n : Nat) : FRef := ⟨PN_STATUS n, 23, 23⟩
def PN_STATUS_TORN (n : Nat) : FRef := ⟨PN_STATUS n, 22, 22⟩
def PN_STATUS_WM_BAD (n : Nat) : FRef := ⟨PN_STATUS n, 21, 21⟩
def PN_STATUS_BUSY (n : Nat) : FRef := ⟨PN_STATUS n, 20, 20⟩
def PN_STATUS_FULL (n : Nat) : FRef := ⟨PN_STATUS n, 19, 19⟩
def PN_LOST_WORD_TALLY (n : Nat) : Nat := 0x1000034 + 0x40 * n
def PN_LOST_WORD_TALLY_COUNT (n : Nat) : FRef := ⟨PN_LOST_WORD_TALLY n, 31, 0⟩
def PN_LOST_PKT_TALLY (n : Nat) : Nat := 0x1000038 + 0x40 * n
def PN_LOST_PKT_TALLY_OVERWRITTEN (n : Nat) : FRef := ⟨PN_LOST_PKT_TALLY n, 31, 16⟩
def PN_LOST_PKT_TALLY_DROPPED (n : Nat) : FRef := ⟨PN_LOST_PKT_TALLY n, 15, 0⟩
def PN_EVENT_TALLY (n : Nat) : Nat := 0x100003C + 0x40 * n
def PN_EVENT_TALLY_CROSS (n : Nat) : FRef := ⟨PN_EVENT_TALLY n, 31, 16⟩
def PN_EVENT_TALLY_REFUSE (n : Nat) : FRef := ⟨PN_EVENT_TALLY n, 15, 0⟩

/-! Block png at 0xF60000 (R292). -/

def PNG_NOTICE (n i : Nat) : Nat := 0xF60000 + 0x40 * n + 0x4 * i
def PNG_NOTICE_PENS (n i : Nat) : FRef := ⟨PNG_NOTICE n i, 31, 0⟩

/-! Block hu at 0xF62000 (R292). -/

def HU_OUT : Nat := 0xF62000
def HU_OUT_STATE : FRef := ⟨HU_OUT, 31, 16⟩
def HU_OUT_FORCE : FRef := ⟨HU_OUT, 15, 0⟩
def HU_OUT_INVERT : Nat := 0xF62004
def HU_OUT_INVERT_INVERT : FRef := ⟨HU_OUT_INVERT, 15, 0⟩
def HU_IN : Nat := 0xF62008
def HU_IN_UP : FRef := ⟨HU_IN, 31, 24⟩
def HU_IN_DOWN : FRef := ⟨HU_IN, 23, 16⟩
def HU_IN_INVERT : FRef := ⟨HU_IN, 15, 8⟩
def HU_IN_STATE : FRef := ⟨HU_IN, 7, 0⟩
def HU_IN_FILTER : Nat := 0xF6200C
def HU_IN_FILTER_SAMPLES : FRef := ⟨HU_IN_FILTER, 5, 0⟩

/-! Block dv at 0x800000 (R319). -/

def DV_CTRL (n : Nat) : Nat := 0x800000 + 0x10000 * n
def DV_CTRL_CTO_US (n : Nat) : FRef := ⟨DV_CTRL n, 15, 0⟩
def DV_STATUS (n : Nat) : Nat := 0x800004 + 0x10000 * n
def DV_STATUS_READS (n : Nat) : FRef := ⟨DV_STATUS n, 24, 16⟩
def DV_STATUS_BUSY (n : Nat) : FRef := ⟨DV_STATUS n, 8, 8⟩
def DV_STATUS_CHANNEL (n : Nat) : FRef := ⟨DV_STATUS n, 7, 0⟩
def DV_LATE_TALLY (n : Nat) : Nat := 0x800008 + 0x10000 * n
def DV_LATE_TALLY_COUNT (n : Nat) : FRef := ⟨DV_LATE_TALLY n, 31, 0⟩
def DV_HELD_TALLY (n : Nat) : Nat := 0x80000C + 0x10000 * n
def DV_HELD_TALLY_COUNT (n : Nat) : FRef := ⟨DV_HELD_TALLY n, 31, 0⟩
def DV_BYTES (n : Nat) : Nat := 0x800010 + 0x10000 * n
def DV_NOTICE (n i : Nat) : Nat := 0x800040 + 0x10000 * n + 0x4 * i
def DV_NOTICE_CHANNELS (n i : Nat) : FRef := ⟨DV_NOTICE n i, 31, 0⟩

/-! Block ch at 0x804000 (R319). -/

def CH_CTRL (n m : Nat) : Nat := 0x804000 + 0x10000 * n + 0x40 * m
def CH_CTRL_START (n m : Nat) : FRef := ⟨CH_CTRL n m, 31, 31⟩
def CH_CTRL_RESET (n m : Nat) : FRef := ⟨CH_CTRL n m, 30, 30⟩
def CH_CTRL_ENABLE (n m : Nat) : FRef := ⟨CH_CTRL n m, 0, 0⟩
def CH_CFG (n m : Nat) : Nat := 0x804004 + 0x10000 * n + 0x40 * m
def CH_CFG_KIND (n m : Nat) : FRef := ⟨CH_CFG n m, 31, 30⟩
def CH_CFG_PACKET (n m : Nat) : FRef := ⟨CH_CFG n m, 29, 29⟩
def CH_CFG_LIST_SPACE (n m : Nat) : FRef := ⟨CH_CFG n m, 28, 28⟩
def CH_CFG_HOP_LIMIT (n m : Nat) : FRef := ⟨CH_CFG n m, 12, 0⟩
def CH_PEN (n m : Nat) : Nat := 0x804008 + 0x10000 * n + 0x40 * m
def CH_PEN_PEN (n m : Nat) : FRef := ⟨CH_PEN n m, 15, 0⟩
def CH_THROTTLE (n m : Nat) : Nat := 0x80400C + 0x10000 * n + 0x40 * m
def CH_THROTTLE_ENABLE (n m : Nat) : FRef := ⟨CH_THROTTLE n m, 31, 31⟩
def CH_THROTTLE_KIND (n m : Nat) : FRef := ⟨CH_THROTTLE n m, 17, 16⟩
def CH_THROTTLE_INDEX (n m : Nat) : FRef := ⟨CH_THROTTLE n m, 15, 0⟩
def CH_LIST_ADDR (n m : Nat) : Nat := 0x804010 + 0x10000 * n + 0x40 * m
def CH_SRC_ADDR (n m : Nat) : Nat := 0x804018 + 0x10000 * n + 0x40 * m
def CH_SRC_WRAP (n m : Nat) : Nat := 0x804020 + 0x10000 * n + 0x40 * m
def CH_SRC_WRAP_PAGES (n m : Nat) : FRef := ⟨CH_SRC_WRAP n m, 31, 16⟩
def CH_SRC_WRAP_FIRST_PAGE (n m : Nat) : FRef := ⟨CH_SRC_WRAP n m, 15, 0⟩
def CH_STATUS (n m : Nat) : Nat := 0x804024 + 0x10000 * n + 0x40 * m
def CH_STATUS_STATE (n m : Nat) : FRef := ⟨CH_STATUS n m, 31, 29⟩
def CH_STATUS_STOP_CAUSE (n m : Nat) : FRef := ⟨CH_STATUS n m, 28, 26⟩
def CH_STATUS_REFUSED (n m : Nat) : FRef := ⟨CH_STATUS n m, 9, 9⟩
def CH_STATUS_END_SEEN (n m : Nat) : FRef := ⟨CH_STATUS n m, 8, 8⟩
def CH_STATUS_STOPPED (n m : Nat) : FRef := ⟨CH_STATUS n m, 7, 7⟩
def CH_STATUS_ERR (n m : Nat) : FRef := ⟨CH_STATUS n m, 6, 6⟩
def CH_STATUS_IRQ_DONE (n m : Nat) : FRef := ⟨CH_STATUS n m, 5, 5⟩
def CH_STATUS_LAST_STATUS (n m : Nat) : FRef := ⟨CH_STATUS n m, 3, 0⟩
def CH_CUR (n m : Nat) : Nat := 0x804028 + 0x10000 * n + 0x40 * m
def CH_ENTRIES (n m : Nat) : Nat := 0x804030 + 0x10000 * n + 0x40 * m
def CH_ENTRIES_VALUE (n m : Nat) : FRef := ⟨CH_ENTRIES n m, 31, 0⟩
def CH_BYTES (n m : Nat) : Nat := 0x804034 + 0x10000 * n + 0x40 * m
def CH_BAD_TALLY (n m : Nat) : Nat := 0x80403C + 0x10000 * n + 0x40 * m
def CH_BAD_TALLY_COUNT (n m : Nat) : FRef := ⟨CH_BAD_TALLY n m, 31, 0⟩

/-! Block ev at 0xF00000 (R347). -/

def EV_CFG (fn n : Nat) : Nat := 0x4000000 * fn + 0xF00000 + 0x10 * n
def EV_CFG_ENABLE (fn n : Nat) : FRef := ⟨EV_CFG fn n, 31, 31⟩
def EV_CFG_ROUTE (fn n : Nat) : FRef := ⟨EV_CFG fn n, 29, 28⟩
def EV_CFG_VECTOR (fn n : Nat) : FRef := ⟨EV_CFG fn n, 23, 16⟩
def EV_CFG_PEN (fn n : Nat) : FRef := ⟨EV_CFG fn n, 15, 0⟩
def EV_COAL (fn n : Nat) : Nat := 0x4000000 * fn + 0xF00004 + 0x10 * n
def EV_COAL_COUNT (fn n : Nat) : FRef := ⟨EV_COAL fn n, 31, 24⟩
def EV_COAL_HOLDOFF_US (fn n : Nat) : FRef := ⟨EV_COAL fn n, 15, 0⟩
def EV_STATUS (fn n : Nat) : Nat := 0x4000000 * fn + 0xF00008 + 0x10 * n
def EV_STATUS_PENDING (fn n : Nat) : FRef := ⟨EV_STATUS fn n, 31, 31⟩
def EV_STATUS_OVERFLOW (fn n : Nat) : FRef := ⟨EV_STATUS fn n, 30, 30⟩
def EV_STATUS_UNDELIVERED (fn n : Nat) : FRef := ⟨EV_STATUS fn n, 15, 0⟩
def EV_TALLY (fn n : Nat) : Nat := 0x4000000 * fn + 0xF0000C + 0x10 * n
def EV_TALLY_COUNT (fn n : Nat) : FRef := ⟨EV_TALLY fn n, 31, 0⟩

/-! Block evg at 0xF10000 (R347). -/

def EV_SUMMARY (fn i : Nat) : Nat := 0x4000000 * fn + 0xF10000 + 0x4 * i
def EV_SUMMARY_PENDING (fn i : Nat) : FRef := ⟨EV_SUMMARY fn i, 31, 0⟩
def EV_RAISE (fn : Nat) : Nat := 0x4000000 * fn + 0xF10080
def EV_RAISE_VALUE (fn : Nat) : FRef := ⟨EV_RAISE fn, 31, 0⟩
def EV_SEQ (fn : Nat) : Nat := 0x4000000 * fn + 0xF10084
def EV_SEQ_VALUE (fn : Nat) : FRef := ⟨EV_SEQ fn, 31, 0⟩
def EV_DROP_TALLY (fn : Nat) : Nat := 0x4000000 * fn + 0xF10088
def EV_DROP_TALLY_COUNT (fn : Nat) : FRef := ⟨EV_DROP_TALLY fn, 31, 0⟩

/-! Block msix at 0xF40000 (R340, R347). -/

def MSIX_ADDR_LO (fn n : Nat) : Nat := 0x4000000 * fn + 0xF40000 + 0x10 * n
def MSIX_ADDR_LO_VALUE (fn n : Nat) : FRef := ⟨MSIX_ADDR_LO fn n, 31, 0⟩
def MSIX_ADDR_HI (fn n : Nat) : Nat := 0x4000000 * fn + 0xF40004 + 0x10 * n
def MSIX_ADDR_HI_VALUE (fn n : Nat) : FRef := ⟨MSIX_ADDR_HI fn n, 31, 0⟩
def MSIX_DATA (fn n : Nat) : Nat := 0x4000000 * fn + 0xF40008 + 0x10 * n
def MSIX_DATA_VALUE (fn n : Nat) : FRef := ⟨MSIX_DATA fn n, 31, 0⟩
def MSIX_CTRL (fn n : Nat) : Nat := 0x4000000 * fn + 0xF4000C + 0x10 * n
def MSIX_CTRL_MASK (fn n : Nat) : FRef := ⟨MSIX_CTRL fn n, 0, 0⟩

/-! Block pba at 0xF41000 (R340, R347). -/

def MSIX_PBA (fn i : Nat) : Nat := 0x4000000 * fn + 0xF41000 + 0x4 * i
def MSIX_PBA_PENDING (fn i : Nat) : FRef := ⟨MSIX_PBA fn i, 31, 0⟩

/-! Block tb at 0x900000 (R369). -/

def TB_CTRL : Nat := 0x900000
def TB_CTRL_JOIN_FORCE : FRef := ⟨TB_CTRL, 31, 31⟩
def TB_CTRL_JOIN_CANCEL : FRef := ⟨TB_CTRL, 30, 30⟩
def TB_CTRL_KEEP_SERVO : FRef := ⟨TB_CTRL, 3, 3⟩
def TB_CTRL_GM_EN : FRef := ⟨TB_CTRL, 2, 2⟩
def TB_CTRL_REF_SEL : FRef := ⟨TB_CTRL, 1, 1⟩
def TB_CTRL_SEL : FRef := ⟨TB_CTRL, 0, 0⟩
def TB_STATUS : Nat := 0x900004
def TB_STATUS_JOIN_WAIT : FRef := ⟨TB_STATUS, 5, 5⟩
def TB_STATUS_JOINING : FRef := ⟨TB_STATUS, 4, 4⟩
def TB_STATUS_PPS_LOCK : FRef := ⟨TB_STATUS, 3, 3⟩
def TB_STATUS_REF_LOCK : FRef := ⟨TB_STATUS, 2, 2⟩
def TB_STATUS_ACTIVE : FRef := ⟨TB_STATUS, 0, 0⟩
def TB_JOIN_LIMIT : Nat := 0x900008
def TB_JOIN_LIMIT_VALUE : FRef := ⟨TB_JOIN_LIMIT, 31, 0⟩
def TB_JOIN_BACK_LIMIT : Nat := 0x90000C
def TB_JOIN_BACK_LIMIT_VALUE : FRef := ⟨TB_JOIN_BACK_LIMIT, 31, 0⟩
def TB_TIME : Nat := 0x900010
def TB_JOIN_GAP : Nat := 0x90001C
def TB_JOIN_GAP_VALUE : FRef := ⟨TB_JOIN_GAP, 31, 0⟩
def TB_JOIN_TALLY : Nat := 0x900020
def TB_JOIN_TALLY_COUNT : FRef := ⟨TB_JOIN_TALLY, 31, 0⟩
def TB_PPS_IN : Nat := 0x900024
def TB_PPS_OUT : Nat := 0x900030
def TB_PPS_OUT_ENABLE : FRef := ⟨TB_PPS_OUT, 31, 31⟩
def TB_PPS_OUT_WIDTH_US : FRef := ⟨TB_PPS_OUT, 18, 0⟩

/-! Block td at 0x900100 (R369). -/

def TD_INC_FRAC (n : Nat) : Nat := 0x900100 + 0x100 * n
def TD_INC_FRAC_FRAC (n : Nat) : FRef := ⟨TD_INC_FRAC n, 31, 0⟩
def TD_INC_INT (n : Nat) : Nat := 0x900104 + 0x100 * n
def TD_INC_INT_INT (n : Nat) : FRef := ⟨TD_INC_INT n, 7, 0⟩
def TD_ADJ_FRAC (n : Nat) : Nat := 0x900108 + 0x100 * n
def TD_ADJ_FRAC_FRAC (n : Nat) : FRef := ⟨TD_ADJ_FRAC n, 31, 0⟩
def TD_ADJ_INT (n : Nat) : Nat := 0x90010C + 0x100 * n
def TD_ADJ_INT_INT (n : Nat) : FRef := ⟨TD_ADJ_INT n, 7, 0⟩
def TD_ADJ_TICKS (n : Nat) : Nat := 0x900110 + 0x100 * n
def TD_ADJ_TICKS_TICKS (n : Nat) : FRef := ⟨TD_ADJ_TICKS n, 31, 0⟩
def TD_TIME (n : Nat) : Nat := 0x900114 + 0x100 * n
def TD_SET (n : Nat) : Nat := 0x900120 + 0x100 * n
def TD_CMD (n : Nat) : Nat := 0x90012C + 0x100 * n
def TD_CMD_SET (n : Nat) : FRef := ⟨TD_CMD n, 31, 31⟩
def TD_CMD_SET_ON_PPS (n : Nat) : FRef := ⟨TD_CMD n, 30, 30⟩
def TD_CMD_RESTART_SERVO (n : Nat) : FRef := ⟨TD_CMD n, 29, 29⟩
def TD_STATUS (n : Nat) : Nat := 0x900130 + 0x100 * n
def TD_STATUS_STATE (n : Nat) : FRef := ⟨TD_STATUS n, 31, 29⟩
def TD_STATUS_CATCHUP (n : Nat) : FRef := ⟨TD_STATUS n, 4, 4⟩
def TD_STATUS_ADJ_BUSY (n : Nat) : FRef := ⟨TD_STATUS n, 3, 3⟩
def TD_STATUS_INC_REFUSED (n : Nat) : FRef := ⟨TD_STATUS n, 2, 2⟩
def TD_STATUS_SET_REFUSED (n : Nat) : FRef := ⟨TD_STATUS n, 1, 1⟩
def TD_PTP_CFG (n : Nat) : Nat := 0x900134 + 0x100 * n
def TD_PTP_CFG_LOG_ANNOUNCE (n : Nat) : FRef := ⟨TD_PTP_CFG n, 31, 28⟩
def TD_PTP_CFG_LOG_DELAY_REQ (n : Nat) : FRef := ⟨TD_PTP_CFG n, 27, 24⟩
def TD_PTP_CFG_LOG_SYNC (n : Nat) : FRef := ⟨TD_PTP_CFG n, 23, 20⟩
def TD_PTP_CFG_TRANSPORT (n : Nat) : FRef := ⟨TD_PTP_CFG n, 19, 18⟩
def TD_PTP_CFG_DELAY (n : Nat) : FRef := ⟨TD_PTP_CFG n, 17, 17⟩
def TD_PTP_CFG_TWO_STEP (n : Nat) : FRef := ⟨TD_PTP_CFG n, 16, 16⟩
def TD_PTP_CFG_ROLE (n : Nat) : FRef := ⟨TD_PTP_CFG n, 15, 14⟩
def TD_PTP_CFG_DOMAIN_AUTO (n : Nat) : FRef := ⟨TD_PTP_CFG n, 8, 8⟩
def TD_PTP_CFG_DOMAIN (n : Nat) : FRef := ⟨TD_PTP_CFG n, 6, 0⟩
def TD_PTP_PRIO (n : Nat) : Nat := 0x900138 + 0x100 * n
def TD_PTP_PRIO_CLOCK_CLASS (n : Nat) : FRef := ⟨TD_PTP_PRIO n, 31, 24⟩
def TD_PTP_PRIO_PRIORITY1 (n : Nat) : FRef := ⟨TD_PTP_PRIO n, 15, 8⟩
def TD_PTP_PRIO_PRIORITY2 (n : Nat) : FRef := ⟨TD_PTP_PRIO n, 7, 0⟩
def TD_SERVO (n : Nat) : Nat := 0x90013C + 0x100 * n
def TD_SERVO_STEP_LIMIT_US (n : Nat) : FRef := ⟨TD_SERVO n, 31, 16⟩
def TD_SERVO_HOLDOVER_S (n : Nat) : FRef := ⟨TD_SERVO n, 15, 8⟩
def TD_SERVO_BW (n : Nat) : FRef := ⟨TD_SERVO n, 2, 0⟩
def TD_OFFSET (n : Nat) : Nat := 0x900140 + 0x100 * n
def TD_OFFSET_PICOSECONDS (n : Nat) : FRef := ⟨TD_OFFSET n, 31, 0⟩
def TD_PATH_DELAY (n : Nat) : Nat := 0x900144 + 0x100 * n
def TD_PATH_DELAY_PICOSECONDS (n : Nat) : FRef := ⟨TD_PATH_DELAY n, 31, 0⟩
def TD_STEP_TALLY (n : Nat) : Nat := 0x900148 + 0x100 * n
def TD_STEP_TALLY_COUNT (n : Nat) : FRef := ⟨TD_STEP_TALLY n, 31, 0⟩
def TD_SYNC_TALLY (n : Nat) : Nat := 0x90014C + 0x100 * n
def TD_SYNC_TALLY_COUNT (n : Nat) : FRef := ⟨TD_SYNC_TALLY n, 31, 0⟩
def TD_TIMEOUT_TALLY (n : Nat) : Nat := 0x900150 + 0x100 * n
def TD_TIMEOUT_TALLY_COUNT (n : Nat) : FRef := ⟨TD_TIMEOUT_TALLY n, 31, 0⟩

/-! Block tc at 0x901000 (R369). -/

def TC_CTRL (n : Nat) : Nat := 0x901000 + 0x20 * n
def TC_CTRL_ARM (n : Nat) : FRef := ⟨TC_CTRL n, 31, 31⟩
def TC_CTRL_DISARM (n : Nat) : FRef := ⟨TC_CTRL n, 30, 30⟩
def TC_CTRL_ARMED (n : Nat) : FRef := ⟨TC_CTRL n, 29, 29⟩
def TC_CTRL_EVENT (n : Nat) : FRef := ⟨TC_CTRL n, 0, 0⟩
def TC_TIME (n : Nat) : Nat := 0x901004 + 0x20 * n
def TC_PERIOD_NS (n : Nat) : Nat := 0x901010 + 0x20 * n
def TC_PERIOD_NS_NS (n : Nat) : FRef := ⟨TC_PERIOD_NS n, 31, 0⟩
def TC_PERIOD_FRAC (n : Nat) : Nat := 0x901014 + 0x20 * n
def TC_PERIOD_FRAC_FRAC (n : Nat) : FRef := ⟨TC_PERIOD_FRAC n, 15, 0⟩
def TC_COUNT (n : Nat) : Nat := 0x901018 + 0x20 * n
def TC_COUNT_COUNT (n : Nat) : FRef := ⟨TC_COUNT n, 31, 0⟩
def TC_STATUS (n : Nat) : Nat := 0x90101C + 0x20 * n
def TC_STATUS_FIRED (n : Nat) : FRef := ⟨TC_STATUS n, 31, 31⟩
def TC_STATUS_LATE (n : Nat) : FRef := ⟨TC_STATUS n, 30, 30⟩
def TC_STATUS_STEPPED (n : Nat) : FRef := ⟨TC_STATUS n, 29, 29⟩
def TC_STATUS_SKIPPED (n : Nat) : FRef := ⟨TC_STATUS n, 15, 0⟩

/-! Block en at 0xA00000 (R394). -/

def EN_CTRL (n : Nat) : Nat := 0xA00000 + 0x1000 * n
def EN_CTRL_ENABLE (n : Nat) : FRef := ⟨EN_CTRL n, 31, 31⟩
def EN_CTRL_DECODE (n : Nat) : FRef := ⟨EN_CTRL n, 29, 28⟩
def EN_CTRL_INVERT_DIR (n : Nat) : FRef := ⟨EN_CTRL n, 27, 27⟩
def EN_CTRL_INDEX_GATE (n : Nat) : FRef := ⟨EN_CTRL n, 26, 25⟩
def EN_CTRL_ILL_EV (n : Nat) : FRef := ⟨EN_CTRL n, 24, 24⟩
def EN_CTRL_HALL_EN (n : Nat) : FRef := ⟨EN_CTRL n, 23, 23⟩
def EN_CTRL_FILTER (n : Nat) : FRef := ⟨EN_CTRL n, 5, 0⟩
def EN_CMD (n : Nat) : Nat := 0xA00004 + 0x1000 * n
def EN_CMD_SET (n : Nat) : FRef := ⟨EN_CMD n, 31, 31⟩
def EN_CMD_SET_ON_INDEX (n : Nat) : FRef := ⟨EN_CMD n, 30, 30⟩
def EN_CMD_ADJUST (n : Nat) : FRef := ⟨EN_CMD n, 29, 29⟩
def EN_CMD_CMP_RESET (n : Nat) : FRef := ⟨EN_CMD n, 28, 28⟩
def EN_POS (n : Nat) : Nat := 0xA00008 + 0x1000 * n
def EN_SET (n : Nat) : Nat := 0xA00010 + 0x1000 * n
def EN_LIMIT_LO (n : Nat) : Nat := 0xA00018 + 0x1000 * n
def EN_LIMIT_HI (n : Nat) : Nat := 0xA00020 + 0x1000 * n
def EN_STATUS (n : Nat) : Nat := 0xA00028 + 0x1000 * n
def EN_STATUS_A (n : Nat) : FRef := ⟨EN_STATUS n, 31, 31⟩
def EN_STATUS_B (n : Nat) : FRef := ⟨EN_STATUS n, 30, 30⟩
def EN_STATUS_Z (n : Nat) : FRef := ⟨EN_STATUS n, 29, 29⟩
def EN_STATUS_HALL (n : Nat) : FRef := ⟨EN_STATUS n, 28, 26⟩
def EN_STATUS_DIR (n : Nat) : FRef := ⟨EN_STATUS n, 25, 25⟩
def EN_STATUS_OVERTRAVEL (n : Nat) : FRef := ⟨EN_STATUS n, 24, 24⟩
def EN_STATUS_AT_LIMIT (n : Nat) : FRef := ⟨EN_STATUS n, 23, 23⟩
def EN_STATUS_LINE_FAULT (n : Nat) : FRef := ⟨EN_STATUS n, 21, 16⟩
def EN_STATUS_INDEX_FAULT (n : Nat) : FRef := ⟨EN_STATUS n, 15, 15⟩
def EN_STATUS_BEHIND (n : Nat) : FRef := ⟨EN_STATUS n, 14, 14⟩
def EN_STATUS_HALL_ILL (n : Nat) : FRef := ⟨EN_STATUS n, 13, 13⟩
def EN_STATUS_ILL (n : Nat) : FRef := ⟨EN_STATUS n, 12, 12⟩
def EN_STATUS_SET_PENDING (n : Nat) : FRef := ⟨EN_STATUS n, 11, 11⟩
def EN_STATUS_CMP_REFUSED (n : Nat) : FRef := ⟨EN_STATUS n, 10, 10⟩
def EN_SPEED (n : Nat) : Nat := 0xA0002C + 0x1000 * n
def EN_SPEED_SPEED (n : Nat) : FRef := ⟨EN_SPEED n, 31, 0⟩
def EN_SPEED_STAT (n : Nat) : Nat := 0xA00030 + 0x1000 * n
def EN_SPEED_STAT_VALID (n : Nat) : FRef := ⟨EN_SPEED_STAT n, 31, 31⟩
def EN_SPEED_STAT_REV (n : Nat) : FRef := ⟨EN_SPEED_STAT n, 30, 30⟩
def EN_SPEED_STAT_METHOD (n : Nat) : FRef := ⟨EN_SPEED_STAT n, 29, 29⟩
def EN_SPEED_STAT_STILL (n : Nat) : FRef := ⟨EN_SPEED_STAT n, 28, 28⟩
def EN_SPEED_CFG (n : Nat) : Nat := 0xA00034 + 0x1000 * n
def EN_SPEED_CFG_STILL_MS (n : Nat) : FRef := ⟨EN_SPEED_CFG n, 31, 20⟩
def EN_SPEED_CFG_MIN_COUNTS (n : Nat) : FRef := ⟨EN_SPEED_CFG n, 15, 8⟩
def EN_SPEED_CFG_WIN (n : Nat) : FRef := ⟨EN_SPEED_CFG n, 3, 0⟩
def EN_INDEX_CFG (n : Nat) : Nat := 0xA00038 + 0x1000 * n
def EN_INDEX_CFG_TOL (n : Nat) : FRef := ⟨EN_INDEX_CFG n, 31, 24⟩
def EN_INDEX_CFG_LINES (n : Nat) : FRef := ⟨EN_INDEX_CFG n, 23, 0⟩
def EN_INDEX_POS (n : Nat) : Nat := 0xA0003C + 0x1000 * n
def EN_INDEX_STAT (n : Nat) : Nat := 0xA00044 + 0x1000 * n
def EN_INDEX_STAT_CAUSE (n : Nat) : FRef := ⟨EN_INDEX_STAT n, 31, 28⟩
def EN_INDEX_STAT_DEVIATION (n : Nat) : FRef := ⟨EN_INDEX_STAT n, 27, 0⟩
def EN_ILL_TALLY (n : Nat) : Nat := 0xA00048 + 0x1000 * n
def EN_ILL_TALLY_COUNT (n : Nat) : FRef := ⟨EN_ILL_TALLY n, 31, 0⟩
def EN_OVERTRAVEL_TALLY (n : Nat) : Nat := 0xA0004C + 0x1000 * n
def EN_OVERTRAVEL_TALLY_COUNT (n : Nat) : FRef := ⟨EN_OVERTRAVEL_TALLY n, 31, 0⟩
def EN_INDEX_FAULT_TALLY (n : Nat) : Nat := 0xA00050 + 0x1000 * n
def EN_INDEX_FAULT_TALLY_COUNT (n : Nat) : FRef := ⟨EN_INDEX_FAULT_TALLY n, 31, 0⟩
def EN_HALL_ILL_TALLY (n : Nat) : Nat := 0xA00054 + 0x1000 * n
def EN_HALL_ILL_TALLY_COUNT (n : Nat) : FRef := ⟨EN_HALL_ILL_TALLY n, 31, 0⟩
def EN_CMP_HIT_TALLY (n : Nat) : Nat := 0xA00058 + 0x1000 * n
def EN_CMP_HIT_TALLY_COUNT (n : Nat) : FRef := ⟨EN_CMP_HIT_TALLY n, 31, 0⟩
def EN_CMP_SKIP_TALLY (n : Nat) : Nat := 0xA0005C + 0x1000 * n
def EN_CMP_SKIP_TALLY_COUNT (n : Nat) : FRef := ⟨EN_CMP_SKIP_TALLY n, 31, 0⟩
def EN_CMP_CTRL (n : Nat) : Nat := 0xA00060 + 0x1000 * n
def EN_CMP_CTRL_ENABLE (n : Nat) : FRef := ⟨EN_CMP_CTRL n, 31, 31⟩
def EN_CMP_CTRL_TAIL (n : Nat) : FRef := ⟨EN_CMP_CTRL n, 16, 0⟩
def EN_CMP_HEAD (n : Nat) : Nat := 0xA00064 + 0x1000 * n
def EN_CMP_HEAD_HEAD (n : Nat) : FRef := ⟨EN_CMP_HEAD n, 16, 0⟩
def EN_CMP_WADDR (n : Nat) : Nat := 0xA00068 + 0x1000 * n
def EN_CMP_WADDR_SLOT (n : Nat) : FRef := ⟨EN_CMP_WADDR n, 15, 0⟩
def EN_CMP_WDATA (n : Nat) : Nat := 0xA0006C + 0x1000 * n
def EN_CMP_BEHIND (n : Nat) : Nat := 0xA00074 + 0x1000 * n
def EN_CMP_BEHIND_SLOT (n : Nat) : FRef := ⟨EN_CMP_BEHIND n, 15, 0⟩
def EN_HIST_HEAD (n : Nat) : Nat := 0xA00100 + 0x1000 * n
def EN_HIST_HEAD_NEWEST (n : Nat) : FRef := ⟨EN_HIST_HEAD n, 5, 0⟩
def EN_HIST_LO (n i : Nat) : Nat := 0xA00200 + 0x1000 * n + 0x10 * i
def EN_HIST_LO_NS_LO (n i : Nat) : FRef := ⟨EN_HIST_LO n i, 31, 16⟩
def EN_HIST_LO_FRAC (n i : Nat) : FRef := ⟨EN_HIST_LO n i, 15, 0⟩
def EN_HIST_MID (n i : Nat) : Nat := 0xA00204 + 0x1000 * n + 0x10 * i
def EN_HIST_MID_SEC_LO (n i : Nat) : FRef := ⟨EN_HIST_MID n i, 31, 16⟩
def EN_HIST_MID_NS_HI (n i : Nat) : FRef := ⟨EN_HIST_MID n i, 15, 0⟩
def EN_HIST_HI (n i : Nat) : Nat := 0xA00208 + 0x1000 * n + 0x10 * i
def EN_HIST_HI_SEC_HI (n i : Nat) : FRef := ⟨EN_HIST_HI n i, 31, 0⟩
def EN_HIST_POS (n i : Nat) : Nat := 0xA0020C + 0x1000 * n + 0x10 * i
def EN_HIST_POS_DIR (n i : Nat) : FRef := ⟨EN_HIST_POS n i, 31, 31⟩
def EN_HIST_POS_BOUNDARY (n i : Nat) : FRef := ⟨EN_HIST_POS n i, 30, 0⟩

/-! Block sa at 0xA08000 (R394). -/

def SA_CFG (n : Nat) : Nat := 0xA08000 + 0x100 * n
def SA_CFG_ENABLE (n : Nat) : FRef := ⟨SA_CFG n, 31, 31⟩
def SA_CFG_PARITY (n : Nat) : FRef := ⟨SA_CFG n, 30, 29⟩
def SA_CFG_GRAY (n : Nat) : FRef := ⟨SA_CFG n, 28, 28⟩
def SA_CFG_LEAD (n : Nat) : FRef := ⟨SA_CFG n, 27, 26⟩
def SA_CFG_BITS (n : Nat) : FRef := ⟨SA_CFG n, 21, 16⟩
def SA_CFG_CLK_KHZ (n : Nat) : FRef := ⟨SA_CFG n, 15, 0⟩
def SA_REQ (n : Nat) : Nat := 0xA08004 + 0x100 * n
def SA_REQ_NOW (n : Nat) : FRef := ⟨SA_REQ n, 31, 31⟩
def SA_REQ_ON_TICK (n : Nat) : FRef := ⟨SA_REQ n, 30, 30⟩
def SA_REQ_ON_HIT (n : Nat) : FRef := ⟨SA_REQ n, 29, 29⟩
def SA_REQ_ON_SLOT (n : Nat) : FRef := ⟨SA_REQ n, 28, 28⟩
def SA_REQ_ON_EXPOSURE (n : Nat) : FRef := ⟨SA_REQ n, 27, 27⟩
def SA_REQ_TICK_DIV (n : Nat) : FRef := ⟨SA_REQ n, 26, 16⟩
def SA_REQ_HIT_EN (n : Nat) : FRef := ⟨SA_REQ n, 15, 14⟩
def SA_REQ_HIT_LINE (n : Nat) : FRef := ⟨SA_REQ n, 13, 12⟩
def SA_REQ_SLOT (n : Nat) : FRef := ⟨SA_REQ n, 11, 6⟩
def SA_REQ_CHANNEL (n : Nat) : FRef := ⟨SA_REQ n, 4, 0⟩
def SA_TIMING (n : Nat) : Nat := 0xA08008 + 0x100 * n
def SA_TIMING_MONO_US (n : Nat) : FRef := ⟨SA_TIMING n, 31, 24⟩
def SA_POS (n : Nat) : Nat := 0xA0800C + 0x100 * n
def SA_TIME (n : Nat) : Nat := 0xA08014 + 0x100 * n
def SA_PAIR (n : Nat) : Nat := 0xA08020 + 0x100 * n
def SA_PAIR_PAIR_EN (n : Nat) : FRef := ⟨SA_PAIR n, 31, 31⟩
def SA_PAIR_ENC (n : Nat) : FRef := ⟨SA_PAIR n, 1, 0⟩
def SA_PAIR_POS (n : Nat) : Nat := 0xA08024 + 0x100 * n
def SA_STATUS (n : Nat) : Nat := 0xA0802C + 0x100 * n
def SA_STATUS_BUSY (n : Nat) : FRef := ⟨SA_STATUS n, 31, 31⟩
def SA_STATUS_VALID (n : Nat) : FRef := ⟨SA_STATUS n, 30, 30⟩
def SA_STATUS_PARITY_ERR (n : Nat) : FRef := ⟨SA_STATUS n, 29, 29⟩
def SA_STATUS_MONO_ERR (n : Nat) : FRef := ⟨SA_STATUS n, 28, 28⟩
def SA_STATUS_NOT_READY (n : Nat) : FRef := ⟨SA_STATUS n, 27, 27⟩
def SA_GOOD_TALLY (n : Nat) : Nat := 0xA08030 + 0x100 * n
def SA_GOOD_TALLY_COUNT (n : Nat) : FRef := ⟨SA_GOOD_TALLY n, 31, 0⟩
def SA_ERR_TALLY (n : Nat) : Nat := 0xA08034 + 0x100 * n
def SA_ERR_TALLY_COUNT (n : Nat) : FRef := ⟨SA_ERR_TALLY n, 31, 0⟩
def SA_MISS_TALLY (n : Nat) : Nat := 0xA08038 + 0x100 * n
def SA_MISS_TALLY_COUNT (n : Nat) : FRef := ⟨SA_MISS_TALLY n, 31, 0⟩

/-! Block tr at 0xB00000 (R414). -/

def TR_CTRL (n : Nat) : Nat := 0xB00000 + 0x100 * n
def TR_CTRL_ENABLE (n : Nat) : FRef := ⟨TR_CTRL n, 31, 31⟩
def TR_CTRL_EV_ISSUE (n : Nat) : FRef := ⟨TR_CTRL n, 30, 30⟩
def TR_CTRL_INBAND_END (n : Nat) : FRef := ⟨TR_CTRL n, 29, 29⟩
def TR_CTRL_CAM_EXPOSURE (n : Nat) : FRef := ⟨TR_CTRL n, 28, 28⟩
def TR_CTRL_COMMIT_MODE (n : Nat) : FRef := ⟨TR_CTRL n, 27, 27⟩
def TR_CTRL_COMBINE (n : Nat) : FRef := ⟨TR_CTRL n, 25, 24⟩
def TR_CTRL_STREAM (n : Nat) : FRef := ⟨TR_CTRL n, 6, 0⟩
def TR_SRC_A (n : Nat) : Nat := 0xB00004 + 0x100 * n
def TR_SRC_A_KIND (n : Nat) : FRef := ⟨TR_SRC_A n, 31, 28⟩
def TR_SRC_A_EDGE (n : Nat) : FRef := ⟨TR_SRC_A n, 27, 26⟩
def TR_SRC_A_PORT (n : Nat) : FRef := ⟨TR_SRC_A n, 24, 20⟩
def TR_SRC_A_INDEX (n : Nat) : FRef := ⟨TR_SRC_A n, 15, 0⟩
def TR_SRC_B (n : Nat) : Nat := 0xB00008 + 0x100 * n
def TR_SRC_B_KIND (n : Nat) : FRef := ⟨TR_SRC_B n, 31, 28⟩
def TR_SRC_B_EDGE (n : Nat) : FRef := ⟨TR_SRC_B n, 27, 26⟩
def TR_SRC_B_PORT (n : Nat) : FRef := ⟨TR_SRC_B n, 24, 20⟩
def TR_SRC_B_INDEX (n : Nat) : FRef := ⟨TR_SRC_B n, 15, 0⟩
def TR_AND_WINDOW (n : Nat) : Nat := 0xB0000C + 0x100 * n
def TR_AND_WINDOW_NS (n : Nat) : FRef := ⟨TR_AND_WINDOW n, 19, 0⟩
def TR_OUT (n : Nat) : Nat := 0xB00010 + 0x100 * n
def TR_OUT_ENABLE (n : Nat) : FRef := ⟨TR_OUT n, 31, 31⟩
def TR_OUT_POLARITY (n : Nat) : FRef := ⟨TR_OUT n, 30, 30⟩
def TR_OUT_FORCE (n : Nat) : FRef := ⟨TR_OUT n, 29, 28⟩
def TR_OUT_LATENCY (n : Nat) : Nat := 0xB00014 + 0x100 * n
def TR_OUT_LATENCY_PICOSECONDS (n : Nat) : FRef := ⟨TR_OUT_LATENCY n, 31, 0⟩
def TR_INBAND (n : Nat) : Nat := 0xB00018 + 0x100 * n
def TR_INBAND_ENABLE (n : Nat) : FRef := ⟨TR_INBAND n, 31, 31⟩
def TR_INBAND_PORT (n : Nat) : FRef := ⟨TR_INBAND n, 28, 24⟩
def TR_INBAND_ID (n : Nat) : FRef := ⟨TR_INBAND n, 3, 0⟩
def TR_CAM_EXP_SCALE (n : Nat) : Nat := 0xB0001C + 0x100 * n
def TR_CAM_EXP_SCALE_PICOSECONDS (n : Nat) : FRef := ⟨TR_CAM_EXP_SCALE n, 31, 0⟩
def TR_CAM_EXP_ADDR (n : Nat) : Nat := 0xB00020 + 0x100 * n
def TR_COMMIT (n : Nat) : Nat := 0xB00028 + 0x100 * n
def TR_COMMIT_REQ (n : Nat) : FRef := ⟨TR_COMMIT n, 31, 31⟩
def TR_COMMIT_CANCEL (n : Nat) : FRef := ⟨TR_COMMIT n, 30, 30⟩
def TR_COMMIT_PENDING (n : Nat) : FRef := ⟨TR_COMMIT n, 29, 29⟩
def TR_COMMIT_REJECT (n : Nat) : FRef := ⟨TR_COMMIT n, 19, 16⟩
def TR_COMMIT_GEN (n : Nat) : FRef := ⟨TR_COMMIT n, 15, 0⟩
def TR_STATUS (n : Nat) : Nat := 0xB0002C + 0x100 * n
def TR_STATUS_LATE (n : Nat) : FRef := ⟨TR_STATUS n, 31, 31⟩
def TR_STATUS_OVERLAP (n : Nat) : FRef := ⟨TR_STATUS n, 30, 30⟩
def TR_STATUS_OVERFLOW (n : Nat) : FRef := ⟨TR_STATUS n, 29, 29⟩
def TR_STATUS_CAMW_FAIL (n : Nat) : FRef := ⟨TR_STATUS n, 28, 28⟩
def TR_STATUS_PULSE (n : Nat) : FRef := ⟨TR_STATUS n, 27, 27⟩
def TR_STATUS_QUEUED (n : Nat) : FRef := ⟨TR_STATUS n, 6, 0⟩
def TR_DELAY_LO (n h : Nat) : Nat := 0xB00040 + 0x100 * n + 0x20 * h
def TR_DELAY_LO_STEPS (n h : Nat) : FRef := ⟨TR_DELAY_LO n h, 31, 0⟩
def TR_DELAY_HI (n h : Nat) : Nat := 0xB00044 + 0x100 * n + 0x20 * h
def TR_DELAY_HI_STEPS (n h : Nat) : FRef := ⟨TR_DELAY_HI n h, 5, 0⟩
def TR_WIDTH_LO (n h : Nat) : Nat := 0xB00048 + 0x100 * n + 0x20 * h
def TR_WIDTH_LO_STEPS (n h : Nat) : FRef := ⟨TR_WIDTH_LO n h, 31, 0⟩
def TR_WIDTH_HI (n h : Nat) : Nat := 0xB0004C + 0x100 * n + 0x20 * h
def TR_WIDTH_HI_STEPS (n h : Nat) : FRef := ⟨TR_WIDTH_HI n h, 5, 0⟩
def TR_DIVIDER (n h : Nat) : Nat := 0xB00050 + 0x100 * n + 0x20 * h
def TR_DIVIDER_DIVIDER (n h : Nat) : FRef := ⟨TR_DIVIDER n h, 15, 0⟩
def TR_BURST (n h : Nat) : Nat := 0xB00054 + 0x100 * n + 0x20 * h
def TR_BURST_COUNT (n h : Nat) : FRef := ⟨TR_BURST n h, 15, 0⟩
def TR_BURST_PERIOD_LO (n h : Nat) : Nat := 0xB00058 + 0x100 * n + 0x20 * h
def TR_BURST_PERIOD_LO_STEPS (n h : Nat) : FRef := ⟨TR_BURST_PERIOD_LO n h, 31, 0⟩
def TR_BURST_PERIOD_HI (n h : Nat) : Nat := 0xB0005C + 0x100 * n + 0x20 * h
def TR_BURST_PERIOD_HI_STEPS (n h : Nat) : FRef := ⟨TR_BURST_PERIOD_HI n h, 5, 0⟩
def TR_LAST_START (n : Nat) : Nat := 0xB00080 + 0x100 * n
def TR_ISSUE_TALLY (n : Nat) : Nat := 0xB0008C + 0x100 * n
def TR_ISSUE_TALLY_COUNT (n : Nat) : FRef := ⟨TR_ISSUE_TALLY n, 31, 0⟩
def TR_LATE_TALLY (n : Nat) : Nat := 0xB00090 + 0x100 * n
def TR_LATE_TALLY_COUNT (n : Nat) : FRef := ⟨TR_LATE_TALLY n, 31, 0⟩
def TR_OVERLAP_TALLY (n : Nat) : Nat := 0xB00094 + 0x100 * n
def TR_OVERLAP_TALLY_COUNT (n : Nat) : FRef := ⟨TR_OVERLAP_TALLY n, 31, 0⟩
def TR_OVERFLOW_TALLY (n : Nat) : Nat := 0xB00098 + 0x100 * n
def TR_OVERFLOW_TALLY_COUNT (n : Nat) : FRef := ⟨TR_OVERFLOW_TALLY n, 31, 0⟩
def TR_DISCARD_TALLY (n : Nat) : Nat := 0xB0009C + 0x100 * n
def TR_DISCARD_TALLY_COUNT (n : Nat) : FRef := ⟨TR_DISCARD_TALLY n, 31, 0⟩
def TR_HIST_DROP_TALLY (n : Nat) : Nat := 0xB000A0 + 0x100 * n
def TR_HIST_DROP_TALLY_COUNT (n : Nat) : FRef := ⟨TR_HIST_DROP_TALLY n, 31, 0⟩
def TR_CAMW_FAIL_TALLY (n : Nat) : Nat := 0xB000A4 + 0x100 * n
def TR_CAMW_FAIL_TALLY_COUNT (n : Nat) : FRef := ⟨TR_CAMW_FAIL_TALLY n, 31, 0⟩

/-! Block trg at 0xB02000 (R414). -/

def TR_SW : Nat := 0xB02000
def TR_SW_PULSE : FRef := ⟨TR_SW, 23, 0⟩
def TR_GROUP : Nat := 0xB02004
def TR_GROUP_IN_STD : FRef := ⟨TR_GROUP, 9, 8⟩
def TR_GROUP_OUT_STD : FRef := ⟨TR_GROUP, 5, 0⟩
def TR_LOAD : Nat := 0xB02008
def TR_LOAD_UNITS : FRef := ⟨TR_LOAD, 19, 0⟩

/-! Block ti at 0xB03000 (R414). -/

def TI_CFG (n : Nat) : Nat := 0xB03000 + 0x40 * n
def TI_CFG_INVERT (n : Nat) : FRef := ⟨TI_CFG n, 8, 8⟩
def TI_CFG_FILTER (n : Nat) : FRef := ⟨TI_CFG n, 7, 0⟩
def TI_STATUS (n : Nat) : Nat := 0xB03004 + 0x40 * n
def TI_STATUS_LEVEL (n : Nat) : FRef := ⟨TI_STATUS n, 31, 31⟩
def TI_STATUS_UP (n : Nat) : FRef := ⟨TI_STATUS n, 30, 30⟩
def TI_STATUS_DOWN (n : Nat) : FRef := ⟨TI_STATUS n, 29, 29⟩
def TI_TIME (n : Nat) : Nat := 0xB03008 + 0x40 * n
def TI_EDGE_TALLY (n : Nat) : Nat := 0xB03014 + 0x40 * n
def TI_EDGE_TALLY_COUNT (n : Nat) : FRef := ⟨TI_EDGE_TALLY n, 31, 0⟩

/-! Block ai at 0xC00000 (R437). -/

def AI_CTRL (n : Nat) : Nat := 0xC00000 + 0x100 * n
def AI_CTRL_ENABLE (n : Nat) : FRef := ⟨AI_CTRL n, 31, 31⟩
def AI_CTRL_PEN_EN (n : Nat) : FRef := ⟨AI_CTRL n, 30, 30⟩
def AI_CTRL_RANGE (n : Nat) : FRef := ⟨AI_CTRL n, 29, 28⟩
def AI_CTRL_OVR_EV (n : Nat) : FRef := ⟨AI_CTRL n, 27, 27⟩
def AI_CTRL_PEN (n : Nat) : FRef := ⟨AI_CTRL n, 15, 0⟩
def AI_START (n : Nat) : Nat := 0xC00004 + 0x100 * n
def AI_START_NOW (n : Nat) : FRef := ⟨AI_START n, 31, 31⟩
def AI_START_ON_TICK (n : Nat) : FRef := ⟨AI_START n, 30, 30⟩
def AI_START_ON_SLOT (n : Nat) : FRef := ⟨AI_START n, 29, 29⟩
def AI_START_ON_TRIG (n : Nat) : FRef := ⟨AI_START n, 28, 28⟩
def AI_START_ON_TI (n : Nat) : FRef := ⟨AI_START n, 27, 27⟩
def AI_START_TICK_DIV (n : Nat) : FRef := ⟨AI_START n, 26, 16⟩
def AI_START_SLOT (n : Nat) : FRef := ⟨AI_START n, 13, 8⟩
def AI_START_CHANNEL (n : Nat) : FRef := ⟨AI_START n, 7, 3⟩
def AI_START_TI (n : Nat) : FRef := ⟨AI_START n, 2, 0⟩
def AI_FLUSH (n : Nat) : Nat := 0xC00008 + 0x100 * n
def AI_FLUSH_US (n : Nat) : FRef := ⟨AI_FLUSH n, 15, 0⟩
def AI_THR_LEVEL (n : Nat) : Nat := 0xC0000C + 0x100 * n
def AI_THR_LEVEL_LEVEL (n : Nat) : FRef := ⟨AI_THR_LEVEL n, 17, 0⟩
def AI_THR_CFG (n : Nat) : Nat := 0xC00010 + 0x100 * n
def AI_THR_CFG_ENABLE (n : Nat) : FRef := ⟨AI_THR_CFG n, 31, 31⟩
def AI_THR_CFG_HYST (n : Nat) : FRef := ⟨AI_THR_CFG n, 25, 16⟩
def AI_THR_CFG_SPAN (n : Nat) : FRef := ⟨AI_THR_CFG n, 7, 0⟩
def AI_THR_SLOPE (n : Nat) : Nat := 0xC00014 + 0x100 * n
def AI_THR_SLOPE_ENABLE (n : Nat) : FRef := ⟨AI_THR_SLOPE n, 31, 31⟩
def AI_THR_SLOPE_SLOPE (n : Nat) : FRef := ⟨AI_THR_SLOPE n, 17, 0⟩
def AI_RESERVE (n : Nat) : Nat := 0xC00018 + 0x100 * n
def AI_RESERVE_WINDOWS (n : Nat) : FRef := ⟨AI_RESERVE n, 7, 0⟩
def AI_LAST (n : Nat) : Nat := 0xC0001C + 0x100 * n
def AI_LAST_OVR (n : Nat) : FRef := ⟨AI_LAST n, 31, 31⟩
def AI_LAST_VALUE (n : Nat) : FRef := ⟨AI_LAST n, 17, 0⟩
def AI_LAST_TIME (n : Nat) : Nat := 0xC00020 + 0x100 * n
def AI_THR_TIME (n : Nat) : Nat := 0xC0002C + 0x100 * n
def AI_STATUS (n : Nat) : Nat := 0xC00038 + 0x100 * n
def AI_STATUS_SETTLING (n : Nat) : FRef := ⟨AI_STATUS n, 31, 31⟩
def AI_STATUS_RESERVE_BUSY (n : Nat) : FRef := ⟨AI_STATUS n, 30, 30⟩
def AI_STATUS_OVR (n : Nat) : FRef := ⟨AI_STATUS n, 29, 29⟩
def AI_STATUS_RISE (n : Nat) : FRef := ⟨AI_STATUS n, 28, 28⟩
def AI_STATUS_FALL (n : Nat) : FRef := ⟨AI_STATUS n, 27, 27⟩
def AI_STATUS_ARMED_RISE (n : Nat) : FRef := ⟨AI_STATUS n, 26, 26⟩
def AI_STATUS_ARMED_FALL (n : Nat) : FRef := ⟨AI_STATUS n, 25, 25⟩
def AI_CONV_TALLY (n : Nat) : Nat := 0xC0003C + 0x100 * n
def AI_CONV_TALLY_COUNT (n : Nat) : FRef := ⟨AI_CONV_TALLY n, 31, 0⟩
def AI_MISS_TALLY (n : Nat) : Nat := 0xC00040 + 0x100 * n
def AI_MISS_TALLY_COUNT (n : Nat) : FRef := ⟨AI_MISS_TALLY n, 31, 0⟩
def AI_OVR_TALLY (n : Nat) : Nat := 0xC00044 + 0x100 * n
def AI_OVR_TALLY_COUNT (n : Nat) : FRef := ⟨AI_OVR_TALLY n, 31, 0⟩
def AI_DROP_TALLY (n : Nat) : Nat := 0xC00048 + 0x100 * n
def AI_DROP_TALLY_COUNT (n : Nat) : FRef := ⟨AI_DROP_TALLY n, 31, 0⟩
def AI_RESERVE_TALLY (n : Nat) : Nat := 0xC0004C + 0x100 * n
def AI_RESERVE_TALLY_COUNT (n : Nat) : FRef := ⟨AI_RESERVE_TALLY n, 31, 0⟩
def AI_CROSS_TALLY (n : Nat) : Nat := 0xC00050 + 0x100 * n
def AI_CROSS_TALLY_COUNT (n : Nat) : FRef := ⟨AI_CROSS_TALLY n, 31, 0⟩

/-! Block cal at 0xD00000 (R438). -/

def CAL_CTRL : Nat := 0xD00000
def CAL_CTRL_AUTO : FRef := ⟨CAL_CTRL, 3, 0⟩
def CAL_CMD : Nat := 0xD00004
def CAL_CMD_RUN : FRef := ⟨CAL_CMD, 31, 31⟩
def CAL_CMD_SAVE : FRef := ⟨CAL_CMD, 30, 30⟩
def CAL_CMD_OVERRIDE : FRef := ⟨CAL_CMD, 29, 29⟩
def CAL_CMD_LOAD : FRef := ⟨CAL_CMD, 28, 28⟩
def CAL_CMD_FACTORY : FRef := ⟨CAL_CMD, 27, 27⟩
def CAL_CMD_BLOCKS : FRef := ⟨CAL_CMD, 3, 0⟩
def CAL_TEMP_DELTA : Nat := 0xD00008
def CAL_TEMP_DELTA_SIXTEENTHS : FRef := ⟨CAL_TEMP_DELTA, 8, 0⟩
def CAL_DEADLINE : Nat := 0xD0000C
def CAL_DEADLINE_MS : FRef := ⟨CAL_DEADLINE, 15, 0⟩
def CAL_REFV_UV : Nat := 0xD00010
def CAL_REFV_UV_UV : FRef := ⟨CAL_REFV_UV, 22, 0⟩
def CAL_REFV_NOISE : Nat := 0xD00014
def CAL_REFV_NOISE_TENTHS_UV : FRef := ⟨CAL_REFV_NOISE, 15, 0⟩
def CAL_REFCLK_JITTER : Nat := 0xD00018
def CAL_REFCLK_JITTER_TENTHS_PS : FRef := ⟨CAL_REFCLK_JITTER, 15, 0⟩
def CAL_AVG : Nat := 0xD0001C
def CAL_AVG_AVG : FRef := ⟨CAL_AVG, 3, 0⟩
def CAL_NV_HOLD : Nat := 0xD00020
def CAL_NV_HOLD_SECONDS : FRef := ⟨CAL_NV_HOLD, 31, 0⟩
def CAL_STATUS : Nat := 0xD00024
def CAL_STATUS_PENDING : FRef := ⟨CAL_STATUS, 31, 31⟩
def CAL_STATUS_NV_BUSY : FRef := ⟨CAL_STATUS, 30, 30⟩
def CAL_STATUS_COPY : FRef := ⟨CAL_STATUS, 29, 29⟩
def CAL_STATUS_OVR_REFUSED : FRef := ⟨CAL_STATUS, 28, 28⟩
def CAL_NV_GEN : Nat := 0xD00028
def CAL_NV_GEN_GEN : FRef := ⟨CAL_NV_GEN, 31, 0⟩
def CAL_NV_FAIL_TALLY : Nat := 0xD0002C
def CAL_NV_FAIL_TALLY_COUNT : FRef := ⟨CAL_NV_FAIL_TALLY, 31, 0⟩
def CAL_SET (i : Nat) : Nat := 0xD01000 + 0x4 * i
def CAL_SET_DATA (i : Nat) : FRef := ⟨CAL_SET i, 31, 0⟩
def CAL_STAGE (i : Nat) : Nat := 0xD02000 + 0x4 * i
def CAL_STAGE_DATA (i : Nat) : FRef := ⟨CAL_STAGE i, 31, 0⟩

/-! Block cb at 0xD00100 (R438). -/

def CB_STATUS (n : Nat) : Nat := 0xD00100 + 0x40 * n
def CB_STATUS_STATE (n : Nat) : FRef := ⟨CB_STATUS n, 31, 29⟩
def CB_STATUS_ACCEPTED (n : Nat) : FRef := ⟨CB_STATUS n, 28, 28⟩
def CB_STATUS_UNTRACED (n : Nat) : FRef := ⟨CB_STATUS n, 27, 27⟩
def CB_STATUS_USER (n : Nat) : FRef := ⟨CB_STATUS n, 26, 26⟩
def CB_STATUS_REJECTED (n : Nat) : FRef := ⟨CB_STATUS n, 25, 25⟩
def CB_STATUS_GEN (n : Nat) : FRef := ⟨CB_STATUS n, 15, 0⟩
def CB_TEMP (n : Nat) : Nat := 0xD00104 + 0x40 * n
def CB_TEMP_LAST (n : Nat) : FRef := ⟨CB_TEMP n, 31, 16⟩
def CB_TEMP_NOW (n : Nat) : FRef := ⟨CB_TEMP n, 15, 0⟩
def CB_RESIDUAL (n : Nat) : Nat := 0xD00108 + 0x40 * n
def CB_RESIDUAL_VALUE (n : Nat) : FRef := ⟨CB_RESIDUAL n, 31, 0⟩
def CB_RUN_TIME (n : Nat) : Nat := 0xD0010C + 0x40 * n
def CB_RUN_TIME_MS (n : Nat) : FRef := ⟨CB_RUN_TIME n, 31, 0⟩
def CB_RUN_TALLY (n : Nat) : Nat := 0xD00110 + 0x40 * n
def CB_RUN_TALLY_COUNT (n : Nat) : FRef := ⟨CB_RUN_TALLY n, 31, 0⟩
def CB_DEFER_TALLY (n : Nat) : Nat := 0xD00114 + 0x40 * n
def CB_DEFER_TALLY_COUNT (n : Nat) : FRef := ⟨CB_DEFER_TALLY n, 31, 0⟩
def CB_REJECT_TALLY (n : Nat) : Nat := 0xD00118 + 0x40 * n
def CB_REJECT_TALLY_COUNT (n : Nat) : FRef := ⟨CB_REJECT_TALLY n, 31, 0⟩

/-! Block np at 0xE00000 (R461). -/

def NP_CTRL : Nat := 0xE00000
def NP_CTRL_RELEASE : FRef := ⟨NP_CTRL, 31, 31⟩
def NP_CTRL_FREEZE_EN : FRef := ⟨NP_CTRL, 4, 4⟩
def NP_CTRL_REMOTE_EN : FRef := ⟨NP_CTRL, 3, 3⟩
def NP_CTRL_SERVE_OPEN : FRef := ⟨NP_CTRL, 2, 2⟩
def NP_CTRL_REVERT : FRef := ⟨NP_CTRL, 1, 1⟩
def NP_STATUS : Nat := 0xE00004
def NP_STATUS_CRK_LEVEL : FRef := ⟨NP_STATUS, 31, 31⟩
def NP_STATUS_HOLDER : FRef := ⟨NP_STATUS, 30, 29⟩
def NP_STATUS_LOOP_FAULT : FRef := ⟨NP_STATUS, 28, 28⟩
def NP_STATUS_CONTEND : FRef := ⟨NP_STATUS, 27, 27⟩
def NP_EPOCH : Nat := 0xE00008
def NP_EPOCH_EPOCH : FRef := ⟨NP_EPOCH, 31, 0⟩
def NP_HOLDOFF_MS : Nat := 0xE0000C
def NP_HOLDOFF_MS_MS : FRef := ⟨NP_HOLDOFF_MS, 19, 0⟩
def NP_RESYNC_GAP : Nat := 0xE00010
def NP_RESYNC_GAP_GAP : FRef := ⟨NP_RESYNC_GAP, 31, 0⟩
def NP_STALE : Nat := 0xE00014
def NP_STALE_EPOCHS : FRef := ⟨NP_STALE, 3, 0⟩
def NP_IP4 : Nat := 0xE00020
def NP_IP4_ADDRESS : FRef := ⟨NP_IP4, 31, 0⟩
def NP_IP6 (i : Nat) : Nat := 0xE00024 + 0x4 * i
def NP_IP6_ADDRESS (i : Nat) : FRef := ⟨NP_IP6 i, 31, 0⟩
def NP_PREFIX : Nat := 0xE00034
def NP_PREFIX_V6_LEN : FRef := ⟨NP_PREFIX, 15, 8⟩
def NP_PREFIX_V4_LEN : FRef := ⟨NP_PREFIX, 7, 0⟩
def NP_GATEWAY4 : Nat := 0xE00038
def NP_GATEWAY4_ADDRESS : FRef := ⟨NP_GATEWAY4, 31, 0⟩
def NP_VLAN : Nat := 0xE0003C
def NP_VLAN_ENABLE : FRef := ⟨NP_VLAN, 31, 31⟩
def NP_VLAN_PCP : FRef := ⟨NP_VLAN, 14, 12⟩
def NP_VLAN_VID : FRef := ⟨NP_VLAN, 11, 0⟩
def NP_MTU : Nat := 0xE00040
def NP_MTU_BYTES : FRef := ⟨NP_MTU, 13, 0⟩
def NP_UDP_PORT : Nat := 0xE00044
def NP_UDP_PORT_PORT : FRef := ⟨NP_UDP_PORT, 15, 0⟩
def NP_MAC : Nat := 0xE00048
def NP_TAKEOVER_TALLY : Nat := 0xE00060
def NP_TAKEOVER_TALLY_COUNT : FRef := ⟨NP_TAKEOVER_TALLY, 31, 0⟩
def NP_REVERT_TALLY : Nat := 0xE00064
def NP_REVERT_TALLY_COUNT : FRef := ⟨NP_REVERT_TALLY, 31, 0⟩
def NP_MISMATCH_TALLY : Nat := 0xE00068
def NP_MISMATCH_TALLY_COUNT : FRef := ⟨NP_MISMATCH_TALLY, 31, 0⟩
def NP_STALE_TALLY : Nat := 0xE0006C
def NP_STALE_TALLY_COUNT : FRef := ⟨NP_STALE_TALLY, 31, 0⟩
def NP_CONTEND_TALLY : Nat := 0xE00070
def NP_CONTEND_TALLY_COUNT : FRef := ⟨NP_CONTEND_TALLY, 31, 0⟩
def NP_REFUSED_TALLY : Nat := 0xE00074
def NP_REFUSED_TALLY_COUNT : FRef := ⟨NP_REFUSED_TALLY, 31, 0⟩

/-! Block npp at 0xE01000 (R461). -/

def NPP_STATUS (n : Nat) : Nat := 0xE01000 + 0x1000 * n
def NPP_STATUS_ROLE (n : Nat) : FRef := ⟨NPP_STATUS n, 31, 29⟩
def NPP_STATUS_MIRROR_STALE (n : Nat) : FRef := ⟨NPP_STATUS n, 28, 28⟩
def NPP_STATUS_LINK (n : Nat) : FRef := ⟨NPP_STATUS n, 27, 27⟩
def NPP_STATUS_FEC_LOCK (n : Nat) : FRef := ⟨NPP_STATUS n, 26, 26⟩
def NPP_STATUS_MODULE (n : Nat) : FRef := ⟨NPP_STATUS n, 25, 25⟩
def NPP_STATUS_HEALTHY (n : Nat) : FRef := ⟨NPP_STATUS n, 24, 24⟩
def NPP_STATUS_HEALTHY_MS (n : Nat) : FRef := ⟨NPP_STATUS n, 23, 0⟩
def NPP_CFG (n : Nat) : Nat := 0xE01004 + 0x1000 * n
def NPP_CFG_ENABLE (n : Nat) : FRef := ⟨NPP_CFG n, 31, 31⟩
def NPP_CFG_FEC (n : Nat) : FRef := ⟨NPP_CFG n, 1, 1⟩
def NPP_CFG_AN (n : Nat) : FRef := ⟨NPP_CFG n, 0, 0⟩
def NPP_LAST_EPOCH (n : Nat) : Nat := 0xE01008 + 0x1000 * n
def NPP_LAST_EPOCH_EPOCH (n : Nat) : FRef := ⟨NPP_LAST_EPOCH n, 31, 0⟩
def NPP_TX_TALLY (n : Nat) : Nat := 0xE01010 + 0x1000 * n
def NPP_TX_TALLY_COUNT (n : Nat) : FRef := ⟨NPP_TX_TALLY n, 31, 0⟩
def NPP_RX_TALLY (n : Nat) : Nat := 0xE01014 + 0x1000 * n
def NPP_RX_TALLY_COUNT (n : Nat) : FRef := ⟨NPP_RX_TALLY n, 31, 0⟩
def NPP_RX_DROP_TALLY (n : Nat) : Nat := 0xE01018 + 0x1000 * n
def NPP_RX_DROP_TALLY_COUNT (n : Nat) : FRef := ⟨NPP_RX_DROP_TALLY n, 31, 0⟩
def NPP_FEC_CORR_TALLY (n : Nat) : Nat := 0xE0101C + 0x1000 * n
def NPP_FEC_CORR_TALLY_COUNT (n : Nat) : FRef := ⟨NPP_FEC_CORR_TALLY n, 31, 0⟩
def NPP_FEC_UNCORR_TALLY (n : Nat) : Nat := 0xE01020 + 0x1000 * n
def NPP_FEC_UNCORR_TALLY_COUNT (n : Nat) : FRef := ⟨NPP_FEC_UNCORR_TALLY n, 31, 0⟩
def NPP_PAUSE_TALLY (n : Nat) : Nat := 0xE01024 + 0x1000 * n
def NPP_PAUSE_TALLY_COUNT (n : Nat) : FRef := ⟨NPP_PAUSE_TALLY n, 31, 0⟩
def NPP_LINK_DOWN_TALLY (n : Nat) : Nat := 0xE01028 + 0x1000 * n
def NPP_LINK_DOWN_TALLY_COUNT (n : Nat) : FRef := ⟨NPP_LINK_DOWN_TALLY n, 31, 0⟩

/-! Block nf at 0xE04000 (R461). -/

def NF_CTRL (n : Nat) : Nat := 0xE04000 + 0x40 * n
def NF_CTRL_ENABLE (n : Nat) : FRef := ⟨NF_CTRL n, 31, 31⟩
def NF_CTRL_RESTART (n : Nat) : FRef := ⟨NF_CTRL n, 30, 30⟩
def NF_CTRL_MODE (n : Nat) : FRef := ⟨NF_CTRL n, 29, 28⟩
def NF_CTRL_OWNER (n : Nat) : FRef := ⟨NF_CTRL n, 27, 24⟩
def NF_CTRL_STREAM (n : Nat) : FRef := ⟨NF_CTRL n, 6, 0⟩
def NF_DEST_IP4 (n : Nat) : Nat := 0xE04004 + 0x40 * n
def NF_DEST_IP4_ADDRESS (n : Nat) : FRef := ⟨NF_DEST_IP4 n, 31, 0⟩
def NF_DEST_IP6 (n i : Nat) : Nat := 0xE04008 + 0x40 * n + 0x4 * i
def NF_DEST_IP6_ADDRESS (n i : Nat) : FRef := ⟨NF_DEST_IP6 n i, 31, 0⟩
def NF_DEST_PORT (n : Nat) : Nat := 0xE04018 + 0x40 * n
def NF_DEST_PORT_IPV6 (n : Nat) : FRef := ⟨NF_DEST_PORT n, 31, 31⟩
def NF_DEST_PORT_PORT (n : Nat) : FRef := ⟨NF_DEST_PORT n, 15, 0⟩
def NF_PAYLOAD (n : Nat) : Nat := 0xE0401C + 0x40 * n
def NF_PAYLOAD_BYTES (n : Nat) : FRef := ⟨NF_PAYLOAD n, 13, 0⟩
def NF_RATE (n : Nat) : Nat := 0xE04020 + 0x40 * n
def NF_RATE_BURST_KIB (n : Nat) : FRef := ⟨NF_RATE n, 31, 16⟩
def NF_RATE_MBPS (n : Nat) : FRef := ⟨NF_RATE n, 13, 0⟩
def NF_SEQ (n : Nat) : Nat := 0xE04024 + 0x40 * n
def NF_FRAME (n : Nat) : Nat := 0xE0402C + 0x40 * n
def NF_SENT_TALLY (n : Nat) : Nat := 0xE04034 + 0x40 * n
def NF_SENT_TALLY_COUNT (n : Nat) : FRef := ⟨NF_SENT_TALLY n, 31, 0⟩
def NF_SKIP_TALLY (n : Nat) : Nat := 0xE04038 + 0x40 * n
def NF_SKIP_TALLY_COUNT (n : Nat) : FRef := ⟨NF_SKIP_TALLY n, 31, 0⟩
def NF_DROP_TALLY (n : Nat) : Nat := 0xE0403C + 0x40 * n
def NF_DROP_TALLY_COUNT (n : Nat) : FRef := ⟨NF_DROP_TALLY n, 31, 0⟩

/-! Block nb at 0xE08000 (R461). -/

def NB_CTRL (n : Nat) : Nat := 0xE08000 + 0x20 * n
def NB_CTRL_VALID (n : Nat) : FRef := ⟨NB_CTRL n, 31, 31⟩
def NB_CTRL_STATIC (n : Nat) : FRef := ⟨NB_CTRL n, 30, 30⟩
def NB_CTRL_ALLOW (n : Nat) : FRef := ⟨NB_CTRL n, 29, 29⟩
def NB_CTRL_IPV6 (n : Nat) : FRef := ⟨NB_CTRL n, 28, 28⟩
def NB_CTRL_AGE_S (n : Nat) : FRef := ⟨NB_CTRL n, 27, 16⟩
def NB_IP (n i : Nat) : Nat := 0xE08004 + 0x20 * n + 0x4 * i
def NB_IP_ADDRESS (n i : Nat) : FRef := ⟨NB_IP n i, 31, 0⟩
def NB_MAC (n : Nat) : Nat := 0xE08014 + 0x20 * n

/-! Block sh at 0xF80000 (R481). -/

def SH_MB_CMD : Nat := 0xF80000
def SH_MB_CMD_GO : FRef := ⟨SH_MB_CMD, 31, 31⟩
def SH_MB_CMD_BUSY : FRef := ⟨SH_MB_CMD, 30, 30⟩
def SH_MB_CMD_STATUS : FRef := ⟨SH_MB_CMD, 23, 16⟩
def SH_MB_CMD_OP : FRef := ⟨SH_MB_CMD, 7, 0⟩
def SH_MB_ARG : Nat := 0xF80004
def SH_MB_ARG_ARG : FRef := ⟨SH_MB_ARG, 31, 0⟩
def SH_MB_LEN : Nat := 0xF80008
def SH_MB_LEN_BYTES : FRef := ⟨SH_MB_LEN, 12, 0⟩
def SH_MB_REPLY : Nat := 0xF8000C
def SH_MB_REPLY_PROGRESS : FRef := ⟨SH_MB_REPLY, 31, 0⟩
def SH_STATUS : Nat := 0xF80010
def SH_STATUS_STATE : FRef := ⟨SH_STATUS, 31, 29⟩
def SH_STATUS_FW_SLOT : FRef := ⟨SH_STATUS, 28, 28⟩
def SH_STATUS_LOG_LOST : FRef := ⟨SH_STATUS, 27, 27⟩
def SH_STATUS_TRIPPED : FRef := ⟨SH_STATUS, 26, 26⟩
def SH_FW_SEQ : Nat := 0xF80014
def SH_FW_SEQ_SEQ : FRef := ⟨SH_FW_SEQ, 31, 0⟩
def SH_SMBUS : Nat := 0xF80018
def SH_SMBUS_ADDR : FRef := ⟨SH_SMBUS, 6, 0⟩
def SH_TH_CFG : Nat := 0xF80020
def SH_TH_CFG_START : FRef := ⟨SH_TH_CFG, 31, 24⟩
def SH_TH_CFG_STEP : FRef := ⟨SH_TH_CFG, 23, 16⟩
def SH_TH_CFG_HYST : FRef := ⟨SH_TH_CFG, 15, 8⟩
def SH_TH_CFG_WARN : FRef := ⟨SH_TH_CFG, 7, 0⟩
def SH_THROTTLE : Nat := 0xF80024
def SH_THROTTLE_STEPS : FRef := ⟨SH_THROTTLE, 31, 0⟩
def SH_TEMP (i : Nat) : Nat := 0xF80040 + 0x4 * i
def SH_TEMP_NOW (i : Nat) : FRef := ⟨SH_TEMP i, 15, 0⟩
def SH_TH_MAX (i : Nat) : Nat := 0xF80080 + 0x4 * i
def SH_TH_MAX_MAX (i : Nat) : FRef := ⟨SH_TH_MAX i, 15, 0⟩
def SH_HOURS : Nat := 0xF800C0
def SH_HOURS_COUNT : FRef := ⟨SH_HOURS, 31, 0⟩
def SH_BOOTS : Nat := 0xF800C4
def SH_BOOTS_COUNT : FRef := ⟨SH_BOOTS, 31, 0⟩
def SH_WDOG_TALLY : Nat := 0xF800C8
def SH_WDOG_TALLY_COUNT : FRef := ⟨SH_WDOG_TALLY, 31, 0⟩
def SH_TRIP_TALLY : Nat := 0xF800CC
def SH_TRIP_TALLY_COUNT : FRef := ⟨SH_TRIP_TALLY, 31, 0⟩
def SH_THROTTLE_MS : Nat := 0xF800D0
def SH_THROTTLE_MS_COUNT : FRef := ⟨SH_THROTTLE_MS, 31, 0⟩
def SH_FLASH_FAIL_TALLY : Nat := 0xF800D4
def SH_FLASH_FAIL_TALLY_COUNT : FRef := ⟨SH_FLASH_FAIL_TALLY, 31, 0⟩
def SH_MEAS (i j : Nat) : Nat := 0xF80100 + 0x40 * i + 0x4 * j
def SH_MEAS_VALUE (i j : Nat) : FRef := ⟨SH_MEAS i j, 31, 0⟩
def SH_MEAS_COUNT (i : Nat) : Nat := 0xF80130 + 0x40 * i
def SH_MEAS_COUNT_COUNT (i : Nat) : FRef := ⟨SH_MEAS_COUNT i, 31, 0⟩
def SH_MB_DATA (i : Nat) : Nat := 0xF81000 + 0x4 * i
def SH_MB_DATA_DATA (i : Nat) : FRef := ⟨SH_MB_DATA i, 31, 0⟩

/-! Block root at 0x1000 (R25). -/

def ROOT_HDR : Nat := 0x1000

/-! The fold header block, by the offset of its header (R25). -/

def FH_IDENT (b : Nat) : Nat := b + 0x0
def FH_IDENT_NUMBER (b : Nat) : FRef := ⟨FH_IDENT b, 31, 16⟩
def FH_IDENT_DEPTH (b : Nat) : FRef := ⟨FH_IDENT b, 15, 8⟩
def FH_IDENT_VERSION (b : Nat) : FRef := ⟨FH_IDENT b, 7, 0⟩
def FH_KIND (b : Nat) : Nat := b + 0x4
def FH_KIND_CHILDREN (b : Nat) : FRef := ⟨FH_KIND b, 31, 16⟩
def FH_KIND_CHILD_KIND (b : Nat) : FRef := ⟨FH_KIND b, 15, 8⟩
def FH_KIND_KIND (b : Nat) : FRef := ⟨FH_KIND b, 7, 0⟩
def FH_PARENT (b : Nat) : Nat := b + 0x8
def FH_PARENT_OFF (b : Nat) : FRef := ⟨FH_PARENT b, 31, 0⟩
def FH_FIRST_CHILD (b : Nat) : Nat := b + 0xC
def FH_FIRST_CHILD_OFF (b : Nat) : FRef := ⟨FH_FIRST_CHILD b, 31, 0⟩
def FH_NEXT_SIBLING (b : Nat) : Nat := b + 0x10
def FH_NEXT_SIBLING_OFF (b : Nat) : FRef := ⟨FH_NEXT_SIBLING b, 31, 0⟩
def FH_CONTROL (b : Nat) : Nat := b + 0x14
def FH_CONTROL_HALT (b : Nat) : FRef := ⟨FH_CONTROL b, 2, 2⟩
def FH_CONTROL_RESET (b : Nat) : FRef := ⟨FH_CONTROL b, 1, 1⟩
def FH_CONTROL_ENABLE (b : Nat) : FRef := ⟨FH_CONTROL b, 0, 0⟩
def FH_STATUS (b : Nat) : Nat := b + 0x18
def FH_STATUS_FAULT (b : Nat) : FRef := ⟨FH_STATUS b, 7, 4⟩
def FH_STATUS_POWER (b : Nat) : FRef := ⟨FH_STATUS b, 3, 2⟩
def FH_STATUS_HALTED (b : Nat) : FRef := ⟨FH_STATUS b, 1, 1⟩
def FH_STATUS_READY (b : Nat) : FRef := ⟨FH_STATUS b, 0, 0⟩
def FH_EVBASE (b : Nat) : Nat := b + 0x1C
def FH_EVBASE_COUNT (b : Nat) : FRef := ⟨FH_EVBASE b, 31, 16⟩
def FH_EVBASE_FIRST (b : Nat) : FRef := ⟨FH_EVBASE b, 15, 0⟩
def FH_RES_CELLS (b : Nat) : Nat := b + 0x20
def FH_RES_CELLS_COUNT (b : Nat) : FRef := ⟨FH_RES_CELLS b, 31, 0⟩
def FH_RES_STREAMS (b : Nat) : Nat := b + 0x24
def FH_RES_STREAMS_COUNT (b : Nat) : FRef := ⟨FH_RES_STREAMS b, 31, 0⟩
def FH_RES_CONTEXTS (b : Nat) : Nat := b + 0x28
def FH_RES_CONTEXTS_COUNT (b : Nat) : FRef := ⟨FH_RES_CONTEXTS b, 31, 0⟩
def FH_RES_PENS (b : Nat) : Nat := b + 0x2C
def FH_RES_PENS_COUNT (b : Nat) : FRef := ⟨FH_RES_PENS b, 31, 0⟩
def FH_RES_CHANNELS (b : Nat) : Nat := b + 0x30
def FH_RES_CHANNELS_COUNT (b : Nat) : FRef := ⟨FH_RES_CHANNELS b, 31, 0⟩
def FH_RES_PAGES (b : Nat) : Nat := b + 0x34
def FH_RES_PAGES_COUNT (b : Nat) : FRef := ⟨FH_RES_PAGES b, 31, 0⟩
def FH_RES_LANES (b : Nat) : Nat := b + 0x38
def FH_RES_LANES_COUNT (b : Nat) : FRef := ⟨FH_RES_LANES b, 31, 0⟩

end Sys2Proof.Machine
end

