-- ==== Sys2Proof/Machine/RegFile.lean ====
section
/-!
DEFINITION. The register file: what is defined where (R12, R529), what a register holds after a cold or module
reset (R9, R533), and reading and writing whole registers and fields.
-/
namespace Sys2Proof.Machine

/-- Distance between two functions' copies of a register in the key space; above the 64 MiB of BAR0 (R327). -/
def fnSpan : Nat := 0x4000000

/-- The key of function `fn`'s own copy of the register at `off`. -/
def fnKey (fn off : Nat) : Nat := fnSpan * fn + off

/-- The register definition at offset `o` of a window. -/
def findReg (rs : List RegDef) (o : Nat) : Option RegDef :=
  rs.find? fun r =>
    if r.count ≤ 1 then o == r.off
    else r.off ≤ o && o < r.off + r.stride * r.count && (o - r.off) % r.stride == 0

/-- The register of a block at offset `off` of BAR0. -/
def Block.find (b : Block) (off : Nat) : Option RegDef :=
  if off < b.base then none
  else
    let d := off - b.base
    let inner := if b.count ≤ 1 then some d else if d / b.stride < b.count then some (d % b.stride) else none
    match inner with
    | none => none
    | some o =>
      if b.count2 ≤ 1 then findReg b.regs o
      else if o / b.stride2 < b.count2 then findReg b.regs (o % b.stride2) else none

/-- A window stands at `off` only where the block's windows do: an inner window may not run past its outer one. -/
def regAt (off : Nat) : Option RegDef :=
  blocks.findSome? fun b => b.find off

/-- The reset value of a field (R9, R533): a field of the image, of the health log or of the coefficient set
is zero until it is loaded. -/
def Field.resetValue (f : Field) : Nat :=
  match f.src with
  | .num => f.reset
  | _ => 0

/-- The bits of a field, taken from a word. -/
def bitsOf (w : Word) (hi lo : Nat) : Nat := w.toNat / 2 ^ lo % 2 ^ (hi + 1 - lo)

/-- A word with `v` in the bits of a field. -/
def withBits (w : Word) (hi lo : Nat) (v : Nat) : Word :=
  let n := w.toNat
  let m := 2 ^ (hi + 1 - lo)
  BitVec.ofNat 32 (n - n / 2 ^ lo % m * 2 ^ lo + v % m * 2 ^ lo)

/-- The values fixed by the part (R2, R180, R440). -/
def partWord (off : Nat) : Word :=
  if off = GLB_IDENT then
    BitVec.ofNat 32 (0x96480000 + Config.grade.val * 0x1000 + (Config.steppingLess1.val + 1) * 0x100 + (Config.modrevLess1.val + 1) * 0x10)
  else if off = PP_CC_LATENCY then BitVec.ofNat 32 Config.ccLatency.val
  else if off = NP_MAC then BitVec.ofNat 32 Config.mac.val
  else if off = NP_MAC + 4 then BitVec.ofNat 32 (Config.mac.val / 2 ^ 32)
  else 0

/-- What a register reads after a cold or module reset, before any source loads it. -/
def resetWord (key : Nat) : Word :=
  let off := key % fnSpan
  match regAt off with
  | none => 0
  | some r =>
    if r.fields.any (fun f => f.src == .part) then partWord off
    else r.fields.foldl (fun w f => withBits w f.hi f.lo f.resetValue) 0

end Sys2Proof.Machine
end

