-- ==== Sys2Proof/Machine/Fabric.lean ====
section
/-!
DEFINITION. The parts every block shares: the register file, the paddock's bytes, the event views and the
indications on their way to them, pops under way, and what the device has sent out. Everything an event or a pen
word may change stands in `Fabric`, so that raising an event leaves the rest of the state alone by its type.
-/
namespace Sys2Proof.Machine

/-- What the device sends to the outside, as the spec's rules name it. The newest stands first in
`Fabric.out`; the list is the model's own record of outputs, no state of the device (log entry 9). -/
inductive Emit
  /-- the value of a register read, to function `fn` -/
  | readReply (fn : Nat) (value : Word)
  /-- an unsupported-request completion (R6, R327) -/
  | unsupported (fn : Nat)
  /-- bytes of a paddock read through BAR4 (R329) -/
  | bar4Reply (fn : Nat) (bytes : List Byte)
  /-- an MSI-X message of entry `vec` of function `fn`'s table (R340) -/
  | msix (fn vec : Nat)
  /-- a reply object on the data object exchange mailbox or the SMBus (R332, R333, R470) -/
  | reply (kind : Nat) (bytes : List Byte)
  /-- a drover's write to a host address (R299, R302) -/
  | hostWrite (fn addr : Nat) (bytes : List Byte)
  /-- a drover's read request of a host address (R310) -/
  | hostRead (fn addr len : Nat)
  /-- blocks or packets sent on lane 0 of a camera port, by name (R126–R152, R402) -/
  | portBlock (port : Nat) (bytes : List Byte)
  /-- a resend request of Camera Link HS for a video packet: port, stream, line and offset (R121, R168) -/
  | resendRequest (port stream line offset : Nat)
  /-- a control-channel request to a camera (R142, R176) -/
  | portRequest (port tag : Nat) (write : Bool) (addr : Nat) (bytes : List Byte) (len : Nat)
  /-- a route's edge: output pin, control line or in-band message, at an instant in 2^-16 ns (R400) -/
  | triggerEdge (route channel : Nat) (level : Bool) (at_ : Nat)
  /-- a datagram sent on network path `path` to an address and port, with the MAC address of the next hop (R443) -/
  | datagram (path : Nat) (v6 : Bool) (dest : List Nat) (mac port : Nat) (header payload : List Byte)
  /-- a frame of another protocol on a network path: 0 an ARP reply or neighbour advertisement, 1 an echo reply,
  2 an ARP request or neighbour solicitation, 3 PTP, 4 an announcement after a seizure (R440) -/
  | netFrame (path kind : Nat) (bytes : List Byte)
  /-- a crook pulse of a path (R451) -/
  | crook (path : Nat)
  /-- a byte on PP_SERTC (R181) -/
  | serialByte (b : Nat)
  /-- the PPS_OUT pulse, its width in µs (R361) -/
  | ppsOut (us : Nat)
  /-- a clocked transfer of an absolute-position channel begins (R389) -/
  | saClock (k : Nat)
deriving DecidableEq, Repr

/-- One occurrence of an event source on its way to the views that see it (R22, R337). -/
structure Indication where
  src : Nat
  cause : Time
  detail : Nat
  vis : List Nat
deriving DecidableEq, Repr

/-- What a view keeps of its source beside its registers (R337, R338): the earliest and latest cause since the
last delivery, the latest detail, and the cause of the earliest occurrence counted in UNDELIVERED. -/
structure View where
  seen : Bool := false
  first : Time := 0
  last : Time := 0
  detail : Nat := 0
  firstUndelivered : Option Time := none
deriving DecidableEq, Repr

structure Fabric where
  /-- every register, by its key; unlisted: its reset value -/
  regs : Tab Word := []
  /-- the paddock's bytes; an unlisted byte reads as zero (log entry 3) -/
  mem : List Host.Cell := []
  /-- the event views, by 1024 × function + source -/
  views : Tab View := []
  /-- indications not yet taken to their views -/
  queue : List Indication := []
  /-- words a software pop still has to remove, by pen (R276) -/
  pops : Tab Nat := []
  /-- what has cut the packet at a pen's RD since a drover last looked: 7 an overwrite, 8 a DROP or CLEAR (R317) -/
  cuts : Tab Nat := []
  /-- what the device has sent, newest first -/
  out : List Emit := []
deriving DecidableEq, Repr

/-! Registers and fields. -/

def Fabric.rw (b : Fabric) (key : Nat) : Word := tget resetWord b.regs key

def Fabric.ww (b : Fabric) (key : Nat) (w : Word) : Fabric := { b with regs := tset resetWord b.regs key w }

def Fabric.rd (b : Fabric) (f : FRef) : Nat := bitsOf (b.rw f.key) f.hi f.lo

def Fabric.wr (b : Fabric) (f : FRef) (v : Nat) : Fabric := b.ww f.key (withBits (b.rw f.key) f.hi f.lo v)

/-- A tally counts `n` more and stays at all ones (R17). -/
def Fabric.tally (b : Fabric) (f : FRef) (n : Nat := 1) : Fabric :=
  b.wr f (min (b.rd f + n) (2 ^ (f.hi + 1 - f.lo) - 1))

/-- A wide value of `n` words, its lowest word at the lowest offset (R7). -/
def Fabric.rdWide (b : Fabric) (key : Nat) : Nat → Nat
  | 0 => 0
  | n + 1 => b.rdWide key n + (b.rw (key + 4 * n)).toNat * 2 ^ (32 * n)

def Fabric.wrWide (b : Fabric) (key : Nat) : Nat → Nat → Fabric
  | 0, _ => b
  | n + 1, v => (b.wrWide key n v).ww (key + 4 * n) (BitVec.ofNat 32 (v / 2 ^ (32 * n)))

/-- A time register of three words in the layout of R348. -/
def Fabric.rdTime (b : Fabric) (key : Nat) : Time :=
  let lo := (b.rw key).toNat
  let mid := (b.rw (key + 4)).toNat
  Time.ofParts (mid / 2 ^ 16 + (b.rw (key + 8)).toNat * 2 ^ 16) (lo / 2 ^ 16 + mid % 2 ^ 16 * 2 ^ 16) (lo % 2 ^ 16)

def Fabric.wrTime (b : Fabric) (key : Nat) (t : Time) : Fabric :=
  ((b.ww key (BitVec.ofNat 32 (t.ns % 2 ^ 16 * 2 ^ 16 + t.frac))).ww (key + 4)
    (BitVec.ofNat 32 (t.sec % 2 ^ 16 * 2 ^ 16 + t.ns / 2 ^ 16))).ww (key + 8) (BitVec.ofNat 32 (t.sec / 2 ^ 16))

/-! The paddock: 96 GiB of bytes (R248). -/

/-- The byte past the last paddock byte. -/
def paddockEnd : Nat := 0x1800000000

def memDefault (_ : Nat) : Byte := 0

/-- The canonical form of the paddock's cells. -/
def Memory.wf (m : List Host.Cell) : Bool := twf memDefault m

def Fabric.byte (b : Fabric) (a : Nat) : Byte := tget memDefault b.mem a

def Fabric.setByte (b : Fabric) (a : Nat) (v : Byte) : Fabric := { b with mem := tset memDefault b.mem a v }

def Fabric.bytes (b : Fabric) (a : Nat) : Nat → List Byte
  | 0 => []
  | n + 1 => b.byte a :: b.bytes (a + 1) n

def Fabric.setBytes (b : Fabric) (a : Nat) : List Byte → Fabric
  | [] => b
  | v :: r => (b.setByte a v).setBytes (a + 1) r

/-! Little-endian bytes. -/

/-- The `n` low bytes of a number, least significant first. -/
def leBytes : Nat → Nat → List Byte
  | 0, _ => []
  | n + 1, v => BitVec.ofNat 8 v :: leBytes n (v / 256)

/-- The number a list of bytes spells, least significant first. -/
def leNat : List Byte → Nat
  | [] => 0
  | b :: r => b.toNat + 256 * leNat r

/-- The 12-byte form of an instant (R255): seconds, nanoseconds, fraction. -/
def timeBytes (t : Time) : List Byte := leBytes 6 t.sec ++ leBytes 4 t.ns ++ leBytes 2 t.frac

def Fabric.emit (b : Fabric) (e : Emit) : Fabric := { b with out := e :: b.out }

/-- An indication is queued for the views (R19: indications are queued). -/
def Fabric.indicate (b : Fabric) (i : Indication) : Fabric := { b with queue := b.queue ++ [i] }

/-! Pens (R272–R291). -/

def penSize (b : Fabric) (p : Nat) : Nat := 2 ^ b.rd (PN_CFG_SIZE_LOG2 p)

/-- The depth from the pointers (R274). -/
def penLevelOf (size wr rd : Nat) : Nat := (wr + 2 * size - rd % (2 * size)) % (2 * size)

def penSlotAddr (b : Fabric) (p w : Nat) : Nat := 64 * b.rd (PN_DATA_ADDR_ADDRESS p) + 64 * (w % penSize b p)

def penSideAddr (b : Fabric) (p w : Nat) : Nat := 64 * b.rd (PN_SIDE_ADDR_ADDRESS p) + w % penSize b p

/-- The group event of a pen (R288): the notice bit and EV(392 + g). -/
def penGroupEvent (owner : Nat → Nat) (now : Time) (p : Nat) (b : Fabric) : Fabric :=
  let g := p / 512
  let f : FRef := ⟨PNG_NOTICE g (p % 512 / 32), p % 32, p % 32⟩
  (b.wr f 1).indicate ⟨392 + g, now, 0, if owner p = 0 then [0] else [0, owner p]⟩

/-- Whether a listed register says that pen holds hurdle output `k` asserted (R286). -/
def penDrives (b : Fabric) (k : Nat) (key : Nat) : Bool :=
  let p := (key - 0x1000030) / 0x40
  key ≥ 0x1000030 && key < 0x1400000 && (key - 0x1000030) % 0x40 == 0 && b.rd (PN_STATUS_HURDLE p) == 1
    && b.rd (PN_CFG_ENABLE p) == 1 && b.rd (PN_CFG_HO_PIN p) == k + 1

/-- HU_OUT.STATE of pin `k` follows the pens routed to it and FORCE (R286). -/
def hurdlePin (b : Fabric) (k : Nat) : Fabric :=
  let on := b.rd ⟨HU_OUT, k, k⟩ == 1 || b.regs.any fun e => penDrives b k e.1
  b.wr ⟨HU_OUT, 16 + k, 16 + k⟩ (if on then 1 else 0)

/-- The pin a pen is routed to follows (R286). -/
def penPin (p : Nat) (b : Fabric) : Fabric :=
  let k := b.rd (PN_CFG_HO_PIN p)
  if k = 0 ∨ k > 16 then b else hurdlePin b (k - 1)

/-- The hurdle state changes to `v`: UP or DOWN, CROSS, the pin and the group event (R284–R288). -/
def penCross (owner : Nat → Nat) (now : Time) (p v : Nat) (b : Fabric) : Fabric :=
  let b := ((b.wr (PN_STATUS_HURDLE p) v).wr (if v = 1 then PN_STATUS_UP p else PN_STATUS_DOWN p) 1).tally
    (PN_EVENT_TALLY_CROSS p)
  let b := penPin p b
  if b.rd (PN_CFG_WM_EV p) = 1 then penGroupEvent owner now p b else b

/-- Evaluate the hurdle state on the net LEVEL (R284). -/
def penHurdle (owner : Nat → Nat) (now : Time) (p : Nat) (b : Fabric) : Fabric :=
  let hwm := b.rd (PN_HWM_WORDS p)
  let lwm := b.rd (PN_LWM_WORDS p)
  let lv := b.rd (PN_LEVEL_VALUE p)
  if b.rd (PN_CFG_WM_EN p) = 0 ∨ lwm ≥ hwm ∨ hwm > penSize b p then b
  else if b.rd (PN_STATUS_HURDLE p) = 0 ∧ lv ≥ hwm then penCross owner now p 1 b
  else if b.rd (PN_STATUS_HURDLE p) = 1 ∧ lv ≤ lwm then penCross owner now p 0 b
  else b

/-- Set the pointers, and LEVEL and FULL with them (R274). -/
def penSetPtrs (p wr rd : Nat) (b : Fabric) : Fabric :=
  let size := penSize b p
  let lv := penLevelOf size wr rd
  (((b.wr (PN_WR_VALUE p) wr).wr (PN_RD_VALUE p) rd).wr (PN_LEVEL_VALUE p) lv).wr
    (PN_STATUS_FULL p) (if lv = size then 1 else 0)

/-- The END bit of word `w` of a pen, read from its side ring (R272). -/
def penEndOf (b : Fabric) (p w : Nat) : Bool := (b.byte (penSideAddr b p w)).toNat ≥ 128

/-- Words from `rd` up to and including the first END word, among `n` words: their number, and whether an END
was found. -/
def penPacketLen (b : Fabric) (p rd : Nat) : Nat → Nat × Bool
  | 0 => (0, false)
  | n + 1 => if penEndOf b p rd then (1, true) else
    let r := penPacketLen b p (rd + 1) n
    (r.1 + 1, r.2)

/-- The END words among `n` words from `rd`, and whether the last of the `n` is one. -/
def penEnds (b : Fabric) (p rd : Nat) : Nat → Nat × Bool
  | 0 => (0, false)
  | n + 1 =>
    let r := penEnds b p rd n
    let e := penEndOf b p (rd + n)
    (r.1 + (if e then 1 else 0), e)

/-- `n` words leave the pen at RD: PACKETS and MIDPKT follow (R275). -/
def penTake (p n : Nat) (b : Fabric) : Fabric :=
  if n = 0 then b else
  let m := 2 * penSize b p
  let rd := b.rd (PN_RD_VALUE p)
  let ends := penEnds b p rd n
  let b := penSetPtrs p (b.rd (PN_WR_VALUE p)) ((rd + n) % m) b
  (b.wr (PN_PACKETS_VALUE p) (b.rd (PN_PACKETS_VALUE p) - ends.1)).wr (PN_STATUS_MIDPKT p) (if ends.2 then 0 else 1)

/-- An overwrite ends a software pop under way (R276, R290): STALE, EXPECT at the RD it leaves, BUSY falls. -/
def penEndPop (p : Nat) (b : Fabric) : Fabric :=
  if tget (fun _ => 0) b.pops p = 0 then b else
  let b := { b with pops := tset (fun _ => 0) b.pops p 0 }
  ((b.wr (PN_STATUS_STALE p) 1).wr (PN_EXPECT_POINTER p) (b.rd (PN_RD_VALUE p))).wr (PN_STATUS_BUSY p) 0

/-- The packet at RD is removed; the first cut counts (R317). -/
def penCut (p v : Nat) (b : Fabric) : Fabric :=
  if tget (fun _ => 0) b.cuts p = 0 then { b with cuts := tset (fun _ => 0) b.cuts p v } else b

/-- Room is made in a full overwrite pen: the rest of the packet at RD goes, or, with no END word in the pen,
everything, and DROPPING begins (R281). The number of discarded words tells whether the push itself is among
them. -/
def penOverwrite (owner : Nat → Nat) (now : Time) (p : Nat) (b : Fabric) : Fabric :=
  let lv := b.rd (PN_LEVEL_VALUE p)
  let len := penPacketLen b p (b.rd (PN_RD_VALUE p)) lv
  let torn := b.rd (PN_STATUS_MIDPKT p) == 1
  let b := penCut p 7 (if torn then b.wr (PN_STATUS_TORN p) 1 else b)
  let b := penTake p len.1 b
  let b := if len.2 then b.tally (PN_LOST_WORD_TALLY_COUNT p) len.1
    else (b.tally (PN_LOST_WORD_TALLY_COUNT p) (len.1 + 1)).wr (PN_STATUS_DROPPING p) 1
  let b := b.tally (PN_LOST_PKT_TALLY_OVERWRITTEN p)
  let b := penEndPop p b
  if b.rd (PN_CFG_LOSS_EV p) = 1 then penGroupEvent owner now p b else b

/-- A word lands at WR (R272, R274): its valid bytes and its side byte are written to the rings. -/
def penLand (p : Nat) (data : List Byte) (last : Bool) (b : Fabric) : Fabric :=
  let wr := b.rd (PN_WR_VALUE p)
  let b := b.setBytes (penSlotAddr b p wr) (data.take 64)
  let b := b.setByte (penSideAddr b p wr) (BitVec.ofNat 8 (min data.length 64 + if last then 128 else 0))
  let b := penSetPtrs p ((wr + 1) % (2 * penSize b p)) (b.rd (PN_RD_VALUE p)) b
  if last then b.wr (PN_PACKETS_VALUE p) (b.rd (PN_PACKETS_VALUE p) + 1) else b

/-- A refused push (R280, R290). -/
def penRefuse (p : Nat) (b : Fabric) : Fabric :=
  (b.tally (PN_EVENT_TALLY_REFUSE p)).wr (PN_STATUS_PUSH_REFUSED p) 1

/-- Whether a push of `n` words would find room or need none (R280, R282). -/
def penHasRoom (b : Fabric) (p n : Nat) : Bool :=
  b.rd (PN_CFG_POLICY p) == 0 || b.rd (PN_LEVEL_VALUE p) + n ≤ penSize b p

/-- One push of a word (R274, R279–R281, R290); `land` writes the word, or only moves the pointer for a word the
host has written itself (R277). -/
def penPushWith (owner : Nat → Nat) (now : Time) (p : Nat) (last : Bool) (land : Fabric → Fabric) (b : Fabric) :
    Fabric :=
  if b.rd (PN_CFG_ENABLE p) = 0 then b.tally (PN_EVENT_TALLY_REFUSE p)
  else if b.rd (PN_STATUS_DROPPING p) = 1 then
    if last then (b.wr (PN_STATUS_DROPPING p) 0).wr (PN_STATUS_MIDPKT p) 0 else b
  else if b.rd (PN_LEVEL_VALUE p) = penSize b p then
    if b.rd (PN_CFG_POLICY p) = 1 then penRefuse p b
    else
      let b := penOverwrite owner now p b
      if b.rd (PN_STATUS_DROPPING p) = 1 then
        penHurdle owner now p (if last then (b.wr (PN_STATUS_DROPPING p) 0).wr (PN_STATUS_MIDPKT p) 0 else b)
      else penHurdle owner now p (land b)
  else penHurdle owner now p (land b)

/-- A push of a word by one of the device's producers. -/
def penPush (owner : Nat → Nat) (now : Time) (p : Nat) (data : List Byte) (last : Bool) (b : Fabric) : Fabric :=
  penPushWith owner now p last (penLand p data last) b

/-- Cut a packet into words of 64 bytes (R272). -/
def penWords : Nat → List Byte → List (List Byte)
  | 0, _ => []
  | n + 1, l => if l.length ≤ 64 then [l] else l.take 64 :: penWords n (l.drop 64)

/-- Push the words of a packet, the last with END. -/
def penPushAll (owner : Nat → Nat) (now : Time) (p : Nat) : List (List Byte) → Fabric → Fabric
  | [], b => b
  | [w], b => penPush owner now p w true b
  | w :: r, b => penPushAll owner now p r (penPush owner now p w false b)

/-- A packet of known length is admitted whole or not at all (R282); the answer says whether it was. -/
def penAdmit (owner : Nat → Nat) (now : Time) (p : Nat) (packet : List Byte) (b : Fabric) : Bool × Fabric :=
  let ws := penWords (packet.length / 64 + 1) packet
  if b.rd (PN_CFG_ENABLE p) = 0 then (false, b.tally (PN_EVENT_TALLY_REFUSE p))
  else if penHasRoom b p ws.length then (true, penPushAll owner now p ws b)
  else (false, penRefuse p b)

/-! Event views (R336–R342). -/

def viewKey (fn src : Nat) : Nat := 1024 * fn + src

def Fabric.view (b : Fabric) (fn src : Nat) : View := tget (fun _ => {}) b.views (viewKey fn src)

def Fabric.setView (b : Fabric) (fn src : Nat) (v : View) : Fabric :=
  { b with views := tset (fun _ => {}) b.views (viewKey fn src) v }

/-- A vector delivery (R340): the message, or the pending bit while the entry is masked. -/
def sendVector (fn vec : Nat) (b : Fabric) : Fabric :=
  if b.rd (MSIX_CTRL_MASK fn vec) = 1 then b.wr ⟨MSIX_PBA fn (vec / 32), vec % 32, vec % 32⟩ 1
  else b.emit (.msix fn vec)

/-- The bytes of an event record (R341). -/
def eventRecord (fn src count flags : Nat) (v : View) (seq : Nat) : List Byte :=
  [0x53#8, 0x56#8, 0x45#8, 0x56#8] ++ leBytes 2 src ++ leBytes 1 fn ++ leBytes 1 flags ++ leBytes 4 count
    ++ timeBytes v.first ++ timeBytes v.last ++ leBytes 4 v.detail ++ leBytes 4 seq ++ leBytes 4 0

/-- A record discarded (R341): counted, and EV850 raised unless the record was EV850's own. -/
def discardRecord (now : Time) (fn src : Nat) (b : Fabric) : Fabric :=
  let b := b.tally (EV_DROP_TALLY_COUNT fn)
  if src = 850 then b else b.indicate ⟨850, now, 0, if fn = 0 then [0] else [0, fn]⟩

/-- The pen half of a delivery: one record formed, taking the next SEQ, and admitted or discarded (R341). -/
def sendRecord (owner : Nat → Nat) (now : Time) (fn src count flags : Nat) (v : View) (b : Fabric) : Fabric :=
  let seq := b.rd (EV_SEQ_VALUE fn)
  let p := b.rd (EV_CFG_PEN fn src)
  let b := b.wr (EV_SEQ_VALUE fn) (seq + 1)
  if owner p = fn then
    let r := penAdmit owner now p (eventRecord fn src count flags v seq) b
    if r.1 then r.2 else discardRecord now fn src r.2
  else discardRecord now fn src b

/-- A view delivers (R338–R342): the record before the message, then UNDELIVERED and the kept causes start
afresh. `late` is FLAGS bit 1 (R339). -/
def deliver (owner : Nat → Nat) (now : Time) (late : Bool) (fn src : Nat) (b : Fabric) : Fabric :=
  let route := b.rd (EV_CFG_ROUTE fn src)
  let count := b.rd (EV_STATUS_UNDELIVERED fn src)
  let flags := b.rd (EV_STATUS_OVERFLOW fn src) + if late then 2 else 0
  let v := b.view fn src
  let b := (b.wr (EV_STATUS_UNDELIVERED fn src) 0).setView fn src {}
  let b := if route ≥ 2 then sendRecord owner now fn src count flags v b else b
  if route % 2 = 1 then sendVector fn (b.rd (EV_CFG_VECTOR fn src)) b else b

/-- Whether a view is due (R338): COUNT reached, or a hold-off of zero with an occurrence counted. -/
def viewDue (b : Fabric) (fn src : Nat) : Bool :=
  b.rd (EV_CFG_ENABLE fn src) == 1 && b.rd (EV_STATUS_UNDELIVERED fn src) > 0
    && (b.rd (EV_STATUS_UNDELIVERED fn src) ≥ b.rd (EV_COAL_COUNT fn src)
      || b.rd (EV_COAL_HOLDOFF_US fn src) == 0)

/-- One occurrence in one view (R337), and the delivery it makes due (R338). -/
def viewOccur (owner : Nat → Nat) (now : Time) (i : Indication) (b : Fabric) (fn : Nat) : Fabric :=
  let src := i.src
  let b := (b.tally (EV_TALLY_COUNT fn src)).wr (EV_STATUS_PENDING fn src) 1
  let v := b.view fn src
  let v := { v with seen := true, first := if v.seen then v.first else i.cause, last := i.cause, detail := i.detail }
  if b.rd (EV_CFG_ENABLE fn src) = 0 then b.setView fn src v
  else
    let u := b.rd (EV_STATUS_UNDELIVERED fn src)
    let b := if u = 65535 then b.wr (EV_STATUS_OVERFLOW fn src) 1 else b.wr (EV_STATUS_UNDELIVERED fn src) (u + 1)
    let v := { v with firstUndelivered := some (v.firstUndelivered.getD i.cause) }
    let b := b.setView fn src v
    if viewDue b fn src then deliver owner now false fn src b else b

/-- An indication reaches every view that sees its source. -/
def occur (owner : Nat → Nat) (now : Time) (i : Indication) (b : Fabric) : Fabric :=
  i.vis.foldl (viewOccur owner now i) b

/-- Take queued indications to their views, oldest first, at most `n` of them: a delivery may raise the event of
a pen, whose delivery may raise another; what is left stays queued (log entry 10). -/
def drain (owner : Nat → Nat) (now : Time) : Nat → Fabric → Fabric
  | 0, b => b
  | n + 1, b =>
    match b.queue with
    | [] => b
    | i :: r => drain owner now n (occur owner now i { b with queue := r })

/-- Raise an event source: its indication is queued, and the queue is taken to the views. -/
def Fabric.raise (owner : Nat → Nat) (now : Time) (i : Indication) (b : Fabric) : Fabric :=
  drain owner now 16 (b.indicate i)

/-- Indications that pens made are taken to the views. -/
def Fabric.settle (owner : Nat → Nat) (now : Time) (b : Fabric) : Fabric := drain owner now 16 b

end Sys2Proof.Machine
end

