-- ==== Sys2Proof/Machine/Pixel.lean ====
section
/-!
DEFINITION. Pixel formats and arithmetic (R163, R164, R188, R189, R199): significant depth, packing, rounding,
clamping, and the fill pattern of frame assembly.
-/
namespace Sys2Proof.Machine

/-- A pixel format of R163. -/
structure PixelFormat where
  /-- bits a pixel takes in the packed line -/
  bits : Nat
  /-- significant depth b (R188) -/
  depth : Nat
  bayer : Bool
deriving DecidableEq, Repr

/-- The format a PFNC code names (R163, R188). -/
def pixelFormat (code : Nat) : Option PixelFormat :=
  if code = 0x01080001 then some ⟨8, 8, false⟩
  else if code = 0x010A0046 then some ⟨10, 10, false⟩
  else if code = 0x010C0047 then some ⟨12, 12, false⟩
  else if code = 0x01100003 then some ⟨16, 10, false⟩
  else if code = 0x01100005 then some ⟨16, 12, false⟩
  else if code = 0x01100025 then some ⟨16, 14, false⟩
  else if code = 0x01100007 then some ⟨16, 16, false⟩
  else if 0x01080008 ≤ code ∧ code ≤ 0x0108000B then some ⟨8, 8, true⟩
  else if code = 0x010C0053 ∨ code = 0x010C0055 ∨ code = 0x010C0057 ∨ code = 0x010C0059 then some ⟨12, 12, true⟩
  else if 0x0110002E ≤ code ∧ code ≤ 0x01100031 then some ⟨16, 16, true⟩
  else none

/-- The 16-bit container format of T0 to T3 (R201): Mono16, or the 16-bit Bayer format of the same pattern. -/
def wideFormat (code : Nat) : Nat :=
  if code = 0x01080008 ∨ code = 0x010C0057 ∨ code = 0x0110002E then 0x0110002E
  else if code = 0x01080009 ∨ code = 0x010C0059 ∨ code = 0x0110002F then 0x0110002F
  else if code = 0x0108000A ∨ code = 0x010C0055 ∨ code = 0x01100030 then 0x01100030
  else if code = 0x0108000B ∨ code = 0x010C0053 ∨ code = 0x01100031 then 0x01100031
  else 0x01100007

/-- Bytes of a line (R164). -/
def lineBytes (width bits : Nat) : Nat := width * bits / 8

/-- A line's stride in the paddock (R251). -/
def strideOf (lineLen : Nat) : Nat := (lineLen + 63) / 64 * 64

/-- Pixels as one number, pixel 0 lowest. -/
def packNat (bits : Nat) : List Nat → Nat
  | [] => 0
  | v :: r => v % 2 ^ bits + 2 ^ bits * packNat bits r

def unpackNat (bits : Nat) : Nat → Nat → List Nat
  | 0, _ => []
  | n + 1, v => v % 2 ^ bits :: unpackNat bits n (v / 2 ^ bits)

/-- Cut a list into pieces of `n`, at most `k` of them. -/
def chunks {α : Type} (n : Nat) : Nat → List α → List (List α)
  | 0, _ => []
  | k + 1, l => if l.isEmpty then [] else l.take n :: chunks n k (l.drop n)

/-- A line packed as its format packs: groups of eight pixels take `bits` bytes. -/
def packLine (bits : Nat) (l : List Nat) : List Byte :=
  (chunks 8 (l.length / 8 + 1) l).flatMap fun g => leBytes (g.length * bits / 8) (packNat bits g)

/-- The pixels of a packed line. -/
def unpackLine (bits width : Nat) (l : List Byte) : List Nat :=
  ((chunks bits (width / 8 + 1) l).flatMap fun g => unpackNat bits 8 (leNat g)).take width

/-- A line of the fill value, cut to the format's significant bits (R164). -/
def fillLine (f : PixelFormat) (width value : Nat) : List Byte :=
  packLine f.bits (List.replicate width (value % 2 ^ f.depth))

/-- rnd(x, s) of R188. -/
def rnd (x : Int) (s : Nat) : Int := if s = 0 then x else (x + 2 ^ (s - 1)) / 2 ^ s

/-- Clamp to 0 … 2^b − 1, with the count of values raised and of values lowered (R188). -/
def clampCount (b : Nat) (x : Int) : Nat × Nat × Nat :=
  if x < 0 then (0, 1, 0) else if x > 2 ^ b - 1 then (2 ^ b - 1, 0, 1) else (x.toNat, 0, 0)

/-- The colour plane of a position (R188). -/
def planeOf (bayer : Bool) (x y : Nat) : Nat := if bayer then 2 * (y % 2) + x % 2 else 0

/-- The same-colour step (R188). -/
def stepOf (bayer : Bool) : Nat := if bayer then 2 else 1

/-- The number of colour planes (R188). -/
def planesOf (bayer : Bool) : Nat := if bayer then 4 else 1

end Sys2Proof.Machine
end

