-- ==== Sys2Proof/Machine/Coder.lean ====
section
/-!
DEFINITION. The lossless line coder (R233–R245): prediction, residual mapping, Rice codewords, raw blocks, the
encoder's choice of k, the header, and the decoder of R245.
-/
namespace Sys2Proof.Machine

/-- The encoder's history (R243, R244): A and N of the last block; none: no history. -/
abbrev CoderHist := Option (Nat × Nat)

/-- The median-edge prediction (R237). -/
def medianEdge (a b c : Nat) : Nat :=
  if max a b ≤ c then min a b else if c ≤ min a b then max a b else a + b - c

/-- The prediction for position `j` (R237): `left` holds the pixels before j, the nearest first; `up` is the line
above, none on a restart line. -/
def predict (bo s : Nat) (left : List Nat) (up : Option (List Nat)) (j : Nat) : Nat :=
  match up with
  | none => if j < s then 2 ^ (bo - 1) else left.getD (s - 1) 0
  | some u => if j < s then u.getD j 0 else medianEdge (left.getD (s - 1) 0) (u.getD j 0) (u.getD (j - s) 0)

/-- The residual mapped to an unsigned value (R239). -/
def mapResidual (bo x p : Nat) : Nat :=
  let d := (x + 2 ^ bo - p % 2 ^ bo) % 2 ^ bo
  if d < 2 ^ (bo - 1) then 2 * d else 2 * (2 ^ bo - d) - 1

/-- The value a mapped residual gives back (R239). -/
def unmapResidual (bo m p : Nat) : Nat :=
  if m % 2 = 0 then (p + m / 2) % 2 ^ bo else (p + 2 ^ bo - (m + 1) / 2) % 2 ^ bo

/-- A field of n bits, bit n − 1 first (R235). -/
def putBits : Nat → Nat → List Bool
  | 0, _ => []
  | n + 1, v => v.testBit n :: putBits n v

/-- Length of the codeword of `m` at parameter k (R241). -/
def riceCost (bo k m : Nat) : Nat := if m / 2 ^ k < 32 then m / 2 ^ k + 1 + k else 32 + bo

/-- The codeword of `m`, pixel value `x`, at parameter k (R241). -/
def riceWord (bo k m x : Nat) : List Bool :=
  if m / 2 ^ k < 32 then List.replicate (m / 2 ^ k) true ++ false :: putBits k m
  else List.replicate 32 true ++ putBits bo x

/-- The smallest k, from `k` on, with N × 2^k ≥ A, or 14 (R243). -/
def chooseFrom (a n : Nat) : Nat → Nat → Nat
  | 0, _ => 14
  | f + 1, k => if a ≤ n * 2 ^ k then k else chooseFrom a n f (k + 1)

/-- The parameter of the next block (R243, R244). -/
def chooseK : CoderHist → Nat
  | none => 4
  | some (a, n) => chooseFrom a n 14 0

/-- Pixels with their mapped residuals, from position `j`; `left` is the line before j, nearest first. -/
def residuals (bo s : Nat) (up : Option (List Nat)) : Nat → List Nat → List Nat → List (Nat × Nat)
  | _, _, [] => []
  | j, left, x :: r => (x, mapResidual bo x (predict bo s left up j)) :: residuals bo s up (j + 1) (x :: left) r

/-- What coding has produced: bits, history, raw blocks, escapes. -/
structure Coded where
  bits : List Bool := []
  hist : CoderHist := none
  raw : Nat := 0
  escapes : Nat := 0
deriving DecidableEq, Repr

/-- One block (R240–R243). -/
def encodeBlock (bo : Nat) (h : CoderHist) (xs : List (Nat × Nat)) : Coded :=
  let k := chooseK h
  let cost := (xs.map fun e => riceCost bo k e.2).sum
  let hist := some ((xs.map (·.2)).sum, xs.length)
  if cost > xs.length * bo then
    { bits := putBits 4 15 ++ xs.flatMap fun e => putBits bo e.1, hist := hist, raw := 1, escapes := 0 }
  else
    { bits := putBits 4 k ++ xs.flatMap fun e => riceWord bo k e.2 e.1, hist := hist, raw := 0,
      escapes := (xs.filter fun e => 32 ≤ e.2 / 2 ^ k).length }

/-- The blocks of a line in order (R236). -/
def encodeBlocks (bo : Nat) : CoderHist → List (List (Nat × Nat)) → Coded
  | h, [] => { hist := h }
  | h, b :: r =>
    let c := encodeBlock bo h b
    let d := encodeBlocks bo c.hist r
    { bits := c.bits ++ d.bits, hist := d.hist, raw := c.raw + d.raw, escapes := c.escapes + d.escapes }

/-- Bits to bytes, most significant first, zero bits up to the end of the byte (R235). -/
def bitsToBytes : Nat → List Bool → List Byte
  | 0, _ => []
  | n + 1, l => if l.isEmpty then [] else
    BitVec.ofNat 8 ((List.range 8).foldl (fun v i => 2 * v + if l.getD i false then 1 else 0) 0)
      :: bitsToBytes n (l.drop 8)

/-- The header of a coded line (R234). -/
structure LineHeader where
  line : Nat
  length : Nat
  bo : Nat
  first : Bool
  last : Bool
  restart : Bool
  desc : Bool
  bayer : Bool
  width : Nat
deriving DecidableEq, Repr

def LineHeader.word (h : LineHeader) : Nat :=
  h.line % 65536 + h.length * 2 ^ 16 + h.bo * 2 ^ 32 + (if h.first then 2 ^ 40 else 0) + (if h.last then 2 ^ 41 else 0)
    + (if h.restart then 2 ^ 42 else 0) + (if h.desc then 2 ^ 43 else 0) + (if h.bayer then 2 ^ 44 else 0)
    + h.width * 2 ^ 48

/-- A coded line: its bytes and the history it leaves (R234–R243). `up` is none on a restart line. -/
def encodeLine (h : CoderHist) (bo s line : Nat) (first last desc bayer : Bool) (up : Option (List Nat))
    (cur : List Nat) : List Byte × Coded :=
  let c := encodeBlocks bo h (chunks 32 (cur.length / 32 + 1) (residuals bo s up 0 [] cur))
  let stream := bitsToBytes (c.bits.length / 8 + 1) c.bits
  let hd : LineHeader := ⟨line, 8 + stream.length, bo, first, last, up.isNone, desc, bayer, cur.length⟩
  (leBytes 8 hd.word ++ stream, c)

/-! The decoder. -/

/-- The next n bits as a number, and the rest. -/
def getBits : Nat → List Bool → Nat × List Bool
  | 0, l => (0, l)
  | n + 1, l =>
    let r := getBits n l.tail
    ((if l.headD false then 2 ^ n else 0) + r.1, r.2)

/-- One-bits up to the first zero, at most `n`: their number, and the rest after the zero, or after `n` ones. -/
def getOnes : Nat → List Bool → Nat × List Bool
  | 0, l => (0, l)
  | n + 1, l =>
    if l.headD false then
      let r := getOnes n l.tail
      (r.1 + 1, r.2)
    else (0, l.tail)

/-- One pixel of a block with parameter k, predicted `p` (R240, R241). -/
def decodePixel (bo k p : Nat) (l : List Bool) : Nat × List Bool :=
  if k = 15 then getBits bo l
  else
    let q := getOnes 32 l
    if q.1 = 32 then getBits bo q.2
    else
      let m := getBits k q.2
      (unmapResidual bo (q.1 * 2 ^ k + m.1) p, m.2)

/-- The pixels of a block, `n` of them from position `j`. -/
def decodePixels (bo s k : Nat) (up : Option (List Nat)) : Nat → Nat → List Nat → List Bool → List Nat × List Bool
  | 0, _, left, l => (left, l)
  | n + 1, j, left, l =>
    let x := decodePixel bo k (predict bo s left up j) l
    decodePixels bo s k up n (j + 1) (x.1 :: left) x.2

/-- The blocks of a line; `todo` pixels are left, `left` holds those decoded, nearest first. -/
def decodeBlocks (bo s : Nat) (up : Option (List Nat)) : Nat → Nat → Nat → List Nat → List Bool → List Nat × List Bool
  | 0, _, _, left, l => (left, l)
  | f + 1, todo, j, left, l =>
    if todo = 0 then (left, l)
    else
      let n := min 32 todo
      let k := getBits 4 l
      let r := decodePixels bo s k.1 up n j left k.2
      decodeBlocks bo s up f (todo - n) (j + n) r.1 r.2

/-- The pixels of a line from the bits of its stream (R237–R241). -/
def decodeBits (bo s width : Nat) (up : Option (List Nat)) (l : List Bool) : List Nat :=
  (decodeBlocks bo s up (width / 32 + 1) width 0 [] l).1.reverse

/-- The bits of a byte, most significant first. -/
def bytesToBits (l : List Byte) : List Bool := l.flatMap fun b => putBits 8 b.toNat

/-- A coded line read back (R234, R245). -/
def decodeLine (s : Nat) (up : Option (List Nat)) (l : List Byte) : List Nat :=
  let w := leNat (l.take 8)
  decodeBits (w / 2 ^ 32 % 32) s (w / 2 ^ 48) up (bytesToBits (l.drop 8))

end Sys2Proof.Machine
end

