-- ==== Sys2Proof/Machine/Stages.lean ====
section
/-!
DEFINITION. The six stages of a pixel fold and the statistics taken from stage 3, as functions on lines of pixels
(R187–R199, R219–R221): unpack, black level with its dark filter, defective pixels, lens shading, geometry, output
format; histograms, zones and focus energies.
-/
namespace Sys2Proof.Machine

/-- A context's settings: one half of its FXB and FXS banks (R214, R231). -/
structure Bank where
  outFormat : Nat := 0
  coder : Bool := false
  shading : Bool := false
  defect : Bool := false
  dark : Bool := false
  col : Bool := false
  pedestal : Nat := 0
  global : Nat := 0
  darkFirst : Nat := 0
  darkRows : Nat := 0
  k : Nat := 0
  colAddr : Nat := 0
  defectAddr : Nat := 0
  defectCount : Nat := 0
  meshAddr : Nat := 0
  nx : Nat := 0
  ny : Nat := 0
  sx : Nat := 0
  sy : Nat := 0
  y0 : Nat := 0
  x0 : Nat := 0
  ch : Nat := 0
  cw : Nat := 0
  bin : Nat := 0
  decim : Nat := 0
  mirrorV : Bool := false
  mirrorH : Bool := false
  penB : Nat := 0
  penA : Nat := 0
  tapB : Nat := 0
  tapA : Nat := 0
  stripe : Bool := false
  lines : Nat := 0
  shift : Nat := 0
  focusPlane : Nat := 0
  focusOp : Nat := 0
  focusEn : Bool := false
  frameEn : Bool := false
  statPen : Nat := 0
  zoneY0 : Nat := 0
  zoneX0 : Nat := 0
  zh : Nat := 0
  zw : Nat := 0
  zy : Nat := 0
  zx : Nat := 0
  winAddr : Nat := 0
  winCount : Nat := 0
deriving DecidableEq, Repr

/-- The half `h` (0 shadow, 1 active) of the banks of context `c` of fold `f`. -/
def bankAt (b : Fabric) (f c h : Nat) : Bank where
  outFormat := b.rd (FXB_OUT_FORMAT_FORMAT f c h)
  coder := b.rd (FXB_ENABLES_CODER f c h) == 1
  shading := b.rd (FXB_ENABLES_SHADING f c h) == 1
  defect := b.rd (FXB_ENABLES_DEFECT f c h) == 1
  dark := b.rd (FXB_ENABLES_DARK f c h) == 1
  col := b.rd (FXB_ENABLES_COL f c h) == 1
  pedestal := b.rd (FXB_BLACK_PEDESTAL f c h)
  global := b.rd (FXB_BLACK_GLOBAL f c h)
  darkFirst := b.rd (FXB_DARK_DARK_FIRST f c h)
  darkRows := b.rd (FXB_DARK_DARK_ROWS f c h)
  k := b.rd (FXB_DARK_K f c h)
  colAddr := 64 * b.rd (FXB_COLTAB_ADDR_ADDRESS f c h)
  defectAddr := 64 * b.rd (FXB_DEFECT_ADDR_ADDRESS f c h)
  defectCount := b.rd (FXB_DEFECT_COUNT_COUNT f c h)
  meshAddr := 64 * b.rd (FXB_MESH_ADDR_ADDRESS f c h)
  nx := b.rd (FXB_MESH_NX f c h)
  ny := b.rd (FXB_MESH_NY f c h)
  sx := b.rd (FXB_MESH_SX f c h)
  sy := b.rd (FXB_MESH_SY f c h)
  y0 := b.rd (FXB_CROP_XY_Y0 f c h)
  x0 := b.rd (FXB_CROP_XY_X0 f c h)
  ch := b.rd (FXB_CROP_WH_CH f c h)
  cw := b.rd (FXB_CROP_WH_CW f c h)
  bin := b.rd (FXB_GEOM_BIN f c h)
  decim := b.rd (FXB_GEOM_DECIM f c h)
  mirrorV := b.rd (FXB_GEOM_MIRROR_V f c h) == 1
  mirrorH := b.rd (FXB_GEOM_MIRROR_H f c h) == 1
  penB := b.rd (FXB_TAP_PENS_PEN_B f c h)
  penA := b.rd (FXB_TAP_PENS_PEN_A f c h)
  tapB := b.rd (FXB_TAP_SEL_TAP_B f c h)
  tapA := b.rd (FXB_TAP_SEL_TAP_A f c h)
  stripe := b.rd (FXB_STRIPE_MUX f c h) == 1
  lines := b.rd (FXB_STRIPE_LINES f c h)
  shift := b.rd (FXS_CTRL_SHIFT f c h)
  focusPlane := b.rd (FXS_CTRL_FOCUS_PLANE f c h)
  focusOp := b.rd (FXS_CTRL_FOCUS_OP f c h)
  focusEn := b.rd (FXS_CTRL_FOCUS_EN f c h) == 1
  frameEn := b.rd (FXS_CTRL_FRAME_EN f c h) == 1
  statPen := b.rd (FXS_PEN_PEN f c h)
  zoneY0 := b.rd (FXS_ZONE_XY_ZONE_Y0 f c h)
  zoneX0 := b.rd (FXS_ZONE_XY_ZONE_X0 f c h)
  zh := b.rd (FXS_ZONE_SIZE_ZH f c h)
  zw := b.rd (FXS_ZONE_SIZE_ZW f c h)
  zy := b.rd (FXS_ZONE_COUNT_ZY f c h)
  zx := b.rd (FXS_ZONE_COUNT_ZX f c h)
  winAddr := 64 * b.rd (FXS_WIN_ADDR_ADDRESS f c h)
  winCount := b.rd (FXS_WIN_COUNT_COUNT f c h)

/-- A line of pixels. -/
abbrev Line := List Nat

/-- Lines `y0`, `y0 + 1`, … of a frame. -/
structure Band where
  y0 : Nat := 0
  rows : List Line := []
deriving DecidableEq, Repr

def Band.row (b : Band) (y : Nat) : Option Line := if y < b.y0 then none else b.rows[y - b.y0]?

def Band.px (b : Band) (x y : Nat) : Option Nat := (b.row y).bind fun r => r[x]?

/-- What clamping and defect replacement have counted (R188, R194). -/
structure Counts where
  lo : Nat := 0
  hi : Nat := 0
  unfixed : Nat := 0
deriving DecidableEq, Repr

def Counts.add (a b : Counts) : Counts := ⟨a.lo + b.lo, a.hi + b.hi, a.unfixed + b.unfixed⟩

/-- A function applied with the position, from position `i`. -/
def mapIdxFrom {α β : Type} (g : Nat → α → β) : Nat → List α → List β
  | _, [] => []
  | i, a :: r => g i a :: mapIdxFrom g (i + 1) r

/-! Stage 0. -/

/-- Unpack (R189): a value above the significant depth is clamped, and counted as lowered. -/
def unpackRow (f : PixelFormat) (width : Nat) (l : List Byte) : Line × Counts :=
  let vs := unpackLine f.bits width l
  let m := 2 ^ f.depth - 1
  (vs.map (min m), { hi := (vs.filter (m < ·)).length })

/-! Stage 1. -/

/-- A signed 16-bit column entry (R190). -/
def colEntry (cols : List Nat) (x : Nat) : Int :=
  let v := cols.getD x 0
  if v < 32768 then (v : Int) else (v : Int) - 65536

/-- The offset of a plane (R190): GLOBAL without dark history, else rnd(F_c, 8). -/
def planeOffset (bk : Bank) (nohist : Bool) (fs : List Nat) (c : Nat) : Int :=
  if nohist || !bk.dark then (bk.global : Int) else rnd (fs.getD c 0 : Nat) 8

/-- Black level of one line (R190); without COL and DARK the line passes unchanged (R187). -/
def blackRow (bk : Bank) (f : PixelFormat) (cols : List Nat) (nohist : Bool) (fs : List Nat) (y : Nat) (row : Line) :
    Line × Counts :=
  if !bk.col && !bk.dark then (row, {})
  else
    let r := mapIdxFrom (fun x (v : Nat) =>
      clampCount f.depth ((v : Int) - (if bk.col then colEntry cols x else 0)
        - planeOffset bk nohist fs (planeOf f.bayer x y) + bk.pedestal)) 0 row
    (r.map (·.1), { lo := (r.map (·.2.1)).sum, hi := (r.map (·.2.2)).sum })

/-- Sum and number of a plane's dark pixels in one line (R191). -/
def darkSum (bk : Bank) (f : PixelFormat) (cols : List Nat) (c y : Nat) (row : Line) : Int × Nat :=
  if y < bk.darkFirst ∨ bk.darkFirst + bk.darkRows ≤ y then (0, 0)
  else (mapIdxFrom (fun x v => (x, v)) 0 row).foldl (fun a e =>
    if planeOf f.bayer e.1 y = c then (a.1 + (e.2 : Int) - (if bk.col then colEntry cols e.1 else 0), a.2 + 1) else a)
    (0, 0)

/-- The dark filter's update (R191): with K 0 the measured level stands. Without history `old` is 256 × GLOBAL (R192). -/
def darkUpdate (k : Nat) (old : Nat) (s : Int) (n : Nat) : Nat :=
  let m : Int := (256 * s + (n / 2 : Nat)) / (n : Int)
  let v : Int := if k = 0 then m else (old : Int) + rnd (m - old) k
  (v % 16777216).toNat

/-! Stage 2. -/

/-- An entry of a defect map (R193). -/
structure Defect where
  row : Nat
  col : Nat
  kind : Nat
  span : Nat
deriving DecidableEq, Repr

def defectOf (w : Nat) : Defect := ⟨w / 2 ^ 48, w / 2 ^ 34 % 2 ^ 14, w / 2 ^ 32 % 4, w / 2 ^ 16 % 2 ^ 16⟩

/-- Entries in order; one that is not above the entry before it is skipped and counted (R195). -/
def orderMap : Option Defect → List Defect → List Defect × Nat
  | _, [] => ([], 0)
  | p, d :: r =>
    let ok := match p with
      | none => true
      | some q => q.row < d.row || (q.row == d.row && q.col < d.col)
    let t := orderMap (some d) r
    if ok then (d :: t.1, t.2) else (t.1, t.2 + 1)

/-- Whether an entry covers column `x` of its row (R193). -/
def Defect.covers (d : Defect) (s x : Nat) : Bool :=
  d.col ≤ x && (x - d.col) % s == 0 && (x - d.col) / s < (if d.kind = 0 then 1 else d.span)

def coveredBy (map : List Defect) (s x y : Nat) : Option Defect := map.find? fun d => d.row == y && d.covers s x

/-- The value of a valid neighbour (R194): within the frame and not covered. -/
def neighbour (b : Band) (map : List Defect) (s x y : Nat) : Option Nat :=
  if (coveredBy map s x y).isSome then none else b.px x y

/-- The nearest valid neighbour to the left, `n` steps at most. -/
def leftOf (b : Band) (map : List Defect) (s y : Nat) : Nat → Nat → Option Nat
  | 0, _ => none
  | n + 1, x => if x < s then none else
    match neighbour b map s (x - s) y with
    | some v => some v
    | none => leftOf b map s y n (x - s)

/-- The nearest valid neighbour to the right, `n` steps at most. -/
def rightOf (b : Band) (map : List Defect) (s y : Nat) : Nat → Nat → Option Nat
  | 0, _ => none
  | n + 1, x =>
    match neighbour b map s (x + s) y with
    | some v => some v
    | none => rightOf b map s y n (x + s)

/-- The replacement of a covered pixel (R194); an entry of the reserved kind gives a value that is not stated. -/
def replaced (b : Band) (map : List Defect) (s x y v : Nat) (d : Defect) : Nat × Nat :=
  if d.kind = 3 then (Config.reservedDefect x y v, 0)
  else
    let ab :=
      if d.kind = 2 then
        (if y < s then none else neighbour b map s x (y - s), neighbour b map s x (y + s))
      else if d.kind = 1 then (leftOf b map s y 16 d.col, rightOf b map s y 16 (d.col + (d.span - 1) * s))
      else (leftOf b map s y 16 x, rightOf b map s y 16 x)
    match ab with
    | (some a, some c) => ((rnd ((a + c : Nat) : Int) 1).toNat, 0)
    | (some a, none) => (a, 0)
    | (none, some c) => (c, 0)
    | (none, none) => (v, 1)

/-- One line of stage 2; the band holds the stage 1 lines around it. -/
def defectRow (bk : Bank) (f : PixelFormat) (map : List Defect) (b : Band) (y : Nat) (row : Line) : Line × Counts :=
  if !bk.defect then (row, {})
  else
    let s := stepOf f.bayer
    let here := map.filter fun d => d.row == y
    let r := mapIdxFrom (fun x v =>
      match coveredBy here s x y with
      | none => (v, 0)
      | some d => replaced b map s x y v d) 0 row
    (r.map (·.1), { unfixed := (r.map (·.2)).sum })

/-! Stage 3. -/

/-- The gain of a plane's node (R196). -/
def meshGain (bk : Bank) (mesh : List Nat) (c j i : Nat) : Nat := mesh.getD (c * bk.nx * bk.ny + j * bk.nx + i) 0

/-- The interpolated gain of a pixel (R197). -/
def shadeGain (bk : Bank) (mesh : List Nat) (c xp yp : Nat) : Nat :=
  let px := 2 ^ bk.sx
  let py := 2 ^ bk.sy
  let i := xp / px
  let fx := xp - i * px
  let j := yp / py
  let fy := yp - j * py
  let g := fun jj ii w => if w = 0 then 0 else meshGain bk mesh c jj ii * w
  (rnd ((g j i ((px - fx) * (py - fy)) + g j (i + 1) (fx * (py - fy)) + g (j + 1) i ((px - fx) * fy)
    + g (j + 1) (i + 1) (fx * fy) : Nat) : Int) (bk.sx + bk.sy)).toNat

/-- Lens shading of one line (R197). -/
def shadeRow (bk : Bank) (f : PixelFormat) (mesh : List Nat) (y : Nat) (row : Line) : Line × Counts :=
  if !bk.shading then (row, {})
  else
    let s := stepOf f.bayer
    let m := 2 ^ f.depth - 1
    let r := mapIdxFrom (fun x v =>
      (rnd ((v * shadeGain bk mesh (planeOf f.bayer x y) (x / s) (y / s) : Nat) : Int) 12).toNat) 0 row
    (r.map (min m), { hi := (r.filter (m < ·)).length })

/-! Stage 4. -/

/-- The factor of binning or decimation (R198). -/
def geomFactor (bk : Bank) : Nat :=
  if bk.bin = 1 ∨ bk.decim = 1 then 2 else if bk.bin = 2 ∨ bk.decim = 2 then 4 else 1

/-- The input position of output position `o`, sample `i` of its block (R198). -/
def geomIn (bayer : Bool) (f o i : Nat) : Nat := if bayer then o / 2 * (2 * f) + o % 2 + 2 * i else o * f + i

/-- One output pixel from cropped lines. -/
def geomPx (bk : Bank) (bayer : Bool) (rows : List Line) (oy ox : Nat) : Nat :=
  let f := geomFactor bk
  let at_ := fun i j => (rows.getD (geomIn bayer f oy i) []).getD (geomIn bayer f ox j) 0
  if bk.bin = 0 then at_ 0 0
  else (rnd (((List.range f).map fun i => ((List.range f).map fun j => at_ i j).sum).sum : Nat) (2 * Nat.log2 f)).toNat

/-- A line reversed; for Bayer whole quads (R198). -/
def mirrorLine (bayer : Bool) (l : Line) : Line :=
  if bayer then (chunks 2 l.length l).reverse.flatten else l.reverse

/-- Crop, binning or decimation and horizontal mirroring of the lines of a unit, which starts at line `y`; vertical
mirroring reverses the order of a whole frame's lines. -/
def geometry (bk : Bank) (bayer : Bool) (y : Nat) (rows : List Line) : List Line :=
  let inCrop := (mapIdxFrom (fun i r => (y + i, r)) 0 rows).filter fun e => bk.y0 ≤ e.1 && e.1 < bk.y0 + bk.ch
  let cropped := inCrop.map fun e => (e.2.drop bk.x0).take bk.cw
  let f := geomFactor bk
  let out := (List.range (cropped.length / f)).map fun oy =>
    let l := (List.range (bk.cw / f)).map fun ox => geomPx bk bayer cropped oy ox
    if bk.mirrorH then mirrorLine bayer l else l
  if bk.mirrorV then out.reverse else out

/-! Stage 5. -/

/-- Depth conversion (R199). -/
def convertDepth (b bo v : Nat) : Nat :=
  if bo < b then min (rnd (v : Int) (b - bo)).toNat (2 ^ bo - 1) else v * 2 ^ (bo - b)

/-- A tap line of T0 to T3: two bytes a pixel (R200). -/
def wideLine (l : Line) : List Byte := l.flatMap fun v => leBytes 2 v

/-! Statistics. -/

/-- The histogram bin of a value (R219). -/
def histBin (b v : Nat) : Nat := if b ≥ 10 then v / 2 ^ (b - 10) else v

def countAt : Nat → List Nat → List Nat
  | _, [] => []
  | 0, n :: r => (n + 1) :: r
  | k + 1, n :: r => n :: countAt k r

/-- The values of one plane in the lines given, the first of which is line `y`. -/
def planeValues (bayer : Bool) (c y : Nat) (rows : List Line) : List Nat :=
  (mapIdxFrom (fun i (r : Line) => (mapIdxFrom (fun x v => (x, v)) 0 r).filterMap fun e =>
    if planeOf bayer e.1 (y + i) = c then some e.2 else none) 0 rows).flatten

/-- The histogram of a plane (R219). -/
def histogram (b : Nat) (vs : List Nat) : List Nat :=
  vs.foldl (fun h v => countAt (histBin b v) h) (List.replicate 1024 0)

/-- The 16 bytes of a zone and plane (R220). A zone without a pixel of the plane has no stated measures. -/
def zoneEntry (vs : List Nat) : List Byte :=
  if vs.isEmpty then leBytes 16 Config.emptyZone.toNat else
  let n := vs.length
  let s := vs.sum
  let mn := vs.foldl min (vs.headD 0)
  let mx := vs.foldl max 0
  let mean := (65536 * s + n / 2) / n
  leBytes 2 mn ++ leBytes 2 mx ++ leBytes 4 mean ++ leBytes 8 ((vs.map fun v => v * v).sum)

/-- The zone measures of a frame (R220). -/
def zoneBody (bk : Bank) (bayer : Bool) (rows : List Line) : List Byte :=
  (List.range bk.zy).flatMap fun j => (List.range bk.zx).flatMap fun i =>
    let y := bk.zoneY0 + j * bk.zh
    let x := bk.zoneX0 + i * bk.zw
    let part := ((rows.drop y).take bk.zh).map fun r => (r.drop x).take bk.zw
    (List.range (planesOf bayer)).flatMap fun c =>
      zoneEntry ((mapIdxFrom (fun dy (r : Line) => (mapIdxFrom (fun dx v => (dx, v)) 0 r).filterMap fun e =>
        if planeOf bayer (x + e.1) (y + dy) = c then some e.2 else none) 0 part).flatten)

/-- The body of a frame statistics record (R219, R220). -/
def frameBody (bk : Bank) (f : PixelFormat) (rows : List Line) : List Byte :=
  ((List.range (planesOf f.bayer)).flatMap fun c =>
    (histogram f.depth (planeValues f.bayer c 0 rows)).flatMap (leBytes 4)) ++ zoneBody bk f.bayer rows

/-- The energy of a pixel (R221), none where its neighbourhood leaves the frame. -/
def focusEnergy (bk : Bank) (s : Nat) (b : Band) (x y : Nat) : Option Nat :=
  let p := fun (i j : Nat) => if x + i * s < s ∨ y + j * s < s then none else
    (b.px (x + i * s - s) (y + j * s - s)).map fun v => (v : Int)
  match p 0 0, p 1 0, p 2 0, p 0 1, p 1 1, p 2 1, p 0 2, p 1 2, p 2 2 with
  | some a, some b', some c, some d, some e, some f', some g, some h, some i =>
    let gx := c + 2 * f' + i - a - 2 * d - g
    let gy := g + 2 * h + i - a - 2 * b' - c
    let l := 4 * e - d - f' - b' - h
    some (rnd (if bk.focusOp = 0 then gx * gx + gy * gy else l * l) bk.shift).toNat
  | _, _, _, _, _, _, _, _, _ => none

/-- A focus window (R221). -/
structure FocusWin where
  x0 : Nat
  y0 : Nat
  w : Nat
  h : Nat
deriving DecidableEq, Repr

/-- Energy and pixels of a window over the lines `ys` to `ys + n − 1`; the band holds the lines around them. -/
def focusPart (bk : Bank) (bayer : Bool) (b : Band) (ys n width : Nat) (win : FocusWin) : Nat × Nat :=
  let s := stepOf bayer
  (List.range n).foldl (fun acc i =>
    let y := ys + i
    if y < win.y0 ∨ win.y0 + win.h ≤ y then acc
    else (List.range (min win.w (width - win.x0))).foldl (fun acc dx =>
      let x := win.x0 + dx
      if planeOf bayer x y = bk.focusPlane then
        match focusEnergy bk s b x y with
        | some e => (acc.1 + e, acc.2 + 1)
        | none => acc
      else acc) acc) (0, 0)

/-- The 16 bytes of a focus window (R221). -/
def focusEntry (e : Nat × Nat) : List Byte :=
  let sat := e.1 ≥ 2 ^ 48
  leBytes 6 (min e.1 (2 ^ 48 - 1)) ++ leBytes 1 ((if sat then 1 else 0) + if e.2 = 0 then 2 else 0)
    ++ leBytes 1 0 ++ leBytes 4 e.2 ++ leBytes 4 0

end Sys2Proof.Machine
end

