-- ==== Sys2Proof/Machine/State.lean ====
section
/-!
DEFINITION. The state of the device: everything the spec gives it, as plain data. Registers stand in
`State.fab.regs`; the substructures hold what the rules name beside the registers.
-/
namespace Sys2Proof.Machine

/-- No rule of the spec ends a run of the device: there is no fault. -/
inductive Fault
deriving DecidableEq, Repr

/-- Why a command has no effect to give. -/
inductive Refusal
  /-- the dispatch names a command whose meaning is not written; safe: nothing is claimed of it -/
  | notModelled (mnemonic : String)
deriving DecidableEq, Repr

/-! The time base (R348–R364, R536). -/

/-- What a PTP instance keeps of the master it has selected (R356–R358). -/
structure PtpServo where
  /-- the best announce data set heard, compared in order (default BMCA, R356); none: no master -/
  master : Option (List Nat) := none
  /-- the mean path delay, in 2^-16 ns, once one exists (R358) -/
  delay : Option Nat := none
  /-- the servo's history: the last sync's master and local instants, in 2^-16 ns -/
  history : Option (Nat × Nat) := none
  /-- what the step or halving of the first sync took off the local interval, in 2^-16 ns, signed -/
  stepped : Int := 0
deriving DecidableEq, Repr

/-- One of TDA and TDB (R349); values and increments in units of 2^-32 ns. -/
structure Counter where
  val : Nat := 0
  base : Nat := 0x140000000
  adj : Nat := 0
  adjLeft : Nat := 0
  /-- clocks a catch-up under R352 still runs at half the increment -/
  halveLeft : Nat := 0
  /-- TD_CMD.SET_ON_PPS waits for its edge: the seconds to set -/
  setOnPps : Option Nat := none
  servo : PtpServo := {}
deriving DecidableEq, Repr

/-- How device time follows the counters (R353–R355). -/
inductive Join
  /-- device time is the counter's value -/
  | follow
  /-- JOINING: device time runs at half the new counter's increment -/
  | catchUp
  /-- JOIN_WAIT: device time stays on the old counter -/
  | wait
  /-- a forward set during a catch-up left the join waiting: device time runs on at the new counter's full
  increment (R368) -/
  | waitRunning
deriving DecidableEq, Repr

/-- What a slot keeps beside its registers (R362–R364). -/
structure Slot where
  armed : Bool := false
  /-- device time at the ARM write, in 2^-32 ns -/
  armedAt : Nat := 0
  /-- armed with a time already due (LATE) -/
  late : Bool := false
  /-- its time was passed by a forward step -/
  stepped : Bool := false
deriving DecidableEq, Repr

structure TimeBase where
  tda : Counter := {}
  tdb : Counter := {}
  /-- device time, in 2^-32 ns -/
  dev : Nat := 0
  join : Join := .follow
  /-- the counter device time follows, 0 or 1 (TB_STATUS.ACTIVE) -/
  active : Nat := 0
  /-- the counter a join leads to -/
  target : Nat := 0
  /-- the counter whose full increment device time runs at in `waitRunning` -/
  runOn : Nat := 0
  /-- changes of the selected counter, newest first: device time at the clock after the write, and SEL (R353) -/
  domains : List (Nat × Nat) := []
  slots : Tab Slot := []
  /-- slots that fired since the last tick (R366) -/
  fired : Nat := 0
  /-- PPS edges in a row with a phase error below 10 ns (R360) -/
  ppsGood : Nat := 0
  /-- when a lock of the grandmaster was last lost (R360) -/
  lockLost : Option Time := none
deriving DecidableEq, Repr

/-- A piece of control work (R33); what it posts is fixed when the tick that owes it begins. -/
inductive Work
  /-- posting of the counters, slots and rules: nothing but units -/
  | units
  /-- evaluation of the enabled trigger channels (R410) -/
  | evaluate
  /-- the control work of a camera exposure write of a trigger channel (R407) -/
  | camWrite (n : Nat)
  /-- a held Torvelink block of a port (R402) -/
  | heldBlock (port : Nat)
  /-- an encoder sample: encoder, tick, latest edge (stamp, boundary, direction), counter and status (R383) -/
  | encSample (k : Nat) (tick : Time) (edge : Option (Time × Int × Bool)) (count : Int) (status : Word)
  /-- an absolute channel's sample (R383, R391) -/
  | absSample (j : Nat) (at_ : Time) (pos : Nat)
  /-- placements of a trigger channel to its history, so many (R403) -/
  | placements (n count : Nat)
  /-- samples of an analogue channel to its history, so many (R420) -/
  | collect (c count : Nat)
  /-- an exposure bank commit (R406) -/
  | expCommit (n : Nat)
  /-- the control-side shadow sets of a stream (R21) -/
  | shadowCommit (st : Nat)
deriving DecidableEq, Repr

/-- The bellwether (R29–R36); times in 2^-32 ns. -/
structure Bellwether where
  /-- tick period in force, in ns -/
  period : Nat := 1000
  /-- a period waiting for the next whole second -/
  pendingPeriod : Option Nat := none
  /-- the next tick boundary to run -/
  next : Nat := 0
  /-- control work not yet finished, in its order, with the units each piece still needs -/
  queue : List (Nat × Work) := []
  /-- the tick's demand (R36) -/
  demand : Nat := 0
  /-- units of carried work the tick began with -/
  carried : Nat := 0
  /-- units of the trigger sequencer's work that the tick ran (R410) -/
  sequencer : Nat := 0
  /-- ticks begun since reset -/
  count : Nat := 0
  /-- streams whose start of frame asks for a commit of their control-side shadow sets in the next tick (R21) -/
  commits : List Nat := []
deriving DecidableEq, Repr
/-! The structure image (R42–R70). -/

/-- A PORT entry (R50). -/
structure PortEntry where
  port : Nat
  cage : Nat
  firstLane : Nat
  lanes : Nat
  standard : Nat
  rate : Nat
  streams : Nat
  enable : Bool
  fill : Nat
deriving DecidableEq, Repr

/-- A FOLD entry (R51). -/
structure FoldEntry where
  fold : Nat
  join : Nat
  enable : Bool
deriving DecidableEq, Repr

/-- A STREAM entry (R52). -/
structure StreamEntry where
  stream : Nat
  fold : Nat
  mux : Nat
  mode : Nat
  stripeLines : Nat
  owner : Nat
  group : Nat
  width : Nat
  height : Nat
  format : Nat
  ringPages : Nat
  penA : Nat
  penB : Nat
  tapA : Nat
  tapB : Nat
  context : Nat
deriving DecidableEq, Repr

/-- A PARTITION entry (R53), and the active partition of a capture function (R325). -/
structure Part where
  fn : Nat
  enable : Bool := true
  penFirst : Nat := 0
  penCount : Nat := 0
  chFirst : Nat := 0
  chCount : Nat := 0
  pageFirst : Nat := 0
  pageCount : Nat := 0
  /-- bit n: the function owns stream n -/
  streams : Nat := 0
deriving DecidableEq, Repr

/-- A FREEZE entry (R54). -/
structure FreezeEntry where
  group : Nat
  owner : Nat
  unit : Nat
  source : Nat
  index : Nat
  edge : Nat
  pre : Nat
  post : Nat
deriving DecidableEq, Repr

/-- What an image says, section by section. -/
structure Image where
  serial : Nat
  factory : Bool
  digest : List Byte
  ports : List PortEntry
  folds : List FoldEntry
  /-- none: no STREAM section, so streams are placed as the factory image places them (R48) -/
  streams : Option (List StreamEntry)
  parts : List Part
  freezes : List FreezeEntry
  presets : List (Nat × Nat)
deriving DecidableEq, Repr

/-- A flash slot (R42, R66): the image's bytes and the 64 bytes of its marker. -/
structure FlashSlot where
  image : List Byte := []
  marker : List Byte := []
deriving DecidableEq, Repr

/-- Who has an upload open (R333, R478). -/
inductive Transport
  | doe | mailbox
deriving DecidableEq, Repr

/-- The one upload under way (R333, R478): of an image, or of firmware. -/
structure Upload where
  transport : Transport
  firmware : Bool
  total : Nat
  bytes : List Byte
deriving DecidableEq, Repr

/-- How far an activation has come (R61, R62). -/
inductive Stage
  | idle
  /-- passed the check, waiting for post windows (R61) -/
  | waiting
  /-- passed the check, quiesce to begin -/
  | ready
  | quiesce
  | retain
  /-- a rollback has begun; its Reconfigure is to follow (R63, R65) -/
  | rollback
  | reconfigure
  | retrain
  | programming
deriving DecidableEq, Repr

/-- From quiesce to the end of resume intake is stopped, the trigger outputs idle and freezes are held (R23, R64). -/
def Stage.held : Stage → Bool
  | .quiesce | .retain | .rollback | .reconfigure | .retrain => true
  | .idle | .waiting | .ready | .programming => false

/-- An activation is under way, from a passed check to the end of Resume. -/
def Stage.active : Stage → Bool
  | .idle | .programming => false
  | _ => true

/-- A freeze request held through an activation (R64). -/
structure HeldFreeze where
  group : Nat
  time : Time
  cause : Nat
deriving DecidableEq, Repr

/-- Where a stream's regions lie, its RING_PAGES, and the region it records in (R63). -/
structure Placed where
  stream : Nat
  ringPages : Nat
  first : Nat
  pages : Nat
deriving DecidableEq, Repr

/-- A flash slot being programmed (R68). -/
structure Programming where
  slot : Nat
  bytes : List Byte
  /-- the marker has been erased and the write begun; not so while the module is unseated (R495) -/
  begun : Bool
deriving DecidableEq, Repr

structure Structure where
  slotA : FlashSlot := {}
  slotB : FlashSlot := {}
  uploaded : List Byte := []
  upload : Option Upload := none
  /-- STR_CTRL operations that wait for the shepherd (R463): 0 GO, 1 CHECK, 2 PROGRAM, with the source -/
  waiting : List (Nat × Nat) := []
  /-- the image in force; none until the first activation (log entry 2) -/
  image : Option Image := none
  /-- Img values the image in force supplies, by register (R9, R69) -/
  img : Tab Word := []
  stage : Stage := .idle
  /-- the image being activated and its source -/
  next : Option (Nat × Image) := none
  /-- the image in force before GO and its source (R65) -/
  prior : Option (Nat × Image) := none
  /-- a reset has cut an activation: the stage cut, 0 for the check; a rollback is due (R65) -/
  rollbackDue : Option Nat := none
  /-- RESULT of the rollback under way -/
  rollbackResult : Nat := 0
  goTime : Time := 0
  heldFreezes : List HeldFreeze := []
  program : Option Programming := none
  /-- where the streams of the image before lay (R63) -/
  placed : List Placed := []
  /-- the cage, coder and fold domains have had their first power-up (R484) -/
  powered : Bool := false
  /-- the fold last assigned by the factory round-robin (R70) -/
  lastFold : Option Nat := none
  /-- ports that have carried a stream since the activation (R70) -/
  carried : List Nat := []
deriving DecidableEq, Repr
/-! Serial lanes and link bring-up (R71–R125). -/

/-- What a lane keeps beside its registers. -/
structure Lane where
  /-- consecutive windows at or above THRESH within a frozen interval (R81) -/
  windows : Nat := 0
  /-- EV(4n + 1) was raised for this frozen interval (R81) -/
  limitRaised : Bool := false
  /-- a request that waits for the exit under way (R98) -/
  deferred : Option Nat := none
  /-- has been Active since the last cold, module or lane block reset (R79) -/
  adapted : Bool := false
  /-- the last remote tap request: tap and action (R85) -/
  lastRequest : Nat × Nat := (0, 0)
  /-- the reply that stands until the far receiver holds: 0 not updated, 1 updated, 2 minimum, 3 maximum (R86) -/
  reply : Nat := 0
  /-- requests the lane's own receiver has sent, successive steps without improvement, and whether it holds (R88) -/
  sent : Nat := 0
  misses : Nat := 0
  hold : Bool := false
  /-- a new rate for the next entry to Train, or the next exit from Rest outside a port (R101) -/
  newRate : Option Nat := none
  /-- the far side's lane number and READY flag, from its training blocks (R132) -/
  farNumber : Option Nat := none
  farReady : Bool := false
  farInverted : Bool := false
  /-- manual slips still to apply, and the instant they count from; the boundary's place, in bits (R90) -/
  slips : Nat := 0
  slipFrom : Time := 0
  boundary : Nat := 0
deriving DecidableEq, Repr

/-- A control request that waits for the camera (R142, R176). -/
structure CtrlRequest where
  tag : Nat
  write : Bool
  addr : Nat
  len : Nat
  /-- who asked: 0 the host's control channel, 1 the sequencer's exposure write of a channel, 2 Exchange -/
  kind : Nat
  /-- function or trigger channel that asked -/
  who : Nat
  /-- the generation of an exposure write, and whether another write of it has failed (R407) -/
  gen : Nat := 0
  failed : Bool := false
  /-- it has gone out to the camera -/
  sent : Bool := false
  /-- the bytes of a write -/
  bytes : List Byte := []
  /-- the function was reset meanwhile; the response is discarded (R330) -/
  dropped : Bool := false
deriving DecidableEq, Repr

/-- A placement's trigger block for a Torvelink port (R402): trigger channel, placement, camera identity, the wanted
edge E and whether it starts the exposure. -/
structure HeldBlock where
  channel : Nat
  place : Nat
  ident : Nat
  at_ : Time
  rising : Bool
  /-- its DELAY was too long when its slot came; a tick releases it -/
  long : Bool := false
deriving DecidableEq, Repr

/-- What a camera port keeps beside its registers. -/
structure Port where
  /-- device lanes that take part in this attempt -/
  lanes : List Nat := []
  /-- candidate of Listen under R106 -/
  candidate : Nat := 0
  /-- standard and rate named for this attempt -/
  standard : Nat := 0
  rate : Nat := 0
  trainEntry : Time := 0
  /-- device lane order found by the order step -/
  orderDone : Bool := false
  /-- capability exchange (R137): step reached, the camera's declared fields and the agreed ones -/
  capStep : Nat := 0
  farCaps : List (Nat × Nat) := []
  agreed : List (Nat × Nat) := []
  /-- identities and counts agreed -/
  egen : Bool := false
  nextTag : Nat := 0
  requests : List CtrlRequest := []
  probeSeq : Nat := 0
  /-- SEQ of the probes sent and not yet echoed -/
  probes : List Nat := []
  held : List HeldBlock := []
  /-- departure of the last timing block (R129) -/
  lastSlot : Option Time := none
  /-- completion of exposure writes to the camera, newest first: W and generation (R228) -/
  written : List (Time × Nat) := []
  /-- the latest keep-alive: heartbeat or echo (R111) -/
  keepAlive : Time := 0
  /-- copper termination alone was seen (R105) -/
  terminated : Bool := false
deriving DecidableEq, Repr
/-! Position feedback (R370–R392). -/

/-- A stamped count edge (R380). -/
structure Edge where
  at_ : Time
  /-- the boundary position: the counter after a forward edge and before a backward one -/
  bound : Int
  back : Bool
deriving DecidableEq, Repr

/-- A sample of the tag history (R383). -/
structure EncSample where
  tick : Time
  edge : Option Edge
  count : Int
  status : Word
deriving DecidableEq, Repr

/-- What an encoder keeps beside its registers. -/
structure Encoder where
  /-- the last 64 edges, newest first -/
  hist : List Edge := []
  /-- edges stamped since reset: their number gives the snapshot its places (R394) -/
  edges : Nat := 0
  /-- edges of the last 1,024 µs, newest first, for the speed window (R381) -/
  recent : List Edge := []
  /-- the tag history, newest first, at most 8,192 (R383) -/
  tags : List EncSample := []
  /-- changes of "enabled, no line fault, not at a limit", newest first (R384) -/
  good : List (Time × Bool) := []
  /-- samples at which A and B last changed (R372) -/
  aAt : Option Time := none
  bAt : Option Time := none
  /-- the sample a SET takes effect in (R375, R392) -/
  setAt : Option Time := none
  /-- SET_ON_INDEX: its value and the sample of the command -/
  onIndex : Option (Int × Time) := none
  /-- the last index event's position and direction (R377), and whether a missing index has been counted since -/
  ref : Option (Int × Bool) := none
  missed : Bool := false
  /-- the limits in force (R374) -/
  lo : Int := -140737488355328
  hi : Int := 140737488355327
  /-- counts taken since the speed last lost its validity (R381) -/
  counts : Nat := 0
  /-- SPEED_STILL_TIMEOUT has passed since the last edge -/
  still : Bool := false
  /-- the compare list by slot (R385) -/
  list : Tab Nat := []
  /-- armed entries from HEAD already evaluated (R386) -/
  armed : Nat := 0
deriving DecidableEq, Repr

/-- What an absolute channel keeps beside its registers. -/
structure AbsChan where
  /-- a transfer under way: its request, its sample time and the paired counter at the request (R388, R390) -/
  run : Option (Time × Time × Int) := none
  /-- start placements that will ask for a transfer at their instants, in order (R389) -/
  waiting : List Time := []
  /-- the data line stays low (R388, R389) -/
  low : Bool := false
  /-- a sample has completed since the last tick (R383) -/
  done : Bool := false
  /-- the latest good word posted: sample time and position (R391) -/
  posted : Option (Time × Nat) := none
deriving DecidableEq, Repr
/-! The trigger sequencer (R395–R412). -/

/-- An exposure bank in force: steps of 15.625 ps, and counts (R405). -/
structure TrigBank where
  delay : Nat
  width : Nat
  divider : Nat
  burst : Nat
  period : Nat
deriving DecidableEq, Repr

/-- An edge a route has still to emit (R400): route 0 is TOn, 1 in-band on CoaXPress or Camera Link HS, 2 to 5 are
CC1 to CC4. -/
structure RouteEdge where
  route : Nat
  rising : Bool
  at_ : Time
  /-- before its route's earliest instant (R401), or passed by a forward step of device time (R412) -/
  late : Bool := false
deriving DecidableEq, Repr

structure Placement where
  id : Nat
  start : Time
  end_ : Time
  gen : Nat
  issue : Time
  late : Bool := false
  begun : Bool := false
  edges : List RouteEdge := []
  /-- Torvelink blocks not yet sent (R402) -/
  blocks : Nat := 0
deriving DecidableEq, Repr

/-- An entry of the placement history (R403). -/
structure PlaceHist where
  id : Nat
  start : Time
  end_ : Time
  gen : Nat
  late : Bool
  /-- an end edge was placed too (R172) -/
  ended : Bool
deriving DecidableEq, Repr

/-- How far an exposure commit has come (R406). -/
inductive TrigCommit
  | idle
  /-- COMMIT_MODE 1: waits for the stream's start of frame -/
  | sof
  /-- falls due in the tick of this number -/
  | tick (n : Nat)
  /-- its control work has run in the due tick -/
  | ready
deriving DecidableEq, Repr

structure Trig where
  /-- source pulses on their way: arrival in 2^-32 ns of device time, whether the source is B, cause time -/
  inbox : List (Nat × Bool × Time) := []
  /-- the latest unconsumed pulse of each source under COMBINE 2 (R397) -/
  keepA : Option Time := none
  keepB : Option Time := none
  /-- channel pulses to pass before the next issue (R398) -/
  skip : Nat := 0
  /-- the half and the generation that issues use until the end of the commit's tick, and that end (R406) -/
  before : Option (TrigBank × Nat × Time) := none
  commit : TrigCommit := .idle
  /-- placements whose routes have not all finished, oldest first (R399) -/
  held : List Placement := []
  nextId : Nat := 0
  /-- end of the channel's previous placement (R399) -/
  lastEnd : Option Time := none
  /-- placements issued and not yet posted -/
  unposted : List PlaceHist := []
  /-- the placement history, oldest first, at most 256 (R403) -/
  history : List PlaceHist := []
  /-- changes of the exposure generation, newest first (R226) -/
  gens : List (Time × Nat) := []
  /-- generations to write to the camera: WIDTH in steps and generation; true once its control work has run (R407) -/
  camDue : List (Nat × Nat × Bool) := []
deriving DecidableEq, Repr

structure TrigInput where
  /-- filtered levels, newest first: cause time and level, at most 64 (R397) -/
  levels : List (Time × Bool) := []
deriving DecidableEq, Repr
/-! Analogue inputs and calibration (R415–R435). -/

structure Sample where
  at_ : Time
  y : Int
deriving DecidableEq, Repr

/-- A conversion under way: its instant, range, coefficients (OFFSET, GAIN) and the count of accepted sets. -/
structure Conversion where
  at_ : Time
  range : Nat
  offset : Int
  gain : Nat
  gen : Nat
deriving DecidableEq, Repr

/-- An open sample word (R419). -/
structure SampleWord where
  t0 : Time
  range : Nat
  offset : Int
  gain : Nat
  flags : Nat
  pen : Nat
  /-- y and the instant less T0 in 1.25 ns clocks, oldest first -/
  samples : List (Int × Nat)
deriving DecidableEq, Repr

structure AiChan where
  /-- starts asked for and not yet begun, in 2^-32 ns of device time, earliest first (R416) -/
  starts : List Nat := []
  /-- the previous conversion instant -/
  last : Option Time := none
  /-- SETTLING ends (R417) -/
  settle : Option Time := none
  /-- conversions in progress, oldest first -/
  convs : List Conversion := []
  word : Option SampleWord := none
  /-- samples were missed or dropped before the next word (R419 bit 2) -/
  lost : Bool := false
  /-- count of accepted coefficient sets, and the count the last word opened with (R419 bit 3) -/
  gen : Nat := 0
  wordGen : Nat := 0
  /-- samples not yet collected (R420), oldest first -/
  fresh : List Sample := []
  /-- the tag history, newest first, at most 16,384 -/
  hist : List Sample := []
  /-- the previous sample of the threshold unit and up to 255 before it, newest first (R421) -/
  prev : Option Sample := none
  span : List Int := []
  /-- a crossing seen whose slope has not yet passed, rising and falling -/
  waitRise : Bool := false
  waitFall : Bool := false
  /-- calibration sums of this channel's run, one for each finished or current point: sum and number (R424) -/
  cal : List (Int × Nat) := []
deriving DecidableEq, Repr

/-- What a calibration block keeps beside its registers (R422–R431). -/
structure CalBlock where
  /-- due by a RUN command, so AUTO does not hold it (R423) -/
  forced : Bool := false
  /-- when the run fell due, and the deferrals since -/
  dueAt : Time := 0
  defers : Nat := 0
  /-- a rejected run falls due again at this time (R425) -/
  again : Option Time := none
  /-- the block's temperature at the start of its run -/
  startTemp : Nat := 0
  /-- measurement windows and code-density counts of each line (R426) -/
  lines : Tab (Nat × List Nat) := []
deriving DecidableEq, Repr

/-- The coefficient flash (R432): the written set slots of each copy's sector, and a write under way: copy,
generation and bytes. -/
structure CalFlash where
  copy0 : List (List Byte) := []
  copy1 : List (List Byte) := []
  write : Option (Nat × Nat × List Byte) := none
  /-- device time of the last write -/
  last : Option Time := none
  /-- the write has not begun: the module is unseated (R495) -/
  held : Bool := false
deriving DecidableEq, Repr
/-! Camera frames, records, windows (R157–R184, R251–R271). -/

/-- A frame record, and the index entry of the frame (R254–R256). -/
structure Rec where
  stream : Nat
  slot : Nat
  seq : Nat := 0
  number : Nat := 0
  context : Nat := 0
  /-- 1 open, 2 closed, 3 complete -/
  state : Nat := 1
  /-- the FLAGS field of R255 -/
  flags : Nat := 0
  fold : Nat := 255
  taps : Nat := 0
  egen : Nat := 0
  cgen : Nat := 0
  group : Nat := 0
  window : Bool := false
  region : Nat := 0
  domain : Nat := 0
  posValid : Nat := 0
  aiValid : Nat := 0
  start : Time := 0
  end_ : Time := 0
  arrival : Time := 0
  /-- the eight-byte words of ENC, ABS and AI -/
  enc : List Nat := []
  abs : List Nat := []
  ai : List Nat := []
  address : Nat := 0
  length : Nat := 0
  width : Nat := 0
  height : Nat := 0
  format : Nat := 0
  stride : Nat := 0
  stats : Nat := 0
  crcPackets : Nat := 0
  filled : Nat := 0
  surplus : Nat := 0
  resent : Nat := 0
  tagLate : Nat := 0
  gap : Nat := 0
  /-- first byte and bytes of the region the frame lies in -/
  base : Nat := 0
  size : Nat := 0
  /-- lines written to the paddock, and those of them filled wholly or in part -/
  lines : Nat := 0
  filledRows : List Nat := []
deriving DecidableEq, Repr

/-- A failed Camera Link HS packet whose resend the port waits for (R168): its line and offset. -/
structure BadPacket where
  line : Nat
  offset : Nat
deriving DecidableEq, Repr

/-- A frame in assembly (R166). -/
structure Open where
  /-- the frame's record slot; none: the paddock discards the frame -/
  slot : Option Nat := none
  height : Nat := 0
  lineLen : Nat := 0
  fill : List Byte := []
  /-- lines handed on so far: the next line to hand on -/
  next : Nat := 0
  /-- the line in assembly: its number, bytes, the intervals received, and whether its last packet has come -/
  cur : Option Nat := none
  buf : List Byte := []
  got : List (Nat × Nat) := []
  ended : Bool := false
  /-- packets in order of arrival (R165), and lines received -/
  arrived : Nat := 0
  received : Nat := 0
  /-- a shape mark due: short, long -/
  short : Bool := false
  long : Bool := false
  crc : Nat := 0
  surplus : Nat := 0
  resent : Nat := 0
  filledRows : List Nat := []
  /-- the line beyond H, and the stray line, last counted -/
  lastSurplus : Option Nat := none
  lastStray : Option Nat := none
  /-- resends waited for, the lines held meanwhile, and whether the end marker has come (R168) -/
  bad : List BadPacket := []
  heldRows : List (Nat × List Byte × List (Nat × Nat)) := []
  endSeen : Bool := false
  /-- a line is in progress, and bytes of it so far, where lines come in order of arrival -/
  inLine : Bool := false
  at_ : Nat := 0
deriving DecidableEq, Repr

/-- What a stream keeps beside its registers. -/
structure Strm where
  frame : Option Open := none
  /-- the frame under way is discarded whole; its packets are ignored -/
  drop : Bool := false
  /-- the stray line last counted while no frame was open -/
  lastStray : Option Nat := none
  /-- the next record takes the resync flag (R255) -/
  resync : Bool := true
  /-- frame number of the stream's previous record (GAP) -/
  prev : Option Nat := none
  /-- FRAME of the last FIRST packet (R169) -/
  camFrame : Option Nat := none
  /-- placements matched or dropped, of a channel (R174) -/
  used : Nat × List Nat := (0, [])
  /-- words in the filling ingress bank (R161), and the writes that wait while the paddock takes none -/
  words : Nat := 0
  waiting : List (Nat × List Byte) := []
  waitWords : Nat := 0
  /-- the ingress pen has overflowed in the frame under way (R162) -/
  overflow : Bool := false
  /-- device time at which the stream's last record completed (R261) -/
  lastDone : Time := 0
  /-- software has written EG_CTRL (R232) -/
  egWritten : Bool := false
deriving DecidableEq, Repr

/-- A member's window (R260, R261): record slots, in order of exposure start. -/
structure Win where
  pre : List Nat := []
  post : List Nat := []
  clipPre : Bool := false
  clipPost : Bool := false
  short : Bool := false
  grace : Bool := false
  closed : Bool := false
  /-- window lengths in frames, where UNIT is 1 -/
  preN : Nat := 0
  postN : Nat := 0
deriving DecidableEq, Repr

/-- What a freeze group keeps beside its registers (R258–R265). -/
structure Group where
  armedAt : Time := 0
  /-- PRE, POST and UNIT as in force at the freeze -/
  pre : Nat := 0
  post : Nat := 0
  unit : Nat := 0
  /-- the windows held in each region, by stream -/
  winA : Tab Win := []
  winB : Tab Win := []
  /-- members that have still to switch regions (R264) -/
  switch : List Nat := []
  /-- streams with PRE_SHORT since the group was armed -/
  short : List Nat := []
  /-- EV(584 + 4g) + 1 raised and PD_FG_CLIP_TALLY counted for this freeze -/
  clipEvent : Bool := false
  clipped : Bool := false
  /-- freezes applied since cold reset -/
  freezeNo : Nat := 0
  /-- rebuilt by the recovery scan -/
  rebuilt : Bool := false
deriving DecidableEq, Repr

/-- The serial channel of the parallel port (R181): bytes received and waiting to be sent, oldest first, and the byte
being sent. -/
structure Serial where
  rx : List Nat := []
  tx : List Nat := []
  shift : Option Nat := none
deriving DecidableEq, Repr
/-! Pixel folds (R185–R224, R233–R247). -/

/-- A frame on its way through a fold, from its start of frame to its trailers. -/
structure Job where
  slot : Nat
  seq : Nat
  stream : Nat
  /-- the fold and context that serve the frame -/
  fold : Nat
  ctx : Nat
  bank : Bank
  cgen : Nat
  /-- CX_CTRL.RESTART in force (R246) -/
  restart : Nat
  /-- histories that end before this frame: dark filter, line coder -/
  clearDark : Bool := false
  clearCoder : Bool := false
  /-- units made ready and waiting: first line and lines -/
  ready : List (Nat × Nat) := []
  /-- lines of the frame made ready so far; the frame's last unit is made ready -/
  readyTo : Nat := 0
  lastReady : Bool := false
  /-- processing has begun; dark state and its absence then -/
  begun : Bool := false
  nohist : Bool := false
  dark : List Nat := []
  /-- sums and numbers of dark pixels by plane, and the update done -/
  sums : List (Int × Nat) := []
  updated : Bool := false
  mapError : Bool := false
  /-- stage 3 lines so far, and energies and pixels of the focus windows -/
  lines3 : List (List Nat) := []
  focus : List (Nat × Nat) := []
  /-- line packets written on TAP_A and TAP_B -/
  linesA : Nat := 0
  linesB : Nat := 0
  /-- output lines emitted, the last two of them (newest first), and the coder's bytes -/
  out : Nat := 0
  above : List (List Nat) := []
  coded : Nat := 0
  codedRaw : Nat := 0
deriving DecidableEq, Repr

/-- What a context keeps beside its registers, by 256 × fold + context of its home (R185). -/
structure Ctx where
  jobs : List Job := []
  /-- generation of the active bank -/
  gen : Nat := 0
  /-- generations to be published, oldest first; true once their control work has run (R21) -/
  publish : List (Nat × Bool) := []
  /-- histories to end at the next frame -/
  clearDark : Bool := false
  clearCoder : Bool := false
  /-- CX_CTRL.RESTART in force -/
  restart : Nat := 0
  /-- dark filter states by plane; none: no history (R192) -/
  dark : Option (List Nat) := none
  /-- the encoder's history (R243, R244) -/
  coder : Option (Nat × Nat) := none
  /-- pixels served (R204) -/
  served : Nat := 0
  /-- pixels that arrived, newest first (R204), and since when they are counted -/
  arrivals : List (Time × Nat) := []
  since : Time := 0
  /-- the guest context that serves the stream, and a move decided (R207): none of a move is the way home -/
  guest : Option (Nat × Nat) := none
  move : Option (Option (Nat × Nat)) := none
  /-- the shadow registers software has written, by their place in FXB and, from 0x40, in FXS; whether a commit has
  given the active half its values; and whether software has written CX_CTRL since the last start of frame -/
  written : List Nat := []
  taken : Bool := false
  coderWritten : Bool := false
deriving DecidableEq, Repr

/-- A word a fold has still to push. -/
structure OutWord where
  pen : Nat
  data : List Byte
  last : Bool
deriving DecidableEq, Repr

/-- What a fold works on. -/
structure FoldRun where
  /-- the unit in progress: home context, record slot, first line, lines -/
  unit : Option (Nat × Nat × Nat × Nat) := none
  /-- its outputs have been computed -/
  computed : Bool := false
  out : List OutWord := []
  /-- the word in front has been refused by its pen (R280) -/
  refused : Bool := false
deriving DecidableEq, Repr
/-! Network paths (R439–R462). -/

/-- An address on the network: the family, and its 32-bit words, one or four. -/
structure NetAddr where
  v6 : Bool := false
  words : List Nat := []
deriving DecidableEq, Repr

/-- A frame request queued on a path (R447): the frames still to send, and who asked. -/
structure NetRequest where
  flow : Nat
  stream : Nat
  first : Nat
  count : Nat
  src : NetAddr
  port : Nat
deriving DecidableEq, Repr

/-- A frame that a flow has in progress (R445): its record's slot and SEQ, the bytes sent, and the requester. -/
structure Sending where
  slot : Nat
  seq : Nat
  number : Nat
  off : Nat := 0
  src : Option (NetAddr × Nat) := none
deriving DecidableEq, Repr

/-- A datagram of a relay flow, ready to be sent (R446). -/
structure RelayItem where
  transfer : Nat
  offset : Nat
  first : Bool
  last : Bool
  payload : List Byte
deriving DecidableEq, Repr

/-- What a flow keeps beside its registers (R444–R446, R456, R459). -/
structure Flow where
  /-- NF_CTRL as it stands for a frame or transfer in progress when a write has changed the register -/
  inForce : Option Word := none
  /-- complete records waiting in Push, by slot and SEQ, in frame order -/
  ready : List (Nat × Nat) := []
  cur : Option Sending := none
  /-- relay: datagrams ready, the one filling, bytes of the entry and of the transfer so far -/
  relay : List RelayItem := []
  part : List Byte := []
  entry : Nat := 0
  entryHead : List Byte := []
  offset : Nat := 0
  /-- a frame or transfer has been sent in part -/
  mid : Bool := false
  /-- a resync marker still to be sent: epoch, SEQ_BASE and CAUSE (R456) -/
  marker : Option (Nat × Nat × Nat) := none
  /-- when the pacing of R444 has caught up with what the flow has sent -/
  paced : Time := 0
deriving DecidableEq, Repr

/-- A flow as an epoch carries it (R453). -/
structure FlowCopy where
  seq : Nat
  paced : Time
  frame : Nat
  cur : Option Sending
deriving DecidableEq, Repr

/-- An epoch (R453). -/
structure Epoch where
  number : Nat
  time : Time
  flows : List FlowCopy
  ptp : List (PtpServo × List Nat)
  /-- the words of every neighbour entry, and the instant of its last use -/
  neighbors : List (List Word × Time)
  requests : List NetRequest
deriving DecidableEq, Repr

/-- A network path beside its registers. -/
structure Path where
  /-- PCS block lock, and RS-FEC lock where enabled, are held -/
  locked : Bool := false
  txFault : Bool := false
  /-- a module is ready for use in the cage -/
  ready : Bool := false
  healthySince : Option Time := none
  /-- the latest returned pulse of its own -/
  returned : Option Time := none
  /-- the next seizure waits the power-up listen (R452) -/
  listen : Bool := true
  /-- the retained epoch: the last installed or sent -/
  epoch : Option Epoch := none
  /-- the path has left Off or Down and has not yet met an epoch (R455) -/
  fresh : Bool := true
  requests : List NetRequest := []
  /-- transmission is paused until then (R439) -/
  paused : Time := 0
  /-- frames that wait for the transmit gate of R451 -/
  waiting : List Emit := []
deriving DecidableEq, Repr

/-- A handback under way (R457). -/
structure Handback where
  from_ : Nat
  deadline : Time
  /-- the path has stopped starting frames and has sent its final epoch -/
  stopped : Bool := false
  /-- no frame boundary came in time: the seizure is a takeover with CAUSE 1 -/
  forced : Bool := false
deriving DecidableEq, Repr

structure Network where
  paths : Tab Path := []
  flows : Tab Flow := []
  /-- the last use of a neighbour entry -/
  used : Tab Nat := []
  /-- destinations being resolved, with the index EV+12 names, and those already reported -/
  resolving : List NetAddr := []
  reported : List NetAddr := []
  /-- the epoch on the mirror link -/
  flight : Option Epoch := none
  /-- the next whole millisecond to be snapshotted -/
  nextMs : Nat := 0
  handback : Option Handback := none
  /-- the next seizure follows a handback: whether with the final epoch, or forced -/
  handed : Option Bool := none
  /-- a path has been Active since power-up -/
  everActive : Bool := false
  /-- both paths have failed since a path was last Active (R458) -/
  bothFailed : Bool := false
  /-- PTP message sequence identities of TDA and TDB: Sync, Delay_Req, Announce -/
  ptpSeq : Tab (List Nat) := []
  /-- the outputs are held by an unseating (R495) -/
  stopped : Bool := false
deriving DecidableEq, Repr
/-! Drovers (R293–R319). -/

/-- The list entry that a channel is dealing with (R296–R303). -/
structure ListEntry where
  addr : Nat
  len : Nat
  /-- bits 5:0 of its control word -/
  ctl : Nat
  /-- bytes taken from the source, or whose reads have been issued -/
  asked : Nat := 0
  /-- bytes written to the destination, or taken in order from the memory side -/
  moved : Nat := 0
  /-- KIND 0: bytes in the funnel, not yet written -/
  data : List Byte := []
  /-- KIND 1: read data that waits for its turn, by offset -/
  got : List (Nat × List Byte) := []
  /-- the status it ends with, once no further source byte is to come -/
  status : Option Nat := none
deriving DecidableEq, Repr

/-- What a drover channel keeps beside its registers. -/
structure Chan where
  /-- the next entry: its address, and whether it lies in the paddock -/
  next : Nat := 0
  nextPd : Bool := false
  curPd : Bool := false
  hops : Nat := 0
  entry : Option ListEntry := none
  /-- bytes already taken of the word at the pen's RD, and whether a packet has been taken in part -/
  woff : Nat := 0
  inPkt : Bool := false
  /-- KIND 1: the word being packed, and whether the full pen has refused it (R280) -/
  carry : List Byte := []
  refused : Bool := false
  /-- a power-down or quiesce stops the channel after its entry (R315) -/
  drain : Bool := false
deriving DecidableEq, Repr

/-- A read request in flight (R293, R310). -/
structure ReadTag where
  tag : Nat
  /-- channel of the drover -/
  ch : Nat
  /-- a list fetch, or else data at an offset of the entry -/
  list : Bool
  off : Nat
  len : Nat
  /-- 0 awaited; 1 timed out; 2 no longer wanted -/
  state : Nat := 0
deriving DecidableEq, Repr

structure Drover where
  /-- the channel served -/
  serving : Option Nat := none
  last : Nat := 255
  reads : List ReadTag := []
  nextTag : Nat := 0
  /-- host writes whose credit has not come back -/
  posted : Nat := 0
  /-- since when the channel served has been Held, and what DV_HELD_TALLY has not yet counted -/
  heldSince : Option Time := none
  heldRest : Nat := 0
deriving DecidableEq, Repr
/-! The shepherd (R463–R481). -/

/-- A firmware slot (R465): its bytes, or the firmware the part comes with. -/
structure FirmwareSlot where
  raw : List Byte := []
  shipped : Bool := false
deriving DecidableEq, Repr

/-- An entry of the measurement log (R468). -/
structure LogEntry where
  index : Nat
  time : Time
  digest : List Byte
deriving DecidableEq, Repr

/-- An entry of the health log (R476): its sequence and the tallies' words. -/
structure HealthEntry where
  seq : Nat
  words : List Word
deriving DecidableEq, Repr

/-- An SPDM request (R469). -/
inductive SpdmRequest
  | version
  | capabilities
  | algorithms
  | digests
  | certificate (slot off len : Nat)
  | challenge (slot : Nat) (nonce : List Byte)
  | measurements (op : Nat) (sign : Bool) (nonce : List Byte)
  | respondIfReady (code token : Nat)
  | other (code : Nat)
deriving DecidableEq, Repr

structure Shepherd where
  fwA : FirmwareSlot := { shipped := true }
  fwB : FirmwareSlot := {}
  /-- the measurement log, oldest first -/
  log : List LogEntry := []
  /-- the health log by position, and the position written last -/
  health : Tab (Option HealthEntry) := []
  healthNext : Nat := 0
  /-- periodic health-log writes since SH_HOURS last counted -/
  minutes : Nat := 0
  /-- MCTP endpoint ID (R470) -/
  eid : Nat := 0
  /-- a mailbox operation that waits for the shepherd or for its flash write (R478, R463) -/
  mailbox : Option Nat := none
  /-- data object exchange uploads that wait for the shepherd: OP, ARG and payload -/
  objects : List (Nat × Nat × List Byte) := []
  /-- requests answered ResponseNotReady, by transport (0 data object exchange, 1 MCTP), and the last token -/
  deferred : Tab (Option SpdmRequest) := []
  token : Nat := 0
  /-- EV898 has been raised and not yet re-armed (R501) -/
  warned : Bool := false
  /-- sensors at 115 °C or above in the last sample (R475) -/
  hot : List Nat := []
  /-- samples before each fold's step may change again (R474) -/
  hold : Tab Nat := []
  /-- samples with a fold above step 0 that SH_THROTTLE_MS has not counted yet -/
  throttled : Nat := 0
deriving DecidableEq, Repr

/-! Power, resets and plugging (R482–R503). -/

/-- A domain request (R485, R486): its code, and whether up. -/
structure DomainJob where
  domain : Nat
  up : Bool
deriving DecidableEq, Repr

structure Power where
  /-- 12 V is good; not yet so at State.reset, which COLD_RESET follows (log entry 2) -/
  v12 : Bool := false
  aux : Bool := false
  seated : Bool := false
  /-- the always-on domain has lost power since the last cold reset -/
  lost : Bool := true
  /-- reset lines held low: 0 MRST_N, 1 PERST_N -/
  lines : List Nat := []
  inReset : Bool := false
  /-- the lines were released while a trip still holds the module (R475) -/
  released : Bool := false
  tripped : Bool := false
  /-- the line released last -/
  lastLine : Nat := 0
  /-- domain requests under way, and those that wait -/
  jobs : List DomainJob := []
  queue : List DomainJob := []
  /-- cages whose rail a fault holds off (R499) -/
  railOff : List Nat := []
  /-- milestones of R491 that have been recorded -/
  reached : List Nat := []
deriving DecidableEq, Repr


/-- The state of the device. -/
structure State where
  /-- commands waiting, first in, first out -/
  pending : List Instr := []
  fab : Fabric := {}
  /-- the snapshot of a wide value's higher word, by function and offset (R7) -/
  snaps : Tab (Option Word) := []
  tb : TimeBase := {}
  bw : Bellwether := {}
  struct : Structure := {}
  /-- the active partition of the capture functions (R325) -/
  part : List Part := []
  /-- the placement of every stream in force: the STREAM entries, or the factory placement (R52, R70) -/
  streams : List StreamEntry := []
  /-- host link events whose cause fell while the link was down: source and cause (R335) -/
  hostHeld : List (Nat × Time) := []
  lanes : Tab Lane := []
  ports : Tab Port := []
  encs : Tab Encoder := []
  abs : Tab AbsChan := []
  trigs : Tab Trig := []
  inputs : Tab TrigInput := []
  ais : Tab AiChan := []
  cals : Tab CalBlock := []
  calFlash : CalFlash := {}
  /-- the frame index and its records, by record slot -/
  records : Tab (Option Rec) := []
  strms : Tab Strm := []
  /-- a record has completed since the last reset (R501) -/
  firstRecord : Bool := false
  /-- streams that pass to a new owner at their next start of frame (R326) -/
  streamMoves : List (Nat × Nat) := []
  /-- the partition of a validated commit that has still to be applied (R325) -/
  committing : Option Part := none
  /-- function-level resets not yet completed on the link, and those whose scope waits (R65, R330, R500) -/
  flrOpen : List Nat := []
  flrDue : List Nat := []
  groups : Tab Group := []
  serial : Serial := {}
  /-- word slips that software has applied to the links of the parallel port, modulo 7 (R179) -/
  slips : Tab Nat := []
  /-- the recovery scan under way follows a module reset (R266) -/
  scanFull : Bool := false
  ctxs : Tab Ctx := []
  folds : Tab FoldRun := []
  net : Network := {}
  /-- drover channels, channel k of drover d as 256 d + k -/
  chans : Tab Chan := []
  drovers : Tab Drover := []
  shep : Shepherd := {}
  power : Power := {}
  /-- the model's own: counts the free values drawn (log entry 1); no state of the device -/
  freeCounter : Nat := 0
deriving DecidableEq, Repr

/-- The state a reset leaves before anything has happened in it (R9, R349, R487, log entry 2): every register at its
Reset value, no image in force, nothing in the paddock, device time zero, and the 12 V input not yet good, as
GLB_SUPPLY_STAT reads; COLD_RESET and SHEPHERD_BOOT follow. -/
def State.reset : State := {}

end Sys2Proof.Machine
end

