-- ==== Sys2Proof/Machine/Ops.lean ====
section
/-!
DEFINITION. The named operations every family uses: registers and fields of the state, who owns and sees what, the
raising of events (R22, R334), pens on behalf of a producer, access errors (R11), and free values.
-/
namespace Sys2Proof.Machine

/-- A field in two's complement. -/
def signed (width v : Nat) : Int := if v < 2 ^ (width - 1) then (v : Int) else (v : Int) - 2 ^ width

/-- A number in two's complement of `width` bits, saturating. -/
def toSigned (width : Nat) (v : Int) : Nat :=
  let m : Int := 2 ^ (width - 1)
  let c : Int := if v < -m then -m else if v > m - 1 then m - 1 else v
  (if c < 0 then c + 2 ^ width else c).toNat

def Tab.upd {α : Type} [DecidableEq α] (d : Nat → α) (t : Tab α) (k : Nat) (g : α → α) : Tab α :=
  tset d t k (g (tget d t k))

/-- Quotient rounded up. -/
def ceilDiv (a b : Nat) : Nat := (a + b - 1) / b

namespace State

/-- Device time, in 2^-16 ns (R348). -/
def now (s : State) : Time := s.tb.dev / 65536

def inFab (s : State) (g : Fabric → Fabric) : State := { s with fab := g s.fab }

def rw (s : State) (key : Nat) : Word := s.fab.rw key
def ww (s : State) (key : Nat) (w : Word) : State := s.inFab (·.ww key w)
def rd (s : State) (f : FRef) : Nat := s.fab.rd f
def wr (s : State) (f : FRef) (v : Nat) : State := s.inFab (·.wr f v)
def tally (s : State) (f : FRef) (n : Nat := 1) : State := s.inFab (·.tally f n)
def rdWide (s : State) (key n : Nat) : Nat := s.fab.rdWide key n
def wrWide (s : State) (key n v : Nat) : State := s.inFab (·.wrWide key n v)
def rdTime (s : State) (key : Nat) : Time := s.fab.rdTime key
def wrTime (s : State) (key : Nat) (t : Time) : State := s.inFab (·.wrTime key t)
def emit (s : State) (e : Emit) : State := s.inFab (·.emit e)
def setBytes (s : State) (a : Nat) (l : List Byte) : State := s.inFab (·.setBytes a l)

/-- A field is set to 1 where `c` holds, else to 0. -/
def wrIf (s : State) (f : FRef) (c : Bool) : State := s.wr f (if c then 1 else 0)

/-- The next free value's number: a value the spec leaves open is a constant of `Config` applied to it. -/
def draw (s : State) : Nat × State := (s.freeCounter, { s with freeCounter := s.freeCounter + 1 })

/-- From quiesce to the end of resume, and from a cut activation to its rollback, the other planes stand still (R23,
R65). -/
def quiesced (s : State) : Bool :=
  s.struct.stage.held || match s.struct.rollbackDue with
    | some c => c != 0
    | none => false

/-- PRSNT2_N reads high while 12 V holds (R495): outputs idle, no flash write begins, no network frame. -/
def unseated (s : State) : Bool := s.power.v12 && !s.power.seated

/-- A milestone of the start-up is recorded when it is first reached (R491): µs of device time. -/
def milestone (s : State) (k : Nat) : State :=
  if s.power.reached.contains k then s
  else { s with power := { s.power with reached := s.power.reached ++ [k] } }.wr (GLB_START_TIME_MICROSECONDS k)
    (s.now / Time.ofUs 1)

/-! Ownership (R325, R326). -/

def partOf (s : State) (fn : Nat) : Option Part := s.part.find? fun p => p.fn == fn && p.enable

/-- The owner of a pen, 0 for the management function. -/
def owner (s : State) (p : Nat) : Nat :=
  ((s.part.find? fun q => q.enable && q.penFirst ≤ p && p < q.penFirst + q.penCount).map (·.fn)).getD 0

/-- The owner of a drover channel, counted from the first channel of DV0: channel k of DVd is 256 d + k (R53). -/
def chOwner (s : State) (c : Nat) : Nat :=
  ((s.part.find? fun q => q.enable && q.chFirst ≤ c && c < q.chFirst + q.chCount).map (·.fn)).getD 0

/-- The owner of a stream. -/
def streamOwner (s : State) (st : Nat) : Nat :=
  ((s.part.find? fun q => q.enable && q.streams.testBit st).map (·.fn)).getD 0

/-- The owner of a ring page. -/
def pageOwner (s : State) (pg : Nat) : Nat :=
  ((s.part.find? fun q => q.enable && q.pageFirst ≤ pg && pg < q.pageFirst + q.pageCount).map (·.fn)).getD 0

/-- The owner of a freeze group: what its FREEZE entry gave it (R54, R326). -/
def groupOwner (s : State) (g : Nat) : Nat :=
  match s.struct.image with
  | none => 0
  | some im => ((im.freezes.find? fun e => e.group == g).map (·.owner)).getD 0

/-- Whether a function owns a stream of port `P`; port 24 is the parallel port, whose one stream is 96. -/
def ownsPort (s : State) (fn P : Nat) : Bool :=
  if P = 24 then s.streamOwner 96 == fn
  else P < 24 && (List.range 4).any fun i => s.streamOwner (4 * P + i) == fn

/-- The camera port of a lane under the image in force. -/
def lanePort (s : State) (n : Nat) : Option Nat :=
  match s.struct.image with
  | none => none
  | some im => (im.ports.find? fun e => e.enable && e.firstLane ≤ n && n < e.firstLane + e.lanes).map (·.port)

/-- Whether a capture function sees an event source (R334, R335). Sources of pen groups and drovers are raised
only for the owner of the pen or channel, which the raiser names. -/
def sees (s : State) (fn src : Nat) : Bool :=
  if fn = 0 then true
  else if src < 224 then
    match s.lanePort (src / 4) with
    | some P => s.ownsPort fn P
    | none => false
  else if src < 320 then s.ownsPort fn ((src - 224) / 4)
  else if src < 324 then s.ownsPort fn 24
  else if src < 328 then false
  else if src < 392 then s.streams.any fun e => e.fold == (src - 328) / 8 && s.streamOwner e.stream == fn
  else if src < 520 then
    s.part.any fun q => q.enable && q.fn == fn && q.penCount > 0 && q.penFirst ≤ 512 * (src - 392) + 511
      && 512 * (src - 392) < q.penFirst + q.penCount
  else if src < 584 then
    s.part.any fun q => q.enable && q.fn == fn && q.chCount > 0 && q.chFirst ≤ 256 * ((src - 520) / 4) + 255
      && 256 * ((src - 520) / 4) < q.chFirst + q.chCount
  else if src < 648 then s.groupOwner ((src - 584) / 4) == fn
  else if src < 800 then true
  else if src < 832 then false
  else if src < 839 then true
  else if src < 850 then src == 841
  else if src < 852 then true
  else if src < 864 then false
  else if src < 868 then true
  else if src < 896 then false
  else if src < 928 then true
  else (src - 916) / 12 == fn

def seers (s : State) (src : Nat) : List Nat := (List.range 9).filter fun fn => s.sees fn src

/-- Raise an event for the functions named. -/
def raiseTo (s : State) (vis : List Nat) (src detail : Nat) (cause : Time) : State :=
  s.inFab (·.raise s.owner s.now ⟨src, cause, detail, vis⟩)

/-- Raise an event dated now for every function that sees it. -/
def raise (s : State) (src : Nat) (detail : Nat := 0) : State := s.raiseTo (s.seers src) src detail s.now

/-- Raise an event whose cause lies at another instant. -/
def raiseAt (s : State) (src detail : Nat) (cause : Time) : State := s.raiseTo (s.seers src) src detail cause

/-- Raise an event of which one capture function alone is told beside the management function. -/
def raiseFor (s : State) (fn src detail : Nat) : State :=
  s.raiseTo (if fn = 0 then [0] else [0, fn]) src detail s.now

/-- An access error (R11, R12): counted in the function's own tally, with EV851. -/
def accErr (s : State) (fn : Nat) : State := (s.tally (GLB_ACCERR_TALLY_COUNT fn)).raiseFor fn 851 0

/-- Take the indications that pens have made to the views. -/
def settle (s : State) : State := s.inFab (·.settle s.owner s.now)

/-! Pens on behalf of a producer. -/

def penPush (s : State) (p : Nat) (data : List Byte) (last : Bool) : State :=
  (s.inFab (Sys2Proof.Machine.penPush s.owner s.now p data last)).settle

/-- A packet of known length is admitted whole or not at all (R282). -/
def penAdmit (s : State) (p : Nat) (packet : List Byte) : Bool × State :=
  let r := Sys2Proof.Machine.penAdmit s.owner s.now p packet s.fab
  (r.1, { s with fab := r.2 }.settle)

/-! Substructures by number. -/

def lane (s : State) (n : Nat) : Lane := tget (fun _ => {}) s.lanes n
def setLane (s : State) (n : Nat) (l : Lane) : State := { s with lanes := tset (fun _ => {}) s.lanes n l }
def port (s : State) (P : Nat) : Port := tget (fun _ => {}) s.ports P
def setPort (s : State) (P : Nat) (l : Port) : State := { s with ports := tset (fun _ => {}) s.ports P l }

end State
end Sys2Proof.Machine
end

