-- ==== Sys2Proof/Machine/Operands.lean ====
section
/-!
DEFINITION. What a register access carries: which encodings a field takes (R11), what its access code makes of a
written word (R8, R10, R14, R15), and what a read leaves (R8, R16).
-/
namespace Sys2Proof.Machine

/-- Whether an encoding of a field's `width` bits is defined (R11). -/
def Legal.holds (l : Legal) (width v : Nat) : Bool :=
  match l with
  | .any => true
  | .range lo hi => lo ≤ v && v ≤ hi
  | .ranges rs => rs.any fun r => r.1 ≤ v && v ≤ r.2
  | .multiple m lo hi => lo ≤ v && v ≤ hi && v % m == 0
  | .divisor m lo hi => lo ≤ v && v ≤ hi && v > 0 && m % v == 0
  | .signedRange w neg pos =>
    let x := signed (min w width) v
    decide (0 ≤ x + (neg : Int)) && decide (x ≤ (pos : Int))

/-- What one field makes of a written word: the register's word so far and the access errors counted. -/
def Field.take (w : Word) (f : Field) (a : Word × Nat) : Word × Nat :=
  let v := bitsOf w f.hi f.lo
  match f.acc with
  | .rw | .rwk => if f.legal.holds (f.hi + 1 - f.lo) v then (withBits a.1 f.hi f.lo v, a.2) else (a.1, a.2 + 1)
  | .wo => if f.legal.holds (f.hi + 1 - f.lo) v then a else (a.1, a.2 + 1)
  | .w1c => (withBits a.1 f.hi f.lo (bitsOf (a.1 &&& ~~~w) f.hi f.lo), a.2)
  | .w1s => (withBits a.1 f.hi f.lo (bitsOf (a.1 ||| w) f.hi f.lo), a.2)
  | .ro | .rc | .rok => a

/-- What a register makes of a written word: reserved bits are ignored (R10). -/
def RegDef.take (r : RegDef) (old w : Word) : Word × Nat := r.fields.foldl (fun a f => f.take w a) (old, 0)

/-- The word a read returns: fields alone, WO fields zero (R8, R10). -/
def RegDef.shows (r : RegDef) (w : Word) : Word :=
  r.fields.foldl (fun a f => if f.acc == .wo then a else withBits a f.hi f.lo (bitsOf w f.hi f.lo)) 0

/-- What a read leaves of a register: RC fields cleared (R8). -/
def RegDef.afterRead (r : RegDef) (w : Word) : Word :=
  r.fields.foldl (fun a f => if f.acc == .rc then withBits a f.hi f.lo 0 else a) w

/-- The word with the fields kept over a warm reset (R8): RWK and ROK, and RO where `ro` holds; the others at `z`. -/
def RegDef.kept (r : RegDef) (ro : Bool) (w z : Word) : Word :=
  r.fields.foldl (fun a f =>
    if f.acc == .rwk || f.acc == .rok || (ro && f.acc == .ro) then withBits a f.hi f.lo (bitsOf w f.hi f.lo) else a) z

namespace State

/-- `n` access errors of one function. -/
def accErrs (fn : Nat) : Nat → State → State
  | 0, s => s
  | n + 1, s => accErrs fn n (s.accErr fn)

/-- A written word takes effect under the access codes of the register at `key` (R8, R11). -/
def putWord (fn key : Nat) (w : Word) (s : State) : State :=
  match regAt (key % fnSpan) with
  | none => s
  | some r =>
    let a := r.take (s.rw key) w
    accErrs fn a.2 (s.ww key a.1)

/-- The encodings of the register at `off` that a written word holds against R11. -/
def badFields (off : Nat) (w : Word) : Nat :=
  match regAt off with
  | none => 0
  | some r => (r.take 0 w).2

/-- Registers go back to what they hold after reset: those whose key satisfies `p`, with the values of the image
in force for those it supplies (R9). -/
def resetRegs (p : Nat → Bool) (s : State) : State :=
  let regs := s.fab.regs.filter fun e => !p e.1
  let regs := s.struct.img.foldl (fun t e => if p e.1 then tset resetWord t e.1 e.2 else t) regs
  s.inFab fun b => { b with regs := regs }

/-- Event views of a function return to their reset values, their undelivered occurrences discarded (R326, R330). -/
def viewReset (fn : Nat) (p : Nat → Bool) (s : State) : State :=
  let base := EV_CFG fn 0
  let s := resetRegs (fun k => base ≤ k && k < base + 0x4000 && p ((k - base) / 16)) s
  s.inFab fun b => { b with views := b.views.filter fun e => !(e.1 / 1024 == fn && p (e.1 % 1024)) }

/-- The views of sources that a function saw and no longer sees (R326). -/
def dropUnseen (fn : Nat) (saw : List Nat) (s : State) : State :=
  let gone := saw.filter fun src => !s.sees fn src
  if gone.isEmpty then s else viewReset fn gone.contains s

/-- The sources a function sees. -/
def seenBy (s : State) (fn : Nat) : List Nat := (List.range 1024).filter (s.sees fn)

end State
end Sys2Proof.Machine
end

