-- ==== Sys2Proof/Machine/Events.lean ====
section
/-!
DEFINITION. The event views' own commands (R336–R347) and the host link (R320–R323, R335).
-/
namespace Sys2Proof.Machine
namespace State

/-- A view that has become due delivers (R338). -/
def viewCheck (fn src : Nat) (s : State) : State :=
  if viewDue s.fab fn src then (s.inFab (deliver s.owner s.now false fn src)).settle else s

/-- HOLDOFF_US have passed since the earliest occurrence counted in UNDELIVERED (R338). -/
def viewHoldoff (fn src : Nat) (s : State) : State :=
  if s.rd (EV_CFG_ENABLE fn src) = 1 ∧ s.rd (EV_STATUS_UNDELIVERED fn src) > 0 then
    (s.inFab (deliver s.owner s.now false fn src)).settle
  else s

/-- A write of EV_CFG (R339): an enable that finds PENDING or UNDELIVERED set delivers at once. -/
def evCfg (fn src : Nat) (w : Word) (s : State) : State :=
  let was := s.rd (EV_CFG_ENABLE fn src)
  let s := putWord fn (EV_CFG fn src) w s
  if was = 0 ∧ s.rd (EV_CFG_ENABLE fn src) = 1
      ∧ (s.rd (EV_STATUS_PENDING fn src) = 1 ∨ s.rd (EV_STATUS_UNDELIVERED fn src) > 0) then
    (s.inFab (deliver s.owner s.now true fn src)).settle
  else s

/-- A write of EV_COAL (R338, R345): a count lowered to or below UNDELIVERED delivers. -/
def evCoal (fn src : Nat) (w : Word) (s : State) : State := viewCheck fn src (putWord fn (EV_COAL fn src) w s)

/-- The software sources a function may raise (R343). -/
def mayRaise (fn src : Nat) : Bool :=
  if fn = 0 then 928 ≤ src && src ≤ 1023 else 916 + 12 * fn ≤ src && src ≤ 927 + 12 * fn

/-- A write of EV_RAISE (R343). -/
def evRaise (fn src : Nat) (s : State) : State := if mayRaise fn src then s.raise src 0 else s.accErr fn

/-- A write of an MSI-X entry's mask bit (R340): one message at unmask for a pending bit. -/
def msixUnmask (fn vec : Nat) (s : State) : State :=
  let pba : FRef := ⟨MSIX_PBA fn (vec / 32), vec % 32, vec % 32⟩
  let s := s.wr (MSIX_CTRL_MASK fn vec) 0
  if s.rd pba = 1 then (s.wr pba 0).emit (.msix fn vec) else s

/-! The host link. Sources EV832 to EV838 wait for the link's return when their cause fell while it was down
(R335). -/

/-- A host link event: raised, or held while the link is down. -/
def hostEvent (src : Nat) (s : State) : State :=
  if s.rd HI_LINK_STATUS_UP = 1 then s.raise src 0 else { s with hostHeld := s.hostHeld ++ [(src, s.now)] }

/-- Rate and width as they stand (R322), and the reference of R492 for the rate. -/
def linkShape (rate width flit : Nat) (s : State) : State :=
  let s := ((s.wr HI_LINK_STATUS_RATE rate).wr HI_LINK_STATUS_WIDTH width).wr HI_LINK_STATUS_FLIT flit
  (s.wr GLB_LINK_REF_MICROSECONDS (100000 + 56000 * (rate - 2))).wrIf HI_LINK_STATUS_DEGRADED (rate < 6 || width < 16)

/-- The link enters DL_Up (R322, R335): what was held comes first, then EV832, and EV833 when it is degraded. -/
def linkUp (rate width flit : Nat) (s : State) : State :=
  if s.rd HI_LINK_STATUS_UP = 1 then s
  else
    let held := s.hostHeld
    let s := linkShape rate width flit (({ s with hostHeld := [] }.wr HI_LINK_STATUS_UP 1).milestone 4)
    let s := held.foldl (fun s e => s.raiseAt e.1 0 e.2) s
    let s := s.raise 832 0
    if s.rd HI_LINK_STATUS_DEGRADED = 1 then s.raise 833 0 else s

/-- The link's rate or width changes (R322). -/
def linkRate (rate width flit : Nat) (s : State) : State :=
  if s.rd HI_LINK_STATUS_UP = 0 ∨ (s.rd HI_LINK_STATUS_RATE = rate ∧ s.rd HI_LINK_STATUS_WIDTH = width) then s
  else (linkShape rate width flit s).raise 833 0

end State

/-- EVENT_OCCURRENCE (R337). -/
def execEventOccurrence (src detail : Nat) (s : State) : Host.Outcome State Fault Refusal := .next (s.raise src detail)

/-- EVENT_HOLDOFF_EXPIRE (R338). -/
def execEventHoldoffExpire (fn src : Nat) (s : State) : Host.Outcome State Fault Refusal :=
  .next (s.viewHoldoff fn src)

/-- EVENT_ENABLE (R339). -/
def execEventEnable (fn src : Nat) (s : State) : Host.Outcome State Fault Refusal :=
  .next (if s.sees fn src then s.evCfg fn src (s.rw (EV_CFG fn src) ||| 0x80000000) else s)

/-- EVENT_RAISE (R343). -/
def execEventRaise (fn src : Nat) (s : State) : Host.Outcome State Fault Refusal := .next (s.evRaise fn src)

/-- MSIX_UNMASK (R340). -/
def execMsixUnmask (fn vec : Nat) (s : State) : Host.Outcome State Fault Refusal := .next (s.msixUnmask fn vec)

/-- LINK_UP (R335). -/
def execLinkUp (rate width flit : Nat) (s : State) : Host.Outcome State Fault Refusal := .next (s.linkUp rate width flit)

/-- LINK_RATE_CHANGE (R322). -/
def execLinkRateChange (rate width flit : Nat) (s : State) : Host.Outcome State Fault Refusal :=
  .next (s.linkRate rate width flit)

/-- LINK_RECOVERY (R335). -/
def execLinkRecovery (s : State) : Host.Outcome State Fault Refusal :=
  .next ((s.tally HI_RECOVERY_TALLY_COUNT).hostEvent 834)

/-- PCIE_ERROR_LOGGED (R335): 0 correctable, 1 non-fatal, 2 fatal. -/
def execPcieErrorLogged (kind : Nat) (s : State) : Host.Outcome State Fault Refusal :=
  .next ((s.tally (if kind = 0 then HI_CORR_TALLY_COUNT else HI_UNCORR_TALLY_COUNT)).hostEvent (835 + kind))

end Sys2Proof.Machine
end

