-- ==== Sys2Proof/Machine/Time.lean ====
section
/-!
DEFINITION. The time base (R348–R369, R536) and the tick period (R29–R32): the two counters, device time and its
joins, the PTP servos, PPS and the reference clock. Values and increments are in units of 2^-32 ns, clocks are
those of the 800 MHz time domain.
-/
namespace Sys2Proof.Machine

/-- Nanoseconds in units of 2^-32 ns. -/
def ns32 (n : Nat) : Nat := 4294967296 * n

/-- One second. -/
def sec32 : Nat := ns32 1000000000

/-! The counters (R349). -/

/-- What the counter adds on the next clock. -/
def Counter.inc (c : Counter) : Nat :=
  (if c.adjLeft > 0 then c.adj else c.base) / (if c.halveLeft > 0 then 2 else 1)

/-- `n` clocks of one increment. -/
def Counter.run (c : Counter) (n : Nat) : Counter :=
  { c with val := c.val + n * c.inc, adjLeft := c.adjLeft - n, halveLeft := c.halveLeft - n }

def TimeBase.counter (t : TimeBase) (d : Nat) : Counter := if d = 0 then t.tda else t.tdb

def TimeBase.setCounter (t : TimeBase) (d : Nat) (c : Counter) : TimeBase :=
  if d = 0 then { t with tda := c } else { t with tdb := c }

/-- What device time adds on the next clock (R353–R355, R368). -/
def TimeBase.devInc (t : TimeBase) : Nat :=
  match t.join with
  | .follow | .wait => (t.counter t.active).inc
  | .catchUp => (t.counter t.target).inc / 2
  | .waitRunning => (t.counter t.runOn).inc

/-- Clocks a catch-up still takes at the increments in force (R355). -/
def TimeBase.catchClocks (t : TimeBase) : Nat :=
  let c := t.counter t.target
  ceilDiv (t.dev - c.val) (c.inc - c.inc / 2)

/-- The smaller of two spans, where 0 stands for no bound. -/
def minSpan (a b : Nat) : Nat := if a = 0 then b else if b = 0 then a else min a b

/-- Clocks for which every increment stays what it is; 0: without bound. -/
def TimeBase.span (t : TimeBase) : Nat :=
  minSpan (minSpan (minSpan t.tda.adjLeft t.tda.halveLeft) (minSpan t.tdb.adjLeft t.tdb.halveLeft))
    (if t.join = .catchUp then t.catchClocks else 0)

/-- `n` clocks within one span. A catch-up that has reached its counter follows it from then on. -/
def TimeBase.run (t : TimeBase) (n : Nat) : TimeBase :=
  let u := { t with tda := t.tda.run n, tdb := t.tdb.run n, dev := t.dev + n * t.devInc }
  if u.join = .catchUp ∧ u.dev ≤ (u.counter u.target).val then
    { u with dev := (u.counter u.target).val, join := .follow, active := u.target }
  else u

namespace State

/-- The status bits that show what the counters and the join are doing (R351, R352, R354, R355). -/
def syncTime (s : State) : State :=
  let t := s.tb
  let s := (s.wrIf (TD_STATUS_ADJ_BUSY 0) (t.tda.adjLeft > 0)).wrIf (TD_STATUS_CATCHUP 0) (t.tda.halveLeft > 0)
  let s := (s.wrIf (TD_STATUS_ADJ_BUSY 1) (t.tdb.adjLeft > 0)).wrIf (TD_STATUS_CATCHUP 1) (t.tdb.halveLeft > 0)
  ((s.wrIf TB_STATUS_JOINING (t.join = .catchUp)).wrIf TB_STATUS_JOIN_WAIT
    (t.join = .wait || t.join = .waitRunning)).wr TB_STATUS_ACTIVE t.active

/-- A join has completed: counted, and EV648 raised (R355, R367, R369). -/
def joined (s : State) : State := (s.syncTime.tally TB_JOIN_TALLY_COUNT).raise 648 s.tb.target

/-- `n` clocks within one span. -/
def runSpan (s : State) (n : Nat) : State :=
  let u := { s with tb := s.tb.run n }
  if s.tb.join = .catchUp ∧ u.tb.join = .follow then u.joined else u.syncTime

/-- `n` clocks of the time domain; at most five spans can end on the way, one for each adjustment, halving and
catch-up. -/
def advanceIn : Nat → Nat → State → State
  | 0, n, s => s.runSpan n
  | k + 1, n, s =>
    let sp := s.tb.span
    if sp = 0 ∨ n ≤ sp then s.runSpan n else advanceIn k (n - sp) (s.runSpan sp)

def advance (s : State) (n : Nat) : State := advanceIn 6 n s

/-- Clocks until device time is at or past `t`, within one span. -/
def clocksTo (s : State) (t : Nat) : Nat := ceilDiv (t - s.tb.dev) s.tb.devInc

/-- Run the clock until device time is at or past `t`. -/
def runToIn : Nat → Nat → State → State
  | 0, t, s => s.runSpan (s.clocksTo t)
  | k + 1, t, s =>
    if t ≤ s.tb.dev then s
    else
      let sp := s.tb.span
      if sp = 0 ∨ s.clocksTo t ≤ sp then s.runSpan (s.clocksTo t) else runToIn k t (s.runSpan sp)

def runTo (s : State) (t : Nat) : State := runToIn 6 t s

/-! The tick period (R29–R32). -/

/-- Tick boundaries after `old` and strictly before `new` (R32). -/
def passedTicks (period old new : Nat) : Nat := (new - 1) / ns32 period - old / ns32 period

/-- The first boundary at or after an instant. -/
def boundaryFrom (period t : Nat) : Nat := ns32 period * ceilDiv t (ns32 period)

/-- A slot whose time a forward step has passed (R364). -/
def markStepped (old new : Nat) (e : Nat × Slot) (time : Nat) : Nat × Slot :=
  if e.2.armed ∧ old < time ∧ time < new then (e.1, { e.2 with stepped := true }) else e

/-- A route's edge whose instant a forward step has passed is late (R412). -/
def markEdge (old new : Nat) (e : RouteEdge) : RouteEdge :=
  if old < 65536 * e.at_ ∧ 65536 * e.at_ < new then { e with late := true } else e

def markPlacement (old new : Nat) (p : Placement) : Placement := { p with edges := p.edges.map (markEdge old new) }

def markTrig (old new : Nat) (e : Nat × Trig) : Nat × Trig :=
  (e.1, { e.2 with held := e.2.held.map (markPlacement old new) })

/-- The whole second at or after an instant. -/
def secondFrom (t : Nat) : Nat := sec32 * ceilDiv t sec32

/-- The capacity of one tick, in units (R35). -/
def bwCapacity (period : Nat) : Nat := period * 4 / 5 - 40

/-- The pending period in force from now on, its registers with it (R31, R35). -/
def bwTake (p : Nat) (s : State) : State :=
  let s := { s with bw := { s.bw with period := p, pendingPeriod := none } }
  (s.wr GLB_BW_CTRL_PENDING 0).wr GLB_BW_CAPACITY_UNITS (bwCapacity p)

/-- The pending period where a forward step reaches or passes the whole second at which it takes effect (R31, R32). -/
def steppedPeriod (s : State) (old : Nat) : Option Nat :=
  match s.bw.pendingPeriod with
  | none => none
  | some p => if secondFrom (old + 1) ≤ s.tb.dev then some p else none

/-- Tick boundaries that a forward step passes (R32): those of the period in force, and from the whole second at which
a pending period takes effect those of that period (R31). -/
def steppedTicks (s : State) (old : Nat) : Nat :=
  match s.steppedPeriod old with
  | none => passedTicks s.bw.period old s.tb.dev
  | some p =>
    passedTicks s.bw.period old (secondFrom (old + 1)) + passedTicks p (secondFrom (old + 1) - 1) s.tb.dev

/-- Slots and edges whose time a forward step passed are marked (R364, R412). -/
def steppedMarks (old : Nat) (s : State) : State :=
  let new := s.tb.dev
  { s with
    trigs := s.trigs.map (markTrig old new)
    tb := { s.tb with slots := s.tb.slots.map fun e => markStepped old new e (65536 * s.rdTime (TC_TIME e.1)) } }

/-- The ticks start afresh after a forward step: the next boundary is the first after the new time. -/
def steppedNext (s : State) : State := { s with bw := { s.bw with next := boundaryFrom s.bw.period s.tb.dev } }

/-- A period whose whole second a forward step passed is in force after it (R31). -/
def steppedTake (old : Nat) (s : State) : State :=
  match s.steppedPeriod old with
  | none => s
  | some p => (s.bwTake p).steppedNext

/-- Device time moves forward from `old` in one step (R32, R364, R412): the passed boundaries are counted and not
run, and slots and edges whose time was passed are marked. -/
def forwardStep (s : State) (old : Nat) : State :=
  let u := (s.steppedMarks old).steppedTake old
  if s.steppedTicks old = 0 then u
  else (u.steppedNext.tally GLB_BW_SKIP_TALLY_COUNT (s.steppedTicks old)).raise 657 0

/-- A write of GLB_BW_CTRL.PERIOD_NS (R29, R31). -/
def bwPeriod (fn v : Nat) (s : State) : State :=
  if v < 100 ∨ v > 1000000 ∨ 1000000000 % v ≠ 0 then s.accErr fn
  else if v = s.bw.period then
    ({ s with bw := { s.bw with pendingPeriod := none } }.wr GLB_BW_CTRL_PERIOD_NS v).wr GLB_BW_CTRL_PENDING 0
  else
    ({ s with bw := { s.bw with pendingPeriod := some v } }.wr GLB_BW_CTRL_PERIOD_NS v).wr GLB_BW_CTRL_PENDING 1

/-- At the next whole second the pending period takes effect (R31, R35). A boundary not yet run stays due. -/
def bwApply (s : State) : State :=
  match s.bw.pendingPeriod with
  | none => s
  | some p =>
    let at_ := secondFrom s.tb.dev
    let s := s.runTo at_
    let next := if s.bw.next ≤ at_ then s.bw.next else at_ + ns32 p
    { s.bwTake p with bw := { (s.bwTake p).bw with next := next } }

/-! Joins (R353–R355, R368). -/

/-- The new counter's value less device time. -/
def joinGap (s : State) (d : Nat) : Int := ((s.tb.counter d).val : Int) - (s.tb.dev : Int)

/-- Whole nanoseconds of a difference in 2^-32 ns, toward zero. -/
def gapNs (g : Int) : Nat := g.natAbs / 4294967296

/-- Picoseconds of a difference in 2^-32 ns, toward zero. -/
def gapPs (g : Int) : Int :=
  let m : Int := (1000 * g.natAbs / 4294967296 : Nat)
  if g < 0 then -m else m

/-- Device time takes the new counter's value (R354). -/
def joinStep (d : Nat) (s : State) : State :=
  let old := s.tb.dev
  let s := { s with tb := { s.tb with dev := (s.tb.counter d).val, join := .follow, active := d, target := d } }
  s.joined.forwardStep old

/-- The join waits (R354, R355): on the old counter while device time still follows it, else at the increment
device time runs on with (R368). -/
def joinWait (d : Nat) (g : Int) (s : State) : State :=
  let t := s.tb
  let tb := match t.join with
    | .follow | .wait => { t with join := .wait, target := d }
    | .catchUp => { t with join := .waitRunning, runOn := t.target, target := d }
    | .waitRunning => { t with target := d }
  let s := { s with tb := tb }.syncTime
  s.raise 649 (min (gapNs g) 0xFFFFFFFF)

/-- The catch-up begins or goes on (R355). -/
def joinCatch (d : Nat) (s : State) : State :=
  { s with tb := { s.tb with join := .catchUp, target := d } }.syncTime

/-- What a gap leads to (R354, R355). -/
def joinJudge (d : Nat) (s : State) : State :=
  let g := s.joinGap d
  if 0 ≤ g then
    if gapLe g (s.rd TB_JOIN_LIMIT_VALUE) then joinStep d s else joinWait d g s
  else if gapLe g (s.rd TB_JOIN_BACK_LIMIT_VALUE) then joinCatch d s
  else joinWait d g s
where
  /-- the gap's size is within a limit in ns -/
  gapLe (g : Int) (limit : Nat) : Bool := g.natAbs ≤ ns32 limit

/-- A join towards counter `d` begins, from device time as it stands at the next clock (R353). -/
def joinBegin (d : Nat) (s : State) : State :=
  let s := s.advance 1
  let g := s.joinGap d
  let s := s.wr TB_JOIN_GAP_VALUE (toSigned 32 (gapPs g))
  let s := { s with tb := { s.tb with domains := (s.tb.dev, d) :: s.tb.domains } }
  let s := s.raise 648 d
  joinJudge d s

/-- A write of TB_CTRL.SEL (R353): a change starts a join. -/
def joinStart (d : Nat) (s : State) : State :=
  if s.rd TB_CTRL_SEL = d then s else joinBegin d (s.wr TB_CTRL_SEL d)

/-- Run a catch-up to its end: the increments in force change at most four times on the way, at the ends of
adjustments and halvings. -/
def joinRun : Nat → State → State
  | 0, s => s
  | n + 1, s => if s.tb.join = .catchUp then joinRun n (s.advance s.tb.catchClocks) else s

def isWaiting (s : State) : Bool := s.tb.join = .wait || s.tb.join = .waitRunning

/-- TB_CTRL.JOIN_FORCE takes a waiting join (R354, R355). -/
def joinForce (s : State) : State :=
  if s.isWaiting then
    let s := s.advance 1
    if 0 ≤ s.joinGap s.tb.target then joinStep s.tb.target s else joinCatch s.tb.target s
  else s

/-- TB_CTRL.JOIN_CANCEL (R354, R368): SEL returns to the old counter, and where device time has left it a join
towards it starts. -/
def joinCancel (s : State) : State :=
  if s.tb.join = .wait then
    let s := s.wr TB_CTRL_SEL s.tb.active
    { s with tb := { s.tb with join := .follow, target := s.tb.active,
                               domains := (s.tb.dev, s.tb.active) :: s.tb.domains } }.syncTime
  else if s.tb.join = .waitRunning then
    let old := 1 - s.tb.target
    joinBegin old (s.wr TB_CTRL_SEL old)
  else s

/-- The counter a frame exposed at an instant carries in its record's DOMAIN (R353). -/
def domainAt (s : State) (t : Time) : Nat :=
  ((s.tb.domains.find? fun e => e.1 / 65536 ≤ t).map (·.2)).getD 0

/-! Sets and corrections (R352). -/

/-- Update a counter. -/
def updCounter (s : State) (d : Nat) (g : Counter → Counter) : State :=
  { s with tb := s.tb.setCounter d (g (s.tb.counter d)) }

/-- The counter's step event (R367). -/
def stepEvent (d detail : Nat) (s : State) : State := s.raise (652 + d) detail

/-- Whether two numbers name one counter: 0 is TDA. -/
def sameCounter (a b : Nat) : Bool := (a == 0) == (b == 0)

/-- After the value of counter `d` has been set: device time steps with the counter it follows, and a join towards
the counter goes on against the set value (R352, R368). -/
def afterSet (d : Nat) (s : State) : State :=
  match s.tb.join with
  | .follow | .wait =>
    if sameCounter s.tb.active d then
      let old := s.tb.dev
      { s with tb := { s.tb with dev := (s.tb.counter d).val } }.forwardStep old
    else if s.tb.join = .wait ∧ 0 ≤ s.joinGap d ∧ (s.joinGap d).natAbs ≤ ns32 (s.rd TB_JOIN_LIMIT_VALUE) then
      joinStep d s
    else s
  | .catchUp => if sameCounter s.tb.target d then joinJudge d s else s
  | .waitRunning =>
    if sameCounter s.tb.target d ∧ 0 ≤ s.joinGap d ∧ (s.joinGap d).natAbs ≤ ns32 (s.rd TB_JOIN_LIMIT_VALUE) then joinStep d s
    else s

/-- A set applies to counter `d`, or is refused because it lies below the counter (R352). -/
def applySet (d v : Nat) (s : State) : State :=
  if v < (s.tb.counter d).val then stepEvent d 0 (s.wr (TD_STATUS_SET_REFUSED d) 1)
  else
    let s := s.updCounter d fun c => { c with val := v }
    afterSet d (stepEvent d 1 (s.tally (TD_STEP_TALLY_COUNT d)))

/-- TD_CMD.SET (R352): the set value counts at the next clock, and a pending SET_ON_PPS is cancelled. -/
def timeSet (d : Nat) (s : State) : State :=
  let v := 65536 * s.rdTime (TD_SET d)
  let s := (s.updCounter d fun c => { c with setOnPps := none }).advance 1
  applySet d v s

/-- TD_CMD.SET_ON_PPS (R352). -/
def setOnPps (d : Nat) (s : State) : State :=
  let sec := Time.sec (s.rdTime (TD_SET d))
  s.updCounter d fun c => { c with setOnPps := some sec }

/-- An offset is removed by halving (R352): ceil(2 × offset ÷ BASE) clocks. -/
def halve (d offset : Nat) (s : State) : State :=
  let s := (s.updCounter d fun c => { c with halveLeft := ceilDiv (2 * offset) c.base }).syncTime
  stepEvent d 1 (s.tally (TD_STEP_TALLY_COUNT d))

/-! The increment (R350, R351). -/

/-- The grandmaster loop runs (R360). -/
def gmRuns (s : State) : Bool :=
  s.rd TB_CTRL_GM_EN == 1 && s.rd TB_CTRL_REF_SEL == 1 && s.rd (TD_PTP_CFG_ROLE 0) == 2

/-- The servo owns the increment (R350): Stepped, Locked, Holdover, or the grandmaster loop on TDA. -/
def servoOwns (s : State) (d : Nat) : Bool :=
  let st := s.rd (TD_STATUS_STATE d)
  st == 2 || st == 3 || st == 4 || (d == 0 && s.gmRuns)

/-- A write of TD_INC_INT (R350): 1.2375 to 1.2625 ns, or R11 with both registers at their previous values. -/
def incCommit (fn d int : Nat) (s : State) : State :=
  if s.servoOwns d then s.wr (TD_STATUS_INC_REFUSED d) 1
  else
    let v := 4294967296 * (int % 256) + (s.rw (TD_INC_FRAC d)).toNat
    if 99 * 4294967296 ≤ 80 * v ∧ 80 * v ≤ 101 * 4294967296 then
      (s.wr (TD_INC_INT_INT d) int).updCounter d fun c => { c with base := v }
    else
      let b := (s.tb.counter d).base
      (s.ww (TD_INC_FRAC d) (BitVec.ofNat 32 b)).accErr fn

/-- A write of TD_ADJ_TICKS (R351): 0.6 to 1.9 ns for a start; 0 cancels. -/
def adjustStart (fn d ticks : Nat) (s : State) : State :=
  if s.servoOwns d then s.wr (TD_STATUS_INC_REFUSED d) 1
  else if ticks = 0 then (s.updCounter d fun c => { c with adjLeft := 0 }).syncTime
  else
    let v := 4294967296 * s.rd (TD_ADJ_INT_INT d) + (s.rw (TD_ADJ_FRAC d)).toNat
    if 3 * 4294967296 ≤ 5 * v ∧ 10 * v ≤ 19 * 4294967296 then
      (s.updCounter d fun c => { c with adj := v, adjLeft := ticks }).syncTime
    else s.accErr fn

/-! The servos (R356–R359). -/

/-- The servo changes state, with its event (R357, R367). -/
def servoState (d st : Nat) (s : State) : State :=
  if s.rd (TD_STATUS_STATE d) = st then s
  else
    let was := s.rd (TD_STATUS_STATE d)
    let s := (s.wr (TD_STATUS_STATE d) st).raise (650 + d) st
    if was = 5 ∨ st = 5 then s.raise 655 d else s

def updServo (s : State) (d : Nat) (g : PtpServo → PtpServo) : State :=
  s.updCounter d fun c => { c with servo := g c.servo }

def servo (s : State) (d : Nat) : PtpServo := (s.tb.counter d).servo

/-- The servo loses its history (R357): Await where a master is selected, else Free. -/
def loseHistory (d : Nat) (s : State) : State :=
  let s := s.updServo d fun v => { v with history := none, stepped := 0 }
  let st := s.rd (TD_STATUS_STATE d)
  if st = 2 ∨ st = 3 ∨ st = 4 then servoState d (if (s.servo d).master.isSome then 1 else 0) s else s

/-- TD_PTP_CFG has changed its ROLE or its domain (R357): history and master are lost. -/
def ptpCfgChanged (d : Nat) (s : State) : State :=
  servoState d 0 (s.updServo d fun v => { v with history := none, stepped := 0, master := none, delay := none })

/-- Data sets compare in order, the smaller the better (default BMCA; log entry 14). -/
def betterThan : List Nat → List Nat → Bool
  | a :: r, b :: t => a < b || (a == b && betterThan r t)
  | _, _ => false

/-- The announced clockClass of an instance (R360): a slave-only instance holds 255. -/
def clockClass (s : State) (d : Nat) : Nat :=
  if s.rd (TD_PTP_CFG_ROLE d) = 1 then 255
  else if d = 0 ∧ s.gmRuns then
    if s.rd TB_STATUS_REF_LOCK = 1 ∧ s.rd TB_STATUS_PPS_LOCK = 1 then 6
    else match s.tb.lockLost with
      | some t => if s.now ≤ t + Time.ofMs (1000 * s.rd (TD_SERVO_HOLDOVER_S 0)) then 7 else 248
      | none => 248
  else 248

/-- The instance's own data set, in the order of the default BMCA (log entry 14). -/
def ownDataset (s : State) (d : Nat) : List Nat :=
  [s.rd (TD_PTP_PRIO_PRIORITY1 d), s.clockClass d, 0xFE, 0xFFFF, s.rd (TD_PTP_PRIO_PRIORITY2 d), s.rdWide NP_MAC 2]

/-- Place of the grandmaster identity in a data set. -/
def gmOf (l : List Nat) : Nat := l.getD 5 0

/-- A received Announce (R356, R357): the best data set heard is the master; a new grandmaster identity loses the
history; a master-capable instance that is itself better is master. -/
def ptpAnnounce (d domain transport : Nat) (data : List Nat) (s : State) : State :=
  let role := s.rd (TD_PTP_CFG_ROLE d)
  let tr := s.rd (TD_PTP_CFG_TRANSPORT d)
  let fresh := (s.servo d).master.isNone
  let auto := s.rd (TD_PTP_CFG_DOMAIN_AUTO d) = 1 ∧ fresh
  if role = 0 ∨ (tr ≠ 3 ∧ tr ≠ transport) ∨ (¬ auto ∧ domain ≠ s.rd (TD_PTP_CFG_DOMAIN d)) then s
  else
    let s := if auto then s.wr (TD_PTP_CFG_DOMAIN d) domain else s
    if role = 2 ∧ betterThan (s.ownDataset d) data then
      if fresh then servoState d 5 s else s
    else
      match (s.servo d).master with
      | none => servoState d 1 (s.updServo d fun v => { v with master := some data })
      | some m =>
        if gmOf m = gmOf data then s.updServo d fun v => { v with master := some data }
        else if betterThan data m then
          let s := s.updServo d fun v => { v with master := some data, delay := none }
          servoState d 1 (loseHistory d s)
        else s

/-- A completed delay exchange gives the mean path delay, in 2^-16 ns (R358, R359). -/
def ptpDelay (d delay : Nat) (s : State) : State :=
  if s.rd (TD_PTP_CFG_ROLE d) = 0 ∨ (s.servo d).master.isNone then s
  else
    (s.updServo d fun v => { v with delay := some delay }).wr (TD_PATH_DELAY_PICOSECONDS d)
      (min (1000 * delay / 65536) 0x7FFFFFFF)

/-- Clocks of one sync interval, 2^LOG_SYNC s (R356, R358). -/
def syncClocks (s : State) (d : Nat) : Nat :=
  let l := signed 4 (s.rd (TD_PTP_CFG_LOG_SYNC d))
  if 0 ≤ l then 800000000 * 2 ^ l.toNat else 800000000 / 2 ^ l.natAbs

/-- The adjustment that removes an offset over `n` clocks. -/
def adjFor (base n : Nat) (o : Int) : Nat := ((base : Int) - o / n).toNat

/-- A Sync of the selected master, its time with the corrections added, in 2^-16 ns (R358). The offset is the
local time less the master's time plus delay. -/
def ptpSync (d master gm : Nat) (s : State) : State :=
  let v := s.servo d
  match v.master, v.delay with
  | some m, some delay =>
    if s.rd (TD_PTP_CFG_ROLE d) = 0 ∨ gmOf m ≠ gm then s
    else
      let c := s.tb.counter d
      let mt := 65536 * (master + delay)
      let o : Int := (c.val : Int) - (mt : Int)
      let st := s.rd (TD_STATUS_STATE d)
      let s := (s.tally (TD_SYNC_TALLY_COUNT d)).wr (TD_OFFSET_PICOSECONDS d) (toSigned 32 (gapPs o))
      if st = 1 then
        -- the first sync
        let s := s.updServo d fun v => { v with history := some (mt, c.val), stepped := -o }
        let s := if o < 0 then applySet d mt s else if o > 0 then halve d o.toNat s else s
        servoState d 2 s
      else if st = 2 then
        -- the second sync: slewing begins
        match v.history with
        | none => s
        | some (m1, l1) =>
          let dl := ((c.val : Int) - l1 - v.stepped).toNat
          let base := if dl = 0 then c.base else c.base * (mt - m1) / dl
          let n := s.syncClocks d
          let s := s.updCounter d fun c => { c with base := base, adj := adjFor base n o, adjLeft := n }
          servoState d 3 (s.updServo d fun v => { v with history := some (mt, c.val), stepped := 0 }).syncTime
      else if st = 3 ∨ st = 4 then
        if o.natAbs > ns32 (1000 * s.rd (TD_SERVO_STEP_LIMIT_US d)) then
          loseHistory d (s.tally (TD_STEP_TALLY_COUNT d))
        else
          -- the loop's result is not stated (log entry 15)
          let k := s.draw
          let base := Config.servoIncrement k.1 c.base o
          let s := k.2.updCounter d fun c => { c with base := base }
          servoState d 3 (s.updServo d fun v => { v with history := some (mt, c.val) })
      else s
  | _, _ => s

/-- No valid Sync within the announce receipt timeout (R357). A master-capable instance that has heard no master is
master itself (log entry 14). -/
def announceTimeout (d : Nat) (s : State) : State :=
  let st := s.rd (TD_STATUS_STATE d)
  if st = 3 then servoState d 4 (s.tally (TD_TIMEOUT_TALLY_COUNT d))
  else if s.rd (TD_PTP_CFG_ROLE d) = 2 ∧ st = 0 ∧ (s.servo d).master.isNone then servoState d 5 s
  else s

/-- Holdover has lasted HOLDOVER_S (R357): Free, without history and without a master. -/
def holdoverExpire (d : Nat) (s : State) : State :=
  if s.rd (TD_STATUS_STATE d) = 4 then
    servoState d 0 (s.updServo d fun v => { v with history := none, stepped := 0, master := none })
  else s

/-! PPS and the reference clock (R360, R361). -/

/-- REF_LOCK and PPS_LOCK take new values; EV654 on a change (R360, R367). -/
def setLocks (ref pps : Bool) (s : State) : State :=
  let was := (s.rd TB_STATUS_REF_LOCK, s.rd TB_STATUS_PPS_LOCK)
  let s := (s.wrIf TB_STATUS_REF_LOCK ref).wrIf TB_STATUS_PPS_LOCK pps
  let is := (s.rd TB_STATUS_REF_LOCK, s.rd TB_STATUS_PPS_LOCK)
  if was = is then s
  else
    let lost := is.1 < was.1 ∨ is.2 < was.2
    let s := if lost then { s with tb := { s.tb with lockLost := some s.now } } else s
    s.raise 654 (2 * is.2 + is.1)

def refLocked (s : State) : Bool := s.rd TB_STATUS_REF_LOCK == 1
def ppsLocked (s : State) : Bool := s.rd TB_STATUS_PPS_LOCK == 1

/-- A value's place within its second, wrapped to ±500 ms. -/
def phaseOf (val : Nat) : Int :=
  let m := val % sec32
  if m < sec32 / 2 then (m : Int) else (m : Int) - (sec32 : Int)

/-- A pending SET_ON_PPS applies (R352). -/
def applyOnPps (d : Nat) (s : State) : State :=
  match (s.tb.counter d).setOnPps with
  | none => s
  | some sec => applySet d (sec32 * sec) (s.updCounter d fun c => { c with setOnPps := none })

/-- A PPS_IN rising edge (R352, R360). -/
def ppsEdge (s : State) : State :=
  let s := s.wrTime TB_PPS_IN s.now
  let s := applyOnPps 1 (applyOnPps 0 s)
  if s.gmRuns then
    let e := phaseOf s.tb.tda.val
    let good := if e.natAbs < ns32 10 then s.tb.ppsGood + 1 else 0
    let s := { s with tb := { s.tb with ppsGood := good } }
    let s := if e.natAbs > ns32 1000000 then s
      else (s.updCounter 0 fun c => { c with adj := adjFor c.base 800000000 e, adjLeft := 800000000 }).syncTime
    s.setLocks s.refLocked (if e.natAbs ≥ ns32 100 then false else s.ppsLocked || good ≥ 4)
  else s

/-- A change of TB_CTRL.REF_SEL (R361). -/
def refSel (v : Nat) (s : State) : State :=
  if s.rd TB_CTRL_REF_SEL = v then s else (s.wr TB_CTRL_REF_SEL v).setLocks false s.ppsLocked

/-! Slots (R362–R364, R536). -/

def slot (s : State) (k : Nat) : Slot := tget (fun _ => {}) s.tb.slots k

def setSlot (s : State) (k : Nat) (x : Slot) : State :=
  { s with tb := { s.tb with slots := tset (fun _ => {}) s.tb.slots k x } }

/-- The slot time in force, in 2^-32 ns. -/
def slotTime (s : State) (k : Nat) : Nat := 65536 * s.rdTime (TC_TIME k)

/-- The period of a slot, in 2^-32 ns; 0 for a one-shot slot. -/
def slotPeriod (s : State) (k : Nat) : Nat :=
  let ns := (s.rw (TC_PERIOD_NS k)).toNat
  if ns = 0 then 0 else 65536 * (65536 * ns + s.rd (TC_PERIOD_FRAC_FRAC k))

/-- TC_CTRL.ARM (R364, R536). -/
def slotArm (k : Nat) (s : State) : State :=
  if (s.slot k).armed then s
  else
    let late := s.slotTime k ≤ s.tb.dev + ns32 5 / 2
    let s := s.setSlot k { armed := true, armedAt := s.tb.dev, late := late, stepped := false }
    let s := s.wr (TC_CTRL_ARMED k) 1
    if late then s.wr (TC_STATUS_LATE k) 1 else s

/-- TC_CTRL.DISARM (R536). -/
def slotDisarm (k : Nat) (s : State) : State := (s.setSlot k {}).wr (TC_CTRL_ARMED k) 0

/-- The clock at which an armed slot fires (R362, R364): the first at or past its time, and one after the ARM write. -/
def slotRun (k : Nat) (s : State) : State :=
  let s := if s.tb.dev ≤ (s.slot k).armedAt then s.advance 1 else s
  s.runTo (s.slotTime k)

/-- An armed slot fires (R362–R364, R366, R367); the answer holds the slot time and the residual for the
consumers. A periodic slot whose time and later times were passed fires once, with the latest. -/
def slotFire (k : Nat) (s : State) : State × Nat × Nat :=
  let x := s.slot k
  let t := s.slotTime k
  let p := s.slotPeriod k
  let count := s.rd (TC_COUNT_COUNT k)
  let behind := if p = 0 then 0 else (s.tb.dev - t) / p
  let skip := if count = 0 then behind else min behind (count - 1)
  let t := t + skip * p
  let r := s.tb.dev - t
  let s := s.wr (TC_STATUS_FIRED k) 1
  let s := if x.stepped then s.wr (TC_STATUS_STEPPED k) 1 else s
  let s := s.tally (TC_STATUS_SKIPPED k) skip
  let left := count - (skip + 1)
  let s := if count = 0 then s else s.wr (TC_COUNT_COUNT k) left
  let s := if p = 0 ∨ (count ≠ 0 ∧ left = 0) then slotDisarm k s
    else (s.wrTime (TC_TIME k) ((t + p) / 65536)).setSlot k { x with late := false, stepped := false }
  let s := { s with tb := { s.tb with fired := s.tb.fired + 1 } }
  let s := if s.rd (TC_CTRL_EVENT k) = 1 then s.raise (664 + k / 4) k else s
  (s, t, r)

end State

/-! The commands. -/

open Host.Outcome

/-- BW_PERIOD_WRITE (R31). -/
def execBwPeriodWrite (v : Nat) (s : State) : Host.Outcome State Fault Refusal := .next (s.bwPeriod 0 v)

/-- BW_PERIOD_APPLY (R31). -/
def execBwPeriodApply (s : State) : Host.Outcome State Fault Refusal := .next s.bwApply

/-- INC_COMMIT (R350). -/
def execIncCommit (d int : Nat) (s : State) : Host.Outcome State Fault Refusal := .next (s.incCommit 0 d int)

/-- ADJUST_START (R351). -/
def execAdjustStart (d ticks : Nat) (s : State) : Host.Outcome State Fault Refusal := .next (s.adjustStart 0 d ticks)

/-- ADJUST_END (R351): the clock runs until the adjustment's tick count has run out. -/
def execAdjustEnd (d : Nat) (s : State) : Host.Outcome State Fault Refusal :=
  .next (s.advance (s.tb.counter d).adjLeft)

/-- TIME_SET (R352). -/
def execTimeSet (d : Nat) (s : State) : Host.Outcome State Fault Refusal := .next (s.timeSet d)

/-- SET_ON_PPS (R352). -/
def execSetOnPps (d : Nat) (s : State) : Host.Outcome State Fault Refusal := .next (s.setOnPps d)

/-- RESTART_SERVO (R357). -/
def execRestartServo (d : Nat) (s : State) : Host.Outcome State Fault Refusal := .next (s.loseHistory d)

/-- CATCHUP_END (R352): the clock runs until the halving has ended. -/
def execCatchupEnd (d : Nat) (s : State) : Host.Outcome State Fault Refusal :=
  .next (s.advance (s.tb.counter d).halveLeft)

/-- JOIN_START (R353). -/
def execJoinStart (sel : Nat) (s : State) : Host.Outcome State Fault Refusal := .next (s.joinStart sel)

/-- JOIN_COMPLETE (R355): the clock runs until the catch-up has reached the new counter. -/
def execJoinComplete (s : State) : Host.Outcome State Fault Refusal := .next (State.joinRun 6 s)

/-- JOIN_FORCE (R354). -/
def execJoinForce (s : State) : Host.Outcome State Fault Refusal := .next s.joinForce

/-- JOIN_CANCEL (R354). -/
def execJoinCancel (s : State) : Host.Outcome State Fault Refusal := .next s.joinCancel

/-- PTP_SYNC (R358). -/
def execPtpSync (d master gm : Nat) (s : State) : Host.Outcome State Fault Refusal := .next (s.ptpSync d master gm)

/-- PTP_ANNOUNCE (R357). -/
def execPtpAnnounce (d domain transport : Nat) (data : List Nat) (s : State) : Host.Outcome State Fault Refusal :=
  .next (s.ptpAnnounce d domain transport data)

/-- PTP_DELAY_RESPONSE (R358). -/
def execPtpDelayResponse (d delay : Nat) (s : State) : Host.Outcome State Fault Refusal := .next (s.ptpDelay d delay)

/-- ANNOUNCE_TIMEOUT (R357). -/
def execAnnounceTimeout (d : Nat) (s : State) : Host.Outcome State Fault Refusal := .next (s.announceTimeout d)

/-- HOLDOVER_EXPIRE (R357). -/
def execHoldoverExpire (d : Nat) (s : State) : Host.Outcome State Fault Refusal := .next (s.holdoverExpire d)

/-- PPS_IN_EDGE (R360). -/
def execPpsInEdge (s : State) : Host.Outcome State Fault Refusal := .next s.ppsEdge

/-- PPS_TIMEOUT (R360). -/
def execPpsTimeout (s : State) : Host.Outcome State Fault Refusal :=
  .next ({ s with tb := { s.tb with ppsGood := 0 } }.setLocks s.refLocked false)

/-- REFCLK_LOCK (R360). -/
def execRefclkLock (s : State) : Host.Outcome State Fault Refusal := .next (s.setLocks true s.ppsLocked)

/-- REFCLK_LOST (R360). -/
def execRefclkLost (s : State) : Host.Outcome State Fault Refusal := .next (s.setLocks false s.ppsLocked)

/-- REF_SEL_CHANGE (R361). -/
def execRefSelChange (v : Nat) (s : State) : Host.Outcome State Fault Refusal := .next (s.refSel v)

/-- PPS_OUT_PULSE (R361): at the next whole second of device time. -/
def execPpsOutPulse (s : State) : Host.Outcome State Fault Refusal :=
  .next (if s.rd TB_PPS_OUT_ENABLE = 1 then
    (s.runTo (State.secondFrom s.tb.dev)).emit (.ppsOut (s.rd TB_PPS_OUT_WIDTH_US)) else s)

/-- SLOT_ARM (R536). -/
def execSlotArm (k : Nat) (s : State) : Host.Outcome State Fault Refusal := .next (s.slotArm k)

/-- SLOT_DISARM (R536). -/
def execSlotDisarm (k : Nat) (s : State) : Host.Outcome State Fault Refusal := .next (s.slotDisarm k)

end Sys2Proof.Machine
end

