-- ==== Sys2Proof/Machine/Analog.lean ====
section
/-!
DEFINITION. The analogue inputs (R415–R421): starts, conversions, calibrated samples, sample words and threshold
units. Instants are in 2^-16 ns of device time; starts are kept in 2^-32 ns.
-/
namespace Sys2Proof.Machine

/-- A quotient rounded to nearest, halves upward. -/
def nearest (n : Int) (d : Nat) : Int := (2 * n + (d : Int)) / (2 * (d : Int))

/-- A raw code made a calibrated one (R418), and whether the clamp changed it. -/
def calibrated (offset : Int) (gain : Nat) (x : Int) : Int × Bool :=
  let y := rnd ((64 * x - offset) * (gain : Int)) 28
  let c := max (-131072) (min 131071 y)
  (c, c != y)

/-- The bytes of a sample word (R419). -/
def wordBytes (c : Nat) (w : SampleWord) : List Byte :=
  timeBytes w.t0 ++ leBytes 1 (c + 16 * w.range) ++ leBytes 1 w.flags ++ leBytes 1 w.samples.length ++ leBytes 1 0
    ++ w.samples.flatMap fun e => leBytes 4 (toSigned 18 e.1 * 2 ^ 14 + e.2)

namespace State

def ai (s : State) (c : Nat) : AiChan := tget (fun _ => {}) s.ais c
def setAi (s : State) (c : Nat) (x : AiChan) : State := { s with ais := tset (fun _ => {}) s.ais c x }
def updAi (s : State) (c : Nat) (g : AiChan → AiChan) : State := s.setAi c (g (s.ai c))

/-- A byte-offset word of the coefficient set in force (R433). -/
def setWord (s : State) (off : Nat) : Nat := s.rd (CAL_SET_DATA (off / 4))

/-- OFFSET and GAIN in force for a channel and range (R418, R433). -/
def coefficients (s : State) (c r : Nat) : Int × Nat :=
  (signed 32 (s.setWord (0x20 + 32 * c + 8 * r)), s.setWord (0x24 + 32 * c + 8 * r) % 2 ^ 24)

/-- The factory aperture skew of a channel, in 2^-16 ns (R416, R433). -/
def apertureSkew (s : State) (c : Nat) : Int := nearest (signed 32 (s.setWord (0x120 + 4 * c)) * 65536) 1000

/-- The first 800 MHz clock at or after an instant, both in 2^-32 ns: the clock runs to one still to come. -/
def clockAt (t : Nat) (s : State) : State × Nat :=
  if s.tb.dev < t then
    let s := s.runTo t
    (s, s.tb.dev)
  else (s, s.tb.dev - (s.tb.dev - t) / s.tb.devInc * s.tb.devInc)

/-- A miss, a dropped word or an overrange sample (R436). -/
def aiEv (c detail : Nat) (t : Time) (s : State) : State := s.raiseAt (762 + 3 * c) detail t

/-! Reserve windows (R428). -/

/-- One slot of a channel's grid, in 2^-16 ns. -/
def gridUnits : Nat := Time.ofNs 500

/-- Whether an instant lies in one of the windows AI_RESERVE books, and in which of its four slots. -/
def reserveSlot (s : State) (c : Nat) (t : Time) : Option Nat :=
  let n := s.rd (AI_RESERVE_WINDOWS c)
  let p := t % Time.ofMs 1 / gridUnits
  (List.range n).findSome? fun w =>
    let b := 1000000 * w / n / 500
    if b ≤ p ∧ p < b + 4 then some (p - b) else none

/-- The window an instant lies in serves calibration: the channel's block is due. -/
def reserveUsed (s : State) (c : Nat) (t : Time) : Bool :=
  s.rd (CB_STATUS_STATE (c / 4)) != 0 && (s.reserveSlot c t).isSome

/-! Sample words (R419). -/

/-- The open word closes and is admitted to the pen, or dropped. -/
def closeWord (c : Nat) (s : State) : State :=
  match (s.ai c).word with
  | none => s
  | some w =>
    let s := s.updAi c fun x => { x with word := none }
    let r := s.penAdmit w.pen (wordBytes c w)
    if r.1 then r.2
    else aiEv c 1 r.2.now ((r.2.tally (AI_DROP_TALLY_COUNT c)).updAi c fun x => { x with lost := true })

/-- An instant less T0, in clocks of 1.25 ns. -/
def clocksFrom (t0 t : Time) : Nat := (t - t0 + 40960) / 81920

/-- A sample joins the open word, or opens one (R419). -/
def wordAdd (c : Nat) (v : Conversion) (y : Int) (outside : Bool) (s : State) : State :=
  if s.rd (AI_CTRL_PEN_EN c) = 0 then s
  else
    let stale := match (s.ai c).word with
      | none => false
      | some w => clocksFrom w.t0 v.at_ ≥ 16384 || w.range != v.range || w.offset != v.offset || w.gain != v.gain
    let s := if stale then closeWord c s else s
    let x := s.ai c
    let w : SampleWord := x.word.getD
      { t0 := v.at_, range := v.range, offset := v.offset, gain := v.gain, pen := s.rd (AI_CTRL_PEN c), samples := [],
        flags := s.rd CAL_STATUS_PENDING + (if x.lost then 4 else 0) + (if v.gen ≠ x.wordGen then 8 else 0)
          + 16 * s.rd (CB_STATUS_UNTRACED (c / 4)) }
    let opens := x.word.isNone
    let w := { w with samples := w.samples ++ [(y, clocksFrom w.t0 v.at_)],
                      flags := if outside then w.flags ||| 2 else w.flags }
    let s := s.setAi c { x with
      word := some w
      lost := if opens then false else x.lost
      wordGen := if opens then v.gen else x.wordGen }
    if w.samples.length = 12 then closeWord c s else s

/-! Threshold units (R421). -/

/-- One direction of the threshold unit, for a sample and the one before it: whether it stays armed, whether a
crossing waits for its slope, and the cause time of a qualified crossing. -/
def threshold (rising : Bool) (level hyst : Int) (slope : Option Int) (armed wait : Bool) (prev : Option Sample)
    (back : Option Int) (now : Sample) : Bool × Bool × Option Time :=
  -- a rising crossing is a falling one of the negated codes
  let turn (v : Int) : Int := if rising then -v else v
  let y := turn now.y
  let l := turn level
  if !armed then (decide (l + hyst ≤ y), false, none)
  else if l < y then (true, false, none)
  else
    let crossing := match prev with
      | some p => decide (l < turn p.y)
      | none => false
    if !crossing && !wait then (true, false, none)
    else
      let steep := match slope, back with
        | none, _ => true
        | some m, some b => decide (m ≤ turn b - y)
        | some _, none => false
      if !steep then (true, true, none)
      else
        let cause := match crossing, prev with
          | true, some p => p.at_ + (nearest (((now.at_ : Int) - p.at_) * (turn p.y - l)) (turn p.y - y).toNat).toNat
          | _, _ => now.at_
        (false, false, some cause)

/-- A sample passes the threshold unit; the answer holds the qualified crossings, rising or falling. -/
def thresholds (c : Nat) (now : Sample) (s : State) : State × List (Bool × Time) :=
  let x := s.ai c
  let span := s.rd (AI_THR_CFG_SPAN c)
  let back := if span = 0 then none else x.span[span - 1]?
  let s := s.setAi c { x with prev := some now, span := (now.y :: x.span).take 255 }
  if s.rd (AI_THR_CFG_ENABLE c) = 0 then (s, [])
  else
    let level := signed 18 (s.rd (AI_THR_LEVEL_LEVEL c))
    let hyst : Int := s.rd (AI_THR_CFG_HYST c)
    let slope : Option Int := if s.rd (AI_THR_SLOPE_ENABLE c) = 1 then some (s.rd (AI_THR_SLOPE_SLOPE c) : Nat) else none
    let r := threshold true level hyst slope (s.rd (AI_STATUS_ARMED_RISE c) == 1) x.waitRise x.prev back now
    let f := threshold false level hyst slope (s.rd (AI_STATUS_ARMED_FALL c) == 1) x.waitFall x.prev back now
    let s := (s.wrIf (AI_STATUS_ARMED_RISE c) r.1).wrIf (AI_STATUS_ARMED_FALL c) f.1
    let s := s.updAi c fun x => { x with waitRise := r.2.1, waitFall := f.2.1 }
    let hit (rising : Bool) (o : Option Time) (a : State × List (Bool × Time)) : State × List (Bool × Time) :=
      match o with
      | none => a
      | some t =>
        let s := a.1.wr (if rising then AI_STATUS_RISE c else AI_STATUS_FALL c) 1
        let s := (s.wrTime (AI_THR_TIME c) t).tally (AI_CROSS_TALLY_COUNT c)
        (s.raiseAt (760 + 3 * c + if rising then 0 else 1) (toSigned 32 now.y) t, a.2 ++ [(rising, t)])
    hit false f.2.2 (hit true r.2.2 (s, []))

/-! Starts and conversions (R416–R418). -/

/-- A source asks a channel to convert at an instant in 2^-32 ns. -/
def aiStart (c t : Nat) (s : State) : State :=
  if s.rd (AI_CTRL_ENABLE c) = 0 then s else s.updAi c fun x => { x with starts := x.starts ++ [t] }

/-- The next start begins a conversion, or is dropped (R416, R417, R428). -/
def conversionStart (c : Nat) (s : State) : State :=
  match (s.ai c).starts with
  | [] => s
  | t0 :: r =>
    let first := r.foldl min t0
    let k := clockAt first s
    let clk := k.2
    let s := k.1.updAi c fun x => { x with starts := x.starts.filter fun t => clk < t }
    let inst := ((clk / 65536 : Nat) + s.apertureSkew c).toNat
    let x := s.ai c
    let close := match x.last with
      | none => false
      | some t => decide (inst < t + gridUnits)
    let settling := match x.settle with
      | none => false
      | some t => decide (inst < t)
    if s.rd (AI_CTRL_ENABLE c) = 0 then s
    else if s.reserveUsed c inst then (s.tally (AI_RESERVE_TALLY_COUNT c)).setAi c { x with lost := true }
    else if close || settling then
      aiEv c 0 inst ((s.tally (AI_MISS_TALLY_COUNT c)).setAi c { x with lost := true })
    else
      let range := s.rd (AI_CTRL_RANGE c)
      let q := s.coefficients c range
      s.setAi c { x with last := some inst, convs := x.convs ++ [⟨inst, range, q.1, q.2, x.gen⟩] }

/-- A conversion yields raw code `x` (R418–R421); the answer holds the qualified crossings. -/
def conversionDone (c : Nat) (x : Int) (s : State) : State × List (Bool × Time) :=
  match (s.ai c).convs with
  | [] => (s, [])
  | v :: r =>
    let s := s.updAi c fun a => { a with convs := r }
    if s.rd (AI_CTRL_ENABLE c) = 0 then (s, [])
    else
      let y := calibrated v.offset v.gain x
      let outside := x = -131072 ∨ x = 131071 ∨ y.2
      let s := s.tally (AI_CONV_TALLY_COUNT c)
      let s := if outside then
          let s := (s.tally (AI_OVR_TALLY_COUNT c)).wr (AI_STATUS_OVR c) 1
          if s.rd (AI_CTRL_OVR_EV c) = 1 then aiEv c 2 v.at_ s else s
        else s
      let s := ((s.wrIf (AI_LAST_OVR c) (decide outside)).wr (AI_LAST_VALUE c) (toSigned 18 y.1)).wrTime (AI_LAST_TIME c) v.at_
      let s := s.updAi c fun a => { a with fresh := a.fresh ++ [⟨v.at_, y.1⟩] }
      thresholds c ⟨v.at_, y.1⟩ (wordAdd c v y.1 (decide outside) s)

/-- Samples collected into the tag history (R420). -/
def collect (c count : Nat) (s : State) : State :=
  s.updAi c fun x => { x with fresh := x.fresh.drop count, hist := ((x.fresh.take count).reverse ++ x.hist).take 16384 }

/-- The posted sample nearest an instant, the earlier one on a tie (R420). -/
def nearestSample (l : List Sample) (m : Time) : Option Sample :=
  l.foldl (fun a x => match a with
    | none => some x
    | some b =>
      let dx := ((x.at_ : Int) - m).natAbs
      let db := ((b.at_ : Int) - m).natAbs
      if dx < db ∨ (dx = db ∧ x.at_ < b.at_) then some x else some b) none

/-- A write of AI_CTRL (R417, R419). -/
def aiCtrl (fn c : Nat) (w : Word) (s : State) : State :=
  let range := s.rd (AI_CTRL_RANGE c)
  let s := putWord fn (AI_CTRL c) w s
  let moved := range ≠ s.rd (AI_CTRL_RANGE c)
  let s := if moved then
      (s.updAi c fun x => { x with settle := some (s.now + Time.ofUs 5) }).wr (AI_STATUS_SETTLING c) 1 else s
  if moved ∨ s.rd (AI_CTRL_ENABLE c) = 0 ∨ s.rd (AI_CTRL_PEN_EN c) = 0 then closeWord c s else s

/-- A write of AI_THR_CFG (R421). -/
def thrCfg (fn c : Nat) (w : Word) (s : State) : State :=
  let was := s.rd (AI_THR_CFG_ENABLE c)
  let s := putWord fn (AI_THR_CFG c) w s
  let on := s.rd (AI_THR_CFG_ENABLE c)
  if was = on then s
  else
    let s := s.updAi c fun x => { x with prev := none, span := [], waitRise := false, waitFall := false }
    (s.wr (AI_STATUS_ARMED_RISE c) on).wr (AI_STATUS_ARMED_FALL c) on

/-- Five microseconds after a change of RANGE (R417). -/
def rangeSettled (c : Nat) (s : State) : State :=
  (s.updAi c fun x => { x with settle := none }).wr (AI_STATUS_SETTLING c) 0

end State

/-- AI_CONVERT_NOW (R416). -/
def execAiConvertNow (c : Nat) (s : State) : Host.Outcome State Fault Refusal := .next (s.aiStart c s.tb.dev)

/-- CONVERSION_START (R416). -/
def execConversionStart (c : Nat) (s : State) : Host.Outcome State Fault Refusal := .next (s.conversionStart c)

/-- RANGE_SETTLED (R417). -/
def execRangeSettled (c : Nat) (s : State) : Host.Outcome State Fault Refusal := .next (s.rangeSettled c)

/-- SAMPLE_WORD_FLUSH (R419). -/
def execSampleWordFlush (c : Nat) (s : State) : Host.Outcome State Fault Refusal := .next (s.closeWord c)

end Sys2Proof.Machine
end

