-- ==== Sys2Proof/Machine/Crc.lean ====
section
/-!
DEFINITION. The check word of images, frame records and summaries: CRC-32C (R44).
-/
namespace Sys2Proof.Machine

/-- One bit of the reflected polynomial 0x82F6_3B78. -/
def crcBit (c : Word) : Word := if c.getLsbD 0 then (c >>> 1) ^^^ 0x82F63B78#32 else c >>> 1

def crcBits : Nat → Word → Word
  | 0, c => c
  | n + 1, c => crcBits n (crcBit c)

def crcStep (c : Word) (b : Byte) : Word := crcBits 8 (c ^^^ b.setWidth 32)

/-- CRC-32C of a list of bytes (R44). -/
def crc32c (l : List Byte) : Word := ~~~(l.foldl crcStep 0xFFFFFFFF#32)

end Sys2Proof.Machine
end

