-- ==== Sys2Proof/Machine/Flags.lean ====
section
/-!
DEFINITION. The flag bits of a frame record (R255) and the marks of a frame (R167), by value. The other flags of the
device are fields of its registers, named in `RegNames`.
-/
namespace Sys2Proof.Machine

/-! Flags of a record (R255). -/

def flagOverwritten : Nat := 16
def flagResync : Nat := 32
def flagInferred : Nat := 64
def flagCalPending : Nat := 128
def flagNoEgen : Nat := 256
def flagHeld : Nat := 512
def flagDeclared : Nat := 1024
def flagAge : Nat := 2048

/-- Marks under R167. -/
def markShort : Nat := 1
def markLong : Nat := 2
def markTrunc : Nat := 4
def markCrc : Nat := 8

def Rec.overwritten (r : Rec) : Bool := r.flags.testBit 4
def Rec.held (r : Rec) : Bool := r.flags.testBit 9

end Sys2Proof.Machine
end

