-- ==== Sys2Proof/Machine/Pens.lean ====
section
/-!
DEFINITION. The commands on pens and hurdles (R272–R292): configuration, software pops and pushes, DROP and CLEAR,
and the hurdle inputs.
-/
namespace Sys2Proof.Machine

namespace State

/-- Bytes of a paddock page (R248). -/
def pageBytes : Nat := 0x200000

/-- `n` bytes from `a` lie wholly within the table-and-pen-area grant of a function (R250). -/
def inGrant (s : State) (fn a n : Nat) : Bool :=
  if fn = 0 then 128 * pageBytes ≤ a && a + n ≤ 4096 * pageBytes
  else
    let first := s.rd (PD_FN_AREA_FIRST_PAGES (fn - 1))
    let count := s.rd (PD_FN_AREA_COUNT_PAGES (fn - 1))
    first * pageBytes ≤ a && a + n ≤ (first + count) * pageBytes

/-- Whether both rings of a pen, with `size` as SIZE_LOG2, lie within its owner's grant (R273). -/
def ringsOk (s : State) (p size : Nat) : Bool :=
  let fn := s.owner p
  s.inGrant fn (64 * s.rd (PN_DATA_ADDR_ADDRESS p)) (64 * 2 ^ size)
    && s.inGrant fn (64 * s.rd (PN_SIDE_ADDR_ADDRESS p)) (2 ^ size)

/-- The hurdle state follows WM_EN (R284): with WM_EN 0 it reads 0 without a crossing. -/
def penWmEn (p : Nat) (s : State) : State :=
  if s.rd (PN_CFG_WM_EN p) = 0 then s.wr (PN_STATUS_HURDLE p) 0 else s

/-- A hurdle output follows the pens routed to it (R286); 0 names none. -/
def pinFollow (k : Nat) (s : State) : State :=
  if k = 0 ∨ k > 16 then s else s.inFab fun b => hurdlePin b (k - 1)

/-- The hurdle state of a pen is evaluated (R284). -/
def penEval (p : Nat) (s : State) : State := (s.inFab (penHurdle s.owner s.now p)).settle

/-- A write of PN_CFG (R273, R284, R286). A change of SIZE_LOG2 while the pen is enabled is ignored; an enable
without rings within the owner's pages leaves the pen disabled. -/
def penCfg (fn p : Nat) (w : Word) (s : State) : State :=
  let was := s.rd (PN_CFG_ENABLE p)
  let size := bitsOf w 4 0
  let badSize := (1 ≤ size && size ≤ 3) || size > 24
  if was = 1 ∧ ¬ badSize ∧ size ≠ s.rd (PN_CFG_SIZE_LOG2 p) then s.wr (PN_STATUS_CFG_REFUSED p) 1
  else
    let oldPin := s.rd (PN_CFG_HO_PIN p)
    let s := putWord fn (PN_CFG p) w s
    let size := s.rd (PN_CFG_SIZE_LOG2 p)
    let s := if s.rd (PN_CFG_ENABLE p) = 1 ∧ (size = 0 ∨ ¬ s.ringsOk p size) then
        (s.wr (PN_CFG_ENABLE p) 0).wr (PN_STATUS_CFG_REFUSED p) 1 else s
    let s := penEval p (penWmEn p s)
    pinFollow (s.rd (PN_CFG_HO_PIN p)) (pinFollow oldPin s)

/-- A write of PN_DATA_ADDR or PN_SIDE_ADDR (R273). -/
def penAddr (fn p key : Nat) (w : Word) (s : State) : State :=
  if s.rd (PN_CFG_ENABLE p) = 1 ∧ bitsOf w 26 0 ≠ bitsOf (s.rw key) 26 0 then s.wr (PN_STATUS_CFG_REFUSED p) 1
  else putWord fn key w s

def penPops (s : State) (p : Nat) : Nat := tget (fun _ => 0) s.fab.pops p

def setPenPops (s : State) (p n : Nat) : State := s.inFab fun b => { b with pops := tset (fun _ => 0) b.pops p n }

/-- A write of PN_POP (R276): refusal, then the stale check, then the pop is under way. A disabled pen returns
empty (R290). -/
def penPop (p count : Nat) (s : State) : State :=
  if count = 0 ∨ s.rd (PN_CFG_ENABLE p) = 0 then s
  else if count > s.rd (PN_LEVEL_VALUE p) ∨ s.rd (PN_STATUS_BUSY p) = 1 then s.wr (PN_STATUS_POP_REFUSED p) 1
  else if s.rd (PN_EXPECT_CHECK p) = 1 ∧ s.rd (PN_EXPECT_POINTER p) ≠ s.rd (PN_RD_VALUE p) then
    s.wr (PN_STATUS_STALE p) 1
  else (s.setPenPops p count).wr (PN_STATUS_BUSY p) 1

/-- A software pop completes (R275, R276): RD has passed its words, EXPECT takes the new RD, BUSY falls. -/
def penPopDone (p : Nat) (s : State) : State :=
  let n := min (s.penPops p) (s.rd (PN_LEVEL_VALUE p))
  if s.penPops p = 0 then s
  else
    let s := (s.setPenPops p 0).inFab (penTake p n)
    let s := (s.wr (PN_EXPECT_POINTER p) (s.rd (PN_RD_VALUE p))).wr (PN_STATUS_BUSY p) 0
    penEval p s

/-- A word as the host has left it in the rings: its bytes and its side byte. -/
def hostWord (s : State) (p w : Nat) : List Byte × Byte :=
  (s.fab.bytes (penSlotAddr s.fab p w) 64, s.fab.byte (penSideAddr s.fab p w))

/-- A host word lands at WR with the side byte the host wrote (R277). -/
def landHost (p : Nat) (x : List Byte × Byte) (b : Fabric) : Fabric :=
  let wr := b.rd (PN_WR_VALUE p)
  let b := (b.setBytes (penSlotAddr b p wr) x.1).setByte (penSideAddr b p wr) x.2
  let b := penSetPtrs p ((wr + 1) % (2 * penSize b p)) (b.rd (PN_RD_VALUE p)) b
  if x.2.toNat ≥ 128 then b.wr (PN_PACKETS_VALUE p) (b.rd (PN_PACKETS_VALUE p) + 1) else b

/-- PN_CMD.PUSH (R277): under backpressure refused whole when COUNT exceeds the free space, with one REFUSE. -/
def penHostPush (p count : Nat) (s : State) : State :=
  if s.rd (PN_CFG_ENABLE p) = 1 ∧ ¬ penHasRoom s.fab p count then s.inFab (penRefuse p)
  else
    let wr := s.rd (PN_WR_VALUE p)
    let words := (List.range count).map fun i => s.hostWord p (wr + i)
    let b := words.foldl (fun b x =>
      penPushWith s.owner s.now p (x.2.toNat ≥ 128) (landHost p x) b) s.fab
    { s with fab := b }.settle

/-- PN_CMD.DROP (R279). -/
def penDrop (p : Nat) (s : State) : State :=
  let lv := s.rd (PN_LEVEL_VALUE p)
  if lv = 0 ∧ s.rd (PN_STATUS_MIDPKT p) = 0 then s
  else
    let len := penPacketLen s.fab p (s.rd (PN_RD_VALUE p)) lv
    let s := s.inFab fun b => penTake p len.1 (penCut p 8 b)
    let s := if len.2 then s else s.wr (PN_STATUS_DROPPING p) 1
    penEval p (s.tally (PN_LOST_PKT_TALLY_DROPPED p))

/-- PN_CMD.CLEAR (R279, R290): a pop under way ends at once. -/
def penClear (p : Nat) (s : State) : State :=
  let s := (s.setPenPops p 0).wr (PN_STATUS_BUSY p) 0
  let wr := s.rd (PN_WR_VALUE p)
  let s := s.inFab fun b => penSetPtrs p wr wr (penCut p 8 b)
  let s := ((s.wr (PN_PACKETS_VALUE p) 0).wr (PN_STATUS_MIDPKT p) 0).wr (PN_STATUS_DROPPING p) 0
  penEval p s

/-- A write of PN_CMD (R279): CLEAR, DROP, PUSH, each before the next. -/
def penCmd (p : Nat) (w : Word) (s : State) : State :=
  let s := if bitsOf w 30 30 = 1 then penClear p s else s
  let s := if bitsOf w 31 31 = 1 then penDrop p s else s
  if bitsOf w 29 29 = 1 then penHostPush p (bitsOf w 24 0) s else s

/-- A pen as on warm reset (R290): configuration and marks at their Img values, the pen cleared, tallies and
notices cleared. Only its owner's function may use it after. -/
def penReset (p : Nat) (s : State) : State :=
  let pin := s.rd (PN_CFG_HO_PIN p)
  let s := s.setPenPops p 0
  let s := resetRegs (fun k => PN_CFG p ≤ k && k < PN_CFG p + 0x40) s
  let s := s.wr ⟨PNG_NOTICE (p / 512) (p % 512 / 32), p % 32, p % 32⟩ 0
  pinFollow pin s

/-- A hurdle input takes a new filtered level (R287). -/
def hurdleInput (k : Nat) (level : Bool) (s : State) : State :=
  let f : FRef := ⟨HU_IN, k, k⟩
  if s.rd f = (if level then 1 else 0) then s
  else (s.wrIf f level).wr ⟨HU_IN, (if level then 24 else 16) + k, (if level then 24 else 16) + k⟩ 1

end State

/-- PEN_CFG_WRITE (R273). -/
def execPenCfgWrite (fn p : Nat) (value : Word) (s : State) : Host.Outcome State Fault Refusal :=
  .next (if fn = 0 ∨ s.owner p = fn then s.penCfg fn p value else s)

/-- PEN_POP (R276). -/
def execPenPop (fn p count : Nat) (s : State) : Host.Outcome State Fault Refusal :=
  .next (if fn = 0 ∨ s.owner p = fn then s.penPop p count else s)

/-- PEN_POP_COMPLETE (R276). -/
def execPenPopComplete (p : Nat) (s : State) : Host.Outcome State Fault Refusal := .next (s.penPopDone p)

/-- HURDLE_INPUT_CHANGE (R287). -/
def execHurdleInputChange (k : Nat) (level : Bool) (s : State) : Host.Outcome State Fault Refusal :=
  .next (s.hurdleInput k level)

end Sys2Proof.Machine
end

