-- ==== Sys2Proof/Machine/Position.lean ====
section
/-!
DEFINITION. Position feedback (R370–R392): quadrature and step decoding, limits, index and fault checks, speed,
compare lists, and the absolute channels. Samples and stamps are instants of device time in 2^-16 ns.
-/
namespace Sys2Proof.Machine

/-- One sample of the position sampling domain, 5 ns. -/
def sampleSpan : Nat := 327680

/-- What a filtered transition from (A, B) to (a, b) counts (R371); none: illegal (R373). -/
def decodeEdge (mode : Nat) (invert A B a b : Bool) : Option Int :=
  let turn (x : Int) : Int := if invert then -x else x
  if mode = 3 then some (if !A && a then (if b then -1 else 1) else 0)
  else if A ≠ a ∧ B ≠ b then none
  else if mode = 0 then
    if A ≠ a then some (turn (if a = b then -1 else 1))
    else if B ≠ b then some (turn (if a = b then 1 else -1))
    else some 0
  else if A = a then some 0
  else if mode = 1 then some (turn (if a = b then -1 else 1))
  else some (turn (if b then 0 else if a then 1 else -1))

/-- The multiplier m of R371. -/
def decodeMult (mode : Nat) : Nat := if mode = 0 then 4 else if mode = 1 then 2 else 1

/-- A compare entry (R385). -/
structure CmpEntry where
  pos : Int
  dir : Nat
  line : Nat
  event : Bool
  /-- a DIR of 0 or non-zero reserved bits: never fires -/
  dead : Bool
deriving DecidableEq, Repr

def cmpEntry (w : Nat) : CmpEntry where
  pos := signed 48 (w % 2 ^ 48)
  dir := w / 2 ^ 48 % 4
  line := w / 2 ^ 50 % 4
  event := w.testBit 52
  dead := w / 2 ^ 48 % 4 == 0 || w / 2 ^ 53 % 2 ^ 11 != 0

/-- Whether an entry matches an edge that brought the counter to `pos` (R387). -/
def CmpEntry.hit (e : CmpEntry) (pos : Int) (back : Bool) : Bool :=
  !e.dead && e.pos == pos && (e.dir == 3 || (e.dir == 2) == back)

/-- Whether an entry is behind (R386): reached already in its direction by the present motion. -/
def CmpEntry.behind (e : CmpEntry) (pos : Int) (last : Option Bool) : Bool :=
  !e.dead && ((e.dir == 1 && e.pos ≤ pos && last == some false) || (e.dir == 2 && e.pos ≥ pos && last == some true))

/-- A speed in 1/16 count/s, rounded to nearest (log entry 21). -/
def roundInt (n : Int) (d : Nat) : Int := (2 * n + (d : Int)) / (2 * (d : Int))

/-- Speed, method and stillness at `t` (R381). -/
def speedAt (e : Encoder) (win minCounts stillMs : Nat) (t : Time) : Int × Bool × Bool :=
  match e.hist with
  | [] => (0, false, e.still)
  | x :: r =>
    if e.still || x.at_ + Time.ofMs stillMs ≤ t then (0, true, true)
    else
      let inWin := e.recent.filter fun y => t < y.at_ + Time.ofUs (2 ^ win)
      if minCounts ≤ inWin.length then
        let net : Int := inWin.foldl (fun a y => if y.back then a - 1 else a + 1) 0
        (roundInt (16000000 * net) (2 ^ win), false, false)
      else
        let gap := match r with
          | [] => t - x.at_
          | y :: _ => max (x.at_ - y.at_) (t - x.at_)
        let v : Int := if gap = 0 then 0 else roundInt (16 * 65536000000000) gap
        (if x.back then -v else v, true, false)

namespace State

def enc (s : State) (k : Nat) : Encoder := tget (fun _ => {}) s.encs k
def setEnc (s : State) (k : Nat) (e : Encoder) : State := { s with encs := tset (fun _ => {}) s.encs k e }
def updEnc (s : State) (k : Nat) (g : Encoder → Encoder) : State := s.setEnc k (g (s.enc k))

/-- The counter of an encoder (R374). -/
def encPos (s : State) (k : Nat) : Int := signed 48 (s.rdWide (EN_POS k) 2)

/-- Event source `i` of encoder `k` (R393). -/
def encEv (k i detail : Nat) (cause : Time) (s : State) : State := s.raiseAt (680 + 12 * k + i) detail cause

/-- The history of an encoder being enabled, without a line fault and off its limits (R384). -/
def encGood (k : Nat) (t : Time) (s : State) : State :=
  let g := s.rd (EN_CTRL_ENABLE k) == 1 && s.rd (EN_STATUS_LINE_FAULT k) == 0 && s.rd (EN_STATUS_AT_LIMIT k) == 0
  let was := ((s.enc k).good.head?.map (·.2)).getD false
  if g = was then s else s.updEnc k fun e => { e with good := ((t, g) :: e.good).take 8192 }

/-- The counter takes a value within its limits; AT_LIMIT follows, and an arrival at a limit raises its event. -/
def encMove (k : Nat) (v : Int) (t : Time) (s : State) : State :=
  let e := s.enc k
  let old := s.encPos k
  let atLim := v = e.lo ∨ v = e.hi
  let s := (s.wrWide (EN_POS k) 2 (toSigned 48 v)).wrIf (EN_STATUS_AT_LIMIT k) (decide atLim)
  let s := if atLim ∧ v ≠ old then encEv k 6 (if v = e.hi then 1 else 0) t s else s
  encGood k t s

/-- A jump clamps under R374; the clamp counts as an overtravel where `counted`. -/
def encJump (k : Nat) (v : Int) (counted : Bool) (t : Time) (s : State) : State :=
  let e := s.enc k
  let c := max e.lo (min e.hi v)
  let s := encMove k c t s
  if c = v then s
  else
    let s := s.wr (EN_STATUS_OVERTRAVEL k) 1
    if counted then s.tally (EN_OVERTRAVEL_TALLY_COUNT k) else s

/-! Compare lists (R385–R387). -/

def encDepth (s : State) (k : Nat) : Nat :=
  (s.rd (EN_CMP_CTRL_TAIL k) + 131072 - s.rd (EN_CMP_HEAD_HEAD k)) % 131072

def encEntry (s : State) (k i : Nat) : CmpEntry :=
  cmpEntry (tget (fun _ => 0) (s.enc k).list ((s.rd (EN_CMP_HEAD_HEAD k) + i) % 65536))

/-- Entries become armed, each evaluated as it does (R386). -/
def encArm (k : Nat) (t : Time) : Nat → State → State
  | 0, s => s
  | n + 1, s =>
    let e := s.enc k
    if s.rd (EN_CMP_CTRL_ENABLE k) = 0 ∨ e.armed ≥ 16 ∨ e.armed ≥ s.encDepth k then s
    else
      let slot := (s.rd (EN_CMP_HEAD_HEAD k) + e.armed) % 65536
      let behind := (s.encEntry k e.armed).behind (s.encPos k) (e.hist.head?.map (·.back))
      let s := s.setEnc k { e with armed := e.armed + 1 }
      let s := if behind then
          encEv k 2 slot t ((s.wr (EN_STATUS_BEHIND k) 1).wr (EN_CMP_BEHIND_SLOT k) slot) else s
      encArm k t n s

/-- All armed entries are evaluated again (R387, R392). -/
def encRearm (k : Nat) (t : Time) (s : State) : State :=
  encArm k t 16 (s.updEnc k fun e => { e with armed := 0 })

/-- The entries that match an edge fire (R387); the answer holds the lines. -/
def encFire (k : Nat) (back : Bool) (t : Time) (s : State) : State × List Nat :=
  let pos := s.encPos k
  let n := (s.enc k).armed
  let es := (List.range n).map fun i => (i, s.encEntry k i)
  let hits := es.filter fun e => e.2.hit pos back
  match hits.getLast? with
  | none => (s, [])
  | some last =>
    let head := s.rd (EN_CMP_HEAD_HEAD k)
    let gone := last.1 + 1
    let skipped := gone - hits.length
    let s := s.tally (EN_CMP_HIT_TALLY_COUNT k) hits.length
    let s := hits.foldl (fun s e => if e.2.event then encEv k 0 ((head + e.1) % 65536) t s else s) s
    let s := s.wr (EN_CMP_HEAD_HEAD k) ((head + gone) % 131072)
    let s := s.updEnc k fun e => { e with armed := e.armed - gone }
    let s := if skipped = 0 then s else encEv k 3 skipped t (s.tally (EN_CMP_SKIP_TALLY_COUNT k) skipped)
    let s := if s.encDepth k = 0 then encEv k 1 (s.rd (EN_CMP_HEAD_HEAD k)) t s else s
    (encArm k t 16 s, hits.map (·.2.line))

/-! Speed (R381, R382). -/

/-- EN_SPEED and EN_SPEED_STAT as of `t`. -/
def encSpeed (k : Nat) (t : Time) (s : State) : State :=
  let e := s.enc k
  let v := speedAt e (s.rd (EN_SPEED_CFG_WIN k)) (s.rd (EN_SPEED_CFG_MIN_COUNTS k)) (s.rd (EN_SPEED_CFG_STILL_MS k)) t
  let rev := match e.hist with
    | x :: y :: _ => x.back != y.back
    | _ => false
  let s := s.wr (EN_SPEED_SPEED k) (toSigned 32 v.1)
  let s := (s.wrIf (EN_SPEED_STAT_METHOD k) v.2.1).wrIf (EN_SPEED_STAT_STILL k) v.2.2
  (s.wrIf (EN_SPEED_STAT_REV k) rev).wrIf (EN_SPEED_STAT_VALID k) (2 ≤ e.counts)

/-- The speed is also updated every 1 µs: what a read finds (R381). -/
def encSpeedLive (k : Nat) (s : State) : State :=
  let t := s.now / Time.ofUs 1 * Time.ofUs 1
  match (s.enc k).hist with
  | [] => s
  | x :: _ => if s.rd (EN_CTRL_ENABLE k) = 1 ∧ x.at_ ≤ t then encSpeed k t s else s

/-- The speed loses its validity until two counts have been taken (R381). -/
def encInvalid (k : Nat) (s : State) : State :=
  (s.updEnc k fun e => { e with counts := 0 }).wr (EN_SPEED_STAT_VALID k) 0

/-! Edges (R370–R374, R380, R392). -/

/-- The stamp of what a sample accepted (R380). -/
def encStamp (s : State) (k : Nat) (sample : Time) : Time :=
  sample - (s.rd (EN_CTRL_FILTER k) * sampleSpan + sampleSpan / 2 + Config.encoderDelay)

/-- A missing index (R377, cause 3). -/
def encMissing (k : Nat) (t : Time) (s : State) : State :=
  let e := s.enc k
  match e.ref with
  | none => s
  | some (r, back) =>
    let far : Int := 2 * (decodeMult (s.rd (EN_CTRL_DECODE k)) * s.rd (EN_INDEX_CFG_LINES k) : Nat)
    let moved := s.encPos k - r
    if s.rd (EN_CTRL_DECODE k) = 3 ∨ e.missed ∨ moved ≠ (if back then -far else far) then s
    else encFault k 3 far t (s.setEnc k { e with missed := true })
where
  /-- an index fault is counted and reported -/
  encFault (k cause : Nat) (dev : Int) (t : Time) (s : State) : State :=
    let s := (s.tally (EN_INDEX_FAULT_TALLY_COUNT k)).wr (EN_STATUS_INDEX_FAULT k) 1
    let s := (s.wr (EN_INDEX_STAT_CAUSE k) cause).wr (EN_INDEX_STAT_DEVIATION k) (toSigned 28 dev)
    encEv k 5 cause t s

/-- An edge is stamped, kept and counted in the speed (R380, R381). -/
def encKeep (k : Nat) (x : Edge) (s : State) : State :=
  let s := s.wrIf (EN_STATUS_DIR k) x.back
  s.updEnc k fun e => { e with
    hist := (x :: e.hist).take 64
    recent := x :: e.recent.filter fun y => x.at_ < y.at_ + Time.ofUs 1024
    edges := e.edges + 1
    counts := e.counts + 1
    still := false }

/-- A count edge in direction `back` at a sample (R374, R380, R387, R392); the answer holds the lines fired. A count
that meets a SET in one sample is lost, as is one past a limit. -/
def encCount (k : Nat) (back : Bool) (sample : Time) (s : State) : State × List Nat :=
  let t := s.encStamp k sample
  let e := s.enc k
  let old := s.encPos k
  let new : Int := if back then old - 1 else old + 1
  if e.setAt = some sample then
    (encSpeed k sample (encKeep k ⟨t, old, back⟩ s), [])
  else if new < e.lo ∨ e.hi < new then
    let s := (s.tally (EN_OVERTRAVEL_TALLY_COUNT k)).wr (EN_STATUS_OVERTRAVEL k) 1
    (encSpeed k sample (encKeep k ⟨t, old, back⟩ s), [])
  else
    let s := encKeep k ⟨t, if back then old else new, back⟩ s
    let s := encMissing k t (encSpeed k sample (encMove k new t s))
    encFire k back t s

/-- What the decode makes of a transition (R372, R373): an illegal one, one that is lost, or a count. -/
def encDecoded (k : Nat) (move : Option Int) (lost : Bool) (sample : Time) (s : State) : State × List Nat :=
  match move with
  | none =>
    let s := (s.tally (EN_ILL_TALLY_COUNT k)).wr (EN_STATUS_ILL k) 1
    (if s.rd (EN_CTRL_ILL_EV k) = 1 then encEv k 4 (s.rw (EN_POS k)).toNat (s.encStamp k sample) s else s, [])
  | some d => if d = 0 ∨ lost then (s, []) else encCount k (d < 0) sample s

/-- A filtered transition accepted at a sample (R370–R374). -/
def encEdge (k : Nat) (a b : Bool) (sample : Time) (s : State) : State × List Nat :=
  let s := s.runTo (65536 * sample)
  let A := s.rd (EN_STATUS_A k) == 1
  let B := s.rd (EN_STATUS_B k) == 1
  let e := s.enc k
  let apart := (s.rd (EN_CTRL_FILTER k) + 3) * sampleSpan
  let near := fun o : Option Time => match o with
    | none => false
    | some x => decide (sample < x + apart)
  let tooClose := (A != a && near e.bAt) || (B != b && near e.aAt)
  let both := A != a && B != b
  let s := s.setEnc k { e with aAt := if A != a then some sample else e.aAt, bAt := if B != b then some sample else e.bAt }
  let s := (s.wrIf (EN_STATUS_A k) a).wrIf (EN_STATUS_B k) b
  if s.rd (EN_CTRL_ENABLE k) = 0 then (s, [])
  else
    encDecoded k (decodeEdge (s.rd (EN_CTRL_DECODE k)) (s.rd (EN_CTRL_INVERT_DIR k) == 1) A B a b) (tooClose && !both)
      sample s

/-! Setting (R375). -/

/-- The first sample after now. -/
def nextSample (s : State) : Time := (s.now / sampleSpan + 1) * sampleSpan

/-- The value of EN_SET. -/
def encSetValue (s : State) (k : Nat) : Int := signed 48 (s.rdWide (EN_SET k) 2)

/-- EN_CMD.SET (R375). -/
def encSet (k : Nat) (s : State) : State :=
  let t := s.nextSample
  let s := s.updEnc k fun e => { e with setAt := some t }
  encRearm k t (encInvalid k (encJump k (s.encSetValue k) false t s))

/-- EN_CMD.SET_ON_INDEX (R375). -/
def encSetOnIndex (k : Nat) (s : State) : State :=
  let v := s.encSetValue k
  let t := s.nextSample
  (s.updEnc k fun e => { e with onIndex := some (v, t) }).wr (EN_STATUS_SET_PENDING k) 1

/-- EN_CMD.ADJUST (R375). -/
def encAdjust (k : Nat) (s : State) : State :=
  let t := s.nextSample
  encRearm k t (encJump k (s.encPos k + s.encSetValue k) false t s)

/-- EN_CMD.CMP_RESET (R394). -/
def encCmpReset (k : Nat) (s : State) : State :=
  let s := ((s.wr (EN_CMP_HEAD_HEAD k) 0).wr (EN_CMP_CTRL_TAIL k) 0).wr (EN_CMP_WADDR_SLOT k) 0
  s.updEnc k fun e => { e with armed := 0 }

/-- A write of EN_CMD: SET, SET_ON_INDEX, ADJUST, then CMP_RESET. -/
def encCmd (k : Nat) (w : Word) (s : State) : State :=
  let s := if bitsOf w 31 31 = 1 then encSet k s else s
  let s := if bitsOf w 30 30 = 1 then encSetOnIndex k s else s
  let s := if bitsOf w 29 29 = 1 then encAdjust k s else s
  if bitsOf w 28 28 = 1 then encCmpReset k s else s

/-- A write of the HI word of a limit (R374): the pair takes effect, or falls under R11. -/
def encLimit (fn k : Nat) (s : State) : State :=
  let e := s.enc k
  let lo := signed 48 (s.rdWide (EN_LIMIT_LO k) 2)
  let hi := signed 48 (s.rdWide (EN_LIMIT_HI k) 2)
  if hi ≤ lo then
    ((s.wrWide (EN_LIMIT_LO k) 2 (toSigned 48 e.lo)).wrWide (EN_LIMIT_HI k) 2 (toSigned 48 e.hi)).accErr fn
  else
    let s := s.setEnc k { e with lo := lo, hi := hi }
    encJump k (s.encPos k) true s.nextSample s

/-- A write of EN_CTRL (R379, R381, R392). -/
def encCtrl (fn k : Nat) (w : Word) (s : State) : State :=
  let was := s.rd (EN_CTRL_ENABLE k)
  let s := putWord fn (EN_CTRL k) w s
  let s := if 2 ≤ k then s.wr (EN_CTRL_HALL_EN k) 0 else s
  let s := if was = s.rd (EN_CTRL_ENABLE k) then s else encInvalid k s
  encGood k s.now s

/-- A write of EN_CMP_CTRL (R386, R392). -/
def cmpCtrl (fn k : Nat) (w : Word) (s : State) : State :=
  let depth := (bitsOf w 16 0 + 131072 - s.rd (EN_CMP_HEAD_HEAD k)) % 131072
  let was := s.rd (EN_CMP_CTRL_ENABLE k)
  let s := s.wr (EN_CMP_CTRL_ENABLE k) (bitsOf w 31 31)
  let s := if depth > 65536 then s.accErr fn else s.wr (EN_CMP_CTRL_TAIL k) (bitsOf w 16 0)
  let s := s.updEnc k fun e => { e with armed := if was = 0 then 0 else min e.armed (s.encDepth k) }
  encArm k s.now 16 s

/-- A write of EN_CMP_WDATA_HI (R385). -/
def cmpWrite (k : Nat) (hi : Word) (s : State) : State :=
  let slot := s.rd (EN_CMP_WADDR_SLOT k)
  let s := s.ww (EN_CMP_WDATA k + 4) hi
  if (slot + 65536 - s.rd (EN_CMP_HEAD_HEAD k) % 65536) % 65536 < s.encDepth k then s.wr (EN_STATUS_CMP_REFUSED k) 1
  else
    let w := (s.rw (EN_CMP_WDATA k)).toNat + hi.toNat * 2 ^ 32
    (s.updEnc k fun e => { e with list := tset (fun _ => 0) e.list slot w }).wr (EN_CMP_WADDR_SLOT k) (slot + 1)

/-! Index, line faults, Hall (R376–R379). -/

/-- The interval since the last index event is judged (R377). -/
def encJudge (k : Nat) (back : Bool) (t : Time) (s : State) : State :=
  match (s.enc k).ref with
  | none => s
  | some (r, rb) =>
    let want : Int := (decodeMult (s.rd (EN_CTRL_DECODE k)) * s.rd (EN_INDEX_CFG_LINES k) : Nat)
    let tol : Int := (s.rd (EN_INDEX_CFG_TOL k) : Nat)
    let d : Int := ((s.encPos k - r).natAbs : Nat)
    if rb ≠ back ∨ s.rd (EN_CTRL_DECODE k) = 3 then s
    else if d < want - tol then encMissing.encFault k 1 (d - want) t s
    else if want + tol < d then encMissing.encFault k 2 (d - want) t s
    else s

/-- A pending SET_ON_INDEX is applied at a qualified index event, unless the command came in its sample (R375,
R392). -/
def encApplyIndex (k : Nat) (sample t : Time) (s : State) : State :=
  match (s.enc k).onIndex with
  | none => s
  | some (v, at_) =>
    if at_ = sample then s
    else
      let s := (s.updEnc k fun e => { e with onIndex := none }).wr (EN_STATUS_SET_PENDING k) 0
      let s := encRearm k t (encInvalid k (encJump k v false t s))
      encEv k 9 (s.rw (EN_POS k)).toNat t s

/-- Z takes a filtered level; a rise that INDEX_GATE passes is an index event (R376, R377). -/
def encIndex (k : Nat) (z : Bool) (sample : Time) (s : State) : State :=
  let s := s.runTo (65536 * sample)
  let was := s.rd (EN_STATUS_Z k) == 1
  let s := s.wrIf (EN_STATUS_Z k) z
  let gate := s.rd (EN_CTRL_INDEX_GATE k)
  let open_ := gate == 0 || (gate == 1 && s.rd (EN_STATUS_A k) == 1 && s.rd (EN_STATUS_B k) == 1)
  if s.rd (EN_CTRL_ENABLE k) = 1 ∧ z ∧ ¬ was ∧ open_ then
    let t := s.encStamp k sample
    let back := s.rd (EN_STATUS_DIR k) == 1
    let s := s.wrWide (EN_INDEX_POS k) 2 (s.rdWide (EN_POS k) 2)
    let s := encEv k 9 (s.rw (EN_POS k)).toNat t s
    let s := encApplyIndex k sample t (encJudge k back t s)
    s.updEnc k fun e => { e with ref := some (s.encPos k, back), missed := false }
  else s

/-- A line fault of one signal (A, B, Z, HA, HB, HC) starts or ends (R378). -/
def encLineFault (k signal : Nat) (on : Bool) (s : State) : State :=
  let f : FRef := ⟨EN_STATUS k, 16 + signal, 16 + signal⟩
  if s.rd f = (if on then 1 else 0) ∨ (2 ≤ k ∧ 3 ≤ signal) then s
  else
    let s := encGood k s.now (s.wrIf f on)
    encEv k 7 (s.rd (EN_STATUS_LINE_FAULT k)) s.now s

/-- A filtered Hall state (R379). -/
def encHall (k state : Nat) (sample : Time) (s : State) : State :=
  let s := s.runTo (65536 * sample)
  if 2 ≤ k ∨ s.rd (EN_CTRL_HALL_EN k) = 0 ∨ s.rd (EN_STATUS_HALL k) = state then s
  else
    let s := s.wr (EN_STATUS_HALL k) state
    if state = 0 ∨ state = 7 then
      encEv k 8 state (s.encStamp k sample) ((s.tally (EN_HALL_ILL_TALLY_COUNT k)).wr (EN_STATUS_HALL_ILL k) 1)
    else s

/-- STILL_MS have passed without an edge (R381). -/
def encStill (k : Nat) (s : State) : State :=
  if s.rd (EN_CTRL_ENABLE k) = 0 then s
  else ((s.updEnc k fun e => { e with still := true }).wr (EN_SPEED_SPEED k) 0).wr (EN_SPEED_STAT_STILL k) 1

/-- Entry `i` of the snapshot of edges. -/
def histEntry (k i : Nat) (x : Edge) (s : State) : State :=
  let key := EN_HIST_LO k i
  (s.wrTime key x.at_).ww (key + 12) (BitVec.ofNat 32 ((x.bound % 2 ^ 31).toNat + if x.back then 2 ^ 31 else 0))

/-- A read of EN_HIST_HEAD captures the last 64 edges; edge number n stands at place n mod 64 (R394). -/
def histSnapshot (k : Nat) (s : State) : State :=
  let e := s.enc k
  let s := s.wr (EN_HIST_HEAD_NEWEST k) ((e.edges + 63) % 64)
  (e.hist.foldl (fun (a : Nat × State) x => (a.1 - 1, histEntry k ((a.1 + 63) % 64) x a.2)) (e.edges + 64, s)).2

/-! Absolute channels (R388–R391). -/

def absChan (s : State) (j : Nat) : AbsChan := tget (fun _ => {}) s.abs j
def setAbs (s : State) (j : Nat) (e : AbsChan) : State := { s with abs := tset (fun _ => {}) s.abs j e }

/-- SA_STATUS bits 29:27, the DETAIL of the failure event (R393). -/
def absErr (j : Nat) (s : State) : State :=
  s.raise (680 + 12 * j + 11) ((s.rw (SA_STATUS j)).toNat / 2 ^ 27 % 8)

/-- A request at an instant (R389): a transfer starts within 50 ns, or the request is dropped. -/
def absRequest (j : Nat) (at_ : Time) (s : State) : State :=
  let x := s.absChan j
  if s.rd (SA_CFG_ENABLE j) = 0 then s
  else match x.run with
    | some (t, _, _) => if t = at_ then s else absErr j (s.tally (SA_MISS_TALLY_COUNT j))
    | none =>
      if x.low then absErr j (s.wr (SA_STATUS_NOT_READY j) 1)
      else
        let k := s.draw
        let run := (at_, at_ + (Config.absStart k.1).val, s.encPos (s.rd (SA_PAIR_ENC j)))
        (k.2.setAbs j { x with run := some run }).wr (SA_STATUS_BUSY j) 1

/-- Requests of placements whose instants have come (R389). -/
def absWaiting (j : Nat) (s : State) : State :=
  let x := s.absChan j
  let due := x.waiting.filter (· ≤ s.now)
  let s := if due.isEmpty then s else s.setAbs j { x with waiting := x.waiting.filter (s.now < ·) }
  due.foldl (fun s t => absRequest j t s) s

/-- A request of any other source, after those whose instants have come. -/
def absAsk (j : Nat) (s : State) : State := absRequest j s.now (absWaiting j s)

/-- Gray code to binary (R388): b(n) = g(n) xor b(n + 1). -/
def ungray : Nat → Nat → Nat
  | 0, _ => 0
  | n + 1, g => g ^^^ ungray n (g / 2)

/-- Number of ones among `n` bits. -/
def ones : Nat → Nat → Nat
  | 0, _ => 0
  | n + 1, w => w % 2 + ones n (w / 2)

/-- The paired counter at the sample time (R390): as captured, or after the last edge since that came before it. -/
def absPair (s : State) (j : Nat) (asked sample : Time) (count : Int) : Int :=
  match (s.enc (s.rd (SA_PAIR_ENC j))).hist.find? fun x => asked < x.at_ && x.at_ ≤ sample with
  | none => count
  | some x => if x.back then x.bound - 1 else x.bound

/-- A transfer ends (R388, R390): the bits received, the parity bit, and whether the line returned high in time. -/
def absDone (j word : Nat) (parity high : Bool) (s : State) : State :=
  let s := absWaiting j s
  let x := s.absChan j
  match x.run with
  | none => s
  | some (asked, sample, count) =>
    let bits := s.rd (SA_CFG_BITS j)
    let raw := word % 2 ^ bits
    let mode := s.rd (SA_CFG_PARITY j)
    let odd := (ones bits raw + if parity then 1 else 0) % 2
    let bad := (mode = 1 ∧ odd = 1) ∨ (mode = 2 ∧ odd = 0)
    let v := if s.rd (SA_CFG_GRAY j) = 1 then ungray bits raw else raw
    let s := (s.setAbs j { x with run := none, low := !high }).wr (SA_STATUS_BUSY j) 0
    if bad ∨ ¬ high then
      let s := if bad then s.wr (SA_STATUS_PARITY_ERR j) 1 else s
      let s := if high then s else s.wr (SA_STATUS_MONO_ERR j) 1
      absErr j (s.tally (SA_ERR_TALLY_COUNT j))
    else
      let s := ((s.wrWide (SA_POS j) 2 v).wrTime (SA_TIME j) sample).wr (SA_STATUS_VALID j) 1
      let s := if s.rd (SA_PAIR_PAIR_EN j) = 1 then
          s.wrWide (SA_PAIR_POS j) 2 (toSigned 48 (absPair s j asked sample count)) else s
      let s := s.setAbs j { s.absChan j with done := true }
      (s.tally (SA_GOOD_TALLY_COUNT j)).raise (680 + 12 * j + 10) (v % 2 ^ 32)

end State

/-- ENCODER_SET (R375). -/
def execEncoderSet (k : Nat) (s : State) : Host.Outcome State Fault Refusal := .next (s.encSet k)

/-- ENCODER_SET_ON_INDEX (R375). -/
def execEncoderSetOnIndex (k : Nat) (s : State) : Host.Outcome State Fault Refusal := .next (s.encSetOnIndex k)

/-- ENCODER_ADJUST (R375). -/
def execEncoderAdjust (k : Nat) (s : State) : Host.Outcome State Fault Refusal := .next (s.encAdjust k)

/-- CMP_RESET (R394). -/
def execCmpReset (k : Nat) (s : State) : Host.Outcome State Fault Refusal := .next (s.encCmpReset k)

/-- INDEX_EVENT (R376, R377): a filtered level of Z at a sample. -/
def execIndexEvent (k : Nat) (z : Bool) (sample : Time) (s : State) : Host.Outcome State Fault Refusal :=
  .next (s.encIndex k z sample)

/-- LINE_FAULT (R378). -/
def execLineFault (k signal : Nat) (on : Bool) (s : State) : Host.Outcome State Fault Refusal :=
  .next (s.encLineFault k signal on)

/-- HALL_STATE_CHANGE (R379). -/
def execHallStateChange (k state : Nat) (sample : Time) (s : State) : Host.Outcome State Fault Refusal :=
  .next (s.encHall k state sample)

/-- SPEED_STILL_TIMEOUT (R381). -/
def execSpeedStillTimeout (k : Nat) (s : State) : Host.Outcome State Fault Refusal := .next (s.encStill k)

/-- CMP_ENTRY_WRITE (R385). -/
def execCmpEntryWrite (k : Nat) (hi : Word) (s : State) : Host.Outcome State Fault Refusal := .next (s.cmpWrite k hi)

/-- CMP_TAIL_WRITE (R386). -/
def execCmpTailWrite (k : Nat) (value : Word) (s : State) : Host.Outcome State Fault Refusal :=
  .next (s.cmpCtrl 0 k value)

/-- HIST_SNAPSHOT_READ (R394). -/
def execHistSnapshotRead (k : Nat) (s : State) : Host.Outcome State Fault Refusal := .next (s.histSnapshot k)

/-- SA_REQUEST_NOW (R389): the request finds the data line at a level. -/
def execSaRequestNow (j : Nat) (line : Bool) (s : State) : Host.Outcome State Fault Refusal :=
  .next ((s.setAbs j { s.absChan j with low := !line }).absAsk j)

/-- SA_TRANSFER_COMPLETE (R390). -/
def execSaTransferComplete (j word : Nat) (parity high : Bool) (s : State) : Host.Outcome State Fault Refusal :=
  .next (s.absDone j word parity high)

end Sys2Proof.Machine
end

