-- ==== Sys2Proof/Machine/Paddock.lean ====
section
/-!
DEFINITION. The paddock (R248–R257, R271): frame records and their bytes, regions, completion of records with their
tags, frame offers, the frame index, and the BAR4 aperture.
-/
namespace Sys2Proof.Machine

/-- Record slots of the table (R248). -/
def recordSlots : Nat := 262144

/-- The exposure midpoint (R384). -/
def Rec.mid (r : Rec) : Time := (r.start + r.end_) / 2

/-- Offset of a frame in its region. -/
def Rec.offset (r : Rec) : Nat := r.address - r.base

/-- Saturation at all ones of `w` bits. -/
def satBits (w v : Nat) : Nat := min v (2 ^ w - 1)

/-- Bytes 0x00 to 0xFB of a record (R255). -/
def recBody (r : Rec) : List Byte :=
  [0x53#8, 0x56#8, 0x46#8, 0x52#8, 1#8] ++ leBytes 1 r.state ++ leBytes 1 r.stream ++ leBytes 1 r.context
    ++ leBytes 8 r.number ++ leBytes 4 r.seq ++ leBytes 2 r.flags ++ leBytes 1 r.fold ++ leBytes 1 r.taps
    ++ leBytes 2 r.egen ++ leBytes 2 r.cgen
    ++ leBytes 1 (r.group % 16 + (if r.window then 16 else 0) + 32 * r.region) ++ leBytes 1 r.domain
    ++ leBytes 1 r.posValid ++ leBytes 1 r.aiValid
    ++ timeBytes r.start ++ timeBytes r.end_ ++ timeBytes r.arrival ++ leBytes 4 0
    ++ (List.range 4).flatMap (fun k => leBytes 8 (r.enc.getD k 0))
    ++ (List.range 4).flatMap (fun k => leBytes 8 (r.abs.getD k 0))
    ++ (List.range 8).flatMap (fun k => leBytes 8 (r.ai.getD k 0))
    ++ leBytes 8 r.address ++ leBytes 4 r.length ++ leBytes 2 r.width ++ leBytes 2 r.height ++ leBytes 4 r.format
    ++ leBytes 4 r.stride ++ leBytes 4 r.stats ++ leBytes 2 (satBits 16 r.crcPackets)
    ++ leBytes 2 (satBits 16 r.filled) ++ leBytes 2 (satBits 16 r.surplus) ++ leBytes 2 (satBits 16 r.resent)
    ++ leBytes 1 (satBits 8 r.tagLate) ++ leBytes 1 0 ++ leBytes 2 (satBits 16 r.gap) ++ leBytes 12 0

/-- The 256 bytes of a record (R255). -/
def recBytes (r : Rec) : List Byte := recBody r ++ leBytes 4 (crc32c (recBody r)).toNat

/-- A signed value less a signed reference, in whole units of `unit`, rounded to nearest with halves upward. -/
def ageIn (unit : Nat) (m t : Time) : Int := nearest ((m : Int) - t) unit

namespace State

/-! Streams, records and regions. -/

def strm (s : State) (st : Nat) : Strm := tget (fun _ => {}) s.strms st
def setStrm (s : State) (st : Nat) (x : Strm) : State := { s with strms := tset (fun _ => {}) s.strms st x }
def updStrm (s : State) (st : Nat) (g : Strm → Strm) : State := s.setStrm st (g (s.strm st))

/-- The port of a stream: 24 for the parallel port's. -/
def portOf (st : Nat) : Nat := st / 4

/-- Whether a stream's port can carry frames: Active, or for STP its pixel clock (R165, R264). -/
def portUp (s : State) (P : Nat) : Bool :=
  if P = 24 then s.rd PP_STATUS_CLK_OK == 1 else s.rd (PT_LINK_STATUS_STATE P) == 5

def record (s : State) (slot : Nat) : Option Rec := tget (fun _ => none) s.records slot

/-- The index alone is changed. -/
def keepRecord (r : Rec) (s : State) : State := { s with records := tset (fun _ => none) s.records r.slot (some r) }

/-- A record changes: one 256-byte write (R256). -/
def putRecord (r : Rec) (s : State) : State := (keepRecord r s).setBytes (256 * r.slot) (recBytes r)

/-- Records of a stream that are not overwritten. -/
def frames (s : State) (st : Nat) : List Rec :=
  s.records.filterMap fun e => match e.2 with
    | some r => if r.stream = st && !r.overwritten then some r else none
    | none => none

/-- The record of the stream's frame with a number, where it is intact (R271). -/
def findFrame (s : State) (st number : Nat) : Option Rec := (s.frames st).find? fun r => r.number == number

/-- The overwritten flag is set (R253). -/
def markOver (r : Rec) (s : State) : State :=
  if r.overwritten then s else putRecord { r with flags := r.flags ||| flagOverwritten } s

/-- First byte and bytes of region `r` of a stream (R251). -/
def region (s : State) (st r : Nat) : Nat × Nat :=
  if r = 0 then (pageBytes * s.rd (PD_ST_REGION_A_FIRST_PAGES st), pageBytes * s.rd (PD_ST_REGION_A_PAGES_PAGES st))
  else (pageBytes * s.rd (PD_ST_REGION_B_FIRST_PAGES st), pageBytes * s.rd (PD_ST_REGION_B_PAGES_PAGES st))

def activeRegion (s : State) (st : Nat) : Nat := s.rd (PD_ST_CTRL_ACTIVE_REGION st)

/-- Bytes of a frame of the stream (R251). -/
def frameLen (s : State) (st : Nat) : Nat :=
  let P := portOf st
  s.rd (ST_GEOMETRY_HEIGHT P (st % 4)) * strideOf (s.rd (ST_LINE_BYTES_VALUE P (st % 4)))

/-- Whether a PD group register lists a stream. -/
def memberRef (g st : Nat) : FRef := ⟨PD_FG_MEMBERS g (st / 32), st % 32, st % 32⟩

def isMember (s : State) (g st : Nat) : Bool := s.rd (memberRef g st) == 1

def members (s : State) (g : Nat) : List Nat := (List.range 97).filter (s.isMember g)

/-- The freeze group of a stream. -/
def groupOf (s : State) (st : Nat) : Option Nat := (List.range 16).find? fun g => s.isMember g st

/-- PD_ST_CTRL.SMALL follows the active region; a member's region found too small raises the group's event
(R251, R270). -/
def smallCheck (st : Nat) (s : State) : State :=
  let small := (s.region st (s.activeRegion st)).2 < 2 * s.frameLen st
  let was := s.rd (PD_ST_CTRL_SMALL st)
  let s := s.wrIf (PD_ST_CTRL_SMALL st) small
  match s.groupOf st with
  | some g => if small && was == 0 then s.raise (584 + 4 * g + 3) 0 else s
  | none => s

/-- Whether two byte runs in a region of `size` bytes, which wraps, meet. -/
def runsMeet (size a la b lb : Nat) : Bool := (a + size - b) % size < lb || (b + size - a) % size < la

/-- The intact frames of the active region whose bytes a frame at offset `off` would take (R253). -/
def victims (s : State) (st off len : Nat) : List Rec :=
  let r := s.region st (s.activeRegion st)
  (s.frames st).filter fun v => v.region == s.activeRegion st && runsMeet r.2 off len v.offset v.length

/-- The next slot without a held record, from `i` on (R254). -/
def freeSlotFrom (s : State) : Nat → Nat → Option Nat
  | 0, _ => none
  | n + 1, i =>
    match s.record i with
    | some r => if r.held then freeSlotFrom s n ((i + 1) % recordSlots) else some i
    | none => some i

/-- Every slot listed may be held; a slot beyond the listed ones is free. -/
def freeSlot (s : State) : Option Nat :=
  freeSlotFrom s (min recordSlots (s.records.length + 1)) (s.rd PD_RECORD_NEXT_VALUE)

/-! Tags (R384, R391, R420). -/

/-- Position at `m` between two stamped edges, 48.16 fixed point (R384). -/
def between (i j : Edge) (m : Time) : Int :=
  65536 * i.bound + nearest (65536 * (j.bound - i.bound) * ((m : Int) - i.at_)) (j.at_ - i.at_)

/-- The last edge at or before `m` and the first one after it, in a list newest first. -/
def bracket (l : List Edge) (m : Time) : Option Edge × Option Edge :=
  (l.find? fun e => e.at_ ≤ m, (l.reverse.find? fun e => m < e.at_))

/-- ENC of encoder `k` at `m` (R384); without an edge at or before `m` no value is stated. -/
def encTag (k : Nat) (m : Time) (s : State) : Nat × State :=
  let e := s.enc k
  let h := bracket e.hist m
  let t := bracket (e.tags.filterMap (·.edge)) m
  let v := match h, t with
    | (some i, some j), _ => some (between i j m)
    | _, (some i, some j) => some (between i j m)
    | (some i, none), _ => some (65536 * i.bound + if i.back then -32768 else 32768)
    | _, (some i, none) => some (65536 * i.bound + if i.back then -32768 else 32768)
    | _, _ => none
  match v with
  | some v => (toSigned 64 v, s)
  | none =>
    let d := s.draw
    ((Config.absentTag d.1).toNat, d.2)

/-- Enabled, without a line fault and off its limits at `m`. -/
def encWasGood (s : State) (k : Nat) (m : Time) : Bool :=
  (((s.enc k).good.find? fun x => x.1 ≤ m).map (·.2)).getD false

/-- ABS of channel `j` at `m` (R391). -/
def absTag (j : Nat) (m : Time) (s : State) : Nat × State :=
  match (tget (fun _ => ({} : AbsChan)) s.abs j).posted with
  | some (t, p) => (p % 2 ^ 48 + 2 ^ 48 * toSigned 16 (ageIn 65536000 m t), s)
  | none =>
    let d := s.draw
    ((Config.absentTag d.1).toNat, d.2)

/-- AI of channel `c` at `m` (R420). -/
def aiTag (c : Nat) (m : Time) (s : State) : Nat × State :=
  match nearestSample (s.ai c).hist m with
  | some x => (toSigned 32 x.y + 2 ^ 32 * toSigned 32 (ageIn 65536 m x.at_), s)
  | none =>
    let d := s.draw
    ((Config.absentTag d.1).toNat, d.2)

/-- Tags of `n` channels, from channel `i`. -/
def tagsFrom (f : Nat → State → Nat × State) : Nat → Nat → State → List Nat × State
  | 0, _, s => ([], s)
  | n + 1, i, s =>
    let a := f i s
    let r := tagsFrom f n (i + 1) a.2
    (a.1 :: r.1, r.2)

/-- Bit `k` for each of `n` channels that satisfies `p`. -/
def bitMask (n : Nat) (p : Nat → Bool) : Nat := ((List.range n).map fun k => if p k then 2 ^ k else 0).sum

/-- The tags of a record at its exposure midpoint. -/
def fillTags (r : Rec) (s : State) : Rec × State :=
  let m := r.mid
  let e := tagsFrom (fun k s => s.encTag k m) 4 0 s
  let a := tagsFrom (fun k s => s.absTag k m) 4 0 e.2
  let i := tagsFrom (fun k s => s.aiTag k m) 8 0 a.2
  let s := i.2
  let pos := bitMask 4 (fun k => s.encWasGood k m)
    + 16 * bitMask 4 (fun j => s.rd (SA_CFG_ENABLE j) == 1 && s.rd (SA_STATUS_VALID j) == 1)
  let aiv := bitMask 8 (fun c => s.rd (AI_CTRL_ENABLE c) == 1 && !(s.ai c).hist.isEmpty)
  ({ r with enc := e.1, abs := a.1, ai := i.1, posValid := pos, aiValid := aiv }, s)

/-- Whether the tag history covers an instant: the last tick's posting is done and dated at or after it (R20). -/
def tagsCover (s : State) (m : Time) : Bool :=
  s.bw.count > 0 && 65536 * m ≤ s.bw.next - ns32 s.bw.period && s.bw.queue.all fun w => match w.2 with
    | .encSample .. | .absSample .. | .collect .. => false
    | _ => true

/-! Frame offers (R257). -/

/-- The bytes of an offer (R257). -/
def offerBytes (r : Rec) (penA : Nat) : List Byte :=
  [0x53#8, 0x56#8, 0x46#8, 0x4F#8] ++ leBytes 1 r.stream ++ leBytes 1 (r.flags % 16 + if r.held then 16 else 0)
    ++ leBytes 2 penA ++ leBytes 8 r.number ++ leBytes 4 r.slot ++ timeBytes r.start ++ leBytes 4 r.seq ++ leBytes 4 0

/-- The home of a stream: fold and context (R52, R185). -/
def homeOf (s : State) (st : Nat) : Option (Nat × Nat) :=
  (s.streams.find? fun e => e.stream == st).map fun e => (e.fold, e.context)

/-- One offer for a complete record. -/
def offer (r : Rec) (s : State) : State :=
  let fn := s.rd PD_OFFER_FUNCTION
  let p := s.rd PD_OFFER_PEN
  if s.rd PD_OFFER_ENABLE = 0 ∨ s.streamOwner r.stream ≠ fn then s
  else if s.owner p ≠ fn then s.tally PD_OFFER_DROP_TALLY_COUNT
  else
    let penA := match s.homeOf r.stream with
      | some (f, c) => s.rd (FXB_TAP_PENS_PEN_A f c 1)
      | none => 0
    let a := s.penAdmit p (offerBytes r penA)
    if a.1 then a.2 else a.2.tally PD_OFFER_DROP_TALLY_COUNT

/-! The frame index (R271). -/

/-- PD_FIND_CTRL.GO. -/
def frameFind (fn : Nat) (s : State) : State :=
  let st := s.rd (PD_FIND_CTRL_STREAM fn)
  let hit := if fn = 0 ∨ s.streamOwner st = fn then s.findFrame st (s.rdWide (PD_FIND_FRAME fn) 2) else none
  ((s.wr (PD_FIND_RESULT_BUSY fn) 0).wrIf (PD_FIND_RESULT_FOUND fn) hit.isSome).wr (PD_FIND_RESULT_SLOT fn)
    ((hit.map (·.slot)).getD 0)

/-! BAR4 (R249, R250, R329). -/

/-- Whether BAR4 serves a read of a byte to a function. -/
def bar4Reads (s : State) (fn a : Nat) : Bool :=
  a < paddockEnd && (fn == 0
    || (a < 256 * recordSlots && match s.record (a / 256) with
        | some r => s.streamOwner r.stream == fn
        | none => false)
    || (0xC000000 ≤ a && a < 0xC200000 && s.groupOwner ((a - 0xC000000) / 0x20000) == fn)
    || (128 * pageBytes ≤ a && a < 4096 * pageBytes && s.inGrant fn a 1)
    || (match s.partOf fn with
        | some q => q.pageFirst ≤ a / pageBytes && a / pageBytes < q.pageFirst + q.pageCount && 4096 ≤ a / pageBytes
        | none => false))

/-- Whether BAR4 serves a write of a byte: the table and pen area alone. -/
def bar4Writes (s : State) (fn a : Nat) : Bool :=
  128 * pageBytes ≤ a && a < 4096 * pageBytes && (fn == 0 || s.inGrant fn a 1)

/-- A read of `n` bytes through BAR4: zero in place of a byte that is not served. -/
def bar4Bytes (s : State) (fn a : Nat) : Nat → List Byte
  | 0 => []
  | n + 1 => (if s.bar4Reads fn a then s.fab.byte a else 0) :: bar4Bytes s fn (a + 1) n

/-- The bytes of a write through BAR4; a byte without its enable is none. The answer says whether one was ignored.
Bytes above the paddock are ignored and count with the others (R249). -/
def bar4Put (fn : Nat) : Nat → List (Option Byte) → State → Bool × State
  | _, [], s => (false, s)
  | a, none :: r, s => bar4Put fn (a + 1) r s
  | a, some b :: r, s =>
    if s.bar4Writes fn a then bar4Put fn (a + 1) r (s.inFab (·.setByte a b))
    else (true, (bar4Put fn (a + 1) r s).2)

end State

/-- FRAME_FIND (R271). -/
def execFrameFind (fn : Nat) (s : State) : Host.Outcome State Fault Refusal := .next (s.frameFind fn)

/-- BAR4_READ (R249): at most 4,096 bytes within the aperture of 128 GiB. -/
def execBar4Read (fn addr len : Nat) (s : State) : Host.Outcome State Fault Refusal :=
  .next (if len ≤ 4096 ∧ addr + len ≤ 0x2000000000 then s.emit (.bar4Reply fn (s.bar4Bytes fn addr len)) else s)

/-- BAR4_WRITE (R249): a write with an ignored byte counts once. -/
def execBar4Write (fn addr : Nat) (data : List (Option Byte)) (s : State) : Host.Outcome State Fault Refusal :=
  .next (
    if data.length ≤ 512 ∧ addr + data.length ≤ 0x2000000000 then
      let r := State.bar4Put fn addr data s
      if r.1 then r.2.tally PD_BAR4_REFUSED_TALLY_COUNT else r.2
    else s)

end Sys2Proof.Machine
end

