-- ==== Sys2Proof/Machine/Freeze.lean ====
section
/-!
DEFINITION. Freeze groups (R258–R265, R269): requests, windows and their closing, ring protection, REARM and RELEASE,
and summaries; and the completion of records (R20), which feeds the windows.
-/
namespace Sys2Proof.Machine

namespace State

def group (s : State) (g : Nat) : Group := tget (fun _ => {}) s.groups g
def setGroup (s : State) (g : Nat) (x : Group) : State := { s with groups := tset (fun _ => {}) s.groups g x }
def updGroup (s : State) (g : Nat) (f : Group → Group) : State := s.setGroup g (f (s.group g))

/-- The state of a group (R258): 0 Disarmed, 1 Armed, 2 Post, 3 Frozen. -/
def fgState (s : State) (g : Nat) : Nat := s.rd (PD_FG_STATUS_STATE g)

def fgRegion (s : State) (g : Nat) : Nat := s.rd (PD_FG_STATUS_REGION g)

/-- HELD_A or HELD_B. -/
def heldRef (g r : Nat) : FRef := if r = 0 then PD_FG_STATUS_HELD_A g else PD_FG_STATUS_HELD_B g

def fgEv (g i : Nat) (s : State) : State := s.raise (584 + 4 * g + i) 0

/-- The group changes state (R270). -/
def fgEnter (g v : Nat) (s : State) : State := fgEv g 0 (s.wr (PD_FG_STATUS_STATE g) v)

/-- The windows of a region. -/
def Group.wins (x : Group) (r : Nat) : Tab Win := if r = 0 then x.winA else x.winB

def win (s : State) (g r st : Nat) : Win := tget (fun _ => {}) (Group.wins (s.group g) r) st

/-- Slots of a window in order of exposure start. -/
def winSlots (w : Win) : List Nat := w.pre ++ w.post

def slotStart (s : State) (slot : Nat) : Time := ((s.record slot).map (·.start)).getD 0
def slotNumber (s : State) (slot : Nat) : Nat := ((s.record slot).map (·.number)).getD 0

/-- A slot enters a list kept in order of exposure start. -/
def insertSlot (s : State) (x : Nat) : List Nat → List Nat
  | [] => [x]
  | y :: r => if s.slotStart x < s.slotStart y then x :: y :: r else y :: insertSlot s x r

/-- PD_ST_WIN and the frame numbers of the stream's latest window. -/
def showWin (st : Nat) (w : Win) (s : State) : State :=
  let l := winSlots w
  let s := ((((s.wr (PD_ST_WIN_COUNT st) (satBits 16 l.length)).wrIf (PD_ST_WIN_CLIP_PRE st) w.clipPre).wrIf
    (PD_ST_WIN_CLIP_POST st) w.clipPost).wrIf (PD_ST_WIN_GRACE st) w.grace).wrIf (PD_ST_WIN_PRE_SHORT st) w.short
  (s.wrWide (PD_ST_WIN_FIRST st) 2 ((l.head?.map s.slotNumber).getD 0)).wrWide (PD_ST_WIN_LAST st) 2
    ((l.getLast?.map s.slotNumber).getD 0)

/-- A member's window of the region changes. -/
def setWin (g r st : Nat) (w : Win) (s : State) : State :=
  let s := s.updGroup g fun x =>
    if r = 0 then { x with winA := tset (fun _ => {}) x.winA st w } else { x with winB := tset (fun _ => {}) x.winB st w }
  showWin st w s

/-- A frame is held and in the window (R260). -/
def holdSlot (slot : Nat) (s : State) : State :=
  match s.record slot with
  | some r => putRecord { r with flags := r.flags ||| flagHeld, window := true } s
  | none => s

/-- The held flag clears; `leave`: bit 4 of GROUP clears too (R260, R264). -/
def unholdSlot (leave : Bool) (slot : Nat) (s : State) : State :=
  match s.record slot with
  | some r => putRecord { r with flags := if r.held then r.flags - flagHeld else r.flags,
                                 window := r.window && !leave } s
  | none => s

/-- EV(584 + 4g) + 1, once for each freeze (R262). -/
def clipEvent (g : Nat) (s : State) : State :=
  if (s.group g).clipEvent then s else fgEv g 1 (s.updGroup g fun x => { x with clipEvent := true })

/-- A clip (R261, R262). -/
def clip (g : Nat) (f : FRef) (s : State) : State :=
  let s := s.wr f 1
  let s := if (s.group g).clipped then s
    else (s.updGroup g fun x => { x with clipped := true }).tally (PD_FG_CLIP_TALLY_COUNT g)
  clipEvent g s

/-- A member's window closes (R261); `clipPost`: with CLIP_POST. -/
def closeWin (g st : Nat) (clipPost grace : Bool) (s : State) : State :=
  let r := s.fgRegion g
  let w := s.win g r st
  let s := setWin g r st { w with closed := true, clipPost := w.clipPost || clipPost, grace := w.grace || grace } s
  if clipPost then clip g (PD_FG_STATUS_CLIP_POST g) s else s

/-! Summaries (R265). -/

/-- The 32-byte entry of a member. -/
def sumEntry (s : State) (st : Nat) (w : Win) : List Byte :=
  let l := winSlots w
  leBytes 1 st ++ leBytes 1 ((if w.clipPre then 1 else 0) + (if w.clipPost then 2 else 0) + (if w.short then 4 else 0)
      + if w.grace then 8 else 0)
    ++ leBytes 2 (satBits 16 l.length) ++ leBytes 4 (l.headD 0) ++ leBytes 8 ((l.head?.map s.slotNumber).getD 0)
    ++ leBytes 8 ((l.getLast?.map s.slotNumber).getD 0) ++ leBytes 8 0

/-- The bytes of a group's summary with a STATE. -/
def sumBytes (s : State) (g state : Nat) : List Byte :=
  let x := s.group g
  let r := s.fgRegion g
  let ms := s.members g
  let ws := ms.map fun st => (st, s.win g r st)
  let flags := (if ws.any fun e => e.2.clipPre then 1 else 0) + (if ws.any fun e => e.2.clipPost then 2 else 0)
    + if x.rebuilt then 4 else 0
  let head := [0x53#8, 0x56#8, 0x46#8, 0x5A#8] ++ leBytes 1 g ++ leBytes 1 state ++ leBytes 1 r
    ++ leBytes 1 (s.rd (PD_FG_CAUSE_VALUE g)) ++ timeBytes (s.rdTime (PD_FG_T g)) ++ leBytes 4 x.pre ++ leBytes 4 x.post
    ++ leBytes 1 x.unit ++ leBytes 1 flags ++ leBytes 2 ms.length ++ leBytes 4 x.freezeNo ++ leBytes 24 0
  let body := ws.flatMap fun e => s.sumEntry e.1 e.2
  head ++ leBytes 4 (crc32c (head ++ body)).toNat ++ body

/-- Byte address of summary slot (g, r). -/
def sumAddr (g r : Nat) : Nat := 0xC000000 + 0x10000 * (2 * g + r)

def writeSummary (g state : Nat) (s : State) : State := s.setBytes (sumAddr g (s.fgRegion g)) (s.sumBytes g state)

/-- The summary packet at entry to Frozen (R265): a pen of another owner is not touched. -/
def pushSummary (g : Nat) (s : State) : State :=
  let p := s.rd (PD_FG_SUMMARY_PEN g)
  if s.rd (PD_FG_SUMMARY_ENABLE g) = 0 ∨ s.owner p ≠ s.groupOwner g then s
  else (s.penAdmit p (s.sumBytes g 3)).2

/-! Arming, REARM and RELEASE (R258, R264). -/

/-- A new burst fill (R252): ignored while the region is held. -/
def burstRearm (st : Nat) (s : State) : State :=
  let r := s.activeRegion st
  let held : Bool := match s.groupOf st with
    | some g => s.rd (heldRef g r) == 1
    | none => false
  if s.rd (PD_ST_CTRL_MODE st) != 2 || held then s
  else
    let s := ((s.frames st).filter fun v => v.region == r).foldl (fun s v => markOver v s) s
    (s.wr (PD_ST_CTRL_BURST_DONE st) 0).wr (PD_ST_WRITE_OFFSET st) 0

/-- The group enters Armed; burst members start a new fill (R252, R258). -/
def enterArmed (g : Nat) (s : State) : State :=
  let s := s.updGroup g fun x => { x with armedAt := s.now, short := [], clipEvent := false, switch := [] }
  let s := fgEnter g 1 s
  (s.members g).foldl (fun s st => burstRearm st s) s

/-- PD_FG_CMD.ARM. -/
def fgArm (g : Nat) (s : State) : State := if s.fgState g = 0 then enterArmed g s else s

/-- A member switches to the group's region, which starts empty (R264). -/
def memberSwitch (g st : Nat) (s : State) : State :=
  if !(s.group g).switch.contains st then s
  else
    let r := s.fgRegion g
    let s := s.updGroup g fun x => { x with switch := x.switch.filter (· != st) }
    let s := ((s.frames st).filter fun v => v.region == r).foldl (fun s v => markOver v s) s
    let s := ((s.wr (PD_ST_CTRL_ACTIVE_REGION st) r).wr (PD_ST_CTRL_BURST_DONE st) 0).wr (PD_ST_WRITE_OFFSET st) 0
    let s := smallCheck st (s.updStrm st fun x => { x with resync := true })
    if (s.group g).switch.isEmpty ∧ s.fgState g = 3 then enterArmed g s else s

/-- Pages `first` to `first + count − 1` lie wholly in an owner's ring pages. -/
def pagesOwned (s : State) (own first count : Nat) : Bool :=
  4096 ≤ first && first + count ≤ 49152 &&
    if own = 0 then s.part.all fun q => !q.enable || first + count ≤ q.pageFirst || q.pageFirst + q.pageCount ≤ first
    else match s.partOf own with
      | some q => q.pageFirst ≤ first && first + count ≤ q.pageFirst + q.pageCount
      | none => false

/-- Whether region B of a stream is one that REARM accepts (R264). -/
def regionBOk (s : State) (st : Nat) : Bool :=
  let first := s.rd (PD_ST_REGION_B_FIRST_PAGES st)
  let count := s.rd (PD_ST_REGION_B_PAGES_PAGES st)
  let apart (f c : Nat) : Bool := c == 0 || f + c ≤ first || first + count ≤ f
  count > 0 && s.pagesOwned (s.streamOwner st) first count
    && (List.range 97).all fun o =>
      apart (s.rd (PD_ST_REGION_A_FIRST_PAGES o)) (s.rd (PD_ST_REGION_A_PAGES_PAGES o))
        && (o == st || apart (s.rd (PD_ST_REGION_B_FIRST_PAGES o)) (s.rd (PD_ST_REGION_B_PAGES_PAGES o)))

/-- REARM (R264). -/
def fgRearm (g : Nat) (s : State) : State :=
  if s.fgState g ≠ 3 ∨ !(s.group g).switch.isEmpty then s
  else
    let o := 1 - s.fgRegion g
    let ms := s.members g
    if s.rd (heldRef g o) = 1 ∨ !(ms.all s.regionBOk) then fgEv g 3 (s.wr (PD_FG_STATUS_REARM_REFUSED g) 1)
    else
      let s := (s.wr (PD_FG_STATUS_REGION g) o).updGroup g fun x =>
        { x with switch := ms, winA := if o = 0 then [] else x.winA, winB := if o = 0 then x.winB else [] }
      if ms.isEmpty then enterArmed g s
      else ms.foldl (fun s st => if s.portUp (portOf st) then s else memberSwitch g st s) s

/-- RELEASE of region `r` (R264): its hold ends and the held flags of its frames clear. -/
def fgRelease (g r : Nat) (s : State) : State :=
  let hold := s.rd (heldRef g r) = 1
  let s := s.records.foldl (fun s e => match e.2 with
    | some x => if x.held && x.group == g && x.region == r then unholdSlot false e.1 s else s
    | none => s) s
  let s := s.updGroup g fun x => if r = 0 then { x with winA := [] } else { x with winB := [] }
  let s := s.wr (heldRef g r) 0
  if hold ∧ s.fgState g = 3 ∧ r = s.fgRegion g then enterArmed g s else s

/-- Entry to Frozen once every member has closed (R261). -/
def frozenCheck (g : Nat) (s : State) : State :=
  let r := s.fgRegion g
  if s.fgState g ≠ 2 ∨ !((s.members g).all fun st => (s.win g r st).closed) then s
  else
    let s := (s.wr (PD_FG_STATUS_STATE g) 3).wr (heldRef g r) 1
    let s := fgEv g 0 (pushSummary g (writeSummary g 3 s))
    if s.rd (PD_FG_CFG_AUTO_REARM g) = 1 then fgRearm g s else s

/-- Post ends in Frozen with every open window clipped (R258, R262). -/
def clipOpen (g : Nat) (s : State) : State :=
  let s := (s.members g).foldl (fun s st =>
    if (s.win g (s.fgRegion g) st).closed then s else closeWin g st true false s) s
  frozenCheck g s

/-- PD_FG_CMD.DISARM. -/
def fgDisarm (g : Nat) (s : State) : State :=
  if s.fgState g = 1 then fgEnter g 0 s else if s.fgState g = 2 then clipOpen g s else s

/-! Windows (R260, R261). -/

/-- A complete record of a member is weighed for the member's window. -/
def winTake (g st slot : Nat) (s : State) : State :=
  let x := s.group g
  let r := s.fgRegion g
  let w := s.win g r st
  let t := s.rdTime (PD_FG_T g)
  let e := s.slotStart slot
  if e < t then
    if x.unit = 0 then
      if e + Time.ofUs x.pre < t then s
      else holdSlot slot (setWin g r st { w with pre := s.insertSlot slot w.pre } s)
    else
      let l := s.insertSlot slot w.pre
      if l.length ≤ w.preN then holdSlot slot (setWin g r st { w with pre := l } s)
      else match l with
        | [] => s
        | first :: rest =>
          if first = slot then s
          else holdSlot slot (setWin g r st { w with pre := rest } (unholdSlot true first s))
  else if x.unit = 0 then
    if t + Time.ofUs x.post < e then closeWin g st false false s
    else holdSlot slot (setWin g r st { w with post := s.insertSlot slot w.post } s)
  else if w.post.length < w.postN then
    let w := { w with post := s.insertSlot slot w.post }
    let s := holdSlot slot (setWin g r st w s)
    if w.post.length = w.postN then closeWin g st false false s else s
  else s

/-- A record of a stream has completed while its group is in Post. -/
def winRecord (st slot : Nat) (s : State) : State :=
  let s := s.updStrm st fun x => { x with lastDone := s.now }
  match s.groupOf st, s.record slot with
  | some g, some r =>
    if s.fgState g = 2 ∧ r.region = s.fgRegion g ∧ !(s.win g (s.fgRegion g) st).closed then
      frozenCheck g (winTake g st slot s)
    else s
  | _, _ => s

/-- Complete frames of a stream's active region, in order of exposure start. -/
def completeSlots (s : State) (st : Nat) : List Nat :=
  ((s.frames st).filter fun r => r.state == 3 && r.region == s.activeRegion st).foldl
    (fun l r => s.insertSlot r.slot l) []

/-- PRE and POST of a member in frames where UNIT is 1 (R54): 0xFFFF_FFFF for both means half the ring each. -/
def winFrames (s : State) (st pre post : Nat) : Nat × Nat :=
  if pre = 0xFFFFFFFF ∧ post = 0xFFFFFFFF then
    let n := (s.region st (s.activeRegion st)).2 / s.frameLen st / 2
    (n, n)
  else (pre, post)

/-- A request is refused or lost (R259). -/
def fgLost (g : Nat) (s : State) : State :=
  fgEv g 2 ((s.tally (PD_FG_LOST_TALLY_COUNT g)).wr (PD_FG_STATUS_REFUSED g) 1)

/-- A request is applied (R259, R260). -/
def fgApply (g : Nat) (t : Time) (cause : Nat) (s : State) : State :=
  let unit := s.rd (PD_FG_CFG_UNIT g)
  let pre := s.rd (PD_FG_PRE_VALUE g)
  let post := s.rd (PD_FG_POST_VALUE g)
  let r := s.fgRegion g
  let s := ((s.wrTime (PD_FG_T g) t).wr (PD_FG_CAUSE_VALUE g) cause).tally (PD_FG_FREEZE_TALLY_COUNT g)
  let fresh := s.updGroup g fun x => { x with
    pre := pre, post := post, unit := unit, clipped := false, freezeNo := x.freezeNo + 1, rebuilt := false
    winA := if r = 0 then [] else x.winA
    winB := if r = 0 then x.winB else [] }
  let s := fgEnter g 2 fresh
  let s := (s.members g).foldl (fun (s : State) st =>
    let n := s.winFrames st pre post
    let s := setWin g r st { preN := n.1, postN := n.2, short := (s.group g).short.contains st } s
    let s := (s.completeSlots st).foldl (fun s slot =>
      if (s.win g r st).closed then s else winTake g st slot s) s
    if unit = 1 ∧ n.2 = 0 ∧ !(s.win g r st).closed then closeWin g st false false s else s) s
  frozenCheck g (writeSummary g 2 s)

/-- A request reaches a group (R259). -/
def fgRequest (g : Nat) (t : Time) (cause : Nat) (s : State) : State :=
  if s.fgState g = 1 ∧ (s.group g).armedAt ≤ t then fgApply g t cause s else fgLost g s

/-- A request held through an activation (R64, R259): the arming instant is not asked for, and a member whose ring
holds fewer frames before T than its pre window takes PRE_SHORT. -/
def fgHeld (g : Nat) (t : Time) (cause : Nat) (s : State) : State :=
  if s.fgState g ≠ 1 then fgLost g s
  else
    let pre := s.rd (PD_FG_PRE_VALUE g)
    let few (s : State) (st : Nat) : Bool :=
      let l := (s.completeSlots st).filter fun x => s.slotStart x < t
      if s.rd (PD_FG_CFG_UNIT g) = 0 then
        match l with
        | [] => pre > 0
        | x :: _ => t < s.slotStart x + Time.ofUs pre
      else l.length < (s.winFrames st pre (s.rd (PD_FG_POST_VALUE g))).1
    let short := (s.members g).filter (few s)
    let s := if short.isEmpty then s
      else clipEvent g ((s.wr (PD_FG_STATUS_PRE_SHORT g) 1).updGroup g fun x => { x with short := x.short ++ short })
    fgApply g t cause s

/-- A software freeze (R259). -/
def fgFreeze (g : Nat) (s : State) : State :=
  if s.rd (PD_FG_CFG_USE_TIME g) = 1 then
    let t := s.rdTime (PD_FG_SW_TIME g)
    if s.now < t then fgLost g s else fgRequest g t 6 s
  else fgRequest g s.now 6 s

/-- Whether freezes are held for the resume of an activation (R64). -/
def freezesHeld (s : State) : Bool := s.quiesced

/-- A request whose cause falls within an activation is held (R64). -/
def freezeAt (g : Nat) (t : Time) (cause : Nat) (s : State) : State :=
  if s.freezesHeld then
    { s with struct := { s.struct with heldFreezes := s.struct.heldFreezes ++ [⟨g, t, cause⟩] } }
  else fgRequest g t cause s

/-- Groups that a hardware source freezes: every group whose configuration names it (R54, R259). -/
def sourceFreeze (source index : Nat) (rising : Bool) (t : Time) (s : State) : State :=
  (List.range 16).foldl (fun s g =>
    let edge := s.rd (PD_FG_CFG_EDGE g)
    let fits := (source ≠ 1 && source ≠ 3) || edge == 2 || edge == (if rising then 0 else 1)
    if s.rd (PD_FG_CFG_SOURCE g) = source ∧ s.rd (PD_FG_CFG_SOURCE_INDEX g) = index ∧ fits then freezeAt g t source s
    else s) s

/-- The grace of a member ends (R261). -/
def graceEnd (g st : Nat) (s : State) : State :=
  if s.fgState g = 2 ∧ s.isMember g st ∧ !(s.win g (s.fgRegion g) st).closed then
    frozenCheck g (closeWin g st true true s)
  else s

/-- A write of PD_FG_CMD (R269): ARM, then the freeze, then DISARM; REARM, then RELEASE. -/
def fgCmd (g : Nat) (w : Word) (s : State) : State :=
  let s := if bitsOf w 31 31 = 1 then fgArm g s else s
  let s := if bitsOf w 29 29 = 1 then
      if s.freezesHeld then freezeAt g (if s.rd (PD_FG_CFG_USE_TIME g) = 1 then s.rdTime (PD_FG_SW_TIME g) else s.now) 6 s
      else fgFreeze g s
    else s
  let s := if bitsOf w 30 30 = 1 then fgDisarm g s else s
  let s := if bitsOf w 28 28 = 1 then fgRearm g s else s
  if bitsOf w 27 27 = 1 then fgRelease g (bitsOf w 0 0) s else s

/-- A write of PD_FG_CFG, PRE or POST (R269, R271): ignored outside Disarmed. -/
def fgConfig (fn g key : Nat) (w : Word) (s : State) : State :=
  if s.fgState g ≠ 0 then s.wr (PD_FG_STATUS_CFG_REFUSED g) 1
  else if key ≠ PD_FG_CFG g ∧ w.toNat > (if s.rd (PD_FG_CFG_UNIT g) = 1 then 16777215 else 100000000)
      ∧ w ≠ 0xFFFFFFFF#32 then s.accErr fn
  else putWord fn key w s

/-! Ring protection (R262). -/

/-- While Armed: whether overwriting a frame cuts into the history that a freeze may still ask for. -/
def recentFrame (s : State) (g : Nat) (v : Rec) : Bool :=
  let late := Time.ofUs (s.rd (PD_FG_LATE_VALUE g))
  let pre := s.rd (PD_FG_PRE_VALUE g)
  if s.rd (PD_FG_CFG_UNIT g) = 0 then s.now ≤ v.start + Time.ofUs pre + late
  else
    let all := (s.frames v.stream).filter fun r => r.region == s.activeRegion v.stream
    let extra := (all.filter fun r => s.now ≤ r.start + late).length
    let newer := (all.filter fun r => v.start < r.start || (v.start == r.start && v.number < r.number)).length
    newer < (s.winFrames v.stream pre (s.rd (PD_FG_POST_VALUE g))).1 + extra

/-- A ring member is about to overwrite `vs`: the answer says whether the new frame may be written (R262). -/
def mayOverwrite (st : Nat) (vs : List Rec) (s : State) : Bool × State :=
  match s.groupOf st with
  | none => (true, s)
  | some g =>
    if s.fgState g = 1 then
      if vs.any (s.recentFrame g) then
        let s := (s.updGroup g fun x => if x.short.contains st then x else { x with short := x.short ++ [st] }).wr
          (PD_FG_STATUS_PRE_SHORT g) 1
        (true, clipEvent g (s.wr (PD_ST_WIN_PRE_SHORT st) 1))
      else (true, s)
    else if s.fgState g = 2 then
      let r := s.fgRegion g
      let w := s.win g r st
      let hits (l : List Nat) : Bool := vs.any fun v => l.contains v.slot
      if w.closed then
        if hits (winSlots w) then (false, s.tally (PD_ST_DISCARD_TALLY_COUNT st)) else (true, s)
      else if hits w.post then (false, frozenCheck g (closeWin g st true false s))
      else if hits w.pre then
        let gone := w.pre.filter fun x => vs.any fun v => v.slot == x
        let s := setWin g r st { w with pre := w.pre.filter fun x => !gone.contains x, clipPre := true } s
        (true, clip g (PD_FG_STATUS_CLIP_PRE g) (gone.foldl (fun s x => unholdSlot true x s) s))
      else (true, s)
    else (true, s)

/-! Flows of the network, as a record's completion meets them (R445). -/

def flow (s : State) (f : Nat) : Flow := tget (fun _ => {}) s.net.flows f
def setFlow (s : State) (f : Nat) (x : Flow) : State :=
  { s with net := { s.net with flows := tset (fun _ => {}) s.net.flows f x } }
def updFlow (s : State) (f : Nat) (g : Flow → Flow) : State := s.setFlow f (g (s.flow f))

/-- NF_CTRL of a flow as it governs now: a write while the flow is mid-frame waits (R459). -/
def flowCtrl (s : State) (f : Nat) : Word := (s.flow f).inForce.getD (s.rw (NF_CTRL f))

def flowOn (s : State) (f : Nat) : Bool := bitsOf (s.flowCtrl f) 31 31 == 1
def flowMode (s : State) (f : Nat) : Nat := bitsOf (s.flowCtrl f) 29 28
def flowStream (s : State) (f : Nat) : Nat := bitsOf (s.flowCtrl f) 6 0

/-- Insert a record into the records that wait in Push, in frame order. -/
def insertReady (s : State) (x : Nat × Nat) : List (Nat × Nat) → List (Nat × Nat)
  | [] => [x]
  | y :: r => if s.slotNumber x.1 < s.slotNumber y.1 then x :: y :: r else y :: insertReady s x r

/-- A record is complete: every flow that pushes its stream has the frame to send (R445). -/
def flowReady (r : Rec) (s : State) : State :=
  (List.range 64).foldl (fun (s : State) f =>
    if s.flowOn f ∧ s.flowMode f = 1 ∧ s.flowStream f = r.stream then
      s.updFlow f fun x => { x with ready := s.insertReady (r.slot, r.seq) x.ready }
    else s) s

/-! Completion (R20, R256, R257). -/

/-- A record reaches STATE 3; `late`: with TAG_LATE incremented (R20). -/
def completeRecord (slot : Nat) (late : Bool) (s : State) : State :=
  match s.record slot with
  | none => s
  | some r =>
    let f := fillTags { r with state := 3, tagLate := r.tagLate + if late then 1 else 0 } s
    let s := winRecord r.stream slot (putRecord f.1 f.2)
    let s := match s.record slot with
      | some r => flowReady r (offer r s)
      | none => s
    if s.firstRecord then s else ({ s with firstRecord := true }.milestone 6).raise 915 r.stream

end State

/-- RECORD_COMPLETE (R20): a closed record whose exposure midpoint the tag history covers. -/
def execRecordComplete (slot : Nat) (s : State) : Host.Outcome State Fault Refusal :=
  .next (match s.record slot with
    | some r => if r.state = 2 ∧ s.tagsCover r.mid then s.completeRecord slot false else s
    | none => s)

/-- RECORD_TAG_TIMEOUT (R20): the end of the eighth tick after exposure end. -/
def execRecordTagTimeout (slot : Nat) (s : State) : Host.Outcome State Fault Refusal :=
  .next (match s.record slot with
    | some r => if r.state = 2 then s.completeRecord slot true else s
    | none => s)

/-- Whether a function may command a group (R271). -/
def State.mayGroup (s : State) (fn g : Nat) : Bool := fn == 0 || s.groupOwner g == fn

/-- FG_ARM (R258). -/
def execFgArm (fn g : Nat) (s : State) : Host.Outcome State Fault Refusal :=
  .next (if s.mayGroup fn g then s.fgArm g else s)

/-- FG_DISARM (R258). -/
def execFgDisarm (fn g : Nat) (s : State) : Host.Outcome State Fault Refusal :=
  .next (if s.mayGroup fn g then s.fgDisarm g else s)

/-- FG_FREEZE (R259). -/
def execFgFreeze (fn g : Nat) (s : State) : Host.Outcome State Fault Refusal :=
  .next (if s.mayGroup fn g then s.fgCmd g 0x20000000#32 else s)

/-- FG_REARM (R264). -/
def execFgRearm (fn g : Nat) (s : State) : Host.Outcome State Fault Refusal :=
  .next (if s.mayGroup fn g then s.fgRearm g else s)

/-- FG_RELEASE (R264). -/
def execFgRelease (fn g r : Nat) (s : State) : Host.Outcome State Fault Refusal :=
  .next (if s.mayGroup fn g then s.fgRelease g r else s)

/-- FREEZE_REQUEST (R259): the request of a hardware source (1 to 5) or of the network (7), with its time. -/
def execFreezeRequest (g cause : Nat) (time : Nat) (s : State) : Host.Outcome State Fault Refusal :=
  .next (s.freezeAt g time cause)

/-- WINDOW_GRACE_EXPIRE (R261). -/
def execWindowGraceExpire (g st : Nat) (s : State) : Host.Outcome State Fault Refusal := .next (s.graceEnd g st)

/-- BURST_REARM (R252). -/
def execBurstRearm (fn st : Nat) (s : State) : Host.Outcome State Fault Refusal :=
  .next (if fn = 0 ∨ s.streamOwner st = fn then s.burstRearm st else s)

end Sys2Proof.Machine
end

