-- ==== Sys2Proof/Machine/Folds.lean ====
section
/-!
DEFINITION. The pixel folds at work (R185–R224, R233–R247): shadow banks and commits, units, processing, taps and
trailers, statistics records, the scheduler and its moves, and the fold block reset.
-/
namespace Sys2Proof.Machine

/-- BAR0 offset of a fold's header (R213). -/
def foldHead (f : Nat) : Nat := 0x400000 + 0x20000 * f

namespace State

def ctx (s : State) (k : Nat) : Ctx := tget (fun _ => {}) s.ctxs k
def setCtx (s : State) (k : Nat) (x : Ctx) : State := { s with ctxs := tset (fun _ => {}) s.ctxs k x }
def updCtx (s : State) (k : Nat) (g : Ctx → Ctx) : State := s.setCtx k (g (s.ctx k))
def fold (s : State) (f : Nat) : FoldRun := tget (fun _ => {}) s.folds f
def setFold (s : State) (f : Nat) (x : FoldRun) : State := { s with folds := tset (fun _ => {}) s.folds f x }

/-- Number of a context among all: 256 × fold + context. -/
def ctxKey (h : Nat × Nat) : Nat := 256 * h.1 + h.2

def foldEv (f i : Nat) (s : State) : State := s.raise (328 + 8 * f + i) 0

/-- The format of a stream as its port agreed it. -/
def streamFormat (s : State) (st : Nat) : Option PixelFormat :=
  pixelFormat (s.rd (ST_FORMAT_VALUE (portOf st) (st % 4)))

def streamWidth (s : State) (st : Nat) : Nat := s.rd (ST_GEOMETRY_WIDTH (portOf st) (st % 4))
def streamHeight (s : State) (st : Nat) : Nat := s.rd (ST_GEOMETRY_HEIGHT (portOf st) (st % 4))

/-- Whether a fold is one of a joined pair (R51). -/
def foldJoined (s : State) (f : Nat) : Bool :=
  match s.struct.image with
  | some im => im.folds.any fun e => e.join != 255 && (e.fold == f || e.join == f)
  | none => false

/-- The capacity of a fold at its throttle step (R206). -/
def foldCapacity (s : State) (f : Nat) : Nat :=
  2500 * (8 - s.rd (FX_STATUS_THROTTLE f)) * if s.foldJoined f then 2 else 1

/-! Validation (R208, R216). -/

/-- The end of pages 0 to 4,095. -/
def areaEnd : Nat := 4096 * pageBytes

/-- The REJECT code of a shadow bank for a stream of the given geometry (R208, R216). -/
def bankCheck (bk : Bank) (fmt width height : Nat) (penOk : Nat → Bool) : Nat :=
  match pixelFormat fmt, pixelFormat bk.outFormat with
  | some f, some o =>
    let b := f.bayer
    let fac := geomFactor bk
    let pl := stepOf b
    if o.bayer ≠ b then 1
    else if width < bk.x0 + bk.cw ∨ height < bk.y0 + bk.ch ∨ (b ∧ (bk.x0 % 2 = 1 ∨ bk.y0 % 2 = 1)) then 2
    else if (bk.bin ≠ 0 ∧ bk.decim ≠ 0) ∨ bk.bin = 3 ∨ bk.decim = 3 ∨ bk.cw % (8 * fac) ≠ 0 ∨ bk.ch % (pl * fac) ≠ 0 then 3
    else if bk.mirrorV ∧ bk.stripe then 4
    else if bk.shading ∧ (bk.nx < 2 ∨ bk.nx > 129 ∨ bk.ny < 2 ∨ bk.ny > 129 ∨ bk.sx < 3 ∨ bk.sx > 10 ∨ bk.sy < 3
        ∨ bk.sy > 10 ∨ (bk.nx - 1) * 2 ^ bk.sx + 1 < width / pl ∨ (bk.ny - 1) * 2 ^ bk.sy + 1 < height / pl) then 5
    else if (bk.col ∧ bk.colAddr + 2 * width > areaEnd)
        ∨ (bk.defect ∧ (bk.defectCount > 1048576 ∨ bk.defectAddr + 8 * bk.defectCount > areaEnd))
        ∨ (bk.shading ∧ bk.meshAddr + 2 * planesOf b * bk.nx * bk.ny > areaEnd) then 6
    else if bk.tapA > 4 ∨ (bk.tapB ≠ 7 ∧ (bk.tapB > 4 ∨ bk.tapB = bk.tapA)) ∨ !(penOk bk.penA)
        ∨ (bk.tapB ≠ 7 ∧ !(penOk bk.penB)) then 7
    else if bk.stripe ∧ (bk.lines < 16 ∨ bk.lines > 1024 ∨ bk.lines % 8 ≠ 0 ∨ bk.y0 % 8 ≠ 0) then 8
    else if bk.dark ∧ (bk.darkRows < 1 ∨ bk.darkRows > 64 ∨ height < bk.darkFirst + bk.darkRows ∨ bk.k > 8) then 9
    else if bk.zx < 1 ∨ bk.zx > 32 ∨ bk.zy < 1 ∨ bk.zy > 32 ∨ width < bk.zoneX0 + bk.zx * bk.zw
        ∨ height < bk.zoneY0 + bk.zy * bk.zh ∨ (b ∧ (bk.zw % 2 = 1 ∨ bk.zh % 2 = 1)) then 11
    else if bk.winAddr + 8 * bk.winCount > areaEnd ∨ bk.winCount < 1 ∨ bk.winCount > 64 ∨ (!b ∧ bk.focusPlane > 0)
        ∨ bk.focusOp > 1 then 12
    else if (bk.frameEn ∨ bk.focusEn) ∧ !(penOk bk.statPen) then 13
    else 0
  | _, _ => 1

/-- FXC_COMMIT.REQ (R208); CODER needs the coders domain (R485). -/
def contextReq (f c : Nat) (s : State) : State :=
  let st := s.rd (FXC_STATUS_STREAM f c)
  let bk := bankAt s.fab f c 0
  let bad := bankCheck bk (s.rd (ST_FORMAT_VALUE (portOf st) (st % 4))) (s.streamWidth st) (s.streamHeight st)
    fun p => s.owner p == s.streamOwner st
  let code := if st = 127 then 10 else if bad = 0 ∧ bk.coder ∧ s.rd GLB_PWR_STATUS_CODERS = 0 then 14 else bad
  let s := s.wr (FXC_COMMIT_REJECT f c) code
  if code = 0 then s.wr (FXC_COMMIT_PENDING f c) 1 else foldEv f 1 s

/-- FXC_COMMIT.CANCEL (R210). -/
def contextCancel (f c : Nat) (s : State) : State := s.wr (FXC_COMMIT_PENDING f c) 0

/-! Histories and their registers (R192, R243, R244). -/

/-- The dark filter has no history: F_c is 256 × GLOBAL (R192). -/
def clearDark (f c glob : Nat) (s : State) : State :=
  let s := s.updCtx (ctxKey (f, c)) fun x => { x with dark := none }
  (List.range 4).foldl (fun s i => s.wr (FXC_DARK_STATE_F f c i) (256 * glob)) (s.wr (FXC_STATUS_DARK_NOHIST f c) 1)

/-- CX_STATUS follows the encoder's history. -/
def coderShow (f c : Nat) (s : State) : State :=
  let k := ctxKey (f, c)
  let h := (s.ctx k).coder
  (s.wrIf (CX_STATUS_NOHIST k) h.isNone).wr (CX_STATUS_K_NEXT k) (chooseK h)

def clearCoder (f c : Nat) (s : State) : State :=
  coderShow f c (s.updCtx (ctxKey (f, c)) fun x => { x with coder := none })

/-- RETIRING: a frame of an earlier generation is still in the fold (R209). -/
def retiring (s : State) (k : Nat) : Bool := (s.ctx k).jobs.any fun j => j.cgen != (s.ctx k).gen

def showRetiring (f c : Nat) (s : State) : State := s.wrIf (FXC_COMMIT_RETIRING f c) (s.retiring (ctxKey (f, c)))

/-! The start of frame (R207, R209, R246). -/

/-- Both halves of the banks of one context go to another (R207). -/
def copyBanks (a b : Nat × Nat) (s : State) : State :=
  (List.range 32).foldl (fun s i =>
    (s.ww (FXB_OUT_FORMAT b.1 b.2 0 + 4 * i) (s.rw (FXB_OUT_FORMAT a.1 a.2 0 + 4 * i))).ww
      (FXS_CTRL b.1 b.2 0 + 4 * i) (s.rw (FXS_CTRL a.1 a.2 0 + 4 * i))) s

/-- A decided move or return takes effect (R207). -/
def applyMove (h : Nat × Nat) (st : Nat) (s : State) : State :=
  let k := ctxKey h
  match (s.ctx k).move with
  | none => s
  | some dest =>
    let s := match (s.ctx k).guest with
      | some g => ((s.wr (FXC_STATUS_GUEST g.1 g.2) 0).wr (FXC_STATUS_STREAM g.1 g.2) 127).wr (FX_STATUS_CONTEXTS g.1)
          (s.rd (FX_STATUS_CONTEXTS g.1) - 1)
      | none => s
    let s := match dest with
      | some g => copyBanks h g (((s.wr (FXC_STATUS_GUEST g.1 g.2) 1).wr (FXC_STATUS_STREAM g.1 g.2) st).wr
          (FX_STATUS_CONTEXTS g.1) (s.rd (FX_STATUS_CONTEXTS g.1) + 1))
      | none => s
    let s := s.updCtx k fun x => { x with
      move := none, guest := dest, clearCoder := true, arrivals := [], since := s.now }
    let s := s.wr (FXC_STATUS_SERVING h.1 h.2) ((dest.map (·.1)).getD h.1)
    foldEv h.1 5 (s.tally (FX_MOVE_TALLY_COUNT h.1))

/-- Whether a bank swap ends the dark history (R192). -/
def endsDark (a b : Bank) : Bool :=
  a.darkFirst != b.darkFirst || a.darkRows != b.darkRows || a.k != b.k || a.global != b.global
    || a.outFormat != b.outFormat || a.dark != b.dark

/-- Whether a bank swap ends the encoder's history (R244). -/
def endsCoder (a b : Bank) : Bool := a.outFormat != b.outFormat || (b.coder && !a.coder)

/-- The shadow bank becomes active (R209); the control plane publishes the generation in the next tick (R21). -/
def swapBanks (h : Nat × Nat) (st : Nat) (s : State) : State :=
  let k := ctxKey h
  let old := bankAt s.fab h.1 h.2 1
  let s := (List.range 16).foldl (fun s i =>
    (s.ww (FXB_OUT_FORMAT h.1 h.2 1 + 4 * i) (s.rw (FXB_OUT_FORMAT h.1 h.2 0 + 4 * i))).ww (FXS_CTRL h.1 h.2 1 + 4 * i)
      (s.rw (FXS_CTRL h.1 h.2 0 + 4 * i))) s
  let new := bankAt s.fab h.1 h.2 1
  let s := match (s.ctx k).guest with
    | some g => copyBanks h g s
    | none => s
  let s := s.updCtx k fun x =>
    let gen := (x.gen + 1) % 65536
    { x with gen := gen, taken := true, publish := x.publish ++ [(gen, false)], clearDark := x.clearDark || endsDark old new,
             clearCoder := x.clearCoder || endsCoder old new }
  let s := s.wr (FXC_COMMIT_PENDING h.1 h.2) 0
  if s.bw.commits.contains st then s else { s with bw := { s.bw with commits := s.bw.commits ++ [st] } }

/-- What a stream's start of frame does to its context: moves, CX_CTRL, the swap, and histories that end. -/
def contextSof (st : Nat) (s : State) : State :=
  match s.homeOf st with
  | none => s
  | some h =>
    let k := ctxKey h
    let s := applyMove h st s
    let x := s.ctx k
    let s := if x.coderWritten then s.setCtx k
        { x with coderWritten := false, restart := s.rd (CX_CTRL_RESTART k), clearCoder := true } else s
    let s := if s.rd (FXC_COMMIT_PENDING h.1 h.2) = 1 ∧ !s.retiring k then swapBanks h st s else s
    if (s.ctx k).jobs.isEmpty then
      let x := s.ctx k
      let s := if x.clearDark then clearDark h.1 h.2 (bankAt s.fab h.1 h.2 1).global s else s
      let s := if x.clearCoder then clearCoder h.1 h.2 s else s
      s.updCtx k fun x => { x with clearDark := false, clearCoder := false }
    else s

/-- An accepted frame enters its context, to be processed with the bank active now (R209). -/
def addJob (r : Rec) (s : State) : State :=
  match s.homeOf r.stream with
  | none => s
  | some h =>
    let k := ctxKey h
    let x := s.ctx k
    let at_ := x.guest.getD h
    let j : Job := {
      slot := r.slot, seq := r.seq, stream := r.stream, fold := at_.1, ctx := at_.2, bank := bankAt s.fab h.1 h.2 1,
      cgen := x.gen, restart := x.restart, clearDark := x.clearDark, clearCoder := x.clearCoder }
    showRetiring h.1 h.2 (s.setCtx k { x with jobs := x.jobs ++ [j], clearDark := false, clearCoder := false })

/-- Pixels that arrive are counted over 10 ms (R204). -/
def countArrival (st pixels : Nat) (s : State) : State :=
  match s.homeOf st with
  | none => s
  | some h =>
    let now := s.now
    s.updCtx (ctxKey h) fun x => { x with
      arrivals := (now, pixels) :: x.arrivals.filter fun e => now < e.1 + Time.ofMs 10 }

/-- The record a job works on, while its slot still holds it. -/
def jobRecord (s : State) (j : Job) : Option Rec :=
  match s.record j.slot with
  | some r => if r.seq = j.seq && r.stream = j.stream then some r else none
  | none => none

def jobIntact (s : State) (j : Job) : Bool :=
  match s.jobRecord j with
  | some r => !r.overwritten
  | none => false

/-! Units (R186, R205). -/

/-- The next unit of a job and whether it is the last, once it is ready. -/
def nextUnit (s : State) (j : Job) : Option (Nat × Nat × Bool) :=
  match s.jobRecord j with
  | none => none
  | some r =>
    let n := if j.bank.stripe then min j.bank.lines (r.height - j.readyTo) else r.height
    let last := r.height ≤ j.readyTo + n
    if j.lastReady then none
    else if 2 ≤ r.state ∨ (j.bank.stripe ∧ min r.height (j.readyTo + n + 2) ≤ r.lines) then some (j.readyTo, n, last)
    else none

def mapJobs (k : Nat) (p : Job → Bool) (g : Job → Job) (s : State) : State :=
  s.updCtx k fun x => { x with jobs := x.jobs.map fun j => if p j then g j else j }

/-- Whether a context has a unit that waits or runs. -/
def backlog (s : State) (k : Nat) : Bool :=
  ((s.ctx k).jobs.any fun j => !j.ready.isEmpty) || (List.range 8).any fun f =>
    match (s.fold f).unit with
    | some u => u.1 == k
    | none => false

/-- UNIT_READY: the first unit of a stream that the rule of R186 makes ready; one that finds an earlier unit of the
context unfinished is late (R205). -/
def unitReady (st : Nat) (s : State) : State :=
  match s.homeOf st with
  | none => s
  | some h =>
    let k := ctxKey h
    match (s.ctx k).jobs.find? fun j => (s.nextUnit j).isSome with
    | none => s
    | some j =>
      match s.nextUnit j with
      | none => s
      | some (y, n, last) =>
        let late := s.backlog k
        let s := mapJobs k (fun i => i.slot == j.slot && i.seq == j.seq)
          (fun i => { i with ready := i.ready ++ [(y, n)], readyTo := y + n, lastReady := last }) s
        if late then
          foldEv j.fold 2 (((s.wr (FXC_STATUS_LATE h.1 h.2) 1).tally (FXC_LATE_TALLY_COUNT h.1 h.2)).tally
            (FX_LATE_TALLY_COUNT j.fold))
        else s

/-- LATE falls when the context's backlog is empty (R205). -/
def lateOff (h : Nat × Nat) (s : State) : State :=
  if s.backlog (ctxKey h) then s else s.wr (FXC_STATUS_LATE h.1 h.2) 0

/-! Load (R204, R206). -/

/-- FXC_MEASURED of a home context: pixels that arrived over the last 10 ms, or the time elapsed (R204, R211). -/
def measured (s : State) (k : Nat) : Nat :=
  let x := s.ctx k
  let w := min (Time.ofMs 10) (s.now - x.since)
  if w = 0 then 0
  else 65536000 * ((x.arrivals.filter fun e => s.now < e.1 + Time.ofMs 10).map (·.2)).sum / w

/-- The due rate of a context (R204). -/
def dueRate (s : State) (h : Nat × Nat) : Nat := max (s.rd (FXC_DUE_VALUE h.1 h.2)) (s.measured (ctxKey h))

/-- Home contexts in use, each with its stream. -/
def homes (s : State) : List (Nat × Nat) := s.streams.map fun e => (e.fold, e.context)

/-- The fold that serves a context, a decided move counted as made. -/
def servedBy (s : State) (h : Nat × Nat) : Nat :=
  let x := s.ctx (ctxKey h)
  match x.move with
  | some dest => (dest.map (·.1)).getD h.1
  | none => (x.guest.map (·.1)).getD h.1

/-- The sum of the due rates a fold serves (R207). -/
def foldLoad (s : State) (f : Nat) : Nat := ((s.homes.filter fun h => s.servedBy h == f).map s.dueRate).sum

/-! The scheduler's choice (R204). -/

/-- Whether the first candidate (served, due, context) goes before the second: the smallest quotient of pixels served
and due rate; a due rate of 0 last; ties to the lowest context number. -/
def goesBefore (a b : Nat × Nat × Nat) : Bool :=
  if a.2.1 = 0 ∧ b.2.1 = 0 then a.2.2 < b.2.2
  else if a.2.1 = 0 then false
  else if b.2.1 = 0 then true
  else if a.1 * b.2.1 = b.1 * a.2.1 then a.2.2 < b.2.2
  else a.1 * b.2.1 < b.1 * a.2.1

/-- The home context and first ready job of a fold's next unit. -/
def pickUnit (s : State) (f : Nat) : Option ((Nat × Nat) × Job) :=
  let cands := s.homes.filterMap fun h =>
    ((s.ctx (ctxKey h)).jobs.find? fun j => j.fold == f && !j.ready.isEmpty).map fun j =>
      (h, j, ((s.ctx (ctxKey h)).served, s.dueRate h, j.ctx))
  (cands.foldl (fun (a : Option ((Nat × Nat) × Job × (Nat × Nat × Nat))) x => match a with
    | none => some x
    | some y => if goesBefore x.2.2 y.2.2 then some x else some y) none).map fun x => (x.1, x.2.1)

/-! Output words. -/

/-- The words of one packet. -/
def packetWords (pen : Nat) (data : List Byte) : List OutWord :=
  let ws := penWords (data.length / 64 + 1) data
  mapIdxFrom (fun i w => { pen := pen, data := w, last := i + 1 == ws.length }) 0 ws

/-- The trailer packet of a tap (R201). -/
def trailer (r : Rec) (j : Job) (tap pen lines : Nat) (abandoned : Bool) : List OutWord :=
  let wide := tap < 4
  let f := geomFactor j.bank
  let flags := r.flags % 16 + (if !wide && j.bank.coder then 16 else 0) + (if j.bank.mirrorV then 32 else 0)
    + (if abandoned then 64 else 0) + if j.nohist then 128 else 0
  packetWords pen ([0x46#8, 0x54#8, 0x41#8, 0x50#8] ++ leBytes 1 tap ++ leBytes 1 r.stream ++ leBytes 1 j.fold
    ++ leBytes 1 flags ++ leBytes 8 r.number ++ leBytes 2 (if wide then r.width else j.bank.cw / f)
    ++ leBytes 2 (if wide then r.height else j.bank.ch / f)
    ++ leBytes 4 (if wide then wideFormat r.format else j.bank.outFormat) ++ leBytes 2 j.cgen ++ leBytes 2 0
    ++ leBytes 4 lines ++ leBytes 32 0)

/-- The trailers of both taps (R200). -/
def trailers (r : Rec) (j : Job) (abandoned : Bool) : List OutWord :=
  trailer r j j.bank.tapA j.bank.penA j.linesA abandoned
    ++ if j.bank.tapB = 7 then [] else trailer r j j.bank.tapB j.bank.penB j.linesB abandoned

/-! Statistics records (R217–R224). -/

/-- The 64-byte header of a record (R217). -/
def statHeader (s : State) (r : Rec) (j : Job) (focus abandoned : Bool) (bodyLen : Nat) : List Byte :=
  let bayer := match pixelFormat r.format with
    | some f => f.bayer
    | none => false
  let b (m : Nat) (c : Bool) : Nat := if c then m else 0
  (if focus then [0x46#8, 0x46#8, 0x4F#8, 0x43#8] else [0x46#8, 0x53#8, 0x54#8, 0x41#8])
    ++ leBytes 1 (b 1 focus) ++ leBytes 1 r.stream ++ leBytes 1 j.fold
    ++ leBytes 1 (r.flags % 16 + b 16 abandoned + b 32 (r.flags.testBit 6) + b 64 (r.flags.testBit 8) + b 128 j.bank.stripe)
    ++ leBytes 8 r.number ++ leBytes 2 r.egen ++ leBytes 2 j.cgen
    ++ leBytes 6 s.now.sec ++ leBytes 4 s.now.ns ++ leBytes 2 s.now.frac
    ++ leBytes 1 (planesOf bayer) ++ leBytes 1 (if focus then j.bank.winCount else j.bank.zx)
    ++ leBytes 1 (if focus then 0 else j.bank.zy) ++ leBytes 1 0 ++ leBytes 4 bodyLen ++ leBytes 4 j.lines3.length
    ++ leBytes 20 0

/-- One record goes to the statistics pen, whole or not at all (R218, R224). -/
def emitStat (h : Nat × Nat) (r : Rec) (j : Job) (focus abandoned : Bool) (body : List Byte) (s : State) : State :=
  let a := s.penAdmit j.bank.statPen (s.statHeader r j focus abandoned body.length ++ body)
  if a.1 then (a.2.wrWide (FXS_LAST_FRAME h.1 h.2) 2 r.number).tally (FXS_RECORD_TALLY_COUNT h.1 h.2)
  else a.2.tally (FXS_DROP_TALLY_COUNT h.1 h.2)

/-- The statistics of a frame that ends or is abandoned; frame statistics come first (R218). -/
def emitStats (h : Nat × Nat) (r : Rec) (j : Job) (abandoned : Bool) (s : State) : State :=
  match pixelFormat r.format with
  | none => s
  | some f =>
    let s := if j.bank.frameEn then emitStat h r j false abandoned (frameBody j.bank f j.lines3) s else s
    if j.bank.focusEn then
      let s := s.tally (FXS_SAT_TALLY_COUNT h.1 h.2) (j.focus.filter fun e => 2 ^ 48 ≤ e.1).length
      emitStat h r j true abandoned ((List.range j.bank.winCount).flatMap fun i => focusEntry (j.focus.getD i (0, 0))) s
    else s

/-! Processing of a unit (R187–R203). -/

/-- Bytes of a region of `size` bytes from `base`, at an offset that wraps. -/
def ringBytes (s : State) (base size off : Nat) : Nat → List Byte
  | 0 => []
  | n + 1 => s.fab.byte (base + off % size) :: ringBytes s base size (off + 1) n

/-- Line `y` of a frame as it lies in the paddock. -/
def rawLine (s : State) (r : Rec) (bits y : Nat) : List Byte :=
  s.ringBytes r.base r.size (r.offset + y * r.stride) (lineBytes r.width bits)

/-- `n` little-endian numbers of `w` bytes in the paddock. -/
def tableAt (s : State) (addr w n : Nat) : List Nat :=
  (List.range n).map fun i => leNat (s.fab.bytes (addr + w * i) w)

/-- The 64 KiB tail slot of a context (R203, R248). -/
def tailAddr (f c : Nat) : Nat := 0x4000000 + 0x10000 * (256 * f + c)

/-- What processing a unit reads of tables: column entries, the map in order, order errors, and mesh gains. -/
structure Tables where
  cols : List Nat
  map : List Defect
  order : Nat
  mesh : List Nat

def readTables (s : State) (bk : Bank) (width planes : Nat) : Tables :=
  let m := if bk.defect then orderMap none ((s.tableAt bk.defectAddr 8 bk.defectCount).map defectOf) else ([], 0)
  { cols := if bk.col then s.tableAt bk.colAddr 2 width else []
    map := m.1
    order := m.2
    mesh := if bk.shading then s.tableAt bk.meshAddr 2 (planes * bk.nx * bk.ny) else [] }

/-- Rows with their counts, from row `y`. -/
def stageRows (g : Nat → Line → Line × Counts) (y : Nat) (rows : List Line) : List Line × Counts :=
  (mapIdxFrom (fun i l => g (y + i) l) 0 rows).foldr (fun x a => (x.1 :: a.1, x.2.add a.2)) ([], {})

/-- The coded lines of a unit: bytes, and what the coder leaves. -/
structure CodedRun where
  packets : List (List Byte) := []
  hist : CoderHist := none
  raw : Nat := 0
  escapes : Nat := 0
  out : Nat := 0
  above : List Line := []

/-- Code a unit's output lines (R234–R243); `seg` is the number of the unit's first output line. -/
def codeLines (bo s : Nat) (bayer desc stripe : Bool) (restart total seg : Nat) : List Line → CodedRun → CodedRun
  | [], a => a
  | l :: r, a =>
    let n := a.out
    let again := n < s || (stripe && n < seg + s) || (restart > 0 && n % (8 * restart) < s)
    let up := if again then none else a.above[s - 1]?
    let c := encodeLine a.hist bo s n (n == 0) (n + 1 == total) desc bayer up l
    codeLines bo s bayer desc stripe restart total seg r
      { packets := a.packets ++ [c.1], hist := c.2.hist, raw := a.raw + c.2.raw, escapes := a.escapes + c.2.escapes,
        out := n + 1, above := (l :: a.above).take 2 }

/-- The dark filter's new states from a frame's sums (R191). A plane without a dark pixel has no stated level. -/
def darkStates (k : Nat) : List Nat → List (Int × Nat) → State → List Nat × State
  | o :: os, e :: es, s =>
    let v := if e.2 = 0 then
        let d := s.draw
        ((Config.emptyDark d.1).toNat, d.2)
      else (darkUpdate k o e.1 e.2, s)
    let r := darkStates k os es v.2
    (v.1 :: r.1, r.2)
  | _, _, s => ([], s)

/-- A unit is processed: what the job becomes, the line packets of its taps, and the state. -/
def processUnit (h : Nat × Nat) (r : Rec) (f : PixelFormat) (y n : Nat) (j : Job) (s : State) :
    Job × List OutWord × State :=
  let bk := j.bank
  let k := ctxKey h
  let planes := planesOf f.bayer
  -- the frame begins: its histories, and the dark state it is corrected with
  let s := if j.begun then s else
    let s := if j.clearDark then clearDark h.1 h.2 bk.global s else s
    if j.clearCoder then clearCoder h.1 h.2 s else s
  let j := if j.begun then j else { j with
    begun := true, nohist := (s.ctx k).dark.isNone
    dark := (s.ctx k).dark.getD (List.replicate planes (256 * bk.global))
    sums := List.replicate planes (0, 0), focus := List.replicate bk.winCount (0, 0) }
  let t := s.readTables bk r.width planes
  let s := if t.order > 0 ∧ !j.mapError then
      foldEv j.fold 7 (s.tally (FXC_MAP_ORDER_TALLY_COUNT h.1 h.2) t.order) else s
  -- stages 0 and 1, with the rows above and below the unit
  let own := stageRows (fun y _ => unpackRow f r.width (s.rawLine r f.bits y)) y (List.replicate n [])
  let black := blackRow bk f t.cols j.nohist j.dark
  let one := stageRows black y own.1
  let above := if y = 0 then [] else
    (List.range 2).map fun i => s.tableAt (tailAddr j.fold j.ctx + 2 * r.width * i) 2 r.width
  let lowN := min 2 (r.height - (y + n))
  let below := (stageRows (fun y _ => black y (unpackRow f r.width (s.rawLine r f.bits y)).1) (y + n)
    (List.replicate lowN [])).1
  let band : Band := ⟨y - above.length, above ++ one.1 ++ below⟩
  -- stages 2 and 3
  let two := stageRows (defectRow bk f t.map band) y one.1
  let shade := shadeRow bk f t.mesh
  let three := stageRows shade y two.1
  let seam (y0 : Nat) (rows : List Line) := (stageRows shade y0 rows).1
  let band3 : Band := ⟨y - above.length, seam (y - above.length) above ++ three.1 ++ seam (y + n) below⟩
  let c := ((own.2.add one.2).add two.2).add three.2
  let s := ((s.tally (FXC_CLIP_LO_TALLY_COUNT h.1 h.2) c.lo).tally (FXC_CLIP_HI_TALLY_COUNT h.1 h.2) c.hi).tally
    (FXC_UNFIXED_TALLY_COUNT h.1 h.2) c.unfixed
  -- the tail for the next stripe
  let s := if bk.stripe ∧ y + n < r.height then
      s.setBytes (tailAddr j.fold j.ctx) ((one.1.drop (n - 2)).flatMap wideLine) else s
  -- the dark filter
  let rows := mapIdxFrom (fun i l => (y + i, l)) 0 own.1
  let sums := mapIdxFrom (fun p (e : Int × Nat) => rows.foldl (fun a x =>
    let d := darkSum bk f t.cols p x.1 x.2
    (a.1 + d.1, a.2 + d.2)) e) 0 j.sums
  let passed := bk.dark && !j.updated && bk.darkFirst + bk.darkRows ≤ y + n
  let clean := !r.flags.testBit 3 && r.filledRows.all fun y => y < bk.darkFirst || bk.darkFirst + bk.darkRows ≤ y
  let s := if passed && clean then
      let d := darkStates bk.k j.dark sums s
      let s := (d.2.updCtx k fun x => { x with dark := some d.1 }).wr (FXC_STATUS_DARK_NOHIST h.1 h.2) 0
      (List.range planes).foldl (fun s i => s.wr (FXC_DARK_STATE_F h.1 h.2 i) (d.1.getD i 0)) s
    else s
  -- stages 4 and 5
  let o := (pixelFormat bk.outFormat).getD f
  let total := bk.ch / geomFactor bk
  let outRows := (geometry bk f.bayer y three.1).map fun l => l.map (convertDepth f.depth o.depth)
  let coded := bk.coder && (bk.tapA == 4 || bk.tapB == 4)
  let run := if coded then
      codeLines o.depth (stepOf f.bayer) f.bayer bk.mirrorV bk.stripe j.restart total j.out outRows
        { hist := (s.ctx k).coder, out := j.out, above := j.above }
    else { out := j.out + outRows.length }
  let bytes := (run.packets.map List.length).sum
  let s := if coded then
      coderShow h.1 h.2 ((((s.updCtx k fun x => { x with coder := run.hist }).tally (CX_LINE_TALLY_COUNT k)
        run.packets.length).tally (CX_RAW_BLOCK_TALLY_COUNT k) run.raw).tally (CX_ESCAPE_TALLY_COUNT k) run.escapes)
    else s
  -- taps
  let lines (tap : Nat) : List (List Byte) :=
    let wide (l : List Line) := (if bk.mirrorV then l.reverse else l).map wideLine
    if tap = 0 then wide own.1 else if tap = 1 then wide one.1 else if tap = 2 then wide two.1
    else if tap = 3 then wide three.1
    else if bk.coder then run.packets else outRows.map (packLine o.bits)
  let a := lines bk.tapA
  let b := if bk.tapB = 7 then [] else lines bk.tapB
  -- focus
  let wins := (s.tableAt bk.winAddr 8 bk.winCount).map fun w =>
    (⟨w % 65536, w / 2 ^ 16 % 65536, w / 2 ^ 32 % 65536, w / 2 ^ 48⟩ : FocusWin)
  let focus := if bk.focusEn then mapIdxFrom (fun i w =>
      let p := focusPart bk f.bayer band3 y n r.width w
      let e := j.focus.getD i (0, 0)
      (e.1 + p.1, e.2 + p.2)) 0 wins
    else j.focus
  let j := { j with
    mapError := j.mapError || t.order > 0, sums := sums, updated := j.updated || passed
    lines3 := j.lines3 ++ three.1, focus := focus, linesA := j.linesA + a.length, linesB := j.linesB + b.length
    out := run.out, above := run.above, coded := j.coded + bytes
    codedRaw := j.codedRaw + run.packets.length * (bk.cw / geomFactor bk) * o.depth / 8 }
  (j, a.flatMap (packetWords bk.penA) ++ b.flatMap (packetWords bk.penB), s)

/-! The fold's work. -/

/-- A fold may take a unit: its domain on, enabled, not halted, nothing left to write. -/
def foldFree (s : State) (f : Nat) : Bool :=
  let x := s.fold f
  x.unit.isNone && x.out.isEmpty && s.rd ⟨GLB_PWR_STATUS, 16 + f, 16 + f⟩ == 1
    && s.rd (FH_CONTROL_ENABLE (foldHead f)) == 1 && s.rd (FH_CONTROL_HALT (foldHead f)) == 0

/-- Units of a lost frame are skipped (R205); a frame of which stripes were written is abandoned with its trailers. -/
def skipJob (h : Nat × Nat) (j : Job) (s : State) : State :=
  let k := ctxKey h
  let s := (List.range (max 1 j.ready.length)).foldl (fun s _ =>
    foldEv j.fold 3 (s.tally (FXC_LOST_TALLY_COUNT h.1 h.2))) s
  let s := if j.begun then
      match s.jobRecord j with
      | some r => s.setFold j.fold { s.fold j.fold with out := (s.fold j.fold).out ++ trailers r j true }
      | none => s
    else s
  let s := s.updCtx k fun x => { x with
    jobs := x.jobs.filter fun i => !(i.slot == j.slot && i.seq == j.seq)
    clearDark := x.clearDark || (j.clearDark && !j.begun), clearCoder := x.clearCoder || (j.clearCoder && !j.begun) }
  lateOff h (showRetiring h.1 h.2 s)

/-- FOLD_UNIT_START (R204): the scheduler's choice; lost units are skipped on the way. -/
def unitStart (f : Nat) : Nat → State → State
  | 0, s => s
  | n + 1, s =>
    if !s.foldFree f then s
    else match s.pickUnit f with
      | none => s
      | some (h, j) =>
        if !s.jobIntact j then unitStart f n (skipJob h j s)
        else match j.ready with
          | [] => s
          | (y, l) :: rest =>
            let s := mapJobs (ctxKey h) (fun i => i.slot == j.slot && i.seq == j.seq) (fun i => { i with ready := rest }) s
            s.setFold f { s.fold f with unit := some (ctxKey h, j.slot, y, l), computed := false }

/-- Push a fold's words until a full backpressure pen stalls it (R280); a refused word counts once. -/
def pushOut (f : Nat) : Nat → State → State
  | 0, s => s
  | n + 1, s =>
    let x := s.fold f
    match x.out with
    | [] => s
    | w :: r =>
      let full := s.rd (PN_CFG_ENABLE w.pen) = 1 ∧ s.rd (PN_CFG_POLICY w.pen) = 1 ∧ s.rd (PN_STATUS_DROPPING w.pen) = 0
        ∧ s.rd (PN_STATUS_FULL w.pen) = 1
      if full then
        if x.refused then s else (s.penPush w.pen w.data w.last).setFold f { x with refused := true }
      else pushOut f n ((s.penPush w.pen w.data w.last).setFold f { x with out := r, refused := false })

/-- A frame has left the fold: its record names the fold and taps, and the context its coding (R247, R256). -/
def frameDone (h : Nat × Nat) (j : Job) (s : State) : State :=
  let k := ctxKey h
  let s := match s.jobRecord j with
    | some r => putRecord { r with fold := j.fold, taps := j.bank.tapA + 16 * (if j.bank.tapB = 7 then 15 else j.bank.tapB) } s
    | none => s
  let s := if j.bank.coder ∧ (j.bank.tapA = 4 ∨ j.bank.tapB = 4) then
      (s.wr (CX_LAST_RAW_BYTES k) j.codedRaw).wr (CX_LAST_CODED_BYTES k) j.coded else s
  let s := s.updCtx k fun x => { x with jobs := x.jobs.filter fun i => !(i.slot == j.slot && i.seq == j.seq) }
  lateOff h (showRetiring h.1 h.2 s)

/-- The unit's outputs are computed; after a frame's last unit its trailers and statistics follow (R200, R218). -/
def computeUnit (f : Nat) (u : Nat × Nat × Nat × Nat) (s : State) : State :=
  let h := (u.1 / 256, u.1 % 256)
  match (s.ctx u.1).jobs.find? fun j => j.slot == u.2.1 && j.fold == f with
  | none => s
  | some j =>
    match s.jobRecord j with
    | none => s
    | some r =>
      let p := processUnit h r ((pixelFormat r.format).getD ⟨8, 8, false⟩) u.2.2.1 u.2.2.2 j s
      let last := r.height ≤ u.2.2.1 + u.2.2.2
      let s := mapJobs u.1 (fun i => i.slot == j.slot && i.seq == j.seq) (fun _ => p.1) p.2.2
      let s := if last then emitStats h r p.1 false s else s
      s.setFold f { s.fold f with computed := true, out := p.2.1 ++ if last then trailers r p.1 false else [] }

/-- FOLD_UNIT_COMPLETE (R200): the unit in progress finishes, or the fold goes on with the words it still owes. -/
def unitComplete (f : Nat) (s : State) : State :=
  let s := match (s.fold f).unit with
    | some u => if (s.fold f).computed then s else computeUnit f u s
    | none => s
  let s := pushOut f ((s.fold f).out.length + 1) s
  if !(s.fold f).out.isEmpty then s
  else match (s.fold f).unit with
    | none => s
    | some u =>
      let h := (u.1 / 256, u.1 % 256)
      let s := s.setFold f {}
      match (s.ctx u.1).jobs.find? fun j => j.slot == u.2.1 && j.fold == f with
      | none => lateOff h s
      | some j =>
        let w := ((s.jobRecord j).map (·.width)).getD 0
        let s := s.updCtx u.1 fun x => { x with served := x.served + w * u.2.2.2 }
        if j.lastReady ∧ j.ready.isEmpty then frameDone h j s else lateOff h s

/-! Throttle and moves (R206, R207). -/

/-- A fold's new throttle step. -/
def throttleStep (f k : Nat) (s : State) : State :=
  if s.rd (FX_STATUS_THROTTLE f) = k then s
  else
    let s := s.wr (FX_STATUS_THROTTLE f) k
    foldEv f 4 (s.wr (FX_CAPACITY_VALUE f) (s.foldCapacity f))

/-- Contexts of a fold that are free and not the target of a decided move. -/
def freeContext (s : State) (f : Nat) : Option Nat :=
  (List.range 256).find? fun c => s.rd (FXC_STATUS_STREAM f c) == 127
    && s.homes.all fun h => (s.ctx (ctxKey h)).move != some (some (f, c))

/-- The context an overloaded fold gives away (R207). -/
def moveChoice (s : State) (f : Nat) : Option (Nat × Nat) :=
  let own := s.homes.filter fun h => h.1 == f && s.servedBy h == f
  let load := s.foldLoad f
  let ok := own.filter fun h => 100 * (load - s.dueRate h) ≤ 95 * s.foldCapacity f
  let best (l : List (Nat × Nat)) (less : Bool) := l.foldl (fun (a : Option (Nat × Nat)) h => match a with
    | none => some h
    | some b => if (if less then s.dueRate h < s.dueRate b else s.dueRate b < s.dueRate h) then some h else some b) none
  match best ok true with
  | some h => some h
  | none => best own false

/-- Where it goes: the most spare capacity among the folds that can take it. -/
def moveTarget (s : State) (f due : Nat) : Option (Nat × Nat) :=
  let fits := (List.range 8).filterMap fun g =>
    if g = f ∨ s.foldJoined g ∨ s.rd (FX_CTRL_ACCEPT_GUESTS g) = 0 ∨ s.rd (FH_CONTROL_ENABLE (foldHead g)) = 0
        ∨ s.rd ⟨GLB_PWR_STATUS, 16 + g, 16 + g⟩ = 0
        ∨ 100 * (s.foldLoad g + due) > 95 * s.foldCapacity g then none
    else (s.freeContext g).map fun c => (g, c)
  fits.foldl (fun (a : Option (Nat × Nat)) x => match a with
    | none => some x
    | some b => if s.foldCapacity b.1 - s.foldLoad b.1 < s.foldCapacity x.1 - s.foldLoad x.1 then some x else some b) none

/-- One fold is compared with its capacity. -/
def rebalanceFold (s : State) (f : Nat) : State :=
  if s.foldJoined f then s
  else if s.foldLoad f > s.foldCapacity f then
    let dest := if s.rd (FX_CTRL_MOVE_OUT f) = 0 then none else
      (s.moveChoice f).bind fun h => (s.moveTarget f (s.dueRate h)).map fun t => (h, t)
    match dest with
    | some (h, t) => s.updCtx (ctxKey h) fun x => { x with move := some (some t) }
    | none => foldEv f 6 s
  else
    let away := s.homes.filter fun h => h.1 == f && s.servedBy h != f
    if !away.isEmpty && 100 * (s.foldLoad f + (away.map s.dueRate).sum) ≤ 80 * s.foldCapacity f then
      away.foldl (fun s h => s.updCtx (ctxKey h) fun x => { x with move := some none }) s
    else s

/-- SCHEDULER_REBALANCE: every fold in order. -/
def rebalance (s : State) : State := (List.range 8).foldl rebalanceFold s

/-! The fold block reset (R210). -/

/-- Line packets among words still to push. -/
def packetsLeft (pen : Nat) (l : List OutWord) : Nat := (l.filter fun w => w.pen == pen && w.last).length

/-- The unit in progress is abandoned with its trailers and statistics; the lines not written whole do not count. -/
def abandonUnit (f : Nat) (s : State) : State :=
  match (s.fold f).unit with
  | none => s
  | some u =>
    let h := (u.1 / 256, u.1 % 256)
    match (s.ctx u.1).jobs.find? fun j => j.slot == u.2.1 && j.fold == f with
    | none => s.setFold f {}
    | some j =>
      match s.jobRecord j with
      | none => s.setFold f {}
      | some r =>
        let left := (s.fold f).out
        let ended := (s.fold f).computed && r.height ≤ u.2.2.1 + u.2.2.2
        let own := if ended then left.take (left.length - (if j.bank.tapB = 7 then 1 else 2)) else left
        let j := { j with linesA := j.linesA - packetsLeft j.bank.penA own
                          linesB := j.linesB - if j.bank.penA = j.bank.penB then 0 else packetsLeft j.bank.penB own }
        let s := if ended then s else emitStats h r j true s
        let s := s.setFold f { out := trailers r j true }
        s.updCtx u.1 fun x => { x with jobs := x.jobs.filter fun i => !(i.slot == j.slot && i.seq == j.seq) }

/-- FH_CONTROL.RESET of a pixel fold (R192, R210, R244). -/
def foldReset (f : Nat) (s : State) : State :=
  let s := abandonUnit f s
  let s := s.homes.foldl (fun (s : State) h =>
    if s.servedBy h ≠ f ∧ h.1 ≠ f then s
    else
      let s := ((s.ctx (ctxKey h)).jobs.filter fun j => j.fold == f).foldl (fun s j => skipJob h j s) s
      if s.servedBy h = f then clearCoder h.1 h.2 (clearDark h.1 h.2 (bankAt s.fab h.1 h.2 1).global s) else s) s
  pushOut f ((s.fold f).out.length + 1) s

/-! The control-side commit (R21). -/

/-- CONTROL_SHADOW_COMMIT: the generations of a stream's context whose control work has run are published. -/
def publishCommit (st : Nat) (s : State) : State :=
  match s.homeOf st with
  | none => s
  | some h =>
    let k := ctxKey h
    match (s.ctx k).publish with
    | (gen, true) :: r =>
      let s := s.updCtx k fun x => { x with publish := r }
      let s := s.wr (FXC_GEN_VALUE h.1 h.2) gen
      foldEv h.1 0 (s.wr ⟨FX_COMMIT_DONE h.1 (h.2 / 32), h.2 % 32, h.2 % 32⟩ 1)
    | _ => s

/-- Whether a function may write a context window (R213). -/
def mayContext (s : State) (fn f c : Nat) : Bool := fn == 0 || s.streamOwner (s.rd (FXC_STATUS_STREAM f c)) == fn

end State

/-- CONTROL_SHADOW_COMMIT (R21). -/
def execControlShadowCommit (st : Nat) (s : State) : Host.Outcome State Fault Refusal := .next (s.publishCommit st)

/-- UNIT_READY (R186). -/
def execUnitReady (st : Nat) (s : State) : Host.Outcome State Fault Refusal := .next (s.unitReady st)

/-- FOLD_UNIT_START (R204). -/
def execFoldUnitStart (f : Nat) (s : State) : Host.Outcome State Fault Refusal :=
  .next (State.unitStart f (1 + (s.ctxs.map fun e => e.2.jobs.length).sum) s)

/-- FOLD_UNIT_COMPLETE (R200). -/
def execFoldUnitComplete (f : Nat) (s : State) : Host.Outcome State Fault Refusal := .next (s.unitComplete f)

/-- THROTTLE_STEP_CHANGE (R206). -/
def execThrottleStepChange (f k : Nat) (s : State) : Host.Outcome State Fault Refusal := .next (s.throttleStep f k)

/-- SCHEDULER_REBALANCE (R207). -/
def execSchedulerRebalance (s : State) : Host.Outcome State Fault Refusal := .next s.rebalance

/-- CONTEXT_COMMIT_REQ (R208). -/
def execContextCommitReq (fn f c : Nat) (s : State) : Host.Outcome State Fault Refusal :=
  .next (if s.mayContext fn f c then s.contextReq f c else s)

/-- CONTEXT_COMMIT_CANCEL (R210). -/
def execContextCommitCancel (fn f c : Nat) (s : State) : Host.Outcome State Fault Refusal :=
  .next (if s.mayContext fn f c then s.contextCancel f c else s)

end Sys2Proof.Machine
end

