-- ==== Sys2Proof/Machine/Trigger.lean ====
section
/-!
DEFINITION. The trigger sequencer (R395–R412): source pulses, combination and divider, placements, routes and their
edges, in-band trigger blocks, and the exposure banks. Instants are in 2^-16 ns of device time; a bank's steps are of
15.625 ps.
-/
namespace Sys2Proof.Machine

/-- One step of 15.625 ps. -/
def stepUnits : Nat := 1024

/-- Picoseconds in 2^-16 ns, rounded to nearest. -/
def psUnits (ps : Nat) : Nat := (65536 * ps + 500) / 1000

/-- One 66-bit block of a lane at a rate code (R74), in 2^-16 ns. -/
def blockUnits (rate : Nat) : Nat :=
  if rate = 1 then 419430 else if rate = 2 then 346030 else if rate = 3 then 167772 else 153791

/-- 1/64 UI at a rate code as a fraction of a picosecond (R152). -/
def uiFrac (rate : Nat) : Nat × Nat := if rate = 3 then (20, 33) else (5, 9)

/-- Nearest multiple of a grid, halves later. -/
def toGrid (g x : Nat) : Nat := (x + g / 2) / g * g

namespace State

def trig (s : State) (n : Nat) : Trig := tget (fun _ => {}) s.trigs n
def setTrig (s : State) (n : Nat) (t : Trig) : State := { s with trigs := tset (fun _ => {}) s.trigs n t }
def updTrig (s : State) (n : Nat) (g : Trig → Trig) : State := s.setTrig n (g (s.trig n))

/-- Half `h` of a channel's bank: 0 the shadow half, 1 the active half (R405). -/
def trigBank (s : State) (n h : Nat) : TrigBank where
  delay := s.rdWide (TR_DELAY_LO n h) 2
  width := s.rdWide (TR_WIDTH_LO n h) 2
  divider := s.rd (TR_DIVIDER_DIVIDER n h)
  burst := s.rd (TR_BURST_COUNT n h)
  period := s.rdWide (TR_BURST_PERIOD_LO n h) 2

/-- The channel event (R413). -/
def trigEv (n detail : Nat) (s : State) : State := s.raise (728 + n) detail

/-- TR_STATUS.QUEUED counts the placements held. -/
def trigQueued (n : Nat) (s : State) : State := s.wr (TR_STATUS_QUEUED n) (s.trig n).held.length

/-- An activation, a warm reset, a reset or an unseating of the module, or a trip holds the sequencer idle (R411, R475,
R488, R495). -/
def sequencerHeld (s : State) : Bool :=
  s.quiesced || s.rd GLB_RESET_BUSY == 1 || s.power.inReset || s.power.tripped || s.unseated

/-! Banks and commits (R405, R406). -/

/-- The half in force before a commit gives way at the end of its tick; a changed DIVIDER starts afresh (R398). -/
def trigPromote (n : Nat) (s : State) : State :=
  match (s.trig n).before with
  | none => s
  | some (b, _, until_) =>
    if s.now < until_ then s
    else s.updTrig n fun t => { t with
      before := none
      skip := if b.divider = (s.trigBank n 1).divider then t.skip else 0 }

/-- The half and generation that an issue uses now (R406, R230). -/
def trigForce (s : State) (n : Nat) : TrigBank × Nat :=
  match (s.trig n).before with
  | some (b, g, _) => (b, g)
  | none => (s.trigBank n 1, s.rd (TR_COMMIT_GEN n))

/-- The REJECT code of a shadow half (R405). -/
def trigCheck (b : TrigBank) : Nat :=
  if b.delay > 256000000000 then 1
  else if b.width < 640 ∨ b.width > 256000000000 then 2
  else if b.burst > 1 ∧ b.period < b.width + 640 then 3
  else if b.divider = 0 ∨ b.burst = 0 then 4
  else 0

/-- TR_COMMIT.REQ (R405). -/
def trigReq (n : Nat) (s : State) : State :=
  let code := trigCheck (s.trigBank n 0)
  let s := s.wr (TR_COMMIT_REJECT n) code
  if code ≠ 0 then trigEv n 5 s
  else
    let c := if s.rd (TR_CTRL_COMMIT_MODE n) = 1 then TrigCommit.sof else .tick (s.bw.count + 1)
    (s.updTrig n fun t => { t with commit := c }).wr (TR_COMMIT_PENDING n) 1

/-- TR_COMMIT.CANCEL (R412). -/
def trigCancel (n : Nat) (s : State) : State :=
  (s.updTrig n fun t => { t with commit := .idle }).wr (TR_COMMIT_PENDING n) 0

/-- A start of frame of a stream makes the commits that wait for it due in the next tick (R406). -/
def trigSof (st : Nat) (s : State) : State :=
  { s with trigs := s.trigs.map fun e =>
      if e.2.commit = .sof ∧ s.rd (TR_CTRL_STREAM e.1) = st then (e.1, { e.2 with commit := .tick (s.bw.count + 1) })
      else e }

/-- Whether a channel's in-band route leads to an Active port. -/
def inbandActive (s : State) (n : Nat) : Bool :=
  s.rd (TR_INBAND_ENABLE n) == 1 && s.rd (PT_LINK_STATUS_STATE (s.rd (TR_INBAND_PORT n))) == 5

/-- The shadow half becomes active (R406); issues of this tick keep the half before. -/
def trigApply (n : Nat) (s : State) : State :=
  let s := trigPromote n s
  if (s.trig n).commit ≠ .ready then s
  else
    let old := s.trigForce n
    let copy (k : Nat) (s : State) : State := s.ww (TR_DELAY_LO n 1 + 4 * k) (s.rw (TR_DELAY_LO n 0 + 4 * k))
    let s := (List.range 8).foldl (fun s k => copy k s) s
    let gen := (s.rd (TR_COMMIT_GEN n) + 1) % 65536
    let s := (s.wr (TR_COMMIT_GEN n) gen).wr (TR_COMMIT_PENDING n) 0
    let ends := s.bw.next / 65536
    let cam := s.rd (TR_CTRL_CAM_EXPOSURE n) = 1 ∧ s.inbandActive n
    let s := s.updTrig n fun t => { t with
      commit := .idle
      before := some (old.1, old.2, ends)
      gens := (ends, gen) :: t.gens
      camDue := if cam then t.camDue ++ [((s.trigBank n 1).width, gen, false)] else t.camDue }
    trigEv n 4 s

/-! Sources (R396). -/

/-- Whether source word B or A of channel `n` names a pulse. -/
def srcNames (s : State) (n : Nat) (b : Bool) (kind index port : Nat) (rising : Bool) : Bool :=
  let w := s.rw (if b then TR_SRC_B n else TR_SRC_A n)
  let edge := bitsOf w 27 26
  bitsOf w 31 28 == kind
    && (kind == 4 || bitsOf w 15 0 == index)
    && (kind != 5 || bitsOf w 24 20 == port)
    && (kind != 3 || edge == 2 || edge == (if rising then 0 else 1))

/-- A pulse of a source goes to the channels that name it: it arrives at an instant of device time in 2^-32 ns. -/
def srcPulseTo (chs : List Nat) (kind index port : Nat) (rising : Bool) (cause arrival : Nat) (s : State) : State :=
  chs.foldl (fun s n =>
    let add (b : Bool) (t : Trig) : Trig :=
      if s.srcNames n b kind index port rising then { t with inbox := t.inbox ++ [(arrival, b, cause)] } else t
    s.updTrig n fun t => add true (add false t)) s

def srcPulse (kind index port : Nat) (rising : Bool) (cause arrival : Nat) (s : State) : State :=
  srcPulseTo (List.range 24) kind index port rising cause arrival s

/-- A write of TR_SW (R396). -/
def softwareTrigger (mask : Nat) (s : State) : State :=
  srcPulseTo ((List.range 24).filter mask.testBit) 4 0 0 true s.now s.tb.dev s

/-- The filtered level of a trigger input at an instant (R397). -/
def inputAt (s : State) (i : Nat) (t : Time) : Bool :=
  let l := (tget (fun _ => {}) s.inputs i).levels
  match l.find? fun x => x.1 ≤ t with
  | some x => x.2
  | none => match l.getLast? with
    | some x => !x.2
    | none => s.rd (TI_STATUS_LEVEL i) == 1

/-! Placements (R398–R403). -/

/-- A placement is marked late, once (R401). -/
def markLate (n id : Nat) (s : State) : State :=
  let t := s.trig n
  let known := (t.held.any fun p => p.id == id && p.late) || (t.history.any fun p => p.id == id && p.late)
    || t.unposted.any fun p => p.id == id && p.late
  if known then s
  else
    let hist (l : List PlaceHist) := l.map fun p => if p.id = id then { p with late := true } else p
    let s := s.setTrig n { t with
      held := t.held.map fun p => if p.id = id then { p with late := true } else p
      unposted := hist t.unposted
      history := hist t.history }
    trigEv n 1 ((s.wr (TR_STATUS_LATE n) 1).tally (TR_LATE_TALLY_COUNT n))

/-- Finished placements leave the channel (R399). -/
def trigDone (n : Nat) (s : State) : State :=
  trigQueued n (s.updTrig n fun t => { t with held := t.held.filter fun p => !p.edges.isEmpty || p.blocks > 0 })

/-- One edge of a direct route: nearest grid point, or the earliest instant, late (R400, R401). -/
def directEdge (route grid l early : Nat) (rising : Bool) (e : Time) : RouteEdge :=
  let x := toGrid grid (e - l)
  if e < l ∨ x < early then ⟨route, rising, early, true⟩ else ⟨route, rising, x, false⟩

/-- One departure of a CoaXPress or Camera Link HS route: the nearest block slot, the first of which after issue is
`first`. -/
def slotEdge (per l first : Nat) (rising : Bool) (e : Time) : RouteEdge :=
  if e < l ∨ e - l + per / 2 < first then ⟨1, rising, first, true⟩
  else ⟨1, rising, first + (e - l + per / 2 - first) / per * per, false⟩

/-- The edges of the direct output and the camera control lines of a placement (R400). -/
def directEdges (s : State) (n : Nat) (issue start end_ : Time) : List RouteEdge :=
  let early := issue + Time.ofNs 5
  let pair (route grid l : Nat) := [directEdge route grid l early true start, directEdge route grid l early false end_]
  let out := if s.rd (TR_OUT_ENABLE n) = 1 then
      pair 0 stepUnits (psUnits (s.rd (TR_OUT_LATENCY_PICOSECONDS n))) else []
  let cc := (List.range 4).flatMap fun x =>
    let w := s.rw PP_CC_SEL
    if bitsOf w (8 * x + 7) (8 * x + 6) ≥ 2 ∧ bitsOf w (8 * x + 4) (8 * x) = n then
      pair (2 + x) 81920 (psUnits (s.rd PP_DECL_LATENCY_VALUE + s.rd PP_CC_LATENCY_VALUE)) else []
  out ++ cc

/-- The in-band route of a placement (R400, R402): departures on CoaXPress and Camera Link HS, or blocks handed to a
Torvelink port. A port that is not Active discards them (log entry 27). -/
def inbandRoute (n id : Nat) (start end_ issue : Time) (s : State) : State × List RouteEdge × Nat :=
  let P := s.rd (TR_INBAND_PORT n)
  let both := s.rd (TR_CTRL_INBAND_END n) = 1
  let count := if both then 2 else 1
  if s.rd (TR_INBAND_ENABLE n) = 0 then (s, [], 0)
  else if s.rd (PT_LINK_STATUS_STATE P) ≠ 5 then (s.tally (TR_DISCARD_TALLY_COUNT n) count, [], 0)
  else if s.rd (PT_LINK_STATUS_STANDARD P) = 3 then
    let blk (e : Time) (r : Bool) : HeldBlock := { channel := n, place := id, ident := s.rd (TR_INBAND_ID n), at_ := e, rising := r }
    let p := s.port P
    (s.setPort P { p with held := p.held ++ blk start true :: if both then [blk end_ false] else [] }, [], count)
  else
    let per := blockUnits (s.rd (PT_LINK_STATUS_RATE P))
    let k := s.draw
    let first := issue + 1 + Config.blockPhase k.1 % per
    let l := psUnits (s.rd (PT_DECL_LATENCY_PICOSECONDS P))
    (k.2, slotEdge per l first true start :: (if both then [slotEdge per l first false end_] else []), 0)

/-- Placements a start edge of which absolute and analogue channels follow (R389, R416). -/
def followStart (n : Nat) (start : Time) (s : State) : State :=
  let s := (List.range 4).foldl (fun s j =>
    if s.rd (SA_REQ_ON_EXPOSURE j) = 1 ∧ s.rd (SA_REQ_CHANNEL j) = n ∧ s.rd (SA_CFG_ENABLE j) = 1 then
      { s with abs := Tab.upd (fun _ => {}) s.abs j fun x => { x with waiting := x.waiting ++ [start] } } else s) s
  (List.range 8).foldl (fun s c =>
    if s.rd (AI_START_ON_TRIG c) = 1 ∧ s.rd (AI_START_CHANNEL c) = n ∧ s.rd (AI_CTRL_ENABLE c) = 1 then
      { s with ais := Tab.upd (fun _ => {}) s.ais c fun x => { x with starts := x.starts ++ [65536 * start] } } else s) s

/-- One placement (R399): discarded where it overlaps or overflows. -/
def place (n : Nat) (start end_ issue : Time) (gen : Nat) (s : State) : State :=
  let t := s.trig n
  let overlaps := match t.lastEnd with
    | none => false
    | some e => decide (start < e + Time.ofNs 10)
  if overlaps then
    trigEv n 2 ((s.wr (TR_STATUS_OVERLAP n) 1).tally (TR_OVERLAP_TALLY_COUNT n))
  else if t.held.length ≥ 64 then
    trigEv n 3 ((s.wr (TR_STATUS_OVERFLOW n) 1).tally (TR_OVERFLOW_TALLY_COUNT n))
  else
    let id := t.nextId
    let r := inbandRoute n id start end_ issue s
    let edges := r.1.directEdges n issue start end_ ++ r.2.1
    let s := r.1.updTrig n fun t => { t with
      nextId := id + 1
      lastEnd := some end_
      unposted := t.unposted ++ [⟨id, start, end_, gen, false, r.2.2 > 1 || edges.any fun e => !e.rising⟩]
      held := t.held ++ [{ id := id, start := start, end_ := end_, gen := gen, issue := issue, edges := edges, blocks := r.2.2 }] }
    followStart n start (trigDone n ((s.tally (TR_ISSUE_TALLY_COUNT n)).wrTime (TR_LAST_START n) start))

/-- The channel issues its burst for a pulse of cause time `c` (R398). -/
def issue (n : Nat) (c : Time) (s : State) : State :=
  let k := s.draw
  let at_ := k.2.now + (Config.issueDelay k.1).val
  let f := k.2.trigForce n
  let s := if k.2.rd (TR_CTRL_EV_ISSUE n) = 1 then trigEv n 0 k.2 else k.2
  (List.range f.1.burst).foldl (fun s b =>
    let e := c + (f.1.delay + b * f.1.period) * stepUnits
    place n e (e + f.1.width * stepUnits) at_ f.2 s) s

/-- A channel pulse passes the divider (R398). -/
def channelPulse (n : Nat) (c : Time) (s : State) : State :=
  let t := s.trig n
  if t.skip > 0 then s.setTrig n { t with skip := t.skip - 1 }
  else issue n c (s.setTrig n { t with skip := (s.trigForce n).1.divider - 1 })

/-- COMBINE 1: pulses of A and B in one clock pair, dated at the earlier cause (R397). -/
def pairUp : List Time → List Time → List Time
  | a :: ra, b :: rb => min a b :: pairUp ra rb
  | [], b => b
  | a, [] => a

/-- COMBINE 2 (R397): a pulse meets the one its partner holds, or is kept. -/
def combineAnd (n : Nat) (w : Nat) (b : Bool) (c : Time) (s : State) : State :=
  let t := s.trig n
  let other := if b then t.keepA else t.keepB
  match other with
  | some o =>
    if c ≤ o + w ∧ o ≤ c + w then channelPulse n (max c o) (s.setTrig n { t with keepA := none, keepB := none })
    else s.setTrig n (if b then { t with keepB := some c } else { t with keepA := some c })
  | none => s.setTrig n (if b then { t with keepB := some c } else { t with keepA := some c })

/-- The pulses that arrive in the next clock form the channel's pulses (R397, R412). -/
def combine (n : Nat) (s : State) : State :=
  match (s.trig n).inbox with
  | [] => s
  | x :: r =>
    let first := (r.foldl (fun a y => min a y.1) x.1)
    let s := s.runTo first
    let now := s.tb.dev
    let got := (x :: r).filter fun y => y.1 ≤ now
    let s := trigPromote n (s.updTrig n fun t => { t with inbox := t.inbox.filter fun y => now < y.1 })
    if s.rd (TR_CTRL_ENABLE n) = 0 ∨ s.sequencerHeld then s
    else
      let causes (b : Bool) := (got.filter fun y => y.2.1 == b).map fun y => y.2.2
      let mode := s.rd (TR_CTRL_COMBINE n)
      if mode = 0 then (causes false).foldl (fun s c => channelPulse n c s) s
      else if mode = 1 then (pairUp (causes false) (causes true)).foldl (fun s c => channelPulse n c s) s
      else if s.rd (TR_SRC_B_KIND n) = 3 ∧ s.rd (TR_SRC_B_EDGE n) = 3 then
        (causes false).foldl (fun s c =>
          if s.inputAt (s.rd (TR_SRC_B_INDEX n)) c then channelPulse n c s else s) s
      else got.foldl (fun s y => combineAnd n (Time.ofNs (s.rd (TR_AND_WINDOW_NS n))) y.2.1 y.2.2 s) s

/-! Edges (R400, R401, R409). -/

/-- The level of TOn (R409): held by FORCE, else active while a pulse runs and the pin is enabled, after POLARITY. -/
def pinLevel (s : State) (n : Nat) : Bool :=
  if s.rd (TR_OUT_FORCE n) = 1 then false
  else if s.rd (TR_OUT_FORCE n) = 2 then true
  else (s.rd (TR_OUT_ENABLE n) == 1 && s.rd (TR_STATUS_PULSE n) == 1) != (s.rd (TR_OUT_POLARITY n) == 1)

/-- TOn shows an edge at `at_` where its level is no longer what it was. -/
def showPin (n : Nat) (was : Bool) (at_ : Time) (s : State) : State :=
  if s.pinLevel n = was then s else s.emit (.triggerEdge 0 n (s.pinLevel n) at_)

/-- The level that an edge of an in-band route or of a control line gives: a control line is inverted by MODE 3. -/
def routeLevel (s : State) (route : Nat) (rising : Bool) : Bool :=
  if 2 ≤ route then rising != (bitsOf (s.rw PP_CC_SEL) (8 * (route - 2) + 7) (8 * (route - 2) + 6) == 3)
  else rising

/-- The earliest edge a route of a channel has still to emit: its placement and the edge. -/
def nextEdge (s : State) (n route : Nat) : Option (Nat × RouteEdge) :=
  (s.trig n).held.findSome? fun p => (p.edges.find? fun e => e.route == route).map fun e => (p.id, e)

/-- The first edge of a route leaves a list. -/
def dropEdge (route : Nat) : List RouteEdge → List RouteEdge
  | [] => []
  | e :: r => if e.route = route then r else e :: dropEdge route r

/-- A route emits its next edge (R400, R401): the clock runs to its instant. -/
def emitEdge (n route : Nat) (s : State) : State :=
  match s.nextEdge n route with
  | none => s
  | some (id, e) =>
    let s := s.runTo (65536 * e.at_)
    let s := s.updTrig n fun t => { t with held := t.held.map fun p =>
      if p.id = id then { p with edges := dropEdge route p.edges, begun := true } else p }
    let s := if e.late then markLate n id s else s
    let at_ := max e.at_ s.now
    trigDone n (if route = 0 then showPin n (s.pinLevel n) at_ (s.wrIf (TR_STATUS_PULSE n) e.rising)
      else s.emit (.triggerEdge route n (s.routeLevel route e.rising) at_))

/-! Torvelink trigger blocks (R147, R149, R402). -/

/-- DELAY of a block sent at `at_` for an edge wanted at `e` (R149), in 2^-16 ns of lane time. -/
def blockDelay (s : State) (P : Nat) (e at_ : Time) : Int :=
  let inc := (s.tb.counter s.tb.active).inc
  let f := uiFrac (s.rd (PT_LINK_STATUS_RATE P))
  let off := signed 32 (s.rd (PT_TV_SENSOR_OFFSET_PICOSECONDS P))
  let d : Int := (s.rd (PT_TV_ONEWAY_UNITS P) * f.1 : Nat)
  let lane : Int := ((e : Int) - at_) * (5368709120 * f.2 * 1000 : Nat)
  let num := lane - (off * (f.2 : Int) + d) * ((65536 * inc : Nat) : Int)
  let den := 1000 * (inc * f.2)
  (2 * num + (den : Int)) / (2 * (den : Int))

/-- The bytes of a trigger block (R147). -/
def triggerBlock (ident : Nat) (rising : Bool) (delay : Nat) : List Byte :=
  let b := leBytes 1 0x66 ++ leBytes 1 (ident + if rising then 0 else 16) ++ leBytes 5 delay
  b ++ [(b.foldl (· ^^^ ·) 0#8) ^^^ 0x5A#8]

/-- A block leaves the port's list and its placement. -/
def dropBlock (P : Nat) (x : HeldBlock) (s : State) : State :=
  let p := s.port P
  let s := s.setPort P { p with held := p.held.erase x }
  s.updTrig x.channel fun t => { t with held := t.held.map fun q =>
    if q.id = x.place then { q with blocks := q.blocks - 1 } else q }

/-- The next lane-0 slot of a port: the slot after the last timing block, or one at an open phase. -/
def nextSlot (P : Nat) (s : State) : State × Time :=
  let per := blockUnits (s.rd (PT_LINK_STATUS_RATE P))
  let k := s.draw
  let open_ := s.now + Config.blockPhase k.1 % per
  match (s.port P).lastSlot with
  | some t => if s.now ≤ t + per then (s, t + per) else (k.2, open_)
  | none => (k.2, open_)

/-- A block is sent at a slot (R402): late where its DELAY is below LEAD_MIN. -/
def sendBlock (P : Nat) (x : HeldBlock) (at_ : Time) (delay : Int) (s : State) : State :=
  let s := dropBlock P x s
  let s := s.setPort P { s.port P with lastSlot := some at_ }
  let s := s.updTrig x.channel fun t => { t with held := t.held.map fun q =>
    if q.id = x.place then { q with begun := true } else q }
  let lead : Int := (Time.ofNs (100 * s.rd (PT_TV_TRIGGER_LEAD_MIN P)) : Nat)
  let s := if delay < lead then markLate x.channel x.place s else s
  trigDone x.channel (s.emit (.portBlock P (triggerBlock x.ident x.rising delay.toNat)))

/-- The longest DELAY of a block's 40-bit field (R402). -/
def maxDelay : Int := 1099511627775

/-- INBAND_SEND: the port sends its first block that is not held for its length, or holds it (R402). -/
def inbandSend (P : Nat) (s : State) : State :=
  match (s.port P).held.find? fun x => !x.long with
  | none => s
  | some x =>
    let r := nextSlot P s
    let s := r.1
    let delay := s.blockDelay P x.at_ r.2
    if delay > maxDelay then
      let p := s.port P
      s.setPort P { p with held := p.held.map fun y => if y = x then { y with long := true } else y }
    else sendBlock P x r.2 delay s

/-- A tick releases the first held block of a port that has come near enough (R402). -/
def releaseBlock (P : Nat) (s : State) : State :=
  match (s.port P).held.find? fun x => x.long && x.at_ ≤ s.now + Time.ofNs 16000000 with
  | none => s
  | some x =>
    let r := nextSlot P s
    sendBlock P x r.2 (r.1.blockDelay P x.at_ r.2) r.1

/-- The port leaves Active: its blocks, and the departures of channels that use it in-band, are discarded (R402,
R412). -/
def inbandDiscard (P : Nat) (s : State) : State :=
  let s := (s.port P).held.foldl (fun s x => trigDone x.channel ((dropBlock P x s).tally (TR_DISCARD_TALLY_COUNT x.channel))) s
  (List.range 24).foldl (fun s n =>
    if s.rd (TR_INBAND_PORT n) ≠ P then s
    else
      let c := ((s.trig n).held.map fun p => (p.edges.filter fun e => e.route == 1).length).sum
      let s := s.updTrig n fun t => { t with held := t.held.map fun p =>
        { p with edges := p.edges.filter fun e => e.route != 1 } }
      trigDone n (if c = 0 then s else s.tally (TR_DISCARD_TALLY_COUNT n) c)) s

/-- Placements not yet begun are discarded (R411, R412). -/
def trigDiscard (n : Nat) (s : State) : State :=
  let gone := (s.trig n).held.filter fun p => !p.begun
  let s := gone.foldl (fun s p =>
    let s := (List.range 24).foldl (fun s P =>
      let q := s.port P
      s.setPort P { q with held := q.held.filter fun x => !(x.channel == n && x.place == p.id) }) s
    s.tally (TR_DISCARD_TALLY_COUNT n)) s
  trigQueued n (s.updTrig n fun t => { t with held := t.held.filter (·.begun), keepA := none, keepB := none })

/-- Every pin of a channel rests at its idle level (R411): placements not yet begun are discarded, and the edges that
pins still owe for the others are not emitted. -/
def idlePins (n : Nat) (s : State) : State :=
  let s := trigDiscard n s
  let owed (p : Placement) : List RouteEdge := p.edges.filter fun e =>
    2 ≤ e.route && !e.rising && !(p.edges.any fun x => x.route == e.route && x.rising)
  let s := ((s.trig n).held.flatMap owed).foldl (fun (s : State) e =>
    s.emit (.triggerEdge e.route n (s.routeLevel e.route false) s.now)) s
  let s := s.updTrig n fun t => { t with held := t.held.map fun p => { p with edges := p.edges.filter fun e => e.route == 1 } }
  trigDone n (showPin n (s.pinLevel n) s.now (s.wr (TR_STATUS_PULSE n) 0))

/-- The outputs of the device go to their idle levels. -/
def idleOutputs (s : State) : State := (List.range 24).foldl (fun (s : State) n => idlePins n s) s

/-- A write of TR_CTRL (R398, R412). -/
def trigCtrl (fn n : Nat) (w : Word) (s : State) : State :=
  let was := s.rd (TR_CTRL_ENABLE n)
  let s := putWord fn (TR_CTRL n) w s
  let on := s.rd (TR_CTRL_ENABLE n)
  if was = 1 ∧ on = 0 then trigDiscard n s
  else if was = 0 ∧ on = 1 then s.updTrig n fun t => { t with skip := 0 }
  else s

/-- A write of TR_COMMIT: REQ, then CANCEL. -/
def trigCommit (n : Nat) (w : Word) (s : State) : State :=
  let s := if bitsOf w 31 31 = 1 then trigReq n s else s
  if bitsOf w 30 30 = 1 then trigCancel n s else s

/-- Whether a function may write the shadow half and TR_COMMIT of a channel (R414). -/
def mayCommit (s : State) (fn n : Nat) : Bool :=
  fn == 0 || (List.range 97).any fun st => s.streamOwner st == fn && s.rd (ST_CTRL_TRIG_BIND (st / 4) (st % 4)) == n + 1

/-- Placements posted to the history of R403; the oldest goes when it is full. -/
def postPlacements (n count : Nat) (s : State) : State :=
  let t := s.trig n
  let all := t.history ++ t.unposted.take count
  let extra := all.length - 256
  let s := s.setTrig n { t with unposted := t.unposted.drop count, history := all.drop extra }
  if extra = 0 then s else s.tally (TR_HIST_DROP_TALLY_COUNT n) extra

end State

/-- SOFTWARE_TRIGGER (R396). -/
def execSoftwareTrigger (mask : Nat) (s : State) : Host.Outcome State Fault Refusal := .next (s.softwareTrigger mask)

/-- CHANNEL_PULSE (R397): the pulses that reach the channel next. -/
def execChannelPulse (n : Nat) (s : State) : Host.Outcome State Fault Refusal := .next (s.combine n)

/-- ROUTE_EDGE_EMIT (R400). -/
def execRouteEdgeEmit (n route : Nat) (s : State) : Host.Outcome State Fault Refusal := .next (s.emitEdge n route)

/-- INBAND_SEND (R402). -/
def execInbandSend (P : Nat) (s : State) : Host.Outcome State Fault Refusal := .next (s.inbandSend P)

/-- EXPOSURE_COMMIT_REQ (R405). -/
def execExposureCommitReq (fn n : Nat) (s : State) : Host.Outcome State Fault Refusal :=
  .next (if s.mayCommit fn n then s.trigReq n else s)

/-- EXPOSURE_COMMIT_CANCEL (R412). -/
def execExposureCommitCancel (fn n : Nat) (s : State) : Host.Outcome State Fault Refusal :=
  .next (if s.mayCommit fn n then s.trigCancel n else s)

/-- EXPOSURE_COMMIT_APPLY (R406). -/
def execExposureCommitApply (n : Nat) (s : State) : Host.Outcome State Fault Refusal := .next (s.trigApply n)

end Sys2Proof.Machine
end

