-- ==== Sys2Proof/Machine/Frames.lean ====
section
/-!
DEFINITION. Camera frames (R157–R175, R225–R230): starts of frame with their exposure times, generation and record,
assembly of lines, resends, and closing.
-/
namespace Sys2Proof.Machine

/-- What the start of a frame brings: the camera's frame number, the first-line arrival, the ages of R140, TRIG_LATE
and the echoed exposure generation. -/
structure FirstInfo where
  camFrame : Nat
  arrival : Time
  startAge : Nat
  endAge : Nat
  trigLate : Bool
  egen : Nat
  egenValid : Bool
deriving DecidableEq, Repr

/-- What a frame's exposure is found to be (R172, R225). -/
structure Exposure where
  start : Time
  end_ : Time
  /-- declared and age-derived flags of R255 -/
  flags : Nat
  /-- the matched placement's generation -/
  gen : Option Nat
  /-- the reference time of R174 -/
  ref : Time
deriving DecidableEq, Repr

/-- Bytes of `l` put at `off` of `buf`. -/
def overlay (buf : List Byte) (off : Nat) (l : List Byte) : List Byte :=
  buf.take off ++ (l.take (buf.length - off)) ++ buf.drop (off + l.length)

/-- An interval enters a list kept in order of its first byte. -/
def insertSpan (x : Nat × Nat) : List (Nat × Nat) → List (Nat × Nat)
  | [] => [x]
  | y :: r => if x.1 ≤ y.1 then x :: y :: r else y :: insertSpan x r

/-- Bytes covered without a gap from the first byte on, by intervals in order. -/
def coveredTo (n : Nat) : List (Nat × Nat) → Nat
  | [] => n
  | x :: r => if x.1 ≤ n then coveredTo (max n x.2) r else n

namespace State

/-! Ports (R157, R165). -/

/-- The standard a port runs: 1 CoaXPress, 2 Camera Link HS, 3 Torvelink, 4 Camera Link. -/
def standardOf (s : State) (P : Nat) : Nat := if P = 24 then 4 else s.rd (PT_LINK_STATUS_STANDARD P)

/-- The channel links a parallel-port configuration uses (R177). -/
def ppLinks (config : Nat) : Nat := if config = 0 then 1 else if config = 1 then 3 else 7

/-- Whether a port carries frames: Active, or for PP a pixel clock and every link in use aligned. -/
def portCarries (s : State) (P : Nat) : Bool :=
  if P = 24 then
    let m := ppLinks (s.rd PP_CTRL_CONFIG)
    s.rd PP_STATUS_CLK_OK == 1 && (s.rd PP_STATUS_ALIGNED &&& m) == m
  else s.rd (PT_LINK_STATUS_STATE P) == 5

/-- Whether a stream lies within the count the camera and the device agreed (R145, R170). -/
def streamAgreed (s : State) (st : Nat) : Bool :=
  portOf st == 24 || st % 4 < s.rd (PT_LINK_STATUS_STREAMS (portOf st))

/-- Intake is stopped: an activation from quiesce to resume, a warm reset, a module reset, a trip, or a recovery scan
(R62, R266, R475, R488, R489). -/
def intakeStopped (s : State) : Bool :=
  s.quiesced || s.rd PD_STATUS_SCAN == 1 || s.rd GLB_RESET_BUSY == 1 || s.power.inReset || s.power.tripped

/-- The hurdle state that throttles a port (R175). -/
def throttled (s : State) (P : Nat) : Bool :=
  s.rd (PT_THROTTLE_ENABLE P) == 1 &&
    (let k := s.rd (PT_THROTTLE_KIND P)
     let i := s.rd (PT_THROTTLE_INDEX P)
     (k == 1 && i < 8 && s.rd ⟨HU_IN, i, i⟩ == 1) || (k == 2 && s.rd (PN_STATUS_HURDLE i) == 1))

/-- A stream passes to another owner (R326). -/
def setStreamOwner (st fn : Nat) (s : State) : State :=
  { s with part := s.part.map fun q =>
      let bare := if q.streams.testBit st then q.streams - 2 ^ st else q.streams
      { q with streams := if q.fn = fn then bare + 2 ^ st else bare } }

/-- The ownership change that waits for the stream's start of frame (R326). -/
def moveOwner (st : Nat) (s : State) : State :=
  match s.streamMoves.find? fun x => x.1 == st with
  | some x =>
    let old := s.streamOwner st
    let saw := if old = 0 ∨ old = x.2 then [] else s.seenBy old
    dropUnseen old saw (setStreamOwner st x.2 { s with streamMoves := s.streamMoves.filter fun y => y.1 != st })
  | none => s

/-! Ingress (R161, R162). -/

/-- Words enter the ingress pen: the filling bank changes role at 256 words or at the END beat. -/
def ingress (st words : Nat) (last : Bool) (s : State) : State :=
  let x := s.strm st
  let n := x.words + words
  let turns := if last then ceilDiv n 256 else n / 256
  let bank := s.rd (ST_STATUS_BANK (portOf st) (st % 4))
  (s.setStrm st { x with words := if last then 0 else n % 256 }).wr (ST_STATUS_BANK (portOf st) (st % 4)) ((bank + turns) % 2)

/-- Bytes go to a region of `size` bytes from `base`, at an offset that wraps (R251). -/
def regionPut (base size off : Nat) (l : List Byte) (s : State) : State :=
  let o := off % size
  if o + l.length ≤ size then s.setBytes (base + o) l
  else (s.setBytes (base + o) (l.take (size - o))).setBytes base (l.drop (size - o))

/-- Line `y` of a frame goes to the paddock: padding bytes are zero. -/
def putRow (r : Rec) (y : Nat) (l : List Byte) (s : State) : State :=
  regionPut r.base r.size (r.offset + y * r.stride) (l ++ List.replicate (r.stride - l.length) 0) s

/-- The open record of a stream's frame. -/
def openRecord (s : State) (st : Nat) (o : Open) : Option Rec :=
  match o.slot with
  | none => none
  | some i =>
    match s.record i with
    | some r => if r.stream = st ∧ r.state = 1 then some r else none
    | none => none

/-- What waited in a stream's ingress pen drains to the paddock once it takes writes again. -/
def ingressDrain (st : Nat) (s : State) : State :=
  if s.rd PD_STATUS_SELF_REFRESH = 1 then s
  else
    let x := s.strm st
    let s := x.waiting.foldl (fun s e => s.setBytes e.1 e.2) s
    s.setStrm st { x with waiting := [], waitWords := 0 }

/-- A row while the paddock takes no writes: it waits in the banks, and beats beyond 512 words are discarded. -/
def rowWaits (st : Nat) (r : Rec) (y : Nat) (l : List Byte) (s : State) : State :=
  let x := s.strm st
  let n := ceilDiv l.length 64
  let room := 512 - x.waitWords
  let row := l ++ List.replicate (r.stride - l.length) 0
  let o := (r.offset + y * r.stride) % r.size
  let add := if o + row.length ≤ r.size then [(r.base + o, row)]
    else [(r.base + o, row.take (r.size - o)), (r.base, row.drop (r.size - o))]
  let s := s.setStrm st { x with
    waiting := x.waiting ++ add, waitWords := min 512 (x.waitWords + n), overflow := x.overflow || room < n }
  if x.overflow ∨ n ≤ room then s else s.tally (ST_IN_DROP_TALLY_COUNT (portOf st) (st % 4)) (n - room)

/-! Assembly (R166). -/

/-- A finished line leaves assembly: its bytes, of which `got` were received, go to the paddock. -/
def writeRow (st y : Nat) (l : List Byte) (got : List (Nat × Nat)) (s : State) : State :=
  match (s.strm st).frame with
  | none => s
  | some o =>
    let whole := o.lineLen ≤ coveredTo 0 got
    let o := if whole then o else { o with short := true, filledRows := o.filledRows ++ [y] }
    let s := s.updStrm st fun x => { x with frame := some o }
    let s := ingress st (ceilDiv o.lineLen 64) (y + 1 == o.height) s
    match s.openRecord st o with
    | none => s
    | some r =>
      let s := if s.rd PD_STATUS_SELF_REFRESH = 1 then rowWaits st r y l s else putRow r y l (ingressDrain st s)
      let s := keepRecord { r with lines := y + 1, filledRows := o.filledRows } s
      countArrival st r.width s

/-- A line is handed on, or held behind a packet whose resend is awaited (R168). -/
def handOn (st y : Nat) (l : List Byte) (got : List (Nat × Nat)) (s : State) : State :=
  match (s.strm st).frame with
  | none => s
  | some o =>
    let s := s.updStrm st fun x => { x with frame := some { o with next := y + 1 } }
    if o.bad.isEmpty then writeRow st y l got s
    else s.updStrm st fun x => { x with frame := x.frame.map fun o => { o with heldRows := o.heldRows ++ [(y, l, got)] } }

/-- The line in assembly is over. -/
def endLine (st : Nat) (s : State) : State :=
  match (s.strm st).frame with
  | none => s
  | some o =>
    match o.cur with
    | none => s
    | some y =>
      handOn st y o.buf o.got (s.updStrm st fun x => { x with frame := some { o with cur := none, got := [], ended := false } })

/-- `n` lines that never came are filled. -/
def fillLines (st : Nat) : Nat → State → State
  | 0, s => s
  | n + 1, s =>
    match (s.strm st).frame with
    | none => s
    | some o => fillLines st n (handOn st o.next o.fill [] s)

/-- Lines held behind resends leave in order. -/
def releaseRows (st : Nat) (s : State) : State :=
  match (s.strm st).frame with
  | none => s
  | some o =>
    let s := s.updStrm st fun x => { x with frame := some { o with bad := [], heldRows := [] } }
    o.heldRows.foldl (fun s e => writeRow st e.1 e.2.1 e.2.2 s) s

/-- The frame's record at its close (R255, R256). -/
def closeRecord (o : Open) (marks : Nat) (r : Rec) (s : State) : State :=
  putRecord { r with
    state := 2, flags := r.flags ||| marks, crcPackets := o.crc, filled := o.filledRows.length
    filledRows := o.filledRows, surplus := o.surplus, resent := o.resent, lines := r.height } s

/-- Tallies, ST_LAST_MARKS and the event of a frame's close (R166, R167, R182, R183). -/
def closeCounts (st marks cause : Nat) (s : State) : State :=
  let P := portOf st
  let i := st % 4
  let s := s.tally (ST_FRAME_TALLY_COUNT P i)
  let s := if marks.testBit 0 then s.tally (ST_SHORT_TALLY_COUNT P i) else s
  let s := if marks.testBit 1 then s.tally (ST_LONG_TALLY_COUNT P i) else s
  let s := if marks.testBit 2 then s.tally (ST_TRUNC_TALLY_COUNT P i) else s
  let s := ((s.wr (ST_LAST_MARKS_MARKS P i) marks).wr (ST_LAST_MARKS_CAUSE P i) cause).wr (ST_STATUS_OPEN P i) 0
  let s := s.wr (ST_STATUS_LINES P i) 0
  if marks ≠ 0 ∧ s.rd (ST_CTRL_MARK_EV P i) = 1 then s.raise (if P = 24 then 323 else 224 + 4 * P + 3) 0 else s

/-- The open frame closes (R166, R167); cause 0: by its end marker. -/
def closeFrame (st cause : Nat) (s : State) : State :=
  match (s.strm st).frame with
  | none => s
  | some o =>
    let s := endLine st (releaseRows st s)
    let next := match (s.strm st).frame with
      | some x => x.next
      | none => o.height
    let s := fillLines st (o.height - next) s
    match (s.strm st).frame with
    | none => s
    | some o =>
      let marks := (if cause ≠ 0 then markTrunc else if o.short then markShort else 0) + (if o.long then markLong else 0)
        + if o.resent < o.crc then markCrc else 0
      let s := match s.openRecord st o with
        | some r => closeRecord o marks r s
        | none => s
      closeCounts st marks cause (s.updStrm st fun x => { x with frame := none, overflow := false })

/-- An overflow of the ingress pen closes the frame (R162). -/
def overflowCheck (st : Nat) (s : State) : State :=
  let x := s.strm st
  if x.overflow ∧ x.frame.isSome then
    (closeFrame st 4 s).updStrm st fun x => { x with drop := true, resync := true, overflow := true }
  else s

/-- A stray line counts once (R166). -/
def strayLine (st y : Nat) (cont : Bool) (s : State) : State :=
  let t (s : State) := s.tally (ST_STRAY_TALLY_COUNT (portOf st) (st % 4))
  match (s.strm st).frame with
  | some o =>
    let s := s.updStrm st fun x => { x with frame := some { o with lastStray := if cont then some y else none } }
    if o.lastStray = some y then s else t s
  | none =>
    let x := s.strm st
    let s := s.setStrm st { x with lastStray := if cont then some y else none }
    if x.lastStray = some y then s else t s

/-- A line beyond the frame's height (R166). -/
def surplusLine (st y : Nat) (cont : Bool) (o : Open) (s : State) : State :=
  let first := o.lastSurplus ≠ some y
  let s := s.updStrm st fun x => { x with frame := some { o with
    long := true, surplus := o.surplus + (if first then 1 else 0), lastSurplus := if cont then some y else none } }
  if first then s.tally (ST_SURPLUS_LINE_TALLY_COUNT (portOf st) (st % 4)) else s

/-- Line `y` comes into assembly: the line before it is over, and lines skipped are filled. -/
def beginLine (st y : Nat) (s : State) : State :=
  let s := endLine st s
  match (s.strm st).frame with
  | none => s
  | some o =>
    let s := fillLines st (y - o.next) s
    (s.updStrm st fun x => { x with frame := x.frame.map fun o =>
      { o with cur := some y, buf := o.fill, got := [], ended := false, received := o.received + 1 } }).wr
      (ST_STATUS_LINES (portOf st) (st % 4)) (o.received + 1)

/-- A packet's payload goes into its line. -/
def placeBytes (st y off : Nat) (data : List Byte) (cont : Bool) (s : State) : State :=
  let cur := match (s.strm st).frame with
    | some o => o.cur
    | none => none
  let s := if cur = some y then s else beginLine st y s
  s.updStrm st fun x => { x with frame := x.frame.map fun o =>
    { o with
      buf := overlay o.buf off data
      got := insertSpan (off, min o.lineLen (off + data.length)) o.got
      long := o.long || o.lineLen < off + data.length
      ended := !cont } }

/-- Whether a line's packet lies in the open frame and not behind it. -/
def lineFits (o : Open) (y : Nat) : Bool :=
  y < o.height && o.next ≤ y && match o.cur with
    | some c => c < y || (c == y && !o.ended)
    | none => true

/-- A failed packet counts; on Camera Link HS its resend is asked for (R168). -/
def failedPacket (st y off : Nat) (placed : Bool) (s : State) : State :=
  let hs := s.standardOf (portOf st) = 2
  let s := s.updStrm st fun x => { x with frame := x.frame.map fun o =>
    { o with crc := o.crc + 1, bad := if hs && placed then o.bad ++ [⟨y, off⟩] else o.bad } }
  let s := s.tally (ST_CRC_TALLY_COUNT (portOf st) (st % 4))
  if hs ∧ placed then (s.tally (ST_RESEND_TALLY_COUNT (portOf st) (st % 4))).emit (.resendRequest (portOf st) st y off) else s

/-- No resend is awaited any more: held lines leave, and an end marker that came meanwhile closes the frame. -/
def resendsDone (st : Nat) (s : State) : State :=
  match (s.strm st).frame with
  | none => s
  | some o =>
    if !o.bad.isEmpty then s
    else
      let s := releaseRows st s
      if o.endSeen then closeFrame st 0 s else s

/-- A resent packet replaces the failed one, or comes too late (R168). -/
def resentPacket (st y off : Nat) (data : List Byte) (s : State) : State :=
  let late (s : State) := s.tally (ST_STRAY_TALLY_COUNT (portOf st) (st % 4))
  match (s.strm st).frame with
  | none => late s
  | some o =>
    if !(o.bad.contains ⟨y, off⟩) then late s
    else
      let span := (off, min o.lineLen (off + data.length))
      let o := if o.cur = some y then { o with buf := overlay o.buf off data, got := insertSpan span o.got }
        else { o with heldRows := o.heldRows.map fun e =>
          if e.1 = y then (y, overlay e.2.1 off data, insertSpan span e.2.2) else e }
      resendsDone st (s.updStrm st fun x => { x with frame := some { o with bad := o.bad.erase ⟨y, off⟩, resent := o.resent + 1 } })

/-- A line's number and offset: as the packet's header names them on Torvelink, else by order of arrival (R165). -/
def packetPlace (s : State) (st line off : Nat) (o : Open) : Nat × Nat :=
  if s.standardOf (portOf st) = 3 then (line, off)
  else if o.inLine then (o.arrived - 1, o.at_) else (o.arrived, 0)

/-- A video packet of an open frame (R165, R166, R168). -/
def framePacket (st line offset : Nat) (data : List Byte) (good cont : Bool) (o : Open) (s : State) : State :=
  let p := s.packetPlace st line offset o
  let fits := lineFits o p.1
  let s := s.updStrm st fun x => { x with frame := some { o with
    arrived := if o.inLine then o.arrived else o.arrived + 1, inLine := cont
    at_ := if cont then p.2 + data.length else 0 } }
  let s := if good then s else failedPacket st p.1 p.2 fits s
  match (s.strm st).frame with
  | none => s
  | some o =>
    if fits then overflowCheck st (placeBytes st p.1 p.2 data cont s)
    else if good && o.height ≤ p.1 then surplusLine st p.1 cont o s
    else strayLine st p.1 cont s

/-- A video packet (R166). -/
def videoPacket (st line offset : Nat) (data : List Byte) (good cont resent : Bool) (s : State) : State :=
  let P := portOf st
  if !s.portCarries P then s
  else if !s.streamAgreed st then
    if s.standardOf P = 3 then s.tally (PT_TV_STRAY_TALLY_COUNT P) else s
  else
    let x := s.strm st
    if resent then resentPacket st line offset data s
    else match x.frame with
      | some o => framePacket st line offset data good cont o s
      | none =>
        if x.drop then
          if x.overflow then s.tally (ST_IN_DROP_TALLY_COUNT P (st % 4)) (ceilDiv data.length 64) else s
        else
          let s := strayLine st line cont s
          if good then s else s.tally (ST_CRC_TALLY_COUNT P (st % 4))

/-- An end marker (R165); it waits for resends (R168). -/
def endOfFrame (st : Nat) (s : State) : State :=
  let x := s.strm st
  match x.frame with
  | some o =>
    if o.bad.isEmpty then closeFrame st 0 s
    else s.setStrm st { x with frame := some { o with endSeen := true } }
  | none => s.setStrm st { x with drop := false, overflow := false }

/-- The resend of a stream's oldest failed packet has not come (R168). -/
def resendTimeout (st : Nat) (s : State) : State :=
  match (s.strm st).frame with
  | none => s
  | some o => if o.bad.isEmpty then s
    else resendsDone st (s.updStrm st fun x => { x with frame := some { o with bad := o.bad.tail } })

/-! Exposure times and generation (R171–R174, R225–R228). -/

/-- An age-derived instant (R173), rounded to nearest. -/
def ageTime (s : State) (P age : Nat) (a : Time) : Time :=
  let f := uiFrac (s.rd (PT_LINK_STATUS_RATE P))
  let inc := (s.tb.counter s.tb.active).inc
  let lane := 65536 * (s.rd (PT_TV_ONEWAY_UNITS P) * f.1) + 1024000 * (age * f.2)
  ((a : Int) - nearest ((lane * inc : Nat) : Int) (0x4E200000000 * f.2)).toNat

def ageUnknown : Nat := 0xFFFFFFFF

/-- The generation of a channel in force at an instant (R226). -/
def genAt (s : State) (n : Nat) (t : Time) : Nat :=
  match (s.trig n).gens with
  | [] => s.rd (TR_COMMIT_GEN n)
  | l => match l.find? fun e => e.1 ≤ t with
    | some e => e.2
    | none => match l.getLast? with
      | some e => (e.2 + 65535) % 65536
      | none => 0

/-- The earliest unmatched placement within the window of a reference time (R174). -/
def findPlacement (hist : List PlaceHist) (used : List Nat) (ref window : Time) : Option PlaceHist :=
  (hist.filter fun p => !used.contains p.id && p.start ≤ ref + window && ref ≤ p.start + window).foldl
    (fun a p => match a with
      | none => some p
      | some b => some (if p.start < b.start then p else b)) none

/-- A frame's exposure (R172–R174), with the placements matched and dropped. -/
def exposure (st : Nat) (i : FirstInfo) (s : State) : Exposure × State :=
  let P := portOf st
  let k := st % 4
  let tv := s.standardOf P = 3
  let ages := tv ∧ i.startAge ≠ ageUnknown ∧ i.endAge ≠ ageUnknown
  let declExp := s.rd (ST_DECL_EXPOSURE_VALUE P k)
  let declStart := i.arrival - psUnits (s.rd (ST_DECL_READOUT_VALUE P k) + declExp)
  let declEnd := i.arrival - psUnits (s.rd (ST_DECL_READOUT_VALUE P k))
  let ref := if tv ∧ i.startAge ≠ ageUnknown then s.ageTime P i.startAge i.arrival else declStart
  let rows : Time × Time × Nat := if ages then (s.ageTime P i.startAge i.arrival, s.ageTime P i.endAge i.arrival, flagAge)
    else (declStart, declEnd, flagDeclared)
  let bind := s.rd (ST_CTRL_TRIG_BIND P k)
  if bind = 0 then (⟨rows.1, rows.2.1, rows.2.2, none, ref⟩, s)
  else
    let n := bind - 1
    let hist := (s.trig n).history
    let x := s.strm st
    let used := if x.used.1 = bind then x.used.2.filter fun u => hist.any fun p => p.id == u else []
    let window := Time.ofNs (s.rd (ST_MATCH_WINDOW_VALUE P k))
    match findPlacement hist used ref window with
    | none => (⟨rows.1, rows.2.1, rows.2.2, none, ref⟩,
        (s.setStrm st { x with used := (bind, used) }).tally (ST_UNMATCHED_TALLY_COUNT P k))
    | some p =>
      let late := p.late ∨ (tv ∧ i.trigLate)
      let e : Exposure :=
        if late then ⟨rows.1, rows.2.1, rows.2.2, some p.gen, ref⟩
        else ⟨p.start, if p.ended then p.end_ else if tv ∧ i.endAge ≠ ageUnknown then s.ageTime P i.endAge i.arrival
          else p.start + psUnits declExp, 0, some p.gen, ref⟩
      let used := used ++ [p.id]
      let gone := hist.filter fun q => !used.contains q.id && q.start + window < e.start
      (e, (s.setStrm st { x with used := (bind, used ++ gone.map (·.id)) }).tally (ST_ORPHAN_TRIG_TALLY_COUNT P k) gone.length)

/-- The generation under R228. -/
def inferredGen (s : State) (st : Nat) (start : Time) : Nat :=
  match (s.port (portOf st)).written.find? fun e => e.1 + psUnits (s.rd (EG_LATENCY_PICOSECONDS st)) ≤ start with
  | some e => e.2
  | none => s.rd (EG_CURRENT_EGEN st)

/-- A frame's exposure generation with its flags (R225). -/
def generation (st : Nat) (i : FirstInfo) (e : Exposure) (s : State) : (Nat × Nat) × State :=
  let P := portOf st
  let source := s.rd (EG_CTRL_SOURCE st)
  let bind := s.rd (ST_CTRL_TRIG_BIND P (st % 4))
  let r : (Nat × Nat) × State :=
    if source = 0 ∨ (source = 1 ∧ bind = 0) then ((0, flagNoEgen), s)
    else if source = 1 then
      match e.gen with
      | some g => ((g, 0), s)
      | none => ((s.genAt (bind - 1) e.ref, flagInferred), s)
    else if source = 2 then
      if i.egenValid ∧ (s.port P).egen then ((i.egen, 0), s)
      else ((s.inferredGen st e.start, flagInferred), s.tally (EG_NO_ECHO_TALLY_COUNT st))
    else ((s.inferredGen st e.start, flagInferred), s)
  let s := ((r.2.wr (EG_CURRENT_EGEN st) r.1.1).wrIf (EG_CURRENT_INFERRED st) (r.1.2 == flagInferred)).wrIf
    (EG_CURRENT_NONE st) (r.1.2 == flagNoEgen)
  (r.1, s)

/-! Space for a frame (R251–R254, R258, R262). -/

/-- The paddock discards a frame whole. -/
def discardFrame (st : Nat) (s : State) : Option Nat × State := (none, s.tally (PD_ST_DISCARD_TALLY_COUNT st))

/-- A burst region is full (R252, R262). -/
def burstFull (st : Nat) (s : State) : Option Nat × State :=
  let s := s.wr (PD_ST_CTRL_BURST_DONE st) 1
  let s := match s.groupOf st with
    | some g => if s.fgState g = 2 ∧ !(s.win g (s.fgRegion g) st).closed then frozenCheck g (closeWin g st true false s) else s
    | none => s
  discardFrame st s

/-- The byte offset in the active region that a new frame takes, with what older frames lose. -/
def frameSpace (st : Nat) (s : State) : Option Nat × State :=
  let r := s.activeRegion st
  let size := (s.region st r).2
  let len := s.frameLen st
  let off := 64 * s.rd (PD_ST_WRITE_OFFSET st)
  let mode := s.rd (PD_ST_CTRL_MODE st)
  let g := s.groupOf st
  let held : Bool := match g with
    | some g => s.fgState g == 3 && s.rd (heldRef g r) == 1
    | none => false
  let idle : Bool := match g with
    | some g => mode == 2 && s.fgState g == 0
    | none => false
  if held || idle || size < 2 * len then discardFrame st s
  else if mode = 2 then
    if s.rd (PD_ST_CTRL_BURST_DONE st) = 1 ∨ size < off + len then burstFull st s else (some off, s)
  else if s.freeSlot.isNone then (none, s.tally PD_NO_RECORD_TALLY_COUNT)
  else
    let vs := s.victims st off len
    let a := if mode = 1 then mayOverwrite st vs s else (true, s)
    if !a.1 then (none, a.2)
    else
      let s := vs.foldl (fun s v => match s.record v.slot with
        | some v => markOver v s
        | none => s) a.2
      (some off, s.tally (PD_ST_OVERWRITE_TALLY_COUNT st) vs.length)

/-- TAPS of R255. -/
def tapsByte (b : Bank) : Nat := b.tapA % 16 + 16 * (b.tapB % 16)

/-- STATS of R255. -/
def statsWord (b : Bank) : Nat := b.statPen + (if b.frameEn then 65536 else 0) + if b.focusEn then 131072 else 0

/-- GROUP bits of a stream without a freeze group are not stated. -/
def groupBits (s : State) (st : Nat) : Nat := (s.groupOf st).getD Config.noGroup.val

/-- The record of a frame at its start (R254–R256). -/
def openSlot (st number slot off : Nat) (i : FirstInfo) (e : Exposure) (eg : Nat × Nat) (s : State) : State :=
  let P := portOf st
  let k := st % 4
  let x := s.strm st
  let r := s.activeRegion st
  let rg := s.region st r
  let h := (s.homeOf st).getD (0, 0)
  let bank := bankAt s.fab h.1 h.2 1
  let seq := s.rd PD_RECORD_SEQ_VALUE
  let len := s.frameLen st
  let stride := strideOf (s.rd (ST_LINE_BYTES_VALUE P k))
  let record : Rec := {
    stream := st, slot := slot, seq := seq, number := number, context := h.2, state := 1
    flags := e.flags ||| eg.2 ||| (if x.resync then flagResync else 0)
      ||| (if s.rd CAL_STATUS_PENDING = 1 then flagCalPending else 0)
    taps := tapsByte bank, egen := eg.1, cgen := (s.ctx (ctxKey h)).gen, group := s.groupBits st, region := r
    domain := s.domainAt e.start, start := e.start, end_ := e.end_, arrival := i.arrival
    address := rg.1 + off % rg.2, length := len, width := s.streamWidth st, height := s.streamHeight st
    format := s.rd (ST_FORMAT_VALUE P k), stride := stride, stats := statsWord bank
    gap := match x.prev with
      | some p => (number + 2 ^ 64 - p - 1) % 2 ^ 64
      | none => number
    base := rg.1, size := rg.2 }
  let next := if s.rd (PD_ST_CTRL_MODE st) = 2 then off + len else (off + len) % rg.2
  let s := (((s.wr PD_RECORD_SEQ_VALUE (seq + 1)).wr PD_RECORD_NEXT_VALUE ((slot + 1) % recordSlots)).wr
    (PD_ST_WRITE_OFFSET st) (next / 64)).setStrm st { x with resync := false, prev := some number }
  addJob record (putRecord record s)

/-- The paddock takes a frame, or not: its record slot. -/
def takeFrame (st number : Nat) (i : FirstInfo) (e : Exposure) (eg : Nat × Nat) (s : State) : Option Nat × State :=
  let a := frameSpace st s
  match a.1 with
  | none => (none, a.2)
  | some off =>
    match a.2.freeSlot with
    | none => (none, a.2.tally PD_NO_RECORD_TALLY_COUNT)
    | some slot => (some slot, openSlot st number slot off i e eg a.2)

/-! Start of frame (R165, R169, R170). -/

/-- The stream's frame number is taken (R169). -/
def takeNumber (st : Nat) (s : State) : Nat × State :=
  let key := ST_NEXT_FRAME (portOf st) (st % 4)
  let n := s.rdWide key 2
  (n, s.wrWide key 2 (n + 1))

/-- FRAME of a FIRST packet on Torvelink (R169). -/
def camNumber (st camFrame : Nat) (s : State) : State :=
  let P := portOf st
  if s.standardOf P ≠ 3 then s
  else
    let x := s.strm st
    let gap : Bool := match x.camFrame with
      | some c => (c + 1) % 65536 != camFrame % 65536
      | none => false
    let s := s.setStrm st { x with camFrame := some (camFrame % 65536) }
    if gap then s.tally (ST_CAM_GAP_TALLY_COUNT P (st % 4)) else s

/-- A factory-placed stream joins its freeze group at its first start of frame (R70). -/
def joinGroup (st : Nat) (s : State) : State :=
  let factory : Bool := match s.struct.image with
    | some im => im.streams.isNone
    | none => false
  match s.streams.find? fun e => e.stream == st with
  | some e => if factory && e.group < 16 && (s.groupOf st).isNone then s.wr (memberRef e.group st) 1 else s
  | none => s

/-- The frame is discarded whole: its packets are ignored. -/
def dropFrame (st : Nat) (s : State) : State := s.updStrm st fun x => { x with frame := none, drop := true }

/-- An accepted start of frame (R21, R170, R171–R174, R209, R254). -/
def acceptFrame (st : Nat) (i : FirstInfo) (s : State) : State :=
  let P := portOf st
  let k := st % 4
  let n := takeNumber st (s.wr (ST_STATUS_THROTTLED P k) 0)
  let s := joinGroup st (moveOwner st n.2)
  let s := match s.groupOf st with
    | some g => memberSwitch g st s
    | none => s
  let s := trigSof st (contextSof st s)
  let e := exposure st i s
  let eg := generation st i e.1 e.2
  let a := takeFrame st n.1 i e.1 eg.1 eg.2
  let len := a.2.rd (ST_LINE_BYTES_VALUE P k)
  let fill := match a.2.streamFormat st with
    | some f => fillLine f (a.2.streamWidth st) (a.2.rd (PT_FILL_VALUE P))
    | none => List.replicate len 0
  let o : Open := { slot := a.1, height := a.2.streamHeight st, lineLen := len, fill := fill }
  ((a.2.updStrm st fun x => { x with frame := some o, drop := false, overflow := false }).wr (ST_STATUS_OPEN P k) 1).wr
    (ST_STATUS_LINES P k) 0

/-- A start of frame on a port that carries frames. Its packet is the video packet that carries it, which is counted
there where its stream is beyond the agreed count (R145). -/
def startOfFrame (st : Nat) (i : FirstInfo) (s : State) : State :=
  let P := portOf st
  let k := st % 4
  if !s.portCarries P || !s.streamAgreed st then s
  else
    let s := camNumber st i.camFrame (closeFrame st 2 s)
    if s.rd (FH_CONTROL_HALT (PT_HDR P)) = 1 ∨ s.intakeStopped ∨ s.rd (ST_CTRL_ENABLE P k) = 0 then dropFrame st s
    else if s.throttled P then
      let s := (takeNumber st s).2.tally (ST_SKIP_TALLY_COUNT P k)
      (dropFrame st (s.wr (ST_STATUS_THROTTLED P k) 1)).updStrm st fun x => { x with resync := true }
    else acceptFrame st i s

/-- Every stream of a port. -/
def portStreams (P : Nat) : List Nat := if P = 24 then [96] else [4 * P, 4 * P + 1, 4 * P + 2, 4 * P + 3]

/-- A port stops carrying frames: open frames are truncated, and members that wait for a start of frame switch at
once (R170, R264). -/
def portSilent (P cause : Nat) (s : State) : State :=
  (portStreams P).foldl (fun s st =>
    let s := (closeFrame st cause s).updStrm st fun x => { x with drop := false, overflow := false, resync := true, camFrame := none }
    match s.groupOf st with
    | some g => memberSwitch g st s
    | none => s) s

end State

/-- START_OF_FRAME (R165). -/
def execStartOfFrame (st camFrame arrival startAge endAge : Nat) (trigLate : Bool) (egen : Nat) (egenValid : Bool) (s : State) :
    Host.Outcome State Fault Refusal :=
  .next (s.startOfFrame st ⟨camFrame, arrival, startAge, endAge, trigLate, egen, egenValid⟩)

/-- VIDEO_PACKET (R166, R168). -/
def execVideoPacket (st line offset : Nat) (data : List Byte) (crcOk cont resent : Bool) (s : State) :
    Host.Outcome State Fault Refusal :=
  .next (s.videoPacket st line offset data crcOk cont resent)

/-- END_OF_FRAME (R166). -/
def execEndOfFrame (st : Nat) (s : State) : Host.Outcome State Fault Refusal := .next (s.endOfFrame st)

/-- FRAME_TIMEOUT (R166): cause 1. -/
def execFrameTimeout (st : Nat) (s : State) : Host.Outcome State Fault Refusal := .next (s.closeFrame st 1)

/-- RESEND_TIMEOUT (R168). -/
def execResendTimeout (st : Nat) (s : State) : Host.Outcome State Fault Refusal := .next (s.resendTimeout st)

end Sys2Proof.Machine
end

