-- ==== Sys2Proof/Machine/Parallel.lean ====
section
/-!
DEFINITION. The parallel port (R177–R182): clock and alignment of its channel links, and its serial channel.
-/
namespace Sys2Proof.Machine

namespace State

/-- Bit `l` of PP_STATUS.ALIGNED. -/
def alignedBit (l : Nat) : FRef := ⟨PP_STATUS, l, l⟩

/-- A link reads its clock word (R179). -/
def alignAcquired (l : Nat) (s : State) : State :=
  if s.rd PP_STATUS_CLK_OK = 0 ∨ s.rd (alignedBit l) = 1 then s else (s.wr (alignedBit l) 1).raise 320 0

/-- A link loses its alignment (R179). -/
def alignLost (l : Nat) (s : State) : State :=
  if s.rd (alignedBit l) = 0 then s
  else closeFrame 96 6 (((s.wr (alignedBit l) 0).tally PP_ALIGN_LOSS_TALLY_COUNT).raise 320 0)

/-- A write of PP_ALIGN: in manual mode the link named slips (R179). -/
def alignWrite (fn : Nat) (w : Word) (s : State) : State :=
  let n := bitsOf w 10 8
  let l := bitsOf w 5 4
  let s := putWord fn PP_ALIGN w s
  if s.rd PP_ALIGN_MANUAL = 1 ∧ 1 ≤ n ∧ n ≤ 6 ∧ l < 3 then
    { s with slips := Tab.upd (fun _ => 0) s.slips l fun x => (x + n) % 7 }
  else s

/-- The pixel clock is gone: the open frame is truncated, and STP switches regions at once where it waits to
(R170, R178, R264). -/
def clockLost (s : State) : State :=
  if s.rd PP_STATUS_CLK_OK = 0 then s else portSilent 24 6 ((s.wr PP_STATUS_CLK_OK 0).raise 322 0)

/-- The pixel clock is back (R178). -/
def clockPresent (s : State) : State :=
  if s.rd PP_STATUS_CLK_OK = 1 then s else (s.wr PP_STATUS_CLK_OK 1).raise 322 0

/-- The levels of PP_SER_STATUS, and what PP_SER_RX shows. -/
def serialShow (s : State) : State :=
  let s := (s.wr PP_SER_STATUS_TX_LEVEL s.serial.tx.length).wr PP_SER_STATUS_RX_LEVEL s.serial.rx.length
  (s.wrIf PP_SER_RX_VALID (!s.serial.rx.isEmpty)).wr PP_SER_RX_BYTE (s.serial.rx.headD 0)

/-- The serial channel starts to send a byte. -/
def serialShift (b : Nat) (s : State) : State := { s with serial := { s.serial with shift := some b } }.emit (.serialByte b)

/-- A byte to send (R181). -/
def serialSend (b : Nat) (s : State) : State :=
  if s.serial.shift.isNone then serialShift b s
  else if s.serial.tx.length ≥ 256 then s.wr PP_SER_STATUS_TX_OVF 1
  else serialShow { s with serial := { s.serial with tx := s.serial.tx ++ [b] } }

/-- A byte has gone out; the next one follows. -/
def serialSent (s : State) : State :=
  match s.serial.shift with
  | none => s
  | some _ =>
    match s.serial.tx with
    | [] => { s with serial := { s.serial with shift := none } }
    | b :: r => serialShow (serialShift b { s with serial := { s.serial with tx := r } })

/-- A byte comes in; `stop`: its stop bit (R181). -/
def serialReceive (b : Nat) (stop : Bool) (s : State) : State :=
  if !stop then s.wr PP_SER_STATUS_RX_FRAMING 1
  else if s.serial.rx.length ≥ 256 then
    let s' := (s.wr PP_SER_STATUS_RX_OVF 1).tally PP_SER_OVR_TALLY_COUNT
    if s.rd PP_SER_STATUS_RX_OVF = 0 then s'.raise 321 0 else s'
  else
    let s' := serialShow { s with serial := { s.serial with rx := s.serial.rx ++ [b] } }
    if s.serial.rx.isEmpty then s'.raise 321 0 else s'

/-- A read of PP_SER_RX takes the oldest byte (R181). -/
def serialRead (fn : Nat) (s : State) : State :=
  let s := s.emit (.readReply fn (s.rw PP_SER_RX))
  serialShow { s with serial := { s.serial with rx := s.serial.rx.tail } }

/-- A function that sees the parallel port's window (R102, R125). -/
def seesPort (s : State) (fn P : Nat) : Bool := fn == 0 || s.ownsPort fn P

end State

/-- PP_ALIGN_ACQUIRED (R179). -/
def execPpAlignAcquired (link : Nat) (s : State) : Host.Outcome State Fault Refusal := .next (s.alignAcquired link)

/-- PP_ALIGN_LOST (R179). -/
def execPpAlignLost (link : Nat) (s : State) : Host.Outcome State Fault Refusal := .next (s.alignLost link)

/-- PP_ALIGN_SLIP (R179): the management function's write of PP_ALIGN. -/
def execPpAlignSlip (value : Word) (s : State) : Host.Outcome State Fault Refusal := .next (s.alignWrite 0 value)

/-- PP_CLOCK_LOST (R178). -/
def execPpClockLost (s : State) : Host.Outcome State Fault Refusal := .next s.clockLost

/-- PP_CLOCK_PRESENT (R178). -/
def execPpClockPresent (s : State) : Host.Outcome State Fault Refusal := .next s.clockPresent

/-- PP_SER_TX_WRITE (R181). -/
def execPpSerTxWrite (byte : Nat) (s : State) : Host.Outcome State Fault Refusal := .next (s.serialSend byte)

/-- PP_SER_RX_READ (R181). -/
def execPpSerRxRead (fn : Nat) (s : State) : Host.Outcome State Fault Refusal :=
  .next (if s.seesPort fn 24 then s.serialRead fn else s.emit (.readReply fn 0))

/-- PP_SER_BYTE_RECEIVED (R181). -/
def execPpSerByteReceived (byte : Nat) (stop : Bool) (s : State) : Host.Outcome State Fault Refusal :=
  .next (s.serialReceive byte stop)

/-- PP_SER_BYTE_SENT (R181). -/
def execPpSerByteSent (s : State) : Host.Outcome State Fault Refusal := .next s.serialSent

end Sys2Proof.Machine
end

