-- ==== Sys2Proof/Machine/Scan.lean ====
section
/-!
DEFINITION. The recovery scan (R266–R268): the record table and the summaries are read back from the paddock and the
frame index, streams and freeze groups rebuilt.
-/
namespace Sys2Proof.Machine

/-- A device time of R255 read back from its 12 bytes. -/
def timeOf (l : List Byte) : Time :=
  Time.ofParts (leNat (l.take 6)) (leNat ((l.drop 6).take 4)) (leNat ((l.drop 10).take 2))

/-- A field of `n` bytes at an offset. -/
def fieldAt (l : List Byte) (off n : Nat) : Nat := leNat ((l.drop off).take n)

/-- `n` eight-byte words from an offset. -/
def wordsAt (l : List Byte) (off n : Nat) : List Nat := (List.range n).map fun k => fieldAt l (off + 8 * k) 8

/-- Whether the 256 bytes of a slot are a valid record (R268). -/
def recValid (l : List Byte) : Bool :=
  l.take 5 == [0x53#8, 0x56#8, 0x46#8, 0x52#8, 1#8] && fieldAt l 0xFC 4 == (crc32c (l.take 0xFC)).toNat

/-- A record read back; where its region began is known from the index checkpoint. -/
def parseRec (slot : Nat) (l : List Byte) (old : Option Rec) : Rec :=
  let group := fieldAt l 0x1C 1
  let address := fieldAt l 0xC8 8
  let length := fieldAt l 0xD0 4
  let height := fieldAt l 0xD6 2
  let same := old.filter fun o => o.seq == fieldAt l 0x10 4 && o.address == address
  { stream := fieldAt l 6 1, slot := slot, seq := fieldAt l 0x10 4, number := fieldAt l 8 8, context := fieldAt l 7 1
    state := fieldAt l 5 1, flags := fieldAt l 0x14 2, fold := fieldAt l 0x16 1, taps := fieldAt l 0x17 1
    egen := fieldAt l 0x18 2, cgen := fieldAt l 0x1A 2, group := group % 16, window := group.testBit 4
    region := group / 32 % 2, domain := fieldAt l 0x1D 1, posValid := fieldAt l 0x1E 1, aiValid := fieldAt l 0x1F 1
    start := timeOf (l.drop 0x20), end_ := timeOf (l.drop 0x2C), arrival := timeOf (l.drop 0x38)
    enc := wordsAt l 0x48 4, abs := wordsAt l 0x68 4, ai := wordsAt l 0x88 8
    address := address, length := length, width := fieldAt l 0xD4 2, height := height
    format := fieldAt l 0xD8 4, stride := fieldAt l 0xDC 4, stats := fieldAt l 0xE0 4
    crcPackets := fieldAt l 0xE4 2, filled := fieldAt l 0xE6 2, surplus := fieldAt l 0xE8 2, resent := fieldAt l 0xEA 2
    tagLate := fieldAt l 0xEC 1, gap := fieldAt l 0xEE 2
    base := (same.map (·.base)).getD address, size := (same.map (·.size)).getD length
    lines := height, filledRows := (same.map (·.filledRows)).getD [] }

/-- Whether SEQ `a` is later than `b` in serial-number order. -/
def seqLater (a b : Nat) : Bool := let d := (a + 2 ^ 32 - b) % 2 ^ 32; d != 0 && d < 2 ^ 31

/-- The record slots that hold a byte other than zero, in order. -/
def usedSlots : List Host.Cell → List Nat
  | [] => []
  | c :: r =>
    if 256 * recordSlots ≤ c.1 then []
    else
      let l := usedSlots r
      if l.head? = some (c.1 / 256) then l else (c.1 / 256) :: l

/-- Of valid records with one STREAM and FRAME, the later SEQ stays. -/
def keepLatest (l : List Rec) : List Rec :=
  l.filter fun r => l.all fun o => o.stream != r.stream || o.number != r.number || !seqLater o.seq r.seq

/-- A summary's bytes with STATE 3, CLIP_POST and FLAGS bit 2 (R268). -/
def summaryClosed (l : List Byte) : List Byte :=
  let n := fieldAt l 0x1E 2
  let flags := fieldAt l 0x1D 1 ||| 6
  let head := l.take 5 ++ leBytes 1 3 ++ (l.drop 6).take 0x17 ++ leBytes 1 flags ++ (l.drop 0x1E).take 0x1E
  let body := (List.range n).flatMap fun k =>
    let e := (l.drop (64 + 32 * k)).take 32
    e.take 1 ++ leBytes 1 (fieldAt e 1 1 ||| 2) ++ e.drop 2
  head ++ leBytes 4 (crc32c (head ++ body)).toNat ++ body

/-- Whether a summary slot's CRC holds (R265, R268). -/
def summaryValid (l : List Byte) : Bool :=
  let n := fieldAt l 0x1E 2
  l.take 4 == [0x53#8, 0x56#8, 0x46#8, 0x5A#8] && n ≤ 97
    && fieldAt l 0x3C 4 == (crc32c (l.take 0x3C ++ (l.drop 0x40).take (32 * n))).toNat

namespace State

/-- `n` bytes of the paddock. -/
def paddockBytes (s : State) (a n : Nat) : List Byte := (List.range n).map fun i => s.fab.byte (a + i)

/-- A record the reset left unfinished is completed (R268). -/
def finishRecord (r : Rec) (s : State) : State :=
  if r.state = 1 then offer { r with state := 3, flags := r.flags ||| markTrunc }
    (putRecord { r with state := 3, flags := r.flags ||| markTrunc } s)
  else if r.state = 2 then offer { r with state := 3, tagLate := r.tagLate + 1 }
    (putRecord { r with state := 3, tagLate := r.tagLate + 1 } s)
  else keepRecord r s

/-- The valid record of the latest SEQ. -/
def latestRec (l : List Rec) : Option Rec :=
  l.foldl (fun a r => match a with
    | none => some r
    | some b => some (if seqLater r.seq b.seq then r else b)) none

/-- A stream resumes after its newest recorded frame (R268). -/
def resumeStream (l : List Rec) (s : State) (st : Nat) : State :=
  let mine := l.filter fun r => r.stream == st
  let s := s.updStrm st fun x => { x with resync := true }
  match latestRec mine with
  | none => s
  | some r =>
    let top := mine.foldl (fun a r => max a r.number) 0
    let key := ST_NEXT_FRAME (portOf st) (st % 4)
    let s := s.wrWide key 2 (max (s.rdWide key 2) (top + 1))
    let off := r.offset + r.length
    let s := s.wr (PD_ST_CTRL_ACTIVE_REGION st) r.region
    let s := s.wr (PD_ST_WRITE_OFFSET st)
      ((if s.rd (PD_ST_CTRL_MODE st) = 2 ∨ r.size = 0 then off else off % r.size) / 64)
    s.updStrm st fun x => { x with prev := some r.number }

/-- A member's window rebuilt from its records. -/
def rebuiltWin (s : State) (g region st : Nat) (t : Time) (flags : Nat) : Win :=
  let l := (s.records.filterMap (·.2)).filter fun r =>
    r.stream == st && r.group == g && r.region == region && r.window
  let slots (p : Rec → Bool) := (l.filter p).foldl (fun a r => s.insertSlot r.slot a) []
  { pre := slots fun r => r.start < t, post := slots fun r => t ≤ r.start
    clipPre := flags.testBit 0, clipPost := flags.testBit 1, short := flags.testBit 2, grace := flags.testBit 3
    closed := true }

/-- A summary slot restores its group to Frozen with its holds (R268). -/
def restoreGroup (g r : Nat) (s : State) : State :=
  let l := s.paddockBytes (sumAddr g r) 64
  let l := l ++ s.paddockBytes (sumAddr g r + 64) (32 * min 97 (fieldAt l 0x1E 2))
  if !summaryValid l then s
  else
    let open_ := fieldAt l 5 1 = 2
    let l' := if open_ then summaryClosed l else l
    let s := if open_ then s.setBytes (sumAddr g r) l' else s
    let t := timeOf (l.drop 8)
    let no := fieldAt l' 0x20 4
    let newer := s.fgState g ≠ 3 ∨ (s.group g).freezeNo ≤ no
    let s := s.wr (heldRef g r) 1
    let s := if newer then
        let flags := fieldAt l' 0x1D 1
        let s := ((s.wr (PD_FG_STATUS_REGION g) r).wrTime (PD_FG_T g) t).wr (PD_FG_CAUSE_VALUE g) (fieldAt l 7 1)
        let s := (s.wrIf (PD_FG_STATUS_CLIP_PRE g) (flags.testBit 0)).wrIf (PD_FG_STATUS_CLIP_POST g) (flags.testBit 1)
        let s := s.updGroup g fun x => { x with
          pre := fieldAt l 0x14 4, post := fieldAt l 0x18 4, unit := fieldAt l 0x1C 1
          freezeNo := no, rebuilt := flags.testBit 2, switch := [] }
        if s.fgState g = 3 then s else fgEnter g 3 s
      else s
    (List.range (fieldAt l' 0x1E 2)).foldl (fun s k =>
      let st := fieldAt l' (64 + 32 * k) 1
      if st ≥ 97 then s else setWin g r st (s.rebuiltWin g r st t (fieldAt l' (65 + 32 * k) 1)) s) s

/-- The scan ends (R267, R268): its duration in µs and its read rate. -/
def scanComplete (us rate : Nat) (s : State) : State :=
  if s.rd PD_STATUS_SCAN ≠ 1 then s
  else
    let slots := usedSlots s.fab.mem
    let read := slots.map fun i => (i, s.paddockBytes (256 * i) 256)
    let valid := (read.filter fun e => recValid e.2).map fun e => parseRec e.1 e.2 (s.record e.1)
    let kept := keepLatest valid
    let s := ((s.wr PD_STATUS_SCAN 2).wr PD_STATUS_SELF_REFRESH 0).wr GLB_PWR_STATUS_PADDOCK_SR 0
    let s := (s.wr PD_SCAN_RECORDS_VALUE valid.length).wr PD_SCAN_BAD_VALUE (read.length - kept.length)
    let s := (s.wr PD_SCAN_TIME_VALUE us).wr PD_SCAN_RATE_VALUE rate
    let s : State := kept.foldl (fun (s : State) r => finishRecord r s) { s with records := [] }
    let s : State := match latestRec kept with
      | some r => (s.wr PD_RECORD_NEXT_VALUE ((r.slot + 1) % recordSlots)).wr PD_RECORD_SEQ_VALUE (r.seq + 1)
      | none => s
    let s : State := (List.range 97).foldl (resumeStream kept) s
    let s : State := if s.scanFull then (List.range 16).foldl (fun (s : State) g => restoreGroup g 1 (restoreGroup g 0 s)) s else s
    let s : State := { s with scanFull := false }
    if s.rd GLB_RESET_BUSY = 1 then
      let s := ((s.wr GLB_RESET_BUSY 0).wr GLB_RESET_PHASE 0).wr GLB_RESET_CAUSE_LAST 4
      (s.wr GLB_RESET_CAUSE_AFTER_TRIP 0).raise 899 0
    else s

end State

end Sys2Proof.Machine
end

