-- ==== Sys2Proof/Machine/Placement.lean ====
section
/-!
DEFINITION. Where the image in force puts streams (R52, R70, R214, R251, R535): Img values of registers, the geometry a
port and its camera agreed, contexts and banks, ring regions, and the placement of the factory image.
-/
namespace Sys2Proof.Machine

/-- Pages `first` to `first + count − 1`. -/
abbrev PageRun := Nat × Nat

/-- The runs of free pages that `taken` leaves between `lo` and `hi`. -/
def freeRuns (lo hi : Nat) : List PageRun → List PageRun
  | [] => if lo < hi then [(lo, hi - lo)] else []
  | t :: r =>
    let rest := freeRuns (max lo (min hi (t.1 + t.2))) hi r
    if lo < min hi t.1 then (lo, min hi t.1 - lo) :: rest else rest

/-- A run enters a list in order of its first page. -/
def insertRun (x : PageRun) : List PageRun → List PageRun
  | [] => [x]
  | y :: r => if x.1 ≤ y.1 then x :: y :: r else y :: insertRun x r

/-- The lowest run of `n` free pages. -/
def lowestRun (lo hi n : Nat) (taken : List PageRun) : Option PageRun :=
  ((freeRuns lo hi taken).find? fun f => n ≤ f.2).map fun f => (f.1, n)

/-- The lowest run of `n` free pages, or the longest free run where none is long enough (R70). -/
def runOrLongest (lo hi n : Nat) (taken : List PageRun) : PageRun :=
  match lowestRun lo hi n taken with
  | some r => r
  | none => (freeRuns lo hi taken).foldl (fun a f => if a.2 < f.2 then f else a) (lo, 0)

namespace State

/-! Img values (R9, R69). -/

/-- The image in force gives a field its reset value, and the field takes it. -/
def imgSet (f : FRef) (v : Nat) (s : State) : State :=
  let w := withBits (tget resetWord s.struct.img f.key) f.hi f.lo v
  { s with struct := { s.struct with img := tset resetWord s.struct.img f.key w } }.wr f v

/-- The image gives a field its reset value; the field itself is left alone. -/
def imgOnly (f : FRef) (v : Nat) (s : State) : State :=
  let w := withBits (tget resetWord s.struct.img f.key) f.hi f.lo v
  { s with struct := { s.struct with img := tset resetWord s.struct.img f.key w } }

/-! Streams (R110, R164, R214, R232). -/

/-- The factory image, or a section it stands in for, places the streams (R70). -/
def factoryStreams (s : State) : Bool :=
  match s.struct.image with
  | some im => im.streams.isNone
  | none => false

def entryOf (s : State) (st : Nat) : Option StreamEntry := s.streams.find? fun e => e.stream == st

/-- The format and size of a stream as agreed: the image's where it names one, otherwise the camera's (R52, R136). -/
def agreedShape (s : State) (st w h fmt : Nat) : Nat × Nat × Nat :=
  match s.entryOf st with
  | some e => if s.factoryStreams then (w, h, fmt)
    else (if e.width = 0 then w else e.width, if e.height = 0 then h else e.height, if e.format = 0 then fmt else e.format)
  | none => (w, h, fmt)

/-- Whether R163 admits a shape. -/
def shapeOk (x : Nat × Nat × Nat) : Bool :=
  16 ≤ x.1 && x.1 ≤ 16384 && x.1 % 8 == 0 && 1 ≤ x.2.1 && x.2.1 ≤ 65535 && (pixelFormat x.2.2).isSome

/-- ST_GEOMETRY, ST_FORMAT and ST_LINE_BYTES of a stream. -/
def setShape (st : Nat) (x : Nat × Nat × Nat) (s : State) : State :=
  let P := portOf st
  let k := st % 4
  let bits := ((pixelFormat x.2.2).map (·.bits)).getD 0
  (((s |> imgSet (ST_GEOMETRY_WIDTH P k) x.1) |> imgSet (ST_GEOMETRY_HEIGHT P k) x.2.1)
    |> imgSet (ST_FORMAT_VALUE P k) x.2.2) |> imgSet (ST_LINE_BYTES_VALUE P k) (lineBytes x.1 bits)

/-- One half of a context's banks takes its Img values (R214, R231), each register as `set` says. -/
def bankInit (e : StreamEntry) (x : Nat × Nat × Nat) (half : Nat) (set : Nat → FRef → Nat → State → State) (s : State) :
    State :=
  let f := e.fold
  let c := e.context
  let s := set 0 (FXB_OUT_FORMAT_FORMAT f c half) x.2.2 s
  let s := set 0x28 (FXB_CROP_WH_CW f c half) x.1 (set 0x28 (FXB_CROP_WH_CH f c half) x.2.1 s)
  let s := set 0x30 (FXB_TAP_PENS_PEN_A f c half) e.penA
    (set 0x30 (FXB_TAP_PENS_PEN_B f c half) (if e.tapB = 255 then 0 else e.penB) s)
  let s := set 0x34 (FXB_TAP_SEL_TAP_A f c half) e.tapA
    (set 0x34 (FXB_TAP_SEL_TAP_B f c half) (if e.tapB = 255 then 7 else e.tapB) s)
  let s := set 0x38 (FXB_STRIPE_MUX f c half) e.mux (set 0x38 (FXB_STRIPE_LINES f c half) e.stripeLines s)
  set 0x4C (FXS_ZONE_SIZE_ZW f c half) x.1 (set 0x4C (FXS_ZONE_SIZE_ZH f c half) x.2.1 s)

/-- A stream's context takes its Img values; a shadow register that software has written keeps what it wrote, and the
active half keeps what a commit gave it (R214). -/
def contextInit (e : StreamEntry) (s : State) : State :=
  let st := e.stream
  let P := portOf st
  let shape := (s.streamWidth st, s.streamHeight st, s.rd (ST_FORMAT_VALUE P (st % 4)))
  let s := ((s |> imgSet (FXC_STATUS_SERVING e.fold e.context) e.fold) |> imgSet (FXC_STATUS_STREAM e.fold e.context) st)
  let x := s.ctx (ctxKey (e.fold, e.context))
  let shadow (o : Nat) : FRef → Nat → State → State := if x.written.contains o then imgOnly else imgSet
  let active (_ : Nat) : FRef → Nat → State → State := if x.taken then imgOnly else imgSet
  bankInit e shape 1 active (bankInit e shape 0 shadow s)

/-- A stream's context is new: its arrival is measured from now on (R211). -/
def contextNew (e : StreamEntry) (s : State) : State :=
  s.updCtx (ctxKey (e.fold, e.context)) fun x => { x with since := s.now }

/-- EG_CTRL.SOURCE's Img value follows TRIG_BIND and what the camera declared (R232). -/
def egImg (st : Nat) (s : State) : State :=
  let P := portOf st
  let v := if s.rd (ST_CTRL_TRIG_BIND P (st % 4)) ≠ 0 then 1
    else if s.standardOf P = 3 ∧ (s.port P).egen then 2 else 0
  if (s.strm st).egWritten then imgOnly (EG_CTRL_SOURCE st) v s else imgSet (EG_CTRL_SOURCE st) v s

/-- FX_STATUS.CONTEXTS counts the contexts in use, guests included. -/
def countContexts (s : State) : State :=
  (List.range 8).foldl (fun (s : State) f =>
    let home := (s.streams.filter fun e => e.fold == f).length
    let guests := (s.streams.filter fun e => ((s.ctx (ctxKey (e.fold, e.context))).guest.map (·.1)) == some f).length
    imgSet (FX_STATUS_CONTEXTS f) (home + guests) s) s

/-- A stream's region A and mode (R251, R535). -/
def setRegion (st mode : Nat) (run : PageRun) (s : State) : State :=
  smallCheck st (((s |> imgSet (PD_ST_REGION_A_FIRST_PAGES st) run.1) |> imgSet (PD_ST_REGION_A_PAGES_PAGES st) run.2)
    |> imgSet (PD_ST_CTRL_MODE st) mode)

/-! The factory placement (R70). -/

/-- Ring pages run from 4,096 to 49,151. -/
def ringLo : Nat := 4096
def ringHi : Nat := 49152

/-- The ring pages of the streams placed, in order. -/
def takenRuns (s : State) : List PageRun :=
  s.streams.foldl (fun l e =>
    let r := (s.rd (PD_ST_REGION_A_FIRST_PAGES e.stream), s.rd (PD_ST_REGION_A_PAGES_PAGES e.stream))
    if r.2 = 0 then l else insertRun r l) []

/-- The lowest free context of a fold. -/
def lowestContext (s : State) (f : Nat) : Nat :=
  ((List.range 256).find? fun c => !(s.streams.any fun e => e.fold == f && e.context == c)).getD 0

/-- The fold after the one last assigned. -/
def nextFold (s : State) : Nat :=
  match s.struct.lastFold with
  | some f => (f + 1) % 8
  | none => 0

/-- A pen of the factory image: overwrite mode, rings where the device puts them (log entry 35). -/
def factoryPen (p size data side : Nat) (s : State) : State :=
  let s := (s |> imgSet (PN_DATA_ADDR_ADDRESS p) (data / 64)) |> imgSet (PN_SIDE_ADDR_ADDRESS p) (side / 64)
  ((s |> imgSet (PN_CFG_SIZE_LOG2 p) size) |> imgSet (PN_CFG_POLICY p) 0) |> imgSet (PN_CFG_ENABLE p) 1

/-- A discovered stream gets its fold, context, pen and region. -/
def factoryStream (st : Nat) (run : PageRun) (s : State) : State :=
  let f := s.nextFold
  let e : StreamEntry := {
    stream := st, fold := f, mux := 0, mode := 1, stripeLines := 0, owner := 1, group := 0, width := 0, height := 0
    format := 0, ringPages := run.2, penA := 128 + st, penB := 0, tapA := 4, tapB := 255, context := s.lowestContext f }
  let s := { s with streams := s.streams ++ [e], struct := { s.struct with lastFold := some f } }
  let s := factoryPen (128 + st) 16 ((130 + 2 * st) * pageBytes) (330 * pageBytes + 65536 * st) s
  setRegion st 1 run (imgSet (ST_CTRL_ENABLE (portOf st) (st % 4)) 1 (egImg st (contextInit e (contextNew e s))))

/-- The streams a port's camera has that no entry places yet. -/
def newStreams (s : State) (P : Nat) : List Nat :=
  ((List.range (s.rd (PT_LINK_STATUS_STREAMS P))).map fun i => 4 * P + i).filter fun st => (s.entryOf st).isNone

/-- The ports of the factory image: one to a cage, and PP. -/
def factoryPorts : List Nat := [0, 4, 8, 12, 16, 20, 24]

/-- Ports are noted as having carried streams since the activation. -/
def noteCarried (P : Nat) (s : State) : State :=
  if s.struct.carried.contains P then s else { s with struct := { s.struct with carried := s.struct.carried ++ [P] } }

/-- The end of Retrain: every discovered stream gets an equal share (R70). -/
def factoryRetrain (s : State) : State :=
  if !s.factoryStreams then s
  else
    let ports := (List.range 24).filter fun P => s.rd (PT_LINK_STATUS_STATE P) == 5
    let all := ports.flatMap s.newStreams
    let n := (ringHi - ringLo) / max 1 all.length
    let s := all.zipIdx.foldl (fun (s : State) e =>
      imgSet (memberRef 0 e.1) 1 (factoryStream e.1 (ringLo + n * e.2, n) s)) s
    countContexts (ports.foldl (fun s P => noteCarried P s) s)

/-- A port reaches Active after Retrain with streams not yet placed (R70). -/
def factoryLate (P : Nat) (s : State) : State :=
  if !s.factoryStreams ∨ s.freezesHeld then s
  else
    let new := s.newStreams P
    let used := (s.takenRuns.map (·.2)).sum
    let q := (factoryPorts.filter fun p => p != P && !s.struct.carried.contains p).length
    let n := (ringHi - ringLo - used) / (new.length + q)
    if new.isEmpty then s
    else countContexts (noteCarried P (new.foldl (fun (s : State) st =>
      factoryStream st (runOrLongest ringLo ringHi n s.takenRuns) s) s))

end State
end Sys2Proof.Machine
end

