-- ==== Sys2Proof/Machine/Lanes.lean ====
section
/-!
DEFINITION. The serial lanes (R71–R103): power states, adaptation and its freeze, block alignment, patterns, eye scan,
and the taps that a far receiver asks for.
-/
namespace Sys2Proof.Machine

namespace State

def updLane (s : State) (n : Nat) (f : Lane → Lane) : State := s.setLane n (f (s.lane n))

/-- FH_STATUS.POWER of a lane: 0 Off, 1 Rest, 2 Idle, 3 Active (R96). -/
def lanePower (s : State) (n : Nat) : Nat := s.rd (FH_STATUS_POWER (LN_HDR n))

def setLanePower (n v : Nat) (s : State) : State := s.wr (FH_STATUS_POWER (LN_HDR n)) v

/-- EV(4n) + i (R103). -/
def laneEv (n i : Nat) (s : State) : State := s.raise (4 * n + i) 0

/-! Eye scan (R93–R95). -/

/-- A scan ends. -/
def scanEnd (n code : Nat) (s : State) : State :=
  if s.rd (LN_SCAN_STAT_BUSY n) = 0 then s
  else laneEv n 3 ((s.wr (LN_SCAN_STAT_BUSY n) 0).wr (LN_SCAN_STAT_END n) code)

/-- A scan is cut short: what it has counted by then is not stated. -/
def scanCut (n code : Nat) (s : State) : State :=
  if s.rd (LN_SCAN_STAT_BUSY n) = 0 then s
  else
    let a := s.draw
    let b := a.2.draw
    scanEnd n code ((b.2.wr (LN_SCAN_ERR_COUNT n) (Config.scanPartial a.1).toNat).wrWide (LN_SCAN_BITS n) 2
      (Config.scanPartial b.1).toNat)

/-- A write of LN_SCAN_CTRL (R93, R95). -/
def scanWrite (fn n : Nat) (w : Word) (s : State) : State :=
  let s := putWord fn (LN_SCAN_CTRL n) w s
  let s := if bitsOf w 30 30 = 1 then scanCut n 1 s else s
  if bitsOf w 31 31 = 0 ∨ s.rd (LN_SCAN_STAT_BUSY n) = 1 then s
  else
    let s := ((s.wr (LN_SCAN_STAT_LOCK_LOST n) 0).wr (LN_SCAN_ERR_COUNT n) 0).wrWide (LN_SCAN_BITS n) 2 0
    if s.lanePower n = 3 then (s.wr (LN_SCAN_STAT_BUSY n) 1).wr (LN_SCAN_STAT_END n) 0
    else laneEv n 3 (s.wr (LN_SCAN_STAT_END n) 2)

/-- The bit count is reached, with the disagreements counted. -/
def scanDone (n errors : Nat) (s : State) : State :=
  if s.rd (LN_SCAN_STAT_BUSY n) = 0 then s
  else scanEnd n 0 ((s.wr (LN_SCAN_ERR_COUNT n) (min errors 0xFFFFFFFF)).wrWide (LN_SCAN_BITS n) 2
    (2 ^ (20 + s.rd (LN_SCAN_CTRL_PRESCALE n))))

/-! Adaptation (R78–R82). -/

/-- A frozen interval ends without resuming (R82). -/
def freezeStop (n : Nat) (s : State) : State :=
  (s.wr (LN_STATUS_ADAPT_FROZEN n) 0).updLane n fun l => { l with windows := 0, limitRaised := false }

/-- A density window ends (R80, R81): its density in 1/256, and the equaliser values then in use. -/
def densityEnd (n density : Nat) (ctle dfe : Word) (s : State) : State :=
  let s := s.wr (LN_DENSITY_DENSITY n) density
  if s.rd (LN_ADAPT_MODE n) ≠ 0 ∨ s.lanePower n ≠ 3 then s
  else
    let low := density < s.rd (LN_ADAPT_THRESH n)
    if s.rd (LN_STATUS_ADAPT_FROZEN n) = 0 then
      let s := ((s.wr (LN_CTLE_GAIN n) (bitsOf ctle 9 8)).wr (LN_CTLE_PEAK n) (bitsOf ctle 3 0)).ww (LN_DFE n) dfe
      if low then
        ((s.wr (LN_STATUS_ADAPT_FROZEN n) 1).tally (LN_FREEZE_TALLY_COUNT n)).updLane n fun l =>
          { l with windows := 0, limitRaised := false }
      else s
    else if low then s.updLane n fun l => { l with windows := 0 }
    else
      let w := (s.lane n).windows + 1
      if s.rd (LN_ADAPT_RESUME n) ≤ w then freezeStop n s else s.updLane n fun l => { l with windows := w }

/-- A frozen interval reaches LN_FREEZE_LIMIT (R81): once for the interval. -/
def freezeLimit (n : Nat) (s : State) : State :=
  if s.rd (LN_STATUS_ADAPT_FROZEN n) = 0 ∨ (s.lane n).limitRaised then s
  else laneEv n 1 (s.updLane n fun l => { l with limitRaised := true })

/-- What the image gives a register. -/
def imgWord (s : State) (key : Nat) : Word := tget resetWord s.struct.img key

/-- At an entry to Active (R79): the first one after a reset starts from the Img values. -/
def adaptStart (n : Nat) (s : State) : State :=
  let l := s.lane n
  let s := if l.adapted ∨ s.rd (LN_ADAPT_MODE n) = 2 then s
    else (s.ww (LN_CTLE n) (s.imgWord (LN_CTLE n))).ww (LN_DFE n) (s.imgWord (LN_DFE n))
  s.updLane n fun l => { l with adapted := true }

/-! Block lock (R89–R91). -/

/-- Manual slips that block boundaries have taken since (R90). -/
def slipsTaken (s : State) (n : Nat) : Nat :=
  let l := s.lane n
  min l.slips ((s.now - l.slipFrom) / blockUnits (s.rd (LN_STATUS_RATE_ACTIVE n)))

/-- The slips taken by now move the boundary. -/
def slipSettle (n : Nat) (s : State) : State :=
  let k := s.slipsTaken n
  let l := s.lane n
  (s.setLane n { l with slips := l.slips - k, boundary := (l.boundary + k) % 66, slipFrom := s.now }).wr
    (LN_ALIGN_STAT_PENDING n) (l.slips - k)

/-- Pending slips are discarded. -/
def slipDrop (n : Nat) (s : State) : State :=
  ((slipSettle n s).updLane n fun l => { l with slips := 0 }).wr (LN_ALIGN_STAT_PENDING n) 0

/-- A write of LN_ALIGN (R90, R91). -/
def alignSlip (fn n : Nat) (w : Word) (s : State) : State :=
  let s := slipSettle n s
  let was := s.rd (LN_ALIGN_MANUAL n)
  let s := putWord fn (LN_ALIGN n) w s
  let count := bitsOf w 14 8
  if s.rd (LN_ALIGN_MANUAL n) = 0 then
    let s := if was = 1 then slipDrop n s else s
    if 1 ≤ count ∧ count ≤ 65 then s.wr (LN_ALIGN_SLIP_IGNORED n) 1 else s
  else if 1 ≤ count ∧ count ≤ 65 then
    let l := s.lane n
    let p := min 65 (l.slips + count)
    (s.setLane n { l with slips := p }).wr (LN_ALIGN_STAT_PENDING n) p
  else s

/-- BLOCK_LOCK falls, whatever the reason. -/
def lockDrop (n : Nat) (s : State) : State :=
  if s.rd (LN_STATUS_BLOCK_LOCK n) = 0 then s
  else
    let s := s.wr (LN_STATUS_BLOCK_LOCK n) 0
    laneEv n 0 (if s.rd (LN_SCAN_STAT_BUSY n) = 1 then s.wr (LN_SCAN_STAT_LOCK_LOST n) 1 else s)

/-- BLOCK_LOCK rises; the receive latency is measured (R75, R89). -/
def lockRise (n latency : Nat) (s : State) : State :=
  if s.lanePower n ≠ 3 ∨ s.rd (LN_STATUS_BLOCK_LOCK n) = 1 then s
  else laneEv n 0 ((s.wr (LN_STATUS_BLOCK_LOCK n) 1).wr (LN_RX_LATENCY_LATENCY n) latency)

/-- A loss under the criterion of R89. -/
def lockLoss (n : Nat) (s : State) : State :=
  if s.rd (LN_STATUS_BLOCK_LOCK n) = 0 then s else (lockDrop n s).tally (LN_LOCK_LOSS_TALLY_COUNT n)

/-- An invalid header (R89): counted while locked, a slip of the machine's own before. `valid`: the valid headers among
the last 1,024 blocks. -/
def badHeader (n valid : Nat) (s : State) : State :=
  let s := s.wr (LN_ALIGN_STAT_VALID n) valid
  if s.rd (LN_STATUS_BLOCK_LOCK n) = 1 then s.tally (LN_HDR_ERR_TALLY_COUNT n)
  else if s.rd (LN_ALIGN_MANUAL n) = 1 then s
  else s.updLane n fun l => { l with boundary := (l.boundary + 1) % 66 }

/-! Power (R96–R100). -/

/-- A lane leaves Active (R82, R94). -/
def laneLeave (n : Nat) (s : State) : State :=
  lockDrop n ((slipDrop n (scanCut n 2 (freezeStop n s))).wr (LN_STATUS_CDR_LOCK n) 0)

/-- A request applied to a lane with no exit under way (R97, R98). -/
def laneApply (n r : Nat) (s : State) : State :=
  let p := s.lanePower n
  if p = 0 then s
  else if r = 3 then if p = 3 then s else s.wr (LN_PWR_EXIT_BUSY n) 1
  else setLanePower n r (if p = 3 then laneLeave n s else s)

/-- LN_PWR.REQ is driven, by software or by bring-up (R97). -/
def laneRequest (n r : Nat) (s : State) : State :=
  let s := s.wr (LN_PWR_REQ n) r
  if s.rd (LN_PWR_EXIT_BUSY n) = 1 then s.updLane n fun l => { l with deferred := some r } else laneApply n r s

/-- The request that waited for the exit. -/
def laneDeferred (n : Nat) (s : State) : State :=
  match (s.lane n).deferred with
  | some r => laneApply n r (s.updLane n fun l => { l with deferred := none })
  | none => s

/-- An exit ends in Active; `locked`: with clock recovery locked (R99), else at the 10 ms bound (R100). -/
def laneExit (n : Nat) (locked : Bool) (vstep phase latency : Nat) (s : State) : State :=
  if s.rd (LN_PWR_EXIT_BUSY n) = 0 then s
  else
    let rest := s.lanePower n = 1
    let s := setLanePower n 3 (s.wr (LN_PWR_EXIT_BUSY n) 0)
    let l := s.lane n
    let outside := (s.lanePort n).isNone
    let s := if rest ∧ outside then
        (s.wr (LN_STATUS_RATE_ACTIVE n) (l.newRate.getD (s.rd (LN_CTRL_RATE n)))).updLane n fun l => { l with newRate := none }
      else s
    let s := if rest then s.wr (LN_SCAN_STAT_VSTEP n) vstep else s
    let s := if locked then
        (((((s.wr (LN_STATUS_CDR_LOCK n) 1).wr (LN_STATUS_SIGNAL n) 1).wr (LN_STATUS_FREQ_OK n) 1).wr
          (LN_STATUS_PHASE n) phase).wr (LN_RX_LATENCY_LATENCY n) latency).wr (FH_STATUS_FAULT (LN_HDR n)) 0
      else (s.wr (LN_STATUS_CDR_LOCK n) 0).wr (FH_STATUS_FAULT (LN_HDR n)) 4
    laneDeferred n (laneEv n 2 (adaptStart n s))

/-- The domain of a lane loses power (R96, R101). -/
def laneOff (n : Nat) (s : State) : State :=
  let s := if s.lanePower n = 3 then laneLeave n s else s
  setLanePower n 0 ((s.wr (LN_PWR_EXIT_BUSY n) 0).updLane n fun l => { l with deferred := none })

/-- The domain is powered: the lane is in Rest. -/
def laneOn (n : Nat) (s : State) : State := if s.lanePower n = 0 then setLanePower n 1 s else s

/-- A lane block reset, without what it does to the port (R101). -/
def laneReset (n : Nat) (s : State) : State :=
  let s := slipDrop n (scanCut n 1 (freezeStop n s))
  let s := (lockDrop n s).updLane n fun l => { l with adapted := false, boundary := 0 }
  if s.lanePower n = 3 then adaptStart n s else s

/-! Registers with effects (R78, R81, R83, R92, R101). -/

/-- A write of LN_CTLE or LN_DFE (R78): ignored without counting outside manual mode. -/
def eqWrite (fn n key : Nat) (w : Word) (s : State) : State := if s.rd (LN_ADAPT_MODE n) = 2 then putWord fn key w s else s

/-- A write of LN_ADAPT: a change of MODE ends a frozen interval (R82). -/
def adaptWrite (fn n : Nat) (w : Word) (s : State) : State :=
  let s := putWord fn (LN_ADAPT n) w s
  if s.rd (LN_ADAPT_MODE n) = 0 then s else freezeStop n s

/-- Whether taps meet R83. -/
def tapsOk (pre main post : Nat) : Bool :=
  pre ≤ 15 && 16 ≤ main && main ≤ 63 && post ≤ 31 && pre + main + post ≤ 63 && 16 + pre + post ≤ main

/-- A write of LN_TXEQ or LN_TXPRESET (R83): against a constraint the whole register stays. -/
def tapWrite (fn key : Nat) (w : Word) (s : State) : State :=
  if tapsOk (bitsOf w 7 0) (bitsOf w 15 8) (bitsOf w 23 16) then
    let s := putWord fn key w s
    if (key - 0x200000) % 0x1000 = 0x4C then s.wr ⟨key, 31, 31⟩ 0 else s
  else s.accErr fn

/-- A write of LN_PATTERN: a checker that is off is not synchronised (R92). -/
def patternWrite (fn n : Nat) (w : Word) (s : State) : State :=
  let was := s.rd (LN_PATTERN_RX_SEL n)
  let s := putWord fn (LN_PATTERN n) w s
  if s.rd (LN_PATTERN_RX_SEL n) = was then s else s.wr (LN_PATTERN_RX_SYNC n) 0

/-- A write of LN_CTRL: a rate written while Active waits (R101); a network lane takes rate 3 alone. -/
def laneCtrl (fn n : Nat) (w : Word) (s : State) : State :=
  let was := s.rd (LN_CTRL_RATE n)
  let s := putWord fn (LN_CTRL n) w s
  let r := s.rd (LN_CTRL_RATE n)
  if 48 ≤ n ∧ r ≠ 3 ∧ r ≠ was then (s.wr (LN_CTRL_RATE n) was).accErr fn
  else if r ≠ was then s.updLane n fun l => { l with newRate := some r }
  else s

/-- The checker synchronises, and counts the mismatches seen since (R92). -/
def patternSync (n errors : Nat) (s : State) : State :=
  if s.rd (LN_PATTERN_RX_SEL n) = 0 then s else (s.wr (LN_PATTERN_RX_SYNC n) 1).tally (LN_PAT_ERR_TALLY_COUNT n) errors

/-! Remote tap requests (R84–R87). -/

/-- The taps become `t`, at a remote request. -/
def setTaps (n pre main post : Nat) (s : State) : State :=
  (((s.wr (LN_TXEQ_PRE n) pre).wr (LN_TXEQ_MAIN n) main).wr (LN_TXEQ_POST n) post).wr (LN_TXEQ_REMOTE n) 1

/-- One step of a tap: the reply of R86. -/
def tapStep (n tap : Nat) (up : Bool) (s : State) : Nat × State :=
  let pre := s.rd (LN_TXEQ_PRE n)
  let main := s.rd (LN_TXEQ_MAIN n)
  let post := s.rd (LN_TXEQ_POST n)
  let v := if tap = 0 then pre else if tap = 1 then main else post
  let v' := if up then v + 1 else v - 1
  let t := if tap = 0 then (v', main, post) else if tap = 1 then (pre, v', post) else (pre, main, v')
  if (up || 0 < v) && tapsOk t.1 t.2.1 t.2.2 then (1, setTaps n t.1 t.2.1 t.2.2 s) else (if up then 3 else 2, s)

/-- A request in a training block (R85, R86): acted on at its first appearance. -/
def tapRequest (n tap action : Nat) (s : State) : State :=
  let hold := action = 0 ∨ 5 ≤ action ∨ (tap = 3 ∧ action < 3)
  if hold then (s.updLane n fun l => { l with lastRequest := (0, 0), reply := 0 }).wr (LN_TAPREQ_LAST_REPLY n) 0
  else
    let req := if 3 ≤ action then (0, action) else (tap, action)
    if (s.lane n).lastRequest = req then s
    else
      let r := if action = 3 then
          (1, setTaps n (s.rd (LN_TXPRESET_PRE n)) (s.rd (LN_TXPRESET_MAIN n)) (s.rd (LN_TXPRESET_POST n)) s)
        else if action = 4 then (1, setTaps n 0 63 0 s)
        else tapStep n tap (action == 1) s
      ((r.2.tally (LN_TAPREQ_COUNT n)).wr (LN_TAPREQ_LAST_REPLY n) r.1).updLane n fun l =>
        { l with lastRequest := req, reply := r.1 }

end State

/-- LANE_POWER_REQUEST (R97, R98): the management function's write of LN_PWR.REQ. -/
def execLanePowerRequest (n req : Nat) (s : State) : Host.Outcome State Fault Refusal :=
  .next (if req = 0 then s.accErr 0 else s.laneRequest n req)

/-- LANE_EXIT_COMPLETE (R99). -/
def execLaneExitComplete (n vstep phase latency : Nat) (s : State) : Host.Outcome State Fault Refusal :=
  .next (s.laneExit n true vstep phase latency)

/-- LANE_EXIT_TIMEOUT (R100). -/
def execLaneExitTimeout (n : Nat) (s : State) : Host.Outcome State Fault Refusal :=
  .next (s.laneExit n false (s.rd (LN_SCAN_STAT_VSTEP n)) 0 0)

/-- CDR_COAST_TIMEOUT (R76). -/
def execCdrCoastTimeout (n : Nat) (s : State) : Host.Outcome State Fault Refusal := .next (s.wr (LN_STATUS_CDR_LOCK n) 0)

/-- DENSITY_WINDOW_END (R80, R81). -/
def execDensityWindowEnd (n density : Nat) (ctle dfe : Word) (s : State) : Host.Outcome State Fault Refusal :=
  .next (s.densityEnd n density ctle dfe)

/-- FREEZE_LIMIT_EXPIRE (R81). -/
def execFreezeLimitExpire (n : Nat) (s : State) : Host.Outcome State Fault Refusal := .next (s.freezeLimit n)

/-- INVALID_HEADER (R89). -/
def execInvalidHeader (n valid : Nat) (s : State) : Host.Outcome State Fault Refusal := .next (s.badHeader n valid)

/-- BLOCK_LOCK_ACQUIRED (R89). -/
def execBlockLockAcquired (n latency : Nat) (s : State) : Host.Outcome State Fault Refusal := .next (s.lockRise n latency)

/-- BLOCK_LOCK_LOST (R89). -/
def execBlockLockLost (n : Nat) (s : State) : Host.Outcome State Fault Refusal := .next (s.lockLoss n)

/-- SLIP_WRITE (R90, R91). -/
def execSlipWrite (n : Nat) (value : Word) (s : State) : Host.Outcome State Fault Refusal := .next (s.alignSlip 0 n value)

/-- PATTERN_CHECKER_SYNC (R92). -/
def execPatternCheckerSync (n errors : Nat) (s : State) : Host.Outcome State Fault Refusal := .next (s.patternSync n errors)

/-- SCAN_START (R93, R95): a write of LN_SCAN_CTRL with START. -/
def execScanStart (n : Nat) (value : Word) (s : State) : Host.Outcome State Fault Refusal :=
  .next (s.scanWrite 0 n (value ||| 0x80000000#32))

/-- SCAN_ABORT (R94). -/
def execScanAbort (n : Nat) (s : State) : Host.Outcome State Fault Refusal := .next (s.scanCut n 1)

/-- SCAN_COMPLETE (R93, R94). -/
def execScanComplete (n errors : Nat) (s : State) : Host.Outcome State Fault Refusal := .next (s.scanDone n errors)

end Sys2Proof.Machine
end

