-- ==== Sys2Proof/Machine/Control.lean ====
section
/-!
DEFINITION. The camera control channel (R142, R176), exposure writes (R407), camera events (R143, R396), keep-alives and
latency probes (R150–R152).
-/
namespace Sys2Proof.Machine

/-- Eight bytes of a control block with its check byte (R128). -/
def checkedBlock (l : List Byte) : List Byte := l ++ [l.foldl (· ^^^ ·) 0x5A#8]

namespace State

def updPort (s : State) (P : Nat) (f : Port → Port) : State := s.setPort P (f (s.port P))

/-- An agreed capability field of a Torvelink port (R136). -/
def agreedField (s : State) (P i : Nat) (d : Nat) : Nat :=
  (((s.port P).agreed.find? fun x => x.1 == i).map (·.2)).getD d

/-- Requests a port may keep outstanding (R142). -/
def maxRequests (s : State) (P : Nat) : Nat :=
  if s.standardOf P = 3 then max 1 (s.agreedField P 0x0E 0x10004 / 65536 % 256) else 1

/-- Largest control data of a port (R136, R176). -/
def maxControl (s : State) (P : Nat) : Nat := if s.standardOf P = 3 then s.agreedField P 0x0E 0x10004 % 65536 else 1024

/-- A request goes out with the next TAG. -/
def sendRequest (P : Nat) (s : State) : State :=
  let p := s.port P
  match (p.requests.find? fun r => !r.sent && r.kind != 0).or (p.requests.find? fun r => !r.sent) with
  | none => s
  | some r =>
    let tag := p.nextTag
    let send (x : CtrlRequest) : CtrlRequest := { x with sent := true, tag := tag }
    let rec mark : List CtrlRequest → List CtrlRequest
      | [] => []
      | x :: l => if x = r then send x :: l else x :: mark l
    (s.setPort P { p with requests := mark p.requests, nextTag := (tag + 1) % 65536 }).emit
      (.portRequest P tag r.write r.addr r.bytes r.len)

/-- Waiting requests go out while the camera has slots; those of the sequencer go first (R142, R176). -/
def pumpRequests (P : Nat) : Nat → State → State
  | 0, s => s
  | n + 1, s =>
    let p := s.port P
    if (p.requests.filter (·.sent)).length < s.maxRequests P ∧ p.requests.any (fun r => !r.sent) then
      pumpRequests P n (sendRequest P s)
    else s

def addRequest (P : Nat) (r : CtrlRequest) (s : State) : State :=
  pumpRequests P 16 (s.updPort P fun p => { p with requests := p.requests ++ [r] })

/-! The host's channel (R176). -/

/-- Who may use a port's control channel: the management function and the owner of its lowest-numbered stream. -/
def mayCamera (s : State) (fn P : Nat) : Bool := fn == 0 || s.streamOwner (4 * P) == fn

/-- The host's request ends. -/
def camDone (P result : Nat) (s : State) : State := (s.wr (PT_CAM_STATUS_BUSY P) 0).wr (PT_CAM_STATUS_RESULT P) result

/-- Bytes of PT_CAM_DATA. -/
def camBytes (s : State) (P len : Nat) : List Byte :=
  ((List.range ((len + 3) / 4)).flatMap fun k => leBytes 4 (s.rw (PT_CAM_DATA P k)).toNat).take len

/-- A write of PT_CAM_CMD (R176). -/
def camCommand (fn P : Nat) (w : Word) (s : State) : State :=
  if bitsOf w 31 31 = 0 then putWord fn (PT_CAM_CMD P) w s
  else if s.rd (PT_CAM_STATUS_BUSY P) = 1 then s.wr (PT_CAM_STATUS_REFUSED P) 1
  else
    let s := putWord fn (PT_CAM_CMD P) w s
    let len := s.rd (PT_CAM_CMD_LENGTH P)
    let write := s.rd (PT_CAM_CMD_WRITE P) == 1
    if s.rd (PT_LINK_STATUS_STATE P) ≠ 5 then camDone P 7 s
    else if s.maxControl P < len then camDone P 3 s
    else
      addRequest P { tag := 0, write := write, addr := s.rdWide (PT_CAM_ADDR P) 2, len := len, kind := 0, who := fn,
                     bytes := if write then s.camBytes P len else [] } (s.wr (PT_CAM_STATUS_BUSY P) 1)

/-! Exposure writes (R407, R228). -/

/-- An exposure write fails (R407). -/
def camFail (n : Nat) (s : State) : State :=
  trigEv n 6 ((s.wr (TR_STATUS_CAMW_FAIL n) 1).tally (TR_CAMW_FAIL_TALLY_COUNT n))

/-- The value of WIDTH for the camera: picoseconds over TR_CAM_EXP_SCALE, rounded to nearest. -/
def camWidth (width scale : Nat) : Nat := (width * 125 + 4 * scale) / (8 * max 1 scale)

/-- The oldest exposure whose control work has run goes to its port. -/
def exposureWrite (n : Nat) (s : State) : State :=
  let t := s.trig n
  match t.camDue with
  | (width, gen, true) :: rest =>
    let s := s.setTrig n { t with camDue := rest }
    let P := s.rd (TR_INBAND_PORT n)
    if !s.inbandActive n then camFail n s
    else
      let v := camWidth width (s.rd (TR_CAM_EXP_SCALE_PICOSECONDS n))
      let first : CtrlRequest := { tag := 0, write := true, addr := s.rdWide (TR_CAM_EXP_ADDR n) 2, len := 4, kind := 1, who := n,
                                   gen := gen, bytes := leBytes 4 v }
      let s := addRequest P first s
      if s.standardOf P = 3 ∧ (s.port P).egen then
        addRequest P { first with addr := 0x40, bytes := leBytes 4 gen } s
      else s
  | _ => s

/-! Answers (R142). -/

/-- A request of the sequencer ends: the last acknowledgement of a generation is its completion (R228). -/
def exposureDone (P : Nat) (r : CtrlRequest) (good : Bool) (s : State) : State :=
  let p := s.port P
  let same (x : CtrlRequest) : Bool := x.kind == 1 && x.who == r.who && x.gen == r.gen
  if r.failed then s
  else if !good then
    camFail r.who (s.setPort P { p with requests := p.requests.map fun x => if same x then { x with failed := true } else x })
  else if p.requests.any same then s
  else s.setPort P { p with written := (s.now, r.gen) :: p.written }

/-- The host's request ends with a result and, for a read, data. -/
def hostDone (P : Nat) (r : CtrlRequest) (result : Nat) (data : List Byte) (s : State) : State :=
  if r.dropped then s.wr (PT_CAM_STATUS_BUSY P) 0
  else
    let s := if r.write ∨ result ≠ 0 then s
      else (List.range ((min r.len data.length + 3) / 4)).foldl (fun (s : State) k =>
        s.ww (PT_CAM_DATA P k) (BitVec.ofNat 32 (leNat ((data.drop (4 * k)).take 4)))) s
    camDone P result s

/-- A request leaves the port, ended with a result; Exchange's own has no other requester. -/
def requestDone (P : Nat) (r : CtrlRequest) (result : Nat) (data : List Byte) (s : State) : State :=
  let s := s.updPort P fun p => { p with requests := p.requests.erase r }
  let s := if r.kind = 0 then hostDone P r result data s
    else if r.kind = 1 then exposureDone P r (result == 0) s
    else s
  pumpRequests P 16 s

/-- Every request of a port ends as link down (R155). -/
def requestsDown (P : Nat) (s : State) : State :=
  let l := (s.port P).requests
  let s := s.updPort P fun p => { p with requests := [] }
  l.foldl (fun (s : State) r => if r.kind = 0 then hostDone P r 6 [] s
    else if r.kind = 1 then
      if l.any (fun x => x.kind == 1 && x.who == r.who && x.gen == r.gen && x != r) && r.addr == 0x40 then s
      else if r.failed then s else camFail r.who s
    else s) s

/-! Latency probes (R150–R152). -/

/-- A probe goes out on lane 0. -/
def sendProbe (P : Nat) (s : State) : State :=
  let p := s.port P
  (s.setPort P { p with probeSeq := (p.probeSeq + 1) % 256, probes := p.probes ++ [p.probeSeq] }).emit
    (.portBlock P (checkedBlock (leBytes 1 0x99 ++ leBytes 1 p.probeSeq ++ leBytes 5 0)))

/-- Half a round trip, rounded to nearest, ties to even (R152). -/
def halfEven (n : Nat) : Nat := let q := n / 2; if n % 2 = 0 then q else q + q % 2

/-- Torvelink is in force on a port, in Exchange or Active. -/
def torvelinkUp (s : State) (P : Nat) : Bool :=
  s.standardOf P == 3 && (s.rd (PT_LINK_STATUS_STATE P) == 5 || s.rd (PT_LINK_STATUS_STATE P) == 4)

/-- An echo arrives: T4 − T1 and the camera's turnaround, in 1/64 UI (R152). -/
def echo (P seq elapsed turn : Nat) (s : State) : State :=
  if !s.torvelinkUp P then s
  else
    let p := s.port P
    if !p.probes.contains seq then s.tally (PT_TV_STRAY_TALLY_COUNT P)
    else
      let rtt := elapsed - turn
      let s := s.setPort P { p with
        probes := p.probes.erase seq, keepAlive := s.now
        capStep := if p.capStep = 6 ∨ p.capStep = 7 then p.capStep + 1 else p.capStep }
      let s := ((s.wr (PT_TV_RTT_UNITS P) rtt).wr (PT_TV_ONEWAY_UNITS P) (halfEven rtt)).tally (PT_TV_PROBE_TALLY_COUNT P)
      if s.rd (PT_LINK_STATUS_STATE P) = 4 ∧ (s.port P).capStep = 7 then sendProbe P s else s

/-- An Active Torvelink port sends a probe (R151). -/
def probe (P : Nat) (s : State) : State :=
  if s.standardOf P = 3 ∧ s.rd (PT_LINK_STATUS_STATE P) = 5 then sendProbe P s else s

/-- A write of PT_TV_CTRL (R151, R156). -/
def probeWrite (fn P : Nat) (w : Word) (s : State) : State :=
  let s := putWord fn (PT_TV_CTRL P) w s
  if bitsOf w 31 31 = 1 then probe P s else s

/-! Camera events and keep-alives (R111, R120, R143). -/

/-- A camera event reaches an Active port: identity, stream (255: none), age in 2^-16 ns, arrival. -/
def cameraEvent (P event stream age arrival : Nat) (s : State) : State :=
  let tv := s.standardOf P = 3
  if s.rd (PT_LINK_STATUS_STATE P) ≠ 5 then s
  else if tv ∧ stream ≠ 255 ∧ s.rd (PT_LINK_STATUS_STREAMS P) ≤ stream then s.tally (PT_TV_STRAY_TALLY_COUNT P)
  else
    let f := uiFrac (s.rd (PT_LINK_STATUS_RATE P))
    let oneway := (65536 * (s.rd (PT_TV_ONEWAY_UNITS P) * f.1) + 500 * f.2) / (1000 * f.2)
    let known := if age = 0xFFFFFFFFFF then 0 else age
    let cause := if tv then arrival - oneway - known else arrival
    let s := srcPulse 5 event P true cause s.tb.dev s
    if stream < 4 then sourceFreeze 5 (4 * P + stream) true cause s else s

/-- A heartbeat packet of CoaXPress. -/
def heartbeat (P : Nat) (s : State) : State :=
  if s.standardOf P = 1 ∧ s.rd (PT_LINK_STATUS_STATE P) = 5 then s.updPort P fun p => { p with keepAlive := s.now } else s

end State

/-- CAM_CHANNEL_GO (R176): a write of PT_CAM_CMD with GO. -/
def execCamChannelGo (fn P : Nat) (value : Word) (s : State) : Host.Outcome State Fault Refusal :=
  .next (if s.mayCamera fn P then s.camCommand fn P (value ||| 0x80000000#32) else s)

/-- CAMERA_EXPOSURE_WRITE (R407). -/
def execCameraExposureWrite (n : Nat) (s : State) : Host.Outcome State Fault Refusal := .next (s.exposureWrite n)

/-- PROBE_TIMER (R151). -/
def execProbeTimer (P : Nat) (s : State) : Host.Outcome State Fault Refusal := .next (s.probe P)

/-- PROBE_NOW (R151). -/
def execProbeNow (P : Nat) (s : State) : Host.Outcome State Fault Refusal := .next (s.probe P)

/-- ECHO_RECEIVED (R152). -/
def execEchoReceived (P seq elapsed turn : Nat) (s : State) : Host.Outcome State Fault Refusal :=
  .next (s.echo P seq elapsed turn)

/-- CAMERA_EVENT_PACKET (R143). -/
def execCameraEventPacket (P event stream age arrival : Nat) (s : State) : Host.Outcome State Fault Refusal :=
  .next (s.cameraEvent P event stream age arrival)

/-- HEARTBEAT_PACKET (R120). -/
def execHeartbeatPacket (P : Nat) (s : State) : Host.Outcome State Fault Refusal := .next (s.heartbeat P)

end Sys2Proof.Machine
end

