-- ==== Sys2Proof/Machine/Links.lean ====
section
/-!
DEFINITION. Link bring-up (R104–R125) with Torvelink's training and capability exchange (R132–R137), partner loss, and
the resets of lanes and ports.
-/
namespace Sys2Proof.Machine

/-- A capability field, or its default (R136). -/
def capField (l : List (Nat × Nat)) (i d : Nat) : Nat := ((l.find? fun x : Nat × Nat => x.1 == i).map Prod.snd).getD d

/-- The capability blocks of a set (R135, R136). -/
def capBlocks (agree : Bool) (l : List (Nat × Nat)) : List Byte :=
  (l ++ [(0xFF, l.length)]).flatMap fun x : Nat × Nat =>
    checkedBlock (leBytes 1 0x33 ++ leBytes 1 x.1 ++ leBytes 1 (if agree then 1 else 0) ++ leBytes 4 x.2)

/-- Rates a standard permits, highest first (R106, R119). -/
def standardRates (standard : Nat) : List Nat :=
  if standard = 1 then [3, 1] else if standard = 2 then [1] else if standard = 3 then [4, 3] else [4, 3, 1]

/-- The candidates of Listen: standard (0 not yet named) and rate (R106). -/
def candidates (e : PortEntry) : List (Nat × Nat) :=
  if e.rate = 0 then (standardRates e.standard).map fun r => (e.standard, r) else [(e.standard, e.rate)]

/-- The lanes of a PORT entry. -/
def entryLanes (e : PortEntry) : List Nat := (List.range e.lanes).map fun k => e.firstLane + k

/-- The largest of 1, 2, 4 and 8 within both counts (R109). -/
def agreedLanes (have_ declared : Nat) : Nat :=
  let m := min have_ declared
  if 8 ≤ m then 8 else if 4 ≤ m then 4 else if 2 ≤ m then 2 else if 1 ≤ m then 1 else 0

/-- The training minimum of a standard, in µs (R118). -/
def trainMinimum (standard : Nat) : Nat := if standard = 3 then 4000 else if standard = 1 then 3100 else 2100

namespace State

/-- The enabled PORT entry of a port. -/
def portEntry (s : State) (P : Nat) : Option PortEntry :=
  match s.struct.image with
  | some im => im.ports.find? fun e => e.enable && e.port == P
  | none => none

def portState (s : State) (P : Nat) : Nat := s.rd (PT_LINK_STATUS_STATE P)

def portLanes (s : State) (P : Nat) : List Nat := ((s.portEntry P).map entryLanes).getD []

/-- EV(224 + 4P) + i (R124). -/
def portEv (P i : Nat) (s : State) : State := s.raise (224 + 4 * P + i) 0

/-- The standard and rate of a candidate are in use on the port's lanes. -/
def useCandidate (P : Nat) (c : Nat × Nat) (s : State) : State :=
  let s := (s.portLanes P).foldl (fun (s : State) n => s.wr (LN_STATUS_RATE_ACTIVE n) c.2) s
  s.updPort P fun p => { p with standard := c.1, rate := c.2 }

/-- Listen is entered (R104, R106): the lanes go to Active. -/
def listen (P : Nat) (s : State) : State :=
  match s.portEntry P with
  | none => s
  | some e =>
    let s := (((s.wr (PT_LINK_STATUS_STATE P) 1).wr (PT_LINK_STATUS_ORDERING P) 0).wr (PT_LINK_STATUS_STANDARD P) 0).wr
      (FH_STATUS_FAULT (PT_HDR P)) 0
    let s := s.updPort P fun p => { p with
      lanes := [], candidate := 0, orderDone := false, capStep := 0, farCaps := [], agreed := [], egen := false
      probes := [], requests := [], terminated := false }
    let s := (entryLanes e).foldl (fun (s : State) n =>
      laneRequest n 3 (s.updLane n fun l => { l with
        farNumber := none, farReady := false, farInverted := false, lastRequest := (0, 0), reply := 0, sent := 0, misses := 0
        hold := false })) s
    useCandidate P ((candidates e).headD (0, 0)) s

/-- The port leaves Active (R111, R155, R412): its open frames are truncated with `cause`. -/
def leaveActive (P cause : Nat) (s : State) : State :=
  if s.portState P ≠ 5 then s
  else
    let s := requestsDown P (inbandDiscard P (portSilent P cause s))
    let s := ((s.wr (PT_LINK_STATUS_STREAMS P) 0).wr (PT_LINK_STATUS_LANES P) 0).wr (PT_LINK_STATUS_RATE P) 0
    portEv P 0 ((s.wrWide (PT_ORDER P) 2 0).wr (PT_POLARITY_INVERTED P) 0)

/-- The port is out of use: disabled, or without power (R114). -/
def portOff (P : Nat) (s : State) : State :=
  let s := leaveActive P 3 s
  ((s.updPort P fun p => { p with requests := [], probes := [] }).wr (PT_LINK_STATUS_STATE P) 0).wr
    (PT_LINK_STATUS_STANDARD P) 0

/-- The tally of a stage's failures. -/
def failTally (P stage : Nat) : FRef :=
  if stage = 1 then PT_LISTEN_FAIL_TALLY_COUNT P else if stage = 2 then PT_TRAIN_FAIL_TALLY_COUNT P
  else if stage = 3 then PT_LOCK_FAIL_TALLY_COUNT P else PT_EXCH_FAIL_TALLY_COUNT P

def lastFail (P stage cause lane : Nat) (s : State) : State :=
  ((s.wr (PT_LAST_FAIL_STAGE P) stage).wr (PT_LAST_FAIL_CAUSE P) cause).wr (PT_LAST_FAIL_LANE P) lane

/-- Rest after the eighth failure (R112). -/
def restPort (P : Nat) (s : State) : State :=
  let s := ((s.wr (PT_LINK_STATUS_STATE P) 6).wr (PT_LINK_STATUS_STANDARD P) 0).wr (FH_STATUS_FAULT (PT_HDR P)) 4
  let s := (s.portLanes P).foldl (fun (s : State) n => laneRequest n 1 s) s
  portEv P 2 (s.tally (PT_REST_TALLY_COUNT P))

/-- An attempt fails (R112): lane 255 where no single lane is to blame. -/
def attemptFail (P stage cause lane : Nat) (s : State) : State :=
  let s := portEv P 1 (lastFail P stage cause lane (s.tally (failTally P stage)))
  let a := min 8 (s.rd (PT_LINK_STATUS_ATTEMPT P) + 1)
  let s := s.wr (PT_LINK_STATUS_ATTEMPT P) a
  if a = 8 ∧ s.rd (PT_LINK_CTRL_LISTEN_HOLD P) = 0 then restPort P s else listen P s

/-- Listen is entered without a failure, with ATTEMPT at 0. -/
def listenAfresh (P : Nat) (s : State) : State := listen P (s.wr (PT_LINK_STATUS_ATTEMPT P) 0)

/-! Listen (R105, R106). -/

/-- A partner is found: the lanes that show a signal, or copper termination. -/
def partnerDetect (P : Nat) (seen : List Nat) (s : State) : State :=
  if s.portState P ≠ 1 then s
  else
    let lanes := s.portLanes P
    let s := (lanes.filter seen.contains).foldl (fun (s : State) n =>
      (s.wr (LN_STATUS_SIGNAL n) 1).wr (LN_STATUS_CDR_LOCK n) 1) s
    let s := lanes.foldl (fun (s : State) n =>
      let l := s.lane n
      let s := s.setLane n { l with newRate := none, lastRequest := (0, 0), sent := 0, misses := 0, hold := false }
      match l.newRate with
      | some r => s.wr (LN_STATUS_RATE_ACTIVE n) r
      | none => s) s
    let p := s.port P
    (s.setPort P { p with trainEntry := s.now, lanes := lanes, terminated := seen.isEmpty }).wr (PT_LINK_STATUS_STATE P) 2
      |>.wr (PT_LINK_STATUS_STANDARD P) p.standard

/-- The next candidate after 20 ms without a partner (R106). -/
def nextCandidate (P : Nat) (s : State) : State :=
  match s.portEntry P with
  | none => s
  | some e =>
    if s.portState P ≠ 1 then s
    else
      let l := candidates e
      let k := ((s.port P).candidate + 1) % max 1 l.length
      useCandidate P (l.getD k (0, 0)) (s.updPort P fun p => { p with candidate := k })

/-- The Listen limit (R114); LISTEN_HOLD keeps the port in Listen without a failure (R123). -/
def listenLimit (P : Nat) (s : State) : State :=
  if s.portState P ≠ 1 ∨ s.rd (PT_LINK_CTRL_LISTEN_HOLD P) = 1 then s else attemptFail P 1 1 255 s

/-! Train (R88, R107, R132). -/

/-- A standard is named (R106). -/
def nameStandard (P standard : Nat) (s : State) : State :=
  (s.updPort P fun p => { p with standard := standard }).wr (PT_LINK_STATUS_STANDARD P) standard

/-- The lane's own receiver: an answered request moves its search on; `better`: the eye opening grew (R88). -/
def tapSearch (n reply : Nat) (better : Bool) (s : State) : State :=
  s.updLane n fun l =>
    if reply = 0 ∨ l.hold then l
    else
      let m := if better then 0 else l.misses + 1
      { l with sent := l.sent + 1, misses := m, hold := decide (3 ≤ m) || decide (256 ≤ l.sent + 1) }

/-- A training block on lane `n` of a camera port (R132, R145, R155). -/
def trainingBlock (n number : Nat) (ready : Bool) (tap action reply : Nat) (inverted better : Bool) (s : State) : State :=
  match s.lanePort n with
  | none => s
  | some P =>
    let st := s.portState P
    if st = 5 then if s.standardOf P = 3 then s.tally (PT_TV_STRAY_TALLY_COUNT P) else s
    else if st = 0 ∨ 4 ≤ st then s
    else
      let s := if (s.port P).standard = 0 ∧ 2 ≤ st ∧ 3 ≤ (s.port P).rate then nameStandard P 3 s else s
      let s := s.updLane n fun l => { l with farNumber := some number, farReady := ready, farInverted := inverted }
      if st = 2 ∧ (s.port P).standard = 3 then tapRequest n tap action (tapSearch n reply better s) else s

/-- The exit condition of Train is met (R107): the lanes that show a signal take part. -/
def trainExit (P : Nat) (seen : List Nat) (s : State) : State :=
  let p := s.port P
  if s.portState P ≠ 2 then s
  else
    let part := p.lanes.filter seen.contains
    let standard := if p.standard ≠ 0 then p.standard else if p.rate = 3 then 1 else if p.rate = 4 then 3 else 0
    let ready := standard ≠ 3 ∨ part.all fun n => (s.lane n).farReady && (s.lane n).hold
    if part.isEmpty ∨ ¬ ready then s
    else (nameStandard P standard (s.setPort P { p with lanes := part })).wr (PT_LINK_STATUS_STATE P) 3

/-- The Train limit (R114, R115): a lane whose exit failed under R100 is named first. -/
def trainLimit (P : Nat) (s : State) : State :=
  if s.portState P ≠ 2 then s
  else
    match (s.portLanes P).find? fun n => s.rd (FH_STATUS_FAULT (LN_HDR n)) == 4 with
    | some n => attemptFail P 2 0x0A n s
    | none =>
      let taps := (s.port P).standard = 3 ∧ (s.port P).lanes.any fun n => !((s.lane n).farReady && (s.lane n).hold)
      attemptFail P 2 (if taps then 2 else 3) 255 s

/-! Lock (R108, R116, R117). -/

/-- The order step of a bonded port (R116). -/
def orderStep (P : Nat) (s : State) : State :=
  let p := s.port P
  if s.portState P ≠ 3 ∨ p.lanes.length ≠ 16 then s
  else
    let numbers := p.lanes.map fun n => (s.lane n).farNumber.getD 16
    let flips := p.lanes.zipIdx.filter fun x => (s.lane x.1).farInverted
    let s := flips.foldl (fun (s : State) x =>
      (s.wr (LN_CTRL_RX_INVERT x.1) (1 - s.rd (LN_CTRL_RX_INVERT x.1))).updLane x.1 fun l => { l with farInverted := false }) s
    let s := s.wr (PT_POLARITY_INVERTED P) ((flips.map fun x => 2 ^ x.2).sum)
    if (List.range 16).all numbers.contains then
      (s.wrWide (PT_ORDER P) 2 ((numbers.zipIdx.map fun x => x.1 * 16 ^ x.2).sum)).setPort P { p with orderDone := true }
    else attemptFail P 3 6 255 s

/-- The device's declared set (R136). -/
def declaredSet (e : PortEntry) : List (Nat × Nat) :=
  let rates := (candidates e).map (·.2)
  [(0x00, 1), (0x01, e.lanes), (0x02, (if rates.contains 3 then 1 else 0) + if rates.contains 4 then 2 else 0), (0x03, 4),
   (0x0E, 1024 + 16 * 65536), (0x0F, 16384)]

/-- The exit condition of Lock is met (R108): skew in ps, and the standard that the first control blocks name. -/
def lockExit (P skew named : Nat) (s : State) : State :=
  match s.portEntry P with
  | none => s
  | some e =>
    let p := s.port P
    if s.portState P ≠ 3 ∨ p.lanes.any (fun n => s.rd (LN_STATUS_BLOCK_LOCK n) == 0) ∨ (e.lanes = 16 ∧ ¬ p.orderDone) then s
    else
      let standard := if p.standard = 0 then named else p.standard
      if 2 ≤ standard ∧ 128000 < skew then attemptFail P 3 5 255 s
      else
        let s := (nameStandard P standard s).wr (PT_LINK_STATUS_STATE P) 4
        if standard = 3 then
          (s.updPort P fun p => { p with capStep := 1 }).emit (.portBlock P (capBlocks false (declaredSet e)))
        else s

/-- The Lock limit (R114, R115). -/
def lockLimit (P : Nat) (s : State) : State :=
  if s.portState P ≠ 3 then s
  else
    match (s.port P).lanes.find? fun n => s.rd (LN_STATUS_BLOCK_LOCK n) == 0 with
    | some n => attemptFail P 3 4 n s
    | none => attemptFail P 3 (if s.portLanes P |>.length |> (· = 16 && !(s.port P).orderDone) then 6 else 5) 255 s

/-! Exchange (R109, R110, R136, R137). -/

/-- The shapes of a port's streams as the camera declares them and the image overrides them. -/
def declaredShapes (s : State) (P n : Nat) (caps : List (Nat × Nat)) : List (Nat × Nat × Nat) :=
  (List.range n).map fun i =>
    let g := capField caps (8 + i) 0
    s.agreedShape (4 * P + i) (g % 65536) (g / 65536 % 65536) (capField caps (4 + i) 0x01080001)

/-- Lanes and streams that a declared set agrees to; none: no common capability (R109, R110, R137). -/
def agree (s : State) (P : Nat) (e : PortEntry) (caps : List (Nat × Nat)) : Option (Nat × Nat) :=
  let p := s.port P
  let declared := capField caps 1 1
  let lanes := if e.lanes = 16 then (if 16 ≤ declared ∧ p.lanes.length = 16 then 16 else 0) else agreedLanes e.lanes declared
  let streams := min (max 1 (min 4 (capField caps 3 1))) (if e.streams = 0 then 4 else e.streams)
  let rate : Bool := p.standard != 3 || (capField caps 2 (2 ^ (p.rate - 3))).testBit (p.rate - 3)
  if lanes = 0 ∨ ¬ rate ∨ ¬ ((s.declaredShapes P streams caps).all shapeOk) then none else some (lanes, streams)

/-- The agreed set (R136). -/
def agreedSet (s : State) (P lanes streams : Nat) (caps : List (Nat × Nat)) : List (Nat × Nat) :=
  let shapes := s.declaredShapes P streams caps
  let ctl := capField caps 0x0E 0x10004
  [(0x00, 1), (0x01, lanes), (0x02, 2 ^ ((s.port P).rate - 3)), (0x03, streams)]
    ++ shapes.zipIdx.map (fun x => (4 + x.2, x.1.2.2)) ++ shapes.zipIdx.map (fun x => (8 + x.2, x.1.1 + 65536 * x.1.2.1))
    ++ [(0x0C, capField caps 0x0C 0xFFFFFF00), (0x0D, capField caps 0x0D 0),
        (0x0E, min 1024 (ctl % 65536) + 65536 * min 16 (ctl / 65536 % 256)), (0x0F, capField caps 0x0F 16384),
        (0x10, capField caps 0x10 0), (0x11, capField caps 0x11 0)]

/-- A capability set arrives (R137). -/
def capabilitySet (P : Nat) (agreed reject : Bool) (fields : List (Nat × Nat)) (s : State) : State :=
  match s.portEntry P with
  | none => s
  | some e =>
    let p := s.port P
    if s.portState P = 5 ∧ s.standardOf P = 3 then s.tally (PT_TV_STRAY_TALLY_COUNT P)
    else if s.portState P ≠ 4 ∨ p.standard ≠ 3 then s
    else if p.capStep = 1 ∧ !agreed then
      match s.agree P e fields with
      | none => attemptFail P 4 7 255 s
      | some (lanes, streams) =>
        let set := s.agreedSet P lanes streams fields
        (s.setPort P { p with capStep := 3, farCaps := fields, agreed := set }).emit (.portBlock P (capBlocks true set))
    else if p.capStep = 3 ∧ agreed then
      if reject then attemptFail P 4 7 255 s
      else addRequest P { tag := 0, write := false, addr := 0, len := 4, kind := 2, who := 0 }
        (s.setPort P { p with capStep := 5 })
    else s

/-- The device repeats its set until the next step's first block (R137). -/
def capabilityRepeat (P : Nat) (s : State) : State :=
  match s.portEntry P with
  | none => s
  | some e =>
    let p := s.port P
    if s.portState P ≠ 4 then s
    else if p.capStep = 1 then s.emit (.portBlock P (capBlocks false (declaredSet e)))
    else if p.capStep = 3 then s.emit (.portBlock P (capBlocks true p.agreed))
    else s

/-- The port enters Active with what was agreed (R109, R110, R118). -/
def activate (P lanes streams : Nat) (shapes : List (Nat × Nat × Nat)) (s : State) : State :=
  let p := s.port P
  let s := (((((s.wr (PT_LINK_STATUS_STATE P) 5).wr (PT_LINK_STATUS_STREAMS P) streams).wr (PT_LINK_STATUS_LANES P) lanes).wr
    (PT_LINK_STATUS_RATE P) p.rate).wr (PT_LINK_STATUS_ATTEMPT P) 0).wr (PT_LINK_STATUS_STANDARD P) p.standard
  let s := (s.wr (PT_BRINGUP_TIME_MICROSECONDS P) ((s.now - p.trainEntry) / Time.ofUs 1)).wr
    (PT_TRAIN_MIN_MICROSECONDS P) (trainMinimum p.standard)
  let all := s.portLanes P
  let s := (all.drop lanes).foldl (fun (s : State) n => laneRequest n 1 s) s
  let s := s.setPort P { p with
    lanes := all.take lanes, egen := p.standard = 3 ∧ capField p.agreed 0x11 0 % 2 = 1, keepAlive := s.now }
  let s := if p.standard = 3 then
      let t := capField p.agreed 0x0C 0xFFFFFF00
      (((s.wr (PT_TV_TRIGGER_LEAD_MIN P) (t / 65536)).wr (PT_TV_TRIGGER_PRECISION P) (t / 256 % 256)).wr
        (PT_TV_TRIGGER_IDS P) (t % 32)).wr (PT_TV_SENSOR_OFFSET_PICOSECONDS P) (capField p.agreed 0x0D 0)
    else s
  let s := shapes.zipIdx.foldl (fun (s : State) x => setShape (4 * P + x.2) x.1 s) s
  let s := factoryLate P (portEv P 0 s)
  (portStreams P).foldl (fun (s : State) st =>
    let s := egImg st s
    match s.entryOf st with
    | some e => smallCheck st (contextInit e s)
    | none => s) s

/-- Exchange is complete (R109, R137): on Torvelink after the second echo; elsewhere with what the camera declares. -/
def exchangeComplete (P : Nat) (caps : List (Nat × Nat)) (s : State) : State :=
  match s.portEntry P with
  | none => s
  | some e =>
    let p := s.port P
    if s.portState P ≠ 4 ∨ (p.standard = 3 ∧ p.capStep ≠ 8) then s
    else
      let caps := if p.standard = 3 then p.farCaps else caps
      match s.agree P e caps with
      | none => attemptFail P 4 7 255 s
      | some (lanes, streams) => activate P lanes streams (s.declaredShapes P streams caps) s

/-- The Exchange limit (R114). -/
def exchangeLimit (P : Nat) (s : State) : State := if s.portState P ≠ 4 then s else attemptFail P 4 0x0C 255 s

/-- A lane of a port in Exchange has been without block lock for 1 ms (R114, R123). -/
def exchangeLockLoss (P lane : Nat) (s : State) : State :=
  if s.portState P ≠ 4 then s else attemptFail P 4 0x0B lane s

/-! Answers to control requests (R142, R145). -/

/-- An answer with a TAG: of a request of the same kind that has gone out. -/
def controlAnswer (P tag status : Nat) (write : Bool) (data : List Byte) (s : State) : State :=
  match (s.port P).requests.find? fun r => r.sent && r.tag == tag && r.write == write with
  | none => if s.torvelinkUp P then s.tally (PT_TV_STRAY_TALLY_COUNT P) else s
  | some r =>
    let s := requestDone P r status data s
    if r.kind = 2 ∧ s.portState P = 4 ∧ (s.port P).capStep = 5 then
      sendProbe P (s.updPort P fun p => { p with capStep := 6 })
    else s

/-- A request has had no answer in its time (R142, R176). -/
def controlTimeout (P tag : Nat) (s : State) : State :=
  match (s.port P).requests.find? fun r => r.sent && r.tag == tag with
  | none => s
  | some r =>
    let s := if s.standardOf P = 3 then s.tally (PT_TV_CTRL_TIMEOUT_TALLY_COUNT P) else s
    let s := requestDone P r 5 [] s
    if r.kind = 2 ∧ s.portState P = 4 then attemptFail P 4 8 255 s else s

/-- A probe has had no echo for 1 ms (R137, R151). -/
def probeMiss (P seq : Nat) (s : State) : State :=
  let p := s.port P
  if !p.probes.contains seq then s
  else
    let s := (s.setPort P { p with probes := p.probes.erase seq }).tally (PT_TV_PROBE_MISS_TALLY_COUNT P)
    if s.portState P = 4 then attemptFail P 4 8 255 s else s

/-! Loss, Rest and resets (R111, R113, R114, R123). -/

/-- The partner is lost (R111): lane 255 where no single lane shows it. -/
def partnerLost (P lane : Nat) (s : State) : State :=
  if s.portState P ≠ 5 then s
  else listenAfresh P (lastFail P 5 9 lane ((leaveActive P 3 s).tally (PT_DOWN_TALLY_COUNT P)))

/-- A poll in Rest: the lanes that show a signal (R113). -/
def restPoll (P : Nat) (seen : List Nat) (s : State) : State :=
  if s.portState P ≠ 6 then s
  else
    let s := (s.portLanes P).foldl (fun (s : State) n => s.wrIf (LN_STATUS_SIGNAL n) (seen.contains n)) s
    if (s.portLanes P).any seen.contains then listenAfresh P s else s

/-- A write of RETRAIN (R114, R123). -/
def retrain (P : Nat) (s : State) : State :=
  let st := s.portState P
  if st = 0 then s
  else if st = 6 then listenAfresh P s
  else if st = 5 then listenAfresh P (leaveActive P 5 s)
  else listen P s

/-- A write of PT_LINK_CTRL. -/
def linkCtrl (fn P : Nat) (w : Word) (s : State) : State :=
  let s := putWord fn (PT_LINK_CTRL P) w s
  if bitsOf w 31 31 = 1 then retrain P s else s

/-- A lane block reset (R101). -/
def laneBlockReset (n : Nat) (s : State) : State :=
  let s := laneReset n s
  match s.lanePort n with
  | none => s
  | some P =>
    let st := s.portState P
    if st = 0 ∨ st = 6 then s
    else if st = 5 then if (s.port P).lanes.contains n then listenAfresh P (leaveActive P 5 s) else s
    else listen P s

/-- A port block reset (R123). -/
def portBlockReset (P : Nat) (s : State) : State :=
  match s.portEntry P with
  | none => s
  | some e =>
    let s := (entryLanes e).foldl (fun (s : State) n => laneReset n s) (leaveActive P 5 s)
    if P = 24 then portSilent 24 5 s else listenAfresh P s

/-- A port that is enabled leaves Off (R114). -/
def portEnable (P : Nat) (s : State) : State :=
  if s.portState P = 0 ∧ (s.portEntry P).isSome ∧ P < 24 then listenAfresh P s else s

/-- A write of FH_CONTROL.ENABLE of the fold whose header stands at `off` (R25, R114). -/
def foldEnable (off : Nat) (on : Bool) (s : State) : State :=
  let s := s.wrIf (FH_CONTROL_ENABLE off) on
  match (List.range 24).find? fun P => PT_HDR P == off with
  | some P => if on then portEnable P s else portOff P s
  | none => s

end State

/-- FOLD_ENABLE (R25). -/
def execFoldEnable (off : Nat) (on : Bool) (s : State) : Host.Outcome State Fault Refusal := .next (s.foldEnable off on)

/-- FOLD_HALT (R25): the fold stops at its next frame boundary, or resumes. -/
def execFoldHalt (off : Nat) (on : Bool) (s : State) : Host.Outcome State Fault Refusal :=
  .next (s.wrIf (FH_CONTROL_HALT off) on)

/-- LANE_BLOCK_RESET (R101). -/
def execLaneBlockReset (n : Nat) (s : State) : Host.Outcome State Fault Refusal := .next (s.laneBlockReset n)

/-- PORT_BLOCK_RESET (R123). -/
def execPortBlockReset (P : Nat) (s : State) : Host.Outcome State Fault Refusal := .next (s.portBlockReset P)

/-- PIXEL_FOLD_BLOCK_RESET (R210). -/
def execPixelFoldBlockReset (f : Nat) (s : State) : Host.Outcome State Fault Refusal := .next (s.foldReset f)

/-- PARTNER_DETECT (R105). -/
def execPartnerDetect (P : Nat) (seen : List Nat) (s : State) : Host.Outcome State Fault Refusal := .next (s.partnerDetect P seen)

/-- LISTEN_CANDIDATE_TIMEOUT (R106). -/
def execListenCandidateTimeout (P : Nat) (s : State) : Host.Outcome State Fault Refusal := .next (s.nextCandidate P)

/-- LISTEN_LIMIT_EXPIRE (R114). -/
def execListenLimitExpire (P : Nat) (s : State) : Host.Outcome State Fault Refusal := .next (s.listenLimit P)

/-- TRAIN_EXIT (R107). -/
def execTrainExit (P : Nat) (seen : List Nat) (s : State) : Host.Outcome State Fault Refusal := .next (s.trainExit P seen)

/-- TRAIN_LIMIT_EXPIRE (R114). -/
def execTrainLimitExpire (P : Nat) (s : State) : Host.Outcome State Fault Refusal := .next (s.trainLimit P)

/-- ORDER_STEP (R116). -/
def execOrderStep (P : Nat) (s : State) : Host.Outcome State Fault Refusal := .next (s.orderStep P)

/-- LOCK_EXIT (R108). -/
def execLockExit (P skew standard : Nat) (s : State) : Host.Outcome State Fault Refusal := .next (s.lockExit P skew standard)

/-- LOCK_LIMIT_EXPIRE (R114). -/
def execLockLimitExpire (P : Nat) (s : State) : Host.Outcome State Fault Refusal := .next (s.lockLimit P)

/-- EXCHANGE_COMPLETE (R109). -/
def execExchangeComplete (P : Nat) (caps : List (Nat × Nat)) (s : State) : Host.Outcome State Fault Refusal :=
  .next (s.exchangeComplete P caps)

/-- EXCHANGE_LIMIT_EXPIRE (R114). -/
def execExchangeLimitExpire (P : Nat) (s : State) : Host.Outcome State Fault Refusal := .next (s.exchangeLimit P)

/-- EXCHANGE_LOCK_LOSS_TIMEOUT (R114). -/
def execExchangeLockLossTimeout (P lane : Nat) (s : State) : Host.Outcome State Fault Refusal :=
  .next (s.exchangeLockLoss P lane)

/-- PARTNER_LOST (R111). -/
def execPartnerLost (P lane : Nat) (s : State) : Host.Outcome State Fault Refusal := .next (s.partnerLost P lane)

/-- REST_POLL (R113). -/
def execRestPoll (P : Nat) (seen : List Nat) (s : State) : Host.Outcome State Fault Refusal := .next (s.restPoll P seen)

/-- RETRAIN (R114). -/
def execRetrain (P : Nat) (s : State) : Host.Outcome State Fault Refusal := .next (s.retrain P)

/-- TRAINING_BLOCK (R132). -/
def execTrainingBlock (n number : Nat) (ready : Bool) (tap action reply : Nat) (inverted better : Bool) (s : State) :
    Host.Outcome State Fault Refusal :=
  .next (s.trainingBlock n number ready tap action reply inverted better)

/-- CAPABILITY_BLOCK (R137): a whole set. -/
def execCapabilityBlock (P : Nat) (agreed reject : Bool) (fields : List (Nat × Nat)) (s : State) :
    Host.Outcome State Fault Refusal :=
  .next (s.capabilitySet P agreed reject fields)

/-- CAPABILITY_REPEAT (R137). -/
def execCapabilityRepeat (P : Nat) (s : State) : Host.Outcome State Fault Refusal := .next (s.capabilityRepeat P)

/-- CONTROL_READ_RESPONSE (R142). -/
def execControlReadResponse (P tag status : Nat) (data : List Byte) (s : State) : Host.Outcome State Fault Refusal :=
  .next (s.controlAnswer P tag status false data)

/-- CONTROL_WRITE_ACK (R142). -/
def execControlWriteAck (P tag status : Nat) (s : State) : Host.Outcome State Fault Refusal :=
  .next (s.controlAnswer P tag status true [])

/-- CONTROL_REQUEST_TIMEOUT (R142). -/
def execControlRequestTimeout (P tag : Nat) (s : State) : Host.Outcome State Fault Refusal := .next (s.controlTimeout P tag)

/-- PROBE_MISS (R151). -/
def execProbeMiss (P seq : Nat) (s : State) : Host.Outcome State Fault Refusal := .next (s.probeMiss P seq)

end Sys2Proof.Machine
end

