-- ==== Sys2Proof/Machine/Network.lean ====
section
/-!
DEFINITION. The network paths (R439–R462): the crook and the roles of the paths, epochs on the mirror link, takeover
and handback, the neighbour table, the flows of frame transport and the relay, requests, network freezes, and the
messages of precision time (R356).
-/
namespace Sys2Proof.Machine

namespace State

def path (s : State) (k : Nat) : Path := tget (fun _ => {}) s.net.paths k
def setPath (s : State) (k : Nat) (x : Path) : State :=
  { s with net := { s.net with paths := tset (fun _ => {}) s.net.paths k x } }
def updPath (s : State) (k : Nat) (g : Path → Path) : State := s.setPath k (g (s.path k))
def updNet (s : State) (g : Network → Network) : State := { s with net := g s.net }

def npEv (k i detail : Nat) (s : State) : State := s.raise (800 + 16 * k + i) detail

def roleOf (s : State) (k : Nat) : Nat := s.rd (NPP_STATUS_ROLE k)

/-- ROLE changes (R460). -/
def setRole (k r : Nat) (s : State) : State :=
  if s.roleOf k = r then s else npEv k 0 r (s.wr (NPP_STATUS_ROLE k) r)

/-- The path that may send: Active, or Releasing while it still finishes (R451, R457). -/
def activePath (s : State) : Option Nat := [0, 1].find? fun k => s.roleOf k == 5

/-- Whether a path holds the crook. -/
def holds (s : State) (k : Nat) : Bool := s.roleOf k == 5 || s.roleOf k == 6

/-! Frames on the wire. -/

/-- The transmit gate of R451, and PAUSE (R439). -/
def gateOpen (s : State) (k : Nat) : Bool :=
  s.roleOf k == 5 && !s.net.stopped && (s.path k).paused ≤ s.now
    && (match (s.path k).returned with
      | some t => s.now ≤ t + Time.ofUs 12
      | none => false)

/-- A frame is put on the wire. -/
def netEmit (k : Nat) (e : Emit) (s : State) : State := (s.emit e).tally (NPP_TX_TALLY_COUNT k)

/-- A frame is sent, or waits for the transmit gate. -/
def netSend (k : Nat) (e : Emit) (s : State) : State :=
  if s.gateOpen k then netEmit k e s else s.updPath k fun x => { x with waiting := x.waiting ++ [e] }

/-- Frames that waited for the gate. -/
def netFlush (k : Nat) (s : State) : State :=
  if s.gateOpen k then
    let l := (s.path k).waiting
    l.foldl (fun (s : State) e => netEmit k e s) (s.updPath k fun x => { x with waiting := [] })
  else s

/-! Addresses and neighbours (R439–R441). -/

def macOf (s : State) : Nat := s.rdWide NP_MAC 2

/-- The link-local address formed from the MAC address by EUI-64 (R439). -/
def linkLocal (s : State) : NetAddr :=
  let m := s.macOf
  ⟨true, [0xFE800000, 0, (m / 2 ^ 24 ^^^ 0x020000) * 256 + 0xFF, 0xFE * 2 ^ 24 + m % 2 ^ 24]⟩

/-- The addresses that the device answers for. -/
def ownAddrs (s : State) : List NetAddr :=
  let v4 := s.rd NP_IP4_ADDRESS
  let v6 := (List.range 4).map fun i => s.rd (NP_IP6_ADDRESS i)
  (if v4 = 0 then [] else [⟨false, [v4]⟩]) ++ (if v6.all (· == 0) then [] else [⟨true, v6⟩]) ++ [s.linkLocal]

/-- A multicast destination: no address to resolve (R439). -/
def multicast (a : NetAddr) : Option Nat :=
  let hd := a.words.headD 0
  let last := a.words.getLastD 0
  if a.v6 then if hd / 2 ^ 24 = 0xFF then some (0x3333 * 2 ^ 32 + last) else none
  else if hd / 2 ^ 28 = 14 then some (0x01005E * 2 ^ 24 + hd % 2 ^ 23) else none

/-- The address whose MAC address a datagram needs: the gateway, for an IPv4 destination off the device's own
network (R461). -/
def nextHop (s : State) (a : NetAddr) : NetAddr :=
  let gw := s.rd NP_GATEWAY4_ADDRESS
  let sh := 2 ^ (32 - s.rd NP_PREFIX_V4_LEN)
  if a.v6 ∨ gw = 0 ∨ a.words.headD 0 / sh = s.rd NP_IP4_ADDRESS / sh then a else ⟨false, [gw]⟩

/-- The address in a neighbour entry. -/
def nbAddr (s : State) (i : Nat) : NetAddr :=
  if s.rd (NB_CTRL_IPV6 i) = 1 then ⟨true, (List.range 4).map fun j => s.rd (NB_IP_ADDRESS i j)⟩
  else ⟨false, [s.rd (NB_IP_ADDRESS i 0)]⟩

def nbFind (s : State) (a : NetAddr) : Option Nat :=
  (List.range 64).find? fun i => s.rd (NB_CTRL_VALID i) == 1 && s.nbAddr i == a

def nbUsed (s : State) (i : Nat) : Time := tget (fun _ => 0) s.net.used i
def nbTouch (i : Nat) (s : State) : State :=
  s.updNet fun n => { n with used := tset (fun _ => 0) n.used i s.now }

/-- The entry a new resolution takes: a free one, else the oldest dynamic one (R441). -/
def nbPlace (s : State) : Option Nat :=
  match (List.range 64).find? fun i => s.rd (NB_CTRL_VALID i) == 0 && s.rd (NB_CTRL_STATIC i) == 0 with
  | some i => some i
  | none =>
    ((List.range 64).filter fun i => s.rd (NB_CTRL_STATIC i) == 0).foldl (fun b i =>
      match b with
      | none => some i
      | some j => if s.nbUsed i < s.nbUsed j then some i else some j) none

/-- The MAC address to send to, where it is known; else a resolution is under way (R441). -/
def resolve (k : Nat) (a : NetAddr) (s : State) : Option Nat × State :=
  match multicast a with
  | some m => (some m, s)
  | none =>
    let a := s.nextHop a
    match s.nbFind a with
    | some i => (some (s.rdWide (NB_MAC i) 2), nbTouch i s)
    | none =>
      if s.net.resolving.contains a then (none, s)
      else (none, netSend k (.netFrame k 2 (a.words.flatMap (leBytes 4))) (s.updNet fun n =>
        { n with resolving := n.resolving ++ [a] }))

/-- A neighbour answers (R441). -/
def nbReply (a : NetAddr) (mac : Nat) (s : State) : State :=
  if ¬ s.net.resolving.contains a then s
  else
    let s := s.updNet fun n =>
      { n with resolving := n.resolving.filter (· != a), reported := n.reported.filter (· != a) }
    match s.nbPlace with
    | none => s
    | some i =>
      let s := s.ww (NB_CTRL i) (BitVec.ofNat 32 (2 ^ 31 + if a.v6 then 2 ^ 28 else 0))
      let s := (List.range 4).foldl (fun (s : State) j => s.wr (NB_IP_ADDRESS i j) (a.words.getD j 0)) s
      nbTouch i (s.wrWide (NB_MAC i) 2 mac)

/-! Datagrams (R443). -/

/-- The 32-byte header (R443). -/
def dgHeader (kind stream flags seq flow frame offset length epoch : Nat) : List Byte :=
  [0x53#8, 0x56#8, 0x46#8, 0x54#8, 1#8] ++ leBytes 1 kind ++ leBytes 1 stream ++ leBytes 1 flags ++ leBytes 6 seq
    ++ leBytes 1 flow ++ [0#8] ++ leBytes 8 frame ++ leBytes 4 offset ++ leBytes 2 length ++ leBytes 2 epoch

def flowSeq (s : State) (f : Nat) : Nat := s.rdWide (NF_SEQ f) 2
def setSeq (f v : Nat) (s : State) : State := s.wrWide (NF_SEQ f) 2 (v % 2 ^ 48)

/-- The destination of a flow. -/
def flowDest (s : State) (f : Nat) : NetAddr × Nat :=
  (if s.rd (NF_DEST_PORT_IPV6 f) = 1 then ⟨true, (List.range 4).map fun i => s.rd (NF_DEST_IP6_ADDRESS f i)⟩
    else ⟨false, [s.rd (NF_DEST_IP4_ADDRESS f)]⟩, s.rd (NF_DEST_PORT_PORT f))

/-- How a datagram of a flow leaves: to an address and MAC address, or, for a destination that could not be resolved,
not at all, counted in NF_DROP_TALLY (R441). -/
structure Route where
  path : Nat
  to_ : NetAddr
  port : Nat
  mac : Option Nat
deriving Repr

/-- A datagram of KIND 1 to 4 of a flow, sent with the flow's next SEQ (R444). -/
def flowSend (f kind stream flags frame offset : Nat) (payload : List Byte) (r : Route) (s : State) : State :=
  match r.mac with
  | none => s.tally (NF_DROP_TALLY_COUNT f)
  | some m =>
    let seq := s.flowSeq f
    let h := dgHeader kind stream (flags + 16 * r.path) seq f frame offset payload.length (s.rd NP_EPOCH_EPOCH)
    let cost := ceilDiv (65536000 * (payload.length + 32)) (s.rd (NF_RATE_MBPS f))
    let s := netEmit r.path (.datagram r.path r.to_.v6 r.to_.words m r.port h payload) (setSeq f (seq + 1) s)
    s.updFlow f fun x => { x with paced := max x.paced s.now + cost }

/-- The pacing of R444: the flow has not outrun its rate by more than BURST_KIB. -/
def flowPaced (s : State) (f : Nat) : Bool :=
  (s.flow f).paced ≤ s.now + 67108864000 * s.rd (NF_RATE_BURST_KIB f) / s.rd (NF_RATE_MBPS f)

/-- STREAM of a flow's header, 0xFF where none (R443). -/
def streamByte (s : State) (f : Nat) : Nat := if s.flowStream f ≤ 96 then s.flowStream f else 255

/-- The record that a transfer names, while it is complete and not overwritten. -/
def sendRec (s : State) (slot seq : Nat) : Option Rec :=
  match s.record slot with
  | some r => if r.seq = seq ∧ r.state = 3 ∧ !r.overwritten then some r else none
  | none => none

/-- `n` bytes of a frame from `off`; a frame may wrap at the end of its region (R251). -/
def frameBytes (s : State) (r : Rec) (off n : Nat) : List Byte :=
  (List.range n).map fun i =>
    s.fab.byte (if r.size = 0 then r.address + off + i else r.base + (r.offset + off + i) % r.size)

/-- A status datagram of a flow (R447). -/
def statusSend (f stream frame code count : Nat) (r : Route) (s : State) : State :=
  flowSend f 4 stream 0 frame 0 (leBytes 8 frame ++ leBytes 1 code ++ leBytes 3 0 ++ leBytes 4 count) r s

/-- The frame in progress of a flow ends: a change of NF_CTRL applies (R459). -/
def flowEnd (f : Nat) (s : State) : State :=
  s.updFlow f fun x => { x with cur := none, mid := false, inForce := none }

/-- The next datagram of the frame in progress (R445). -/
def sendFrame (f : Nat) (c : Sending) (r : Route) (s : State) : State :=
  match s.sendRec c.slot c.seq with
  | none =>
    let s := npEv r.path 9 f ((flowEnd f s).tally (NF_SKIP_TALLY_COUNT f))
    if c.src.isSome then statusSend f (s.streamByte f) c.number 2 1 r s else s
  | some x =>
    let held := if x.held then 8 else 0
    if c.off < x.length then
      let n := min (s.rd (NF_PAYLOAD_BYTES f)) (x.length - c.off)
      let flags := (if c.off = 0 then 1 else 0) + (if c.off + n = x.length then 2 else 0) + held
      let s := flowSend f 1 x.stream flags x.number c.off (s.frameBytes x c.off n) r s
      s.updFlow f fun y => { y with cur := some { c with off := c.off + n }, mid := true }
    else
      let s := flowSend f 2 x.stream held x.number 0 (recBytes x) r s
      (flowEnd f s).tally (NF_SENT_TALLY_COUNT f)

/-- A frame is taken up. -/
def beginFrame (f : Nat) (x : Rec) (src : Option (NetAddr × Nat)) (r : Route) (s : State) : State :=
  let c : Sending := { slot := x.slot, seq := x.seq, number := x.number, src := src }
  sendFrame f c r ((s.updFlow f fun y => { y with cur := some c }).wrWide (NF_FRAME f) 2 x.number)

/-- A record that waits in Push has gone: the frame is skipped (R445). -/
def skipReady (k f : Nat) : List (Nat × Nat) → State → List (Nat × Nat) × State
  | [], s => ([], s)
  | x :: r, s =>
    if (s.sendRec x.1 x.2).isSome then (x :: r, s)
    else skipReady k f r (npEv k 9 f (s.tally (NF_SKIP_TALLY_COUNT f)))

/-- The request of a path that a flow serves next. -/
def flowRequest (s : State) (k f : Nat) : Option NetRequest := (s.path k).requests.find? fun q => q.flow == f

/-- One frame of a request has been dealt with. -/
def requestStep (k : Nat) (q : NetRequest) (s : State) : State :=
  let next := { q with first := q.first + 1, count := q.count - 1 }
  s.updPath k fun x =>
    { x with requests := if q.count ≤ 1 then x.requests.erase q else x.requests.replace q next }

/-- The resync marker (R456): its own SEQ is NEW_SEQ. -/
def sendMarker (f : Nat) (m : Nat × Nat × Nat) (r : Route) (s : State) : State :=
  let new := (m.2.1 + s.rd NP_RESYNC_GAP_GAP) % 2 ^ 48
  let s := setSeq f new (s.updFlow f fun x => { x with marker := none })
  let s := flowSend f 3 (s.streamByte f) 0 (s.rdWide (NF_FRAME f) 2) 0
    (leBytes 4 m.1 ++ leBytes 6 m.2.1 ++ leBytes 6 new ++ leBytes 1 m.2.2 ++ leBytes 7 0) r s
  npEv r.path 3 m.2.2 s

/-- The next datagram of a relay flow (R446). -/
def sendRelay (f : Nat) (i : RelayItem) (r : Route) (s : State) : State :=
  let flags := (if i.first then 1 else 0) + (if i.last then 2 else 0) + 4
  let s := flowSend f 1 255 flags i.transfer i.offset i.payload r s
  let s := s.updFlow f fun x => { x with relay := x.relay.tail, mid := !i.last }
  if i.last then (s.updFlow f fun x => { x with inForce := none }).tally (NF_SENT_TALLY_COUNT f) else s

/-- Where a flow's next datagram goes; none where the flow has none ready. -/
def flowTarget (s : State) (k f : Nat) : Option (NetAddr × Nat) :=
  let x := s.flow f
  if ¬ s.flowOn f ∨ s.flowMode f = 0 then none
  else if x.marker.isSome then some (s.flowDest f)
  else if s.flowMode f = 3 then if x.relay.isEmpty then none else some (s.flowDest f)
  else match x.cur with
    | some c => some (c.src.getD (s.flowDest f))
    | none => match s.flowRequest k f with
      | some q => some (q.src, q.port)
      | none => if s.flowMode f = 1 ∧ !x.ready.isEmpty then some (s.flowDest f) else none

/-- The flow's next datagram: a marker, then the frame in progress, then requested frames, then the next frame of
Push (R445, R447, R456). -/
def flowNext (f : Nat) (r : Route) (s : State) : State :=
  let x := s.flow f
  match x.marker with
  | some m => sendMarker f m r s
  | none =>
    if s.flowMode f = 3 then
      match x.relay with
      | i :: _ => sendRelay f i r s
      | [] => s
    else match x.cur with
      | some c => sendFrame f c r s
      | none => match s.flowRequest r.path f with
        | some q =>
          let s := requestStep r.path q s
          match (s.frames q.stream).find? fun y => y.number == q.first && y.state == 3 with
          | some y => beginFrame f y (some (q.src, q.port)) r s
          | none => statusSend f q.stream q.first 1 1 r s
        | none =>
          let l := skipReady r.path f x.ready s
          match l.1 with
          | [] => l.2.updFlow f fun y => { y with ready := [] }
          | y :: t =>
            let s := l.2.updFlow f fun z => { z with ready := t }
            match s.record y.1 with
            | some z => beginFrame f z none r s
            | none => s

/-- The index that EV+12 names for a destination (R460). -/
def nbIndex (s : State) : Nat := s.nbPlace.getD 0

/-! Roles and health (R452, R455). -/

def pathOn (s : State) (k : Nat) : Bool :=
  (s.rd GLB_PWR_STATUS_PATHS).testBit k && s.rd (NPP_CFG_ENABLE k) == 1

/-- Whether a path is healthy (R452). -/
def healthyNow (s : State) (k : Nat) : Bool :=
  s.pathOn k && (s.path k).ready && (s.path k).locked && !(s.path k).txFault

def setHolder (v : Nat) (s : State) : State := s.wr NP_STATUS_HOLDER v

/-- A path that held the crook lets it go: its frames end, and the copy of an epoch on its way is cut (R458). -/
def letGo (k detail : Nat) (s : State) : State :=
  if s.roleOf k < 4 then s
  else
    let held := s.holds k
    let s := s.updPath k fun x => { x with returned := none, waiting := [] }
    let s := if s.rd NP_STATUS_HOLDER = k + 1 then setHolder 0 s else s
    if held then npEv k 2 detail (s.updNet fun n => { n with flight := none, handback := none }) else s

/-- A handback meets the loss of the path it leads to: the holder keeps the crook (R459). -/
def handbackOff (s : State) : State :=
  match s.net.handback with
  | none => s
  | some h =>
    let s := s.updNet fun n => { n with handback := none }
    if s.roleOf h.from_ = 6 then setRole h.from_ 5 s else s

/-- A path takes the role its health allows: Off, Down, or from there Syncing (R452, R455). -/
def pathFollow (k : Nat) (s : State) : State :=
  let ok := s.healthyNow k
  let s := s.wrIf (NPP_STATUS_HEALTHY k) ok
  let r := s.roleOf k
  if ok then
    let s := if (s.path k).healthySince.isSome then s
      else s.updPath k fun x => { x with healthySince := some s.now }
    if r ≤ 1 then setRole k 2 s else s
  else
    let held := s.holds k
    let s := s.updPath k fun x => { x with healthySince := none, fresh := true }
    let s := if r ≥ 4 then letGo k 0 s else if r ≥ 2 then handbackOff s else s
    let s := setRole k (if s.pathOn k then 1 else 0) s
    let s := s.wr (NPP_STATUS_HEALTHY_MS k) 0
    if (held ∨ s.net.everActive) ∧ s.activePath.isNone ∧ ¬ s.healthyNow 0 ∧ ¬ s.healthyNow 1 then
      s.updNet fun n => { n with bothFailed := true, handed := none }
    else s

/-- PCS and FEC lock of a path (R452): LINK, the tally of link loss and EV+6. -/
def pathLock (k : Nat) (up : Bool) (s : State) : State :=
  let was := s.rd (NPP_STATUS_LINK k)
  let s := s.updPath k fun x => { x with locked := up, txFault := if up then false else x.txFault }
  let s := (s.wrIf (NPP_STATUS_LINK k) up).wrIf (NPP_STATUS_FEC_LOCK k) (up && s.rd (NPP_CFG_FEC k) == 1)
  let s := if up then (if was = 0 then npEv k 6 1 s else s)
    else if was = 1 then npEv k 6 0 (s.tally (NPP_LINK_DOWN_TALLY_COUNT k)) else s
  pathFollow k s

/-- The module of a path comes to use, or goes (R497, R498). -/
def pathModule (k : Nat) (ready : Bool) (s : State) : State :=
  let s := (s.updPath k fun x => { x with ready := ready }).wrIf (NPP_STATUS_MODULE k) ready
  if ready then pathFollow k s else pathLock k false s

/-! Epochs (R453–R455). -/

def nbWords (s : State) (i : Nat) : List Word := (List.range 7).map fun j => s.rw (NB_CTRL i + 4 * j)

/-- The snapshot (R453). -/
def epochNow (s : State) (number : Nat) (requests : List NetRequest) : Epoch :=
  { number := number, time := s.now
    flows := (List.range 64).map fun f =>
      ⟨s.flowSeq f, (s.flow f).paced, s.rdWide (NF_FRAME f) 2, (s.flow f).cur⟩
    ptp := [(s.servo 0, tget (fun _ => [0, 0, 0]) s.net.ptpSeq 0), (s.servo 1, tget (fun _ => [0, 0, 0]) s.net.ptpSeq 1)]
    neighbors := (List.range 64).map fun i => (s.nbWords i, s.nbUsed i)
    requests := requests }

/-- An epoch is snapshotted and sent over the mirror link (R453). -/
def snapshot (k : Nat) (s : State) : State :=
  let n := (s.rd NP_EPOCH_EPOCH + 1) % 2 ^ 32
  let s := (s.wr NP_EPOCH_EPOCH n).wr (NPP_LAST_EPOCH_EPOCH k) n
  let e := s.epochNow n (s.path k).requests
  (s.updPath k fun x => { x with epoch := some e }).updNet fun w => { w with flight := some e }

/-- A handback's next stage (R457): at a frame boundary, or when its 100 ms have passed, the path stops starting
frames and sends its final epoch, once the copy of an earlier epoch is complete. -/
def handbackStep (s : State) : State :=
  match s.net.handback with
  | none => s
  | some h =>
    let mid := (List.range 64).any fun f => s.flowOn f && (s.flow f).mid
    if h.stopped ∨ ((mid ∨ s.net.flight.isSome) ∧ s.now < h.deadline) then s
    else
      let s := setRole h.from_ 6 (s.updNet fun n => { n with handback := some { h with stopped := true, forced := mid } })
      snapshot h.from_ s

/-- A handback begins (R457). -/
def startHandback (k : Nat) (s : State) : State :=
  if s.roleOf k = 5 ∧ s.roleOf (1 - k) = 3 ∧ s.rd (NPP_STATUS_MIRROR_STALE (1 - k)) = 0 ∧ s.net.handback.isNone then
    handbackStep (s.updNet fun n => { n with handback := some { from_ := k, deadline := s.now + Time.ofMs 100 } })
  else s

/-- The whole millisecond that is due is snapshotted (R453); a final epoch on its way is the snapshot (R459). -/
def epochDue (s : State) : State :=
  match s.activePath with
  | none => handbackStep s
  | some k =>
    let t := max s.now (Time.ofMs s.net.nextMs)
    let s := s.runTo (65536 * t)
    let s := s.updNet fun n => { n with nextMs := s.now / Time.ofMs 1 + 1 }
    let s := handbackStep s
    if s.roleOf k = 5 then snapshot k s else s

/-- A path installs an epoch. -/
def install (k : Nat) (e : Epoch) (s : State) : State :=
  let s := (s.updPath k fun x => { x with epoch := some e, fresh := false }).wr (NPP_LAST_EPOCH_EPOCH k) e.number
  if s.rd (NPP_STATUS_MIRROR_STALE k) = 1 then npEv k 4 0 (s.wr (NPP_STATUS_MIRROR_STALE k) 0) else s

/-- A path in Syncing meets an epoch (R455). -/
def syncEpoch (k : Nat) (e : Epoch) (s : State) : State :=
  let x := s.path k
  let s := if x.fresh ∧ (x.epoch.map fun y => (y.number + 1) % 2 ^ 32) ≠ some e.number then
      npEv k 5 ((x.epoch.map (·.number)).getD 0) (s.tally NP_MISMATCH_TALLY_COUNT)
    else s
  setRole k 3 (install k e s)

/-- The copy of an epoch is complete (R453); with a final epoch installed, the holder lets the crook go (R457). -/
def epochReceived (k : Nat) (ok : Bool) (s : State) : State :=
  match s.net.flight with
  | none => s
  | some e =>
    let s := s.updNet fun n => { n with flight := none }
    let last := (s.path k).epoch.map fun y => (y.number + 1) % 2 ^ 32
    let r := s.roleOf k
    if ¬ ok ∨ s.holds k then s
    else if r = 2 ∨ (r = 3 ∧ last = some e.number) then
      let s := if r = 2 then syncEpoch k e s else install k e s
      match s.net.handback with
      | some h =>
        if h.stopped ∧ h.from_ ≠ k then
          let s := (letGo h.from_ 1 s).tally NP_REVERT_TALLY_COUNT
          setRole h.from_ 3 (s.updNet fun n => { n with handed := some h.forced })
        else handbackStep s
      | none => s
    else s

/-- MIRROR_STALE (R454); a handback to the stale path is abandoned (R459). -/
def mirrorStale (k : Nat) (s : State) : State :=
  if s.roleOf k = 3 ∧ s.rd (NPP_STATUS_MIRROR_STALE k) = 0 then
    handbackOff (npEv k 4 1 ((s.wr (NPP_STATUS_MIRROR_STALE k) 1).tally NP_STALE_TALLY_COUNT))
  else s

/-! Seizing and losing the crook (R451, R452, R456). -/

/-- Silence on the crook (R452): a healthy path drives its probe. A pulse of the other path within the last 50 µs
governs (R459). -/
def crookSilence (k : Nat) (s : State) : State :=
  let r := s.roleOf k
  let heard := match (s.path (1 - k)).returned with
    | some t => s.holds (1 - k) && s.now < t + Time.ofUs 50
    | none => false
  if (r = 2 ∨ r = 3) ∧ s.healthyNow k ∧ !heard then (setRole k 4 s).emit (.crook k) else s

/-- What a path announces after a seizure: one message for each of its addresses (R440). -/
def announce (k : Nat) (s : State) : State :=
  s.ownAddrs.foldl (fun (s : State) a => netSend k (.netFrame k 4 (a.words.flatMap (leBytes 4) ++ leBytes 6 s.macOf)) s) s

/-- A flow's resync marker is due (R456); it leaves at once where its destination is resolved. -/
def marker (k f epoch base cause : Nat) (s : State) : State :=
  let s := s.updFlow f fun x => { x with marker := some (epoch, base, cause) }
  let d := s.flowDest f
  let r := resolve k d.1 s
  if r.1.isSome ∧ s.gateOpen k then sendMarker f (epoch, base, cause) ⟨k, d.1, d.2, r.1⟩ r.2 else r.2

/-- The flows take up the state of an epoch: the frame in progress starts again (R456). -/
def resumeFlows (e : Epoch) (s : State) : State :=
  (List.range 64).foldl (fun (s : State) f =>
    match e.flows[f]? with
    | none => s
    | some c =>
      let again := c.cur.map fun y => { y with off := 0 }
      let s := s.updFlow f fun x => { x with paced := c.paced, mid := false, cur := again }
      let s := setSeq f c.seq s
      if s.flowMode f = 3 then s else s.wrWide (NF_FRAME f) 2 c.frame) s

/-- The precision time instances of an epoch: what a servo keeps, and the message sequence identities (R453). -/
def resumePtp (e : Epoch) (s : State) : State :=
  [0, 1].foldl (fun (s : State) d =>
    match e.ptp[d]? with
    | none => s
    | some p =>
      (s.updServo d fun _ => p.1).updNet fun n => { n with ptpSeq := tset (fun _ => [0, 0, 0]) n.ptpSeq d p.2 }) s

/-- The neighbour table and the request queue of an epoch (R453). -/
def resumeTables (k : Nat) (e : Epoch) (s : State) : State :=
  let s := s.updPath k fun x => { x with requests := e.requests }
  (List.range 64).foldl (fun (s : State) i =>
    match e.neighbors[i]? with
    | none => s
    | some n =>
      let s := (List.range 7).foldl (fun (s : State) j => s.ww (NB_CTRL i + 4 * j) (n.1.getD j 0)) s
      s.updNet fun w => { w with used := tset (fun _ => 0) w.used i n.2 }) s

/-- The state before any epoch: SEQ 0 throughout (R455). -/
def noEpoch : Epoch :=
  { number := 0, time := 0, flows := List.replicate 64 ⟨0, 0, 0, none⟩, ptp := [], neighbors := [], requests := [] }

/-- The resync of a takeover (R456): every enabled flow's marker. -/
def takeover (k cause : Nat) (e : Epoch) (s : State) : State :=
  let s := (resumePtp e (resumeTables k e (resumeFlows e s))).tally NP_TAKEOVER_TALLY_COUNT
  (List.range 64).foldl (fun (s : State) f =>
    if s.flowOn f ∧ s.flowMode f ≠ 0 then marker k f e.number (s.flowSeq f) cause s else s) s

/-- The probe returns (R452): the path is holder, announces itself, and resumes its flows. -/
def seize (k : Nat) (s : State) : State :=
  let stale := s.rd (NPP_STATUS_MIRROR_STALE k) = 1 ∨ (s.path k).fresh
  let handed := s.net.handed
  let cause := if handed.isSome then 1 else if s.net.bothFailed then 4 else if stale then 2 else 1
  let resync := s.net.everActive ∧ handed ≠ some false
  let e := ((s.path k).epoch).getD noEpoch
  let s := s.updPath k fun x => { x with returned := some s.now, listen := false, fresh := false }
  let s := npEv k 1 (if handed.isSome then 1 else 0) (setRole k 5 (setHolder (k + 1) s))
  let s := s.updNet fun n =>
    { n with everActive := true, bothFailed := false, handed := none, nextMs := s.now / Time.ofMs 1 + 1 }
  let s := announce k s
  if resync then takeover k cause e s else s

/-- A probe that does not return (R452). -/
def loopFault (k : Nat) (s : State) : State := npEv k 7 2 (s.wr NP_STATUS_LOOP_FAULT 1)

def probeReturn (k : Nat) (back : Bool) (s : State) : State :=
  if s.roleOf k ≠ 4 then s
  else if back then seize k s
  else setRole k (if (s.path k).fresh then 2 else 3) (loopFault k s)

/-- The holder's pulse, and its return within 1 µs (R451). -/
def crookPulse (k : Nat) (back : Bool) (s : State) : State :=
  if ¬ s.holds k then s
  else
    let s := s.emit (.crook k)
    if back then netFlush k (s.updPath k fun x => { x with returned := some s.now }) else s

/-- The holder hears nothing of its own pulses for 30 µs (R451, R458). -/
def loopCheckFail (k : Nat) (s : State) : State :=
  if s.holds k then setRole k 3 (loopFault k (letGo k 0 s)) else s

/-- Contention (R452): both holders stop; NP0 seizes again after its power-up listen. -/
def contention (k : Nat) (s : State) : State :=
  if ¬ s.holds k then s
  else
    let s := (s.tally NP_CONTEND_TALLY_COUNT).wr NP_STATUS_CONTEND 1
    let s := npEv 1 7 1 (npEv 0 7 1 s)
    [0, 1].foldl (fun (s : State) j =>
      if s.holds j then setRole j 3 ((letGo j 0 s).updPath j fun x => { x with listen := true }) else s) s

/-! The relay (R446). -/

/-- A datagram of the current transfer is cut: it waits for its turn, or, with no holder, is discarded and counted. -/
def relayCut (f : Nat) (last : Bool) (s : State) : State :=
  let x := s.flow f
  if x.part.isEmpty then s
  else
    let t := s.rdWide (NF_FRAME f) 2
    let item : RelayItem := ⟨t, x.offset, x.offset == 0, last, x.part⟩
    let s := if [0, 1].any s.holds then s.updFlow f fun y => { y with relay := y.relay ++ [item] }
      else s.tally (NF_DROP_TALLY_COUNT f)
    let s := s.updFlow f fun y => { y with part := [], offset := if last then 0 else y.offset + x.part.length }
    if last then s.wrWide (NF_FRAME f) 2 ((t + 1) % 2 ^ 64) else s

/-- A byte of an entry reaches the flow; a full datagram waits for the next byte, since the last of an entry may be
the transfer's trailer. -/
def relayByte (f : Nat) (b : Byte) (s : State) : State :=
  let s := if (s.flow f).part.length ≥ s.rd (NF_PAYLOAD_BYTES f) then relayCut f false s else s
  let x := s.flow f
  let hd := if x.entry < 4 then x.entryHead ++ [b] else x.entryHead
  s.updFlow f fun x => { x with part := x.part ++ [b], entry := x.entry + 1, entryHead := hd }

def relayBytes (f : Nat) (l : List Byte) (s : State) : State := l.foldl (fun (s : State) b => relayByte f b s) s

/-- The end of an entry ends a datagram; an entry of 64 bytes that opens with FTAP ends the transfer. -/
def relayEnd (f : Nat) (s : State) : State :=
  let x := s.flow f
  let trailer := x.entry = 64 ∧ x.entryHead = [0x46#8, 0x54#8, 0x41#8, 0x50#8]
  (relayCut f trailer s).updFlow f fun y => { y with entry := 0, entryHead := [] }

/-- Whether the path accepts an entry with SPACE 2 (R446). -/
def relayTakes (s : State) (address own : Nat) : Bool :=
  let f := address
  address < 64 && s.flowOn f && s.flowMode f == 3 && bitsOf (s.flowCtrl f) 27 24 == own

/-! Requests and commands from the network (R447–R450). -/

def received (k : Nat) (s : State) : State := s.tally (NPP_RX_TALLY_COUNT k)

/-- A datagram that a path does not take (R450). -/
def rxDrop (k : Nat) (s : State) : State := s.tally (NPP_RX_DROP_TALLY_COUNT k)

/-- A refusal (R447–R449). -/
def netRefused (s : State) : State := s.tally NP_REFUSED_TALLY_COUNT

/-- A reply to an address and port, once its MAC address is known. -/
def netReply (k : Nat) (src : NetAddr) (port : Nat) (h payload : List Byte) (s : State) : State :=
  let r := resolve k src s
  match r.1 with
  | some m => netSend k (.datagram k src.v6 src.words m port h payload) r.2
  | none => r.2

/-- The flow that serves a stream: one that names it, else one in Serve that names any (R445). -/
def serves (s : State) (st : Nat) : Option Nat :=
  let on (f m : Nat) : Bool := s.flowOn f && s.flowMode f == m
  match (List.range 64).find? fun f => (on f 1 || on f 2) && s.flowStream f == st with
  | some f => some f
  | none => (List.range 64).find? fun f => on f 2 && s.flowStream f == 0x7F

/-- A refused request: one status datagram (R447). -/
def refuseRequest (k : Nat) (flow : Option Nat) (q : NetRequest) (code : Nat) (s : State) : State :=
  let s := npEv k 8 code (netRefused s)
  let payload := leBytes 8 q.first ++ leBytes 1 code ++ leBytes 3 0 ++ leBytes 4 q.count
  match flow with
  | some f =>
    let seq := s.flowSeq f
    netReply k q.src q.port (dgHeader 4 q.stream (16 * k) seq f q.first 0 16 (s.rd NP_EPOCH_EPOCH)) payload
      (setSeq f (seq + 1) s)
  | none =>
    netReply k q.src q.port (dgHeader 4 q.stream (16 * k) 0 0xFF q.first 0 16 (s.rd NP_EPOCH_EPOCH)) payload s

/-- A request datagram (R447). -/
def request (k st first count : Nat) (src : NetAddr) (port : Nat) (s : State) : State :=
  if s.roleOf k ≠ 5 then rxDrop k s
  else
    let q : NetRequest := ⟨(s.serves st).getD 0, st, first, count, src, port⟩
    match s.serves st with
    | none => refuseRequest k none q 5 s
    | some f =>
      if s.rd NP_CTRL_SERVE_OPEN = 0 ∧ src ≠ (s.flowDest f).1 then refuseRequest k (some f) q 4 s
      else if (s.path k).requests.length ≥ 16 then refuseRequest k (some f) q 3 s
      else s.updPath k fun x => { x with requests := x.requests ++ [q] }

/-- Whether a source matches a neighbour entry with ALLOW (R448, R449). -/
def allowed (s : State) (src : NetAddr) : Bool :=
  (List.range 64).any fun i => s.rd (NB_CTRL_VALID i) == 1 && s.rd (NB_CTRL_ALLOW i) == 1 && s.nbAddr i == src

/-- A freeze datagram (R448). -/
def networkFreeze (k : Nat) (src : NetAddr) (groups : Nat) (useT : Bool) (t : Time) (s : State) : State :=
  if s.roleOf k ≠ 5 then rxDrop k s
  else if s.rd NP_CTRL_FREEZE_EN = 1 ∧ s.allowed src then
    let t := if useT then t else s.now
    (List.range 16).foldl (fun (s : State) g => if groups.testBit g then freezeAt g t 7 s else s) (npEv k 11 groups s)
  else netRefused s

/-- NF_CTRL of a flow is written (R459): mid-frame it waits for the next boundary; RESTART sends a marker. -/
def flowCtrlWrite (fn f : Nat) (w : Word) (s : State) : State :=
  let x := s.flow f
  let was := s.flowCtrl f
  let s := putWord fn (NF_CTRL f) w s
  let s := s.updFlow f fun y => { y with inForce := if x.mid || x.cur.isSome then some was else none }
  let s := if s.flowOn f ∧ s.flowMode f = 1 then s else s.updFlow f fun y => { y with ready := [] }
  if bitsOf w 30 30 = 1 then
    let s := s.updFlow f fun y => { y with mid := false, cur := y.cur.map fun c => { c with off := 0 } }
    match s.activePath with
    | some k => if s.flowOn f ∧ s.flowMode f ≠ 0 then marker k f (s.rd NP_EPOCH_EPOCH) (s.flowSeq f) 3 s else s
    | none => s
  else s

/-- A neighbour entry is written (R441): a static entry is valid. -/
def nbCtrlWrite (fn i : Nat) (w : Word) (s : State) : State :=
  let was := s.rd (NB_CTRL_STATIC i)
  let s := putWord fn (NB_CTRL i) w s
  if s.rd (NB_CTRL_STATIC i) = 1 then s.wr (NB_CTRL_VALID i) 1
  else if was = 1 then s.wr (NB_CTRL_VALID i) 0 else s

/-! Precision time on the wire (R356). -/

/-- The path that PTP messages travel on, and the transport of the instance. -/
def ptpSend (kind d : Nat) (body : List Byte) (s : State) : State :=
  match s.activePath with
  | none => s
  | some k => netSend k (.netFrame k 3 (leBytes 1 kind ++ leBytes 1 (s.rd (TD_PTP_CFG_DOMAIN d)) ++ body)) s

/-- The time a message of an instance carries: the instance's own counter (R359). -/
def counterTime (s : State) (d : Nat) : Time := (s.tb.counter d).val / 65536

/-- A message at its interval (R356): 0 Sync and 2 Announce as master, 1 Delay_Req as slave. -/
def ptpTransmit (d kind : Nat) (s : State) : State :=
  let st := s.rd (TD_STATUS_STATE d)
  let due := s.rd (TD_PTP_CFG_ROLE d) ≠ 0 ∧ (if kind = 1 then (s.servo d).master.isSome else st = 5)
  if ¬ due ∨ s.activePath.isNone then s
  else
    let l := tget (fun _ => [0, 0, 0]) s.net.ptpSeq d
    let seq := l.getD kind 0
    let body := leBytes 2 seq ++ timeBytes (s.counterTime d)
      ++ if kind = 2 then (s.ownDataset d).flatMap (leBytes 8) else []
    let s := s.updNet fun n => { n with ptpSeq := tset (fun _ => [0, 0, 0]) n.ptpSeq d (l.set kind ((seq + 1) % 65536)) }
    ptpSend kind d body s

/-- A management message (R356): a GET of the default, current, parent or time-properties data set is answered; a SET
is refused. -/
def ptpManage (d id : Nat) (set : Bool) (s : State) : State :=
  if s.rd (TD_PTP_CFG_ROLE d) = 0 ∨ s.activePath.isNone then s
  else if set ∨ id > 3 then ptpSend 14 d (leBytes 1 id ++ [0xFF#8]) s
  else
    let data : List Nat :=
      if id = 0 then s.ownDataset d ++ [s.rd (TD_PTP_CFG_DOMAIN d), s.rd (TD_PTP_CFG_ROLE d)]
      else if id = 1 then [s.rd (TD_OFFSET_PICOSECONDS d), s.rd (TD_PATH_DELAY_PICOSECONDS d)]
      else if id = 2 then (s.servo d).master.getD (s.ownDataset d)
      else [s.rd TB_STATUS_REF_LOCK, s.rd TB_STATUS_PPS_LOCK]
    ptpSend 13 d (leBytes 1 id ++ data.flatMap (leBytes 8)) s

end State

/-- ARP_REQUEST (R440): the active path answers for its addresses. -/
def execArpRequest (k : Nat) (v6 : Bool) (addr : List Nat) (s : State) : Host.Outcome State Fault Refusal :=
  .next (let s := s.received k
    if s.roleOf k = 5 ∧ s.ownAddrs.contains ⟨v6, addr⟩ then
      s.netSend k (.netFrame k 0 (addr.flatMap (leBytes 4) ++ leBytes 6 s.macOf))
    else s)

/-- ICMP_ECHO_REQUEST (R439). -/
def execIcmpEchoRequest (k : Nat) (v6 : Bool) (addr : List Nat) (data : List Byte) (s : State) :
    Host.Outcome State Fault Refusal :=
  .next (let s := s.received k
    if s.roleOf k = 5 ∧ s.ownAddrs.contains ⟨v6, addr⟩ then s.netSend k (.netFrame k 1 data) else s)

/-- PAUSE_FRAME (R439): so many quanta of 512 bit times at 100 Gbit/s. -/
def execPauseFrame (k quanta : Nat) (s : State) : Host.Outcome State Fault Refusal :=
  .next (let s := (s.received k).tally (NPP_PAUSE_TALLY_COUNT k)
    s.updPath k fun x => { x with paused := s.now + 33554432 * quanta / 100 })

/-- NEIGHBOR_REPLY (R441). -/
def execNeighborReply (k : Nat) (v6 : Bool) (addr : List Nat) (mac : Nat) (s : State) : Host.Outcome State Fault Refusal :=
  .next (let s := s.received k
    if s.roleOf k = 5 then s.nbReply ⟨v6, addr⟩ mac else s)

/-- NEIGHBOR_RESOLVE_TIMEOUT (R441): the datagram that flow `f` has ready is discarded. -/
def execNeighborResolveTimeout (f : Nat) (s : State) : Host.Outcome State Fault Refusal :=
  .next (match s.activePath with
    | none => s
    | some k => match s.flowTarget k f with
      | none => s
      | some d =>
        let a := s.nextHop d.1
        if ¬ s.net.resolving.contains a then s
        else
          let first := ¬ s.net.reported.contains a
          let s := s.updNet fun n => { n with resolving := n.resolving.filter (· != a) }
          let s := s.flowNext f ⟨k, d.1, d.2, none⟩
          if first then State.npEv k 12 s.nbIndex (s.updNet fun n => { n with reported := n.reported ++ [a] }) else s)

/-- NEIGHBOR_AGE_OUT (R441). -/
def execNeighborAgeOut (i : Nat) (s : State) : Host.Outcome State Fault Refusal :=
  .next (if s.rd (NB_CTRL_VALID i) = 1 ∧ s.rd (NB_CTRL_STATIC i) = 0 then s.wr (NB_CTRL_VALID i) 0 else s)

/-- FLOW_DATAGRAM_SEND (R444). -/
def execFlowDatagramSend (f : Nat) (s : State) : Host.Outcome State Fault Refusal :=
  .next (match s.activePath with
    | none => s
    | some k => match s.flowTarget k f with
      | none => s
      | some d =>
        if ¬ s.gateOpen k ∨ ¬ s.flowPaced f then s
        else
          let r := s.resolve k d.1
          match r.1 with
          | none => r.2
          | some m => (r.2.flowNext f ⟨k, d.1, d.2, some m⟩).handbackStep)

/-- FRAME_TRANSPORT_REQUEST (R447). -/
def execFrameTransportRequest (k stream first count : Nat) (v6 : Bool) (addr : List Nat) (port : Nat) (s : State) :
    Host.Outcome State Fault Refusal := .next ((s.received k).request k stream first count ⟨v6, addr⟩ port)

/-- NETWORK_FREEZE (R448). -/
def execNetworkFreeze (k : Nat) (v6 : Bool) (addr : List Nat) (groups : Nat) (useT : Bool) (time : Nat) (s : State) :
    Host.Outcome State Fault Refusal := .next ((s.received k).networkFreeze k ⟨v6, addr⟩ groups useT time)

/-- DATAGRAM_DISCARD (R450). -/
def execDatagramDiscard (k : Nat) (s : State) : Host.Outcome State Fault Refusal := .next ((s.received k).rxDrop k)

/-- FLOW_RESTART (R459): a write of NF_CTRL with its fields as they stand and RESTART at 1. -/
def execFlowRestart (f : Nat) (s : State) : Host.Outcome State Fault Refusal :=
  .next (s.flowCtrlWrite 0 f (s.rw (NF_CTRL f) ||| 0x40000000#32))

/-- CROOK_PULSE (R451). -/
def execCrookPulse (k : Nat) (back : Bool) (s : State) : Host.Outcome State Fault Refusal := .next (s.crookPulse k back)

/-- CROOK_SILENCE (R452). -/
def execCrookSilence (k : Nat) (s : State) : Host.Outcome State Fault Refusal := .next (s.crookSilence k)

/-- CROOK_PROBE_RETURN (R452). -/
def execCrookProbeReturn (k : Nat) (back : Bool) (s : State) : Host.Outcome State Fault Refusal :=
  .next (s.probeReturn k back)

/-- CROOK_LOOP_CHECK_FAIL (R451). -/
def execCrookLoopCheckFail (k : Nat) (s : State) : Host.Outcome State Fault Refusal := .next (s.loopCheckFail k)

/-- CROOK_CONTENTION (R452). -/
def execCrookContention (k : Nat) (s : State) : Host.Outcome State Fault Refusal := .next (s.contention k)

/-- PATH_HEALTH_LOSS (R452): lock is lost, or the transmitter reports a fault. -/
def execPathHealthLoss (k : Nat) (txFault : Bool) (s : State) : Host.Outcome State Fault Refusal :=
  .next (if txFault then
      if (s.path k).txFault then s else (State.npEv k 14 0 (s.updPath k fun x => { x with txFault := true })).pathFollow k
    else s.pathLock k false)

/-- NETWORK_PATH_LINK_UP (R455). -/
def execNetworkPathLinkUp (k : Nat) (s : State) : Host.Outcome State Fault Refusal :=
  .next (if s.pathOn k ∧ (s.path k).ready then s.pathLock k true else s)

/-- EPOCH_SNAPSHOT (R453). -/
def execEpochSnapshot (s : State) : Host.Outcome State Fault Refusal := .next s.epochDue

/-- EPOCH_RECEIVED (R453): the copy reaches path `k`, its CRC intact or not. -/
def execEpochReceived (k : Nat) (ok : Bool) (s : State) : Host.Outcome State Fault Refusal :=
  .next (s.epochReceived k ok)

/-- MIRROR_STALE (R454). -/
def execMirrorStale (k : Nat) (s : State) : Host.Outcome State Fault Refusal := .next (s.mirrorStale k)

/-- REVERT_HOLDOFF_EXPIRE (R457). -/
def execRevertHoldoffExpire (s : State) : Host.Outcome State Fault Refusal :=
  .next (if s.rd NP_CTRL_REVERT = 1 ∧ s.healthyNow 0 then s.startHandback 1 else s)

/-- CROOK_RELEASE (R457): NP_CTRL.RELEASE. -/
def execCrookRelease (s : State) : Host.Outcome State Fault Refusal :=
  .next (match s.activePath with
    | some k => s.startHandback k
    | none => s)

/-- PTP_MESSAGE_TRANSMIT (R356). -/
def execPtpMessageTransmit (d kind : Nat) (s : State) : Host.Outcome State Fault Refusal := .next (s.ptpTransmit d kind)

/-- PTP_MANAGEMENT_GET (R356). -/
def execPtpManagementGet (d id : Nat) (set : Bool) (s : State) : Host.Outcome State Fault Refusal :=
  .next (s.ptpManage d id set)

end Sys2Proof.Machine
end

