-- ==== Sys2Proof/Machine/Drovers.lean ====
section
/-!
DEFINITION. The drovers (R293–R319): channels, the walk through a list, the moving of data with its funnel, errors,
starting and stopping, and the power-down and quiesce of R315. Channel `c` is channel c mod 256 of drover c ÷ 256.
-/
namespace Sys2Proof.Machine

/-- Bytes of the next access on the memory side, of `n` bytes from `a` (R307): a head to the next multiple of 64, a
body of whole 64s up to `body` bytes that crosses no 4 KiB boundary of the host, a tail. -/
def accessLen (host : Bool) (body a n : Nat) : Nat :=
  if a % 64 ≠ 0 then min n (64 - a % 64)
  else if n < 64 then n
  else
    let m := min (n / 64 * 64) body
    if host then min m (4096 - a % 4096) else m

/-- The shift of the funnel (R307). -/
def funnelShift (dst src : Nat) : Nat := (dst % 64 + 64 - src % 64) % 64

/-- The space of an entry's memory side (R297). -/
def ListEntry.space (e : ListEntry) : Nat := e.ctl / 16 % 4
def ListEntry.eop (e : ListEntry) : Bool := e.ctl.testBit 3

namespace State

def chan (s : State) (c : Nat) : Chan := tget (fun _ => {}) s.chans c
def setChan (s : State) (c : Nat) (x : Chan) : State := { s with chans := tset (fun _ => {}) s.chans c x }
def updChan (s : State) (c : Nat) (g : Chan → Chan) : State := s.setChan c (g (s.chan c))
def drover (s : State) (d : Nat) : Drover := tget (fun _ => {}) s.drovers d
def setDrover (s : State) (d : Nat) (x : Drover) : State := { s with drovers := tset (fun _ => {}) s.drovers d x }
def updDrover (s : State) (d : Nat) (g : Drover → Drover) : State := s.setDrover d (g (s.drover d))

def chSt (c : Nat) (f : Nat → Nat → FRef) : FRef := f (c / 256) (c % 256)

def chState (s : State) (c : Nat) : Nat := s.rd (CH_STATUS_STATE (c / 256) (c % 256))
def setChState (c v : Nat) (s : State) : State := s.wr (CH_STATUS_STATE (c / 256) (c % 256)) v
def chKind (s : State) (c : Nat) : Nat := s.rd (CH_CFG_KIND (c / 256) (c % 256))
def chPen (s : State) (c : Nat) : Nat := s.rd (CH_PEN_PEN (c / 256) (c % 256))

/-- A channel is Ready, Running or Held. -/
def chBusy (s : State) (c : Nat) : Bool := let v := s.chState c; v == 1 || v == 2 || v == 3

/-- An event of a drover (R318): the notice bit, the sticky bit and the source, for the channel's owner alone. -/
def chEvent (c i : Nat) (sticky : FRef) (s : State) : State :=
  let d := c / 256
  let k := c % 256
  let s := (s.wr sticky 1).wr ⟨DV_NOTICE d (k / 32), k % 32, k % 32⟩ 1
  s.raiseFor (s.chOwner c) (520 + 4 * d + i) 0

/-- Time spent Held counts in whole microseconds (R306). -/
def heldSettle (d : Nat) (s : State) : State :=
  let x := s.drover d
  match x.heldSince with
  | none => s
  | some t =>
    let u := x.heldRest + (s.now - t)
    (s.setDrover d { x with heldSince := some s.now, heldRest := u % Time.ofUs 1 }).tally (DV_HELD_TALLY_COUNT d)
      (u / Time.ofUs 1)

/-- Bytes are moved: the counts of the channel and of its drover. -/
def countMoved (c n : Nat) (s : State) : State :=
  let d := c / 256
  let a := CH_BYTES d (c % 256)
  (s.wrWide a 2 ((s.rdWide a 2 + n) % 2 ^ 64)).wrWide (DV_BYTES d) 2 ((s.rdWide (DV_BYTES d) 2 + n) % 2 ^ 64)

/-! Scheduling (R304, R305). -/

/-- The Ready channel a drover takes next, after the one it served last. -/
def nextReady (s : State) (d : Nat) : Option Nat :=
  let last := (s.drover d).last
  ((List.range 256).map fun j => 256 * d + (last + 1 + j) % 256).find? fun c => s.chState c == 1

/-- An idle drover takes its next Ready channel. -/
def select (d : Nat) (s : State) : State :=
  if (s.drover d).serving.isSome then s
  else match s.nextReady d with
    | none => (heldSettle d s).wr (DV_STATUS_BUSY d) 0
    | some c =>
      let s := (heldSettle d s).updDrover d fun x => { x with serving := some c, last := c % 256, heldSince := none }
      setChState c 2 ((s.wr (DV_STATUS_BUSY d) 1).wr (DV_STATUS_CHANNEL d) (c % 256))

/-- A channel has ended: its drover takes the next. -/
def release (c : Nat) (s : State) : State :=
  let d := c / 256
  if (s.drover d).serving = some c then
    let s := heldSettle d s
    select d (s.updDrover d fun x => { x with serving := none, heldSince := none })
  else s

/-- Reads of a channel that are still awaited are no longer wanted (R313). -/
def dropReads (c : Nat) (s : State) : State :=
  s.updDrover (c / 256) fun x => { x with reads := x.reads.map fun r =>
    if r.ch = c % 256 ∧ r.state = 0 then { r with state := 2 } else r }

/-- A channel enters Stopped with its cause; an entry's relay datagram ends with it. -/
def enterStopped (c cause : Nat) (s : State) : State :=
  let d := c / 256
  let k := c % 256
  let s := setChState c 6 (s.wr (CH_STATUS_STOP_CAUSE d k) cause)
  release c (chEvent c 2 (CH_STATUS_STOPPED d k) (s.updChan c fun x => { x with entry := none, drain := false }))

/-- A channel stops at once (R313): no further request, nothing written back; its counts are undefined until it is
reset. -/
def stopNow (c cause : Nat) (s : State) : State :=
  let d := c / 256
  let k := c % 256
  let a := s.draw
  let b := a.2.draw
  let e := b.2.draw
  let relay := match (s.chan c).entry with
    | some e => if e.space = 2 ∧ e.moved > 0 then some e.addr else none
    | none => none
  let s := ((e.2.ww (CH_ENTRIES d k) (Config.stoppedCount a.1)).ww (CH_BYTES d k) (Config.stoppedCount b.1)).ww
    (CH_BYTES d k + 4) (Config.stoppedCount e.1)
  let s := match relay with
    | some f => relayEnd f s
    | none => s
  enterStopped c cause (dropReads c (s.updChan c fun x => { x with carry := [], woff := 0, inPkt := false }))

/-- CH_CTRL.RESET (R314). -/
def chReset (c : Nat) (s : State) : State :=
  let d := c / 256
  let k := c % 256
  let s := if s.chBusy c then stopNow c 1 s else s
  let s := s.setChan c {}
  let s := ((s.wrWide (CH_BYTES d k) 2 0).wrWide (CH_CUR d k) 2 0).wr (CH_ENTRIES_VALUE d k) 0
  let s := ((s.wr (CH_STATUS_REFUSED d k) 0).wr (CH_STATUS_END_SEEN d k) 0).wr (CH_STATUS_STOPPED d k) 0
  setChState c 0 ((s.wr (CH_STATUS_ERR d k) 0).wr (CH_STATUS_IRQ_DONE d k) 0)

/-- Whether the pen that a channel names is there for it (R295). -/
def penForChannel (s : State) (c : Nat) : Bool :=
  s.chKind c ≥ 2 || (s.owner (s.chPen c) == s.chOwner c && s.rd (PN_CFG_ENABLE (s.chPen c)) == 1)

/-- CH_CTRL.START (R312). -/
def chStart (c : Nat) (s : State) : State :=
  let d := c / 256
  let k := c % 256
  let st := s.chState c
  let fresh := st = 0 ∨ st = 4 ∨ st = 5
  let resume := st = 6 ∧ s.rd (CH_STATUS_STOP_CAUSE d k) = 2
  if s.rd (CH_CTRL_ENABLE d k) = 0 ∨ s.chKind c = 3 ∨ ¬ s.penForChannel c ∨ ¬ (fresh ∨ resume) then
    s.wr (CH_STATUS_REFUSED d k) 1
  else
    let list := s.rdWide (CH_LIST_ADDR d k) 2
    let pd := s.rd (CH_CFG_LIST_SPACE d k) == 1
    let s := if fresh then s.updChan c fun x => { x with next := list, nextPd := pd, hops := 0 } else s
    select d (setChState c 1 (s.wr (CH_STATUS_STOP_CAUSE d k) 0))

/-- A write of CH_CTRL (R312–R314, R317): ENABLE clear, RESET, START. -/
def chCtrl (fn c : Nat) (w : Word) (s : State) : State :=
  let s := putWord fn (CH_CTRL (c / 256) (c % 256)) w s
  let s := if bitsOf w 0 0 = 0 ∧ s.chBusy c then stopNow c 1 s else s
  let s := if bitsOf w 30 30 = 1 then chReset c s else s
  if bitsOf w 31 31 = 1 then chStart c s else s

/-- A write of CH_CFG, CH_PEN, CH_LIST_ADDR, CH_SRC_ADDR or CH_SRC_WRAP (R319). -/
def chConfig (fn c key : Nat) (w : Word) (s : State) : State :=
  if s.chBusy c then s.wr (CH_STATUS_REFUSED (c / 256) (c % 256)) 1 else putWord fn key w s

/-! The throttle (R306). -/

def chThrottled (s : State) (c : Nat) : Bool :=
  let d := c / 256
  let k := c % 256
  let i := s.rd (CH_THROTTLE_INDEX d k)
  s.rd (CH_THROTTLE_ENABLE d k) == 1
    && ((s.rd (CH_THROTTLE_KIND d k) == 1 && i < 8 && s.rd ⟨HU_IN, i, i⟩ == 1)
      || (s.rd (CH_THROTTLE_KIND d k) == 2 && s.rd (PN_STATUS_HURDLE i) == 1))

/-- Write credit of the host link is at hand (R293, R316). -/
def hasCredit (s : State) (d : Nat) : Bool := (s.drover d).posted < Config.postedLimit + 1

def setEntry (c : Nat) (e : ListEntry) (s : State) : State := s.updChan c fun x => { x with entry := some e }

/-! Write-back and the walk (R298, R299, R308, R311). -/

/-- A channel aborts (R298, R311). -/
def chAbort (c : Nat) (s : State) : State :=
  let s := s.updChan c fun x => { x with entry := none, drain := false }
  release c (chEvent c 2 (CH_STATUS_STOPPED (c / 256) (c % 256)) (setChState c 5 (dropReads c s)))

/-- A list entry cannot be fetched (R311). -/
def fetchFail (c code : Nat) (s : State) : State :=
  chAbort c (s.wr (CH_STATUS_LAST_STATUS (c / 256) (c % 256)) code)

/-- The write-back of an entry (R299): LENGTH becomes the bytes moved, CONTROL gains DONE, BAD and STATUS. -/
def writeBack (c : Nat) (e : ListEntry) (status : Nat) (s : State) : State :=
  let d := c / 256
  let k := c % 256
  let bad := 2 ≤ status ∧ status ≤ 8
  let ctl := 2 ^ 31 + (if bad then 2 ^ 30 else 0) + status * 2 ^ 26 + e.ctl
  let a := s.rdWide (CH_CUR d k) 2 + 8
  let data := leBytes 4 e.moved ++ leBytes 4 ctl
  let s := if (s.chan c).curPd then s.setBytes a data
    else (s.emit (.hostWrite (s.chOwner c) a data)).updDrover d fun x => { x with posted := x.posted + 1 }
  let s := if e.space = 2 ∧ !e.ctl.testBit 0 ∧ s.chKind c ≠ 1 ∧ e.moved > 0 then relayEnd e.addr s else s
  let s := s.wr (CH_ENTRIES_VALUE d k) ((s.rd (CH_ENTRIES_VALUE d k) + 1) % 2 ^ 32)
  let s := s.wr (CH_STATUS_LAST_STATUS d k) status
  let s := if bad then chEvent c 1 (CH_STATUS_ERR d k) (s.tally (CH_BAD_TALLY_COUNT d k)) else s
  let s := if e.ctl.testBit 2 then chEvent c 0 (CH_STATUS_IRQ_DONE d k) s else s
  dropReads c (s.updChan c fun x => { x with entry := none })

/-- What follows a data entry's write-back: Done at END, Stopped where R315 asked for it, else the next entry. -/
def afterEntry (c : Nat) (e : ListEntry) (s : State) : State :=
  let d := c / 256
  let k := c % 256
  if e.ctl.testBit 1 then
    let s := s.updChan c fun x => { x with drain := false }
    release c (chEvent c 3 (CH_STATUS_END_SEEN d k) (setChState c 4 s))
  else if (s.chan c).drain then enterStopped c 2 s
  else s

def finishEntry (c : Nat) (e : ListEntry) (status : Nat) (s : State) : State :=
  afterEntry c e (writeBack c e status s)

/-- A LINK entry is dealt with (R298): followed, or aborted at the hop limit or when malformed. -/
def takeLink (c : Nat) (e : ListEntry) (bad : Bool) (s : State) : State :=
  let x := s.chan c
  if bad ∨ e.space > 1 ∨ e.addr % 16 ≠ 0 ∨ e.ctl.testBit 1 then chAbort c (writeBack c e 5 s)
  else if x.hops + 1 > s.rd (CH_CFG_HOP_LIMIT (c / 256) (c % 256)) then chAbort c (writeBack c e 6 s)
  else
    let s := writeBack c e 0 (s.updChan c fun y => { y with hops := x.hops + 1, next := e.addr, nextPd := e.space == 1 })
    if (s.chan c).drain then enterStopped c 2 s else s

/-- Every byte of a span may be read, or written, by a function through BAR4 (R249, R303); a span above the paddock
may not. -/
def spanOk (s : State) (own a n : Nat) (write : Bool) : Bool :=
  a + n ≤ paddockEnd && (List.range n).all fun i => if write then s.bar4Writes own (a + i) else s.bar4Reads own (a + i)

/-- Whether an entry's memory side passes its check (R303). -/
def sideOk (s : State) (c : Nat) (e : ListEntry) : Bool :=
  if e.space = 0 then true
  else if e.space = 1 then s.spanOk (s.chOwner c) e.addr e.len (s.chKind c != 1)
  else s.relayTakes e.addr (s.chOwner c)

/-- A fetched entry is taken up (R296–R298, R303, R308). -/
def takeEntry (c : Nat) (raw : List Byte) (s : State) : State :=
  let word := leNat ((raw.drop 12).take 4)
  let e : ListEntry := { addr := leNat (raw.take 8), len := leNat ((raw.drop 8).take 4), ctl := word % 64 }
  let kind := s.chKind c
  let bad : Bool := word / 64 % 2 ^ 20 != 0 || e.space == 3 || (e.eop && kind != 1)
  if e.ctl.testBit 0 then takeLink c e bad s
  else
    let a := s.rdWide (CH_CUR (c / 256) (c % 256)) 2
    let s := s.updChan c fun x => { x with next := (a + 16) % 2 ^ 64, nextPd := x.curPd }
    if bad ∨ (e.space = 2 ∧ kind = 1) then finishEntry c e 5 s
    else if e.len = 0 then finishEntry c e 0 s
    else if ¬ s.sideOk c e then finishEntry c e 4 s
    else
      let p := s.chPen c
      let cut := tget (fun _ => 0) s.fab.cuts p ≠ 0
      let s := if kind = 0 then
          (s.inFab fun b => { b with cuts := tset (fun _ => 0) b.cuts p 0 }).updChan c fun x =>
            if cut then { x with woff := 0, inPkt := false } else x
        else s
      setEntry c e s

/-- A read request is issued (R293, R310). -/
def issueRead (c : Nat) (list : Bool) (off addr len : Nat) (s : State) : State :=
  let d := c / 256
  let x := s.drover d
  let r : ReadTag := { tag := x.nextTag, ch := c % 256, list := list, off := off, len := len }
  (s.emit (.hostRead (s.chOwner c) addr len)).setDrover d { x with reads := x.reads ++ [r], nextTag := x.nextTag + 1 }

/-- Whether the channel awaits a list entry. -/
def fetching (s : State) (c : Nat) : Bool :=
  (s.drover (c / 256)).reads.any fun r => r.ch == c % 256 && r.list && r.state == 0

/-- The served channel fetches its next entry (R298, R303, R311). -/
def fetchEntry (d : Nat) (s : State) : State :=
  match (s.drover d).serving with
  | none => s
  | some c =>
    let x := s.chan c
    if x.entry.isSome ∨ s.fetching c ∨ s.chThrottled c ∨ (s.drover d).reads.length ≥ 256 then s
    else
      let own := s.chOwner c
      let s := (s.wrWide (CH_CUR d (c % 256)) 2 x.next).updChan c fun y => { y with curPd := x.nextPd }
      if x.nextPd then
        if s.spanOk own x.next 16 false ∧ s.spanOk own x.next 16 true then takeEntry c (s.fab.bytes x.next 16) s
        else fetchFail c 4 s
      else issueRead c true 0 x.next 16 s

/-! Moving data (R300–R302, R307). -/

/-- Bytes go to an entry's destination. -/
def putData (c : Nat) (e : ListEntry) (l : List Byte) (s : State) : State :=
  let d := c / 256
  let a := e.addr + e.moved
  let s := if e.space = 0 then (s.emit (.hostWrite (s.chOwner c) a l)).updDrover d fun x => { x with posted := x.posted + 1 }
    else if e.space = 1 then s.setBytes a l
    else relayBytes e.addr l s
  countMoved c l.length s

/-- Whether the target of a write takes one now: credit for the host link (R293). -/
def targetReady (s : State) (c : Nat) (e : ListEntry) : Bool := e.space != 0 || s.hasCredit (c / 256)

/-- Bytes of the next destination access, of `n` bytes still to come. -/
def nextWrite (e : ListEntry) (n : Nat) : Nat :=
  accessLen (e.space == 0) (if e.space = 0 then 512 else 64) (if e.space = 2 then 64 else e.addr + e.moved) n

/-- The word at RD of a pen: its valid bytes, and whether it is an END word (R272). -/
def headWord (s : State) (p : Nat) : List Byte × Bool :=
  let rd := s.rd (PN_RD_VALUE p)
  let side := (s.fab.byte (penSideAddr s.fab p rd)).toNat
  let n := side % 128
  (s.fab.bytes (penSlotAddr s.fab p rd) (if n = 0 ∨ n > 64 then 64 else n), side ≥ 128)

/-- A drover pops the word at RD (R274, R283). -/
def popHead (p : Nat) (s : State) : State := penEval p (s.inFab (penTake p 1))

/-- One step of a KIND 0 channel (R300): an access is issued once its bytes are in the funnel, or no more are to come;
else the funnel takes bytes of the word at RD. None: nothing to be done now. -/
def popStep (c : Nat) (e : ListEntry) (s : State) : Option (ListEntry × State) :=
  let x := s.chan c
  let p := s.chPen c
  let full := e.asked = e.len
  let closed := e.status.isSome ∨ full
  let want := nextWrite e (if closed then e.data.length else e.len - e.moved)
  if e.data.length ≥ want ∧ want > 0 ∧ e.data.length > 0 then
    if s.targetReady c e then
      some ({ e with data := e.data.drop want, moved := e.moved + want }, putData c e (e.data.take want) s)
    else none
  else if closed then none
  else if s.rd (PN_CFG_ENABLE p) = 0 ∨ s.rd (PN_LEVEL_VALUE p) = 0 then none
  else
    let w := s.headWord p
    let take := (w.1.drop x.woff).take (e.len - e.asked)
    let e := { e with data := e.data ++ take, asked := e.asked + take.length }
    let off := x.woff + take.length
    if off ≥ w.1.length then
      let s := popHead p (s.updChan c fun y => { y with woff := 0, inPkt := !w.2 })
      let ends := w.2 && s.rd (CH_CFG_PACKET (c / 256) (c % 256)) == 1
      some (if ends then { e with status := some 0 } else e, s)
    else some (e, s.updChan c fun y => { y with woff := off, inPkt := true })

/-- The source address `n` bytes on, with the wrap of R302. -/
def srcAfter (s : State) (c a n : Nat) : Nat :=
  let pages := s.rd (CH_SRC_WRAP_PAGES (c / 256) (c % 256))
  let lo := s.rd (CH_SRC_WRAP_FIRST_PAGE (c / 256) (c % 256)) * pageBytes
  let len := pages * pageBytes
  if len > 0 ∧ lo ≤ a ∧ a < lo + len then lo + (a - lo + n) % len else a + n

/-- One step of a KIND 2 channel (R302): one access of the destination, its bytes read from the source. -/
def copyStep (c : Nat) (e : ListEntry) (s : State) : Option (ListEntry × State) :=
  if e.status.isSome ∨ e.moved = e.len ∨ ¬ s.targetReady c e then none
  else
    let key := CH_SRC_ADDR (c / 256) (c % 256)
    let src := s.rdWide key 2
    let n := nextWrite e (e.len - e.moved)
    let at_ := (List.range n).map (s.srcAfter c src)
    if at_.all fun a => s.bar4Reads (s.chOwner c) a then
      let s := putData c e (at_.map s.fab.byte) s
      some ({ e with moved := e.moved + n, asked := e.asked + n }, s.wrWide key 2 (s.srcAfter c src n % 2 ^ 64))
    else some ({ e with status := some 4 }, s)

/-- Whether a pen takes or discards a word, and so does not hold a KIND 1 channel (R280, R301). -/
def penTakes (s : State) (p : Nat) : Bool := s.rd (PN_CFG_ENABLE p) == 0 || penHasRoom s.fab p 1

/-- A KIND 1 channel pushes a word, of which `rest` stays; a full backpressure pen holds it, and counts the word's first
refusal (R280). -/
def pushWord (c : Nat) (e : ListEntry) (word rest : List Byte) (last : Bool) (s : State) : Option (ListEntry × State) :=
  let p := s.chPen c
  if s.penTakes p then some (e, (s.penPush p word last).updChan c fun y => { y with carry := rest, refused := false })
  else if (s.chan c).refused then none
  else some (e, (s.penPush p word last).updChan c fun y => { y with refused := true })

/-- The part of a KIND 1 entry's data that comes next, once it is here. -/
def nextGot (e : ListEntry) : Option (List Byte) := (e.got.find? fun g => g.1 == e.moved).map (·.2)

/-- One step of a KIND 1 channel (R301): a full word is pushed once another byte follows it; read data is taken in
order; the last word of an entry goes out with it; the next read is issued. -/
def pushStep (c : Nat) (e : ListEntry) (s : State) : Option (ListEntry × State) :=
  let x := s.chan c
  let d := c / 256
  let closed := e.status.isSome ∨ e.moved = e.len
  if x.carry.length > 64 then pushWord c e (x.carry.take 64) (x.carry.drop 64) false s
  else match nextGot e with
    | some l =>
      if e.status.isSome then some ({ e with got := [] }, s)
      else
        let s := countMoved c l.length (s.updChan c fun y => { y with carry := y.carry ++ l })
        some ({ e with moved := e.moved + l.length, got := e.got.filter fun g => g.1 != e.moved }, s)
    | none =>
      if closed ∧ x.carry.length > 0 ∧ (e.eop ∨ x.carry.length = 64) then
        pushWord c e x.carry [] e.eop s
      else if closed ∨ e.asked = e.len ∨ s.chThrottled c then none
      else
        let n := accessLen (e.space == 0) (if e.space = 0 then 4096 else 64) (e.addr + e.asked) (e.len - e.asked)
        if e.space = 1 then
          some ({ e with asked := e.asked + n, got := e.got ++ [(e.asked, s.fab.bytes (e.addr + e.asked) n)] }, s)
        else if (s.drover d).reads.length ≥ 256 then none
        else some ({ e with asked := e.asked + n }, issueRead c false e.asked (e.addr + e.asked) n s)

/-- One step of the served channel, where it may issue. -/
def moveStep (c : Nat) (e : ListEntry) (s : State) : Option (ListEntry × State) :=
  let kind := s.chKind c
  if kind = 1 then pushStep c e s
  else if s.chThrottled c then none
  else if kind = 0 then popStep c e s
  else copyStep c e s

/-- At most `n` steps of the entry in progress. -/
def moveLoop (c : Nat) : Nat → State → State
  | 0, s => s
  | n + 1, s =>
    match (s.chan c).entry with
    | none => s
    | some e =>
      match moveStep c e s with
      | none => s
      | some r => moveLoop c n (setEntry c r.1 r.2)

/-- Steps that suffice for all that an entry can do now. -/
def moveFuel (s : State) (c : Nat) (e : ListEntry) : Nat :=
  let words := if s.chKind c = 0 then 2 * s.rd (PN_LEVEL_VALUE (s.chPen c)) else e.len / 16
  words + (s.chan c).carry.length + e.data.length / 32 + 600

/-- A packet cut under a KIND 0 channel ends its entry (R317). -/
def noteCut (c : Nat) (s : State) : State :=
  let p := s.chPen c
  let v := tget (fun _ => 0) s.fab.cuts p
  if s.chKind c ≠ 0 ∨ v = 0 then s
  else
    let x := s.chan c
    let s := s.inFab fun b => { b with cuts := tset (fun _ => 0) b.cuts p 0 }
    match x.entry with
    | some e =>
      let e := if x.inPkt ∧ e.status.isNone ∧ e.asked < e.len then { e with status := some v } else e
      s.setChan c { x with woff := 0, inPkt := false, entry := some e }
    | none => s.setChan c { x with woff := 0, inPkt := false }

/-- Everything the channel served by a drover can move now is moved; Running or Held follows (R293). -/
def moves (d : Nat) (s : State) : State :=
  match (s.drover d).serving with
  | none => s
  | some c =>
    let s := noteCut c s
    match (s.chan c).entry with
    | none => s
    | some e => moveLoop c (s.moveFuel c e) s

/-- Whether an entry's transfer has ended: nothing more is to come, and nothing waits. -/
def entryDone (s : State) (c : Nat) (e : ListEntry) : Bool :=
  let k := s.chKind c
  if k = 0 then (e.status.isSome || e.asked == e.len) && e.data.isEmpty
  else if k = 2 then e.status.isSome || e.moved == e.len
  else (e.status.isSome || e.moved == e.len) && e.got.isEmpty
    && ((s.chan c).carry.isEmpty || (!e.eop && (s.chan c).carry.length < 64))

/-- The status of an entry whose transfer has ended (R300, R308). -/
def entryStatus (s : State) (c : Nat) (e : ListEntry) : Nat :=
  e.status.getD (if s.chKind c = 0 ∧ s.rd (CH_CFG_PACKET (c / 256) (c % 256)) = 1 ∧ (s.chan c).inPkt then 1 else 0)

/-- Running, or Held while no new request can be issued (R293). -/
def showState (d : Nat) (s : State) : State :=
  let s := s.wr (DV_STATUS_READS d) ((s.drover d).reads.filter (·.state == 0)).length
  match (s.drover d).serving with
  | none => s
  | some c =>
    let held := match (s.chan c).entry with
      | none => s.fetching c || s.chThrottled c
      | some e => !s.entryDone c e
    let s := setChState c (if held then 3 else 2) s
    if held then if (s.drover d).heldSince.isSome then heldSettle d s
        else s.updDrover d fun x => { x with heldSince := some s.now }
    else (heldSettle d s).updDrover d fun x => { x with heldSince := none }

/-- The drover does all it can. -/
def pump (d : Nat) (s : State) : State := showState d (moves d s)

/-- The entry in progress is written back where its transfer has ended (R299). -/
def completeEntry (d : Nat) (s : State) : State :=
  let s := moves d s
  match (s.drover d).serving with
  | none => showState d s
  | some c =>
    match (s.chan c).entry with
    | none => showState d s
    | some e => showState d (if s.entryDone c e then finishEntry c e (s.entryStatus c e) s else s)

/-- DROP, CLEAR or a push that overwrites, on a pen that KIND 0 channels pop: an entry in mid-packet ends at once
(R317). -/
def cutSettle (p : Nat) (s : State) : State :=
  if tget (fun _ => 0) s.fab.cuts p = 0 then s
  else (List.range 16).foldl (fun (s : State) d =>
    match (s.drover d).serving with
    | none => s
    | some c => if s.chKind c = 0 ∧ s.chPen c = p ∧ (s.chan c).inPkt ∧ (s.chan c).entry.isSome then completeEntry d s else s) s

/-! Errors (R308–R311). -/

/-- An entry fails part way (R309): the bytes in the funnel are lost, later reads are not delivered. -/
def failEntry (c code : Nat) (s : State) : State :=
  match (s.chan c).entry with
  | none => s
  | some e =>
    if e.status.isSome then s
    else
      let e := { e with status := some code, data := [], got := e.got.filter fun g => g.1 == e.moved }
      let e := match nextGot e with
        | some _ => e
        | none => { e with got := [] }
      dropReads c (setEntry c e s)

/-- A read completes (R309–R311); `err`: unsupported request, completer abort or poisoned data. -/
def readDone (d tag : Nat) (err : Bool) (data : List Byte) (s : State) : State :=
  match (s.drover d).reads.find? fun r => r.tag == tag with
  | none => s
  | some r =>
    if r.state = 0 ∧ ¬ err ∧ data.length ≠ r.len then s
    else
      let s := s.updDrover d fun x => { x with reads := x.reads.filter fun y => y.tag != tag }
      let c := 256 * d + r.ch
      if r.state = 1 then showState d (s.tally (DV_LATE_TALLY_COUNT d))
      else if r.state = 2 then showState d s
      else if r.list then showState d (if err then fetchFail c 2 s else takeEntry c data s)
      else match (s.chan c).entry with
        | none => showState d s
        | some e =>
          pump d (if err then failEntry c 2 s else setEntry c { e with got := e.got ++ [(r.off, data)] } s)

/-- The timeout of CTO_US passes (R310): a read, a list fetch, or a write that waits to be issued. -/
def timeOut (d : Nat) (write : Bool) (tag : Nat) (s : State) : State :=
  if write then
    match (s.drover d).serving with
    | none => s
    | some c =>
      match (s.chan c).entry with
      | none => s
      | some e => if e.data.isEmpty && s.chKind c == 0 || s.targetReady c e || s.chKind c == 1 then s
        else pump d (failEntry c 3 s)
  else match (s.drover d).reads.find? fun r => r.tag == tag && r.state == 0 with
    | none => s
    | some r =>
      let s := s.updDrover d fun x => { x with reads := x.reads.map fun y => if y.tag = tag then { y with state := 1 } else y }
      let c := 256 * d + r.ch
      showState d (if r.list then fetchFail c 3 s else moves d (failEntry c 3 s))

/-! Power-down, quiesce and resets (R315, R317). -/

/-- Whether a channel uses the domain of a network path: its current entry goes to the path that sends. -/
def usesPath (s : State) (k c : Nat) : Bool :=
  s.activePath == some k && match (s.chan c).entry with
    | some e => e.space == 2
    | none => false

/-- A power-down or quiesce meets a channel (R315). -/
def chDrain (c : Nat) (s : State) : State :=
  let st := s.chState c
  let x := s.chan c
  if st = 1 then enterStopped c 2 s
  else if st = 2 ∨ st = 3 then
    if x.entry.isNone ∧ !s.fetching c then enterStopped c 2 s else s.setChan c { x with drain := true }
  else s

/-- Whether a function may command a channel (R13, R319). -/
def mayChannel (s : State) (fn c : Nat) : Bool := fn == 0 || s.chOwner c == fn

end State

/-- PEN_HOST_PUSH (R277). -/
def execPenHostPush (fn p count : Nat) (s : State) : Host.Outcome State Fault Refusal :=
  .next (if fn = 0 ∨ s.owner p = fn then (s.penHostPush p count).cutSettle p else s)

/-- PEN_DROP (R279). -/
def execPenDrop (fn p : Nat) (s : State) : Host.Outcome State Fault Refusal :=
  .next (if fn = 0 ∨ s.owner p = fn then (s.penDrop p).cutSettle p else s)

/-- PEN_CLEAR (R279). -/
def execPenClear (fn p : Nat) (s : State) : Host.Outcome State Fault Refusal :=
  .next (if fn = 0 ∨ s.owner p = fn then (s.penClear p).cutSettle p else s)

/-- CHANNEL_START (R312): a write of CH_CTRL with START, and ENABLE as the write has it. -/
def execChannelStart (fn c : Nat) (enable : Bool) (s : State) : Host.Outcome State Fault Refusal :=
  .next (if s.mayChannel fn c then s.chCtrl fn c (if enable then 0x80000001#32 else 0x80000000#32) else s)

/-- CHANNEL_DISABLE (R313): a write of CH_CTRL with ENABLE 0. -/
def execChannelDisable (fn c : Nat) (s : State) : Host.Outcome State Fault Refusal :=
  .next (if s.mayChannel fn c then s.chCtrl fn c 0 else s)

/-- CHANNEL_RESET (R314): a write of CH_CTRL with RESET, ENABLE as the register holds it. -/
def execChannelReset (fn c : Nat) (s : State) : Host.Outcome State Fault Refusal :=
  .next (if s.mayChannel fn c then
      s.chCtrl fn c (if s.rd (CH_CTRL_ENABLE (c / 256) (c % 256)) = 1 then 0x40000001#32 else 0x40000000#32)
    else s)

/-- LIST_ENTRY_FETCH (R298): the channel that drover `d` serves fetches its next entry, or begins to move its data. -/
def execListEntryFetch (d : Nat) (s : State) : Host.Outcome State Fault Refusal := .next ((s.fetchEntry d).pump d)

/-- ENTRY_COMPLETE (R299). -/
def execEntryComplete (d : Nat) (s : State) : Host.Outcome State Fault Refusal := .next (s.completeEntry d)

/-- READ_COMPLETION (R310). -/
def execReadCompletion (d tag : Nat) (err : Bool) (data : List Byte) (s : State) : Host.Outcome State Fault Refusal :=
  .next (s.readDone d tag err data)

/-- COMPLETION_TIMEOUT (R310). -/
def execCompletionTimeout (d : Nat) (write : Bool) (tag : Nat) (s : State) : Host.Outcome State Fault Refusal :=
  .next (s.timeOut d write tag)

/-- POWERDOWN_FORCE_STOP (R315). -/
def execPowerdownForceStop (c : Nat) (s : State) : Host.Outcome State Fault Refusal :=
  .next (if (s.chan c).drain && s.chBusy c then s.stopNow c 3 else s)

/-- WRITE_CREDIT_RETURN (R293). -/
def execWriteCreditReturn (d n : Nat) (s : State) : Host.Outcome State Fault Refusal :=
  .next ((s.updDrover d fun x => { x with posted := x.posted - n }).pump d)

end Sys2Proof.Machine
end

