-- ==== Sys2Proof/Machine/Functions.lean ====
section
/-!
DEFINITION. The functions of the host interface: partition commits (R325, R326, R346), function-level reset of a capture
function (R330), and the scope it shares with the resets of the host link (R323, R331).
-/
namespace Sys2Proof.Machine

namespace State

/-! Partitions. -/

/-- The streams of a function, those on their way to or from it counted where they go (R326). -/
def dueStreams (s : State) (fn : Nat) : Nat :=
  ((List.range 97).map fun st =>
    let own := ((s.streamMoves.find? fun x => x.1 == st).map (·.2)).getD (s.streamOwner st)
    if own = fn then 2 ^ st else 0).sum

/-- The partition that the HI_PART registers of a function hold (R346). -/
def partWritten (s : State) (fn : Nat) : Part :=
  let n := fn - 1
  { fn := fn
    penFirst := s.rd (HI_PART_PEN_FIRST_PEN n)
    penCount := s.rd (HI_PART_PEN_COUNT_COUNT n)
    chFirst := s.rd (HI_PART_CHANNELS_FIRST n)
    chCount := s.rd (HI_PART_CHANNELS_COUNT n)
    pageFirst := s.rd (HI_PART_PAGE_FIRST_PAGE n)
    pageCount := s.rd (HI_PART_PAGE_COUNT_COUNT n)
    streams := s.rdWide (HI_PART_STREAMS n 0) 4 }

/-- The HI_PART registers of a function take a partition. -/
def partShow (set : FRef → Nat → State → State) (q : Part) (s : State) : State :=
  let n := q.fn - 1
  let s := set (HI_PART_PEN_FIRST_PEN n) q.penFirst (set (HI_PART_PEN_COUNT_COUNT n) q.penCount s)
  let s := set (HI_PART_CHANNELS_FIRST n) q.chFirst (set (HI_PART_CHANNELS_COUNT n) q.chCount s)
  let s := set (HI_PART_PAGE_FIRST_PAGE n) q.pageFirst (set (HI_PART_PAGE_COUNT_COUNT n) q.pageCount s)
  (List.range 4).foldl (fun (s : State) i =>
    set (HI_PART_STREAMS_STREAMS n i) (q.streams / 2 ^ (32 * i) % 2 ^ 32) s) s

/-- The active partition of a function, its streams as they will stand. -/
def partActive (s : State) (fn : Nat) : Part :=
  { (s.partOf fn).getD { fn := fn } with fn := fn, streams := s.dueStreams fn }

def runsOverlap (a n b m : Nat) : Bool := n > 0 && m > 0 && a < b + m && b < a + n

/-- Whether a partition keeps within R53. -/
def partInRange (q : Part) : Bool :=
  q.penFirst + q.penCount ≤ 65536 && q.chFirst + q.chCount ≤ 4096 && 4096 ≤ q.pageFirst
    && q.pageFirst + q.pageCount ≤ 49152 && q.streams < 2 ^ 97

/-- Whether a partition shares a resource with another capture function. -/
def partClash (s : State) (q : Part) : Bool :=
  s.part.any fun o => o.enable && o.fn != q.fn
    && (runsOverlap q.penFirst q.penCount o.penFirst o.penCount || runsOverlap q.chFirst q.chCount o.chFirst o.chCount
      || runsOverlap q.pageFirst q.pageCount o.pageFirst o.pageCount || (q.streams &&& s.dueStreams o.fn) != 0)

/-- Whether a stream's ring regions lie within its owner's pages, were the partition of `q` applied. -/
def regionsFit (s : State) (q : Part) (st : Nat) : Bool :=
  let own := if q.streams.testBit st then q.fn
    else if (s.dueStreams q.fn).testBit st then 0
    else ((s.streamMoves.find? fun x => x.1 == st).map (·.2)).getD (s.streamOwner st)
  let inside (r : Nat × Nat) : Bool := r.2 == 0 ||
    (if own = q.fn then q.pageFirst ≤ r.1 && r.1 + r.2 ≤ q.pageFirst + q.pageCount
     else if own = 0 then
      !(runsOverlap r.1 r.2 q.pageFirst q.pageCount
        || s.part.any fun o => o.enable && o.fn != q.fn && runsOverlap r.1 r.2 o.pageFirst o.pageCount)
     else true)
  inside (s.rd (PD_ST_REGION_A_FIRST_PAGES st), s.rd (PD_ST_REGION_A_PAGES_PAGES st))
    && inside (s.rd (PD_ST_REGION_B_FIRST_PAGES st), s.rd (PD_ST_REGION_B_PAGES_PAGES st))

/-- RESULT of a commit's validation (R325); 0: it may be applied. -/
def partCheck (s : State) (q : Part) : Nat :=
  if s.partClash q then 1
  else if ¬ partInRange q then 2
  else if (List.range 97).all (s.regionsFit q) then 0 else 3

def partResult (fn v : Nat) (s : State) : State := (s.wr HI_PART_CMD_RESULT v).raiseFor fn 841 0

/-- HI_PART_CMD.COMMIT (R325). -/
def partCommit (fn : Nat) (s : State) : State :=
  if s.rd HI_PART_CMD_BUSY = 1 ∨ s.struct.stage.active then partResult fn 4 s
  else
    let r := s.partCheck (s.partWritten fn)
    if r = 0 then { s with committing := some (s.partWritten fn) }.wr HI_PART_CMD_BUSY 1 else partResult fn r s

/-- HI_PART_CMD.REVERT (R346). -/
def partRevert (fn : Nat) (s : State) : State :=
  partShow (fun f v (s : State) => s.wr f v) (s.partActive fn) s

/-- A write of HI_PART_CMD. -/
def partCmd (w : Word) (s : State) : State :=
  let s := putWord 0 HI_PART_CMD w s
  let fn := s.rd HI_PART_CMD_FUNCTION
  let s := if bitsOf w 30 30 = 1 then partRevert fn s else s
  if bitsOf w 31 31 = 1 then partCommit fn s else s

/-- Drover channels whose registers are listed: only they can be other than Idle. -/
def listedChannels (s : State) : List Nat :=
  (s.fab.regs.filterMap fun e =>
    let a := e.1 - 0x800000
    let r := a % 0x10000
    if 0x800000 ≤ e.1 ∧ e.1 < 0x900000 ∧ 0x4000 ≤ r ∧ r < 0x8000 then some (256 * (a / 0x10000) + (r - 0x4000) / 64)
    else none).eraseDups

/-- Pens whose registers are listed, or that are being popped. -/
def listedPens (s : State) : List Nat :=
  (s.fab.regs.filterMap fun e =>
    if 0x1000000 ≤ e.1 ∧ e.1 < 0x1400000 then some ((e.1 - 0x1000000) / 64) else none).eraseDups

/-- Streams that change hands do so at their next start of frame (R326). -/
def queueMoves (q : Part) (s : State) : State :=
  (List.range 97).foldl (fun (s : State) st =>
    let due := ((s.streamMoves.find? fun x => x.1 == st).map (·.2)).getD (s.streamOwner st)
    let want := if q.streams.testBit st then q.fn else if due = q.fn then 0 else due
    let rest := s.streamMoves.filter fun x => x.1 != st
    { s with streamMoves := if want = s.streamOwner st then rest else rest ++ [(st, want)] }) s

/-- A validated partition is applied (R326): channels that move stop, pens keep what they hold, streams go at their
next start of frame, and views of sources no longer seen return to their reset values. -/
def partApply (q : Part) (s : State) : State :=
  let fn := q.fn
  let kept := ((s.partOf fn).map (·.streams)).getD 0
  let new : Part := { q with streams := kept }
  let chs := s.listedChannels
  let before := chs.map fun c => (c, s.chOwner c)
  let saw := (List.range 8).map fun i => (i + 1, s.seenBy (i + 1))
  let s := before.foldl (fun (s : State) e =>
    let own := if new.chFirst ≤ e.1 ∧ e.1 < new.chFirst + new.chCount then fn else if e.2 = fn then 0 else e.2
    if own ≠ e.2 ∧ s.chState e.1 ≠ 0 then stopNow e.1 1 s else s) s
  let s := queueMoves q s
  let s := { s with part := (s.part.filter fun o => o.fn != fn) ++ [new] }
  let s := saw.foldl (fun (s : State) x => dropUnseen x.1 x.2 s) s
  partResult fn 0 ({ s with committing := none }.wr HI_PART_CMD_BUSY 0)

/-! Function-level reset (R330). -/

/-- A function's channels stop with a cause and are reset (R317). -/
def resetChannels (cause : Nat) (mine : Nat → Bool) (s : State) : State :=
  (s.listedChannels.filter mine).foldl (fun (s : State) c =>
    chReset c (if s.chBusy c then stopNow c cause s else s)) s

/-- Camera control requests that a function has issued: their responses will be discarded. -/
def dropRequests (fn : Nat) (s : State) : State :=
  (List.range 24).foldl (fun (s : State) P =>
    if (s.port P).requests.any fun r => r.kind == 0 && r.who == fn then
      s.updPort P fun x => { x with requests := x.requests.map fun r =>
        if r.kind = 0 ∧ r.who = fn then { r with dropped := true } else r }
    else s) s

/-- The scope of R330 on one function. -/
def functionScope (fn : Nat) (s : State) : State :=
  let msix := MSIX_ADDR_LO fn 0
  let s := viewReset fn (fun _ => true) s
  let s := resetRegs (fun k => msix ≤ k && k < msix + 0x1020) s
  let s := s.wr (EV_SEQ_VALUE fn) 0
  let s := { s with snaps := s.snaps.filter fun e => e.1 / 0x4000000 != fn }
  let s := resetChannels 4 (fun c => s.chOwner c == fn) s
  let s := (s.listedPens.filter fun p => s.owner p == fn).foldl (fun (s : State) p => penReset p s) s
  dropRequests fn s

/-- The scope of a reset waits for the end of an activation, a rollback or a warm reset (R65, R500). -/
def scopeWaits (s : State) : Bool :=
  s.struct.stage.active || s.struct.rollbackDue.isSome || s.rd GLB_RESET_BUSY == 1

/-- A function-level reset of a capture function (R330); during an activation or a warm reset its scope waits (R65,
R500). -/
def functionReset (fn : Nat) (s : State) : State :=
  let s := { s with flrOpen := if s.flrOpen.contains fn then s.flrOpen else s.flrOpen ++ [fn] }
  if s.scopeWaits then
    { s with flrDue := if s.flrDue.contains fn then s.flrDue else s.flrDue ++ [fn] }
  else functionScope fn s

/-- Scopes that waited are applied. -/
def flrDueNow (s : State) : State :=
  let l := s.flrDue
  l.foldl (fun (s : State) fn => functionScope fn s) { s with flrDue := [] }

end State

/-- PARTITION_COMMIT (R325): HI_PART_CMD with FUNCTION and COMMIT. -/
def execPartitionCommit (fn : Nat) (s : State) : Host.Outcome State Fault Refusal :=
  .next (s.partCmd (BitVec.ofNat 32 (2 ^ 31 + 256 * fn)))

/-- PARTITION_APPLY (R326): the commit that has passed its validation. -/
def execPartitionApply (s : State) : Host.Outcome State Fault Refusal :=
  .next (match s.committing with
    | some q => s.partApply q
    | none => s)

/-- PARTITION_REVERT (R346). -/
def execPartitionRevert (fn : Nat) (s : State) : Host.Outcome State Fault Refusal :=
  .next (s.partCmd (BitVec.ofNat 32 (2 ^ 30 + 256 * fn)))

/-- FUNCTION_LEVEL_RESET (R330) of CF `fn`. -/
def execFunctionLevelReset (fn : Nat) (s : State) : Host.Outcome State Fault Refusal :=
  .next (if fn = 0 then s else s.functionReset fn)

/-- FLR_COMPLETE (R330): a reset under way completes on the link. -/
def execFlrComplete (fn : Nat) (s : State) : Host.Outcome State Fault Refusal :=
  .next (if s.flrOpen.contains fn then
      { s with flrOpen := s.flrOpen.filter (· != fn) }.raise (841 + fn) 0
    else s)

end Sys2Proof.Machine
end

