-- ==== Sys2Proof/Machine/Power.lean ====
section
/-!
DEFINITION. Power domains on request (R482, R485, R486), the modules in the cages (R497–R499, R503), and the two
supplies while 12 V is good (R483, R501).
-/
namespace Sys2Proof.Machine

/-- The codes of the domains that may be requested (R482). -/
def domainCodes : List Nat := [4, 8, 9, 10, 11, 12, 13, 16, 17, 24, 25, 26, 27, 28, 29, 30, 31]

/-- A domain's bit in GLB_PWR_REQ and GLB_PWR_STATUS. -/
def domainBit (d : Nat) : Nat :=
  if d = 4 then 24 else d - 8

def domainReq (d : Nat) : FRef := ⟨GLB_PWR_REQ, domainBit d, domainBit d⟩

def domainStatus (d : Nat) : FRef := ⟨GLB_PWR_STATUS, domainBit d, domainBit d⟩

/-- The cages a port's lanes lie in: eight lanes a cage. -/
def entryCages (e : PortEntry) : List Nat := (List.range 6).filter fun c => e.firstLane < 8 * c + 8 && 8 * c < e.firstLane + e.lanes

namespace State

def domainOn (s : State) (d : Nat) : Bool := s.rd (domainStatus d) == 1

/-- The enabled ports with lanes in cage `c`. -/
def cagePorts (s : State) (c : Nat) : List Nat :=
  (List.range 24).filter fun P => match s.portEntry P with
    | some e => s.rd (FH_CONTROL_ENABLE (PT_HDR P)) == 1 && (entryCages e).contains c
    | none => false

def cageLanes (c : Nat) : List Nat := (List.range 8).map (8 * c + ·)

/-! Cages: 0 to 5 camera cages, 6 and 7 those of NP0 and NP1 (R503). -/

/-- The domain a cage's rail belongs to. -/
def cageDomain (c : Nat) : Nat := if c < 6 then 8 + c else 10 + c

/-- A cage raises its own event, or its path's (R499, R501). -/
def cageEv (c i : Nat) (detail : Nat) (s : State) : State :=
  if c < 6 then s.raise (900 + 6 * i + c) detail else npEv (c - 6) (13 + i) (if i = 0 then detail else 0) s

/-- The module rail goes off; a passive assembly draws nothing from it. -/
def railDown (c : Nat) (s : State) : State :=
  let s := s.wr (GLB_CAGE_HIGH_POWER c) 0
  if c < 6 then s else pathModule (c - 6) false s

/-- The signal of a cage's lanes is gone (R123, R498). -/
def cageSilent (c : Nat) (s : State) : State :=
  if c < 6 then
    (s.cagePorts c).foldl (fun (s : State) P => partnerLost P 255 s)
      ((cageLanes c).foldl (fun (s : State) n => s.wr (LN_STATUS_SIGNAL n) 0) s)
  else s

/-- ModPrsL asserts (R497): the insertion ends Rest (R113). -/
def cageInsert (c : Nat) (s : State) : State :=
  if s.rd (GLB_CAGE_PRESENT c) = 1 then s
  else
    let s := cageEv c 0 1 (s.wr (GLB_CAGE_PRESENT c) 1)
    if c < 6 ∧ s.domainOn (8 + c) then
      (s.cagePorts c).foldl (fun (s : State) P => if s.portState P = 6 then listenAfresh P s else s) s
    else s

/-- Steps 2 to 4 of R497. -/
def cageReady (c kind class_ : Nat) (s : State) : State :=
  if s.rd (GLB_CAGE_PRESENT c) = 0 ∨ s.power.railOff.contains c ∨ ¬ s.domainOn (cageDomain c) then s
  else
    let s := (s.wr (GLB_CAGE_KIND c) kind).wr (GLB_CAGE_CLASS c) class_
    if kind ≠ 1 ∧ class_ > (if c < 6 then 140 else 45) then
      let s := s.wr (GLB_CAGE_REFUSED c) 1
      if c < 6 then cageEv c 1 2 s else s
    else if kind = 1 ∨ s.rd (GLB_CAGE_MODPWR c) = 1 then
      let s := s.wr (GLB_CAGE_HIGH_POWER c) 1
      if c < 6 then s else pathModule (c - 6) true s
    else s

/-- ModPrsL deasserts (R498). -/
def cageRemove (c : Nat) (s : State) : State :=
  if s.rd (GLB_CAGE_PRESENT c) = 0 then s
  else
    let s := { s with power := { s.power with railOff := s.power.railOff.filter (· != c) } }
    let s := railDown c s
    let s := ((s.wr (GLB_CAGE_PRESENT c) 0).wr (GLB_CAGE_KIND c) 0).wr (GLB_CAGE_CLASS c) 0
    cageSilent c (cageEv c 0 0 s)

/-- A rail fault (R499). -/
def cageFault (c : Nat) (s : State) : State :=
  if s.power.railOff.contains c then s
  else
    let s := { s with power := { s.power with railOff := c :: s.power.railOff } }
    cageSilent c (cageEv c 1 1 (railDown c (s.wr (GLB_CAGE_FAULT c) 1)))

/-- A write of GLB_CAGE[c]: MODPWR 0 takes the rail away, and 0 then 1 ends a fault's hold (R499). -/
def cageWrite (fn c : Nat) (w : Word) (s : State) : State :=
  let was := s.rd (GLB_CAGE_MODPWR c)
  let s := putWord fn (GLB_CAGE c) w s
  let is_ := s.rd (GLB_CAGE_MODPWR c)
  if was = 1 ∧ is_ = 0 then if s.rd (GLB_CAGE_KIND c) = 1 then s else railDown c s
  else if was = 0 ∧ is_ = 1 then { s with power := { s.power with railOff := s.power.railOff.filter (· != c) } }
  else s

/-! Domains on request. -/

def setJobs (jobs queue : List DomainJob) (s : State) : State :=
  ({ s with power := { s.power with jobs := jobs, queue := queue } }).wrIf GLB_PWR_STATUS_BUSY (!(jobs.isEmpty && queue.isEmpty))

/-- Whether the coders are in use: CODER in a context's active bank, or in a bank with a commit pending (R485). -/
def codersUsed (s : State) : Bool :=
  s.homes.any fun h => s.rd (FXB_ENABLES_CODER h.1 h.2 1) == 1
    || (s.rd (FXC_COMMIT_PENDING h.1 h.2) == 1 && s.rd (FXB_ENABLES_CODER h.1 h.2 0) == 1)

/-- The folds that share fold `f`'s power: itself, and its partner where they are joined. -/
def joinOf (s : State) (f : Nat) : List Nat :=
  match s.struct.image with
  | none => [f]
  | some im => f :: im.folds.filterMap fun e => if e.join = 255 then none
      else if e.fold = f then some e.join else if e.join = f then some e.fold else none

/-- Whether a fold serves a stream as its home, or holds a guest (R485). -/
def foldUsed (s : State) (f : Nat) : Bool :=
  (s.streams.any fun e => (s.joinOf f).contains e.fold)
    || s.homes.any fun h => match (s.ctx (ctxKey h)).guest, (s.ctx (ctxKey h)).move with
      | some g, _ => g.1 == f
      | none, some (some g) => g.1 == f
      | none, _ => false

/-- The REASON that refuses a power-down, 0 where none does (R485). -/
def downReason (s : State) (d : Nat) : Nat :=
  if s.struct.stage.active || s.struct.rollbackDue.isSome || s.rd GLB_RESET_BUSY == 1 then 3
  else if d ≥ 24 ∧ s.foldUsed (d - 24) then 1
  else if d = 4 ∧ s.codersUsed then 2
  else 0

/-- Steps 1 and 2 of a power-down (R485): the channels of a path's domain are told to stop; a cage has none. -/
def downBegin (d : Nat) (s : State) : State :=
  if d = 16 ∨ d = 17 then
    (s.listedChannels.filter fun c => s.usesPath (d - 16) c).foldl (fun (s : State) c => chDrain c s) s
  else if 8 ≤ d ∧ d < 14 then
    let s := (s.cagePorts (d - 8)).foldl (fun (s : State) P => portOff P (portBlockReset P s)) s
    (cageLanes (d - 8)).foldl (fun (s : State) n => laneOff n s) (railDown (d - 8) s)
  else s

def startJob (j : DomainJob) (s : State) : State :=
  if j.up then if s.domainOn j.domain then s else setJobs (s.power.jobs ++ [j]) s.power.queue s
  else if ¬ s.domainOn j.domain then s
  else
    let r := s.downReason j.domain
    if r = 0 then downBegin j.domain (setJobs (s.power.jobs ++ [j]) s.power.queue s)
    else (((s.wr (domainReq j.domain) 1).wr GLB_PWR_STATUS_REFUSED 1).wr GLB_PWR_STATUS_REASON r).raise 897 r

/-- A request waits while the other of its domain runs (R486). -/
def askDomain (d : Nat) (up : Bool) (s : State) : State :=
  if s.power.jobs.any fun j => j.domain == d then setJobs s.power.jobs (s.power.queue ++ [⟨d, up⟩]) s
  else startJob ⟨d, up⟩ s

/-- The end of a domain's request: the next one of the same domain begins. -/
def endJob (d : Nat) (s : State) : State :=
  let s := setJobs (s.power.jobs.filter fun j => j.domain != d) s.power.queue s
  match s.power.queue.find? fun j => j.domain == d with
  | none => s
  | some j => startJob j (setJobs s.power.jobs (s.power.queue.erase j) s)

/-- Whether a request of a domain is under way. -/
def jobRuns (s : State) (d : Nat) (up : Bool) : Bool := s.power.jobs.contains ⟨d, up⟩

/-- A fold's context store is empty (R486): its contexts hold what they do after reset. -/
def emptyStore (f : Nat) (s : State) : State :=
  let s := resetRegs (fun k => let o := k % fnSpan
    (FXC_COMMIT f 0 ≤ o && o < FXC_COMMIT f 0 + 0x10000) || (FXS_CTRL f 0 0 ≤ o && o < FXS_CTRL f 0 0 + 0x10000)) s
  { s with ctxs := s.ctxs.filter fun e => e.1 / 256 != f }

/-- Step 3 of a power-down (R485), once its channels have stopped. -/
def downComplete (d : Nat) (s : State) : State :=
  if ¬ s.jobRuns d false then s
  else if (d = 16 ∨ d = 17) ∧ s.listedChannels.any fun c => (s.chan c).drain && s.chBusy c && s.usesPath (d - 16) c then s
  else
    let s := s.wr (domainStatus d) 0
    let s := if d = 16 ∨ d = 17 then railDown (d - 10) (pathFollow (d - 16) s) else s
    endJob d (s.raise 896 d)

/-- A domain comes up (R484, R486). -/
def domainUp (d : Nat) (s : State) : State :=
  let s := (s.wr (domainStatus d) 1).raise 896 (256 + d)
  if d = 16 ∨ d = 17 then pathFollow (d - 16) s
  else if 8 ≤ d ∧ d < 14 then (cageLanes (d - 8)).foldl (fun (s : State) n => laneOn n s) s
  else if d ≥ 24 then emptyStore (d - 24) s
  else s

def upComplete (d : Nat) (s : State) : State :=
  if ¬ s.jobRuns d true then s
  else
    let s := domainUp d s
    let s := if 8 ≤ d ∧ d < 14 then
        (s.cagePorts (d - 8)).foldl (fun (s : State) P => portBlockReset P s) s
      else s
    endJob d s

/-- A write of GLB_PWR_REQ: a bit that falls or rises is a request (R485, R486). -/
def pwrReqWrite (fn : Nat) (w : Word) (s : State) : State :=
  let old := s.rw GLB_PWR_REQ
  let s := putWord fn GLB_PWR_REQ w s
  domainCodes.foldl (fun (s : State) d =>
    let was := old.toNat.testBit (domainBit d)
    let is_ := w.toNat.testBit (domainBit d)
    if was == is_ then s else askDomain d is_ s) s

/-! The supplies. -/

/-- Below, within, above the operating range: 10.5 to 11.04 V, and 12.96 to 14.0 V (R483). -/
def supplyRange (mv : Nat) : Nat := if mv ≤ 11040 then 1 else if 12960 ≤ mv then 2 else 0

/-- 12 V leaves or returns to its operating range (R483). -/
def supplyMoves (mv : Nat) (s : State) : State :=
  let was := supplyRange (s.rd GLB_SUPPLY_V12_MV)
  let is_ := supplyRange mv
  let s := s.wr GLB_SUPPLY_V12_MV mv
  if was = is_ then s
  else
    let s := if is_ = 1 then s.wr GLB_SUPPLY_STAT_UV_WARN 1 else if is_ = 2 then s.wr GLB_SUPPLY_STAT_OV_WARN 1 else s
    s.raise 912 mv

end State

/-- POWER_DOWN_REQUEST (R485): a write of GLB_PWR_REQ with the domain's bit 0, its other bits as they read. -/
def execPowerDownRequest (d : Nat) (s : State) : Host.Outcome State Fault Refusal :=
  .next (if domainCodes.contains d then s.pwrReqWrite 0 (withBits (s.rw GLB_PWR_REQ) (domainBit d) (domainBit d) 0) else s)

/-- POWER_DOWN_COMPLETE (R485). -/
def execPowerDownComplete (d : Nat) (s : State) : Host.Outcome State Fault Refusal := .next (s.downComplete d)

/-- POWER_UP_REQUEST (R486): a write of GLB_PWR_REQ with the domain's bit 1, its other bits as they read. -/
def execPowerUpRequest (d : Nat) (s : State) : Host.Outcome State Fault Refusal :=
  .next (if domainCodes.contains d then s.pwrReqWrite 0 (withBits (s.rw GLB_PWR_REQ) (domainBit d) (domainBit d) 1) else s)

/-- POWER_UP_COMPLETE (R486). -/
def execPowerUpComplete (d : Nat) (s : State) : Host.Outcome State Fault Refusal := .next (s.upComplete d)

/-- CAGE_MODULE_INSERT (R497). -/
def execCageModuleInsert (c : Nat) (s : State) : Host.Outcome State Fault Refusal := .next (s.cageInsert c)

/-- CAGE_MODULE_READY (R497): the module's kind and declared power, in 0.1 W. -/
def execCageModuleReady (c kind class_ : Nat) (s : State) : Host.Outcome State Fault Refusal :=
  .next (s.cageReady c kind class_)

/-- CAGE_MODULE_REMOVE (R498). -/
def execCageModuleRemove (c : Nat) (s : State) : Host.Outcome State Fault Refusal := .next (s.cageRemove c)

/-- CAGE_RAIL_FAULT (R499). -/
def execCageRailFault (c : Nat) (s : State) : Host.Outcome State Fault Refusal := .next (s.cageFault c)

end Sys2Proof.Machine
end

