-- ==== Sys2Proof/Machine/Headers.lean ====
section
/-!
DEFINITION. The fold tree as its header blocks show it (R24–R27, R125, R213): what the image in force says, and the
state of each fold as it is when the header is read. The order of siblings, the numbers of bonded and joined folds and
what the resources of a fold count are the model's (log entry 46).
-/
namespace Sys2Proof.Machine

/-- A fold or cell of the tree. -/
inductive Node
  | root
  | port (P : Nat)
  /-- the 8-lane child of a bonded port, by its window's index, 25 to 30 -/
  | child (i : Nat)
  | lane (n : Nat)
  | pixel (f : Nat)
  /-- the joined fold of an even fold -/
  | joined (f : Nat)
  | cell (f k : Nat)
  | path (k : Nat)
deriving DecidableEq, Repr

/-- The fold whose header stands at an offset's 64-byte block. -/
def nodeAt (off : Nat) : Option Node :=
  let b := off / 64 * 64
  if b = ROOT_HDR then some .root
  else if 0x200000 ≤ b ∧ b < 0x238000 ∧ b % 0x1000 = 0 then some (.lane ((b - 0x200000) / 0x1000))
  else if 0x300000 ≤ b ∧ b < 0x33E000 ∧ b % 0x2000 = 0 then
    let i := (b - 0x300000) / 0x2000
    some (if i < 25 then .port i else .child i)
  else if 0x400000 ≤ b ∧ b < 0x500000 then
    let f := (b - 0x400000) / 0x20000
    let d := (b - 0x400000) % 0x20000
    if d = 0 then some (.pixel f)
    else if d = 0x800 then if f % 2 = 0 then some (.joined f) else none
    else if 0x1000 ≤ d ∧ d < 0x7000 ∧ d % 0x1000 = 0 then some (.cell f (d / 0x1000 - 1))
    else none
  else none

/-- A header's offset; that of a path's is not in the spec. -/
def Node.off : Node → Nat
  | .root => ROOT_HDR
  | .port P => PT_HDR P
  | .child i => PT_HDR i
  | .lane n => LN_HDR n
  | .pixel f => FX_HDR f
  | .joined f => FXJ_HDR (f / 2)
  | .cell f k => FXSTG_HDR f k
  | .path k => (Config.pathHeader k).toNat

/-- The event sources a fold owns: the first, and how many (R103, R124, R212). -/
def Node.events : Node → Nat × Nat
  | .root | .child _ | .joined _ | .cell _ _ => (0, 0)
  | .port P => (224 + 4 * P, 4)
  | .lane n => (4 * n, 4)
  | .pixel f => (328 + 8 * f, 8)
  | .path k => (800 + 16 * k, 16)

def Node.number : Node → Nat
  | .root => 0
  | .port P => P
  | .child i => i
  | .lane n => n
  | .pixel f | .joined f => f
  | .cell _ k => k
  | .path k => k

namespace State

def treePorts (s : State) : List PortEntry :=
  match s.struct.image with
  | none => []
  | some im => im.ports.filter (·.enable)

def bonded (s : State) (P : Nat) : Bool := s.treePorts.any fun e => e.port == P && e.lanes == 16

/-- The even folds that are joined. -/
def treeJoins (s : State) : List Nat :=
  match s.struct.image with
  | none => []
  | some im => (im.folds.filter fun e => e.join != 255).map (·.fold)

/-- The kind codes of R26. -/
def nodeKind (s : State) : Node → Nat
  | .root => 1
  | .port P => if P = 24 then 5 else if s.bonded P then 3 else 2
  | .child _ => 2
  | .lane _ => 4
  | .pixel _ => 6
  | .joined _ => 7
  | .cell _ _ => 8
  | .path _ => 9

/-- The PORT entry a lane or a child port belongs to. -/
def laneEntry (s : State) (n : Nat) : Option PortEntry :=
  s.treePorts.find? fun e => e.firstLane ≤ n && n < e.firstLane + e.lanes

def nodeParent (s : State) : Node → Option Node
  | .root => none
  | .port _ => some .root
  | .child i => (s.laneEntry (8 * (i - 25))).map fun e => .port e.port
  | .lane n =>
    if n ≥ 48 then some (.path ((n - 48) / 4))
    else (s.laneEntry n).map fun e => if e.lanes = 16 then .child (25 + n / 8) else .port e.port
  | .pixel f => if s.treeJoins.contains (f / 2 * 2) then some (.joined (f / 2 * 2)) else some .root
  | .joined _ => some .root
  | .cell f _ => some (.pixel f)
  | .path _ => some .root

/-- The children of a fold, by rising header offset, the network paths last. -/
def nodeChildren (s : State) : Node → List Node
  | .root =>
    (((List.range 25).filter fun P => s.treePorts.any fun e => e.port == P).map Node.port)
      ++ ((List.range 8).flatMap fun f =>
        if s.treeJoins.contains (f / 2 * 2) then (if f % 2 = 0 then [Node.joined f] else [])
        else match s.struct.image with
          | some im => if im.folds.any fun e => e.fold == f then [Node.pixel f] else []
          | none => [])
      ++ [.path 0, .path 1]
  | .port P =>
    match s.treePorts.find? fun e => e.port == P with
    | none => []
    | some e =>
      if e.lanes = 16 then [.child (25 + e.firstLane / 8), .child (26 + e.firstLane / 8)] else (entryLanes e).map Node.lane
  | .child i => if (s.laneEntry (8 * (i - 25))).any (·.lanes == 16) then (cageLanes (i - 25)).map Node.lane else []
  | .lane _ => []
  | .pixel f => (List.range 6).map (Node.cell f)
  | .joined f => [.pixel f, .pixel (f + 1)]
  | .cell _ _ => []
  | .path k => (List.range 4).map fun j => .lane (48 + 4 * k + j)

/-- Whether a fold belongs to the tree of the image in force; a lane that no port takes stands alone. -/
def inTree (s : State) : Node → Bool
  | .port P => s.treePorts.any fun e => e.port == P
  | .child i => (s.laneEntry (8 * (i - 25))).any (·.lanes == 16)
  | .joined f => s.treeJoins.contains f
  | .pixel f | .cell f _ => match s.struct.image with
    | some im => im.folds.any fun e => e.fold == f || e.join == f
    | none => false
  | .root | .lane _ | .path _ => s.struct.image.isSome

/-- The streams of a fold: those of a port, those homed in a pixel fold or a joined pair, and all under the root. -/
def nodeStreams (s : State) : Node → List StreamEntry
  | .root => s.streams
  | .port P => s.streams.filter fun e => portOf e.stream == P
  | .pixel f => s.streams.filter fun e => e.fold == f
  | .joined f => s.streams.filter fun e => e.fold == f
  | .child _ | .lane _ | .cell _ _ | .path _ => []

/-- Whether a function sees a fold in its tree (R27). -/
def nodeSeen (s : State) (fn : Nat) (x : Node) : Bool :=
  fn == 0 || match x with
    | .root => true
    | .port P => s.ownsPort fn P
    | .child i => (s.laneEntry (8 * (i - 25))).any fun e => s.ownsPort fn e.port
    | .lane n => (s.laneEntry n).any fun e => s.ownsPort fn e.port
    | .pixel f | .cell f _ => s.streams.any fun e => (s.joinOf f).contains e.fold && s.streamOwner e.stream == fn
    | .joined f => s.streams.any fun e => e.fold == f && s.streamOwner e.stream == fn
    | .path _ => false

def shownChildren (s : State) (fn : Nat) (x : Node) : List Node := (s.nodeChildren x).filter (s.nodeSeen fn)

/-- What follows a fold among its parent's children. -/
def nextAfter (x : Node) : List Node → Option Node
  | a :: b :: r => if a = x then some b else nextAfter x (b :: r)
  | _ => none

def nextSibling (s : State) (fn : Nat) (x : Node) : Option Node :=
  (s.nodeParent x).bind fun p => nextAfter x (s.shownChildren fn p)

/-- The depth in the tree. -/
def nodeDepth (s : State) : Node → Nat
  | .root => 0
  | .port _ | .joined _ | .path _ => 1
  | .child _ => 2
  | .lane n => if (s.laneEntry n).any (·.lanes == 16) then 3 else 2
  | .pixel f => if s.treeJoins.contains (f / 2 * 2) then 2 else 1
  | .cell f _ => if s.treeJoins.contains (f / 2 * 2) then 3 else 2

/-- The lanes in a fold's subtree. -/
def nodeLanes (s : State) : Node → List Nat
  | .root => (s.treePorts.flatMap entryLanes) ++ (List.range 8).map (48 + ·)
  | .port P => ((s.treePorts.find? fun e => e.port == P).map entryLanes).getD []
  | .child i => cageLanes (i - 25)
  | .lane n => [n]
  | .path k => (List.range 4).map fun j => 48 + 4 * k + j
  | .pixel _ | .joined _ | .cell _ _ => []

/-- The cells in a fold's subtree. -/
def nodeCells (s : State) (x : Node) : Nat :=
  match x with
  | .pixel _ => 6
  | .joined _ => 12
  | .cell _ _ => 1
  | .root => (s.nodeLanes .root).length + 6 * ((List.range 8).filter fun f => s.inTree (.pixel f)).length
  | .port _ | .child _ | .lane _ | .path _ => (s.nodeLanes x).length

/-- Pens, channels and pages: the partition's under the root, the routes' and regions' under a port or pixel fold. -/
def nodePens (s : State) (x : Node) : Nat :=
  if x = .root then (s.part.map (·.penCount)).sum
  else ((s.nodeStreams x).map fun e => (if e.penA = 0xFFFF then 0 else 1) + if e.penB = 0xFFFF then 0 else 1).sum

def nodeChannels (s : State) (x : Node) : Nat := if x = .root then (s.part.map (·.chCount)).sum else 0

def nodePages (s : State) (x : Node) : Nat :=
  if x = .root then (s.part.map (·.pageCount)).sum
  else ((s.nodeStreams x).map fun e => (s.region e.stream 0).2 / pageBytes).sum

/-! The state of a fold (R25). -/

/-- The power state: a lane's own; a port's is the highest of its lanes; a pixel fold's follows its domain. -/
def nodePower (s : State) : Node → Nat
  | .lane n => s.lanePower n
  | .port P => if P = 24 then 3 else ((s.nodeLanes (.port P)).map s.lanePower).foldl max 0
  | .child i => ((cageLanes (i - 25)).map s.lanePower).foldl max 0
  | .pixel f | .joined f | .cell f _ => if s.domainOn (24 + f) then 3 else 0
  | .path k => if s.domainOn (16 + k) then 3 else 0
  | .root => 3

/-- The fault of a fold, its children apart: domain off, training failed, throttled. -/
def ownFault (s : State) : Node → Nat
  | .lane n => if s.lanePower n = 0 then 2 else s.rd (FH_STATUS_FAULT (LN_HDR n))
  | .port P => if P = 24 then 0 else if s.nodePower (.port P) = 0 then 2 else s.rd (FH_STATUS_FAULT (PT_HDR P))
  | .child i => if s.nodePower (.child i) = 0 then 2 else 0
  | .pixel f | .joined f =>
    if s.nodePower (.pixel f) = 0 then 2 else if s.rd (FX_STATUS_THROTTLE f) > 0 then 3 else 0
  | .cell f _ => if s.domainOn (24 + f) then 0 else 2
  | .path k => if s.domainOn (16 + k) then 0 else 2
  | .root => 0

/-- The fault of a fold with that of its subtree, `n` levels deep. -/
def nodeFault (s : State) : Nat → Node → Nat
  | 0, x => s.ownFault x
  | n + 1, x =>
    let own := s.ownFault x
    if own ≠ 0 then own else if (s.nodeChildren x).any fun c => nodeFault s n c != 0 then 1 else 0

/-- Whether a fold stands still: by HALT or by an activation, at its frame boundary. -/
def nodeHalted (s : State) (x : Node) : Bool :=
  let told := s.quiesced || (s.rd (FH_CONTROL_HALT x.off) == 1 && match x with | .path _ => false | _ => true)
  told && match x with
    | .port P => (portStreams P).all fun st => (s.strm st).frame.isNone
    | .pixel f => (s.fold f).unit.isNone
    | _ => true

/-- Whether a fold, its children apart, is ready for traffic. -/
def ownReady (s : State) : Node → Bool
  | .lane n =>
    if n ≥ 48 then (s.path ((n - 48) / 4)).locked
    else s.lanePower n == 3 && s.rd (LN_STATUS_BLOCK_LOCK n) == 1
  | .port P => s.portCarries P
  | .child _ => true
  | .pixel f | .joined f | .cell f _ => s.domainOn (24 + f)
  | .path k => s.healthyNow k
  | .root => s.struct.image.isSome

def nodeEnabled (s : State) : Node → Bool
  | .path k => s.rd (NPP_CFG_ENABLE k) == 1
  | .root => true
  | x => s.rd (FH_CONTROL_ENABLE x.off) == 1

/-- Ready with every enabled fold of the subtree. A port's own state speaks for its lanes. -/
def nodeReady (s : State) : Nat → Node → Bool
  | 0, x => s.ownReady x
  | n + 1, x =>
    s.ownReady x && match x with
      | .port _ => true
      | _ => (s.nodeChildren x).all fun c => !s.nodeEnabled c || nodeReady s n c

def linkWord (x : Option Node) : Word :=
  match x with
  | some y => BitVec.ofNat 32 y.off
  | none => 0xFFFFFFFF#32

/-- The kind of a fold's children, 0xFF where they are mixed (R25). -/
def childKind (s : State) (fn : Nat) (x : Node) : Nat :=
  match (s.shownChildren fn x).map s.nodeKind with
  | [] => 0
  | k :: r => if r.all (· == k) then k else 0xFF

/-- The word of a fold header as function `fn` reads it; the register's own word where the fold is not in the tree. -/
def headerWord (s : State) (fn off : Nat) (x : Node) (w : Word) : Word :=
  if ¬ s.inTree x then w
  else
    let count (n : Nat) : Word := BitVec.ofNat 32 n
    let o := off % 64
    if o = 0 then BitVec.ofNat 32 (65536 * x.number + s.nodeDepth x * 256 + 1)
    else if o = 4 then
      BitVec.ofNat 32 (65536 * (s.shownChildren fn x).length + s.childKind fn x * 256 + s.nodeKind x)
    else if o = 8 then linkWord (s.nodeParent x)
    else if o = 0xC then linkWord (s.shownChildren fn x).head?
    else if o = 0x10 then linkWord (s.nextSibling fn x)
    else if o = 0x14 then w
    else if o = 0x18 then
      BitVec.ofNat 32 (s.nodeFault 4 x * 16 + s.nodePower x * 4 + (if s.nodeHalted x then 2 else 0)
        + if s.nodeReady 4 x then 1 else 0)
    else if o = 0x1C then BitVec.ofNat 32 (65536 * x.events.2 + x.events.1)
    else if o = 0x20 then count (s.nodeCells x)
    else if o = 0x24 then count (s.nodeStreams x).length
    else if o = 0x28 then match x with
      | .port _ => 0
      | _ => count (s.nodeStreams x).length
    else if o = 0x2C then count (s.nodePens x)
    else if o = 0x30 then count (s.nodeChannels x)
    else if o = 0x34 then count (s.nodePages x)
    else if o = 0x38 then count (s.nodeLanes x).length
    else w

/-- FH_CONTROL.RESET of a fold resets it and its descendants (R25, R490). -/
def nodeReset (s : State) (x : Node) : State :=
  let reset1 (s : State) (y : Node) : State := match y with
    | .port P => portBlockReset P s
    | .pixel f => foldReset f s
    | .joined f => foldReset (f + 1) (foldReset f s)
    | .lane n => laneBlockReset n s
    | .child i => (cageLanes (i - 25)).foldl (fun (s : State) n => laneBlockReset n s) s
    | .root | .cell _ _ | .path _ => s
  if x = .root then (s.nodeChildren .root).foldl reset1 s else reset1 s x

end State
end Sys2Proof.Machine
end

