-- ==== Sys2Proof/Machine/Calibration.lean ====
section
/-!
DEFINITION. The calibration engine (R422–R435): runs and their measurements, gaps and reserve windows, acceptance,
the coefficient set in force, staging, and its copies in flash.
-/
namespace Sys2Proof.Machine

/-- Words of a coefficient set (R433). -/
def setWords : Nat := 640

/-- Bytes of words, least significant first. -/
def wordsBytes (l : List Word) : List Byte := l.flatMap fun w => leBytes 4 w.toNat

/-- Channels or lines of a block (R422). -/
def blockLines (b : Nat) : List Nat :=
  if b = 2 then List.range 12 else if b = 3 then (List.range 13).map (12 + ·) else []

def blockChannels (b : Nat) : List Nat := if b < 2 then (List.range 4).map (4 * b + ·) else []

/-- Sum of a finished point of an analogue run: points 4r to 4r + 3 measure range r at zero, +P, −P and the next
reference; points 15 + 3r to 17 + 3r check it at zero, +P and −P (R424, R425). -/
def pointSum (l : List (Int × Nat)) (i : Nat) : Int := (l.getD i (0, 0)).1

/-- OFFSET that an analogue run gives range `r` (R424), of sums over `n` samples. -/
def runOffset (l : List (Int × Nat)) (n r : Nat) : Int :=
  nearest (64 * (pointSum l (4 * r + 1) + pointSum l (4 * r + 2))) (2 * n)

/-- The ideal code c_r as a fraction (R424), with the reference in µV. -/
def idealCode (l : List (Int × Nat)) (n uv : Nat) : Nat → Int × Int
  | 0 => ((131072 * uv : Nat), 10000000)
  | r + 1 =>
    let c := idealCode l n uv r
    let o := (n : Int) * runOffset l n r
    (c.1 * 2 * (64 * pointSum l (4 * r + 3) - o), c.2 * (64 * pointSum l (4 * r + 1) - o))

/-- GAIN that an analogue run gives range `r` (R424). -/
def runGain (l : List (Int × Nat)) (n uv r : Nat) : Nat :=
  let c := idealCode l n uv r
  let d := c.2 * (pointSum l (4 * r + 1) - pointSum l (4 * r + 2))
  let m := c.1 * 8388608 * (n : Int)
  if d = 0 then 0
  else
    let q := if d < 0 then nearest (-m) (-d).toNat else nearest m d.toNat
    min q.toNat 0xFFFFFF

/-- The residual of one check point in 0.05 µV, rounded up (R425): the calibrated mean against its ideal. -/
def pointResidual (l : List (Int × Nat)) (n uv r k : Nat) : Nat :=
  let c := idealCode l n uv r
  let ideal : Int := if k = 0 then 0 else if k = 1 then c.1 else -c.1
  let mean : Int := (64 * pointSum l (15 + 3 * r + k) - n * runOffset l n r) * (runGain l n uv r : Int)
  let d := (mean * c.2 - ideal * ((n * 2 ^ 28 : Nat) : Int)).natAbs
  let den := (n * 2 ^ 28 * c.2.natAbs) * (2 ^ r * 131072)
  if den = 0 then 0x1FFFFFFFE else min (ceilDiv (200000000 * d) den) 0x1FFFFFFFE

/-- The worst residual of a channel's run. -/
def channelResidual (l : List (Int × Nat)) (n uv : Nat) : Nat :=
  (List.range 12).foldl (fun a i => max a (pointResidual l n uv (i / 3) (i % 3))) 0

/-- Positions of a line's taps in ps × the total of its counts (R426). -/
def tapSums : Nat → List Nat → List Nat
  | _, [] => []
  | a, c :: r => a :: tapSums (a + c) r

/-- Distance of a tap from step `k`, in units of 1/64 ps over the total: a step is 15.625 ps, the counts cover
1,250 ps. -/
def tapError (total k sum : Nat) : Nat := ((80000 * sum : Nat) - (k * 1000 * total : Nat) : Int).natAbs

/-- The tap nearest a step, and its error. -/
def nearestTap (total k : Nat) (sums : List Nat) : Nat × Nat :=
  ((List.range sums.length).foldl (fun (a : Nat × Nat) i =>
    let e := tapError total k (sums.getD i 0)
    if e < a.2 then (i, e) else a) (0, tapError total k (sums.headD 0)))

/-- The table of a line's steps (R426). -/
def tapTable (counts : List Nat) : List Nat :=
  let sums := tapSums 0 counts
  (List.range 80).map fun k => (nearestTap counts.sum k sums).1

/-- A line's worst residual in 0.05 ps, rounded up (R426). -/
def lineResidual (counts : List Nat) : Nat :=
  let total := counts.sum
  let sums := tapSums 0 counts
  let worst := (List.range 80).foldl (fun a k => max a (nearestTap total k sums).2) 0
  if total = 0 then 0x1FFFFFFFE else min (ceilDiv (worst * 20) (64 * total)) 0x1FFFFFFFE

namespace State

def cal (s : State) (b : Nat) : CalBlock := tget (fun _ => {}) s.cals b
def setCal (s : State) (b : Nat) (x : CalBlock) : State := { s with cals := tset (fun _ => {}) s.cals b x }
def updCal (s : State) (b : Nat) (g : CalBlock → CalBlock) : State := s.setCal b (g (s.cal b))

/-- Set a word of the coefficient set in force. -/
def putSet (s : State) (off v : Nat) : State := s.wr (CAL_SET_DATA (off / 4)) v

/-- Set bytes of the coefficient set in force: byte `off` lies in its word. -/
def putSetByte (s : State) (off v : Nat) : State := s.wr ⟨CAL_SET (off / 4), off % 4 * 8 + 7, off % 4 * 8⟩ v

def setBytesInForce (s : State) : List Byte := wordsBytes ((List.range setWords).map fun i => s.rw (CAL_SET i))

/-! Falling due (R423). -/

/-- Measurements of a block's run are discarded. -/
def calClear (b : Nat) (s : State) : State :=
  let s := (blockChannels b).foldl (fun s c => s.updAi c fun x => { x with cal := [] }) s
  s.updCal b fun x => { x with lines := [] }

/-- A block's run becomes due. -/
def calDue (b : Nat) (forced : Bool) (s : State) : State :=
  if s.rd (CB_STATUS_STATE b) ≠ 0 then s.updCal b fun x => { x with forced := x.forced || forced }
  else
    let s := calClear b s
    let s := s.updCal b fun x => { x with forced := forced, dueAt := s.now, defers := 0, again := none }
    s.wr (CB_STATUS_STATE b) 1

/-- A block has an accepted run, or coefficients of the user's (R423, R434). -/
def calAccepted (s : State) (b : Nat) : Bool := s.rd (CB_STATUS_ACCEPTED b) == 1 || s.rd (CB_STATUS_USER b) == 1

/-- The block's sensor reads a temperature (R423, R430): a run falls due, or starts again. -/
def calTemp (b temp : Nat) (s : State) : State :=
  let s := s.wr (CB_TEMP_NOW b) temp
  let delta := s.rd CAL_TEMP_DELTA_SIXTEENTHS
  let moved (from_ : Nat) := (signed 16 temp - signed 16 from_).natAbs
  let st := s.rd (CB_STATUS_STATE b)
  if st ≥ 2 then
    if 2 * moved (s.cal b).startTemp > delta then
      ((calClear b s).updCal b fun x => { x with startTemp := temp }).wr (CB_STATUS_STATE b) 2
    else s
  else
    let retry := match (s.cal b).again with
      | none => false
      | some t => decide (t ≤ s.now)
    if st = 0 ∧ ((!s.calAccepted b && (s.cal b).again.isNone) || retry || (s.calAccepted b && moved (s.rd (CB_TEMP_LAST b)) > delta))
    then calDue b false s else s

/-- CAL_CMD.RUN (R423). -/
def calRun (mask : Nat) (s : State) : State :=
  ((List.range 4).filter mask.testBit).foldl (fun s b => calDue b true s) s

/-- A due run may proceed (R423): its AUTO bit, or a RUN command. -/
def calMayRun (s : State) (b : Nat) : Bool :=
  s.rd (CB_STATUS_STATE b) != 0 && ((s.rd CAL_CTRL_AUTO).testBit b || (s.cal b).forced)

/-- A run that begins measuring takes the temperature it begins at. -/
def calBegin (b : Nat) (s : State) : State :=
  if s.rd (CB_STATUS_STATE b) = 1 then
    (s.updCal b fun x => { x with startTemp := s.rd (CB_TEMP_NOW b) }).wr (CB_STATUS_STATE b) 2
  else s

/-! Gaps (R427, R428). -/

/-- A conversion predicted at `first` and then every `per` overlaps a slot that begins at `a`. -/
def periodicHits (first per a : Nat) : Bool :=
  let m := if a + 1 ≤ first + gridUnits then 0 else ceilDiv (a + 1 - gridUnits - first) per
  per > 0 && first + m * per < a + gridUnits

/-- The next tick that asks a channel to convert, and the span between such ticks; both in 2^-16 ns. -/
def tickStart (s : State) (c : Nat) : Nat × Nat :=
  let d := s.rd (AI_START_TICK_DIV c)
  let p := Time.ofNs s.bw.period
  let wait := (d - (s.bw.count + 1) % d) % d
  (s.bw.next / 65536 + wait * p, d * p)

/-- A slot of a channel's grid that begins at `a` is booked (R427). -/
def slotBooked (s : State) (c a : Nat) : Bool :=
  if s.rd (AI_CTRL_ENABLE c) = 0 then false
  else
    let x := s.ai c
    let running := match x.last with
      | none => false
      | some t => decide (t < a + gridUnits ∧ a < t + gridUnits)
    let k := s.rd (AI_START_SLOT c)
    let onSlot := s.rd (AI_START_ON_SLOT c) == 1
    let open_ := !x.starts.isEmpty || s.rd (AI_START_ON_TRIG c) == 1 || s.rd (AI_START_ON_TI c) == 1
      || (onSlot && s.slotPeriod k == 0)
    let ticks := s.rd (AI_START_ON_TICK c) == 1 && s.rd (AI_START_TICK_DIV c) != 0
      && periodicHits (s.tickStart c).1 (s.tickStart c).2 a
    let slots := onSlot && (s.slot k).armed && periodicHits (s.slotTime k / 65536) (s.slotPeriod k / 65536) a
    running || open_ || ticks || slots

/-- An instant lies in a slot that a calibration conversion may use: neither the first nor the last of a gap of at
least four slots (R427), or the middle slots of a reserve window in use (R428). -/
def gapOpen (s : State) (c : Nat) (t : Time) : Bool :=
  let a := t / gridUnits * gridUnits
  let free (d : Nat) : Bool := 2 * gridUnits ≤ a && !s.slotBooked c (a + d * gridUnits - 2 * gridUnits)
  let gap := free 1 && free 2 && free 3 && (free 0 || free 4)
  let window := match s.reserveSlot c t with
    | some k => k == 1 || k == 2
    | none => false
  gap || (window && s.reserveUsed c t)

/-- Samples a point of the run takes (R424). -/
def calSamples (s : State) : Nat := 2 ^ s.rd CAL_AVG_AVG

/-- A raw code joins the point under way (R424, R425). -/
def addPoint (n : Nat) (x : Int) (l : List (Int × Nat)) : List (Int × Nat) :=
  match l.getLast? with
  | some (sum, k) => if k < n then l.dropLast ++ [(sum + x, k + 1)] else l ++ [(x, 1)]
  | none => [(x, 1)]

/-- Finished points of a channel's run. -/
def pointsDone (s : State) (c : Nat) : Nat := ((s.ai c).cal.filter fun e => e.2 ≥ s.calSamples).length

/-- A calibration conversion of a channel gives a raw code (R427). -/
def gapConversion (c : Nat) (x : Int) (s : State) : State :=
  let b := c / 4
  if ¬ s.calMayRun b ∨ s.pointsDone c ≥ 27 ∨ ¬ s.gapOpen c s.now then s
  else
    let s := calBegin b s
    let s := s.updAi c fun a => { a with cal := addPoint s.calSamples x a.cal }
    if (blockChannels b).all fun c => s.pointsDone c ≥ 15 then s.wr (CB_STATUS_STATE b) 3 else s

/-- A delay line is idle for at least 2 µs from now (R429). -/
def lineIdle (s : State) (l : Nat) : Bool :=
  if l = 24 then
    s.rd TB_PPS_OUT_ENABLE == 0
      || (s.now % Time.ofNs 1000000000 ≥ Time.ofUs (s.rd TB_PPS_OUT_WIDTH_US)
          && s.now % Time.ofNs 1000000000 + Time.ofUs 2 ≤ Time.ofNs 1000000000)
  else if s.rd (TR_OUT_ENABLE l) = 0 ∨ s.rd (TR_OUT_FORCE l) ≠ 0 then true
  else
    let delay := 1024 * s.rdWide (TR_DELAY_LO l 1) 2
    let lat := (65536 * s.rd (TR_OUT_LATENCY_PICOSECONDS l) + 500) / 1000
    let far := s.now + Time.ofUs 2
    s.rd (TR_STATUS_PULSE l) == 0 && far + lat ≤ s.now + delay
      && (tget (fun _ => ({} : Trig)) s.trigs l).held.all fun p => p.edges.all fun e => e.route != 0 || far ≤ e.at_

/-- Windows and counts of a line. -/
def lineOf (s : State) (b l : Nat) : Nat × List Nat := tget (fun _ => (0, [])) (s.cal b).lines l

/-- Two lists of counts added. -/
def addCounts : List Nat → List Nat → List Nat
  | a :: r, b :: t => (a + b) :: addCounts r t
  | [], t => t
  | r, [] => r

/-- One measurement window of a line, its 128 counts of edges per tap (R426). -/
def lineMeasure (l : Nat) (counts : List Nat) (s : State) : State :=
  let b := if l < 12 then 2 else 3
  if ¬ s.calMayRun b ∨ ¬ s.lineIdle l ∨ (s.lineOf b l).1 ≥ 64 then s
  else
    let s := calBegin b s
    let x := s.lineOf b l
    let s := s.updCal b fun a => { a with lines := tset (fun _ => (0, [])) a.lines l (x.1 + 1, addCounts x.2 (counts.take 128)) }
    if (blockLines b).all fun l => (s.lineOf b l).1 ≥ 64 then s.wr (CB_STATUS_STATE b) 3 else s

/-! Acceptance (R425, R426, R431). -/

/-- The reference voltage an analogue run is measured against, in µV (R422). -/
def calRefUv (s : State) : Nat := if s.rd CAL_REFV_UV_UV = 0 then 4096000 else s.rd CAL_REFV_UV_UV

/-- Every measurement of a block's run has been made. -/
def calMeasured (s : State) (b : Nat) : Bool :=
  ((blockChannels b).all fun c => s.pointsDone c ≥ 27) && (blockLines b).all fun l => (s.lineOf b l).1 ≥ 64

/-- The worst residual of a block's run, in halves of the unit of CB_RESIDUAL. -/
def calResidual (s : State) (b : Nat) : Nat :=
  if b < 2 then (blockChannels b).foldl (fun a c => max a (channelResidual (s.ai c).cal s.calSamples s.calRefUv)) 0
  else (blockLines b).foldl (fun a l => max a (lineResidual (s.lineOf b l).2)) 0

/-- The coefficients a run has computed are written into the set in force. -/
def calWrite (b : Nat) (s : State) : State :=
  let s := (blockChannels b).foldl (fun s c => (List.range 4).foldl (fun s r =>
    let l := (s.ai c).cal
    let off := 0x20 + 32 * c + 8 * r
    (s.putSet off (toSigned 32 (runOffset l s.calSamples r))).putSet (off + 4) (runGain l s.calSamples s.calRefUv r)) s) s
  (blockLines b).foldl (fun s l =>
    let k := s.draw
    let off := 0x140 + 84 * l
    let s := k.2.putSet off (Config.lineZero k.1).toNat
    (tapTable (s.lineOf b l).2).zipIdx.foldl (fun s e => s.putSetByte (off + 4 + e.2) e.1) s) s

/-- PENDING clears once every block has an accepted run (R423, R431). -/
def calPending (s : State) : State :=
  if s.rd CAL_STATUS_PENDING = 1 ∧ (List.range 4).all s.calAccepted then ((s.wr CAL_STATUS_PENDING 0).raise 798).milestone 7 else s

/-- What takes effect with a block's new coefficients (R431). -/
def calTake (b : Nat) (s : State) : State :=
  let s := (s.wr (CB_STATUS_GEN b) (s.rd (CB_STATUS_GEN b) + 1)).wr (CB_TEMP_LAST b) (s.rd (CB_TEMP_NOW b))
  let s := s.wr ⟨CAL_SET ((0x18 + 2 * b) / 4), (0x18 + 2 * b) % 4 * 8 + 15, (0x18 + 2 * b) % 4 * 8⟩ (s.rd (CB_TEMP_NOW b))
  let s := (blockChannels b).foldl (fun s c => s.updAi c fun x => { x with gen := x.gen + 1 }) s
  s.raise (784 + b) (s.rd (CB_RESIDUAL_VALUE b))

/-! Flash (R432). -/

/-- GEN of a set's bytes, where its CRC holds. -/
def setGen (l : List Byte) : Option Nat :=
  if l.length = 2560 ∧ leNat (l.drop 0x9FC) = (crc32c (l.take 0x9FC)).toNat then some (leNat ((l.drop 8).take 4)) else none

/-- A copy's content (R432): the slot with the highest GEN whose CRC holds. -/
def copyBest (slots : List (List Byte)) : Option (Nat × List Byte) :=
  slots.foldl (fun a l => match setGen l, a with
    | none, a => a
    | some g, none => some (g, l)
    | some g, some b => if b.1 < g then some (g, l) else some b) none

/-- A write of the set in force to the copy with the lower GEN begins (R432). -/
def calSave (s : State) : State :=
  if s.calFlash.write.isSome then s
  else
    let g (o : Option (Nat × List Byte)) := (o.map (·.1)).getD 0
    let g0 := g (copyBest s.calFlash.copy0)
    let g1 := g (copyBest s.calFlash.copy1)
    let copy := if g1 < g0 then 1 else 0
    let gen := max g0 g1 + 1
    let s := s.putSet 8 gen
    let s := (s.putSet 0x10 (Time.sec s.now % 2 ^ 32)).putSet 0x14 (Time.sec s.now / 2 ^ 32 % 2 ^ 16)
    let s := s.putSet 0x9FC (crc32c (s.setBytesInForce.take 0x9FC)).toNat
    let s := (s.wr CAL_NV_GEN_GEN gen).wr CAL_STATUS_NV_BUSY 1
    { s with calFlash := { s.calFlash with write := some (copy, gen, s.setBytesInForce), last := some s.now, held := s.unseated } }

/-- A slot is written into a copy's sector, erased first where none of its 25 slots is. -/
def addSlot (slots : List (List Byte)) (l : List Byte) : List (List Byte) :=
  if slots.length ≥ 25 then [l] else slots ++ [l]

/-- The flash write of a set completes or fails (R432, R472). -/
def calSaved (ok : Bool) (s : State) : State :=
  match s.calFlash.write with
  | none => s
  | some (copy, gen, l) =>
    if s.rd SH_STATUS_STATE ≠ 1 ∨ s.calFlash.held then s
    else
    let f := s.calFlash
    let put := if ok then l else []
    let f := if copy = 0 then { f with copy0 := addSlot f.copy0 put, write := none }
      else { f with copy1 := addSlot f.copy1 put, write := none }
    let s := { s with calFlash := f }.wr CAL_STATUS_NV_BUSY 0
    if ok then (s.wr CAL_STATUS_COPY copy).raise 796 gen
    else (((s.tally CAL_NV_FAIL_TALLY_COUNT).raise 797 0).tally SH_FLASH_FAIL_TALLY_COUNT).raise 870 (0x180 + copy)

/-- A set's bytes come into force. -/
def calInstall (l : List Byte) (s : State) : State :=
  (List.range setWords).foldl (fun s i => s.ww (CAL_SET i) (BitVec.ofNat 32 (leNat ((l.drop (4 * i)).take 4)))) s

/-- At power-up the valid copy with the higher GEN is loaded, else the factory set (R432). -/
def calLoadBoot (s : State) : State :=
  match copyBest [((copyBest s.calFlash.copy0).map (·.2)).getD [], ((copyBest s.calFlash.copy1).map (·.2)).getD []] with
  | some (g, l) => (calInstall l s).wr CAL_NV_GEN_GEN g
  | none =>
    let s := (List.range setWords).foldl (fun s i => s.ww (CAL_SET i) (Config.factoryWord i)) s
    (s.wr CAL_NV_GEN_GEN (s.setWord 8)).raise 797 1

/-! Runs end (R425, R430, R431). -/

/-- A run is accepted (R431, R432). -/
def calAccept (b worst : Nat) (s : State) : State :=
  let x := s.cal b
  let s := calWrite b s
  let traced := if b < 2 then s.rd CAL_REFV_UV_UV ≠ 0 else s.rd TB_CTRL_REF_SEL = 1
  let s := ((s.wr (CB_STATUS_ACCEPTED b) 1).wr (CB_STATUS_USER b) 0).wrIf (CB_STATUS_UNTRACED b) (¬ traced)
  let s := (s.wr ⟨CAL_SET 3, b, b⟩ 0).wr ⟨CAL_SET 3, 4 + b, 4 + b⟩ (if traced then 0 else 1)
  let s := (s.wr (CB_STATUS_STATE b) 0).wr (CB_RUN_TIME_MS b) ((s.now - x.dueAt) / Time.ofMs 1)
  let s := calPending (calTake b (s.wr (CB_RESIDUAL_VALUE b) worst))
  let s := (calClear b s).updCal b fun x => { x with forced := false }
  let held := match s.calFlash.last with
    | none => false
    | some t => decide (s.now < t + Time.ofNs (1000000000 * s.rd CAL_NV_HOLD_SECONDS))
  if held then s else calSave s

/-- A run is rejected (R425): due again after CAL_DEADLINE. -/
def calReject (b worst : Nat) (s : State) : State :=
  let s := ((s.wr (CB_STATUS_REJECTED b) 1).tally (CB_REJECT_TALLY_COUNT b)).wr (CB_RESIDUAL_VALUE b) worst
  let s := (calClear b (s.wr (CB_STATUS_STATE b) 0)).updCal b fun x =>
    { x with forced := false, again := some (s.now + Time.ofMs (s.rd CAL_DEADLINE_MS)) }
  s.raise (792 + b) worst

/-- A block's run finishes (R425, R426). -/
def calComplete (b : Nat) (s : State) : State :=
  if s.rd (CB_STATUS_STATE b) < 2 ∨ ¬ s.calMeasured b then s
  else
    let worst := s.calResidual b
    let s := s.tally (CB_RUN_TALLY_COUNT b)
    let bound := if b < 2 then s.rd CAL_REFV_NOISE_TENTHS_UV else s.rd CAL_REFCLK_JITTER_TENTHS_PS
    if worst ≤ 3 * bound then calAccept b ((worst + 1) / 2) s else calReject b ((worst + 1) / 2) s

/-- A run not accepted in time is deferred (R430). -/
def calDefer (b : Nat) (s : State) : State :=
  if s.rd (CB_STATUS_STATE b) = 0 then s
  else
    let s := (s.updCal b fun x => { x with defers := x.defers + 1 }).tally (CB_DEFER_TALLY_COUNT b)
    s.raise (788 + b) (s.cal b).defers

/-- A change of REFV_UV or of REF_SEL restarts the runs it concerns (R435). -/
def calRestart (analogue : Bool) (s : State) : State :=
  (if analogue then [0, 1] else [2, 3]).foldl (fun s b =>
    if s.rd (CB_STATUS_STATE b) ≥ 2 then (calClear b s).wr (CB_STATUS_STATE b) 2 else s) s

/-! Staging (R434). -/

/-- CAL_CMD.LOAD. -/
def calLoad (s : State) : State := (List.range setWords).foldl (fun s i => s.ww (CAL_STAGE i) (s.rw (CAL_SET i))) s

/-- CAL_CMD.FACTORY. -/
def calFactory (s : State) : State := (List.range setWords).foldl (fun s i => s.ww (CAL_STAGE i) (Config.factoryWord i)) s

/-- Every TAP and every GAIN of the staging set is within its range (R434). -/
def stagingOk (s : State) : Bool :=
  ((List.range 25).all fun l => (List.range 80).all fun k =>
    let off := 0x144 + 84 * l + k
    s.rd ⟨CAL_STAGE (off / 4), off % 4 * 8 + 7, off % 4 * 8⟩ ≤ 127)
  && (List.range 32).all fun i =>
    let g := s.rd ⟨CAL_STAGE (9 + 2 * i), 23, 0⟩
    0x200000 ≤ g && g ≤ 0x600000

/-- Words of the set that hold a block's coefficients. -/
def blockWords (b : Nat) : List Nat :=
  (blockChannels b).flatMap (fun c => (List.range 8).map fun i => 8 + 8 * c + i)
    ++ (blockLines b).flatMap fun l => (List.range 21).map fun i => 80 + 21 * l + i

/-- CAL_CMD.OVERRIDE (R434); whether it applied. -/
def calOverride (mask : Nat) (s : State) : State × Bool :=
  if ¬ s.stagingOk then (s.wr CAL_STATUS_OVR_REFUSED 1, false)
  else
    let s := ((List.range 4).filter mask.testBit).foldl (fun s b =>
      let s := (blockWords b).foldl (fun s i => s.ww (CAL_SET i) (s.rw (CAL_STAGE i))) s
      calTake b ((s.wr (CB_STATUS_USER b) 1).wr ⟨CAL_SET 3, b, b⟩ 1)) s
    (calPending s, true)

end State

/-- CAL_RUN_DUE (R423): the block's sensor reads `temp`. -/
def execCalRunDue (b temp : Nat) (s : State) : Host.Outcome State Fault Refusal := .next (s.calTemp b temp)

/-- CAL_RUN (R423). -/
def execCalRun (blocks : Nat) (s : State) : Host.Outcome State Fault Refusal := .next (s.calRun blocks)

/-- CAL_SAVE (R432). -/
def execCalSave (s : State) : Host.Outcome State Fault Refusal := .next s.calSave

/-- CAL_LOAD (R434). -/
def execCalLoad (s : State) : Host.Outcome State Fault Refusal := .next s.calLoad

/-- CAL_FACTORY (R434). -/
def execCalFactory (s : State) : Host.Outcome State Fault Refusal := .next s.calFactory

/-- CAL_GAP_CONVERSION (R427): the raw code in two's complement of 18 bits. -/
def execCalGapConversion (c raw : Nat) (s : State) : Host.Outcome State Fault Refusal :=
  .next (s.gapConversion c (signed 18 raw))

/-- DELAY_LINE_MEASURE (R426). -/
def execDelayLineMeasure (l : Nat) (counts : List Nat) (s : State) : Host.Outcome State Fault Refusal :=
  .next (s.lineMeasure l counts)

/-- CAL_RUN_COMPLETE (R425). -/
def execCalRunComplete (b : Nat) (s : State) : Host.Outcome State Fault Refusal := .next (s.calComplete b)

/-- CAL_DEADLINE_EXPIRE (R430). -/
def execCalDeadlineExpire (b : Nat) (s : State) : Host.Outcome State Fault Refusal := .next (s.calDefer b)

/-- CAL_NV_SAVE_COMPLETE (R432). -/
def execCalNvSaveComplete (ok : Bool) (s : State) : Host.Outcome State Fault Refusal := .next (s.calSaved ok)

end Sys2Proof.Machine
end

