-- ==== Sys2Proof/Machine/Measure.lean ====
section
/-!
DEFINITION. Measurement (R467, R468): the six indices, their extension, and the log.
-/
namespace Sys2Proof.Machine

/-- Entries of the measurement log. -/
def logEntries : Nat := 1024

/-- The 80 bytes of a log entry (R468). -/
def logBytes (seq : Nat) (e : LogEntry) : List Byte :=
  leBytes 4 e.index ++ leBytes 4 seq ++ timeBytes e.time ++ List.replicate 20 0 ++ e.digest

/-- The bytes of a digest that is a constant of the part. -/
def digestBytes (d : BitVec 384) : List Byte := leBytes 48 d.toNat

namespace State

def updShep (s : State) (g : Shepherd → Shepherd) : State := { s with shep := g s.shep }

/-- The 48 bytes of an index. -/
def meas (s : State) (i : Nat) : List Byte := (List.range 12).flatMap fun j => leBytes 4 (s.rw (SH_MEAS i j)).toNat

def setMeas (i : Nat) (m : List Byte) (s : State) : State :=
  (List.range 12).foldl (fun (s : State) j => s.ww (SH_MEAS i j) (BitVec.ofNat 32 (leNat ((m.drop (4 * j)).take 4)))) s

/-- An extension joins the log while there is room, else LOG_LOST sets (R468). -/
def logExtension (i : Nat) (d : List Byte) (s : State) : State :=
  if s.shep.log.length < logEntries then s.updShep fun x => { x with log := x.log ++ [⟨i, s.now, d⟩] }
  else if s.rd SH_STATUS_LOG_LOST = 1 then s
  else (s.wr SH_STATUS_LOG_LOST 1).raise 873 1

/-- Index `i` is extended with a digest (R467). -/
def extend (i : Nat) (d : List Byte) (s : State) : State :=
  let s := setMeas i (sha384 (s.meas i ++ d)) s
  let s := logExtension i d (s.wr (SH_MEAS_COUNT_COUNT i) (s.rd (SH_MEAS_COUNT_COUNT i) + 1))
  s.raise 868 i

/-- The coefficient set in force is measured (R467). -/
def extendSet (s : State) : State :=
  extend 3 (sha384 ((List.range 640).flatMap fun i => leBytes 4 (s.rw (CAL_SET i)).toNat)) s

/-- A flash write fails twice (R472): its offset in units of 64 KiB. -/
def flashFail (offset : Nat) (s : State) : State := (s.tally SH_FLASH_FAIL_TALLY_COUNT).raise 870 offset

/-- The shepherd serves requests (R463). -/
def shepherdRuns (s : State) : Bool := s.rd SH_STATUS_STATE == 1

end State
end Sys2Proof.Machine
end

