-- ==== Sys2Proof/Machine/Shepherd.lean ====
section
/-!
DEFINITION. The shepherd: uploads (R333, R478), the mailbox (R478), firmware and its start (R464–R466, R477), SPDM and
MCTP (R469–R471), thermal supervision (R473, R474), and the health log (R476).
-/
namespace Sys2Proof.Machine

/-! Firmware (R465). -/

/-- SEQ and body digest of a valid slot. -/
def FirmwareSlot.valid (f : FirmwareSlot) : Option (Nat × List Byte) :=
  if f.shipped then some (Config.shippedSeq.val + 1, digestBytes Config.shippedDigest)
  else
    let n := leNat ((f.raw.drop 12).take 4)
    let digest := (f.raw.drop 16).take 48
    if 132 ≤ f.raw.length ∧ (crc32c (f.raw.take 124)).toNat = leNat ((f.raw.drop 124).take 4)
        ∧ sha384 ((f.raw.drop 128).take n) = digest then some (leNat ((f.raw.drop 8).take 4), digest)
    else none

/-- The slot that the ROM starts: the valid one with the higher SEQ. -/
def firmwareChoice (s : State) : Option (Nat × Nat × List Byte) :=
  match s.shep.fwA.valid, s.shep.fwB.valid with
  | some a, some b => if a.1 < b.1 then some (1, b.1, b.2) else some (0, a.1, a.2)
  | some a, none => some (0, a.1, a.2)
  | none, some b => some (1, b.1, b.2)
  | none, none => none

namespace State

/-- Step 2 of R464: firmware is selected, measured and started, or Recovery is entered. -/
def startFirmware (s : State) : State :=
  match firmwareChoice s with
  | some (slot, seq, digest) =>
    ((extend 1 digest (s.wr SH_STATUS_FW_SLOT slot)).wr SH_FW_SEQ_SEQ seq).wr SH_STATUS_STATE 1
  | none => ((extend 1 (List.replicate 48 0) s).wr SH_STATUS_STATE 3).raise 873 0

/-- INTERRUPTED of a stage (R58); 0: the check. -/
def stageCode : Stage → Nat
  | .quiesce => 1
  | .retain => 2
  | .rollback | .reconfigure => 3
  | .retrain => 4
  | .idle | .waiting | .ready | .programming => 0

/-- An activation is cut (R65): its rollback is due. -/
def cutActivation (s : State) : State :=
  if s.struct.stage.active then
    { s with struct := { s.struct with
        rollbackDue := some (stageCode s.struct.stage), rollbackResult := 3, stage := .idle, next := none } }
  else s

/-! Uploads (R333, R478). -/

/-- The total lengths that BEGIN admits: an image's, or a firmware slot's header and body (R46, R465). -/
def uploadTotalOk (firmware : Bool) (n : Nat) : Bool :=
  n % 4 == 0 && (if firmware then 132 ≤ n && n ≤ 8388608 else 128 ≤ n && n ≤ 4190208)

/-- Bytes received of an upload that this transport has open. -/
def uploadOf (s : State) (t : Transport) (firmware : Bool) : Option Upload :=
  s.struct.upload.filter fun u => u.transport == t && u.firmware == firmware

def setUpload (u : Option Upload) (s : State) : State := { s with struct := { s.struct with upload := u } }

/-- STATUS of a request for which this transport has no upload open: 3 where the mailbox has one (R333), else 1. -/
def noUpload (s : State) (t : Transport) : Nat :=
  match s.struct.upload with
  | some u => if t = .doe ∧ u.transport = .mailbox then 3 else 1
  | none => 1

/-- An image in RAM (R42): STR_RAM_LEN reports its length. -/
def setUploaded (l : List Byte) (s : State) : State :=
  { s with struct := { s.struct with uploaded := l } }.wr STR_RAM_LEN_BYTES l.length

/-- Whether the image in RAM is the one an activation under way comes from. -/
def uploadInUse (s : State) : Bool :=
  s.struct.stage.active && (s.struct.next.map (·.1)) == some 3

/-- One upload request: 1 BEGIN, 2 DATA, 3 END, 4 ABORT, 5 QUERY. STATUS, the progress word, and the state after. -/
def uploadOp (t : Transport) (firmware : Bool) (op arg : Nat) (payload : List Byte) (s : State) : Nat × Nat × State :=
  let mine := s.uploadOf t firmware
  let got := (mine.map fun u => u.bytes.length).getD 0
  if op = 1 then
    if s.struct.upload.isSome ∧ mine.isNone then (3, got, s)
    else if ¬ uploadTotalOk firmware arg then (2, got, s)
    else (0, 0, setUpload (some ⟨t, firmware, arg, []⟩) s)
  else if op = 5 then (0, got, s)
  else match mine with
    | none => (s.noUpload t, 0, s)
    | some u =>
      if op = 2 then
        if arg ≠ got then (1, got, s)
        else if payload.length < 4 ∨ payload.length > 65536 ∨ payload.length % 4 ≠ 0 ∨ got + payload.length > u.total then
          (2, got, s)
        else (0, got + payload.length, setUpload (some { u with bytes := u.bytes ++ payload }) s)
      else if op = 3 then
        if got ≠ u.total then (1, got, s)
        else if s.uploadInUse then (3, got, s)
        else (0, u.total, (setUploaded u.bytes (setUpload none s)).raise 840 0)
      else (0, 0, setUpload none s)

/-- A data object exchange reply of the upload protocol (R332, R333). -/
def doeReply (body : List Byte) (s : State) : State :=
  let n := (8 + body.length + 3) / 4
  (s.emit (.reply 0 ([0x3C#8, 0x1F#8, 0x01#8, 0x00#8] ++ leBytes 4 n ++ body))).raise 839 0

/-- An upload object on the data object exchange mailbox. -/
def uploadObject (op arg : Nat) (payload : List Byte) (s : State) : State :=
  if op < 1 ∨ 5 < op then doeReply (leBytes 1 (op ||| 0x80) ++ leBytes 3 4 ++ leBytes 4 0) s
  else
    let r := uploadOp .doe false op arg payload s
    doeReply (leBytes 1 (op ||| 0x80) ++ leBytes 3 r.1 ++ leBytes 4 r.2.1) r.2.2

/-- An upload object arrives: it waits while the shepherd serves no uploads (R463). -/
def objectArrives (op arg : Nat) (payload : List Byte) (s : State) : State :=
  if s.shepherdRuns then uploadObject op arg payload s
  else s.updShep fun x => { x with objects := x.objects ++ [(op, arg, payload)] }

/-! The mailbox (R478). -/

/-- The result of a mailbox operation: STATUS and the progress word; BUSY falls. -/
def mailboxDone (status progress : Nat) (s : State) : State :=
  (((s.updShep fun x => { x with mailbox := none }).wr SH_MB_CMD_STATUS status).wr SH_MB_CMD_BUSY 0).wr
    SH_MB_REPLY_PROGRESS progress

/-- SH_MB_LEN bytes of SH_MB_DATA. -/
def mailboxBytes (s : State) : List Byte :=
  ((List.range 1024).flatMap fun i => leBytes 4 (s.rw (SH_MB_DATA i)).toNat).take (s.rd SH_MB_LEN_BYTES)

/-- A progress word that no rule gives. -/
def freeProgress (status : Nat) (s : State) : State :=
  let k := s.draw
  mailboxDone status (Config.mailboxProgress k.1).toNat k.2

/-- OP 0x20: log entry ARG in SH_MB_DATA. -/
def readLog (s : State) : State :=
  let i := s.rd SH_MB_ARG_ARG
  match s.shep.log[i]? with
  | none => freeProgress 2 s
  | some e =>
    let l := logBytes i e
    freeProgress 0 ((List.range 20).foldl (fun (s : State) j =>
      s.ww (SH_MB_DATA j) (BitVec.ofNat 32 (leNat ((l.drop (4 * j)).take 4)))) s)

/-- The firmware is started anew (R477): step 2 of R464 alone. -/
def restartFirmware (cause : Nat) (s : State) : State := (startFirmware (cutActivation s)).raise 872 cause

/-- OP 0x13 RESTART: refused during an activation. -/
def restartOp (s : State) : State :=
  if s.struct.stage.active ∨ s.struct.rollbackDue.isSome then freeProgress 6 s
  else freeProgress 0 (restartFirmware 0 s)

/-- An operation that the shepherd serves. -/
def mailboxServe (op : Nat) (s : State) : State :=
  let arg := s.rd SH_MB_ARG_ARG
  let run (firmware : Bool) (o : Nat) : State :=
    let r := uploadOp .mailbox firmware o arg s.mailboxBytes s
    mailboxDone r.1 r.2.1 r.2.2
  let recovery : Bool := s.rd SH_STATUS_STATE == 3
  if 1 ≤ op ∧ op ≤ 5 ∧ ¬ recovery then run false op
  else if op = 0x10 then run true 1
  else if op = 0x11 then run true 2
  else if op = 0x14 then run true 4
  else if op = 0x12 then
    match s.uploadOf .mailbox true with
    | none => mailboxDone (s.noUpload .mailbox) 0 s
    | some u =>
      if u.bytes.length ≠ u.total then mailboxDone 1 u.bytes.length s
      else s.updShep fun x => { x with mailbox := some op }
  else if op = 0x13 then restartOp s
  else if op = 0x20 ∧ ¬ recovery then readLog s
  else mailboxDone 4 0 s

/-- A write of SH_MB_CMD (R478): ignored with GO while BUSY; the operation waits for a shepherd that serves it. -/
def mailboxCmd (fn : Nat) (w : Word) (s : State) : State :=
  if bitsOf w 31 31 = 0 then putWord fn SH_MB_CMD w s
  else if s.rd SH_MB_CMD_BUSY = 1 then s
  else
    let s := (putWord fn SH_MB_CMD w s).wr SH_MB_CMD_BUSY 1
    let op := s.rd SH_MB_CMD_OP
    if s.shepherdRuns ∨ s.rd SH_STATUS_STATE = 3 then mailboxServe op s
    else s.updShep fun x => { x with mailbox := some op }

/-- One mailbox operation, its registers written first. -/
def mailboxOp (op arg : Nat) (data : List Byte) (s : State) : State :=
  if s.rd SH_MB_CMD_BUSY = 1 then s
  else
    let s := (s.wr SH_MB_ARG_ARG arg).wr SH_MB_LEN_BYTES (min data.length 4096)
    let s := (List.range ((min data.length 4096 + 3) / 4)).foldl (fun (s : State) i =>
      s.ww (SH_MB_DATA i) (BitVec.ofNat 32 (leNat ((data.drop (4 * i)).take 4)))) s
    mailboxCmd 0 (BitVec.ofNat 32 (2 ^ 31 + op)) s

/-- The flash write of OP 0x12 ends (R466, R472): the slot that is not running takes the upload, or is left invalid. -/
def firmwareWritten (fail : Bool) (s : State) : State :=
  if s.shep.mailbox ≠ some 0x12 ∨ s.unseated ∨ ¬ (s.shepherdRuns ∨ s.rd SH_STATUS_STATE = 3) then s
  else match s.uploadOf .mailbox true with
    | none => s
    | some u =>
      let slot := 1 - s.rd SH_STATUS_FW_SLOT
      let put (l : List Byte) (s : State) : State := s.updShep fun x =>
        if slot = 0 then { x with fwA := { raw := l } } else { x with fwB := { raw := l } }
      let s := setUpload none s
      if fail then mailboxDone 5 u.total (flashFail (if slot = 0 then 0x80 else 0x100) (put [] s))
      else (mailboxDone 0 u.total (put u.bytes s)).raise 871 (leNat ((u.bytes.drop 8).take 4))

/-- What has waited for the shepherd is served: the mailbox operation, then upload objects, oldest first. -/
def serveWaiting (s : State) : State :=
  let s := match s.shep.mailbox with
    | some op => if op = 0x12 ∧ (s.uploadOf .mailbox true).isSome then s else mailboxServe op s
    | none => s
  let l := s.shep.objects
  l.foldl (fun (s : State) o => uploadObject o.1 o.2.1 o.2.2 s) (s.updShep fun x => { x with objects := [] })

/-! SPDM (R469). Codes and layouts are those of SPDM 1.2 (log entry 45). -/

/-- A response: code, two parameters and what follows. -/
def spdmSend (transport code p1 p2 : Nat) (body : List Byte) (s : State) : State :=
  let version := if code = 0x04 then 0x10 else 0x12
  let s := s.emit (.reply (1 + transport) (leBytes 1 version ++ leBytes 1 code ++ leBytes 1 p1 ++ leBytes 1 p2 ++ body))
  if transport = 0 then s.raise 839 0 else s

/-- An ERROR response. -/
def spdmError (transport code data : Nat) (s : State) : State := spdmSend transport 0x7F code data [] s

/-- A response with a signature (R469, R480). -/
def spdmSigned (transport code p1 p2 : Nat) (body : List Byte) (s : State) : State :=
  let k := s.draw
  let n := leBytes 32 (Config.nonce k.1).toNat
  let sig := leBytes 96 (Config.signature k.1).toNat
  (spdmSend transport code p1 p2 (body ++ n ++ sig) k.2).raise 869 transport

/-- A measurement block of the DMTF form (R467, R469). -/
def measBlock (s : State) (b : Nat) : List Byte :=
  leBytes 1 b ++ leBytes 1 1 ++ leBytes 2 51 ++ leBytes 1 (Config.measurementType b).val ++ leBytes 2 48 ++ s.meas (b - 1)

/-- The code a request carries. -/
def spdmCode : SpdmRequest → Nat
  | .version => 0x84
  | .capabilities => 0xE1
  | .algorithms => 0xE3
  | .digests => 0x81
  | .certificate _ _ _ => 0x82
  | .challenge _ _ => 0x83
  | .measurements _ _ _ => 0xE0
  | .respondIfReady _ _ => 0xFF
  | .other c => c

/-- The response to a request that the shepherd serves. -/
def spdmServe (transport : Nat) (r : SpdmRequest) (s : State) : State :=
  match r with
  | .version => spdmSend transport 0x04 0 0 (leBytes 1 0 ++ leBytes 1 1 ++ leBytes 2 0x1200) s
  | .capabilities =>
    spdmSend transport 0x61 0 0 (leBytes 1 0 ++ leBytes 1 16 ++ leBytes 2 0 ++ leBytes 4 0x16 ++ leBytes 8 Config.spdmSizes.toNat) s
  | .algorithms =>
    spdmSend transport 0x63 0 0 (leBytes 2 36 ++ leBytes 1 1 ++ leBytes 1 0 ++ leBytes 4 4 ++ leBytes 4 0x80 ++ leBytes 4 2
      ++ leBytes 16 0) s
  | .digests => spdmSend transport 0x01 0 1 (sha384 Config.certificates) s
  | .certificate slot off len =>
    if slot ≠ 0 then spdmError transport 1 0 s
    else
      let part := (Config.certificates.drop off).take len
      spdmSend transport 0x02 0 0 (leBytes 2 part.length ++ leBytes 2 (Config.certificates.length - off - part.length) ++ part) s
  | .challenge slot _ =>
    if slot ≠ 0 then spdmError transport 1 0 s
    else spdmSigned transport 0x03 0 1 (sha384 Config.certificates) s
  | .measurements op sign _ =>
    let blocks := if op = 0xFF then [1, 2, 3, 4, 5, 6] else if 1 ≤ op ∧ op ≤ 6 then [op] else []
    if blocks.isEmpty ∧ op ≠ 0 then spdmError transport 1 0 s
    else
      let rec_ := blocks.flatMap s.measBlock
      let body := leBytes 1 blocks.length ++ leBytes 3 rec_.length ++ rec_
      let p1 := if op = 0 then 6 else 0
      if sign then spdmSigned transport 0x60 p1 0 body s
      else
        let k := s.draw
        spdmSend transport 0x60 p1 0 (body ++ leBytes 32 (Config.nonce k.1).toNat ++ leBytes 2 0) k.2
  | .respondIfReady _ _ => spdmError transport 4 0 s
  | .other c => spdmError transport 7 c s

def deferredOf (s : State) (transport : Nat) : Option SpdmRequest := tget (fun _ => none) s.shep.deferred transport

def setDeferred (transport : Nat) (r : Option SpdmRequest) (s : State) : State :=
  s.updShep fun x => { x with deferred := tset (fun _ => none) x.deferred transport r }

/-- ERROR ResponseNotReady (R469): the request is kept under a token. -/
def spdmNotReady (transport : Nat) (r : SpdmRequest) (s : State) : State :=
  let token := (s.shep.token + 1) % 256
  let s := setDeferred transport (some r) (s.updShep fun x => { x with token := token })
  spdmSend transport 0x7F 0x42 0 (leBytes 1 0 ++ leBytes 1 (spdmCode r) ++ leBytes 1 token ++ leBytes 1 0) s

/-- A request (R469): until the firmware and the identity are in place, ResponseNotReady. -/
def spdmRequest (transport : Nat) (r : SpdmRequest) (s : State) : State :=
  match r with
  | .respondIfReady code token =>
    match s.deferredOf transport with
    | none => spdmError transport 4 0 s
    | some q =>
      if spdmCode q ≠ code ∨ s.shep.token ≠ token then spdmError transport 1 0 s
      else if s.shepherdRuns then spdmServe transport q (setDeferred transport none s)
      else spdmNotReady transport q s
  | _ => if s.shepherdRuns then spdmServe transport r s else spdmNotReady transport r s

/-- An MCTP control response (R470): instance and command, completion code, and data. -/
def mctpReply (cmd code : Nat) (data : List Byte) (s : State) : State :=
  s.emit (.reply 3 (leBytes 1 cmd ++ leBytes 1 code ++ data))

/-! Health (R476). -/

/-- Positions of the health log, and entries of a sector. -/
def healthPlaces : Nat := 8192
def healthSector : Nat := 512

/-- The lifetime tallies: their registers' keys. -/
def healthKeys : List Nat :=
  [SH_HOURS, SH_BOOTS, SH_WDOG_TALLY, SH_TRIP_TALLY, SH_THROTTLE_MS, SH_FLASH_FAIL_TALLY] ++ (List.range 12).map SH_TH_MAX

/-- The entry in force: the highest sequence. -/
def healthBest (s : State) : Option HealthEntry :=
  (s.shep.health.filterMap (·.2)).foldl (fun a e => match a with
    | none => some e
    | some b => if b.seq < e.seq then some e else a) none

/-- The tallies are appended (R476), or the write fails (R472); a sector is erased before it is entered. -/
def healthAppend (fail : Bool) (s : State) : State :=
  let pos := s.shep.healthNext
  let log := if pos % healthSector = 0 then
      s.shep.health.filter fun e => e.1 < pos || pos + healthSector ≤ e.1
    else s.shep.health
  let seq := ((s.healthBest.map (·.seq)).getD 0 + 1) % 2 ^ 32
  let entry : HealthEntry := ⟨seq, healthKeys.map s.rw⟩
  let log := if fail then log else tset (fun _ => none) log pos (some entry)
  let s := s.updShep fun x => { x with health := log, healthNext := (pos + 1) % healthPlaces }
  if fail then flashFail (0x185 + pos / healthSector) s else s

/-- The 60 s write (R476): sixty of them make an hour. -/
def healthWrite (fail : Bool) (s : State) : State :=
  if ¬ s.shepherdRuns ∨ s.unseated then s
  else
    let n := s.shep.minutes + 1
    let s := s.updShep fun x => { x with minutes := n % 60 }
    healthAppend fail (if n = 60 then s.tally SH_HOURS_COUNT else s)

/-- At boot the valid entry with the highest sequence is loaded (R476). -/
def healthLoad (s : State) : State :=
  match s.healthBest with
  | none => s
  | some e => (healthKeys.zip e.words).foldl (fun (s : State) x => s.ww x.1 x.2) s

/-! Thermal supervision (R473, R474). -/

/-- T_f of fold f, in 1/16 °C. -/
def governing (temps : List Int) (f : Nat) : Int :=
  let t (i : Nat) : Int := temps.getD i 0
  max (t f) (max (max (t 8) (t 9)) (max (t 10) (t 11)))

/-- The threshold of step j, from 1 (R474). -/
def stepThreshold (s : State) (j : Nat) : Int :=
  ((16 * s.rd SH_TH_CFG_START + (j - 1) * s.rd SH_TH_CFG_STEP : Nat) : Int)

/-- The largest step whose threshold a temperature has reached. -/
def stepReached (s : State) (t : Int) : Nat :=
  ((List.range 7).filter fun i => s.stepThreshold (i + 1) ≤ t).length

def stepRef (f : Nat) : FRef := ⟨SH_THROTTLE, 4 * f + 2, 4 * f⟩

/-- The step a fold's sensors ask for now, of step `k` (R474): one up, one down, or no change. -/
def stepNext (s : State) (t : Int) (k : Nat) : Nat :=
  if k < s.stepReached t then k + 1
  else if 0 < k ∧ t < s.stepThreshold k - s.rd SH_TH_CFG_HYST then k - 1
  else k

/-- One sample's work on a fold: its step moves no more than once in ten samples. -/
def stepFold (temps : List Int) (f : Nat) (s : State) : State :=
  let hold := tget (fun _ => 0) s.shep.hold f
  let setHold (n : Nat) (s : State) : State := s.updShep fun x => { x with hold := tset (fun _ => 0) x.hold f n }
  let k := s.rd (stepRef f)
  let want := s.stepNext (governing temps f) k
  if hold > 1 then setHold (hold - 1) s
  else if want = k then setHold 0 s
  else setHold 10 (s.wr (stepRef f) want)

/-- A joined pair takes the higher step of its two folds (R474). -/
def stepJoin (s : State) : State :=
  match s.struct.image with
  | none => s
  | some im => (im.folds.filter fun e => e.join != 255).foldl (fun (s : State) e =>
      let k := max (s.rd (stepRef e.fold)) (s.rd (stepRef (e.fold + 1)))
      (s.wr (stepRef e.fold) k).wr (stepRef (e.fold + 1)) k) s

/-- EV898 (R501). -/
def thermalWarn (temps : List Int) (s : State) : State :=
  let warn : Int := ((16 * s.rd SH_TH_CFG_WARN : Nat) : Int)
  if s.shep.warned then
    if temps.all fun t => t ≤ warn - 32 then s.updShep fun x => { x with warned := false } else s
  else match (List.range temps.length).find? fun i => warn ≤ temps.getD i 0 with
    | some i => (s.updShep fun x => { x with warned := true }).raise 898 i
    | none => s

/-- The sensors' readings, and their lifetime maxima. -/
def thermalRead (temps : List Nat) (s : State) : State :=
  temps.zipIdx.foldl (fun (s : State) x =>
    let s := s.wr (SH_TEMP_NOW x.2) x.1
    if signed 16 (s.rd (SH_TH_MAX_MAX x.2)) < signed 16 x.1 then s.wr (SH_TH_MAX_MAX x.2) x.1 else s) s

/-- SH_THROTTLE_MS counts ms with a fold above step 0: ten samples of 100 µs. -/
def throttleMs (s : State) : State :=
  if s.rw SH_THROTTLE = 0 then s
  else if s.shep.throttled = 9 then (s.updShep fun x => { x with throttled := 0 }).tally SH_THROTTLE_MS_COUNT
  else s.updShep fun x => { x with throttled := x.throttled + 1 }

end State

/-- DOE_DISCOVERY (R332): the protocol at an index, and the next. -/
def execDoeDiscovery (index : Nat) (s : State) : Host.Outcome State Fault Refusal :=
  .next ((s.emit (.reply 0 ([0x01#8, 0x00#8, 0x00#8, 0x00#8] ++ leBytes 4 3
    ++ (if index = 0 then [0x01#8, 0x00#8, 0x00#8, 0x01#8] else if index = 1 then [0x01#8, 0x00#8, 0x01#8, 0x02#8]
      else if index = 2 then [0x3C#8, 0x1F#8, 0x01#8, 0x00#8] else [0xFF#8, 0xFF#8, 0xFF#8, 0x00#8])))).raise 839 0)

/-- An upload request on either transport (R333, R478). -/
def uploadRequest (mailbox : Bool) (op arg : Nat) (data : List Byte) (s : State) : State :=
  if mailbox then s.mailboxOp op arg data else s.objectArrives op arg data

/-- UPLOAD_BEGIN (R333). -/
def execUploadBegin (mailbox : Bool) (total : Nat) (s : State) : Host.Outcome State Fault Refusal :=
  .next (uploadRequest mailbox 1 total [] s)

/-- UPLOAD_DATA (R333). -/
def execUploadData (mailbox : Bool) (offset : Nat) (data : List Byte) (s : State) : Host.Outcome State Fault Refusal :=
  .next (uploadRequest mailbox 2 offset data s)

/-- UPLOAD_END (R333). -/
def execUploadEnd (mailbox : Bool) (s : State) : Host.Outcome State Fault Refusal := .next (uploadRequest mailbox 3 0 [] s)

/-- UPLOAD_ABORT (R333). -/
def execUploadAbort (mailbox : Bool) (s : State) : Host.Outcome State Fault Refusal := .next (uploadRequest mailbox 4 0 [] s)

/-- UPLOAD_QUERY (R333). -/
def execUploadQuery (mailbox : Bool) (s : State) : Host.Outcome State Fault Refusal := .next (uploadRequest mailbox 5 0 [] s)

/-- UPLOAD_UNKNOWN_OP (R333): an OP that names no request of either transport. -/
def execUploadUnknownOp (mailbox : Bool) (op : Nat) (s : State) : Host.Outcome State Fault Refusal :=
  .next (if (1 ≤ op ∧ op ≤ 5) ∨ (mailbox ∧ ((0x10 ≤ op ∧ op ≤ 0x14) ∨ op = 0x20)) then s else uploadRequest mailbox op 0 [] s)

/-- FIRMWARE_BEGIN (R478): OP 0x10. -/
def execFirmwareBegin (total : Nat) (s : State) : Host.Outcome State Fault Refusal := .next (s.mailboxOp 0x10 total [])

/-- FIRMWARE_DATA (R478): OP 0x11. -/
def execFirmwareData (offset : Nat) (data : List Byte) (s : State) : Host.Outcome State Fault Refusal :=
  .next (s.mailboxOp 0x11 offset data)

/-- FIRMWARE_END (R466, R478): OP 0x12 and the end of its flash write. -/
def execFirmwareEnd (fail : Bool) (s : State) : Host.Outcome State Fault Refusal :=
  .next ((s.mailboxOp 0x12 0 []).firmwareWritten fail)

/-- FIRMWARE_ABORT (R478): OP 0x14. -/
def execFirmwareAbort (s : State) : Host.Outcome State Fault Refusal := .next (s.mailboxOp 0x14 0 [])

/-- READ_LOG_ENTRY (R478): OP 0x20. -/
def execReadLogEntry (entry : Nat) (s : State) : Host.Outcome State Fault Refusal := .next (s.mailboxOp 0x20 entry [])

/-- SHEPHERD_RESTART (R477, R478): OP 0x13. -/
def execShepherdRestart (s : State) : Host.Outcome State Fault Refusal := .next (s.mailboxOp 0x13 0 [])

def spdmTransport (smbus : Bool) : Nat := if smbus then 1 else 0

/-- SPDM_GET_VERSION (R469). -/
def execSpdmGetVersion (smbus : Bool) (s : State) : Host.Outcome State Fault Refusal :=
  .next (s.spdmRequest (spdmTransport smbus) .version)

/-- SPDM_GET_CAPABILITIES (R469). -/
def execSpdmGetCapabilities (smbus : Bool) (s : State) : Host.Outcome State Fault Refusal :=
  .next (s.spdmRequest (spdmTransport smbus) .capabilities)

/-- SPDM_NEGOTIATE_ALGORITHMS (R469). -/
def execSpdmNegotiateAlgorithms (smbus : Bool) (s : State) : Host.Outcome State Fault Refusal :=
  .next (s.spdmRequest (spdmTransport smbus) .algorithms)

/-- SPDM_GET_DIGESTS (R469). -/
def execSpdmGetDigests (smbus : Bool) (s : State) : Host.Outcome State Fault Refusal :=
  .next (s.spdmRequest (spdmTransport smbus) .digests)

/-- SPDM_GET_CERTIFICATE (R469, R471). -/
def execSpdmGetCertificate (smbus : Bool) (slot off len : Nat) (s : State) : Host.Outcome State Fault Refusal :=
  .next (s.spdmRequest (spdmTransport smbus) (.certificate slot off len))

/-- SPDM_CHALLENGE (R469). -/
def execSpdmChallenge (smbus : Bool) (slot : Nat) (nonce : List Byte) (s : State) : Host.Outcome State Fault Refusal :=
  .next (s.spdmRequest (spdmTransport smbus) (.challenge slot nonce))

/-- SPDM_GET_MEASUREMENTS (R469). -/
def execSpdmGetMeasurements (smbus : Bool) (op : Nat) (sign : Bool) (nonce : List Byte) (s : State) :
    Host.Outcome State Fault Refusal := .next (s.spdmRequest (spdmTransport smbus) (.measurements op sign nonce))

/-- SPDM_RESPOND_IF_READY (R469). -/
def execSpdmRespondIfReady (smbus : Bool) (code token : Nat) (s : State) : Host.Outcome State Fault Refusal :=
  .next (s.spdmRequest (spdmTransport smbus) (.respondIfReady code token))

/-- Request codes that R469 supports. -/
def spdmSupported : List Nat := [0x84, 0xE1, 0xE3, 0x81, 0x82, 0x83, 0xE0, 0xFF]

/-- SPDM_UNSUPPORTED_REQUEST (R469): a code that R469 does not support. -/
def execSpdmUnsupportedRequest (smbus : Bool) (code : Nat) (s : State) : Host.Outcome State Fault Refusal :=
  .next (if spdmSupported.contains code then s else s.spdmRequest (spdmTransport smbus) (.other code))

/-- MCTP_SET_ENDPOINT_ID (R470). -/
def execMctpSetEndpointId (eid : Nat) (s : State) : Host.Outcome State Fault Refusal :=
  .next ((s.updShep fun x => { x with eid := eid }).mctpReply 1 0 (leBytes 1 0 ++ leBytes 1 eid ++ leBytes 1 0))

/-- MCTP_GET_ENDPOINT_ID (R470). -/
def execMctpGetEndpointId (s : State) : Host.Outcome State Fault Refusal :=
  .next (s.mctpReply 2 0 (leBytes 1 s.shep.eid ++ leBytes 1 0 ++ leBytes 1 0))

/-- MCTP_GET_VERSION_SUPPORT (R470): the base specification 1.3. -/
def execMctpGetVersionSupport (s : State) : Host.Outcome State Fault Refusal :=
  .next (s.mctpReply 4 0 (leBytes 1 1 ++ [0xF1#8, 0xF3#8, 0xF0#8, 0x00#8]))

/-- MCTP_GET_MESSAGE_TYPE_SUPPORT (R470): type 0x05. -/
def execMctpGetMessageTypeSupport (s : State) : Host.Outcome State Fault Refusal :=
  .next (s.mctpReply 5 0 (leBytes 1 1 ++ leBytes 1 5))

/-- HEALTH_LOG_WRITE (R476). -/
def execHealthLogWrite (fail : Bool) (s : State) : Host.Outcome State Fault Refusal := .next (s.healthWrite fail)

/-- CAL_OVERRIDE (R434, R467): an override that is applied extends index 3. -/
def State.calOverrideCmd (mask : Nat) (s : State) : State :=
  let r := s.calOverride mask
  if r.2 then r.1.extendSet else r.1

/-- CAL_OVERRIDE. -/
def execCalOverride (blocks : Nat) (s : State) : Host.Outcome State Fault Refusal := .next (s.calOverrideCmd blocks)

end Sys2Proof.Machine
end

