-- ==== Sys2Proof/Machine/Access.lean ====
section
/-!
DEFINITION. The register map in use (R6–R16, R529–R531): what is defined at an offset, what a capture function may do
there, what a write does beyond its access codes, and what a read shows and leaves. The registers that start an
activation or a reset are in `Host`.
-/
namespace Sys2Proof.Machine

/-- Registers of which every function has its own (R271, R336, R343, R530). -/
def privateReg (off : Nat) : Bool :=
  off == 8 || (0x600080 ≤ off && off < 0x600090) || (0xF00000 ≤ off && off < 0xF04000)
    || (0xF10000 ≤ off && off < 0xF1008C) || (0xF40000 ≤ off && off < 0xF41020)

/-- The key of the register that function `fn` meets at an offset. -/
def regKey (fn off : Nat) : Nat := if privateReg off then fnKey fn off else off

/-- A fold header block (R25). -/
def isHeader (off : Nat) : Bool := off % 64 < 0x3C && (nodeAt off).isSome

/-- The event source, pen, channel, lane, port, context an offset lies at, in its block's arithmetic. -/
def viewSource (off : Nat) : Nat := (off - 0xF00000) / 16
def penNumber (off : Nat) : Nat := (off - 0x1000000) / 64
def chNumber (off : Nat) : Nat := 256 * ((off - 0x800000) / 0x10000) + (off % 0x10000 - 0x4000) / 64
def portNumber (off : Nat) : Nat := (off - 0x300000) / 0x2000

/-- The stream of a stream window in a port window (R184). -/
def windowStream (off : Nat) : Nat := 4 * portNumber off + (off % 0x2000 - 0x800) / 0x100

/-- The context a fold, statistics or coder window belongs to: fold and context (R213, R231, R247). -/
def windowContext (off : Nat) : Nat × Nat :=
  if off < 0x500000 then ((off - 0x400000) / 0x20000, (off - 0x400000) % 0x20000 / 0x100 - 0x100)
  else if off < 0x580000 then ((off - 0x500000) / 0x10000, (off - 0x500000) % 0x10000 / 0x100)
  else ((off - 0x5A0000) / 0x2000, (off - 0x5A0000) % 0x2000 / 0x20)

/-- A function's access to a register (R13, R531). -/
inductive Right
  | hidden | read | full
deriving DecidableEq, Repr

namespace State

/-- Whether a register is defined at an offset (R12): the joined fold's header only where the pair is joined (R213), and
one stream window in the parallel port's (R184). -/
def defined (s : State) (off : Nat) : Bool :=
  (regAt off).isSome && !(0x330900 ≤ off && off < 0x330C00)
    && (match nodeAt off with
      | some (.joined f) => s.treeJoins.contains f
      | _ => true)

def rightIf (c : Bool) (r : Right) : Right := if c then r else .hidden

/-- The blocks of which a capture function sees a part, with no count of what it misses (R58, R461, R481). -/
def closedBlock (off : Nat) : Bool :=
  (0x100000 ≤ off && off < 0x100028) || (0xE00000 ≤ off && off < 0xE08800) || (0xF80000 ≤ off && off < 0xF82000)

/-- What a capture function may do at an offset (R531 and the rules it names). -/
def cfRight (s : State) (fn off : Nat) : Right :=
  let seen (r : Right) : Right := match nodeAt off with
    | some x => rightIf (s.nodeSeen fn x) r
    | none => .hidden
  if isHeader off then seen .read
  else if off < 0x1000 then
    if 0x800 ≤ off ∧ off < 0xA00 then rightIf ((off - 0x800) / 0x40 + 1 == fn) .read
    else if off = 0xA00 then .hidden else .read
  else if off < 0x200000 then rightIf (off == 0x100004 || off == 0x10000C) .read
  else if off < 0x300000 then
    let n := (off - 0x200000) / 0x1000
    rightIf (n < 48 && (s.laneEntry n).any fun e => s.ownsPort fn e.port) .read
  else if off < 0x400000 then
    let P := portNumber off
    let o := off % 0x2000
    if 0x800 ≤ o then rightIf (s.streamOwner (windowStream off) == fn) .full
    else if P < 24 ∧ ((0x110 ≤ o ∧ o < 0x120) ∨ 0x400 ≤ o) ∧ s.mayCamera fn P then .full
    else rightIf (s.ownsPort fn P) .read
  else if off < 0x500000 then
    if (off - 0x400000) % 0x20000 < 0x10000 then .read
    else rightIf (s.mayContext fn (windowContext off).1 (windowContext off).2) .full
  else if off < 0x5C0000 then rightIf (s.mayContext fn (windowContext off).1 (windowContext off).2) .full
  else if off < 0x600000 then rightIf (s.streamOwner ((off - 0x5C0000) / 0x40) == fn) .full
  else if off < 0x610000 then
    if 0x600040 ≤ off ∧ off < 0x600080 then rightIf ((off - 0x600040) / 8 + 1 == fn) .read
    else if 0x600080 ≤ off then .full else .read
  else if off < 0x620000 then rightIf (s.groupOwner ((off - 0x610000) / 0x100) == fn) .full
  else if off < 0x800000 then rightIf (s.streamOwner ((off - 0x620000) / 0x80) == fn) .full
  else if off < 0x900000 then
    let o := off % 0x10000
    if o < 0x4000 then if 0x40 ≤ o ∧ o < 0x60 then .full else .read
    else rightIf (s.mayChannel fn (chNumber off)) .full
  else if 0xB00000 ≤ off ∧ off < 0xB01800 then
    let o := off % 0x100
    if (o = 0x28 ∨ (0x40 ≤ o ∧ o < 0x60)) ∧ s.mayCommit fn ((off - 0xB00000) / 0x100) then .full else .read
  else if off < 0xE00000 then .read
  else if off < 0xF00000 then .hidden
  else if off < 0xF04000 then rightIf (s.sees fn (viewSource off)) .full
  else if off < 0xF62000 then .full
  else if off < 0xF80000 then .read
  else if off < 0x1000000 then
    rightIf (off == SH_STATUS || off == SH_THROTTLE || (SH_TEMP 0 ≤ off && off < SH_TEMP 12)) .read
  else rightIf (s.owner (penNumber off) == fn) .full

def right (s : State) (fn off : Nat) : Right := if fn = 0 then .full else s.cfRight fn off

/-- The bits of a word that are a function's own: notice bits of pens and of channels (R292, R319). -/
def ownBits (s : State) (fn off : Nat) : Word :=
  if fn = 0 then 0xFFFFFFFF#32
  else if 0xF60000 ≤ off ∧ off < 0xF62000 then
    let first := (off - 0xF60000) / 0x40 * 512 + off % 0x40 / 4 * 32
    BitVec.ofNat 32 (bitMask 32 fun i => s.owner (first + i) == fn)
  else if 0x800000 ≤ off ∧ off < 0x900000 ∧ 0x40 ≤ off % 0x10000 ∧ off % 0x10000 < 0x60 then
    let first := 256 * ((off - 0x800000) / 0x10000) + (off % 0x10000 - 0x40) * 8
    BitVec.ofNat 32 (bitMask 32 fun i => s.chOwner (first + i) == fn)
  else 0xFFFFFFFF#32

/-! Writes. -/

def bitOn (w : Word) (i : Nat) : Bool := w.toNat.testBit i

/-- FH_CONTROL of a fold (R25): ENABLE and HALT, then RESET. -/
def headerWrite (off : Nat) (w : Word) (s : State) : State :=
  if off % 64 ≠ 0x14 then s
  else
    let base := off - 0x14
    let s := s.wrIf (FH_CONTROL_HALT base) (bitOn w 2)
    let s := if s.rd (FH_CONTROL_ENABLE base) = bitsOf w 0 0 then s else foldEnable base (bitOn w 0) s
    match nodeAt off with
    | some x => if bitOn w 1 then nodeReset s x else s
    | none => s

def laneWrite (fn off : Nat) (w : Word) (s : State) : State :=
  let n := (off - 0x200000) / 0x1000
  let o := off % 0x1000
  if o = 0x40 then laneCtrl fn n w s
  else if o = 0x48 then if 1 ≤ bitsOf w 1 0 then laneRequest n (bitsOf w 1 0) s else s.accErr fn
  else if o = 0x4C ∨ o = 0x50 then tapWrite fn off w s
  else if o = 0x54 ∨ o = 0x58 then eqWrite fn n off w s
  else if o = 0x5C then adaptWrite fn n w s
  else if o = 0x6C then alignSlip fn n w s
  else if o = 0x80 then scanWrite fn n w s
  else if o = 0x94 then patternWrite fn n w s
  else putWord fn off w s

/-- A stream window (R184, R232): TRIG_BIND moves the Img value of EG_CTRL. -/
def streamWrite (fn off : Nat) (w : Word) (s : State) : State :=
  let st := windowStream off
  let s' := putWord fn off w s
  if off % 0x100 = 0 ∧ s.rd (ST_CTRL_TRIG_BIND (portOf st) (st % 4)) ≠ s'.rd (ST_CTRL_TRIG_BIND (portOf st) (st % 4)) then
    egImg st s'
  else s'

def portWrite (fn off : Nat) (w : Word) (s : State) : State :=
  let P := portNumber off
  let o := off % 0x2000
  if 0x800 ≤ o then streamWrite fn off w s
  else if o = 0x40 then linkCtrl fn P w s
  else if o = 0x90 then probeWrite fn P w s
  else if o = 0x118 then camCommand fn P w s
  else if P = 24 ∧ o = 0x12C then alignWrite fn w s
  else if P = 24 ∧ o = 0x138 then serialSend (bitsOf w 7 0) s
  else putWord fn off w s

/-- Software has written a shadow register of a context. -/
def shadowWritten (h : Nat × Nat) (o : Nat) (s : State) : State :=
  s.updCtx (ctxKey h) fun x => { x with written := if x.written.contains o then x.written else o :: x.written }

/-- Context, statistics and coder windows (R208–R210, R231, R246): software has written a shadow register. -/
def contextWrite (fn off : Nat) (w : Word) (s : State) : State :=
  let h := windowContext off
  if off < 0x500000 then
    let o := off % 0x100
    if o = 0 then
      let s := if bitOn w 31 then contextReq h.1 h.2 s else s
      if bitOn w 30 then contextCancel h.1 h.2 s else s
    else
      let s := putWord fn off w s
      if 0x40 ≤ o ∧ o < 0x80 then shadowWritten h (o - 0x40) s else s
  else
    let s := putWord fn off w s
    if off < 0x580000 then
      if off % 0x100 < 0x40 then shadowWritten h (0x40 + off % 0x100) s else s
    else if off % 0x20 = 0 then s.updCtx (ctxKey h) fun x => { x with coderWritten := true } else s

/-- A grant of the table and pen area lies within pages 128 to 4,095 (R250). -/
def areaWrite (fn off : Nat) (w : Word) (s : State) : State :=
  let s' := putWord fn off w s
  let n := (off - 0x600040) / 8
  if s'.rd (PD_FN_AREA_FIRST_PAGES n) + s'.rd (PD_FN_AREA_COUNT_PAGES n) > 4096 ∧ s'.rw off ≠ s.rw off then s.accErr fn else s'

def paddockWrite (fn off : Nat) (w : Word) (s : State) : State :=
  if off < 0x610000 then
    if 0x600040 ≤ off ∧ off < 0x600080 then areaWrite fn off w s
    else if off = 0x600080 then
      let s := putWord fn (PD_FIND_CTRL fn) w s
      if bitOn w 31 then frameFind fn s else s
    else putWord fn (regKey fn off) w s
  else if off < 0x620000 then
    let g := (off - 0x610000) / 0x100
    let o := off % 0x100
    if o = 0 then fgCmd g w s
    else if o = 4 ∨ o = 8 ∨ o = 0xC then fgConfig fn g off w s
    else putWord fn off w s
  else
    let st := (off - 0x620000) / 0x80
    let o := off % 0x80
    if o = 0 then if bitOn w 31 then burstRearm st s else s
    else if o = 0xC ∨ o = 0x10 then smallCheck st (putWord fn off w s)
    else putWord fn off w s

def droverWrite (fn off : Nat) (w : Word) (s : State) : State :=
  if off % 0x10000 < 0x4000 then putWord fn off w s
  else
    let c := chNumber off
    let o := off % 0x40
    if o = 0 then chCtrl fn c w s
    else if o = 4 ∨ o = 8 ∨ (0x10 ≤ o ∧ o < 0x24) then chConfig fn c off w s
    else putWord fn off w s

/-- TB_CTRL (R353–R355, R361, R368): the selections, then a cancel or a force of the join; cancel governs. -/
def tbCtrl (fn : Nat) (w : Word) (s : State) : State :=
  let s := s.refSel (bitsOf w 1 1)
  let s := s.joinStart (bitsOf w 0 0)
  let s := putWord fn TB_CTRL w s
  if bitOn w 30 then s.joinCancel else if bitOn w 31 then s.joinForce else s

/-- A write of TD_PTP_CFG (R357): one that gives both counters the same DOMAIN, with both ROLE fields non-zero, leaves the
register as it was (R11). -/
def ptpCfgWrite (fn d : Nat) (w : Word) (s : State) : State :=
  let s' := putWord fn (TD_PTP_CFG d) w s
  let key (s : State) := (s.rd (TD_PTP_CFG_ROLE d), s.rd (TD_PTP_CFG_DOMAIN_AUTO d), s.rd (TD_PTP_CFG_DOMAIN d))
  if s'.rw (TD_PTP_CFG d) ≠ s.rw (TD_PTP_CFG d) ∧ s'.rd (TD_PTP_CFG_ROLE 0) ≠ 0 ∧ s'.rd (TD_PTP_CFG_ROLE 1) ≠ 0
      ∧ s'.rd (TD_PTP_CFG_DOMAIN 0) = s'.rd (TD_PTP_CFG_DOMAIN 1) then s.accErr fn
  else if key s = key s' then s' else s'.ptpCfgChanged d

def timeWrite (fn off : Nat) (w : Word) (s : State) : State :=
  if off = TB_CTRL then tbCtrl fn w s
  else if 0x900100 ≤ off ∧ off < 0x900300 then
    let d := (off - 0x900100) / 0x100
    let o := off % 0x100
    if o = 4 then s.incCommit fn d (bitsOf w 7 0)
    else if o = 0x10 then s.adjustStart fn d w.toNat
    else if o = 0x2C then
      let s := if bitOn w 31 && bitOn w 30 then s.accErr fn
        else if bitOn w 31 then s.timeSet d
        else if bitOn w 30 then s.setOnPps d else s
      if bitOn w 29 then s.loseHistory d else s
    else if o = 0x34 then
      ptpCfgWrite fn d w s
    else putWord fn off w s
  else if 0x901000 ≤ off then
    let k := (off - 0x901000) / 0x20
    let o := off % 0x20
    if o = 0 then
      let s := putWord fn off w s
      if bitOn w 30 then s.slotDisarm k else if bitOn w 31 then s.slotArm k else s
    else if o < 0x1C ∧ s.rd (TC_CTRL_ARMED k) = 1 then s
    else putWord fn off w s
  else putWord fn off w s

def encoderWrite (fn off : Nat) (w : Word) (s : State) : State :=
  if off < 0xA08000 then
    let k := (off - 0xA00000) / 0x1000
    let o := off % 0x1000
    if o = 0 then encCtrl fn k w s
    else if o = 4 then encCmd k w s
    else if o = 0x1C ∨ o = 0x24 then encLimit fn k (putWord fn off w s)
    else if o = 0x60 then cmpCtrl fn k w s
    else if o = 0x70 then cmpWrite k w s
    else putWord fn off w s
  else
    let s := putWord fn off w s
    if off % 0x100 = 4 ∧ bitOn w 31 then absAsk ((off - 0xA08000) / 0x100) s else s

/-- A write of TR_OUT (R409): the pin takes its new level. -/
def outWrite (fn n off : Nat) (w : Word) (s : State) : State :=
  showPin n (s.pinLevel n) s.now (putWord fn off w s)

def triggerWrite (fn off : Nat) (w : Word) (s : State) : State :=
  if off < 0xB02000 then
    let n := (off - 0xB00000) / 0x100
    let o := off % 0x100
    if o = 0 then trigCtrl fn n w s
    else if o = 0x10 then outWrite fn n off w s
    else if o = 0x28 then trigCommit n w s
    else putWord fn off w s
  else if off = 0xB02000 then softwareTrigger (bitsOf w 23 0) s
  else putWord fn off w s

def analogWrite (fn off : Nat) (w : Word) (s : State) : State :=
  let c := (off - 0xC00000) / 0x100
  let o := off % 0x100
  if o = 0 then aiCtrl fn c w s
  else if o = 4 then
    let s := putWord fn off w s
    if bitOn w 31 then aiStart c s.tb.dev s else s
  else if o = 0x10 then thrCfg fn c w s
  else putWord fn off w s

/-- CAL_CMD (R423, R427–R432): LOAD and FACTORY fill the staging set before OVERRIDE takes it. -/
def calCmd (w : Word) (s : State) : State :=
  let blocks := bitsOf w 3 0
  let s := if bitOn w 28 then calLoad s else s
  let s := if bitOn w 27 then calFactory s else s
  let s := if bitOn w 29 then calOverrideCmd blocks s else s
  let s := if bitOn w 31 then calRun blocks s else s
  if bitOn w 30 then calSave s else s

/-- NF_PAYLOAD (R461): the header added, the datagram fits NP_MTU. -/
def payloadWrite (fn f off : Nat) (w : Word) (s : State) : State :=
  let s' := putWord fn off w s
  let head := if s.rd (NF_DEST_PORT_IPV6 f) = 1 then 80 else 60
  if s'.rd (NF_PAYLOAD_BYTES f) + head > s.rd NP_MTU_BYTES ∧ s'.rw off ≠ s.rw off then s.accErr fn else s'

def networkWrite (fn off : Nat) (w : Word) (s : State) : State :=
  if off = NP_CTRL then
    let s := putWord fn off w s
    match bitOn w 31, s.activePath with
    | true, some k => startHandback k s
    | _, _ => s
  else if off < 0xE01000 then putWord fn off w s
  else if off < 0xE04000 then
    let s := putWord fn off w s
    if off % 0x1000 = 4 then pathFollow ((off - 0xE01000) / 0x1000) s else s
  else if off < 0xE08000 then
    let f := (off - 0xE04000) / 0x40
    if off % 0x40 = 0 then flowCtrlWrite fn f w s
    else if off % 0x40 = 0x1C then payloadWrite fn f off w s
    else putWord fn off w s
  else if off % 0x20 = 0 then nbCtrlWrite fn ((off - 0xE08000) / 0x20) w s
  else putWord fn off w s

def eventWrite (fn off : Nat) (w : Word) (s : State) : State :=
  if off < 0xF04000 then
    let src := viewSource off
    let o := off % 16
    if o = 0 then evCfg fn src w s
    else if o = 4 then evCoal fn src w s
    else putWord fn (fnKey fn off) w s
  else if off = 0xF10080 then evRaise fn w.toNat s
  else if 0xF40000 ≤ off ∧ off < 0xF41000 ∧ off % 16 = 0xC then
    let vec := (off - 0xF40000) / 16
    if bitOn w 0 then s.wr (MSIX_CTRL_MASK fn vec) 1 else msixUnmask fn vec s
  else if 0xF62000 ≤ off then
    let s := putWord fn off w s
    if off < 0xF62008 then (List.range 16).foldl (fun (s : State) k => pinFollow (k + 1) s) s else s
  else putWord fn (regKey fn off) w s

/-- A pen's window (R273, R276, R279, R284). -/
def penWrite (fn off : Nat) (w : Word) (s : State) : State :=
  let p := penNumber off
  let o := off % 64
  if o = 0 then penCfg fn p w s
  else if o = 4 ∨ o = 8 then penAddr fn p off w s
  else if o = 0x1C ∨ o = 0x20 then penEval p (putWord fn off w s)
  else if o = 0x24 then penPop p (bitsOf w 24 0) s
  else if o = 0x2C then cutSettle p (penCmd p w s)
  else putWord fn off w s

/-- The effect of a word written to a defined register that the function may write. -/
def regWrite (fn off : Nat) (w : Word) (s : State) : State :=
  if isHeader off then headerWrite off w s
  else if off < 0x1000 then
    if off = GLB_BW_CTRL then bwPeriod fn (bitsOf w 19 0) s
    else if off = GLB_PWR_REQ then pwrReqWrite fn w s
    else if 0x260 ≤ off ∧ off < 0x280 then cageWrite fn ((off - 0x260) / 4) w s
    else if off = HI_PART_CMD then partCmd w s
    else putWord fn (regKey fn off) w s
  else if off < 0x200000 then putWord fn off w s
  else if off < 0x300000 then laneWrite fn off w s
  else if off < 0x400000 then portWrite fn off w s
  else if off < 0x500000 then
    if (off - 0x400000) % 0x20000 < 0x10000 then putWord fn off w s else contextWrite fn off w s
  else if off < 0x5C0000 then contextWrite fn off w s
  else if off < 0x600000 then
    let s := putWord fn off w s
    if off % 0x40 = 0 then s.updStrm ((off - 0x5C0000) / 0x40) fun x => { x with egWritten := true } else s
  else if off < 0x800000 then paddockWrite fn off w s
  else if off < 0x900000 then droverWrite fn off w s
  else if off < 0xA00000 then timeWrite fn off w s
  else if off < 0xB00000 then encoderWrite fn off w s
  else if off < 0xC00000 then triggerWrite fn off w s
  else if off < 0xD00000 then analogWrite fn off w s
  else if off < 0xE00000 then if off = CAL_CMD then calCmd w s else putWord fn off w s
  else if off < 0xF00000 then networkWrite fn off w s
  else if off < 0xF80000 then eventWrite fn off w s
  else if off < 0x1000000 then if off = SH_MB_CMD then mailboxCmd fn w s else putWord fn off w s
  else penWrite fn off w s

/-! Reads. -/

/-- A time register's three words. -/
def putTime (key : Nat) (t : Time) (s : State) : State := s.wrTime key t

/-- EV_SUMMARY: the PENDING bits of 32 sources as a function sees them (R343). -/
def summaryWord (s : State) (fn i : Nat) : Word :=
  BitVec.ofNat 32 (bitMask 32 fun j => s.sees fn (32 * i + j) && s.rd (EV_STATUS_PENDING fn (32 * i + j)) == 1)

/-- A register that shows something that runs on is brought up to the instant of the read. -/
def refresh (fn off : Nat) (s : State) : State :=
  if 0x900010 ≤ off ∧ off < 0x90001C then putTime TB_TIME s.now s
  else if 0x900100 ≤ off ∧ off < 0x900300 then
    let d := (off - 0x900100) / 0x100
    let o := off % 0x100
    if o = 0x10 then s.ww off (BitVec.ofNat 32 (s.tb.counter d).adjLeft)
    else if 0x14 ≤ o ∧ o < 0x20 then putTime (TD_TIME d) (s.counterTime d) s
    else if o = 0x38 then s.wr (TD_PTP_PRIO_CLOCK_CLASS d) (s.clockClass d)
    else s
  else if 0xF10000 ≤ off ∧ off < 0xF10080 then s.ww (fnKey fn off) (s.summaryWord fn ((off - 0xF10000) / 4))
  else if 0x410000 ≤ off ∧ off < 0x500000 ∧ (off - 0x400000) % 0x20000 ≥ 0x10000 ∧ off % 0x100 = 0x10 then
    let h := windowContext off
    s.wr (FXC_MEASURED_VALUE h.1 h.2) (s.measured (ctxKey h))
  else if 0x400000 ≤ off ∧ off < 0x500000 ∧ (off - 0x400000) % 0x20000 < 0x100 then
    let f := (off - 0x400000) / 0x20000
    if off % 0x100 = 0x44 then s.wr (FX_STATUS_LOAD_PCT f) (min 255 (100 * s.foldLoad f / s.foldCapacity f))
    else if off % 0x100 = 0x4C then s.wr (FX_LOAD_VALUE f) (s.foldLoad f)
    else s
  else if 0x200000 ≤ off ∧ off < 0x300000 ∧ off % 0x1000 = 0x70 then slipSettle ((off - 0x200000) / 0x1000) s
  else if 0x300000 ≤ off ∧ off < 0x332000 ∧ off % 0x2000 ≥ 0x800 ∧ off % 0x100 = 0x28 then
    let st := windowStream off
    s.wrIf (ST_STATUS_THROTTLED (portOf st) (st % 4)) (s.throttled (portOf st))
  else if 0x800000 ≤ off ∧ off < 0x900000 ∧ off % 0x10000 = 0xC then heldSettle ((off - 0x800000) / 0x10000) s
  else if 0xA00000 ≤ off ∧ off < 0xA04000 then
    let k := (off - 0xA00000) / 0x1000
    if off % 0x1000 = 0x2C ∨ off % 0x1000 = 0x30 then encSpeedLive k s
    else if off % 0x1000 = 0x100 then histSnapshot k s
    else s
  else if 0xC00000 ≤ off ∧ off < 0xC00800 ∧ off % 0x100 = 0x38 then
    let c := (off - 0xC00000) / 0x100
    s.wrIf (AI_STATUS_RESERVE_BUSY c) (s.reserveUsed c s.now)
  else if off = NPP_STATUS 0 ∨ off = NPP_STATUS 1 then
    let k := (off - 0xE01000) / 0x1000
    s.wr (NPP_STATUS_HEALTHY_MS k) (match (s.path k).healthySince with
      | some t => min 0xFFFFFF ((s.now - t) / Time.ofMs 1)
      | none => 0)
  else if 0xE08000 ≤ off ∧ off < 0xE08800 ∧ off % 0x20 = 0 then
    let i := (off - 0xE08000) / 0x20
    let dynamic : Bool := s.rd (NB_CTRL_VALID i) == 1 && s.rd (NB_CTRL_STATIC i) == 0
    s.wr (NB_CTRL_AGE_S i) (if dynamic then min 0xFFF (Time.sec (s.now - s.nbUsed i)) else 0)
  else if 0x1000000 ≤ off ∧ off < 0x1400000 ∧ off % 0x40 = 0x30 then
    let p := (off - 0x1000000) / 0x40
    s.wrIf (PN_STATUS_WM_BAD p) (s.rd (PN_HWM_WORDS p) ≤ s.rd (PN_LWM_WORDS p) || 2 ^ s.rd (PN_CFG_SIZE_LOG2 p) < s.rd (PN_HWM_WORDS p))
  else if off = GLB_SUPPLY then
    let d := s.draw
    d.2.wr GLB_SUPPLY_POWER (Config.inputPower d.1).val
  else s

/-- The word a read returns: a header as it stands, the Torvelink registers zero outside Torvelink (R156), fields alone. -/
def shownWord (s : State) (fn off : Nat) : Word :=
  match regAt off with
  | none => 0
  | some r =>
    let w := r.shows (s.rw (regKey fn off))
    let o := off % 0x2000
    if 0x300000 ≤ off ∧ off < 0x330000 ∧ 0x80 ≤ o ∧ o < 0xA8 ∧ s.standardOf (portNumber off) ≠ 3 then 0
    else
      let w := if isHeader off then match nodeAt off with
          | some x => s.headerWord fn off x w
          | none => w
        else w
      w &&& s.ownBits fn off

/-- A read of the lowest word of a wide value captures it, for this function (R7). -/
def capture (fn off : Nat) (r : RegDef) (s : State) : State :=
  if r.words ≤ 1 ∨ r.word ≠ 0 then s
  else (List.range (r.words - 1)).foldl (fun (s : State) i =>
    { s with snaps := tset (fun _ => none) s.snaps (fnKey fn (off + 4 * (i + 1))) (some (s.shownWord fn (off + 4 * (i + 1)))) }) s

/-- A read of a defined register by a function that may read it: the value, and what it leaves. -/
def regRead (fn off : Nat) (s : State) : Word × State :=
  match regAt off with
  | none => (0, s)
  | some r =>
    let s := refresh fn off s
    let snap := if r.words > 1 ∧ r.word ≠ 0 then tget (fun _ => none) s.snaps (fnKey fn off) else none
    let v := snap.getD (s.shownWord fn off)
    let s := capture fn off r s
    if off = PP_SER_RX then (v, serialShow { s with serial := { s.serial with rx := s.serial.rx.tail } })
    else (v, s.ww (regKey fn off) (r.afterRead (s.rw (regKey fn off))))

end State
end Sys2Proof.Machine
end

