-- ==== Sys2Proof/Machine/Format.lean ====
section
/-!
DEFINITION. The structure image as bytes (R43–R56): its sections and entries, and the check, in the order of its codes.
-/
namespace Sys2Proof.Machine

/-! Bytes of an image. -/

/-- The number in `n` bytes at an offset, least significant first; bytes beyond the end read as zero. -/
def rdLe (im : List Byte) (off n : Nat) : Nat := leNat ((im.drop off).take n)

/-- A section: where it stands, its type, version, flags, entries, bytes of an entry, and length (R47). -/
structure Section where
  off : Nat
  type : Nat
  sver : Nat
  sflags : Nat
  entries : Nat
  entryLen : Nat
  len : Nat
deriving DecidableEq, Repr

def sectionAt (im : List Byte) (o : Nat) : Section :=
  ⟨o, rdLe im o 2, rdLe im (o + 2) 1, rdLe im (o + 3) 1, rdLe im (o + 8) 2, rdLe im (o + 10) 2, rdLe im (o + 4) 4⟩

/-- The sections that tile an image from `o` to `total` (R43); or where they do not. -/
def tile (im : List Byte) (total : Nat) : Nat → Nat → Except Nat (List Section)
  | 0, o => if o = total then .ok [] else .error o
  | n + 1, o =>
    if o = total then .ok []
    else
      let x := sectionAt im o
      if x.len < 16 ∨ x.len % 4 ≠ 0 ∨ o + x.len > total ∨ x.len ≠ 16 + x.entries * x.entryLen then .error o
      else match tile im total n (o + x.len) with
        | .error e => .error e
        | .ok l => .ok (x :: l)

/-- The section types of R48: the type, its entry's length, its least and greatest number of entries, and whether it is
required. -/
def sectionTypes : List (Nat × Nat × Nat × Nat × Bool) :=
  [(0x10, 12, 1, 25, true), (0x20, 4, 1, 8, false), (0x30, 32, 1, 97, false), (0x40, 24, 1, 8, true),
   (0x50, 20, 1, 16, false), (0x60, 8, 1, 16384, false), (0xFFFF, 48, 1, 1, true)]

def typeInfo (t : Nat) : Option (Nat × Nat × Nat × Nat × Bool) := sectionTypes.find? fun x => x.1 == t

/-- A section whose type and version are those of R48. -/
def Section.known (x : Section) : Bool := (typeInfo x.type).isSome && x.sver == 1

/-- The offsets of a section's entries. -/
def Section.places (x : Section) : List Nat := (List.range x.entries).map fun i => x.off + 12 + i * x.entryLen

/-- The entries of the section of a type, by offset. -/
def entriesOf (l : List Section) (t : Nat) : List Nat :=
  match l.find? fun x => x.type == t && x.known with
  | some x => x.places
  | none => []

/-! Entries (R50–R55). -/

def portAt (im : List Byte) (o : Nat) : PortEntry :=
  { port := rdLe im o 1, cage := rdLe im (o + 1) 1
    firstLane := if rdLe im o 1 = 24 then 0 else 8 * rdLe im (o + 1) 1 + rdLe im (o + 2) 1
    lanes := rdLe im (o + 3) 1, standard := rdLe im (o + 4) 1, rate := rdLe im (o + 5) 1, streams := rdLe im (o + 6) 1
    enable := rdLe im (o + 7) 1 % 2 == 1, fill := rdLe im (o + 8) 2 }

def foldAt (im : List Byte) (o : Nat) : FoldEntry :=
  { fold := rdLe im o 1, join := rdLe im (o + 1) 1, enable := rdLe im (o + 2) 1 % 2 == 1 }

def streamAt (im : List Byte) (o : Nat) : StreamEntry :=
  { stream := rdLe im o 1, fold := rdLe im (o + 1) 1, mux := rdLe im (o + 2) 1, mode := rdLe im (o + 3) 1
    stripeLines := rdLe im (o + 4) 2, owner := rdLe im (o + 6) 1, group := rdLe im (o + 7) 1
    width := rdLe im (o + 8) 2, height := rdLe im (o + 10) 2, format := rdLe im (o + 12) 4
    ringPages := rdLe im (o + 16) 4, penA := rdLe im (o + 20) 2, penB := rdLe im (o + 22) 2
    tapA := rdLe im (o + 24) 1, tapB := rdLe im (o + 25) 1, context := rdLe im (o + 26) 1 }

def partAt (im : List Byte) (o : Nat) : Part :=
  { fn := rdLe im o 1, enable := rdLe im (o + 1) 1 % 2 == 1, penFirst := rdLe im (o + 4) 4
    penCount := rdLe im (o + 8) 4, chFirst := rdLe im (o + 12) 2, chCount := rdLe im (o + 14) 2
    pageFirst := rdLe im (o + 16) 4, pageCount := rdLe im (o + 20) 4 }

def freezeEntryAt (im : List Byte) (o : Nat) : FreezeEntry :=
  { group := rdLe im o 1, owner := rdLe im (o + 1) 1, unit := rdLe im (o + 2) 1, source := rdLe im (o + 3) 1
    index := rdLe im (o + 4) 1, edge := rdLe im (o + 5) 1, pre := rdLe im (o + 8) 4, post := rdLe im (o + 12) 4 }

/-! Range tests of code 0x09: the place in the entry of the first field that fails. -/

/-- The first failing test of a list: a place, and whether the field there is in order. -/
def firstBad (l : List (Nat × Bool)) : Option Nat := (l.find? fun x => !x.2).map (·.1)

/-- The rates that R119 permits with a standard. -/
def ratesOf (standard : Nat) : List Nat :=
  if standard = 0 then [0, 1, 3, 4] else if standard = 1 then [0, 1, 3] else if standard = 2 then [0, 1]
  else if standard = 3 then [0, 3, 4] else [0]

def portBad (im : List Byte) (o : Nat) : Option Nat :=
  let p := rdLe im o 1
  let cage := rdLe im (o + 1) 1
  let first := rdLe im (o + 2) 1
  let lanes := rdLe im (o + 3) 1
  let std := rdLe im (o + 4) 1
  let flags := rdLe im (o + 7) 1
  let pp := p == 24
  firstBad [
    (0, p ≤ 24), (1, if pp then cage == 255 else cage ≤ 5), (2, first ≤ if pp then 0 else 7),
    (3, if pp then lanes == 0
      else if lanes = 16 then cage % 2 == 0 && first == 0 && std == 3
      else [1, 2, 4, 8].contains lanes && (flags % 2 == 0 || first + lanes ≤ 8)),
    (4, if pp then std == 4 else std ≤ 3), (5, (ratesOf std).contains (rdLe im (o + 5) 1)),
    (6, rdLe im (o + 6) 1 ≤ if pp then 1 else 4), (7, flags < 2), (10, rdLe im (o + 10) 2 == 0)]

def foldBad (im : List Byte) (o : Nat) : Option Nat :=
  let f := rdLe im o 1
  let j := rdLe im (o + 1) 1
  firstBad [(0, f ≤ 7), (1, j == 255 || (f % 2 == 0 && j == f + 1)), (2, rdLe im (o + 2) 1 < 2),
    (3, rdLe im (o + 3) 1 == 0)]

def streamBad (im : List Byte) (o : Nat) : Option Nat :=
  let e := streamAt im o
  firstBad [
    (0, e.stream ≤ 96), (1, e.fold ≤ 7), (2, e.mux ≤ 1), (3, e.mode ≤ 2),
    (4, if e.mux = 1 then 16 ≤ e.stripeLines && e.stripeLines ≤ 1024 && e.stripeLines % 8 == 0 else e.stripeLines == 0),
    (6, 1 ≤ e.owner && e.owner ≤ 8), (7, e.group == 255 || (e.group ≤ 15 && e.mode != 0)),
    (8, e.width == 0 || (16 ≤ e.width && e.width ≤ 16384 && e.width % 8 == 0)),
    (12, e.format == 0 || (pixelFormat e.format).isSome), (24, e.tapA ≤ 4),
    (25, e.tapB == 255 || (e.tapB ≤ 4 && e.tapB != e.tapA)), (27, rdLe im (o + 27) 5 == 0)]

def partBad (im : List Byte) (o : Nat) : Option Nat :=
  let q := partAt im o
  firstBad [
    (0, 1 ≤ q.fn && q.fn ≤ 8), (1, rdLe im (o + 1) 1 < 2), (2, rdLe im (o + 2) 2 == 0), (4, q.penFirst ≤ 65535),
    (8, q.penFirst + q.penCount ≤ 65536), (12, q.chFirst ≤ 4095), (14, q.chFirst + q.chCount ≤ 4096),
    (16, 4096 ≤ q.pageFirst), (20, q.pageFirst + q.pageCount ≤ 49152)]

/-- The greatest SOURCE_INDEX of a SOURCE (R54). -/
def sourceTop (source : Nat) : Nat :=
  if source = 1 then 7 else if source = 2 then 3 else if source = 3 then 7 else if source = 4 then 63
  else if source = 5 then 96 else 255

def freezeBad (im : List Byte) (o : Nat) : Option Nat :=
  let e := freezeEntryAt im o
  let top := if e.unit = 0 then 100000000 else 16777215
  let half := e.unit == 1 && e.pre == 0xFFFFFFFF && e.post == 0xFFFFFFFF
  firstBad [
    (0, e.group ≤ 15), (1, e.owner ≤ 8), (2, e.unit ≤ 1), (3, e.source ≤ 5), (4, e.index ≤ sourceTop e.source),
    (5, e.edge ≤ 2), (6, rdLe im (o + 6) 2 == 0), (8, half || e.pre ≤ top), (12, half || e.post ≤ top),
    (16, rdLe im (o + 16) 4 == 0)]

/-- The first failing field of a section's entries. -/
def entriesBad (bad : Nat → Option Nat) (l : List Nat) : Option Nat :=
  l.findSome? fun o => (bad o).map (o + ·)

/-! Ring regions (R535). -/

/-- The regions of an owner's streams within its pages: first the streams with RING_PAGES, then equal shares. None: a
region cannot be placed; the stream is named. -/
def placeOwner (lo hi : Nat) (streams : List StreamEntry) : Except Nat (List (Nat × PageRun)) :=
  let fixed := streams.filter (·.ringPages != 0)
  let open_ := streams.filter (·.ringPages == 0)
  let step (l : List StreamEntry) (pages : StreamEntry → Nat) (start : List (Nat × PageRun)) :
      Except Nat (List (Nat × PageRun)) :=
    l.foldlM (fun acc e =>
      let taken := acc.foldl (fun t x => if x.2.2 = 0 then t else insertRun x.2 t) []
      if pages e = 0 then .ok (acc ++ [(e.stream, (lo, 0))])
      else match lowestRun lo hi (pages e) taken with
        | some r => .ok (acc ++ [(e.stream, r)])
        | none => .error e.stream) start
  match step fixed (·.ringPages) [] with
  | .error st => .error st
  | .ok a =>
    let used := (a.map (·.2.2)).sum
    step open_ (fun _ => (hi - lo - used) / open_.length) a

/-- Streams in ascending stream number. -/
def insertStream (x : StreamEntry) : List StreamEntry → List StreamEntry
  | [] => [x]
  | y :: r => if x.stream ≤ y.stream then x :: y :: r else y :: insertStream x r

/-- The regions of every stream of an image, owner by owner. -/
def placeAll (parts : List Part) (streams : List StreamEntry) : Except Nat (List (Nat × PageRun)) :=
  parts.foldlM (fun acc q =>
    let mine := (streams.filter fun e => e.owner == q.fn).foldr insertStream []
    match placeOwner q.pageFirst (q.pageFirst + q.pageCount) mine with
    | .ok l => .ok (acc ++ l)
    | .error st => .error st) []

/-! What an image says. -/

def foldDefaults : List FoldEntry := (List.range 8).map fun f => ⟨f, 255, true⟩

/-- The parsed image of bytes whose sections are known. -/
def parseImage (im : List Byte) (l : List Section) : Image :=
  let folds := (entriesOf l 0x20).map (foldAt im)
  let streams := (entriesOf l 0x30).map (streamAt im)
  let last := ((l.getLast?).map (·.off)).getD 0
  let parts := ((entriesOf l 0x40).map (partAt im)).filter (·.enable)
  { serial := rdLe im 0x14 4
    factory := false
    digest := (im.drop (last + 12)).take 48
    ports := (entriesOf l 0x10).map (portAt im)
    folds := if folds.isEmpty then foldDefaults else folds
    streams := if streams.isEmpty then none else some streams
    parts := parts.map fun q =>
      { q with streams := (streams.map fun e => if e.owner = q.fn then 2 ^ e.stream else 0).sum }
    freezes := (entriesOf l 0x50).map (freezeEntryAt im)
    presets := (entriesOf l 0x60).map fun o => (rdLe im o 4, rdLe im (o + 4) 4) }

/-! The check (R56), code by code. -/

/-- A failure of the check: code and offset. -/
abbrev CheckFail := Nat × Nat

/-- Codes 0x01 to 0x03: the header. -/
def checkHeader (im : List Byte) : Option CheckFail :=
  if im.take 4 ≠ [0x53#8, 0x56#8, 0x53#8, 0x49#8] then some (1, 0)
  else if rdLe im 4 2 ≠ 1 then some (1, 4)
  else if rdLe im 6 2 ≠ 64 then some (1, 6)
  else if (crc32c (im.take 0x3C)).toNat ≠ rdLe im 0x3C 4 then some (2, 0x3C)
  else if rdLe im 0x0E 2 ≠ 0x9648 then some (3, 0x0E)
  else if Config.steppingLess1.val + 1 < rdLe im 0x10 1 then some (3, 0x10)
  else none

/-- Code 0x04: the length, the tiling, the number of sections, and the END section. -/
def checkTiling (im : List Byte) : Except CheckFail (List Section) :=
  let n := rdLe im 8 4
  if n % 4 ≠ 0 ∨ n < 128 ∨ n > 4190208 ∨ n ≠ im.length then .error (4, 8)
  else match tile im n (n / 16) 0x40 with
    | .error o => .error (4, o)
    | .ok l =>
      if l.length ≠ rdLe im 0x0C 2 then .error (4, 0x0C)
      else match l.getLast? with
        | none => .error (4, 0x40)
        | some e => if e.type = 0xFFFF ∧ e.entries = 1 ∧ e.entryLen = 48 then .ok l else .error (4, e.off)

/-- Code 0x05: every section's check word. -/
def checkCrcs (im : List Byte) (l : List Section) : Option CheckFail :=
  (l.find? fun x => (crc32c ((im.drop x.off).take (x.len - 4))).toNat != rdLe im (x.off + x.len - 4) 4).map fun x =>
    (5, x.off + x.len - 4)

/-- Code 0x06: the digest (R45). -/
def checkDigest (im : List Byte) (l : List Section) : Option CheckFail :=
  match l.getLast? with
  | none => none
  | some e => if sha384 (im.take (e.off + 12)) = (im.drop (e.off + 12)).take 48 then none else some (6, e.off + 12)

/-- Code 0x07: order, repeats, and unknown types or versions (R43, R49). -/
def checkOrder : Option Nat → List Section → Option CheckFail
  | _, [] => none
  | prev, x :: r =>
    let low : Bool := match prev with
      | some t => decide (x.type ≤ t)
      | none => false
    if low ∨ (¬ x.known ∧ x.sflags % 2 = 0) then some (7, x.off) else checkOrder (some x.type) r

/-- Code 0x08: a required section missing; the offset is that of the first section above it. -/
def checkRequired (l : List Section) : Option CheckFail :=
  (sectionTypes.find? fun t => t.2.2.2.2 && !(l.any fun x => x.type == t.1 && x.known)).map fun t =>
    (8, ((l.find? fun x => t.1 < x.type).map (·.off)).getD 0)

/-- Code 0x09: header fields, section fields, and entry fields. -/
def checkRanges (im : List Byte) (l : List Section) : Option CheckFail :=
  let header := firstBad [
    (0x0C, 2 ≤ rdLe im 0x0C 2 && rdLe im 0x0C 2 ≤ 8), (0x10, 1 ≤ rdLe im 0x10 1 && rdLe im 0x10 1 ≤ 15),
    (0x11, rdLe im 0x11 1 < 2), (0x12, rdLe im 0x12 2 == 0), (0x14, rdLe im 0x14 4 != 0), (0x1E, rdLe im 0x1E 2 == 0)]
  let one (x : Section) : Option Nat :=
    if x.sflags ≥ 2 then some (x.off + 3)
    else if x.entryLen % 4 ≠ 0 then some (x.off + 10)
    else if ¬ x.known then none
    else match typeInfo x.type with
      | none => none
      | some t =>
        if x.entryLen ≠ t.2.1 then some (x.off + 10)
        else if x.entries < t.2.2.1 ∨ t.2.2.2.1 < x.entries then some (x.off + 8)
        else
          let bad : Nat → Option Nat :=
            if x.type = 0x10 then portBad im else if x.type = 0x20 then foldBad im
            else if x.type = 0x30 then streamBad im else if x.type = 0x40 then partBad im
            else if x.type = 0x50 then freezeBad im else fun _ => none
          entriesBad bad x.places
  match header with
  | some o => some (9, o)
  | none => (l.findSome? one).map fun o => (9, o)

/-- The first entry that clashes with an earlier one. -/
def firstClash {α : Type} (clash : α → α → Bool) : List α → List α → Option α
  | _, [] => none
  | seen, x :: r => if seen.any fun y => clash y x then some x else firstClash clash (seen ++ [x]) r

def lanesOf (p : PortEntry) : Nat × Nat := (p.firstLane, p.lanes)

/-- The cages a port counts in: a bonded port in both of its pair. -/
def cagesOf (p : PortEntry) : List Nat := if p.lanes = 16 then [p.cage, p.cage + 1] else [p.cage]

def runsClash (a n b m : Nat) : Bool := n > 0 && m > 0 && a < b + m && b < a + n

/-- The first port with which a cage has more than four. -/
def crowdedPort : List PortEntry → List (Nat × PortEntry) → Option Nat
  | _, [] => none
  | seen, x :: r =>
    if (cagesOf x.2).any fun c => (seen.filter fun y => (cagesOf y).contains c).length ≥ 4 then some x.1
    else crowdedPort (seen ++ [x.2]) r

/-- Code 0x0A: anything assigned twice. -/
def checkTwice (im : List Byte) (l : List Section) : Option CheckFail :=
  let ports := (entriesOf l 0x10).map fun o => (o, portAt im o)
  let live := ports.filter fun x => x.2.enable && x.2.port != 24
  let folds := (entriesOf l 0x20).map fun o => (o, foldAt im o)
  let joined := (folds.filter fun x => x.2.join != 255).map fun x => x.2.join
  let streams := (entriesOf l 0x30).map fun o => (o, streamAt im o)
  let parts := (entriesOf l 0x40).map fun o => (o, partAt im o)
  let groups := (entriesOf l 0x50).map fun o => (o, freezeEntryAt im o)
  let fail (o : Option Nat) : Option CheckFail := o.map fun o => (10, o)
  (fail ((firstClash (fun a b => a.2.port == b.2.port) [] ports).map (·.1)))
    <|> fail ((firstClash (fun a b => runsClash a.2.firstLane a.2.lanes b.2.firstLane b.2.lanes) [] live).map
      fun x => x.1 + 2)
    <|> fail ((crowdedPort [] live).map (· + 1))
    <|> fail ((firstClash (fun a b => a.2.fold == b.2.fold) [] folds).map (·.1))
    <|> fail ((folds.find? fun x => joined.contains x.2.fold).map (·.1))
    <|> fail ((firstClash (fun a b => a.2.stream == b.2.stream || (a.2.fold == b.2.fold && a.2.context == b.2.context))
      [] streams).map (·.1))
    <|> fail ((firstClash (fun a b => a.2.fn == b.2.fn || (a.2.enable && b.2.enable
        && (runsClash a.2.penFirst a.2.penCount b.2.penFirst b.2.penCount
          || runsClash a.2.chFirst a.2.chCount b.2.chFirst b.2.chCount
          || runsClash a.2.pageFirst a.2.pageCount b.2.pageFirst b.2.pageCount))) [] parts).map (·.1))
    <|> fail ((firstClash (fun a b => a.2.group == b.2.group) [] groups).map (·.1))

/-- Code 0x0C for one stream: the place of the field that refers to what it may not. -/
def streamRefs (im : Image) (e : StreamEntry) : Option Nat :=
  let port := if e.stream = 96 then 24 else e.stream / 4
  match im.parts.find? fun q => q.fn == e.owner with
  | none =>
    firstBad [(0, im.ports.any fun p => p.port == port && p.enable),
      (1, im.folds.any fun f => f.fold == e.fold && f.enable), (6, false)]
  | some q =>
    let pen (p : Nat) : Bool := q.penFirst ≤ p && p < q.penFirst + q.penCount
    firstBad [
      (0, im.ports.any fun p => p.port == port && p.enable),
      (1, im.folds.any fun f => f.fold == e.fold && f.enable),
      (7, e.group == 255 || im.freezes.any fun g => g.group == e.group && (g.owner == e.owner || g.owner == 0)),
      (20, pen e.penA), (22, e.tapB == 255 || pen e.penB)]

/-- Code 0x0C: references, then the placement of the regions (R535). -/
def checkRefs (im : List Byte) (l : List Section) : Option CheckFail :=
  let image := parseImage im l
  let places := entriesOf l 0x30
  let entries := places.map fun o => (o, streamAt im o)
  match entries.findSome? fun x => (streamRefs image x.2).map (x.1 + ·) with
  | some o => some (12, o)
  | none => match placeAll image.parts (entries.map (·.2)) with
    | .ok _ => none
    | .error st => (entries.find? fun x => x.2.stream == st).map fun x => (12, x.1 + 16)

/-- Offsets a preset may not name: the structure block and the shepherd mailbox (R56). -/
def presetBarred (o : Nat) : Bool :=
  (0x100000 ≤ o && o < 0x100028) || (0xF80000 ≤ o && o < 0xF80010) || (0xF81000 ≤ o && o < 0xF82000)

/-- Code 0x0D for one preset. -/
def presetOk (o v : Nat) : Bool :=
  o % 4 == 0 && !presetBarred o && match regAt o with
    | none => false
    | some r =>
      r.fields.any (fun f => f.acc == .rw || f.acc == .rwk)
        && r.fields.all fun f => (f.acc != .wo && f.acc != .w1c && f.acc != .w1s)
          || bitsOf (BitVec.ofNat 32 v) f.hi f.lo == 0

/-- Codes 0x0D and 0x0E; no fold tree that an image can describe is deeper than four levels, so code 0x0B does not
arise (R24). -/
def checkPresets (im : List Byte) (l : List Section) : Option CheckFail :=
  match (entriesOf l 0x60).find? fun o => !presetOk (rdLe im o 4) (rdLe im (o + 4) 4) with
  | some o => some (13, o)
  | none => if rdLe im 0x11 1 % 2 = 1 then some (14, 0x11) else none

/-- The check of an image outside ROM: the first failure, or what the image says. -/
def checkImage (im : List Byte) : Except CheckFail Image :=
  match checkHeader im with
  | some e => .error e
  | none => match checkTiling im with
    | .error e => .error e
    | .ok l =>
      match checkCrcs im l <|> checkDigest im l <|> checkOrder none l <|> checkRequired l <|> checkRanges im l
          <|> checkTwice im l <|> checkRefs im l <|> checkPresets im l with
      | some e => .error e
      | none => .ok (parseImage im l)

end Sys2Proof.Machine
end

