-- ==== Sys2Proof/Machine/Activation.lean ====
section
/-!
DEFINITION. Structure images at work (R42, R57–R70): the factory image, slots and commit markers, the operations of
STR_CTRL, the stages of an activation, rollback, and boot selection.
-/
namespace Sys2Proof.Machine

/-! Images and slots. -/

/-- The ports of the factory image (R70): one of eight lanes to a cage, and PP. -/
def factoryPortEntries : List PortEntry :=
  ((List.range 6).map fun c => ⟨4 * c, c, 8 * c, 8, 0, 0, 0, true, 0⟩) ++ [⟨24, 255, 0, 0, 4, 0, 0, true, 0⟩]

/-- The image in module ROM (R70). -/
def factoryImage : Image :=
  { serial := 1
    factory := true
    digest := digestBytes Config.factoryDigest
    ports := factoryPortEntries
    folds := foldDefaults
    streams := none
    parts := [{ fn := 1, penCount := 4096, chCount := 256, pageFirst := 4096, pageCount := 45056 }]
    freezes := [⟨0, 1, 1, 1, 0, 0, 0xFFFFFFFF, 0xFFFFFFFF⟩]
    presets := [] }

/-- Whether a slot begins with an image header whose MAGIC, FORMAT, HDR_LEN and HDR_CRC hold (R58). -/
def slotWritten (f : FlashSlot) : Bool :=
  match checkHeader f.image with
  | none => true
  | some e => e.1 == 3

/-- The digest that the END section of an image in flash carries (R45). -/
def slotDigest (f : FlashSlot) : List Byte := (f.image.drop (f.image.length - 52)).take 48

/-- Whether a marker's CRC holds (R66). -/
def markerValid (m : List Byte) : Bool :=
  m.take 4 == [0x53#8, 0x56#8, 0x43#8, 0x4D#8] && rdLe m 0x3C 4 == (crc32c (m.take 0x3C)).toNat

/-- Whether a slot is good (R66). -/
def slotGood (f : FlashSlot) : Bool :=
  slotWritten f && markerValid f.marker && rdLe f.marker 4 4 == rdLe f.image 0x14 4
    && (f.marker.drop 0x10).take 32 == (slotDigest f).take 32

/-- SEQ of a slot's marker, 0 where it has none. -/
def markerSeq (f : FlashSlot) : Nat := if markerValid f.marker then rdLe f.marker 8 4 else 0

/-- The 64 bytes of a commit marker (R66). -/
def markerBytes (serial seq : Nat) (digest : List Byte) : List Byte :=
  let body := [0x53#8, 0x56#8, 0x43#8, 0x4D#8] ++ leBytes 4 serial ++ leBytes 4 seq ++ leBytes 4 0 ++ digest.take 32
    ++ leBytes 12 0
  body ++ leBytes 4 (crc32c body).toNat

namespace State

def flash (s : State) (n : Nat) : FlashSlot := if n = 0 then s.struct.slotA else s.struct.slotB

def setFlash (n : Nat) (f : FlashSlot) (s : State) : State :=
  { s with struct := if n = 0 then { s.struct with slotA := f } else { s.struct with slotB := f } }

def updStruct (s : State) (g : Structure → Structure) : State := { s with struct := g s.struct }

/-- STR_SLOT_STATE and STR_SLOT_SERIAL as the flash reads (R58). -/
def showSlot (n : Nat) (s : State) : State :=
  let f := s.flash n
  let s := (s.wrIf (STR_SLOT_STATE_WRITTEN n) (slotWritten f)).wrIf (STR_SLOT_STATE_GOOD n) (slotGood f)
  s.wr (STR_SLOT_SERIAL_SERIAL n) (if slotWritten f then rdLe f.image 0x14 4 else 0)

def result (v : Nat) (s : State) : State := s.wr STR_STATUS_RESULT v

/-- The check of the image that a source names (R42, R56); none: the source holds no image. -/
def sourceImage (s : State) (source : Nat) : Option (Except CheckFail Image) :=
  if source = 0 then some (.ok factoryImage)
  else if source = 3 then if s.struct.uploaded.isEmpty then none else some (checkImage s.struct.uploaded)
  else if s.rd (STR_SLOT_STATE_WRITTEN (source - 1)) = 1 then some (checkImage (s.flash (source - 1)).image)
  else none

/-- STR_CHECK of a check that passed, or failed (R56, R59). -/
def checkPassed (s : State) : State := (s.wr STR_CHECK_CODE 0).wr STR_CHECK_OFFSET 0

def checkFailed (e : CheckFail) (s : State) : State := ((s.wr STR_CHECK_CODE e.1).wr STR_CHECK_OFFSET e.2).raise 867 0

/-- The image in force and its source. -/
def inForce (s : State) : Option (Nat × Image) := s.struct.image.map fun im => (s.rd STR_STATUS_ACTIVE, im)

/-- Whether a freeze group is in Post (R61). -/
def postOpen (s : State) : Bool := (List.range 16).any fun g => s.fgState g == 2

/-- An image that has passed its check starts its activation (R57, R61, R62). -/
def beginActivation (source : Nat) (im : Image) (s : State) : State :=
  let s := (extend 2 im.digest (checkPassed s)).raise 864 0
  let stage : Stage := if s.postOpen then .waiting else .ready
  (s.wr STR_STATUS_STATE 1).updStruct fun x => { x with
    stage := stage, next := some (source, im), prior := s.inForce, goTime := s.now }

/-- Whether STATE is not Idle, or a rollback is due. -/
def strBusy (s : State) : Bool := s.struct.stage != .idle || s.struct.rollbackDue.isSome

/-- GO (R60, R62). -/
def strGo (source : Nat) (s : State) : State :=
  if s.strBusy then result 5 s
  else match s.sourceImage source with
    | none => result 6 s
    | some (.error e) => result 2 (checkFailed e s)
    | some (.ok im) => beginActivation source im s

/-- CHECK (R60). -/
def strCheck (source : Nat) (s : State) : State :=
  if s.strBusy then result 5 s
  else match s.sourceImage source with
    | none => result 6 s
    | some (.error e) => result 2 (checkFailed e s)
    | some (.ok _) => result 10 (checkPassed s)

/-- The write of a slot begins: its marker is erased first (R68). -/
def programBegin (s : State) : State :=
  match s.struct.program with
  | none => s
  | some p =>
    if p.begun ∨ s.unseated then s
    else
      let s := setFlash (p.slot - 1) {} (s.updStruct fun x => { x with program := some { p with begun := true } })
      (s.wr (STR_SLOT_STATE_WRITTEN (p.slot - 1)) 0).wr (STR_SLOT_STATE_GOOD (p.slot - 1)) 0

/-- PROGRAM (R68). -/
def strProgram (source : Nat) (s : State) : State :=
  if source = 0 ∨ source = 3 then result 9 s
  else if s.strBusy then result 5 s
  else if s.struct.uploaded.isEmpty then result 6 s
  else if s.rd STR_STATUS_ACTIVE = source ∧ s.struct.image.isSome then result 8 s
  else match checkImage s.struct.uploaded with
    | .error e => result 2 (checkFailed e s)
    | .ok _ =>
      programBegin (((checkPassed s).wr STR_STATUS_STATE 7).updStruct fun x => { x with
        stage := .programming, program := some ⟨source, s.struct.uploaded, false⟩ })

/-- An operation of STR_CTRL: 0 GO, 1 CHECK, 2 PROGRAM. -/
def strServe (op source : Nat) (s : State) : State :=
  if op = 0 then strGo source s else if op = 1 then strCheck source s else strProgram source s

/-- An operation waits while the shepherd serves none (R463). -/
def strOp (op source : Nat) (s : State) : State :=
  if s.shepherdRuns then strServe op source s
  else s.updStruct fun x => { x with waiting := x.waiting ++ [(op, source)] }

/-- A write of STR_CTRL (R58, R60): with more than one of GO, CHECK and PROGRAM none of them acts (R11). -/
def strCtrl (fn : Nat) (w : Word) (s : State) : State :=
  let s := putWord fn STR_CTRL w s
  let source := s.rd STR_CTRL_SOURCE
  match bitOn w 31, bitOn w 30, bitOn w 29 with
  | true, false, false => strOp 0 source s
  | false, true, false => strOp 1 source s
  | false, false, true => strOp 2 source s
  | false, false, false => s
  | _, _, _ => s.accErr fn

/-- The flash write of PROGRAM ends (R68, R472). -/
def programDone (fail : Bool) (s : State) : State :=
  match s.struct.program with
  | none => s
  | some p =>
    if ¬ p.begun ∨ ¬ s.shepherdRuns then s
    else
      let n := p.slot - 1
      let s := (s.updStruct fun x => { x with program := none, stage := .idle }).wr STR_STATUS_STATE 0
      if fail then result 11 (flashFail (64 * n) s)
      else
        let s := setFlash n { image := p.bytes } s
        result 7 ((s.wr (STR_SLOT_STATE_WRITTEN n) 1).wr (STR_SLOT_SERIAL_SERIAL n) (rdLe p.bytes 0x14 4))

/-! Stages. -/

def setStage (st : Stage) (code : Nat) (s : State) : State :=
  (s.updStruct fun x => { x with stage := st }).wr STR_STATUS_STATE code

/-- Where the streams lie, as long as the image in force is the one they were placed by (R63, R65). -/
def placedNow (s : State) : List Placed :=
  if s.struct.image.isNone || s.quiesced then s.struct.placed
  else s.streams.map fun e =>
    ⟨e.stream, e.ringPages, s.rd (PD_ST_REGION_A_FIRST_PAGES e.stream), s.rd (PD_ST_REGION_A_PAGES_PAGES e.stream)⟩

def notePlaced (s : State) : State := s.updStruct fun x => { x with placed := s.placedNow }

/-- Quiesce (R23, R62): outputs go idle, channels finish their entry, and where the streams lie is noted (R63). -/
def quiesce (s : State) : State :=
  let s := idleOutputs (setStage .quiesce 2 s.notePlaced)
  (s.listedChannels.filter s.chBusy).foldl (fun (s : State) c => chDrain c s) s

/-- The wait for post windows ends: a window still open is clipped (R61). -/
def postWaitEnd (s : State) : State :=
  if s.struct.stage ≠ .waiting ∨ ¬ s.shepherdRuns then s
  else quiesce ((List.range 16).foldl (fun (s : State) g => if s.fgState g = 2 then clipOpen g s else s) s)

/-- The quiesce stage begins where no window is open. -/
def quiesceStage (s : State) : State :=
  let go : Bool := s.struct.stage == .ready || (s.struct.stage == .waiting && !s.postOpen)
  if go ∧ s.shepherdRuns then quiesce s else s

/-- 100 ms of quiesce, or of a warm reset's Stopping, without a frame boundary (R62, R489). -/
def quiesceTimeout (st : Nat) (s : State) : State :=
  if (s.struct.stage = .quiesce ∨ s.rd GLB_RESET_PHASE = 1) ∧ st < 97 then closeFrame st 5 s else s

/-- Whether a region of a stream is held by a frozen group (R63). -/
def regionHeld (s : State) (st r : Nat) : Bool :=
  (List.range 16).any fun g => s.rd (heldRef g r) == 1
    && (s.isMember g st || (Group.wins (s.group g) r).any fun e => e.1 == st)

/-- The pages that a new image gives to streams (R535). -/
def newRuns (im : Image) : List (Nat × PageRun) :=
  match im.streams with
  | none => []
  | some l => match placeAll im.parts l with
    | .ok runs => runs
    | .error _ => []

/-- Whether a held region overlaps a ring page that the new image allocates, other than to the same stream as the same
region (R63; log entry 47). -/
def retainedOverlap (s : State) (im : Image) : Bool :=
  (newRuns im).any fun x => (List.range 97).any fun st => (List.range 2).any fun r =>
    let first := (s.region st r).1 / pageBytes
    let count := (s.region st r).2 / pageBytes
    s.regionHeld st r && runsClash first count x.2.1 x.2.2 && !(st == x.1 && r == 0 && first == x.2.1 && count == x.2.2)

/-- The same for held records whose regions no register names any more, after a module reset (R63, R268). -/
def heldOverlap (s : State) (im : Image) : Bool :=
  (newRuns im).any fun x => (s.records.filterMap (·.2)).any fun v =>
    let first := v.base / pageBytes
    let count := ceilDiv v.size pageBytes
    v.held && runsClash first count x.2.1 x.2.2
      && !(v.stream == x.1 && v.region == 0 && first == x.2.1 && count == x.2.2)

/-- Every closed record is completed and written (R62). -/
def completeAll (s : State) : State :=
  ((s.records.filterMap (·.2)).filter fun r => r.state == 2).foldl (fun (s : State) r =>
    completeRecord r.slot (!s.tagsCover r.mid) s) s

/-- A rollback begins (R63, R65). -/
def rollbackBegin (interrupted res : Nat) (target : Nat × Image) (s : State) : State :=
  let s := s.updStruct fun x => { x with
    stage := .rollback, next := some target, rollbackDue := none, rollbackResult := res }
  ((s.wr STR_STATUS_ROLLBACK 1).wr STR_STATUS_INTERRUPTED interrupted).raise 864 0

/-- Retain (R62, R63): it has its records from the recovery scan, where one is running. -/
def retain (s : State) : State :=
  let busy := s.rd PD_STATUS_SCAN == 1 || (List.range 97).any (fun st => (s.strm st).frame.isSome) || s.listedChannels.any s.chBusy
  if s.struct.stage ≠ .quiesce ∨ ¬ s.shepherdRuns ∨ busy then s
  else match s.struct.next with
    | none => s
    | some x =>
      let s := completeAll (setStage .retain 3 s)
      if s.retainedOverlap x.2 || (s.struct.image.isNone && s.heldOverlap x.2) then
        let s := ((s.wr STR_CHECK_CODE 0x0F).wr STR_CHECK_OFFSET 0).raise 866 0
        rollbackBegin 2 4 (s.struct.prior.getD (0, factoryImage)) s
      else s

/-- The domains that the first activation powers up, in their order (R484). -/
def firstDomains : List Nat := [4, 24, 25, 26, 27, 28, 29, 30, 31, 8, 9, 10, 11, 12, 13]

def firstPower (s : State) : State :=
  if s.struct.powered then s
  else firstDomains.foldl (fun (s : State) d => if s.rd (domainReq d) = 1 ∧ ¬ s.domainOn d then domainUp d s else s)
    (s.updStruct fun x => { x with powered := true })

/-- Registers whose Img fields follow from what they report, not from the image alone. -/
def imgLive (key : Nat) : Bool :=
  let off := key % fnSpan
  (0x100000 ≤ off && off < 0x100028) || (isHeader off && off % 64 == 0x18)
    || (0x610000 ≤ off && off < 0x611000 && off % 0x100 == 0x18) || (0x200000 ≤ off && off < 0x238000 && off % 0x1000 == 0x48)

/-- Img fields of the image before go back to zero, but those of registers that `keep` names (R9). -/
def imgClear (keep : Nat → Bool) (s : State) : State :=
  let s := s.updStruct fun x => { x with img := [] }
  s.fab.regs.foldl (fun (s : State) e =>
    if imgLive e.1 || keep e.1 then s
    else match regAt (e.1 % fnSpan) with
      | none => s
      | some r =>
        let w := r.fields.foldl (fun w f => if f.src == .img then withBits w f.hi f.lo 0 else w) e.2
        if w = e.2 then s else s.ww e.1 w) s

/-- What a register has taken is its Img value from now on, where the image supplies it (R9). -/
def imgTake (key : Nat) (s : State) : State :=
  match regAt (key % fnSpan) with
  | none => s
  | some r => r.fields.foldl (fun (s : State) f =>
      if f.src == .img then imgOnly ⟨key, f.hi, f.lo⟩ (bitsOf (s.rw key) f.hi f.lo) s else s) s

/-- Presets are applied in order (R55); the answer holds the entries of index 4 (R467). -/
def applyPresets (im : Image) (s : State) : State × List Byte :=
  im.presets.foldl (fun (a : State × List Byte) p =>
    let s := imgTake p.1 (regWrite 0 p.1 (BitVec.ofNat 32 p.2) a.1)
    (s, a.2 ++ leBytes 4 p.1 ++ leBytes 4 (s.shownWord 0 p.1).toNat)) (s, [])

/-- Presets and their measurement (R57, R69, R467). -/
def presetsDone (im : Image) (s : State) : State :=
  let r := applyPresets im s
  extend 4 (sha384 r.2) r.1

/-- FH_CONTROL.ENABLE of every fold of the image (R25). -/
def enableFolds (im : Image) (s : State) : State :=
  let on (off : Nat) (v : Bool) (s : State) : State := imgSet (FH_CONTROL_ENABLE off) (if v then 1 else 0) s
  let s := on ROOT_HDR true s
  let s := im.ports.foldl (fun (s : State) e =>
    let s := (entryLanes e).foldl (fun (s : State) n => on (LN_HDR n) e.enable s) (on (PT_HDR e.port) e.enable s)
    if e.lanes = 16 then on (PT_HDR (26 + e.cage)) e.enable (on (PT_HDR (25 + e.cage)) e.enable s) else s) s
  let s := im.folds.foldl (fun (s : State) e =>
    let one (f : Nat) (s : State) : State :=
      (List.range 6).foldl (fun (s : State) k => on (FXSTG_HDR f k) e.enable s) (on (FX_HDR f) e.enable s)
    if e.join = 255 then one e.fold s
    else on (FXJ_HDR (e.fold / 2)) e.enable (one e.join (one e.fold s))) s
  (List.range 8).foldl (fun (s : State) j => on (LN_HDR (48 + j)) true s) s

/-- The image's partition comes into force (R53, R70, R325). -/
def loadPartition (im : Image) (s : State) : State :=
  let saw := (List.range 8).map fun i => (i + 1, s.seenBy (i + 1))
  let parts := if im.streams.isNone then im.parts.map fun q => if q.fn = 1 then { q with streams := 2 ^ 97 - 1 } else q
    else im.parts
  let s := { s with part := parts, streams := im.streams.getD [], streamMoves := [], committing := none }
  let s := s.wr HI_PART_CMD_BUSY 0
  let s := saw.foldl (fun (s : State) x => dropUnseen x.1 x.2 s) s
  let s := (List.range 8).foldl (fun (s : State) i => partShow imgSet ((s.partOf (i + 1)).getD { fn := i + 1 }) s) s
  let share := 3968 / max 1 parts.length
  let fns := (List.range 9).filter fun f => parts.any fun q => q.fn == f
  fns.zipIdx.foldl (fun (s : State) x =>
    imgSet (PD_FN_AREA_COUNT_PAGES (x.1 - 1)) share (imgSet (PD_FN_AREA_FIRST_PAGES (x.1 - 1)) (128 + share * x.2) s)) s

/-- Streams, contexts and regions of the image (R52, R214, R535). -/
def loadStreams (im : Image) (s : State) : State :=
  let s := { s with strms := s.strms.map fun e => (e.1, { e.2 with egWritten := false }) }
  let s := (im.streams.getD []).foldl (fun (s : State) e =>
    let s := imgSet (ST_CTRL_ENABLE (portOf e.stream) (e.stream % 4)) 1 (setShape e.stream (e.width, e.height, e.format) s)
    let s := egImg e.stream (contextInit e (contextNew e s))
    imgSet (PD_ST_CTRL_MODE e.stream) e.mode s) s
  let mode (st : Nat) : Nat := ((s.entryOf st).map (·.mode)).getD 0
  countContexts ((newRuns im).foldl (fun (s : State) x => setRegion x.1 (mode x.1) x.2 s) s)

/-- The freeze groups of the image (R54, R258): a group that is not Frozen is Disarmed until Resume. -/
def loadGroups (im : Image) (s : State) : State :=
  let s := (List.range 16).foldl (fun (s : State) g => if s.fgState g = 1 ∨ s.fgState g = 2 then fgEnter g 0 s else s) s
  let s := im.freezes.foldl (fun (s : State) e =>
    let s := imgSet (PD_FG_CFG_SOURCE e.group) e.source (imgSet (PD_FG_CFG_SOURCE_INDEX e.group) e.index s)
    let s := imgSet (PD_FG_CFG_EDGE e.group) e.edge (imgSet (PD_FG_CFG_UNIT e.group) e.unit s)
    imgSet (PD_FG_PRE_VALUE e.group) e.pre (imgSet (PD_FG_POST_VALUE e.group) e.post s)) s
  (im.streams.getD []).foldl (fun (s : State) e =>
    if e.group < 16 then imgSet (memberRef e.group e.stream) 1 s else s) s

/-- Delivery, time and paths of the factory image (R70, R257). -/
def loadFactory (s : State) : State :=
  let s := factoryPen 0 12 (128 * pageBytes) (129 * pageBytes) s
  let s := ((s |> imgSet PD_OFFER_ENABLE 1) |> imgSet PD_OFFER_FUNCTION 1) |> imgSet PD_OFFER_PEN 0
  let s := ((s |> imgSet (NF_CTRL_ENABLE 63) 1) |> imgSet (NF_CTRL_OWNER 63) 1) |> imgSet (NF_CTRL_STREAM 63) 0x7F
  let s := (s |> imgSet NP_CTRL_SERVE_OPEN 1) |> imgSet (NPP_CFG_ENABLE 0) 1 |> imgSet (NPP_CFG_ENABLE 1) 1
  (s |> imgSet (TD_PTP_CFG_ROLE 0) 1) |> imgSet (TD_PTP_CFG_DOMAIN_AUTO 0) 1 |> imgSet (TD_PTP_CFG_TRANSPORT 0) 3

/-- Contexts and what the folds had under way are gone with the image before. -/
def clearFolds (s : State) : State :=
  let s := (List.range 8).foldl (fun (s : State) f => emptyStore f s) s
  let s := resetRegs (fun k => CX_CTRL 0 ≤ k && k < CX_CTRL 2048) s
  { s with ctxs := [], folds := [] }

/-- Ports of the image before that the new image does not have as they were (R62). -/
def dropPorts (im : Image) (s : State) : State :=
  (List.range 24).foldl (fun (s : State) P =>
    match s.portEntry P with
    | some e => if im.ports.contains e then s else portOff P s
    | none => s) s

/-- The precision-time settings that R357 watches. -/
def ptpKey (s : State) (d : Nat) : Nat × Nat × Nat :=
  (s.rd (TD_PTP_CFG_ROLE d), s.rd (TD_PTP_CFG_DOMAIN_AUTO d), s.rd (TD_PTP_CFG_DOMAIN d))

/-- The image comes into force: all of Reconfigure but the power-up (R62). -/
def loadImage (source : Nat) (im : Image) (s : State) : State :=
  let ptp := (s.ptpKey 0, s.ptpKey 1)
  let s := clearFolds (resetChannels 2 (fun _ => true) (dropPorts im s))
  let keep (k : Nat) : Bool := im.presets.any (fun p => p.1 == k)
    || (im.factory && (k == NPP_CFG 0 || k == NPP_CFG 1 || k == TD_PTP_CFG 0 || k == TD_PTP_CFG 1))
  let s := imgClear keep s
  let s := s.listedPens.foldl (fun (s : State) p => penReset p s) s
  let s := s.updStruct fun x => { x with image := some im, lastFold := none, carried := [] }
  let s := enableFolds im (loadPartition im s)
  let s := im.ports.foldl (fun (s : State) e => imgSet (PT_FILL_VALUE e.port) e.fill s) s
  let s := loadGroups im (loadStreams im s)
  let s := (List.range 24).foldl (fun (s : State) n => trigCancel n s) s
  let s := ((List.range 48).filter fun n => (s.lanePort n).isNone).foldl (fun (s : State) n => laneRequest n 1 s) s
  let s := (List.range 8).foldl (fun (s : State) j => imgSet (LN_CTRL_RATE (48 + j)) 3 s) s
  let s := if im.factory then loadFactory s else s
  let s := (s |> imgSet STR_STATUS_ACTIVE source) |> imgSet STR_ACTIVE_SERIAL_SERIAL im.serial
  let s := presetsDone im s
  let s := if s.ptpKey 0 = ptp.1 then s else s.ptpCfgChanged 0
  let s := if s.ptpKey 1 = ptp.2 then s else s.ptpCfgChanged 1
  pathFollow 1 (pathFollow 0 s)

/-- Reconfigure (R62). -/
def reconfigure (s : State) : State :=
  if (s.struct.stage ≠ .retain ∧ s.struct.stage ≠ .rollback) ∨ ¬ s.shepherdRuns then s
  else match s.struct.next with
    | none => s
    | some x => loadImage x.1 x.2 (firstPower (setStage .reconfigure 4 s))

/-- Whether the cages of a port have power. -/
def portPowered (s : State) (P : Nat) : Bool :=
  match s.portEntry P with
  | some e => (entryCages e).all fun c => s.domainOn (8 + c)
  | none => false

/-- Retrain (R62): every camera link of every enabled port restarts from Listen. -/
def retrainStage (s : State) : State :=
  if s.struct.stage ≠ .reconfigure ∨ ¬ s.shepherdRuns then s
  else ((List.range 24).filter fun P => s.portPowered P && s.rd (FH_CONTROL_ENABLE (PT_HDR P)) == 1).foldl
    (fun (s : State) P => listenAfresh P (leaveActive P 5 s)) (setStage .retrain 5 s)

/-- A region that the new image does not keep starts empty, unless a group holds it (R63). -/
def emptyRegions (st : Nat) (s : State) : State :=
  let s := (List.range 2).foldl (fun (s : State) r =>
    if s.regionHeld st r then s
    else ((s.frames st).filter fun v => v.region == r && !v.held).foldl (fun (s : State) v => markOver v s) s) s
  if s.regionHeld st (s.activeRegion st) then s
  else
    let r := ((s.groupOf st).map s.fgRegion).getD 0
    smallCheck st (((s.wr (PD_ST_CTRL_ACTIVE_REGION st) r).wr (PD_ST_CTRL_BURST_DONE st) 0).wr (PD_ST_WRITE_OFFSET st) 0)

/-- Whether a stream's region is the one it had in the image before (R63). -/
def regionKept (s : State) (st : Nat) : Bool :=
  match s.entryOf st with
  | none => false
  | some e => s.struct.placed.contains
      ⟨st, e.ringPages, s.rd (PD_ST_REGION_A_FIRST_PAGES st), s.rd (PD_ST_REGION_A_PAGES_PAGES st)⟩

/-- The commit marker of a slot image (R66). -/
def commitMarker (source : Nat) (im : Image) (s : State) : State :=
  if source = 1 ∨ source = 2 then
    let seq := max (markerSeq s.struct.slotA) (markerSeq s.struct.slotB) + 1
    let f := s.flash (source - 1)
    (setFlash (source - 1) { f with marker := markerBytes im.serial seq im.digest } s).wr (STR_SLOT_STATE_GOOD (source - 1)) 1
  else s

/-- Freezes held through the activation reach the groups of the new image, or are lost (R64). -/
def releaseFreezes (im : Image) (s : State) : State :=
  let l := s.struct.heldFreezes
  l.foldl (fun (s : State) h =>
    if im.freezes.any fun e => e.group == h.group then fgHeld h.group h.time h.cause s else fgLost h.group s)
    (s.updStruct fun x => { x with heldFreezes := [] })

/-- Groups with members are armed, and burst streams start a new fill (R252, R258). -/
def resumeGroups (s : State) : State :=
  let s := (List.range 16).foldl (fun (s : State) g =>
    if (s.members g).isEmpty || s.fgState g != 0 then s else enterArmed g s) s
  (s.streams.filter fun e => (s.groupOf e.stream).isNone).foldl (fun (s : State) e => burstRearm e.stream s) s

/-- Resume (R62–R66). -/
def resume (s : State) : State :=
  match s.struct.next with
  | none => s
  | some (source, im) =>
    if s.struct.stage ≠ .retrain ∨ ¬ s.shepherdRuns ∨ (s.unseated ∧ (source = 1 ∨ source = 2)) then s
    else
      let back := s.rd STR_STATUS_ROLLBACK = 1
      let s := factoryRetrain (s.wr STR_STATUS_STATE 6)
      let s : State := ((List.range 97).filter fun st => !s.regionKept st).foldl (fun (s : State) st => emptyRegions st s) s
      let s : State := { s with strms := s.strms.map fun e => (e.1, { e.2 with resync := true }) }
      let previous := (s.struct.prior.map (·.1)).getD 0
      let res := if back then s.struct.rollbackResult else 1
      let s := s.updStruct fun x => { x with stage := .idle, next := none, prior := none, rollbackDue := none }
      let s := releaseFreezes im (resumeGroups s)
      let s := commitMarker source im s
      let s := result res ((s.wr STR_STATUS_ROLLBACK 0).wr STR_STATUS_STATE 0)
      let s := if back then s else s.wr STR_STATUS_PREVIOUS previous
      let s := s.wr STR_ACT_TIME_MICROSECONDS ((s.now - s.struct.goTime) / Time.ofUs 1)
      flrDueNow ((s.raise 865 0).milestone 5)

/-! Boot and rollback. -/

/-- The good slots, the one with the higher SEQ first (R67). -/
def goodSlots (s : State) : List Nat :=
  let a := s.rd (STR_SLOT_STATE_GOOD 0) = 1
  let b := s.rd (STR_SLOT_STATE_GOOD 1) = 1
  if a ∧ b then if markerSeq s.struct.slotA < markerSeq s.struct.slotB then [1, 0] else [0, 1]
  else if a then [0] else if b then [1] else []

/-- The activation that boot selection begins (R67): of the first slot that passes its check, or of the factory image. -/
def bootSlots : List Nat → State → State
  | [], s => beginActivation 0 factoryImage s
  | n :: r, s =>
    match checkImage (s.flash n).image with
    | .ok im => beginActivation (n + 1) im s
    | .error e => bootSlots r (checkFailed e s)

def bootSelect (s : State) : State := bootSlots s.goodSlots s

/-- The rollback that a reset has left due (R65). -/
def rollback (s : State) : State :=
  match s.struct.rollbackDue with
  | none => s
  | some c =>
    if ¬ s.shepherdRuns ∨ s.rd GLB_RESET_BUSY = 1 ∨ s.struct.stage ≠ .idle then s
    else match s.struct.prior with
      | none => bootSelect (s.updStruct fun x => { x with rollbackDue := none })
      | some p =>
        let s := (List.range 97).foldl (fun (s : State) st => closeFrame st 5 s) s.notePlaced
        (rollbackBegin c 3 p (idleOutputs s)).raise 866 0 |>.wr STR_STATUS_STATE 4

/-- STR_CTRL operations that have waited for the shepherd, oldest first (R463). -/
def serveStructure (s : State) : State :=
  let l := s.struct.waiting
  l.foldl (fun (s : State) o => strServe o.1 o.2 s) (s.updStruct fun x => { x with waiting := [] })

/-- What has waited for the shepherd is served. -/
def serveAll (s : State) : State := serveStructure (serveWaiting s)

end State

/-- A word of STR_CTRL with one operation. -/
def strWord (bit source wait : Nat) : Word := BitVec.ofNat 32 (2 ^ bit + 256 * wait + source)

/-- STR_GO (R60–R62): STR_CTRL written with GO, SOURCE and POST_WAIT_S. -/
def execStrGo (source wait : Nat) (s : State) : Host.Outcome State Fault Refusal := .next (s.strCtrl 0 (strWord 31 source wait))

/-- STR_CHECK (R60). -/
def execStrCheck (source wait : Nat) (s : State) : Host.Outcome State Fault Refusal := .next (s.strCtrl 0 (strWord 30 source wait))

/-- STR_PROGRAM (R68). -/
def execStrProgram (source wait : Nat) (s : State) : Host.Outcome State Fault Refusal :=
  .next (s.strCtrl 0 (strWord 29 source wait))

/-- PROGRAM_DONE (R68, R472). -/
def execProgramDone (fail : Bool) (s : State) : Host.Outcome State Fault Refusal := .next (s.programDone fail)

/-- POST_WAIT_END (R61). -/
def execPostWaitEnd (s : State) : Host.Outcome State Fault Refusal := .next s.postWaitEnd

/-- ACTIVATION_QUIESCE (R62). -/
def execActivationQuiesce (s : State) : Host.Outcome State Fault Refusal := .next s.quiesceStage

/-- QUIESCE_TIMEOUT (R62). -/
def execQuiesceTimeout (st : Nat) (s : State) : Host.Outcome State Fault Refusal := .next (s.quiesceTimeout st)

/-- ACTIVATION_RETAIN (R63). -/
def execActivationRetain (s : State) : Host.Outcome State Fault Refusal := .next s.retain

/-- ACTIVATION_RECONFIGURE (R62). -/
def execActivationReconfigure (s : State) : Host.Outcome State Fault Refusal := .next s.reconfigure

/-- ACTIVATION_RETRAIN (R62). -/
def execActivationRetrain (s : State) : Host.Outcome State Fault Refusal := .next s.retrainStage

/-- ACTIVATION_RESUME (R62). -/
def execActivationResume (s : State) : Host.Outcome State Fault Refusal := .next s.resume

/-- ACTIVATION_ROLLBACK (R65). -/
def execActivationRollback (s : State) : Host.Outcome State Fault Refusal := .next s.rollback

end Sys2Proof.Machine
end

