-- ==== Sys2Proof/Machine/Bellwether.lean ====
section
/-!
DEFINITION. The bellwether tick (R20, R21, R29–R36): its boundary, the control work it owes and runs in order, what is
carried, and what the device reports of it.
-/
namespace Sys2Proof.Machine

/-- Work of the trigger sequencer (R410). -/
def Work.ofSequencer : Work → Bool
  | .evaluate | .camWrite _ | .heldBlock _ | .placements _ _ | .expCommit _ => true
  | .units | .encSample .. | .absSample .. | .collect _ _ | .shadowCommit _ => false

namespace State

/-! What a tick owes (R33, R366, R383, R389, R410, R420, R427). -/

/-- The exposure writes of a channel whose control work has not run. -/
def camWork (s : State) (n : Nat) : List (Nat × Work) :=
  ((s.trig n).camDue.filter fun x => !x.2.2).map fun _ => (4, .camWrite n)

/-- Held blocks of a port that have come near enough to be sent (R402). -/
def heldWork (s : State) (P : Nat) : List (Nat × Work) :=
  ((s.port P).held.filter fun x => x.long && x.at_ ≤ s.now + Time.ofMs 16).map fun _ => (3, .heldBlock P)

/-- Step 2: trigger rules, exposure writes, held blocks, and requests of absolute channels. -/
def rulesWork (s : State) (asked : Nat) : List (Nat × Work) :=
  let n := ((List.range 24).filter fun n => s.rd (TR_CTRL_ENABLE n) == 1).length
  [(n, .evaluate)] ++ (List.range 24).flatMap s.camWork ++ (List.range 24).flatMap s.heldWork ++ [(asked, .units)]

/-- The sample of an encoder (R383). -/
def encoderWork (s : State) (k : Nat) : List (Nat × Work) :=
  if s.rd (EN_CTRL_ENABLE k) = 0 then []
  else
    let edge := (s.enc k).hist.head?.map fun x => (x.at_, x.bound, x.back)
    [(3, .encSample k s.now edge (s.encPos k) (s.rw (EN_STATUS k)))]

/-- The sample of an absolute channel that completed one in the tick before. -/
def absoluteWork (s : State) (j : Nat) : List (Nat × Work) :=
  if (s.absChan j).done then [(2, .absSample j (s.rdTime (SA_TIME j)) (s.rdWide (SA_POS j) 2))] else []

def placementWork (s : State) (n : Nat) : List (Nat × Work) :=
  let c := (s.trig n).unposted.length
  if c = 0 then [] else [(c, .placements n c)]

/-- Step 3: the counters, the slots, position and placements. -/
def postWork (s : State) : List (Nat × Work) :=
  [(4 + 2 * s.tb.fired, .units)] ++ (List.range 4).flatMap s.encoderWork ++ (List.range 4).flatMap s.absoluteWork
    ++ (List.range 24).flatMap s.placementWork

/-- Step 4: converter samples, and the gap prediction of blocks that are due. -/
def collectWork (s : State) : List (Nat × Work) :=
  let due := ((List.range 4).filter fun b => s.rd (CB_STATUS_STATE b) != 0).length
  ((List.range 8).filter fun c => s.rd (AI_CTRL_ENABLE c) == 1).map (fun c => (2, .collect c (s.ai c).fresh.length))
    ++ [(due, .units)]

/-- Step 5: exposure banks, and the control-side shadow sets of streams whose frame began. -/
def commitWork (s : State) : List (Nat × Work) :=
  ((List.range 24).filter fun n => match (s.trig n).commit with
    | .tick m => m ≤ s.bw.count
    | _ => false).map (fun n => (2, .expCommit n)) ++ s.bw.commits.map fun st => (2, .shadowCommit st)

/-! What a piece of work does when its units have run. -/

def postEncoder (k : Nat) (x : EncSample) (s : State) : State :=
  s.updEnc k fun e => { e with tags := (x :: e.tags).take 8192 }

/-- The first exposure of a channel whose control work has not run goes on to its port (R407). -/
def camRun : List (Nat × Nat × Bool) → List (Nat × Nat × Bool)
  | [] => []
  | x :: r => if x.2.2 then x :: camRun r else (x.1, x.2.1, true) :: r

/-- The first generation of a context whose control work has not run may be published (R21). -/
def publishRun : List (Nat × Bool) → List (Nat × Bool)
  | [] => []
  | x :: r => if x.2 then x :: publishRun r else (x.1, true) :: r

def workDone (w : Work) (s : State) : State :=
  match w with
  | .units | .evaluate => s
  | .camWrite n => s.updTrig n fun t => { t with camDue := camRun t.camDue }
  | .heldBlock P => releaseBlock P s
  | .encSample k tick edge count status =>
    postEncoder k ⟨tick, edge.map fun x => ⟨x.1, x.2.1, x.2.2⟩, count, status⟩ s
  | .absSample j at_ pos => s.setAbs j { s.absChan j with posted := some (at_, pos) }
  | .placements n count => postPlacements n count s
  | .collect c count => collect c count s
  | .expCommit n => s.updTrig n fun t => match t.commit with
    | .tick _ => { t with commit := .ready }
    | _ => t
  | .shadowCommit st => match s.homeOf st with
    | some h => s.updCtx (ctxKey h) fun x => { x with publish := publishRun x.publish }
    | none => s

/-- Work runs in order for so many units; the rest is carried from the exact point it has reached (R36). -/
def runWork : List (Nat × Work) → Nat → State → State
  | [], _, s => { s with bw := { s.bw with queue := [] } }
  | (u, w) :: r, left, s =>
    let used := min u left
    let s := if w.ofSequencer then { s with bw := { s.bw with sequencer := s.bw.sequencer + used } } else s
    if u ≤ left then runWork r (left - u) (workDone w s)
    else { s with bw := { s.bw with queue := (u - left, w) :: r } }

/-- The end of a tick (R36, R410): its demand, its overrun, and the sequencer's units. -/
def tickEnd (s : State) : State :=
  if s.bw.count = 0 then s
  else
    let cap := bwCapacity s.bw.period
    let s := (s.wr GLB_BW_LOAD_LAST s.bw.demand).wr GLB_BW_PEAK_PEAK (max (s.rd GLB_BW_PEAK_PEAK) s.bw.demand)
    let s := s.wr TR_LOAD_UNITS s.bw.sequencer
    if s.bw.queue.isEmpty then s
    else (s.tally GLB_BW_OVERRUN_TALLY_COUNT (if cap < s.bw.carried then 2 else 1)).raise 656 0

/-- Starts that the tick itself asks for (R389, R416): the answer counts the requests of absolute channels. -/
def tickStarts (s : State) : State × Nat :=
  let hits (on div : Nat) : Bool := on == 1 && div != 0 && s.bw.count % div == 0
  let s' := (List.range 8).foldl (fun (s : State) c =>
    if hits (s.rd (AI_START_ON_TICK c)) (s.rd (AI_START_TICK_DIV c)) then aiStart c s.tb.dev s else s) s
  let js := (List.range 4).filter fun j => hits (s.rd (SA_REQ_ON_TICK j)) (s.rd (SA_REQ_TICK_DIV j))
  (js.foldl (fun (s : State) j => absAsk j s) s', js.length)

/-- A tick begins at the next boundary (R30–R33). -/
def tick (s : State) : State :=
  let s := if s.bw.pendingPeriod.isSome ∧ secondFrom s.tb.dev ≤ s.bw.next then bwApply s else s
  let s := s.runTo s.bw.next
  if s.tb.dev < s.bw.next then s
  else
    let s := tickEnd s
    let s := { s with bw := { s.bw with next := s.bw.next + ns32 s.bw.period, count := s.bw.count + 1, sequencer := 0 } }
    let s := (List.range 24).foldl (fun (s : State) n => trigPromote n s) s
    let r := tickStarts s
    let s := r.1
    let carried := (s.bw.queue.map (·.1)).sum
    let work := s.bw.queue ++ s.rulesWork r.2 ++ s.postWork ++ s.collectWork ++ s.commitWork
    let demand := (work.map (·.1)).sum
    let s := (List.range 4).foldl (fun (s : State) j =>
      if (s.absChan j).done then s.setAbs j { s.absChan j with done := false } else s) s
    let s := { s with tb := { s.tb with fired := 0 }, bw := { s.bw with demand := demand, carried := carried, commits := [] } }
    runWork work (bwCapacity s.bw.period) s

end State

/-- BELLWETHER_TICK (R33). -/
def execBellwetherTick (s : State) : Host.Outcome State Fault Refusal := .next s.tick

end Sys2Proof.Machine
end

