-- ==== Sys2Proof/Machine/Resets.lean ====
section
/-!
DEFINITION. Supplies, resets, start-up and live plugging (R475, R483, R484, R487–R496, R500): what each kind of reset
keeps, the shepherd's boot (R464) and watchdog (R477), function-level reset of the management function (R331) and the
loss of the host link (R323).
-/
namespace Sys2Proof.Machine

namespace State

/-! What a reset keeps. -/

/-- The shepherd's registers, in the always-on domain. -/
def alwaysOnReg (key : Nat) : Bool := 0xF80000 ≤ key && key < 0xF82000

/-- The two supply registers, which show what is there whatever the core does. -/
def supplyReg (key : Nat) : Bool := key == GLB_SUPPLY || key == GLB_SUPPLY_STAT

/-- A flash write under way is cut (R432, R466, R479, R496): the slot it had begun to write stays invalid. -/
def cutFlash (s : State) : State :=
  let s : State := match s.shep.mailbox, s.uploadOf .mailbox true with
    | some 0x12, some _ =>
      if s.unseated then s
      else s.updShep fun x => if s.rd SH_STATUS_FW_SLOT = 1 then { x with fwA := {} } else { x with fwB := {} }
    | _, _ => s
  let s := { s with calFlash := { s.calFlash with write := none, last := none, held := false } }
  let s := if s.struct.stage = .programming then setStage .idle 0 s else s
  s.updStruct fun x => { x with program := none }

/-- The core, its registers and everything under way in it are gone; the paddock, the flash, the shepherd's own state,
and what a rollback and the recovery scan will ask for stay (R266, R475, R487). -/
def coreOff (keep : Nat → Bool) (s : State) : State :=
  { pending := s.pending
    fab := { regs := s.fab.regs.filter (fun e => keep e.1), mem := s.fab.mem, out := s.fab.out }
    struct := {
      slotA := s.struct.slotA, slotB := s.struct.slotB, uploaded := s.struct.uploaded, upload := s.struct.upload
      prior := s.struct.prior, rollbackDue := s.struct.rollbackDue, rollbackResult := s.struct.rollbackResult
      placed := s.placedNow }
    records := s.records
    calFlash := { copy0 := s.calFlash.copy0, copy1 := s.calFlash.copy1 }
    shep := s.shep
    power := s.power
    freeCounter := s.freeCounter }

/-- The paddock's contents are lost (R483, R496), and with them what a rollback would have kept (R65). -/
def paddockLost (s : State) : State :=
  { s with
    fab := { s.fab with mem := [] }
    records := []
    struct := { s.struct with prior := none, rollbackDue := none, rollbackResult := 0, placed := [] } }

/-- The shepherd as it leaves reset (R464): its RAM is empty but for the endpoint ID; firmware slots and the health log
stand in flash. -/
def shepherdFresh (s : State) : State :=
  { s with
    shep := {
      fwA := s.shep.fwA, fwB := s.shep.fwB, health := s.shep.health, healthNext := s.shep.healthNext, eid := s.shep.eid
      hot := s.shep.hot }
    struct := { s.struct with upload := none } }

/-- The always-on domain has lost both supplies (R482): its registers and RAM are gone. -/
def alwaysOnLost (s : State) : State :=
  let s := shepherdFresh (s.inFab fun b => { b with regs := b.regs.filter fun e => !alwaysOnReg e.1 })
  { s with
    shep := { s.shep with eid := 0, hot := [] }
    struct := { s.struct with uploaded := [] }
    power := { s.power with lost := true } }

/-! Supplies. -/

/-- 12 V is lost (R483, R496): every domain but the always-on is unpowered, and the paddock contents are lost. -/
def supplyLost (aux seated : Bool) (s : State) : State :=
  let s := paddockLost (coreOff alwaysOnReg (cutFlash (cutActivation s)))
  let s := { s with power := { v12 := false, aux := aux, seated := seated, lost := s.power.lost } }
  let s := (s.wrIf GLB_SUPPLY_STAT_AUX_OK aux).wrIf GLB_SUPPLY_STAT_SEATED seated
  if aux then s else alwaysOnLost s

/-- The auxiliary supply comes or goes (R482, R501): with neither supply the always-on domain is off. -/
def auxChange (present : Bool) (s : State) : State :=
  if s.power.aux = present then s
  else
    let s := { s with power := { s.power with aux := present } }.wrIf GLB_SUPPLY_STAT_AUX_OK present
    if s.power.v12 then s.raise 913 (if present then 1 else 0) else if present then s else alwaysOnLost s

/-- A first level of 12 V outside the operating range warns (R483). -/
def supplyFirst (mv : Nat) (s : State) : State :=
  let s := s.wr GLB_SUPPLY_V12_MV mv
  let r := supplyRange mv
  if r = 1 then (s.wr GLB_SUPPLY_STAT_UV_WARN 1).raise 912 mv
  else if r = 2 then (s.wr GLB_SUPPLY_STAT_OV_WARN 1).raise 912 mv else s

/-- The domains that come up with 12 V, and after a module reset (R484). -/
def coreUp (s : State) : State := (s.wr GLB_PWR_STATUS_PATHS 3).wr GLB_PWR_STATUS_PHY 1

/-- A cold reset (R484, R487, R491): 12 V, in mV, becomes good while PRSNT2_N reads low. -/
def coldReset (mv : Nat) (s : State) : State :=
  if s.power.v12 ∨ mv < 10900 ∨ 14000 < mv then s
  else
    let held := !s.power.lost
    let aux := s.power.aux
    let s := shepherdFresh (paddockLost (coreOff (fun _ => false) s))
    let s := { s with power := { v12 := true, aux := aux, seated := true, lost := false } }
    let s := ((s.wrIf GLB_SUPPLY_STAT_AUX_OK aux).wr GLB_SUPPLY_STAT_V12_OK 1).wr GLB_SUPPLY_STAT_SEATED 1
    let s := (s.wr GLB_RESET_CAUSE_LAST 1).wrIf GLB_RESET_CAUSE_AUX_HELD held
    let s := s.wr STR_RAM_LEN_BYTES s.struct.uploaded.length
    supplyFirst mv (coreUp s)

/-- 12 V leaves or returns to its operating range; above 14.0 V the input disconnects (R483). -/
def rangeChange (mv : Nat) (s : State) : State :=
  if ¬ s.power.v12 ∨ mv < 10500 then s
  else if 14000 < mv then supplyLost s.power.aux s.power.seated s
  else supplyMoves mv s

/-! Module reset. -/

/-- Intake stops, and the paddock enters self-refresh (R475, R488): what was in assembly is left as it stands. -/
def selfRefresh (s : State) : State :=
  let s := { s with strms := [], ctxs := [], folds := [] }
  (s.wr GLB_PWR_STATUS_PADDOCK_SR 1).wr PD_STATUS_SELF_REFRESH 1

/-- MRST_N (0) or PERST_N (1) is asserted while 12 V is held (R488). -/
def resetAssert (line : Nat) (s : State) : State :=
  if ¬ s.power.v12 ∨ 1 < line ∨ s.power.lines.contains line then s
  else
    let first := !s.power.inReset
    let s := { s with power := { s.power with lines := line :: s.power.lines, inReset := true, released := false } }
    let s := if line = 1 ∧ s.rd GLB_PWR_REQ_PHY_OFF_IN_RESET = 1 then s.wr GLB_PWR_STATUS_PHY 0 else s
    if first then selfRefresh ((idleOutputs (cutFlash (cutActivation s))).wr SH_STATUS_STATE 0) else s

/-- The start-up after a module reset (R487, R488, R491): reset values, the paddock kept, and the recovery scan. -/
def startUp (line : Nat) (s : State) : State :=
  let trip := s.power.tripped
  let s := shepherdFresh (coreOff supplyReg s)
  let s := { s with power := {
    v12 := true, aux := s.power.aux, seated := s.power.seated, lastLine := line }, scanFull := true }
  let s := (s.wr GLB_RESET_CAUSE_LAST (2 + line)).wrIf GLB_RESET_CAUSE_AFTER_TRIP trip
  let s := ((s.wr GLB_SUPPLY_STAT_UV_WARN 0).wr GLB_SUPPLY_STAT_OV_WARN 0).wr STR_RAM_LEN_BYTES s.struct.uploaded.length
  let s := ((coreUp s).wr GLB_PWR_STATUS_PADDOCK_SR 1).wr PD_STATUS_SELF_REFRESH 1
  (s.wr PD_STATUS_SCAN 1).milestone 3

/-- Whether a sensor still reads 95 °C or above (R475). -/
def stillHot (s : State) : Bool := (List.range 12).any fun i => 16 * 95 ≤ signed 16 (s.rd (SH_TEMP_NOW i))

/-- A line is released (R488): the reset ends when both are high, after a trip not before every sensor reads below 95 °C
(R475). PERST_N released outside a module reset is the milestone of R491. -/
def resetRelease (line : Nat) (s : State) : State :=
  if ¬ s.power.v12 ∨ 1 < line then s
  else if ¬ s.power.lines.contains line then if line = 1 ∧ ¬ s.power.inReset then s.milestone 3 else s
  else
    let s := { s with power := { s.power with lines := s.power.lines.filter (· != line), lastLine := line } }
    if ¬ s.power.lines.isEmpty then s
    else if s.power.tripped ∧ s.stillHot then { s with power := { s.power with released := true } }
    else startUp line s

/-! Thermal trip (R475). -/

/-- A trip: outputs idle, the paddock in self-refresh, and every domain but always-on and paddock off. -/
def trip (s : State) : State :=
  let s := cutFlash (cutActivation (idleOutputs s))
  let s := coreOff (fun k => alwaysOnReg k || supplyReg k) s
  let s := selfRefresh { s with power := { s.power with tripped := true, jobs := [], queue := [], railOff := [] } }
  healthAppend false ((s.wr SH_STATUS_TRIPPED 1).tally SH_TRIP_TALLY_COUNT)

/-- A sample of the twelve sensors, each in two's complement of 16 bits (R473–R475). -/
def thermalSample (temps : List Nat) (s : State) : State :=
  let raw := temps.take 12
  let t := raw.map (signed 16)
  let s := thermalRead raw s
  let s := throttleMs (stepJoin ((List.range 8).foldl (fun (s : State) f => stepFold t f s) s))
  let s := thermalWarn t s
  let hot := (List.range t.length).filter fun i => 16 * 115 ≤ t.getD i 0
  let again := hot.any s.shep.hot.contains
  let s := s.updShep fun x => { x with hot := hot }
  if again ∧ ¬ s.power.tripped then trip s
  else if s.power.released ∧ ¬ s.stillHot then startUp s.power.lastLine s else s

/-! The shepherd's boot (R464). -/

/-- Steps 3 to 5 of R464, once firmware runs: identity, health log, coefficients, and an image or a rollback. -/
def firmwareBoots (s : State) : State :=
  let s := extend 5 (sha384 Config.identity) s
  let s := (healthLoad s).tally SH_BOOTS_COUNT
  let s := extendSet (calLoadBoot s)
  let s := (List.range 4).foldl (fun (s : State) b => calDue b false s) s
  let s := showSlot 1 (showSlot 0 s)
  let s := match s.struct.rollbackDue, s.struct.prior with
    | some _, some p => extend 2 p.2.digest s
    | _, _ => bootSelect s
  serveAll s

/-- The shepherd leaves reset (R464, R491): ROM, then firmware, then the rest. -/
def shepherdBoot (s : State) : State :=
  if s.rd SH_STATUS_STATE ≠ 0 ∨ ¬ s.power.v12 ∨ s.power.inReset ∨ s.power.tripped then s
  else
    let s := extend 0 (digestBytes Config.romDigest) ((s.milestone 0).milestone 2)
    let s := (startFirmware s).milestone 1
    if s.shepherdRuns then firmwareBoots s else serveAll s

/-- The watchdog restarts the shepherd (R477). -/
def watchdog (s : State) : State :=
  if s.shepherdRuns then serveAll (restartFirmware 1 (s.tally SH_WDOG_TALLY_COUNT)) else s

/-! Warm reset (R489). -/

/-- Registers that a warm reset leaves whole: the reset's own, the fold tree, links, encoders, the DV_CTRL of R317, freeze
group states and the MSI-X table (R266, R392, R489). -/
def warmWhole (off : Nat) : Bool :=
  off == GLB_RESET || isHeader off
    || (0x200000 ≤ off && off < 0x238000 && [0x40, 0x48, 0x4C, 0x54, 0x58, 0x6C].contains (off % 0x1000))
    || (0x610000 ≤ off && off < 0x611000 && off % 0x100 == 0x18)
    || (0x800000 ≤ off && off < 0x900000 && off % 0x10000 == 0)
    || (0xA00000 ≤ off && off < 0xA10000) || (0xF40000 ≤ off && off < 0xF41020)

/-- Registers whose RO fields report on what a warm reset ends; the others report on what runs on. -/
def warmEnds (off : Nat) : Bool :=
  off == GLB_BW_LOAD || (0x220 ≤ off && off < 0x240)
    || (0x300800 ≤ off && off < 0x332000 && 0x800 ≤ off % 0x2000 && off % 0x100 == 0x2C)
    || (0x410000 ≤ off && off < 0x500000 && 0x10000 ≤ (off - 0x400000) % 0x20000
      && (off % 0x100 == 0 || (0x14 ≤ off % 0x100 && off % 0x100 < 0x24) || 0x80 ≤ off % 0x100))
    || (0x500000 ≤ off && off < 0x5C0000) || (0x600000 ≤ off && off < 0x600100)
    || (0x800000 ≤ off && off < 0x900000 && 0x10 ≤ off % 0x10000) || (0xF00000 ≤ off && off < 0xF20000)

/-- A register over a warm reset (R8, R69). -/
def warmWord (img : Tab Word) (key : Nat) (w : Word) : Word :=
  let off := key % fnSpan
  match regAt off with
  | none => w
  | some r => if warmWhole off then w else r.kept (!warmEnds off) w (tget resetWord img key)

def warmRegs (s : State) : State :=
  let img := s.struct.img
  let t := s.fab.regs.foldl (fun t e => tset resetWord t e.1 (warmWord img e.1 e.2)) s.fab.regs
  let t := img.foldl (fun t e => tset resetWord t e.1 (warmWord img e.1 (tget resetWord t e.1))) t
  s.inFab fun b => { b with regs := t }

/-- A context over a warm reset (R210, R246): its generation advances, its commit is cancelled and its histories end. -/
def warmContext (h : Nat × Nat) (s : State) : State :=
  let g := (s.rd (FXC_GEN_VALUE h.1 h.2) + 1) % 65536
  let s := s.updCtx (ctxKey h) fun x => { x with
    gen := g, publish := [], clearDark := true, clearCoder := true, restart := 0, dark := none, coder := none
    written := [], taken := false, coderWritten := false }
  ((s.wr (FXC_GEN_VALUE h.1 h.2) g).wr (FXC_STATUS_DARK_NOHIST h.1 h.2) 1).wr (FXC_STATUS_LATE h.1 h.2) 0

/-- With KEEP_SERVO 0 the increments return to nominal and the servos lose their history (R368). -/
def warmTime (s : State) : State :=
  let s := s.tb.slots.foldl (fun (s : State) e => s.slotDisarm e.1) s
  if s.rd TB_CTRL_KEEP_SERVO = 1 then s
  else [0, 1].foldl (fun (s : State) d =>
    let s := (s.wr (TD_INC_FRAC_FRAC d) 0x40000000).wr (TD_INC_INT_INT d) 1
    loseHistory d (s.updCounter d fun c => { c with base := 0x140000000 })) s

/-- A calibration run under way is discarded and due again (R435). -/
def warmCal (s : State) : State :=
  (List.range 4).foldl (fun (s : State) b =>
    if s.rd (CB_STATUS_STATE b) < 2 then s
    else calDue b (s.cal b).forced (s.wr (CB_STATUS_STATE b) 0)) s

/-- Stopping (R489): outputs idle, channels stopped and reset, post windows ended; an activation is cut (R65, R500). -/
def warmReset (s : State) : State :=
  if s.rd GLB_RESET_BUSY = 1 then s
  else
    let s := idleOutputs (cutActivation ((s.wr GLB_RESET_BUSY 1).wr GLB_RESET_PHASE 1))
    let s := resetChannels 5 (fun _ => true) s
    (List.range 16).foldl (fun (s : State) g => if s.fgState g = 2 then clipOpen g s else s) s

/-- Reloading (R489), and the start of the scan. -/
def warmReload (s : State) : State :=
  if s.rd GLB_RESET_PHASE ≠ 1 then s
  else
    let s := (List.range 97).foldl (fun (s : State) st => closeFrame st 5 s) s
    let s := s.wr GLB_RESET_PHASE 2
    let s := s.listedPens.foldl (fun (s : State) p => penReset p s) s
    let s := warmRegs (warmCal (warmTime s))
    let s := (List.range 9).foldl (fun (s : State) fn => viewReset fn (fun _ => true) s) { s with snaps := [] }
    let s := s.homes.foldl (fun (s : State) h => warmContext h s) s
    let s : State := { s with strms := s.strms.map fun e => (e.1, { e.2 with egWritten := false }), firstRecord := false }
    let s := s.streams.foldl (fun (s : State) e => egImg e.stream s) s
    let s := match s.struct.image with
      | some im => presetsDone im s
      | none => s
    (s.wr GLB_RESET_PHASE 3).wr PD_STATUS_SCAN 1

/-- The scan ends; with it a warm reset, and the function-level resets that waited for it (R267, R489, R500). -/
def recoveryEnd (us rate : Nat) (s : State) : State :=
  let s := scanComplete us rate s
  if s.scopeWaits then s else flrDueNow s

/-! The management function and the host link. -/

/-- A function-level reset of the management function (R331): data object exchange and an incomplete image upload end, and
an activation leads to a rollback (R65). -/
def managementReset (s : State) : State :=
  let s := setDeferred 0 none (s.updShep fun x => { x with objects := [] })
  let s := match s.struct.upload with
    | some u => if u.firmware then s else setUpload none s
    | none => s
  let waits := s.rd GLB_RESET_BUSY = 1
  let s := cutActivation s
  if waits then { s with flrDue := if s.flrDue.contains 0 then s.flrDue else s.flrDue ++ [0] } else functionScope 0 s

/-- Whether a channel uses the host address space: its list, or its current entry, lies there. -/
def usesHost (s : State) (c : Nat) : Bool :=
  !(s.chan c).nextPd || match (s.chan c).entry with
    | some e => e.space == 0
    | none => false

/-- A hot reset, or DL_Down without PERST_N (R323, R335): every function is reset, and channels that use the host address
space stop at once. -/
def linkDown (hot : Bool) (s : State) : State :=
  let s := s.tally HI_DOWN_TALLY_COUNT
  let s := if hot ∨ s.rd HI_LINK_STATUS_UP = 0 then s
    else
      let s := s.wr HI_LINK_STATUS_UP 0
      hostEvent 838 (hostEvent 832 s)
  let s := (s.listedChannels.filter s.chBusy).foldl (fun (s : State) c => if s.usesHost c then stopNow c 4 s else s) s
  let s := (List.range 8).foldl (fun (s : State) i =>
    if s.scopeWaits then { s with flrDue := if s.flrDue.contains (i + 1) then s.flrDue else s.flrDue ++ [i + 1] }
    else functionScope (i + 1) s) s
  managementReset s

/-! Live plugging (R495). -/

/-- PRSNT2_N reads high while 12 V holds. -/
def unseat (s : State) : State :=
  if ¬ s.power.v12 ∨ ¬ s.power.seated then s
  else
    let s := idleOutputs { s with power := { s.power with seated := false } }
    let s := { s with net := { s.net with stopped := true } }
    (s.wr GLB_SUPPLY_STAT_SEATED 0).raise 914 0

/-- PRSNT2_N reads low again: outputs are released, flash writes and the paths go on. -/
def reseat (s : State) : State :=
  if ¬ s.power.v12 ∨ s.power.seated then s
  else
    let s := { s with
      power := { s.power with seated := true }, net := { s.net with stopped := false }
      calFlash := { s.calFlash with held := false } }
    let s := programBegin ((s.wr GLB_SUPPLY_STAT_SEATED 1).raise 914 1)
    netFlush 1 (netFlush 0 s)

end State

/-- COLD_RESET (R484, R487): 12 V good at `mv` mV. -/
def execColdReset (mv : Nat) (s : State) : Host.Outcome State Fault Refusal := .next (s.coldReset mv)

/-- V12_LOSS (R483). -/
def execV12Loss (s : State) : Host.Outcome State Fault Refusal :=
  .next (if s.power.v12 then s.supplyLost s.power.aux s.power.seated else s)

/-- V12_RANGE_CHANGE (R483): 12 V in mV. -/
def execV12RangeChange (mv : Nat) (s : State) : Host.Outcome State Fault Refusal := .next (s.rangeChange mv)

/-- AUX_SUPPLY_CHANGE (R482, R501). -/
def execAuxSupplyChange (present : Bool) (s : State) : Host.Outcome State Fault Refusal := .next (s.auxChange present)

/-- MODULE_RESET_ASSERT (R488): line 0 MRST_N, 1 PERST_N. -/
def execModuleResetAssert (line : Nat) (s : State) : Host.Outcome State Fault Refusal := .next (s.resetAssert line)

/-- MODULE_RESET_RELEASE (R488). -/
def execModuleResetRelease (line : Nat) (s : State) : Host.Outcome State Fault Refusal := .next (s.resetRelease line)

/-- THERMAL_SAMPLE (R473–R475). -/
def execThermalSample (temps : List Nat) (s : State) : Host.Outcome State Fault Refusal := .next (s.thermalSample temps)

/-- SHEPHERD_BOOT (R464). -/
def execShepherdBoot (s : State) : Host.Outcome State Fault Refusal := .next s.shepherdBoot

/-- WATCHDOG_EXPIRE (R477). -/
def execWatchdogExpire (s : State) : Host.Outcome State Fault Refusal := .next s.watchdog

/-- WARM_RESET (R489): GLB_RESET.WARM. -/
def execWarmReset (s : State) : Host.Outcome State Fault Refusal := .next s.warmReset

/-- WARM_RESET_RELOAD (R489). -/
def execWarmResetReload (s : State) : Host.Outcome State Fault Refusal := .next s.warmReload

/-- RECOVERY_SCAN_COMPLETE (R267): with the scan's duration and read rate. -/
def execRecoveryScanComplete (us rate : Nat) (s : State) : Host.Outcome State Fault Refusal := .next (s.recoveryEnd us rate)

/-- MF_FUNCTION_LEVEL_RESET (R331). -/
def execMfFunctionLevelReset (s : State) : Host.Outcome State Fault Refusal := .next s.managementReset

/-- LINK_DOWN (R323): by a hot reset, or by DL_Down. -/
def execLinkDown (hot : Bool) (s : State) : Host.Outcome State Fault Refusal := .next (s.linkDown hot)

/-- MODULE_UNSEATING (R495). -/
def execModuleUnseating (s : State) : Host.Outcome State Fault Refusal := .next s.unseat

/-- MODULE_RESEATED (R495). -/
def execModuleReseated (s : State) : Host.Outcome State Fault Refusal := .next s.reseat

/-- MODULE_REMOVAL (R496): both supplies go. -/
def execModuleRemoval (s : State) : Host.Outcome State Fault Refusal := .next (s.supplyLost false false)

end Sys2Proof.Machine
end

