-- ==== Sys2Proof/Machine/Host.lean ====
section
/-!
DEFINITION. Accesses to BAR0 and BAR2 from the host (R6–R16, R327, R328, R531) and by remote control (R449). An offset
of a capture function from 0x1000000 on is one of its BAR2, 0x1000000 below it, as the management function's BAR0 has the
same pens there (R327).
-/
namespace Sys2Proof.Machine

namespace State

/-- Whether an offset lies within the function's base address registers (R327). -/
def inBar (fn off : Nat) : Bool := if fn = 0 then off < 0x4000000 else off < 0x1400000

/-- A write to a register that the function may write: STR_CTRL and GLB_RESET.WARM, or any other (R8, R58, R489). -/
def putRegister (fn off : Nat) (w : Word) (s : State) : State :=
  if off = STR_CTRL then strCtrl fn w s
  else if off = GLB_RESET then if bitOn w 31 then warmReset s else s
  else regWrite fn off w s

/-- An aligned 32-bit write within the base address registers (R12, R13, R531). -/
def writeWord (fn off : Nat) (w : Word) (s : State) : State :=
  let right := s.right fn off
  if fn ≠ 0 ∧ closedBlock off ∧ right = .hidden then s
  else if ¬ s.defined off then s.accErr fn
  else if right = .full then putRegister fn off (w &&& s.ownBits fn off) s else s

/-- An aligned 32-bit read within the base address registers (R12, R13, R531): the value, and what the read leaves. -/
def readWord (fn off : Nat) (s : State) : Word × State :=
  let right := s.right fn off
  if fn ≠ 0 ∧ closedBlock off ∧ right = .hidden then (0, s)
  else if ¬ s.defined off then (0, s.accErr fn)
  else if right = .hidden then (0, s)
  else regRead fn off s

/-- A write from the host (R6, R327): outside the base address registers it is dropped. -/
def hostWrite (fn off : Nat) (w : Word) (s : State) : State :=
  if ¬ inBar fn off then s
  else if off % 4 ≠ 0 then s.emit (.unsupported fn)
  else writeWord fn off w s

/-- A read from the host (R6, R327). -/
def hostRead (fn off : Nat) (s : State) : State :=
  if ¬ inBar fn off ∨ off % 4 ≠ 0 then s.emit (.unsupported fn)
  else
    let r := readWord fn off s
    r.2.emit (.readReply fn r.1)

/-- A register with an RC field. -/
def RegDef.readClears (r : RegDef) : Bool := r.fields.any fun f => f.acc == .rc

/-- Increments that fall in the clock of an RC read stay after the clear (R16): each RC field takes its bits of `inc`. -/
def keepIncrements (fn off : Nat) (inc : Word) (s : State) : State :=
  match regAt off with
  | none => s
  | some r => r.fields.foldl (fun (s : State) f =>
      if f.acc == .rc then s.wr ⟨regKey fn off, f.hi, f.lo⟩ (bitsOf inc f.hi f.lo) else s) s

/-- A read of an RC register (R8, R16). -/
def readToClear (fn off : Nat) (inc : Word) (s : State) : State :=
  match regAt off with
  | none => s
  | some r =>
    if ¬ RegDef.readClears r then s
    else
      let mine : Bool := inBar fn off && s.defined off && s.right fn off != .hidden && off != PP_SER_RX
      let s := hostRead fn off s
      if mine then keepIncrements fn off inc s else s

/-- A read of the lowest word of a wide value (R7). -/
def wideRead (fn off : Nat) (s : State) : State :=
  match regAt off with
  | none => s
  | some r => if r.words > 1 ∧ r.word = 0 then hostRead fn off s else s

/-- An access to an offset with no register (R12). -/
def undefinedAccess (fn off : Nat) (write : Bool) (w : Word) (s : State) : State :=
  if s.defined off then s else if write then hostWrite fn off w s else hostRead fn off s

/-! Remote control (R449). -/

/-- Whether a remote write of an offset is refused: the structure block, the shepherd mailbox, the network block. -/
def remoteBarred (off : Nat) : Bool :=
  (0x100000 ≤ off && off < 0x100028) || (0xF80000 ≤ off && off < 0xF80010) || (0xF81000 ≤ off && off < 0xF82000)
    || (0xE00000 ≤ off && off < 0xE08800)

/-- A control reply, KIND 8: STATUS, OFFSET, VALUE and TAG. -/
def remoteReply (k : Nat) (src : NetAddr) (port status off : Nat) (value : Word) (tag : Nat) (s : State) : State :=
  netReply k src port (dgHeader 8 0xFF (16 * k) 0 0xFF 0 0 16 (s.rd NP_EPOCH_EPOCH))
    (leBytes 4 status ++ leBytes 4 off ++ leBytes 4 value.toNat ++ leBytes 4 tag) s

/-- A control datagram, KIND 7, on path `k`. -/
def remoteControl (k : Nat) (src : NetAddr) (port op off : Nat) (value : Word) (tag : Nat) (s : State) : State :=
  let s := received k s
  if s.roleOf k ≠ 5 then rxDrop k s
  else if s.rd NP_CTRL_REMOTE_EN = 0 ∨ ¬ s.allowed src then remoteReply k src port 2 off value tag (netRefused s)
  else if (op ≠ 1 ∧ op ≠ 2) ∨ off % 4 ≠ 0 ∨ ¬ inBar 0 off ∨ (op = 2 ∧ remoteBarred off) then
    remoteReply k src port 1 off value tag (netRefused s)
  else
    let s := npEv k 10 off s
    if op = 2 then remoteReply k src port 0 off value tag (writeWord 0 off value s)
    else
      let r := readWord 0 off s
      remoteReply k src port 0 off r.1 tag r.2

end State

/-- REGISTER_WRITE (R8): a 32-bit write at an offset of a function's window. -/
def execRegisterWrite (fn off : Nat) (value : Word) (s : State) : Host.Outcome State Fault Refusal :=
  .next (s.hostWrite fn off value)

/-- MISALIGNED_ACCESS (R6): an access other than an aligned one of 32 bits. -/
def execMisalignedAccess (fn off len : Nat) (s : State) : Host.Outcome State Fault Refusal :=
  .next (if off % 4 = 0 ∧ len = 4 then s else s.emit (.unsupported fn))

/-- UNDEFINED_OFFSET_ACCESS (R12). -/
def execUndefinedOffsetAccess (fn off : Nat) (write : Bool) (value : Word) (s : State) : Host.Outcome State Fault Refusal :=
  .next (s.undefinedAccess fn off write value)

/-- WIDE_VALUE_LOW_READ (R7). -/
def execWideValueLowRead (fn off : Nat) (s : State) : Host.Outcome State Fault Refusal := .next (s.wideRead fn off)

/-- READ_TO_CLEAR (R8, R16). -/
def execReadToClear (fn off : Nat) (inc : Word) (s : State) : Host.Outcome State Fault Refusal :=
  .next (s.readToClear fn off inc)

/-- REMOTE_CONTROL (R449): a control datagram received on path `k`. -/
def execRemoteControl (k : Nat) (v6 : Bool) (addr : List Nat) (port op off : Nat) (value : Word) (tag : Nat) (s : State) :
    Host.Outcome State Fault Refusal := .next (s.remoteControl k ⟨v6, addr⟩ port op off value tag)

end Sys2Proof.Machine
end

