-- ==== Sys2Proof/Machine/Sources.lean ====
section
/-!
DEFINITION. The sources that reach several blocks at once (R362, R387, R408, R418): time-compare slots, encoder count
edges, trigger inputs and conversions, with the triggers, freezes, converter starts and position requests they cause.
-/
namespace Sys2Proof.Machine

namespace State

/-- An armed slot reaches its time (R362): its consumers take the slot time. -/
def slotDue (k : Nat) (s : State) : State :=
  if ¬ (s.slot k).armed then s
  else
    let s := slotRun k s
    if s.tb.dev < s.slotTime k then s
    else
      let r := slotFire k s
      let s := r.1
      let t := r.2.1
      let d := s.draw
      let s := srcPulse 2 k 0 true (t / 65536) (d.2.tb.dev + 65536 * (Config.slotReach d.1).val) d.2
      let s := (List.range 8).foldl (fun (s : State) c =>
        if s.rd (AI_START_ON_SLOT c) = 1 ∧ s.rd (AI_START_SLOT c) = k then aiStart c t s else s) s
      let s := (List.range 4).foldl (fun (s : State) j =>
        if s.rd (SA_REQ_ON_SLOT j) = 1 ∧ s.rd (SA_REQ_SLOT j) = k then absAsk j s else s) s
      sourceFreeze 4 k true (t / 65536) s

/-- Lines of an encoder fire at an edge (R387): 40 ns after the accepting sample they reach the trigger router. -/
def linesFire (k : Nat) (lines : List Nat) (sample : Time) (s : State) : State :=
  if lines.isEmpty then s
  else
    let cause := s.encStamp k sample
    let s := lines.foldl (fun (s : State) l => srcPulse 1 (4 * k + l) 0 true cause (65536 * (sample + Time.ofNs 40)) s) s
    let s := (List.range 4).foldl (fun (s : State) j =>
      if s.rd (SA_REQ_ON_HIT j) = 1 ∧ s.rd (SA_REQ_HIT_EN j) = k ∧ lines.contains (s.rd (SA_REQ_HIT_LINE j)) then absAsk j s
      else s) s
    sourceFreeze 2 k true cause s

/-- A filtered transition of an encoder's lines (R371, R387). -/
def countEdge (k : Nat) (a b : Bool) (sample : Time) (s : State) : State :=
  let r := encEdge k a b sample s
  linesFire k r.2 sample r.1

/-- 800 MHz samples of a trigger input. -/
def inputSamples (n : Nat) : Time := 81920 * n

/-- A filtered edge of a trigger input (R408), its first sample at the new level at `first`. -/
def inputEdge (i : Nat) (level : Bool) (first : Time) (s : State) : State :=
  if (s.rd (TI_STATUS_LEVEL i) == 1) = level then s
  else
    let filter := s.rd (TI_CFG_FILTER i)
    let s := s.runTo (65536 * (first + inputSamples (filter - 1)))
    let cause := first - Config.triggerDelay
    let s := (s.wrIf (TI_STATUS_LEVEL i) level).wr (if level then TI_STATUS_UP i else TI_STATUS_DOWN i) 1
    let s := (s.wrTime (TI_TIME i) cause).tally (TI_EDGE_TALLY_COUNT i)
    let s := { s with inputs := Tab.upd (fun _ => {}) s.inputs i fun x => { x with levels := ((cause, level) :: x.levels).take 64 } }
    let s := s.raiseAt (752 + i) (if level then 1 else 0) cause
    let s := srcPulse 3 i 0 level cause (65536 * (cause + Time.ofNs 10 + inputSamples filter)) s
    let s := (List.range 8).foldl (fun (s : State) c =>
      if s.rd (AI_START_ON_TI c) = 1 ∧ s.rd (AI_START_TI c) = i then aiStart c (65536 * cause) s else s) s
    sourceFreeze 1 i level cause s

/-- A conversion ends (R418, R421): qualified crossings are freeze requests. -/
def sampleReady (c : Nat) (raw : Nat) (s : State) : State :=
  let r := conversionDone c (signed 18 raw) s
  r.2.foldl (fun (s : State) x => sourceFreeze 3 c x.1 x.2 s) r.1

end State

/-- SLOT_FIRE (R362–R364). -/
def execSlotFire (k : Nat) (s : State) : Host.Outcome State Fault Refusal := .next (s.slotDue k)

/-- ENCODER_COUNT_EDGE (R371): filtered levels of A and B, accepted at a sample. -/
def execEncoderCountEdge (k : Nat) (a b : Bool) (sample : Time) (s : State) : Host.Outcome State Fault Refusal :=
  .next (s.countEdge k a b sample)

/-- TRIGGER_INPUT_EDGE (R408). -/
def execTriggerInputEdge (i : Nat) (level : Bool) (first : Time) (s : State) : Host.Outcome State Fault Refusal :=
  .next (s.inputEdge i level first)

/-- CONVERSION_COMPLETE (R418): the raw code of 18 bits. -/
def execConversionComplete (c raw : Nat) (s : State) : Host.Outcome State Fault Refusal := .next (s.sampleReady c raw)

end Sys2Proof.Machine
end

