-- ==== Sys2Proof/Machine/Dispatch.lean ====
section
/-! DEFINITION. The dispatch: one arm per command, each one call of that command's meaning. -/
namespace Sys2Proof.Machine

def exec (i : Instr) (s : State) : Host.Outcome State Fault Refusal :=
  match i with
  | .registerWrite fn off value => Sys2Proof.Machine.execRegisterWrite fn off value s
  | .misalignedAccess fn off len => Sys2Proof.Machine.execMisalignedAccess fn off len s
  | .undefinedOffsetAccess fn off write value => Sys2Proof.Machine.execUndefinedOffsetAccess fn off write value s
  | .wideValueLowRead fn off => Sys2Proof.Machine.execWideValueLowRead fn off s
  | .readToClear fn off inc => Sys2Proof.Machine.execReadToClear fn off inc s
  | .bellwetherTick => Sys2Proof.Machine.execBellwetherTick s
  | .bwPeriodWrite v => Sys2Proof.Machine.execBwPeriodWrite v s
  | .bwPeriodApply => Sys2Proof.Machine.execBwPeriodApply s
  | .controlShadowCommit st => Sys2Proof.Machine.execControlShadowCommit st s
  | .recordComplete slot => Sys2Proof.Machine.execRecordComplete slot s
  | .recordTagTimeout slot => Sys2Proof.Machine.execRecordTagTimeout slot s
  | .foldEnable off on => Sys2Proof.Machine.execFoldEnable off on s
  | .foldHalt off on => Sys2Proof.Machine.execFoldHalt off on s
  | .laneBlockReset n => Sys2Proof.Machine.execLaneBlockReset n s
  | .portBlockReset P => Sys2Proof.Machine.execPortBlockReset P s
  | .pixelFoldBlockReset f => Sys2Proof.Machine.execPixelFoldBlockReset f s
  | .strGo source wait => Sys2Proof.Machine.execStrGo source wait s
  | .strCheck source wait => Sys2Proof.Machine.execStrCheck source wait s
  | .strProgram source wait => Sys2Proof.Machine.execStrProgram source wait s
  | .programDone fail => Sys2Proof.Machine.execProgramDone fail s
  | .postWaitEnd => Sys2Proof.Machine.execPostWaitEnd s
  | .activationQuiesce => Sys2Proof.Machine.execActivationQuiesce s
  | .quiesceTimeout st => Sys2Proof.Machine.execQuiesceTimeout st s
  | .activationRetain => Sys2Proof.Machine.execActivationRetain s
  | .activationReconfigure => Sys2Proof.Machine.execActivationReconfigure s
  | .activationRetrain => Sys2Proof.Machine.execActivationRetrain s
  | .activationResume => Sys2Proof.Machine.execActivationResume s
  | .activationRollback => Sys2Proof.Machine.execActivationRollback s
  | .lanePowerRequest n req => Sys2Proof.Machine.execLanePowerRequest n req s
  | .laneExitComplete n vstep phase latency => Sys2Proof.Machine.execLaneExitComplete n vstep phase latency s
  | .laneExitTimeout n => Sys2Proof.Machine.execLaneExitTimeout n s
  | .cdrCoastTimeout n => Sys2Proof.Machine.execCdrCoastTimeout n s
  | .densityWindowEnd n density ctle dfe => Sys2Proof.Machine.execDensityWindowEnd n density ctle dfe s
  | .freezeLimitExpire n => Sys2Proof.Machine.execFreezeLimitExpire n s
  | .invalidHeader n valid => Sys2Proof.Machine.execInvalidHeader n valid s
  | .blockLockAcquired n latency => Sys2Proof.Machine.execBlockLockAcquired n latency s
  | .blockLockLost n => Sys2Proof.Machine.execBlockLockLost n s
  | .slipWrite n value => Sys2Proof.Machine.execSlipWrite n value s
  | .patternCheckerSync n errors => Sys2Proof.Machine.execPatternCheckerSync n errors s
  | .scanStart n value => Sys2Proof.Machine.execScanStart n value s
  | .scanAbort n => Sys2Proof.Machine.execScanAbort n s
  | .scanComplete n errors => Sys2Proof.Machine.execScanComplete n errors s
  | .partnerDetect P seen => Sys2Proof.Machine.execPartnerDetect P seen s
  | .listenCandidateTimeout P => Sys2Proof.Machine.execListenCandidateTimeout P s
  | .listenLimitExpire P => Sys2Proof.Machine.execListenLimitExpire P s
  | .trainExit P seen => Sys2Proof.Machine.execTrainExit P seen s
  | .trainLimitExpire P => Sys2Proof.Machine.execTrainLimitExpire P s
  | .orderStep P => Sys2Proof.Machine.execOrderStep P s
  | .lockExit P skew standard => Sys2Proof.Machine.execLockExit P skew standard s
  | .lockLimitExpire P => Sys2Proof.Machine.execLockLimitExpire P s
  | .exchangeComplete P caps => Sys2Proof.Machine.execExchangeComplete P caps s
  | .exchangeLimitExpire P => Sys2Proof.Machine.execExchangeLimitExpire P s
  | .partnerLost P lane => Sys2Proof.Machine.execPartnerLost P lane s
  | .restPoll P seen => Sys2Proof.Machine.execRestPoll P seen s
  | .retrain P => Sys2Proof.Machine.execRetrain P s
  | .trainingBlock n number ready tap action reply inverted better => Sys2Proof.Machine.execTrainingBlock n number ready tap action reply inverted better s
  | .capabilityBlock P agreed reject fields => Sys2Proof.Machine.execCapabilityBlock P agreed reject fields s
  | .capabilityRepeat P => Sys2Proof.Machine.execCapabilityRepeat P s
  | .videoPacket st line offset data crcOk cont resent => Sys2Proof.Machine.execVideoPacket st line offset data crcOk cont resent s
  | .controlReadResponse P tag status data => Sys2Proof.Machine.execControlReadResponse P tag status data s
  | .controlWriteAck P tag status => Sys2Proof.Machine.execControlWriteAck P tag status s
  | .controlRequestTimeout P tag => Sys2Proof.Machine.execControlRequestTimeout P tag s
  | .cameraEventPacket P event stream age arrival => Sys2Proof.Machine.execCameraEventPacket P event stream age arrival s
  | .heartbeatPacket P => Sys2Proof.Machine.execHeartbeatPacket P s
  | .probeTimer P => Sys2Proof.Machine.execProbeTimer P s
  | .probeNow P => Sys2Proof.Machine.execProbeNow P s
  | .echoReceived P seq elapsed turn => Sys2Proof.Machine.execEchoReceived P seq elapsed turn s
  | .probeMiss P seq => Sys2Proof.Machine.execProbeMiss P seq s
  | .startOfFrame st camFrame arrival startAge endAge trigLate egen egenValid => Sys2Proof.Machine.execStartOfFrame st camFrame arrival startAge endAge trigLate egen egenValid s
  | .endOfFrame st => Sys2Proof.Machine.execEndOfFrame st s
  | .frameTimeout st => Sys2Proof.Machine.execFrameTimeout st s
  | .resendTimeout st => Sys2Proof.Machine.execResendTimeout st s
  | .camChannelGo fn P value => Sys2Proof.Machine.execCamChannelGo fn P value s
  | .ppAlignAcquired link => Sys2Proof.Machine.execPpAlignAcquired link s
  | .ppAlignLost link => Sys2Proof.Machine.execPpAlignLost link s
  | .ppAlignSlip value => Sys2Proof.Machine.execPpAlignSlip value s
  | .ppClockLost => Sys2Proof.Machine.execPpClockLost s
  | .ppClockPresent => Sys2Proof.Machine.execPpClockPresent s
  | .ppSerTxWrite byte => Sys2Proof.Machine.execPpSerTxWrite byte s
  | .ppSerRxRead fn => Sys2Proof.Machine.execPpSerRxRead fn s
  | .ppSerByteReceived byte stop => Sys2Proof.Machine.execPpSerByteReceived byte stop s
  | .unitReady st => Sys2Proof.Machine.execUnitReady st s
  | .foldUnitStart f => Sys2Proof.Machine.execFoldUnitStart f s
  | .foldUnitComplete f => Sys2Proof.Machine.execFoldUnitComplete f s
  | .throttleStepChange f k => Sys2Proof.Machine.execThrottleStepChange f k s
  | .schedulerRebalance => Sys2Proof.Machine.execSchedulerRebalance s
  | .contextCommitReq fn f c => Sys2Proof.Machine.execContextCommitReq fn f c s
  | .contextCommitCancel fn f c => Sys2Proof.Machine.execContextCommitCancel fn f c s
  | .burstRearm fn st => Sys2Proof.Machine.execBurstRearm fn st s
  | .windowGraceExpire g st => Sys2Proof.Machine.execWindowGraceExpire g st s
  | .fgArm fn g => Sys2Proof.Machine.execFgArm fn g s
  | .fgDisarm fn g => Sys2Proof.Machine.execFgDisarm fn g s
  | .fgFreeze fn g => Sys2Proof.Machine.execFgFreeze fn g s
  | .fgRearm fn g => Sys2Proof.Machine.execFgRearm fn g s
  | .fgRelease fn g r => Sys2Proof.Machine.execFgRelease fn g r s
  | .freezeRequest g cause time => Sys2Proof.Machine.execFreezeRequest g cause time s
  | .recoveryScanComplete us rate => Sys2Proof.Machine.execRecoveryScanComplete us rate s
  | .frameFind fn => Sys2Proof.Machine.execFrameFind fn s
  | .bar4Read fn addr len => Sys2Proof.Machine.execBar4Read fn addr len s
  | .bar4Write fn addr data => Sys2Proof.Machine.execBar4Write fn addr data s
  | .penCfgWrite fn p value => Sys2Proof.Machine.execPenCfgWrite fn p value s
  | .penPop fn p count => Sys2Proof.Machine.execPenPop fn p count s
  | .penPopComplete p => Sys2Proof.Machine.execPenPopComplete p s
  | .penHostPush fn p count => Sys2Proof.Machine.execPenHostPush fn p count s
  | .penDrop fn p => Sys2Proof.Machine.execPenDrop fn p s
  | .penClear fn p => Sys2Proof.Machine.execPenClear fn p s
  | .hurdleInputChange k level => Sys2Proof.Machine.execHurdleInputChange k level s
  | .channelStart fn c enable => Sys2Proof.Machine.execChannelStart fn c enable s
  | .channelDisable fn c => Sys2Proof.Machine.execChannelDisable fn c s
  | .channelReset fn c => Sys2Proof.Machine.execChannelReset fn c s
  | .listEntryFetch d => Sys2Proof.Machine.execListEntryFetch d s
  | .entryComplete d => Sys2Proof.Machine.execEntryComplete d s
  | .readCompletion d tag err data => Sys2Proof.Machine.execReadCompletion d tag err data s
  | .completionTimeout d write tag => Sys2Proof.Machine.execCompletionTimeout d write tag s
  | .powerdownForceStop c => Sys2Proof.Machine.execPowerdownForceStop c s
  | .linkUp rate width flit => Sys2Proof.Machine.execLinkUp rate width flit s
  | .linkDown hot => Sys2Proof.Machine.execLinkDown hot s
  | .linkRateChange rate width flit => Sys2Proof.Machine.execLinkRateChange rate width flit s
  | .linkRecovery => Sys2Proof.Machine.execLinkRecovery s
  | .pcieErrorLogged kind => Sys2Proof.Machine.execPcieErrorLogged kind s
  | .functionLevelReset fn => Sys2Proof.Machine.execFunctionLevelReset fn s
  | .mfFunctionLevelReset => Sys2Proof.Machine.execMfFunctionLevelReset s
  | .flrComplete fn => Sys2Proof.Machine.execFlrComplete fn s
  | .partitionCommit fn => Sys2Proof.Machine.execPartitionCommit fn s
  | .partitionApply => Sys2Proof.Machine.execPartitionApply s
  | .partitionRevert fn => Sys2Proof.Machine.execPartitionRevert fn s
  | .doeDiscovery index => Sys2Proof.Machine.execDoeDiscovery index s
  | .uploadBegin mailbox total => Sys2Proof.Machine.execUploadBegin mailbox total s
  | .uploadData mailbox offset data => Sys2Proof.Machine.execUploadData mailbox offset data s
  | .uploadEnd mailbox => Sys2Proof.Machine.execUploadEnd mailbox s
  | .uploadAbort mailbox => Sys2Proof.Machine.execUploadAbort mailbox s
  | .uploadQuery mailbox => Sys2Proof.Machine.execUploadQuery mailbox s
  | .uploadUnknownOp mailbox op => Sys2Proof.Machine.execUploadUnknownOp mailbox op s
  | .eventOccurrence src detail => Sys2Proof.Machine.execEventOccurrence src detail s
  | .eventHoldoffExpire fn src => Sys2Proof.Machine.execEventHoldoffExpire fn src s
  | .eventEnable fn src => Sys2Proof.Machine.execEventEnable fn src s
  | .eventRaise fn src => Sys2Proof.Machine.execEventRaise fn src s
  | .msixUnmask fn vec => Sys2Proof.Machine.execMsixUnmask fn vec s
  | .incCommit d int => Sys2Proof.Machine.execIncCommit d int s
  | .adjustStart d ticks => Sys2Proof.Machine.execAdjustStart d ticks s
  | .adjustEnd d => Sys2Proof.Machine.execAdjustEnd d s
  | .timeSet d => Sys2Proof.Machine.execTimeSet d s
  | .setOnPps d => Sys2Proof.Machine.execSetOnPps d s
  | .restartServo d => Sys2Proof.Machine.execRestartServo d s
  | .catchupEnd d => Sys2Proof.Machine.execCatchupEnd d s
  | .joinStart sel => Sys2Proof.Machine.execJoinStart sel s
  | .joinComplete => Sys2Proof.Machine.execJoinComplete s
  | .joinForce => Sys2Proof.Machine.execJoinForce s
  | .joinCancel => Sys2Proof.Machine.execJoinCancel s
  | .ptpSync d master gm => Sys2Proof.Machine.execPtpSync d master gm s
  | .ptpAnnounce d domain transport data => Sys2Proof.Machine.execPtpAnnounce d domain transport data s
  | .ptpDelayResponse d delay => Sys2Proof.Machine.execPtpDelayResponse d delay s
  | .ptpManagementGet d id set => Sys2Proof.Machine.execPtpManagementGet d id set s
  | .ptpMessageTransmit d kind => Sys2Proof.Machine.execPtpMessageTransmit d kind s
  | .announceTimeout d => Sys2Proof.Machine.execAnnounceTimeout d s
  | .holdoverExpire d => Sys2Proof.Machine.execHoldoverExpire d s
  | .ppsInEdge => Sys2Proof.Machine.execPpsInEdge s
  | .ppsTimeout => Sys2Proof.Machine.execPpsTimeout s
  | .refclkLock => Sys2Proof.Machine.execRefclkLock s
  | .refSelChange v => Sys2Proof.Machine.execRefSelChange v s
  | .ppsOutPulse => Sys2Proof.Machine.execPpsOutPulse s
  | .slotArm k => Sys2Proof.Machine.execSlotArm k s
  | .slotDisarm k => Sys2Proof.Machine.execSlotDisarm k s
  | .slotFire k => Sys2Proof.Machine.execSlotFire k s
  | .encoderCountEdge k a b sample => Sys2Proof.Machine.execEncoderCountEdge k a b sample s
  | .encoderSet k => Sys2Proof.Machine.execEncoderSet k s
  | .encoderSetOnIndex k => Sys2Proof.Machine.execEncoderSetOnIndex k s
  | .encoderAdjust k => Sys2Proof.Machine.execEncoderAdjust k s
  | .cmpReset k => Sys2Proof.Machine.execCmpReset k s
  | .indexEvent k z sample => Sys2Proof.Machine.execIndexEvent k z sample s
  | .lineFault k signal on => Sys2Proof.Machine.execLineFault k signal on s
  | .hallStateChange k state sample => Sys2Proof.Machine.execHallStateChange k state sample s
  | .speedStillTimeout k => Sys2Proof.Machine.execSpeedStillTimeout k s
  | .cmpEntryWrite k hi => Sys2Proof.Machine.execCmpEntryWrite k hi s
  | .cmpTailWrite k value => Sys2Proof.Machine.execCmpTailWrite k value s
  | .histSnapshotRead k => Sys2Proof.Machine.execHistSnapshotRead k s
  | .saRequestNow j line => Sys2Proof.Machine.execSaRequestNow j line s
  | .saTransferComplete j word parity high => Sys2Proof.Machine.execSaTransferComplete j word parity high s
  | .triggerInputEdge n level first => Sys2Proof.Machine.execTriggerInputEdge n level first s
  | .softwareTrigger mask => Sys2Proof.Machine.execSoftwareTrigger mask s
  | .channelPulse n => Sys2Proof.Machine.execChannelPulse n s
  | .routeEdgeEmit n route => Sys2Proof.Machine.execRouteEdgeEmit n route s
  | .inbandSend P => Sys2Proof.Machine.execInbandSend P s
  | .exposureCommitReq fn n => Sys2Proof.Machine.execExposureCommitReq fn n s
  | .exposureCommitCancel fn n => Sys2Proof.Machine.execExposureCommitCancel fn n s
  | .exposureCommitApply n => Sys2Proof.Machine.execExposureCommitApply n s
  | .cameraExposureWrite n => Sys2Proof.Machine.execCameraExposureWrite n s
  | .aiConvertNow c => Sys2Proof.Machine.execAiConvertNow c s
  | .conversionStart c => Sys2Proof.Machine.execConversionStart c s
  | .conversionComplete c raw => Sys2Proof.Machine.execConversionComplete c raw s
  | .rangeSettled c => Sys2Proof.Machine.execRangeSettled c s
  | .sampleWordFlush c => Sys2Proof.Machine.execSampleWordFlush c s
  | .calRunDue b temp => Sys2Proof.Machine.execCalRunDue b temp s
  | .calRun blocks => Sys2Proof.Machine.execCalRun blocks s
  | .calSave => Sys2Proof.Machine.execCalSave s
  | .calOverride blocks => Sys2Proof.Machine.execCalOverride blocks s
  | .calLoad => Sys2Proof.Machine.execCalLoad s
  | .calFactory => Sys2Proof.Machine.execCalFactory s
  | .calGapConversion c raw => Sys2Proof.Machine.execCalGapConversion c raw s
  | .delayLineMeasure l counts => Sys2Proof.Machine.execDelayLineMeasure l counts s
  | .calRunComplete b => Sys2Proof.Machine.execCalRunComplete b s
  | .calDeadlineExpire b => Sys2Proof.Machine.execCalDeadlineExpire b s
  | .calNvSaveComplete ok => Sys2Proof.Machine.execCalNvSaveComplete ok s
  | .arpRequest k v6 addr => Sys2Proof.Machine.execArpRequest k v6 addr s
  | .icmpEchoRequest k v6 addr data => Sys2Proof.Machine.execIcmpEchoRequest k v6 addr data s
  | .pauseFrame k quanta => Sys2Proof.Machine.execPauseFrame k quanta s
  | .neighborResolveTimeout f => Sys2Proof.Machine.execNeighborResolveTimeout f s
  | .neighborAgeOut n => Sys2Proof.Machine.execNeighborAgeOut n s
  | .flowDatagramSend f => Sys2Proof.Machine.execFlowDatagramSend f s
  | .frameTransportRequest k stream first count v6 addr port => Sys2Proof.Machine.execFrameTransportRequest k stream first count v6 addr port s
  | .networkFreeze k v6 addr groups useT time => Sys2Proof.Machine.execNetworkFreeze k v6 addr groups useT time s
  | .remoteControl k v6 addr port op off value tag => Sys2Proof.Machine.execRemoteControl k v6 addr port op off value tag s
  | .datagramDiscard k => Sys2Proof.Machine.execDatagramDiscard k s
  | .flowRestart f => Sys2Proof.Machine.execFlowRestart f s
  | .crookPulse k back => Sys2Proof.Machine.execCrookPulse k back s
  | .crookSilence k => Sys2Proof.Machine.execCrookSilence k s
  | .crookProbeReturn k back => Sys2Proof.Machine.execCrookProbeReturn k back s
  | .crookLoopCheckFail k => Sys2Proof.Machine.execCrookLoopCheckFail k s
  | .crookContention k => Sys2Proof.Machine.execCrookContention k s
  | .pathHealthLoss k txFault => Sys2Proof.Machine.execPathHealthLoss k txFault s
  | .epochSnapshot => Sys2Proof.Machine.execEpochSnapshot s
  | .epochReceived k ok => Sys2Proof.Machine.execEpochReceived k ok s
  | .mirrorStale k => Sys2Proof.Machine.execMirrorStale k s
  | .revertHoldoffExpire => Sys2Proof.Machine.execRevertHoldoffExpire s
  | .crookRelease => Sys2Proof.Machine.execCrookRelease s
  | .shepherdBoot => Sys2Proof.Machine.execShepherdBoot s
  | .spdmGetVersion smbus => Sys2Proof.Machine.execSpdmGetVersion smbus s
  | .spdmGetCapabilities smbus => Sys2Proof.Machine.execSpdmGetCapabilities smbus s
  | .spdmNegotiateAlgorithms smbus => Sys2Proof.Machine.execSpdmNegotiateAlgorithms smbus s
  | .spdmGetDigests smbus => Sys2Proof.Machine.execSpdmGetDigests smbus s
  | .spdmGetCertificate smbus slot off len => Sys2Proof.Machine.execSpdmGetCertificate smbus slot off len s
  | .spdmChallenge smbus slot nonce => Sys2Proof.Machine.execSpdmChallenge smbus slot nonce s
  | .spdmGetMeasurements smbus op sign nonce => Sys2Proof.Machine.execSpdmGetMeasurements smbus op sign nonce s
  | .spdmRespondIfReady smbus code token => Sys2Proof.Machine.execSpdmRespondIfReady smbus code token s
  | .spdmUnsupportedRequest smbus code => Sys2Proof.Machine.execSpdmUnsupportedRequest smbus code s
  | .mctpSetEndpointId eid => Sys2Proof.Machine.execMctpSetEndpointId eid s
  | .mctpGetEndpointId => Sys2Proof.Machine.execMctpGetEndpointId s
  | .mctpGetVersionSupport => Sys2Proof.Machine.execMctpGetVersionSupport s
  | .mctpGetMessageTypeSupport => Sys2Proof.Machine.execMctpGetMessageTypeSupport s
  | .firmwareBegin total => Sys2Proof.Machine.execFirmwareBegin total s
  | .firmwareData offset data => Sys2Proof.Machine.execFirmwareData offset data s
  | .firmwareEnd fail => Sys2Proof.Machine.execFirmwareEnd fail s
  | .firmwareAbort => Sys2Proof.Machine.execFirmwareAbort s
  | .shepherdRestart => Sys2Proof.Machine.execShepherdRestart s
  | .readLogEntry entry => Sys2Proof.Machine.execReadLogEntry entry s
  | .watchdogExpire => Sys2Proof.Machine.execWatchdogExpire s
  | .thermalSample temps => Sys2Proof.Machine.execThermalSample temps s
  | .healthLogWrite fail => Sys2Proof.Machine.execHealthLogWrite fail s
  | .coldReset mv => Sys2Proof.Machine.execColdReset mv s
  | .v12Loss => Sys2Proof.Machine.execV12Loss s
  | .v12RangeChange mv => Sys2Proof.Machine.execV12RangeChange mv s
  | .auxSupplyChange present => Sys2Proof.Machine.execAuxSupplyChange present s
  | .powerDownRequest d => Sys2Proof.Machine.execPowerDownRequest d s
  | .powerDownComplete d => Sys2Proof.Machine.execPowerDownComplete d s
  | .powerUpRequest d => Sys2Proof.Machine.execPowerUpRequest d s
  | .powerUpComplete d => Sys2Proof.Machine.execPowerUpComplete d s
  | .moduleResetAssert line => Sys2Proof.Machine.execModuleResetAssert line s
  | .moduleResetRelease line => Sys2Proof.Machine.execModuleResetRelease line s
  | .warmReset => Sys2Proof.Machine.execWarmReset s
  | .warmResetReload => Sys2Proof.Machine.execWarmResetReload s
  | .moduleUnseating => Sys2Proof.Machine.execModuleUnseating s
  | .moduleReseated => Sys2Proof.Machine.execModuleReseated s
  | .moduleRemoval => Sys2Proof.Machine.execModuleRemoval s
  | .cageModuleInsert c => Sys2Proof.Machine.execCageModuleInsert c s
  | .cageModuleReady c kind class_ => Sys2Proof.Machine.execCageModuleReady c kind class_ s
  | .cageModuleRemove c => Sys2Proof.Machine.execCageModuleRemove c s
  | .cageRailFault c => Sys2Proof.Machine.execCageRailFault c s
  | .exchangeLockLossTimeout P lane => Sys2Proof.Machine.execExchangeLockLossTimeout P lane s
  | .networkPathLinkUp k => Sys2Proof.Machine.execNetworkPathLinkUp k s
  | .neighborReply k v6 addr mac => Sys2Proof.Machine.execNeighborReply k v6 addr mac s
  | .refclkLost => Sys2Proof.Machine.execRefclkLost s
  | .ppSerByteSent => Sys2Proof.Machine.execPpSerByteSent s
  | .writeCreditReturn d n => Sys2Proof.Machine.execWriteCreditReturn d n s

end Sys2Proof.Machine
end

