-- ==== Sys2Proof/Machine/Step.lean ====
section
/-! DEFINITION. One step: the command at the front of the queue, or a clock of an idle block. -/
namespace Sys2Proof.Machine

namespace State

/-- Whether the core runs: 12 V is good, no reset line is low, and no trip holds the module. -/
def coreRuns (s : State) : Bool := s.power.v12 && !s.power.inReset && !s.power.tripped

/-- With no command waiting, one clock of the 800 MHz time domain passes (log entry 4): indications still on their way
reach the views, and each drover goes on with the channel it serves. -/
def idle (s : State) : State :=
  if s.coreRuns then
    (List.range 16).foldl (fun (s : State) d => if (s.drover d).serving.isSome then s.pump d else s) (s.advance 1).settle
  else s

/-- The state with the command that a word spells put at the front of its queue. -/
def withFetchWord (s : State) (nbits w : Nat) : State :=
  match decodeTableWord nbits w with
  | some c => { s with pending := c :: s.pending }
  | none => s

end State

/-- One step of the block. -/
def step (s : State) : Host.Outcome State Fault Refusal :=
  match s.pending with
  | [] => .next s.idle
  | c :: rest => exec c { s with pending := rest }

end Sys2Proof.Machine
end

