-- ==== Sys2Proof/Laws/Tab.lean ====
section
/-!
SUPPORT. The laws of the sparse tables: a read after a write, and that every write keeps the canonical form.
-/
namespace Sys2Proof
variable {α : Type}

theorem tget_tdel_same (d : Nat → α) (t : Tab α) (k : Nat) : tget d (tdel t k) k = d k := by
  induction t with
  | nil => rfl
  | cons e r ih =>
    obtain ⟨k', v'⟩ := e
    by_cases h : k' = k <;> simp [tdel, tget, h, ih]

theorem tget_tdel_other (d : Nat → α) (t : Tab α) {k j : Nat} (h : j ≠ k) :
    tget d (tdel t k) j = tget d t j := by
  induction t with
  | nil => rfl
  | cons e r ih =>
    obtain ⟨k', v'⟩ := e
    by_cases hk : k' = k
    · subst hk; simp [tdel, tget, ih, Ne.symm h]
    · by_cases hj : k' = j
      · subst hj; simp [tdel, tget, hk]
      · simp [tdel, tget, hk, hj, ih]

theorem tget_tins_same (d : Nat → α) (t : Tab α) (k : Nat) (v : α) : tget d (tins t k v) k = v := by
  induction t with
  | nil => simp [tins, tget]
  | cons e r ih =>
    obtain ⟨k', v'⟩ := e
    by_cases h1 : k < k'
    · simp [tins, tget, h1]
    · by_cases h2 : k' = k
      · simp [tins, tget, h2]
      · simp [tins, tget, h1, h2, ih]

theorem tget_tins_other (d : Nat → α) (t : Tab α) {k j : Nat} (v : α) (h : j ≠ k) :
    tget d (tins t k v) j = tget d t j := by
  induction t with
  | nil => simp [tins, tget, Ne.symm h]
  | cons e r ih =>
    obtain ⟨k', v'⟩ := e
    by_cases h1 : k < k'
    · simp [tins, tget, h1, Ne.symm h]
    · by_cases h2 : k' = k
      · subst h2; simp [tins, tget, Ne.symm h]
      · by_cases hj : k' = j
        · subst hj; simp [tins, tget, h1, h2]
        · simp [tins, tget, h1, h2, hj, ih]

/-- A read gives back what was written. -/
@[simp] theorem tget_tset_same [DecidableEq α] (d : Nat → α) (t : Tab α) (k : Nat) (v : α) :
    tget d (tset d t k v) k = v := by
  unfold tset
  split
  · next h => rw [tget_tdel_same, h]
  · exact tget_tins_same d t k v

/-- A write leaves every other key alone. -/
theorem tget_tset_other [DecidableEq α] (d : Nat → α) (t : Tab α) {k j : Nat} (v : α) (h : j ≠ k) :
    tget d (tset d t k v) j = tget d t j := by
  unfold tset
  split
  · exact tget_tdel_other d t h
  · exact tget_tins_other d t v h

theorem tabove_mono {a b : Nat} (h : a ≤ b) (t : Tab α) (ht : tabove b t = true) : tabove a t = true := by
  simp only [tabove, List.all_eq_true, decide_eq_true_eq] at *
  intro e he
  have := ht e he
  omega

theorem tabove_tins {b k : Nat} {v : α} {t : Tab α} (hk : b < k) (ht : tabove b t = true) :
    tabove b (tins t k v) = true := by
  induction t with
  | nil => simp [tins, tabove, hk]
  | cons e r ih =>
    obtain ⟨k', v'⟩ := e
    simp only [tabove, List.all_cons, Bool.and_eq_true, decide_eq_true_eq] at ht ih
    simp only [tins]
    split
    · simp only [tabove, List.all_cons, Bool.and_eq_true, decide_eq_true_eq]
      exact ⟨hk, ht.1, ht.2⟩
    · split
      · simp only [tabove, List.all_cons, Bool.and_eq_true, decide_eq_true_eq]
        exact ⟨hk, ht.2⟩
      · simp only [tabove, List.all_cons, Bool.and_eq_true, decide_eq_true_eq]
        exact ⟨ht.1, ih ht.2⟩

theorem tabove_tdel {b k : Nat} {t : Tab α} (ht : tabove b t = true) : tabove b (tdel t k) = true := by
  induction t with
  | nil => rfl
  | cons e r ih =>
    obtain ⟨k', v'⟩ := e
    simp only [tabove, List.all_cons, Bool.and_eq_true, decide_eq_true_eq] at ht ih
    simp only [tdel]
    split
    · exact ih ht.2
    · simp only [tabove, List.all_cons, Bool.and_eq_true, decide_eq_true_eq]
      exact ⟨ht.1, ih ht.2⟩

theorem twf_tdel [DecidableEq α] {d : Nat → α} {t : Tab α} {k : Nat} (h : twf d t = true) :
    twf d (tdel t k) = true := by
  induction t with
  | nil => rfl
  | cons e r ih =>
    obtain ⟨k', v'⟩ := e
    simp only [twf, Bool.and_eq_true] at h
    simp only [tdel]
    split
    · exact ih h.2
    · simp only [twf, Bool.and_eq_true]
      exact ⟨⟨h.1.1, tabove_tdel h.1.2⟩, ih h.2⟩

theorem twf_tins [DecidableEq α] {d : Nat → α} {t : Tab α} {k : Nat} {v : α} (hv : v ≠ d k)
    (h : twf d t = true) : twf d (tins t k v) = true := by
  induction t with
  | nil => simp [tins, twf, tabove, hv]
  | cons e r ih =>
    obtain ⟨k', v'⟩ := e
    simp only [twf, Bool.and_eq_true] at h
    simp only [tins]
    split
    · next hlt =>
      simp only [twf, Bool.and_eq_true, decide_eq_true_eq] at h ⊢
      refine ⟨⟨hv, ?_⟩, ⟨h.1, h.2⟩⟩
      have := tabove_mono (Nat.le_of_lt hlt) r h.1.2
      simp only [tabove, List.all_cons, Bool.and_eq_true, decide_eq_true_eq]
      exact ⟨hlt, this⟩
    · split
      · next hk =>
        subst hk
        simp only [twf, Bool.and_eq_true, decide_eq_true_eq]
        exact ⟨⟨hv, h.1.2⟩, h.2⟩
      · simp only [twf, Bool.and_eq_true]
        exact ⟨⟨h.1.1, tabove_tins (by omega) h.1.2⟩, ih h.2⟩

/-- Every write keeps the canonical form. -/
theorem twf_tset [DecidableEq α] {d : Nat → α} {t : Tab α} {k : Nat} {v : α} (h : twf d t = true) :
    twf d (tset d t k v) = true := by
  unfold tset
  split
  · exact twf_tdel h
  · next hv => exact twf_tins hv h

theorem tabove_filter {b : Nat} {p : Nat × α → Bool} {t : Tab α} (ht : tabove b t = true) :
    tabove b (t.filter p) = true := by
  simp only [tabove, List.all_eq_true, List.mem_filter] at ht ⊢
  exact fun e he => ht e he.1

/-- A table stays in canonical form when entries leave. -/
theorem twf_filter [DecidableEq α] {d : Nat → α} {p : Nat × α → Bool} {t : Tab α} (h : twf d t = true) :
    twf d (t.filter p) = true := by
  induction t with
  | nil => rfl
  | cons e r ih =>
    obtain ⟨k, v⟩ := e
    simp only [twf, Bool.and_eq_true] at h
    simp only [List.filter_cons]
    split
    · simp only [twf, Bool.and_eq_true]
      exact ⟨⟨h.1.1, tabove_filter h.1.2⟩, ih h.2⟩
    · exact ih h.2

end Sys2Proof
end

