-- ==== Sys2Proof/Laws/Onward.lean ====
section
/-!
SUPPORT. What every operation of the device keeps, said once: `Kept` (the queue stands, the paddock and the register file
keep their canonical form, nothing sent is taken back, no free value is drawn twice) and `Onward`, which adds that device
time and both counters never fall (R349). The files beside this one say it of each operation.
-/
namespace Sys2Proof.Machine

/-- What an operation on the shared parts keeps. -/
structure Fabric.Onward (b c : Fabric) : Prop where
  mem : Memory.wf b.mem = true → Memory.wf c.mem = true
  regs : twf resetWord b.regs = true → twf resetWord c.regs = true
  out : b.out <:+ c.out

/-- What every operation keeps, resets included. -/
structure State.Kept (s t : State) : Prop where
  pending : t.pending = s.pending
  fab : s.fab.Onward t.fab
  free : s.freeCounter ≤ t.freeCounter

/-- Device time stands at the counter it follows (R353, R354). -/
def TimeBase.Follows (a : TimeBase) : Prop :=
  a.join = .follow ∨ a.join = .wait → a.dev = (if a.active = 0 then a.tda else a.tdb).val

/-- Where device time followed its counter it still does, and neither it nor a counter has fallen. -/
structure TimeBase.Forward (a b : TimeBase) : Prop where
  follows : b.Follows
  dev : a.dev ≤ b.dev
  tda : a.tda.val ≤ b.tda.val
  tdb : a.tdb.val ≤ b.tdb.val

def TimeBase.Onward (a b : TimeBase) : Prop := a.Follows → a.Forward b

/-- What every operation outside a reset of the core keeps. -/
structure State.Onward (s t : State) : Prop where
  kept : s.Kept t
  tb : s.tb.Onward t.tb

/-- What every operation keeps, resets of the core included. -/
structure State.Sound (s t : State) : Prop where
  kept : s.Kept t
  follows : s.tb.Follows → t.tb.Follows

/-! The shared parts. -/

theorem Fabric.Onward.rfl {b : Fabric} : b.Onward b := ⟨id, id, List.suffix_refl _⟩

theorem Fabric.Onward.trans {b c d : Fabric} (h : b.Onward c) (k : c.Onward d) : b.Onward d :=
  ⟨k.mem ∘ h.mem, k.regs ∘ h.regs, h.out.trans k.out⟩

/-- A change outside memory, registers and outputs. -/
theorem Fabric.Onward.other {b c d : Fabric} (h : b.Onward c) (hm : d.mem = c.mem) (hr : d.regs = c.regs)
    (ho : d.out = c.out) : b.Onward d :=
  ⟨fun w => hm ▸ h.mem w, fun w => hr ▸ h.regs w, ho ▸ h.out⟩

theorem Fabric.Onward.foldl {α : Type} {b c : Fabric} {g : Fabric → α → Fabric} {l : List α}
    (hg : ∀ x a, b.Onward x → b.Onward (g x a)) (h : b.Onward c) : b.Onward (l.foldl g c) := by
  induction l generalizing c with
  | nil => exact h
  | cons a r ih => exact ih (hg c a h)

theorem Fabric.Onward.ite {c : Prop} [Decidable c] {a b d : Fabric} (h : a.Onward b) (k : a.Onward d) :
    a.Onward (if c then b else d) := by
  split
  · exact h
  · exact k

/-! The whole state. -/

theorem TimeBase.Onward.rfl {a : TimeBase} : a.Onward a := fun h => ⟨h, Nat.le_refl _, Nat.le_refl _, Nat.le_refl _⟩

theorem TimeBase.Onward.trans {a b c : TimeBase} (h : a.Onward b) (k : b.Onward c) : a.Onward c := fun f =>
  let x := h f
  let y := k x.follows
  ⟨y.follows, Nat.le_trans x.dev y.dev, Nat.le_trans x.tda y.tda, Nat.le_trans x.tdb y.tdb⟩

/-- A change outside the counters, device time and the join's place. -/
theorem TimeBase.Onward.upd {a b : TimeBase} {x5 x6 x7 x8 x9 x10 x11} (h : a.Onward b) :
    a.Onward (TimeBase.mk b.tda b.tdb b.dev b.join b.active x5 x6 x7 x8 x9 x10 x11) := fun f =>
  let x := h f
  ⟨x.follows, x.dev, x.tda, x.tdb⟩

theorem State.Kept.rfl {s : State} : s.Kept s := ⟨Eq.refl _, .rfl, Nat.le_refl _⟩

theorem State.Kept.trans {s t u : State} (h : s.Kept t) (k : t.Kept u) : s.Kept u :=
  ⟨k.pending.trans h.pending, h.fab.trans k.fab, Nat.le_trans h.free k.free⟩

theorem State.Onward.rfl {s : State} : s.Onward s := ⟨.rfl, .rfl⟩

theorem State.Onward.trans {s t u : State} (h : s.Onward t) (k : t.Onward u) : s.Onward u :=
  ⟨h.kept.trans k.kept, h.tb.trans k.tb⟩

theorem State.Onward.sound {s t : State} (h : s.Onward t) : s.Sound t := ⟨h.kept, fun f => (h.tb f).follows⟩

theorem State.Sound.rfl {s : State} : s.Sound s := ⟨.rfl, id⟩

theorem State.Sound.trans {s t u : State} (h : s.Sound t) (k : t.Sound u) : s.Sound u :=
  ⟨h.kept.trans k.kept, k.follows ∘ h.follows⟩

/-- An operation outside the resets, after one that may be a reset. -/
theorem State.Sound.then {s t u : State} (h : s.Sound t) (k : t.Onward u) : s.Sound u := h.trans k.sound

theorem State.Sound.ite {c : Prop} [Decidable c] {s t u : State} (h : s.Sound t) (k : s.Sound u) :
    s.Sound (if c then t else u) := by
  split
  · exact h
  · exact k

/-- A change outside the queue, the shared parts, the free values and the time base. -/
theorem State.Onward.other {s t u : State} (h : s.Onward t) (hp : u.pending = t.pending) (hf : u.fab = t.fab)
    (hc : u.freeCounter = t.freeCounter) (ht : u.tb = t.tb) : s.Onward u :=
  ⟨⟨hp.trans h.kept.pending, hf ▸ h.kept.fab, hc ▸ h.kept.free⟩, ht ▸ h.tb⟩

theorem State.Onward.foldl {α : Type} {s t : State} {g : State → α → State} {l : List α}
    (hg : ∀ x a, s.Onward x → s.Onward (g x a)) (h : s.Onward t) : s.Onward (l.foldl g t) := by
  induction l generalizing t with
  | nil => exact h
  | cons a r ih => exact ih (hg t a h)

/-- A fold that carries the state beside a value. -/
theorem State.Onward.foldl2 {α β : Type} {s : State} {c : β × State} {g : β × State → α → β × State} {l : List α}
    (hg : ∀ x a, s.Onward x.2 → s.Onward (g x a).2) (h : s.Onward c.2) : s.Onward (l.foldl g c).2 := by
  induction l generalizing c with
  | nil => exact h
  | cons a r ih => exact ih (hg c a h)

theorem State.Onward.foldl1 {α β : Type} {s : State} {c : State × β} {g : State × β → α → State × β} {l : List α}
    (hg : ∀ x a, s.Onward x.1 → s.Onward (g x a).1) (h : s.Onward c.1) : s.Onward (l.foldl g c).1 := by
  induction l generalizing c with
  | nil => exact h
  | cons a r ih => exact ih (hg c a h)

/-- Either of two states. -/
theorem State.Onward.ite {c : Prop} [Decidable c] {s t u : State} (h : s.Onward t) (k : s.Onward u) :
    s.Onward (if c then t else u) := by
  split
  · exact h
  · exact k

/-- A change of other fields alone, as Lean writes it. -/
theorem State.Onward.upd {s t : State}
    {x2 x4 x5 x6 x7 x8 x9 x10 x11 x12 x13 x14 x15 x16 x17 x18 x19
      x20 x21 x22 x23 x24 x25 x26 x27 x28 x29 x30 x31 x32 x33 x34 x35}
    (h : s.Onward t) : s.Onward (State.mk t.pending t.fab x2 t.tb x4 x5 x6 x7 x8 x9 x10 x11 x12 x13
      x14 x15 x16 x17 x18 x19 x20 x21 x22 x23 x24 x25 x26 x27 x28 x29 x30 x31 x32 x33 x34 x35 t.freeCounter) :=
  ⟨⟨h.kept.pending, h.kept.fab, h.kept.free⟩, h.tb⟩

/-- The same with the shared parts replaced. -/
theorem State.Onward.updFab {s t : State} {b : Fabric}
    {x2 x4 x5 x6 x7 x8 x9 x10 x11 x12 x13 x14 x15 x16 x17 x18 x19
      x20 x21 x22 x23 x24 x25 x26 x27 x28 x29 x30 x31 x32 x33 x34 x35}
    (h : s.Onward t) (k : s.fab.Onward b) : s.Onward (State.mk t.pending b x2 t.tb x4 x5 x6 x7 x8 x9 x10 x11 x12 x13
      x14 x15 x16 x17 x18 x19 x20 x21 x22 x23 x24 x25 x26 x27 x28 x29 x30 x31 x32 x33 x34 x35 t.freeCounter) :=
  ⟨⟨h.kept.pending, k, h.kept.free⟩, h.tb⟩

/-- The same with the time base replaced. -/
theorem State.Onward.updTb {s t : State} {b : TimeBase}
    {x2 x4 x5 x6 x7 x8 x9 x10 x11 x12 x13 x14 x15 x16 x17 x18 x19
      x20 x21 x22 x23 x24 x25 x26 x27 x28 x29 x30 x31 x32 x33 x34 x35}
    (h : s.Onward t) (k : s.tb.Onward b) : s.Onward (State.mk t.pending t.fab x2 b x4 x5 x6 x7 x8 x9 x10 x11 x12 x13
      x14 x15 x16 x17 x18 x19 x20 x21 x22 x23 x24 x25 x26 x27 x28 x29 x30 x31 x32 x33 x34 x35 t.freeCounter) :=
  ⟨⟨h.kept.pending, h.kept.fab, h.kept.free⟩, k⟩

theorem State.Onward.fab {s t : State} (h : s.Onward t) : s.fab.Onward t.fab := h.kept.fab

/-- The same for the shared parts. -/
theorem Fabric.Onward.upd {b c : Fabric} {x2 x3 x4 x5} (h : b.Onward c) :
    b.Onward (Fabric.mk c.regs c.mem x2 x3 x4 x5 c.out) := ⟨h.mem, h.regs, h.out⟩

/-- A fact about the value of a `let`, kept under its name. -/
theorem onward_cut {P Q : Prop} (h : P) (k : P → Q) : Q := k h

/-- An operation on the shared parts alone. -/
theorem State.inFab_onward {s t : State} {g : Fabric → Fabric} (h : s.Onward t)
    (hg : ∀ b c : Fabric, b.Onward c → b.Onward (g c)) : s.Onward (t.inFab g) :=
  ⟨⟨h.kept.pending, hg _ _ h.kept.fab, h.kept.free⟩, h.tb⟩

end Sys2Proof.Machine
end

