-- ==== Sys2Proof/Safety.lean ====
section
/-!
DEFINITION. What claims call a safe state and a safe run: the tables of the state are in their canonical form, and a run
never stops. No rule of the spec ends a run, so a run that stops is none of the device's.
-/
namespace Sys2Proof.Machine

/-- Paddock and registers are in their canonical form: rising keys, and no entry that equals what an unlisted one reads. -/
def State.canonical (s : State) : Bool := Memory.wf s.fab.mem && twf resetWord s.fab.regs

/-- A step that goes on. -/
def goesOn (o : Host.Outcome State Fault Refusal) : Bool :=
  match o with
  | .next _ => true
  | .fault _ => false
  | .refused _ => false

end Sys2Proof.Machine
end

