-- ==== Sys2Proof/Certificates/Slice0/Obligations.lean ====
section
/-! DEFINITION. The statements for the provers. -/
open Sys2Proof Sys2Proof.Machine Host.Outcome

/-- A step runs the command at the front of the queue (R8). For every command c and every state s, a step of s with
c put at the front of its queue is exec of c on s, the queue being the rest. On an empty queue the step answers the
state after one idle clock (the model's choice, log entry 4), and where the core is unpowered, in reset or tripped
the idle clock changes nothing. -/
def Obligations.StepRunsFront : Prop :=
  (∀ (c : Instr) (s : State), step { s with pending := c :: s.pending } = exec c s) ∧
  (∀ s : State, s.pending = [] → step s = .next s.idle) ∧
  (∀ s : State, s.coreRuns = false → s.idle = s)

/-- Every step keeps the tables canonical and device time at the counter it follows (R8, R248, R353). For every
state, reachable or not, whose paddock bytes and registers stand in canonical form (keys strictly rising, no entry
equal to what an unlisted key reads as), a step that answers a next state leaves both in canonical form; and where
device time stood at the value of the counter it follows, it still does after the step. -/
def Obligations.CanonicalKept : Prop :=
  ∀ s t : State, step s = .next t → s.canonical = true ∧ s.tb.Follows → t.canonical = true ∧ t.tb.Follows

/-- The invariant holds at reset (R248, R349). The state after reset is canonical, its device time stands at the
counter it follows, both counters are zero, its queue is empty, it has sent nothing, and it is unpowered. -/
def Obligations.CanonicalAtReset : Prop :=
  State.reset.canonical = true ∧ State.reset.tb.Follows ∧ State.reset.tb.tda.val = 0 ∧ State.reset.tb.tdb.val = 0
    ∧ State.reset.tb.dev = 0 ∧ State.reset.pending = [] ∧ State.reset.fab.out = [] ∧ State.reset.power.v12 = false

/-- Neither device time nor a counter ever falls between resets (R349). For every state in which device time stands
at the counter it follows, a step that answers a next state leaves device time and both counters at or above what
they held, unless the command at the front is one of the six that reset the core: COLD_RESET, V12_LOSS,
V12_RANGE_CHANGE, MODULE_RESET_RELEASE, THERMAL_SAMPLE and MODULE_REMOVAL. -/
def Obligations.TimeNeverFalls : Prop :=
  ∀ s t : State, step s = .next t → s.tb.Follows →
    (∀ c ∈ s.pending.head?, (∀ mv, c ≠ .coldReset mv) ∧ c ≠ .v12Loss ∧ (∀ mv, c ≠ .v12RangeChange mv)
      ∧ (∀ l, c ≠ .moduleResetRelease l) ∧ (∀ l, c ≠ .thermalSample l) ∧ c ≠ .moduleRemoval) →
    s.tb.dev ≤ t.tb.dev ∧ s.tb.tda.val ≤ t.tb.tda.val ∧ s.tb.tdb.val ≤ t.tb.tdb.val

/-- Commands leave in order, outputs stay sent, and no step stops (R22, R341). A step never faults and never
refuses. For every state and every step, the queue afterwards is the queue before without its front (an empty queue
stays empty), what the device has sent is only added to, and the numbers of free values are never drawn again. -/
def Obligations.QueueAndOutputs : Prop :=
  (∀ s : State, ∃ t, step s = .next t) ∧
  (∀ s t : State, step s = .next t →
    t.pending = s.pending.tail ∧ (∃ l, t.fab.out = l ++ s.fab.out) ∧ s.freeCounter ≤ t.freeCounter)

/-- No word spells a command (R6). The table gives no row any bits, so no word is a command, and placing a word
changes nothing. -/
def Obligations.DecodeHasNoBits : Prop :=
  ∀ (s : State) (nbits w : Nat), decodeTableWord nbits w = none ∧ s.withFetchWord nbits w = s

/-- A set takes effect at the next clock, or is refused because it lies below the counter (R32, R352, R367, R368).
Let u be the state one clock after TD_CMD.SET with any pending SET_ON_PPS cancelled, and v the value of the TD_SET
registers. Where v lies below the counter in u, TIME_SET answers u with SET_REFUSED set and the counter's step
event raised with detail 0: no counter moves. Otherwise TIME_SET completes with the counter holding v; where device
time follows that counter, device time holds v as well; where device time follows the other counter and no join is
under way, device time is as in u. -/
def Obligations.TimeSetApplies : Prop :=
  ∀ (d : Nat) (s : State), d < 2 →
    let u := (s.updCounter d fun c => { c with setOnPps := none }).advance 1
    let v := 65536 * s.rdTime (TD_SET d)
    (v < (u.tb.counter d).val → exec (.timeSet d) s = .next ((u.wr (TD_STATUS_SET_REFUSED d) 1).raise (652 + d) 0)) ∧
    ((u.tb.counter d).val ≤ v → ∃ t, exec (.timeSet d) s = .next t ∧ (t.tb.counter d).val = v ∧
      (u.tb.join = .follow ∧ u.tb.active = d → t.tb.dev = v) ∧
      (u.tb.join = .follow ∧ u.tb.active = 1 - d → t.tb.dev = u.tb.dev))

/-- An adjustment and a halving run out (R351, R352). ADJUST_END runs the clock until no adjustment tick is left,
and CATCHUP_END until no halved clock is left; of the other count each clock takes one as well. -/
def Obligations.TimeRunsOut : Prop :=
  ∀ (d : Nat) (s : State),
    (∃ t, exec (.adjustEnd d) s = .next t ∧ (t.tb.counter d).adjLeft = 0
      ∧ (t.tb.counter d).halveLeft = (s.tb.counter d).halveLeft - (s.tb.counter d).adjLeft) ∧
    (∃ t, exec (.catchupEnd d) s = .next t ∧ (t.tb.counter d).halveLeft = 0
      ∧ (t.tb.counter d).adjLeft = (s.tb.counter d).adjLeft - (s.tb.counter d).halveLeft)

/-- Writes of the increment, of an adjustment and of SET_ON_PPS (R350, R351, R352). While no servo owns the
increment, a write of TD_INC_INT within 1.2375 to 1.2625 ns becomes the counter's base; outside it, TD_INC_FRAC
returns to its previous value and the write is an access error; while a servo owns it, INC_REFUSED is set and
nothing else changes. An adjustment within 0.6 to 1.9 ns starts for the written clocks, zero clocks cancel one, and
a value outside is an access error. SET_ON_PPS keeps the seconds of TD_SET for the next edge. -/
def Obligations.IncrementWrites : Prop :=
  ∀ (d int ticks : Nat) (s : State),
    let v := 4294967296 * (int % 256) + (s.rw (TD_INC_FRAC d)).toNat
    let a := 4294967296 * s.rd (TD_ADJ_INT_INT d) + (s.rw (TD_ADJ_FRAC d)).toNat
    (s.servoOwns d = true → exec (.incCommit d int) s = .next (s.wr (TD_STATUS_INC_REFUSED d) 1)
      ∧ exec (.adjustStart d ticks) s = .next (s.wr (TD_STATUS_INC_REFUSED d) 1)) ∧
    (s.servoOwns d = false →
      (99 * 2 ^ 32 ≤ 80 * v ∧ 80 * v ≤ 101 * 2 ^ 32 →
        exec (.incCommit d int) s = .next ((s.wr (TD_INC_INT_INT d) int).updCounter d fun c => { c with base := v })) ∧
      (¬ (99 * 2 ^ 32 ≤ 80 * v ∧ 80 * v ≤ 101 * 2 ^ 32) →
        exec (.incCommit d int) s
          = .next ((s.ww (TD_INC_FRAC d) (BitVec.ofNat 32 (s.tb.counter d).base)).accErr 0)) ∧
      (exec (.adjustStart d 0) s = .next (s.updCounter d fun c => { c with adjLeft := 0 }).syncTime) ∧
      (0 < ticks ∧ 3 * 2 ^ 32 ≤ 5 * a ∧ 10 * a ≤ 19 * 2 ^ 32 →
        exec (.adjustStart d ticks) s = .next (s.updCounter d fun c => { c with adj := a, adjLeft := ticks }).syncTime) ∧
      (0 < ticks ∧ ¬ (3 * 2 ^ 32 ≤ 5 * a ∧ 10 * a ≤ 19 * 2 ^ 32) → exec (.adjustStart d ticks) s = .next (s.accErr 0))) ∧
    exec (.setOnPps d) s
      = .next (s.updCounter d fun c => { c with setOnPps := some (Time.sec (s.rdTime (TD_SET d))) })

/-- What a change of SEL leads to (R353, R354, R355, R368). A write of SEL that does not change it does nothing. A
change starts a join: with u the state one clock later (SEL already written) and g the new counter's value less
device time there, a gap from zero to TB_JOIN_LIMIT gives device time the new counter's value and follows it; a
negative gap within TB_JOIN_BACK_LIMIT starts the catch-up towards it with device time as it stood; any other gap
leaves device time as it stood, with a waiting join towards the counter. -/
def Obligations.JoinOutcomes : Prop :=
  ∀ (d : Nat) (s : State), d < 2 →
    (s.rd TB_CTRL_SEL = d → exec (.joinStart d) s = .next s) ∧
    (s.rd TB_CTRL_SEL ≠ d →
      let u := (s.wr TB_CTRL_SEL d).advance 1
      let g : Int := ((u.tb.counter d).val : Int) - (u.tb.dev : Int)
      ∃ t, exec (.joinStart d) s = .next t ∧
        (0 ≤ g ∧ g ≤ ns32 (u.rd TB_JOIN_LIMIT_VALUE) →
          t.tb.join = .follow ∧ t.tb.active = d ∧ t.tb.dev = (t.tb.counter d).val ∧ t.tb.dev = (u.tb.counter d).val) ∧
        (g < 0 ∧ -g ≤ ns32 (u.rd TB_JOIN_BACK_LIMIT_VALUE) →
          t.tb.join = .catchUp ∧ t.tb.target = d ∧ t.tb.dev = u.tb.dev) ∧
        ((g > ns32 (u.rd TB_JOIN_LIMIT_VALUE) ∨ -g > ns32 (u.rd TB_JOIN_BACK_LIMIT_VALUE)) →
          (t.tb.join = .wait ∨ t.tb.join = .waitRunning) ∧ t.tb.target = d ∧ t.tb.dev = u.tb.dev))

/-- How a join completes, is forced and is cancelled (R354, R355). With no adjustment and no halving under way and
a positive increment, a catch-up completes: device time takes the value of the new counter and follows it. A
waiting join with a gap that is not negative one clock later is forced by stepping device time onto the new
counter; with a negative gap JOIN_FORCE starts the catch-up. While device time still follows the old counter,
JOIN_CANCEL restores SEL to it and ends the join, device time and counters as they stood. With no join waiting,
both do nothing. -/
def Obligations.JoinEnds : Prop :=
  ∀ s : State,
    (s.tb.join = .catchUp ∧ s.tb.tda.adjLeft = 0 ∧ s.tb.tda.halveLeft = 0 ∧ s.tb.tdb.adjLeft = 0 ∧ s.tb.tdb.halveLeft = 0
        ∧ 0 < (s.tb.counter s.tb.target).base →
      ∃ t, exec .joinComplete s = .next t ∧ t.tb.join = .follow ∧ t.tb.active = s.tb.target
        ∧ t.tb.dev = (t.tb.counter s.tb.target).val) ∧
    (s.tb.join = .wait ∨ s.tb.join = .waitRunning →
      let u := s.advance 1
      ∃ t, exec .joinForce s = .next t ∧
        (u.tb.dev ≤ (u.tb.counter u.tb.target).val →
          t.tb.join = .follow ∧ t.tb.active = u.tb.target ∧ t.tb.dev = (u.tb.counter u.tb.target).val) ∧
        ((u.tb.counter u.tb.target).val < u.tb.dev →
          t.tb.join = .catchUp ∧ t.tb.target = u.tb.target ∧ t.tb.dev = u.tb.dev)) ∧
    (s.tb.join = .wait → ∃ t, exec .joinCancel s = .next t ∧ t.tb.join = .follow ∧ t.tb.active = s.tb.active
      ∧ t.rd TB_STATUS_JOIN_WAIT = 0 ∧ t.tb.dev = s.tb.dev ∧ t.tb.tda = s.tb.tda ∧ t.tb.tdb = s.tb.tdb) ∧
    (s.tb.join = .follow → exec .joinForce s = .next s ∧ exec .joinCancel s = .next s ∧ exec .joinComplete s = .next s)

/-- What the servos make of their messages (R357, R358, R359). A delay exchange of an instance with a role and a
master becomes its path delay, shown in picoseconds. RESTART_SERVO takes the history and leads a servo in Stepped,
Locked or Holdover to Await, or to Free without a master. A locked servo whose receipt timeout passes counts it and
goes to Holdover. A holdover that has lasted HOLDOVER_S goes to Free, without history and master. An Announce of a
slave-only instance that had no master is taken as its master, in Await. A Sync of the selected master in Stepped,
with a history, starts the slewing: base and adjustment are those of R358 and the servo is Locked. -/
def Obligations.ServoCommands : Prop :=
  ∀ (d : Nat) (s : State),
    (∀ delay, s.rd (TD_PTP_CFG_ROLE d) ≠ 0 ∧ (s.servo d).master.isSome = true →
      exec (.ptpDelayResponse d delay) s = .next ((s.updServo d fun v => { v with delay := some delay }).wr
        (TD_PATH_DELAY_PICOSECONDS d) (min (1000 * delay / 65536) 0x7FFFFFFF))) ∧
    (∃ t, exec (.restartServo d) s = .next t ∧ (t.servo d).history = none ∧ (t.servo d).master = (s.servo d).master) ∧
    (s.rd (TD_STATUS_STATE d) = 3 →
      exec (.announceTimeout d) s = .next (State.servoState d 4 (s.tally (TD_TIMEOUT_TALLY_COUNT d)))) ∧
    (s.rd (TD_STATUS_STATE d) = 4 → exec (.holdoverExpire d) s = .next (State.servoState d 0
      (s.updServo d fun v => { v with history := none, stepped := 0, master := none }))) ∧
    (∀ (domain transport : Nat) (data : List Nat), s.rd (TD_PTP_CFG_ROLE d) = 1 ∧ s.rd (TD_PTP_CFG_TRANSPORT d) = 3
        ∧ s.rd (TD_PTP_CFG_DOMAIN_AUTO d) = 0 ∧ s.rd (TD_PTP_CFG_DOMAIN d) = domain ∧ (s.servo d).master = none →
      exec (.ptpAnnounce d domain transport data) s
        = .next (State.servoState d 1 (s.updServo d fun v => { v with master := some data }))) ∧
    (∀ (master gm m1 l1 delay : Nat) (m : List Nat), s.rd (TD_PTP_CFG_ROLE d) ≠ 0 ∧ s.rd (TD_STATUS_STATE d) = 2
        ∧ (s.servo d).master = some m ∧ State.gmOf m = gm ∧ (s.servo d).delay = some delay
        ∧ (s.servo d).history = some (m1, l1) ∧ ((s.tb.counter d).val : Int) - l1 - (s.servo d).stepped ≤ 0 →
      ∃ t, exec (.ptpSync d master gm) s = .next t ∧ (t.tb.counter d).base = (s.tb.counter d).base
        ∧ (t.tb.counter d).adjLeft = s.syncClocks d
        ∧ (t.servo d).history = some (65536 * (master + delay), (s.tb.counter d).val))

/-- PPS edges, timeouts and the reference clock (R352, R360, R361). A PPS_IN edge of a device whose grandmaster
loop does not run and with no SET_ON_PPS pending only stamps TB_PPS_IN. A missing edge clears PPS_LOCK and the run
of good edges; the reference clock's lock and loss set REF_LOCK; a change of REF_SEL writes the field and drops
REF_LOCK, and writing the same value does nothing. A PPS_OUT pulse leaves at the next whole second of device time
where it is enabled. -/
def Obligations.PpsAndReference : Prop :=
  ∀ s : State,
    (s.gmRuns = false ∧ (s.wrTime TB_PPS_IN s.now).gmRuns = false ∧ s.tb.tda.setOnPps = none ∧ s.tb.tdb.setOnPps = none →
      exec .ppsInEdge s = .next (s.wrTime TB_PPS_IN s.now)) ∧
    (exec .ppsTimeout s = .next ({ s with tb := { s.tb with ppsGood := 0 } }.setLocks s.refLocked false)) ∧
    (exec .refclkLock s = .next (s.setLocks true s.ppsLocked)) ∧
    (exec .refclkLost s = .next (s.setLocks false s.ppsLocked)) ∧
    (∀ v, s.rd TB_CTRL_REF_SEL = v → exec (.refSelChange v) s = .next s) ∧
    (∀ v, s.rd TB_CTRL_REF_SEL ≠ v →
      exec (.refSelChange v) s = .next ((s.wr TB_CTRL_REF_SEL v).setLocks false s.ppsLocked)) ∧
    (s.rd TB_PPS_OUT_ENABLE = 1 → ∃ t, exec .ppsOutPulse s = .next t
      ∧ t.fab.out.head? = some (.ppsOut (s.rd TB_PPS_OUT_WIDTH_US)))

/-- Arming, disarming and firing of time-compare slots (R362, R364, R536). ARM of a slot that is not armed keeps
the instant, sets ARMED and, for a slot time at or before now plus 2.5 ns, sets LATE; of an armed slot it does
nothing. DISARM empties the slot and clears ARMED. An armed slot fires no earlier than its time, and after a firing
of a slot with period zero it is no longer armed; a slot that is not armed does not fire. -/
def Obligations.SlotCommands : Prop :=
  ∀ (k : Nat) (s : State),
    ((s.slot k).armed = true → exec (.slotArm k) s = .next s) ∧
    ((s.slot k).armed = false → ∃ t, exec (.slotArm k) s = .next t ∧
      t.slot k = { armed := true, armedAt := s.tb.dev, late := decide (s.slotTime k ≤ s.tb.dev + ns32 5 / 2), stepped := false }
      ∧ t.tb.dev = s.tb.dev) ∧
    (exec (.slotDisarm k) s = .next ((s.setSlot k {}).wr (TC_CTRL_ARMED k) 0)) ∧
    ((s.slot k).armed = false → exec (.slotFire k) s = .next s) ∧
    ((s.slot k).armed = true → ∃ t, exec (.slotFire k) s = .next t ∧ s.tb.dev ≤ t.tb.dev)

/-- A tick period is written, replaced, withdrawn and applied (R11, R29, R31). A period outside 100 ns to 1,000,000
ns, or one that does not divide a second, is an access error and leaves any pending period. Another period becomes
the pending one, shown by PERIOD_NS with PENDING set, and replaces any pending before it; a write of the period in
force withdraws the pending one and clears PENDING. When it applies, the pending period becomes the period in force
and none is pending; with none pending nothing changes. -/
def Obligations.TickPeriod : Prop :=
  ∀ (v : Nat) (s : State),
    (100 ≤ v ∧ v ≤ 1000000 ∧ 1000000000 % v = 0 ∧ v = s.bw.period →
      exec (.bwPeriodWrite v) s = .next (({ s with bw := { s.bw with pendingPeriod := none } }.wr
        GLB_BW_CTRL_PERIOD_NS v).wr GLB_BW_CTRL_PENDING 0)) ∧
    (v < 100 ∨ 1000000 < v ∨ 1000000000 % v ≠ 0 → exec (.bwPeriodWrite v) s = .next (s.accErr 0)) ∧
    (100 ≤ v ∧ v ≤ 1000000 ∧ 1000000000 % v = 0 ∧ v ≠ s.bw.period →
      exec (.bwPeriodWrite v) s = .next (({ s with bw := { s.bw with pendingPeriod := some v } }.wr
        GLB_BW_CTRL_PERIOD_NS v).wr GLB_BW_CTRL_PENDING 1)) ∧
    (s.bw.pendingPeriod = some v → ∃ t, exec .bwPeriodApply s = .next t ∧ t.bw.period = v ∧ t.bw.pendingPeriod = none) ∧
    (s.bw.pendingPeriod = none → exec .bwPeriodApply s = .next s)

/-- An occurrence in a view that is not enabled is counted and kept, and nothing is delivered (R17, R336, R337,
R339). With no indication waiting, an occurrence of a source that the management function alone sees, whose view is
not enabled, counts once in the view's tally, sets PENDING, keeps its cause and detail (the first cause stays the
first), and changes nothing else: no message, no record, no byte of the paddock. -/
def Obligations.EventOccurs : Prop :=
  ∀ (src detail : Nat) (s : State), s.seers src = [0] ∧ s.fab.queue = [] ∧ s.rd (EV_CFG_ENABLE 0 src) = 0 →
    let b := (s.fab.tally (EV_TALLY_COUNT 0 src)).wr (EV_STATUS_PENDING 0 src) 1
    b.rd (EV_CFG_ENABLE 0 src) = 0 →
    exec (.eventOccurrence src detail) s = .next { s with fab := b.setView 0 src { s.fab.view 0 src with
      seen := true, first := if (s.fab.view 0 src).seen then (s.fab.view 0 src).first else s.now,
      last := s.now, detail := detail } }

/-- Hold-off, enable, software sources and MSI-X masks (R326, R338, R339, R340, R343). A hold-off that ends
delivers an enabled view with undelivered occurrences, and does nothing for another. An enable of a view that a
function does not see does nothing; one of a view that is already enabled and stays so delivers nothing. A software
source of the writer's own is raised, another is an access error. Unmasking an entry clears its mask bit and sends
the one message of a pending bit, which it clears. -/
def Obligations.EventCommands : Prop :=
  ∀ (fn src vec : Nat) (s : State),
    (s.rd (EV_CFG_ENABLE fn src) = 1 ∧ 0 < s.rd (EV_STATUS_UNDELIVERED fn src) →
      exec (.eventHoldoffExpire fn src) s = .next (s.inFab (deliver s.owner s.now false fn src)).settle) ∧
    (s.rd (EV_STATUS_UNDELIVERED fn src) = 0 → exec (.eventHoldoffExpire fn src) s = .next s) ∧
    (s.sees fn src = false → exec (.eventEnable fn src) s = .next s) ∧
    (s.sees fn src = true ∧ s.rd (EV_CFG_ENABLE fn src) = 1 → exec (.eventEnable fn src) s
      = .next (State.putWord fn (EV_CFG fn src) (s.rw (EV_CFG fn src) ||| 0x80000000) s)) ∧
    (916 + 12 * fn ≤ src ∧ src ≤ 927 + 12 * fn ∧ 0 < fn → exec (.eventRaise fn src) s = .next (s.raise src 0)) ∧
    (928 ≤ src ∧ src ≤ 1023 → exec (.eventRaise 0 src) s = .next (s.raise src 0)) ∧
    (¬ (916 + 12 * fn ≤ src ∧ src ≤ 927 + 12 * fn) ∧ 0 < fn → exec (.eventRaise fn src) s = .next (s.accErr fn)) ∧
    (let pba : FRef := ⟨MSIX_PBA fn (vec / 32), vec % 32, vec % 32⟩
     let u := s.wr (MSIX_CTRL_MASK fn vec) 0
     (u.rd pba = 1 → exec (.msixUnmask fn vec) s = .next ((u.wr pba 0).emit (.msix fn vec))) ∧
     (u.rd pba = 0 → exec (.msixUnmask fn vec) s = .next u))

/-- The host link's changes (R322, R335, R492). While the link is down, an error or a recovery is counted and its
event held back with its instant; while it is up, the event is raised at once. A link that comes up shows its rate,
width and mode, takes the reference of R492 for the rate, raises what was held in order, then EV832, and EV833 when
it is degraded; a link that is already up stays as it is. A change of rate or width of a link that is up is shown
and raises EV833. -/
def Obligations.HostLinkCommands : Prop :=
  ∀ (rate width flit kind : Nat) (s : State),
    (s.rd HI_LINK_STATUS_UP = 0 ∧ (s.tally HI_RECOVERY_TALLY_COUNT).rd HI_LINK_STATUS_UP = 0 →
      exec .linkRecovery s = .next { s.tally HI_RECOVERY_TALLY_COUNT with hostHeld := s.hostHeld ++ [(834, s.now)] }) ∧
    ((s.tally HI_RECOVERY_TALLY_COUNT).rd HI_LINK_STATUS_UP = 1 →
      exec .linkRecovery s = .next ((s.tally HI_RECOVERY_TALLY_COUNT).raise 834 0)) ∧
    ((s.tally HI_CORR_TALLY_COUNT).rd HI_LINK_STATUS_UP = 1 →
      exec (.pcieErrorLogged 0) s = .next ((s.tally HI_CORR_TALLY_COUNT).raise 835 0)) ∧
    (kind ≠ 0 ∧ (s.tally HI_UNCORR_TALLY_COUNT).rd HI_LINK_STATUS_UP = 1 →
      exec (.pcieErrorLogged kind) s = .next ((s.tally HI_UNCORR_TALLY_COUNT).raise (835 + kind) 0)) ∧
    (s.rd HI_LINK_STATUS_UP = 1 → exec (.linkUp rate width flit) s = .next s) ∧
    (s.rd HI_LINK_STATUS_UP = 0 → ∃ t, exec (.linkUp rate width flit) s = .next t ∧ t.hostHeld = [] ∧ 4 ∈ t.power.reached) ∧
    (s.rd HI_LINK_STATUS_UP = 0 → exec (.linkRateChange rate width flit) s = .next s) ∧
    (s.rd HI_LINK_STATUS_UP = 1 ∧ s.rd HI_LINK_STATUS_RATE ≠ rate →
      exec (.linkRateChange rate width flit) s = .next ((State.linkShape rate width flit s).raise 833 0))

/-- Accesses from the host (R6, R7, R8, R12, R16, R327). An aligned write within the base address registers is the
register write of its function; one outside them, or a function's read outside them, is dropped or completed as
unsupported; an unaligned access within them is completed as unsupported and leaves every register as it is. A read
of an offset with no register answers zero and counts an access error where the offset's block is not closed to the
function; the lowest word of a wide value and a register with an RC field are read like any other. -/
def Obligations.RegisterAccess : Prop :=
  ∀ (fn off len : Nat) (value inc : Word) (s : State),
    (State.inBar fn off = true ∧ off % 4 = 0 →
      exec (.registerWrite fn off value) s = .next (State.writeWord fn off value s)) ∧
    (State.inBar fn off = false → exec (.registerWrite fn off value) s = .next s) ∧
    (State.inBar fn off = true ∧ off % 4 ≠ 0 → exec (.registerWrite fn off value) s = .next (s.emit (.unsupported fn))) ∧
    (off % 4 ≠ 0 ∨ len ≠ 4 → exec (.misalignedAccess fn off len) s = .next (s.emit (.unsupported fn))) ∧
    (State.inBar 0 off = true ∧ off % 4 = 0 ∧ s.defined off = false →
      exec (.undefinedOffsetAccess 0 off true value) s = .next (s.accErr 0) ∧
      exec (.undefinedOffsetAccess 0 off false value) s = .next ((s.accErr 0).emit (.readReply 0 0))) ∧
    (∀ r : RegDef, regAt off = some r ∧ r.words > 1 ∧ r.word = 0 ∧ State.inBar fn off = true ∧ off % 4 = 0 →
      exec (.wideValueLowRead fn off) s
        = .next ((State.readWord fn off s).2.emit (.readReply fn (State.readWord fn off s).1))) ∧
    (∀ r : RegDef, regAt off = some r ∧ State.RegDef.readClears r = true ∧ State.inBar fn off = true ∧ off % 4 = 0
        ∧ s.right fn off = .hidden →
      exec (.readToClear fn off inc) s
        = .next ((State.readWord fn off s).2.emit (.readReply fn (State.readWord fn off s).1)))

/-- A tally counts up and stays at all ones (R17). For every field of a register (its bits within 32) and every
state, a count of n more raises the field by n, and to its all-ones value at most; a tally at its all-ones value
stays there whatever is counted. Every byte of the paddock, what has been sent, and every field that shares no bit
with it read as before. -/
def Obligations.TallySaturates : Prop :=
  ∀ (f g : FRef) (n : Nat) (b : Fabric), f.lo ≤ f.hi ∧ f.hi < 32 →
    (b.tally f n).rd f = min (b.rd f + n) (2 ^ (f.hi + 1 - f.lo) - 1) ∧
    (b.rd f = 2 ^ (f.hi + 1 - f.lo) - 1 → (b.tally f n).rd f = 2 ^ (f.hi + 1 - f.lo) - 1) ∧
    ((g.key ≠ f.key ∨ g.hi < f.lo ∨ f.hi < g.lo) ∧ g.lo ≤ g.hi ∧ g.hi < 32 → (b.tally f n).rd g = b.rd g) ∧
    (∀ a, (b.tally f n).byte a = b.byte a) ∧ (b.tally f n).out = b.out

/-- What a register makes of a written word (R8, R10, R11, R14). For every register of the map, every word it holds
and every word written: a bit outside its fields keeps what it held (a reserved bit is ignored); an RW or RWK field
whose written encoding is defined takes it, and one whose encoding is not defined keeps its bits and counts one
access error; a W1C field loses the bits written as one; a W1S field gains them; RO, RC and ROK fields keep theirs,
and a WO field holds no state. -/
def Obligations.FieldAccess : Prop :=
  ∀ (off : Nat) (r : RegDef) (old w : Word), regAt off = some r →
    (∀ i, i < 32 ∧ (∀ f ∈ r.fields, i < f.lo ∨ f.hi < i) → (r.take old w).1.getLsbD i = old.getLsbD i) ∧
    (∀ f ∈ r.fields, ∀ i, f.lo ≤ i ∧ i ≤ f.hi →
      (r.take old w).1.getLsbD i = match f.acc with
        | .rw | .rwk => if f.legal.holds (f.hi + 1 - f.lo) (bitsOf w f.hi f.lo) then w.getLsbD i else old.getLsbD i
        | .w1c => old.getLsbD i && !w.getLsbD i
        | .w1s => old.getLsbD i || w.getLsbD i
        | .ro | .rc | .rok | .wo => old.getLsbD i) ∧
    (r.take old w).2 = (r.fields.filter fun f =>
      (f.acc == .rw || f.acc == .rwk || f.acc == .wo) && !f.legal.holds (f.hi + 1 - f.lo) (bitsOf w f.hi f.lo)).length

/-- Partition commits and function-level resets (R325, R326, R330, R346, R500). FUNCTION is a field of four bits, so
commits and reverts are of a function below 16. A commit while one is applied, or
while an activation runs, ends with RESULT 4; one that fails its validation ends with the code of the failure; both
change nothing else. One that passes waits, with BUSY set, for its application, after which no commit waits and
RESULT is 0. A function-level reset of a capture function is open until it completes; its completion raises the
function's event, and the completion of a reset that is not open does nothing. During an activation, a rollback or
a warm reset the scope of the reset waits. -/
def Obligations.PartitionCommands : Prop :=
  ∀ (fn : Nat) (s : State),
    let u := State.putWord 0 HI_PART_CMD (BitVec.ofNat 32 (2 ^ 31 + 256 * fn)) s
    let f := u.rd HI_PART_CMD_FUNCTION
    (fn < 16 ∧ (u.rd HI_PART_CMD_BUSY = 1 ∨ u.struct.stage.active = true) →
      exec (.partitionCommit fn) s = .next (State.partResult f 4 u)) ∧
    (fn < 16 ∧ u.rd HI_PART_CMD_BUSY = 0 ∧ u.struct.stage.active = false ∧ u.partCheck (u.partWritten f) ≠ 0 →
      exec (.partitionCommit fn) s = .next (State.partResult f (u.partCheck (u.partWritten f)) u)) ∧
    (fn < 16 ∧ u.rd HI_PART_CMD_BUSY = 0 ∧ u.struct.stage.active = false ∧ u.partCheck (u.partWritten f) = 0 →
      exec (.partitionCommit fn) s
        = .next (State.wr { u with committing := some (u.partWritten f) } HI_PART_CMD_BUSY 1)) ∧
    (s.committing = none → exec .partitionApply s = .next s) ∧
    (∀ q, s.committing = some q → ∃ t, exec .partitionApply s = .next t ∧ t.committing = none
      ∧ ∃ p ∈ t.part, p.fn = q.fn ∧ p.enable = q.enable ∧ p.penFirst = q.penFirst ∧ p.penCount = q.penCount
        ∧ p.chFirst = q.chFirst ∧ p.chCount = q.chCount ∧ p.pageFirst = q.pageFirst ∧ p.pageCount = q.pageCount) ∧
    (let v := State.putWord 0 HI_PART_CMD (BitVec.ofNat 32 (2 ^ 30 + 256 * fn)) s
     fn < 16 → exec (.partitionRevert fn) s = .next (State.partRevert (v.rd HI_PART_CMD_FUNCTION) v)) ∧
    (0 < fn ∧ s.scopeWaits = true ∧ s.flrOpen.contains fn = false ∧ s.flrDue.contains fn = false →
      exec (.functionLevelReset fn) s = .next { s with flrOpen := s.flrOpen ++ [fn], flrDue := s.flrDue ++ [fn] }) ∧
    (0 < fn ∧ s.scopeWaits = false ∧ s.flrOpen.contains fn = false →
      exec (.functionLevelReset fn) s = .next (State.functionScope fn { s with flrOpen := s.flrOpen ++ [fn] })) ∧
    (s.flrOpen.contains fn = false → exec (.flrComplete fn) s = .next s) ∧
    (s.flrOpen.contains fn = true → exec (.flrComplete fn) s
      = .next (State.raise { s with flrOpen := s.flrOpen.filter (· != fn) } (841 + fn) 0))

/-- Configuring a pen, and the hurdle inputs (R273, R284, R286, R287). Only a pen's owner and the management
function change its PN_CFG. A change of SIZE_LOG2 to a defined size while the pen is enabled leaves PN_CFG and sets
CFG_REFUSED. Any other write is a write of the register by its fields; where it leaves the pen enabled without a
size, or with rings outside its owner's pages, the pen is disabled and CFG_REFUSED set; then the hurdle state of
the pen and the levels of the hurdle outputs it was and is routed to are evaluated. A hurdle input that takes a new
level reads it and sets the bit of its edge alone; one that keeps its level changes nothing. -/
def Obligations.PenConfiguration : Prop :=
  ∀ (fn p k : Nat) (level : Bool) (w : Word) (s : State),
    let size := bitsOf w 4 0
    let was := s.rd (PN_CFG_SIZE_LOG2 p)
    let u := State.putWord fn (PN_CFG p) w s
    let lacksRings := u.rd (PN_CFG_ENABLE p) = 1 ∧ (u.rd (PN_CFG_SIZE_LOG2 p) = 0 ∨ u.ringsOk p (u.rd (PN_CFG_SIZE_LOG2 p)) = false)
    let defined := size = 0 ∨ (4 ≤ size ∧ size ≤ 24)
    let finish := fun (v : State) => State.pinFollow ((State.penEval p (State.penWmEn p v)).rd (PN_CFG_HO_PIN p))
      (State.pinFollow (s.rd (PN_CFG_HO_PIN p)) (State.penEval p (State.penWmEn p v)))
    (fn ≠ 0 ∧ s.owner p ≠ fn → exec (.penCfgWrite fn p w) s = .next s) ∧
    ((fn = 0 ∨ s.owner p = fn) ∧ s.rd (PN_CFG_ENABLE p) = 1 ∧ defined ∧ size ≠ was →
      exec (.penCfgWrite fn p w) s = .next (s.wr (PN_STATUS_CFG_REFUSED p) 1)) ∧
    ((fn = 0 ∨ s.owner p = fn) ∧ ¬ (s.rd (PN_CFG_ENABLE p) = 1 ∧ defined ∧ size ≠ was) ∧ lacksRings →
      exec (.penCfgWrite fn p w) s = .next (finish ((u.wr (PN_CFG_ENABLE p) 0).wr (PN_STATUS_CFG_REFUSED p) 1))) ∧
    ((fn = 0 ∨ s.owner p = fn) ∧ ¬ (s.rd (PN_CFG_ENABLE p) = 1 ∧ defined ∧ size ≠ was) ∧ ¬ lacksRings →
      exec (.penCfgWrite fn p w) s = .next (finish u)) ∧
    (s.rd ⟨HU_IN, k, k⟩ = (if level then 1 else 0) → exec (.hurdleInputChange k level) s = .next s) ∧
    (s.rd ⟨HU_IN, k, k⟩ ≠ (if level then 1 else 0) → exec (.hurdleInputChange k level) s
      = .next ((s.wr ⟨HU_IN, k, k⟩ (if level then 1 else 0)).wr (if level then ⟨HU_IN, 24 + k, 24 + k⟩ else ⟨HU_IN, 16 + k, 16 + k⟩) 1))

/-- Software pops (R275, R276, R290). A pop by another function than the owner, of no words, or on a disabled pen
changes nothing. One of more words than the pen holds, or while a pop is under way, sets POP_REFUSED alone; one
whose EXPECT pointer, being checked, is not RD sets STALE alone; any other is under way with BUSY set. On
completion RD passes the words, EXPECT takes the new RD, BUSY falls and the hurdle is evaluated; with no pop under
way a completion changes nothing. -/
def Obligations.PenPops : Prop :=
  ∀ (fn p count : Nat) (s : State),
    let mine := fn = 0 ∨ s.owner p = fn
    let runs := mine ∧ 0 < count ∧ s.rd (PN_CFG_ENABLE p) ≠ 0
    let refused := count > s.rd (PN_LEVEL_VALUE p) ∨ s.rd (PN_STATUS_BUSY p) = 1
    let stale := s.rd (PN_EXPECT_CHECK p) = 1 ∧ s.rd (PN_EXPECT_POINTER p) ≠ s.rd (PN_RD_VALUE p)
    (¬ runs → exec (.penPop fn p count) s = .next s) ∧
    (runs ∧ refused → exec (.penPop fn p count) s = .next (s.wr (PN_STATUS_POP_REFUSED p) 1)) ∧
    (runs ∧ ¬ refused ∧ stale → exec (.penPop fn p count) s = .next (s.wr (PN_STATUS_STALE p) 1)) ∧
    (runs ∧ ¬ refused ∧ ¬ stale →
      exec (.penPop fn p count) s = .next ((s.setPenPops p count).wr (PN_STATUS_BUSY p) 1)) ∧
    (s.penPops p = 0 → exec (.penPopComplete p) s = .next s) ∧
    (s.penPops p ≠ 0 →
      let u := (s.setPenPops p 0).inFab (penTake p (min (s.penPops p) (s.rd (PN_LEVEL_VALUE p))))
      exec (.penPopComplete p) s
        = .next (State.penEval p ((u.wr (PN_EXPECT_POINTER p) (u.rd (PN_RD_VALUE p))).wr (PN_STATUS_BUSY p) 0)))

/-- Host pushes, DROP and CLEAR (R277, R279, R280, R290, R317). Only a pen's owner and the management function
command it. A host push of more words than a pen under backpressure has room for is refused whole; any other pushes
the words the host has left in the rings, in order, each with its side byte. DROP on a pen that is empty and not in
mid-packet drops nothing; else the packet at RD is taken, counted DROPPED, and where its end has not come DROPPING
is set. CLEAR ends a pop, takes every word and leaves neither packets, MIDPKT nor DROPPING. After each, a channel
whose packet was cut ends its entry. -/
def Obligations.PenPushDropClear : Prop :=
  ∀ (fn p count : Nat) (s : State),
    (fn ≠ 0 ∧ s.owner p ≠ fn → exec (.penHostPush fn p count) s = .next s ∧ exec (.penDrop fn p) s = .next s
      ∧ exec (.penClear fn p) s = .next s) ∧
    ((fn = 0 ∨ s.owner p = fn) →
      (s.rd (PN_CFG_ENABLE p) = 1 ∧ penHasRoom s.fab p count = false →
        exec (.penHostPush fn p count) s = .next (State.cutSettle p (s.inFab (penRefuse p)))) ∧
      (s.rd (PN_CFG_ENABLE p) ≠ 1 ∨ penHasRoom s.fab p count = true →
        exec (.penHostPush fn p count) s = .next (State.cutSettle p (s.inFab fun b =>
          ((List.range count).map fun i => s.hostWord p (s.rd (PN_WR_VALUE p) + i)).foldl
            (fun b x => penPushWith s.owner s.now p (x.2.toNat ≥ 128) (State.landHost p x) b) b).settle)) ∧
      (s.rd (PN_LEVEL_VALUE p) = 0 ∧ s.rd (PN_STATUS_MIDPKT p) = 0 →
        exec (.penDrop fn p) s = .next (s.cutSettle p)) ∧
      (let len := penPacketLen s.fab p (s.rd (PN_RD_VALUE p)) (s.rd (PN_LEVEL_VALUE p))
       let u := s.inFab fun b => penTake p len.1 (penCut p 8 b)
       s.rd (PN_LEVEL_VALUE p) ≠ 0 ∨ s.rd (PN_STATUS_MIDPKT p) ≠ 0 →
        exec (.penDrop fn p) s = .next (State.cutSettle p (State.penEval p
          ((if len.2 then u else u.wr (PN_STATUS_DROPPING p) 1).tally (PN_LOST_PKT_TALLY_DROPPED p))))) ∧
      (let u := (s.setPenPops p 0).wr (PN_STATUS_BUSY p) 0
       let v := u.inFab fun b => penSetPtrs p (u.rd (PN_WR_VALUE p)) (u.rd (PN_WR_VALUE p)) (penCut p 8 b)
       exec (.penClear fn p) s = .next (State.cutSettle p (State.penEval p
        (((v.wr (PN_PACKETS_VALUE p) 0).wr (PN_STATUS_MIDPKT p) 0).wr (PN_STATUS_DROPPING p) 0)))))

/-- Starting, stopping and resetting a drover channel (R294, R295, R312, R313, R314, R315). A channel follows its
owner and the management function alone. A start writes CH_CTRL; one whose ENABLE is 0, whose KIND is reserved,
whose pen is not its owner's and enabled, or that finds the channel neither Idle, Done, Aborted nor Stopped by a
drain, sets REFUSED alone; another enters Ready with no stop cause and takes its list from its address where it
does not resume. Clearing ENABLE or a reset stops a busy channel at once; a reset leaves Idle with the counts and
the sticky bits zero. A force stop stops a busy channel that is draining, and no other. -/
def Obligations.ChannelCommands : Prop :=
  ∀ (fn c : Nat) (s : State),
    let d := c / 256
    let k := c % 256
    let u := State.putWord fn (CH_CTRL d k) 0x80000001#32 s
    let st := u.chState c
    let fresh := st = 0 ∨ st = 4 ∨ st = 5
    let refused := u.rd (CH_CTRL_ENABLE d k) = 0 ∨ u.chKind c = 3 ∨ u.penForChannel c = false
      ∨ ¬ (fresh ∨ (st = 6 ∧ u.rd (CH_STATUS_STOP_CAUSE d k) = 2))
    (fn ≠ 0 ∧ s.chOwner c ≠ fn → exec (.channelStart fn c true) s = .next s ∧ exec (.channelDisable fn c) s = .next s
      ∧ exec (.channelReset fn c) s = .next s) ∧
    (s.mayChannel fn c = true ∧ refused → exec (.channelStart fn c true) s = .next (u.wr (CH_STATUS_REFUSED d k) 1)) ∧
    (s.mayChannel fn c = true ∧ ¬ refused ∧ fresh → exec (.channelStart fn c true) s
      = .next (State.select d (State.setChState c 1 (State.wr (u.updChan c fun x =>
        { x with next := u.rdWide (CH_LIST_ADDR d k) 2, nextPd := u.rd (CH_CFG_LIST_SPACE d k) == 1, hops := 0 })
        (CH_STATUS_STOP_CAUSE d k) 0)))) ∧
    (s.mayChannel fn c = true ∧ ¬ refused ∧ ¬ fresh → exec (.channelStart fn c true) s
      = .next (State.select d (State.setChState c 1 (u.wr (CH_STATUS_STOP_CAUSE d k) 0)))) ∧
    (let v := State.putWord fn (CH_CTRL d k) 0#32 s
     s.mayChannel fn c = true → exec (.channelDisable fn c) s = .next (if v.chBusy c then State.stopNow c 1 v else v)) ∧
    (let v := State.putWord fn (CH_CTRL d k) 0x40000001#32 s
     s.mayChannel fn c = true ∧ s.rd (CH_CTRL_ENABLE d k) = 1 →
      exec (.channelReset fn c) s = .next (State.chReset c v)) ∧
    ((s.chan c).drain = true ∧ s.chBusy c = true → exec (.powerdownForceStop c) s = .next (State.stopNow c 3 s)) ∧
    (¬ ((s.chan c).drain = true ∧ s.chBusy c = true) → exec (.powerdownForceStop c) s = .next s)

/-- Fetching entries, moving data, and completing (R293, R298, R299, R303, R308, R310, R311). The channel a drover
serves fetches its next entry from the paddock at once, with CH_CUR naming it, or reads 16 bytes of the host for
it; a channel with an entry, a fetch under way or the throttle against it fetches none. An entry whose transfer has
ended is written back with its status; one still under way is not. A read completion with a tag that is not awaited
changes nothing; one that was timed out counts LATE; the bytes of an awaited list read become the entry, and an
error on it aborts the channel with status 2, a timeout with status 3. Returned write credits are taken off those
outstanding. After each the drover moves all it can. -/
def Obligations.DroverWork : Prop :=
  ∀ (d n tag : Nat) (err : Bool) (data : List Byte) (s : State),
    ((s.drover d).serving = none → exec (.listEntryFetch d) s = .next (State.pump d s)) ∧
    (∀ c, (s.drover d).serving = some c →
      let x := s.chan c
      let u := (s.wrWide (CH_CUR d (c % 256)) 2 x.next).updChan c fun y => { y with curPd := x.nextPd }
      let may := u.spanOk (s.chOwner c) x.next 16 false = true ∧ u.spanOk (s.chOwner c) x.next 16 true = true
      let free := x.entry = none ∧ s.fetching c = false ∧ s.chThrottled c = false ∧ (s.drover d).reads.length < 256
      (¬ free → exec (.listEntryFetch d) s = .next (State.pump d s)) ∧
      (free ∧ x.nextPd = false → exec (.listEntryFetch d) s = .next (State.pump d (State.issueRead c true 0 x.next 16 u))) ∧
      (free ∧ x.nextPd = true ∧ may →
        exec (.listEntryFetch d) s = .next (State.pump d (State.takeEntry c (u.fab.bytes x.next 16) u))) ∧
      (free ∧ x.nextPd = true ∧ ¬ may → exec (.listEntryFetch d) s = .next (State.pump d (State.fetchFail c 4 u)))) ∧
    (let v := State.moves d s
     (∀ c e, (v.drover d).serving = some c ∧ (v.chan c).entry = some e ∧ v.entryDone c e = true →
      exec (.entryComplete d) s = .next (State.showState d (State.finishEntry c e (v.entryStatus c e) v))) ∧
     (∀ c e, (v.drover d).serving = some c ∧ (v.chan c).entry = some e ∧ v.entryDone c e = false →
      exec (.entryComplete d) s = .next (State.showState d v))) ∧
    ((s.drover d).reads.find? (fun r => r.tag == tag) = none → exec (.readCompletion d tag err data) s = .next s) ∧
    (∀ r : ReadTag, (s.drover d).reads.find? (fun r => r.tag == tag) = some r →
      let c := 256 * d + r.ch
      let u := s.updDrover d fun x => { x with reads := x.reads.filter fun y => y.tag != tag }
      (r.state = 1 → exec (.readCompletion d tag err data) s = .next (State.showState d (u.tally (DV_LATE_TALLY_COUNT d)))) ∧
      (r.state = 2 ∧ (err = true ∨ data.length = r.len) → exec (.readCompletion d tag err data) s = .next (State.showState d u)) ∧
      (r.state = 0 ∧ r.list = true ∧ err = true →
        exec (.readCompletion d tag err data) s = .next (State.showState d (State.fetchFail c 2 u))) ∧
      (r.state = 0 ∧ r.list = true ∧ err = false ∧ data.length = r.len →
        exec (.readCompletion d tag err data) s = .next (State.showState d (State.takeEntry c data u)))) ∧
    ((s.drover d).reads.find? (fun r => r.tag == tag && r.state == 0) = none →
      exec (.completionTimeout d false tag) s = .next s) ∧
    (∀ r : ReadTag, (s.drover d).reads.find? (fun r => r.tag == tag && r.state == 0) = some r →
      let u := s.updDrover d fun x => { x with reads := x.reads.map fun y => if y.tag = tag then { y with state := 1 } else y }
      (r.list = true → exec (.completionTimeout d false tag) s
        = .next (State.showState d (State.fetchFail (256 * d + r.ch) 3 u))) ∧
      (r.list = false → exec (.completionTimeout d false tag) s
        = .next (State.showState d (State.moves d (State.failEntry (256 * d + r.ch) 3 u))))) ∧
    exec (.writeCreditReturn d n) s = .next (State.pump d (s.updDrover d fun x => { x with posted := x.posted - n }))

/-- Reads and writes of the paddock through BAR4, and the frame index (R249, R250, R271). A read of at most 4,096
bytes within the aperture answers each byte that the function may read as it stands and zero for every other, and
changes nothing else. A write of at most 512 bytes puts each enabled byte the function may write, leaves every
other byte as it was, counts once where an enabled byte was ignored, and changes no register but that tally. A find
of a frame of a stream that the function may see, for a record not overwritten, answers FOUND with its slot; any
other answers not found with slot 0; BUSY falls. -/
def Obligations.PaddockAccess : Prop :=
  ∀ (fn addr len : Nat) (data : List (Option Byte)) (s : State),
    (len ≤ 4096 ∧ addr + len ≤ 0x2000000000 → ∃ l : List Byte, l.length = len
      ∧ exec (.bar4Read fn addr len) s = .next (s.emit (.bar4Reply fn l))
      ∧ ∀ i, i < len → l[i]? = some (if s.bar4Reads fn (addr + i) then s.fab.byte (addr + i) else 0)) ∧
    (data.length ≤ 512 ∧ addr + data.length ≤ 0x2000000000 → ∃ t, exec (.bar4Write fn addr data) s = .next t
      ∧ (∀ a, t.fab.byte a = match data[a - addr]? with
          | some (some b) => if addr ≤ a ∧ s.bar4Writes fn a = true then b else s.fab.byte a
          | _ => s.fab.byte a)
      ∧ ((∀ i, ∀ b : Byte, data[i]? = some (some b) → s.bar4Writes fn (addr + i) = true) → t.fab.regs = s.fab.regs)
      ∧ (∀ i, ∀ b : Byte, data[i]? = some (some b) ∧ s.bar4Writes fn (addr + i) = false →
          t.fab.regs = (s.tally PD_BAR4_REFUSED_TALLY_COUNT).fab.regs)
      ∧ t.fab.out = s.fab.out ∧ t.tb = s.tb ∧ t.pending = s.pending) ∧
    (let st := s.rd (PD_FIND_CTRL_STREAM fn)
     let hit := if fn = 0 ∨ s.streamOwner st = fn then s.findFrame st (s.rdWide (PD_FIND_FRAME fn) 2) else none
     exec (.frameFind fn) s = .next (((s.wr (PD_FIND_RESULT_BUSY fn) 0).wr (PD_FIND_RESULT_FOUND fn)
      (if hit.isSome then 1 else 0)).wr (PD_FIND_RESULT_SLOT fn) ((hit.map (·.slot)).getD 0)))

/-- Completion of a record (R20, R256, R257, R445). A record that is closed and whose exposure midpoint the tag
history covers takes its tags and STATE 3, is written to its slot, is weighed for its stream's window, is offered,
and waits in the flows that push its stream; the first record after a reset is milestone 6 with its event. At the
end of the eighth tick after exposure end it does so with TAG_LATE one higher. A slot without a record, or whose
record is not in STATE 2, or not yet covered, is left as it is. -/
def Obligations.RecordsComplete : Prop :=
  ∀ (slot : Nat) (s : State),
    (s.record slot = none → exec (.recordComplete slot) s = .next s ∧ exec (.recordTagTimeout slot) s = .next s) ∧
    (∀ r, s.record slot = some r →
      (r.state ≠ 2 → exec (.recordComplete slot) s = .next s ∧ exec (.recordTagTimeout slot) s = .next s) ∧
      (s.tagsCover r.mid = false → exec (.recordComplete slot) s = .next s) ∧
      (∀ late : Bool, r.state = 2 →
        let f := State.fillTags { r with state := 3, tagLate := r.tagLate + (if late then 1 else 0) } s
        let v := State.winRecord r.stream slot (State.putRecord f.1 f.2)
        let w := match v.record slot with
          | some r => State.flowReady r (State.offer r v)
          | none => v
        let t := if w.firstRecord then w else (State.milestone { w with firstRecord := true } 6).raise 915 r.stream
        (late = false ∧ s.tagsCover r.mid = true → exec (.recordComplete slot) s = .next t)
        ∧ (late = true → exec (.recordTagTimeout slot) s = .next t)))

/-- Arming, freezing and disarming a group (R252, R258, R259, R261, R262, R269, R271). A group follows its owner
and the management function. ARM takes a Disarmed group to Armed and does nothing in another state; DISARM takes an
Armed group to Disarmed, clips the open windows of one in Post, and does nothing else. A request whose cause the
group was armed for is applied; one to a group that is not Armed, or dated before its arming, counts LOST and sets
REFUSED with its event; within an activation it is held. A software freeze is dated now, or by SW_TIME, which must
not lie ahead. A grace that ends closes an open window of a member in Post as clipped. A burst stream whose region
is not held starts a new fill. -/
def Obligations.FreezeCommands : Prop :=
  ∀ (fn g st cause t : Nat) (s : State),
    (s.mayGroup fn g = false → exec (.fgArm fn g) s = .next s ∧ exec (.fgDisarm fn g) s = .next s
      ∧ exec (.fgFreeze fn g) s = .next s) ∧
    (s.mayGroup fn g = true →
      (s.fgState g = 0 → exec (.fgArm fn g) s = .next (State.enterArmed g s)) ∧
      (s.fgState g ≠ 0 → exec (.fgArm fn g) s = .next s) ∧
      (s.fgState g = 1 → exec (.fgDisarm fn g) s = .next ((s.wr (PD_FG_STATUS_STATE g) 0).raise (584 + 4 * g) 0)) ∧
      (s.fgState g = 2 → exec (.fgDisarm fn g) s = .next (State.clipOpen g s)) ∧
      (s.fgState g = 0 ∨ s.fgState g = 3 → exec (.fgDisarm fn g) s = .next s) ∧
      (s.quiesced = false ∧ s.rd (PD_FG_CFG_USE_TIME g) = 0 →
        exec (.fgFreeze fn g) s = exec (.freezeRequest g 6 s.now) s) ∧
      (s.quiesced = false ∧ s.rd (PD_FG_CFG_USE_TIME g) = 1 ∧ s.rdTime (PD_FG_SW_TIME g) ≤ s.now →
        exec (.fgFreeze fn g) s = exec (.freezeRequest g 6 (s.rdTime (PD_FG_SW_TIME g))) s) ∧
      (s.quiesced = false ∧ s.rd (PD_FG_CFG_USE_TIME g) = 1 ∧ s.now < s.rdTime (PD_FG_SW_TIME g) →
        exec (.fgFreeze fn g) s = .next (((s.tally (PD_FG_LOST_TALLY_COUNT g)).wr (PD_FG_STATUS_REFUSED g) 1).raise
          (584 + 4 * g + 2) 0))) ∧
    (s.quiesced = true → exec (.freezeRequest g cause t) s
      = .next { s with struct := { s.struct with heldFreezes := s.struct.heldFreezes ++ [⟨g, t, cause⟩] } }) ∧
    (s.quiesced = false ∧ s.fgState g = 1 ∧ (s.group g).armedAt ≤ t →
      exec (.freezeRequest g cause t) s = .next (State.fgApply g t cause s)) ∧
    (s.quiesced = false ∧ (s.fgState g ≠ 1 ∨ t < (s.group g).armedAt) → exec (.freezeRequest g cause t) s
      = .next (((s.tally (PD_FG_LOST_TALLY_COUNT g)).wr (PD_FG_STATUS_REFUSED g) 1).raise (584 + 4 * g + 2) 0)) ∧
    (s.fgState g = 2 ∧ s.isMember g st = true ∧ (s.win g (s.fgRegion g) st).closed = false →
      exec (.windowGraceExpire g st) s = .next (State.frozenCheck g (State.closeWin g st true true s))) ∧
    (s.fgState g ≠ 2 ∨ s.isMember g st = false ∨ (s.win g (s.fgRegion g) st).closed = true →
      exec (.windowGraceExpire g st) s = .next s) ∧
    (let r := s.activeRegion st
     (fn = 0 ∨ s.streamOwner st = fn) ∧ s.rd (PD_ST_CTRL_MODE st) = 2
        ∧ (∀ g, s.groupOf st = some g → s.rd (State.heldRef g r) = 0) →
      exec (.burstRearm fn st) s = .next ((State.wr (((s.frames st).filter fun v => v.region == r).foldl
        (fun s v => State.markOver v s) s) (PD_ST_CTRL_BURST_DONE st) 0).wr (PD_ST_WRITE_OFFSET st) 0))

/-- REARM and RELEASE of a frozen group (R258, R264, R271). REARM of a group that is not Frozen, or whose members
are still switching, changes nothing. In a Frozen group whose other region is held, or of which a member has no
usable region B, it sets REARM_REFUSED with its event. Otherwise the group's region becomes the other, whose
windows are emptied, and each member whose port is not up switches at once, the rest at their next frame. RELEASE
clears the hold of a region with the held flags of its frames; the group arms where the hold was of its current
region and it was Frozen. -/
def Obligations.FreezeHolds : Prop :=
  ∀ (fn g r : Nat) (s : State),
    (s.mayGroup fn g = false → exec (.fgRearm fn g) s = .next s ∧ exec (.fgRelease fn g r) s = .next s) ∧
    (s.mayGroup fn g = true →
      let o := 1 - s.fgRegion g
      let ms := s.members g
      let refuse := s.rd (State.heldRef g o) = 1 ∨ ms.all s.regionBOk = false
      let u := (s.wr (PD_FG_STATUS_REGION g) o).updGroup g fun x =>
        { x with switch := ms, winA := if o = 0 then [] else x.winA, winB := if o = 0 then x.winB else [] }
      (s.fgState g ≠ 3 ∨ (s.group g).switch ≠ [] → exec (.fgRearm fn g) s = .next s) ∧
      (s.fgState g = 3 ∧ (s.group g).switch = [] ∧ refuse →
        exec (.fgRearm fn g) s = .next ((s.wr (PD_FG_STATUS_REARM_REFUSED g) 1).raise (584 + 4 * g + 3) 0)) ∧
      (s.fgState g = 3 ∧ (s.group g).switch = [] ∧ ¬ refuse ∧ ms = [] →
        exec (.fgRearm fn g) s = .next (State.enterArmed g u)) ∧
      (s.fgState g = 3 ∧ (s.group g).switch = [] ∧ ¬ refuse ∧ ms ≠ [] →
        exec (.fgRearm fn g) s
          = .next (ms.foldl (fun s st => if s.portUp (State.portOf st) then s else State.memberSwitch g st s) u)) ∧
      (let v := s.records.foldl (fun (s : State) e => match e.2 with
          | some x => if x.held && x.group == g && x.region == r then State.unholdSlot false e.1 s else s
          | none => s) s
       let w := (v.updGroup g fun x => if r = 0 then { x with winA := [] } else { x with winB := [] }).wr (State.heldRef g r) 0
       exec (.fgRelease fn g r) s
        = .next (if s.rd (State.heldRef g r) = 1 ∧ w.fgState g = 3 ∧ r = w.fgRegion g then State.enterArmed g w else w)))

/-- The end of the recovery scan (R266, R267, R268, R500). Where no scan runs and no function-level reset waits, a
completion changes nothing. Where one runs, the scan state becomes 2, self-refresh is over, the duration and rate
are those given; the slots in use are read, those with a valid record count as records and those not kept as bad;
the index holds what was kept, the next slot and sequence number follow the latest, each stream goes on after its
records, a full scan restores the groups from their summaries; and where it ends a warm reset, BUSY and the phase
fall, the cause is 4, AFTER_TRIP is clear, and EV899 is raised. The function-level resets that waited are then
applied. -/
def Obligations.RecoveryScan : Prop :=
  ∀ (us rate : Nat) (s : State),
    (s.rd PD_STATUS_SCAN ≠ 1 ∧ s.flrDue = [] → exec (.recoveryScanComplete us rate) s = .next s) ∧
    (s.rd PD_STATUS_SCAN = 1 →
      let read := (usedSlots s.fab.mem).map fun i => (i, s.paddockBytes (256 * i) 256)
      let valid := (read.filter fun e => recValid e.2).map fun e => parseRec e.1 e.2 (s.record e.1)
      let kept := keepLatest valid
      let a := ((((((s.wr PD_STATUS_SCAN 2).wr PD_STATUS_SELF_REFRESH 0).wr GLB_PWR_STATUS_PADDOCK_SR 0).wr
        PD_SCAN_RECORDS_VALUE valid.length).wr PD_SCAN_BAD_VALUE (read.length - kept.length)).wr PD_SCAN_TIME_VALUE us).wr
        PD_SCAN_RATE_VALUE rate
      let b := kept.foldl (fun (s : State) r => State.finishRecord r s) { a with records := [] }
      let c := match State.latestRec kept with
        | some r => (b.wr PD_RECORD_NEXT_VALUE ((r.slot + 1) % recordSlots)).wr PD_RECORD_SEQ_VALUE (r.seq + 1)
        | none => b
      let d := (List.range 97).foldl (State.resumeStream kept) c
      let e := if d.scanFull then (List.range 16).foldl (fun (s : State) g => State.restoreGroup g 1 (State.restoreGroup g 0 s)) d else d
      let f : State := { e with scanFull := false }
      let g := if f.rd GLB_RESET_BUSY = 1 then
          ((((f.wr GLB_RESET_BUSY 0).wr GLB_RESET_PHASE 0).wr GLB_RESET_CAUSE_LAST 4).wr GLB_RESET_CAUSE_AFTER_TRIP 0).raise 899 0
        else f
      exec (.recoveryScanComplete us rate) s = .next (if g.scopeWaits then g else g.flrDueNow))

/-- Units become ready, start, and complete (R186, R200, R204, R205, R208, R280). The next unit of the first frame
a stream's context has one for becomes ready, after those ready before; where the context was already behind, LATE
is set and counted in context and fold, with the fold's event. A fold that cannot take a unit, or has none to take,
starts none; one that can takes the scheduler's choice, skipping units of lost frames. A unit in progress is
computed once, its words are pushed until a full pen stalls the fold, and with none left it completes: its pixels
count as served, and its frame leaves with its last unit. -/
def Obligations.UnitsOfFrames : Prop :=
  ∀ (st f : Nat) (s : State),
    (s.homeOf st = none → exec (.unitReady st) s = .next s) ∧
    (∀ h j y n last, s.homeOf st = some h ∧ (s.ctx (State.ctxKey h)).jobs.find? (fun j => (s.nextUnit j).isSome) = some j
        ∧ s.nextUnit j = some (y, n, last) →
      let u := State.mapJobs (State.ctxKey h) (fun i => i.slot == j.slot && i.seq == j.seq)
        (fun i => { i with ready := i.ready ++ [(y, n)], readyTo := y + n, lastReady := last }) s
      exec (.unitReady st) s = .next (if s.backlog (State.ctxKey h) then
        ((((u.wr (FXC_STATUS_LATE h.1 h.2) 1).tally (FXC_LATE_TALLY_COUNT h.1 h.2)).tally
          (FX_LATE_TALLY_COUNT j.fold)).raise (328 + 8 * j.fold + 2) 0) else u)) ∧
    (s.foldFree f = false ∨ s.pickUnit f = none → exec (.foldUnitStart f) s = .next s) ∧
    (∀ h j y l rest, s.foldFree f = true ∧ s.pickUnit f = some (h, j) ∧ s.jobIntact j = true ∧ j.ready = (y, l) :: rest →
      let u := State.mapJobs (State.ctxKey h) (fun i => i.slot == j.slot && i.seq == j.seq) (fun i => { i with ready := rest }) s
      exec (.foldUnitStart f) s = .next (u.setFold f { u.fold f with unit := some (State.ctxKey h, j.slot, y, l), computed := false })) ∧
    (let a := match (s.fold f).unit with
      | some u => if (s.fold f).computed then s else State.computeUnit f u s
      | none => s
     let b := State.pushOut f ((a.fold f).out.length + 1) a
     ((b.fold f).out ≠ [] ∨ (b.fold f).unit = none → exec (.foldUnitComplete f) s = .next b) ∧
     (∀ u, (b.fold f).out = [] ∧ (b.fold f).unit = some u →
      let h := (u.1 / 256, u.1 % 256)
      let v := b.setFold f {}
      (∀ j, (v.ctx u.1).jobs.find? (fun j => j.slot == u.2.1 && j.fold == f) = some j →
        let w := v.updCtx u.1 fun x => { x with served := x.served + ((v.jobRecord j).map (·.width)).getD 0 * u.2.2.2 }
        exec (.foldUnitComplete f) s
          = .next (if j.lastReady ∧ j.ready = [] then State.frameDone h j w else State.lateOff h w))))

/-- Context commits, the fold's switches, throttle and reset (R21, R25, R206, R207, R208, R210, R213). A commit
request by another function than the owner of the context's stream changes nothing; otherwise REJECT takes the code
of the bank's check, 10 for a context without a stream, and PENDING is set only where it is 0, with the fold's
event where it is not. A cancel clears PENDING. A control-side commit that has run publishes its generation as DONE
with the fold's event, and one that has not run changes nothing. A new throttle step is shown with the fold's
capacity and its event; the step it stands at changes nothing. A rebalance weighs every fold in order, and the fold
block reset ends the unit in progress and the fold's frames. -/
def Obligations.ContextCommands : Prop :=
  ∀ (fn f c st k : Nat) (s : State),
    let x := s.rd (FXC_STATUS_STREAM f c)
    let bk := bankAt s.fab f c 0
    let bad := State.bankCheck bk (s.rd (ST_FORMAT_VALUE (State.portOf x) (x % 4))) (s.streamWidth x) (s.streamHeight x)
      fun p => s.owner p == s.streamOwner x
    (s.mayContext fn f c = false → exec (.contextCommitReq fn f c) s = .next s ∧ exec (.contextCommitCancel fn f c) s = .next s) ∧
    (s.mayContext fn f c = true ∧ x = 127 → exec (.contextCommitReq fn f c) s
      = .next ((s.wr (FXC_COMMIT_REJECT f c) 10).raise (328 + 8 * f + 1) 0)) ∧
    (s.mayContext fn f c = true ∧ x ≠ 127 ∧ bad ≠ 0 → exec (.contextCommitReq fn f c) s
      = .next ((s.wr (FXC_COMMIT_REJECT f c) bad).raise (328 + 8 * f + 1) 0)) ∧
    (s.mayContext fn f c = true ∧ x ≠ 127 ∧ bad = 0 ∧ bk.coder = true ∧ s.rd GLB_PWR_STATUS_CODERS = 0 →
      exec (.contextCommitReq fn f c) s = .next ((s.wr (FXC_COMMIT_REJECT f c) 14).raise (328 + 8 * f + 1) 0)) ∧
    (s.mayContext fn f c = true ∧ x ≠ 127 ∧ bad = 0 ∧ (bk.coder = false ∨ s.rd GLB_PWR_STATUS_CODERS ≠ 0) →
      exec (.contextCommitReq fn f c) s = .next ((s.wr (FXC_COMMIT_REJECT f c) 0).wr (FXC_COMMIT_PENDING f c) 1)) ∧
    (s.mayContext fn f c = true → exec (.contextCommitCancel fn f c) s = .next (s.wr (FXC_COMMIT_PENDING f c) 0)) ∧
    (s.homeOf st = none → exec (.controlShadowCommit st) s = .next s) ∧
    (∀ h gen r, s.homeOf st = some h ∧ (s.ctx (State.ctxKey h)).publish = (gen, true) :: r →
      exec (.controlShadowCommit st) s = .next (((State.wr (s.updCtx (State.ctxKey h) fun x => { x with publish := r })
        (FXC_GEN_VALUE h.1 h.2) gen).wr ⟨FX_COMMIT_DONE h.1 (h.2 / 32), h.2 % 32, h.2 % 32⟩ 1).raise (328 + 8 * h.1) 0)) ∧
    (s.rd (FX_STATUS_THROTTLE f) = k → exec (.throttleStepChange f k) s = .next s) ∧
    (s.rd (FX_STATUS_THROTTLE f) ≠ k →
      let u := s.wr (FX_STATUS_THROTTLE f) k
      exec (.throttleStepChange f k) s = .next ((u.wr (FX_CAPACITY_VALUE f) (u.foldCapacity f)).raise (328 + 8 * f + 4) 0)) ∧
    exec .schedulerRebalance s = .next ([0, 1, 2, 3, 4, 5, 6, 7].foldl State.rebalanceFold s) ∧
    exec (.pixelFoldBlockReset f) s = .next (State.foldReset f s)

/-- An eye scan starts only on an Active lane with none under way (R95). A write of LN_SCAN_CTRL with START and
without ABORT, while a scan is under way, writes the register's fields and nothing else; while the lane is not
Active it leaves BUSY as it was, 0, with END 2 and the lane's event; on an Active lane with none under way the
counts are cleared and BUSY is set. -/
def Obligations.ScanStarts : Prop :=
  ∀ (n : Nat) (value : Word) (s : State), bitsOf (value ||| 0x80000000#32) 30 30 = 0 →
    let u := State.putWord 0 (LN_SCAN_CTRL n) (value ||| 0x80000000#32) s
    let v := ((u.wr (LN_SCAN_STAT_LOCK_LOST n) 0).wr (LN_SCAN_ERR_COUNT n) 0).wrWide (LN_SCAN_BITS n) 2 0
    (u.rd (LN_SCAN_STAT_BUSY n) = 1 → exec (.scanStart n value) s = .next u) ∧
    (u.rd (LN_SCAN_STAT_BUSY n) ≠ 1 ∧ v.lanePower n ≠ 3 →
      exec (.scanStart n value) s = .next ((v.wr (LN_SCAN_STAT_END n) 2).raise (4 * n + 3) 0)) ∧
    (u.rd (LN_SCAN_STAT_BUSY n) ≠ 1 ∧ v.lanePower n = 3 →
      exec (.scanStart n value) s = .next ((v.wr (LN_SCAN_STAT_BUSY n) 1).wr (LN_SCAN_STAT_END n) 0))

/-- Lane power requests, exits and block resets (R76, R97, R98, R99, R100, R101). A request of power state 0 is an
access error. During an exit the request waits; on a lane without power it is only recorded; a request for Active
starts an exit where the lane is not Active; another state is entered at once, and a lane that leaves Active loses
its locks. An exit that locks leaves the lane Active with CDR lock and no fault, one that reaches its bound leaves
it Active without the lock and FAULT 4; both raise the lane's event and then take the request that waited. Where no
exit is under way neither does anything. A coast that runs out clears CDR_LOCK alone. A lane block reset resets the
lane, and a port that uses it goes back to Listen. -/
def Obligations.LanePower : Prop :=
  ∀ (n req vstep phase latency : Nat) (s : State),
    let u := s.wr (LN_PWR_REQ n) req
    (exec (.lanePowerRequest n 0) s = .next (s.accErr 0)) ∧
    (req ≠ 0 ∧ u.rd (LN_PWR_EXIT_BUSY n) = 1 →
      exec (.lanePowerRequest n req) s = .next (u.updLane n fun l => { l with deferred := some req })) ∧
    (req ≠ 0 ∧ u.rd (LN_PWR_EXIT_BUSY n) ≠ 1 ∧ u.lanePower n = 0 → exec (.lanePowerRequest n req) s = .next u) ∧
    (let v := s.wr (LN_PWR_REQ n) 3
     v.rd (LN_PWR_EXIT_BUSY n) ≠ 1 ∧ v.lanePower n ≠ 0 →
      exec (.lanePowerRequest n 3) s = .next (if v.lanePower n = 3 then v else v.wr (LN_PWR_EXIT_BUSY n) 1)) ∧
    (req ≠ 0 ∧ req ≠ 3 ∧ u.rd (LN_PWR_EXIT_BUSY n) ≠ 1 ∧ u.lanePower n ≠ 0 →
      exec (.lanePowerRequest n req) s
        = .next ((if u.lanePower n = 3 then State.laneLeave n u else u).wr (FH_STATUS_POWER (LN_HDR n)) req)) ∧
    (s.rd (LN_PWR_EXIT_BUSY n) = 0 → exec (.laneExitComplete n vstep phase latency) s = .next s
      ∧ exec (.laneExitTimeout n) s = .next s) ∧
    (s.rd (LN_PWR_EXIT_BUSY n) ≠ 0 ∧ s.lanePower n ≠ 1 →
      let v := (s.wr (LN_PWR_EXIT_BUSY n) 0).wr (FH_STATUS_POWER (LN_HDR n)) 3
      exec (.laneExitComplete n vstep phase latency) s = .next (State.laneDeferred n (State.raise (State.adaptStart n
        ((((((v.wr (LN_STATUS_CDR_LOCK n) 1).wr (LN_STATUS_SIGNAL n) 1).wr (LN_STATUS_FREQ_OK n) 1).wr (LN_STATUS_PHASE n)
          phase).wr (LN_RX_LATENCY_LATENCY n) latency).wr (FH_STATUS_FAULT (LN_HDR n)) 0)) (4 * n + 2) 0)) ∧
      exec (.laneExitTimeout n) s = .next (State.laneDeferred n (State.raise (State.adaptStart n
        ((v.wr (LN_STATUS_CDR_LOCK n) 0).wr (FH_STATUS_FAULT (LN_HDR n)) 4)) (4 * n + 2) 0))) ∧
    exec (.cdrCoastTimeout n) s = .next (s.wr (LN_STATUS_CDR_LOCK n) 0) ∧
    (let v := State.laneReset n s
     v.lanePort n = none → exec (.laneBlockReset n) s = .next v) ∧
    (∀ P, let v := State.laneReset n s
     v.lanePort n = some P →
      (v.portState P = 0 ∨ v.portState P = 6 → exec (.laneBlockReset n) s = .next v) ∧
      (v.portState P = 5 ∧ (v.port P).lanes.contains n = true →
        exec (.laneBlockReset n) s = .next (State.listenAfresh P (State.leaveActive P 5 v))) ∧
      (v.portState P ≠ 0 ∧ v.portState P ≠ 6 ∧ v.portState P ≠ 5 →
        exec (.laneBlockReset n) s = .next (State.listen P v)))

/-- Density windows and the freezing of adaptation (R80, R81, R82). The end of a window shows its density, and
nothing else unless the lane is Active in adaptation mode 0. There, while not frozen, the equaliser takes its
values, and a density below THRESH freezes it and counts the freeze. While frozen the values stay; a low density
starts the count of windows again, another adds to it, and with RESUME windows in a row the freeze ends. The freeze
limit raises the lane's event once in a frozen interval, and nothing outside one. -/
def Obligations.LaneAdaptation : Prop :=
  ∀ (n density : Nat) (ctle dfe : Word) (s : State),
    let u := s.wr (LN_DENSITY_DENSITY n) density
    let low := density < u.rd (LN_ADAPT_THRESH n)
    let on := u.rd (LN_ADAPT_MODE n) = 0 ∧ u.lanePower n = 3
    let v := ((u.wr (LN_CTLE_GAIN n) (bitsOf ctle 9 8)).wr (LN_CTLE_PEAK n) (bitsOf ctle 3 0)).ww (LN_DFE n) dfe
    (¬ on → exec (.densityWindowEnd n density ctle dfe) s = .next u) ∧
    (on ∧ u.rd (LN_STATUS_ADAPT_FROZEN n) = 0 ∧ ¬ low → exec (.densityWindowEnd n density ctle dfe) s = .next v) ∧
    (on ∧ u.rd (LN_STATUS_ADAPT_FROZEN n) = 0 ∧ low → exec (.densityWindowEnd n density ctle dfe) s
      = .next (((v.wr (LN_STATUS_ADAPT_FROZEN n) 1).tally (LN_FREEZE_TALLY_COUNT n)).updLane n fun l =>
        { l with windows := 0, limitRaised := false })) ∧
    (on ∧ u.rd (LN_STATUS_ADAPT_FROZEN n) ≠ 0 ∧ low →
      exec (.densityWindowEnd n density ctle dfe) s = .next (u.updLane n fun l => { l with windows := 0 })) ∧
    (on ∧ u.rd (LN_STATUS_ADAPT_FROZEN n) ≠ 0 ∧ ¬ low ∧ u.rd (LN_ADAPT_RESUME n) ≤ (u.lane n).windows + 1 →
      exec (.densityWindowEnd n density ctle dfe) s
        = .next ((u.wr (LN_STATUS_ADAPT_FROZEN n) 0).updLane n fun l => { l with windows := 0, limitRaised := false })) ∧
    (on ∧ u.rd (LN_STATUS_ADAPT_FROZEN n) ≠ 0 ∧ ¬ low ∧ (u.lane n).windows + 1 < u.rd (LN_ADAPT_RESUME n) →
      exec (.densityWindowEnd n density ctle dfe) s
        = .next (u.updLane n fun l => { l with windows := (u.lane n).windows + 1 })) ∧
    (s.rd (LN_STATUS_ADAPT_FROZEN n) = 0 ∨ (s.lane n).limitRaised = true → exec (.freezeLimitExpire n) s = .next s) ∧
    (s.rd (LN_STATUS_ADAPT_FROZEN n) ≠ 0 ∧ (s.lane n).limitRaised = false → exec (.freezeLimitExpire n) s
      = .next ((s.updLane n fun l => { l with limitRaised := true }).raise (4 * n + 1) 0))

/-- Block lock, slips, the pattern checker, and the end of a scan (R89, R90, R91, R92, R93, R94). An invalid header
is counted while the lane is locked; before, without manual alignment, the boundary slips by one. Lock is acquired
by an Active lane that has none, with its latency and event; a loss of lock that the lane holds clears it, counts
it, marks a scan under way, and raises the event. A slip of 1 to 65 in manual mode is added to those pending, to 65
at most; outside it SLIP_IGNORED is set. The checker counts only where a pattern is checked. A scan that completes
writes its disagreements and bits with END 0; an abort ends one with END 1 and counts that are free values (log
entry 36); with none under way neither does anything. -/
def Obligations.LaneAlignment : Prop :=
  ∀ (n valid latency errors : Nat) (w : Word) (s : State),
    let u := s.wr (LN_ALIGN_STAT_VALID n) valid
    (u.rd (LN_STATUS_BLOCK_LOCK n) = 1 → exec (.invalidHeader n valid) s = .next (u.tally (LN_HDR_ERR_TALLY_COUNT n))) ∧
    (u.rd (LN_STATUS_BLOCK_LOCK n) ≠ 1 ∧ u.rd (LN_ALIGN_MANUAL n) = 1 → exec (.invalidHeader n valid) s = .next u) ∧
    (u.rd (LN_STATUS_BLOCK_LOCK n) ≠ 1 ∧ u.rd (LN_ALIGN_MANUAL n) ≠ 1 → exec (.invalidHeader n valid) s
      = .next (u.updLane n fun l => { l with boundary := (l.boundary + 1) % 66 })) ∧
    (s.lanePower n ≠ 3 ∨ s.rd (LN_STATUS_BLOCK_LOCK n) = 1 → exec (.blockLockAcquired n latency) s = .next s) ∧
    (s.lanePower n = 3 ∧ s.rd (LN_STATUS_BLOCK_LOCK n) ≠ 1 → exec (.blockLockAcquired n latency) s
      = .next (((s.wr (LN_STATUS_BLOCK_LOCK n) 1).wr (LN_RX_LATENCY_LATENCY n) latency).raise (4 * n) 0)) ∧
    (s.rd (LN_STATUS_BLOCK_LOCK n) = 0 → exec (.blockLockLost n) s = .next s) ∧
    (let v := s.wr (LN_STATUS_BLOCK_LOCK n) 0
     s.rd (LN_STATUS_BLOCK_LOCK n) ≠ 0 → exec (.blockLockLost n) s
      = .next ((State.raise (if v.rd (LN_SCAN_STAT_BUSY n) = 1 then v.wr (LN_SCAN_STAT_LOCK_LOST n) 1 else v) (4 * n) 0).tally
        (LN_LOCK_LOSS_TALLY_COUNT n))) ∧
    (let t := State.slipSettle n s
     let v := State.putWord 0 (LN_ALIGN n) w t
     let count := bitsOf w 14 8
     (v.rd (LN_ALIGN_MANUAL n) ≠ 0 ∧ (count = 0 ∨ 65 < count) → exec (.slipWrite n w) s = .next v) ∧
     (v.rd (LN_ALIGN_MANUAL n) ≠ 0 ∧ 1 ≤ count ∧ count ≤ 65 → exec (.slipWrite n w) s
      = .next (State.wr (v.setLane n { v.lane n with slips := min 65 ((v.lane n).slips + count) }) (LN_ALIGN_STAT_PENDING n)
        (min 65 ((v.lane n).slips + count)))) ∧
     (v.rd (LN_ALIGN_MANUAL n) = 0 ∧ t.rd (LN_ALIGN_MANUAL n) ≠ 1 ∧ 1 ≤ count ∧ count ≤ 65 →
      exec (.slipWrite n w) s = .next (v.wr (LN_ALIGN_SLIP_IGNORED n) 1))) ∧
    (s.rd (LN_PATTERN_RX_SEL n) = 0 → exec (.patternCheckerSync n errors) s = .next s) ∧
    (s.rd (LN_PATTERN_RX_SEL n) ≠ 0 → exec (.patternCheckerSync n errors) s
      = .next ((s.wr (LN_PATTERN_RX_SYNC n) 1).tally (LN_PAT_ERR_TALLY_COUNT n) errors)) ∧
    (s.rd (LN_SCAN_STAT_BUSY n) = 0 → exec (.scanComplete n errors) s = .next s ∧ exec (.scanAbort n) s = .next s) ∧
    (s.rd (LN_SCAN_STAT_BUSY n) ≠ 0 →
      exec (.scanComplete n errors) s = .next (State.scanEnd n 0 (State.wrWide (s.wr (LN_SCAN_ERR_COUNT n) (min errors 0xFFFFFFFF))
        (LN_SCAN_BITS n) 2 (2 ^ (20 + s.rd (LN_SCAN_CTRL_PRESCALE n)))))
      ∧ exec (.scanAbort n) s = .next (State.scanEnd n 1 ((State.wr { s with freeCounter := s.freeCounter + 2 } (LN_SCAN_ERR_COUNT n)
        (Config.scanPartial s.freeCounter).toNat).wrWide (LN_SCAN_BITS n) 2 (Config.scanPartial (s.freeCounter + 1)).toNat)))

/-- A port's way from Listen to Active (R105, R106, R107, R108, R109, R114, R116, R137). Each condition acts only
in its own state. A partner found in Listen leads to Train with the port's lanes; a candidate that times out leads
to the next one. Train's exit leads to Lock with the lanes that show a signal, where any does and, on Torvelink,
every one has asked its fill. Lock's exit leads to Exchange, once every lane is block locked and the order known,
where the skew is in bounds; above 128 ns the attempt fails. Exchange completes into Active with what was agreed,
or fails without a common capability. The order step of a bonded port sets the order the lanes' numbers give, or
fails. -/
def Obligations.BringUpAdvances : Prop :=
  ∀ (P skew named : Nat) (seen : List Nat) (caps : List (Nat × Nat)) (s : State),
    (s.portState P ≠ 1 → exec (.partnerDetect P seen) s = .next s ∧ exec (.listenCandidateTimeout P) s = .next s) ∧
    (s.portState P = 1 → ∃ t, exec (.partnerDetect P seen) s = .next t ∧ (t.port P).lanes = s.portLanes P
      ∧ (t.port P).terminated = seen.isEmpty ∧ t.tb = s.tb ∧ t.fab.mem = s.fab.mem ∧ t.fab.out = s.fab.out) ∧
    (∀ e, s.portState P = 1 ∧ s.portEntry P = some e →
      let k := ((s.port P).candidate + 1) % max 1 (candidates e).length
      exec (.listenCandidateTimeout P) s
        = .next (State.useCandidate P ((candidates e).getD k (0, 0)) (s.updPort P fun p => { p with candidate := k }))) ∧
    (s.portState P ≠ 2 → exec (.trainExit P seen) s = .next s) ∧
    (let p := s.port P
     let part := p.lanes.filter seen.contains
     let standard := if p.standard ≠ 0 then p.standard else if p.rate = 3 then 1 else if p.rate = 4 then 3 else 0
     let ready := standard ≠ 3 ∨ part.all (fun n => (s.lane n).farReady && (s.lane n).hold) = true
     (s.portState P = 2 ∧ part ≠ [] ∧ ready → exec (.trainExit P seen) s
      = .next ((State.nameStandard P standard (s.setPort P { p with lanes := part })).wr (PT_LINK_STATUS_STATE P) 3)) ∧
     (s.portState P = 2 ∧ ¬ (part ≠ [] ∧ ready) → exec (.trainExit P seen) s = .next s)) ∧
    (s.portState P ≠ 3 → exec (.lockExit P skew named) s = .next s ∧ exec (.orderStep P) s = .next s) ∧
    (∀ e, s.portEntry P = some e →
      let p := s.port P
      let locked := p.lanes.all (fun n => s.rd (LN_STATUS_BLOCK_LOCK n) != 0) = true ∧ (e.lanes = 16 → p.orderDone = true)
      let standard := if p.standard = 0 then named else p.standard
      let v := (State.nameStandard P standard s).wr (PT_LINK_STATUS_STATE P) 4
      (s.portState P = 3 ∧ ¬ locked → exec (.lockExit P skew named) s = .next s) ∧
      (s.portState P = 3 ∧ locked ∧ 2 ≤ standard ∧ 128000 < skew →
        exec (.lockExit P skew named) s = .next (State.attemptFail P 3 5 255 s)) ∧
      (s.portState P = 3 ∧ locked ∧ ¬ (2 ≤ standard ∧ 128000 < skew) ∧ standard ≠ 3 →
        exec (.lockExit P skew named) s = .next v) ∧
      (s.portState P = 3 ∧ locked ∧ skew ≤ 128000 ∧ standard = 3 → exec (.lockExit P skew named) s
        = .next ((v.updPort P fun p => { p with capStep := 1 }).emit (.portBlock P (capBlocks false (State.declaredSet e)))))) ∧
    (∀ e, s.portEntry P = some e →
      let p := s.port P
      let caps' := if p.standard = 3 then p.farCaps else caps
      (s.portState P ≠ 4 ∨ (p.standard = 3 ∧ p.capStep ≠ 8) → exec (.exchangeComplete P caps) s = .next s) ∧
      (s.portState P = 4 ∧ (p.standard ≠ 3 ∨ p.capStep = 8) ∧ s.agree P e caps' = none →
        exec (.exchangeComplete P caps) s = .next (State.attemptFail P 4 7 255 s)) ∧
      (∀ lanes streams, s.portState P = 4 ∧ (p.standard ≠ 3 ∨ p.capStep = 8) ∧ s.agree P e caps' = some (lanes, streams) →
        exec (.exchangeComplete P caps) s = .next (State.activate P lanes streams (s.declaredShapes P streams caps') s))) ∧
    (let p := s.port P
     (s.portState P = 3 ∧ p.lanes.length = 16
        ∧ p.lanes.any (fun n => (s.lane n).farInverted) = false
        ∧ (List.range 16).all (p.lanes.map fun n => (s.lane n).farNumber.getD 16).contains = true →
      exec (.orderStep P) s = .next (State.setPort ((s.wr (PT_POLARITY_INVERTED P) 0).wrWide (PT_ORDER P) 2
        (((p.lanes.map fun n => (s.lane n).farNumber.getD 16).zipIdx.map fun x => x.1 * 16 ^ x.2).sum)) P
        { p with orderDone := true })) ∧
     (s.portState P = 3 ∧ p.lanes.length ≠ 16 → exec (.orderStep P) s = .next s))

/-- Failed attempts, loss, Rest, and the ways back to Listen (R111, R112, R113, R114, R115, R123). A limit that
expires outside its state changes nothing; in it the attempt fails with the stage, cause and lane of R115, unless
LISTEN_HOLD keeps a port in Listen. A partner lost while Active truncates the port's frames, counts PT_DOWN, notes
the failure and listens afresh with ATTEMPT 0. A poll in Rest shows which lanes have a signal, and any leads to
Listen. A retrain of a port that is Off does nothing, of one in Rest or Active listens afresh, of another returns
to Listen with ATTEMPT unchanged. A port block reset resets the entry's lanes and listens afresh. -/
def Obligations.BringUpFails : Prop :=
  ∀ (P lane : Nat) (seen : List Nat) (s : State),
    (s.portState P ≠ 1 ∨ s.rd (PT_LINK_CTRL_LISTEN_HOLD P) = 1 → exec (.listenLimitExpire P) s = .next s) ∧
    (s.portState P = 1 ∧ s.rd (PT_LINK_CTRL_LISTEN_HOLD P) ≠ 1 →
      exec (.listenLimitExpire P) s = .next (State.attemptFail P 1 1 255 s)) ∧
    (s.portState P ≠ 2 → exec (.trainLimitExpire P) s = .next s) ∧
    (let bad := (s.portLanes P).find? fun n => s.rd (FH_STATUS_FAULT (LN_HDR n)) == 4
     let taps := (s.port P).standard = 3 ∧ (s.port P).lanes.any (fun n => !((s.lane n).farReady && (s.lane n).hold)) = true
     (∀ n, s.portState P = 2 ∧ bad = some n → exec (.trainLimitExpire P) s = .next (State.attemptFail P 2 0x0A n s)) ∧
     (s.portState P = 2 ∧ bad = none ∧ taps → exec (.trainLimitExpire P) s = .next (State.attemptFail P 2 2 255 s)) ∧
     (s.portState P = 2 ∧ bad = none ∧ ¬ taps → exec (.trainLimitExpire P) s = .next (State.attemptFail P 2 3 255 s))) ∧
    (s.portState P ≠ 3 → exec (.lockLimitExpire P) s = .next s) ∧
    (let open_ := (s.port P).lanes.find? fun n => s.rd (LN_STATUS_BLOCK_LOCK n) == 0
     let unordered := (s.portLanes P).length = 16 ∧ (s.port P).orderDone = false
     (∀ n, s.portState P = 3 ∧ open_ = some n → exec (.lockLimitExpire P) s = .next (State.attemptFail P 3 4 n s)) ∧
     (s.portState P = 3 ∧ open_ = none ∧ unordered → exec (.lockLimitExpire P) s = .next (State.attemptFail P 3 6 255 s)) ∧
     (s.portState P = 3 ∧ open_ = none ∧ ¬ unordered → exec (.lockLimitExpire P) s = .next (State.attemptFail P 3 5 255 s))) ∧
    (s.portState P ≠ 4 → exec (.exchangeLimitExpire P) s = .next s ∧ exec (.exchangeLockLossTimeout P lane) s = .next s) ∧
    (s.portState P = 4 → exec (.exchangeLimitExpire P) s = .next (State.attemptFail P 4 0x0C 255 s)
      ∧ exec (.exchangeLockLossTimeout P lane) s = .next (State.attemptFail P 4 0x0B lane s)) ∧
    (s.portState P ≠ 5 → exec (.partnerLost P lane) s = .next s) ∧
    (s.portState P = 5 → exec (.partnerLost P lane) s = .next (State.listenAfresh P
      (((((State.leaveActive P 3 s).tally (PT_DOWN_TALLY_COUNT P)).wr (PT_LAST_FAIL_STAGE P) 5).wr (PT_LAST_FAIL_CAUSE P) 9).wr
        (PT_LAST_FAIL_LANE P) lane))) ∧
    (s.portState P ≠ 6 → exec (.restPoll P seen) s = .next s) ∧
    (let u := (s.portLanes P).foldl (fun (s : State) n => s.wr (LN_STATUS_SIGNAL n) (if seen.contains n then 1 else 0)) s
     s.portState P = 6 → exec (.restPoll P seen) s
      = .next (if (u.portLanes P).any seen.contains then State.listenAfresh P u else u)) ∧
    (s.portState P = 0 → exec (.retrain P) s = .next s) ∧
    (s.portState P = 6 → exec (.retrain P) s = .next (State.listenAfresh P s)) ∧
    (s.portState P = 5 → exec (.retrain P) s = .next (State.listenAfresh P (State.leaveActive P 5 s))) ∧
    (s.portState P ≠ 0 ∧ s.portState P ≠ 5 ∧ s.portState P ≠ 6 → exec (.retrain P) s = .next (State.listen P s)) ∧
    (s.portEntry P = none → exec (.portBlockReset P) s = .next s) ∧
    (∀ e, s.portEntry P = some e ∧ P < 24 → exec (.portBlockReset P) s = .next (State.listenAfresh P
      ((entryLanes e).foldl (fun (s : State) n => State.laneReset n s) (State.leaveActive P 5 s))))

/-- Training blocks, capability sets, and the switches of a fold (R25, R132, R135, R136, R137, R145). A training
block on a lane of no port changes nothing; on an Active Torvelink port it is a stray, on another Active port
nothing; in Listen, Train and Lock it notes the far lane's number, readiness and polarity and, in Train on
Torvelink, acts on the tap request. A capability set on an Active Torvelink port is a stray; in Exchange a declared
set is answered with the agreed one or fails the attempt, an agreed one leads to the write that probes the control
channel, or with reject fails. A repeat sends the set of the step at hand. Writing ENABLE of a port enables it from
Off or takes it Off; HALT is only written. -/
def Obligations.TrainingAndCapabilities : Prop :=
  ∀ (P n number tap action reply off : Nat) (ready inverted better agreed reject on : Bool) (fs : List (Nat × Nat)) (s : State),
    let block := Instr.trainingBlock n number ready tap action reply inverted better
    (s.lanePort n = none → exec block s = .next s) ∧
    (∀ Q, s.lanePort n = some Q →
      let v := if (s.port Q).standard = 0 ∧ 2 ≤ s.portState Q ∧ 3 ≤ (s.port Q).rate then State.nameStandard Q 3 s else s
      let w := v.updLane n fun l => { l with farNumber := some number, farReady := ready, farInverted := inverted }
      (s.portState Q = 5 ∧ s.standardOf Q = 3 → exec block s = .next (s.tally (PT_TV_STRAY_TALLY_COUNT Q))) ∧
      (s.portState Q = 0 ∨ s.portState Q = 4 ∨ 6 ≤ s.portState Q → exec block s = .next s) ∧
      (s.portState Q = 1 ∨ s.portState Q = 2 ∨ s.portState Q = 3 → exec block s
        = .next (if s.portState Q = 2 ∧ (w.port Q).standard = 3 then State.tapRequest n tap action (State.tapSearch n reply better w)
          else w))) ∧
    (∀ e, s.portEntry P = some e →
      let p := s.port P
      (s.portState P = 5 ∧ s.standardOf P = 3 →
        exec (.capabilityBlock P agreed reject fs) s = .next (s.tally (PT_TV_STRAY_TALLY_COUNT P))) ∧
      (s.portState P = 4 ∧ p.standard = 3 ∧ p.capStep = 1 ∧ s.agree P e fs = none →
        exec (.capabilityBlock P false reject fs) s = .next (State.attemptFail P 4 7 255 s)) ∧
      (∀ lanes streams, s.portState P = 4 ∧ p.standard = 3 ∧ p.capStep = 1 ∧ s.agree P e fs = some (lanes, streams) →
        exec (.capabilityBlock P false reject fs) s
          = .next ((s.setPort P { p with capStep := 3, farCaps := fs, agreed := s.agreedSet P lanes streams fs }).emit
            (.portBlock P (capBlocks true (s.agreedSet P lanes streams fs))))) ∧
      (s.portState P = 4 ∧ p.standard = 3 ∧ p.capStep = 3 →
        exec (.capabilityBlock P true true fs) s = .next (State.attemptFail P 4 7 255 s)
        ∧ exec (.capabilityBlock P true false fs) s = .next (State.addRequest P
          { tag := 0, write := false, addr := 0, len := 4, kind := 2, who := 0 } (s.setPort P { p with capStep := 5 }))) ∧
      (s.portState P ≠ 4 ∨ (p.capStep ≠ 1 ∧ p.capStep ≠ 3) → exec (.capabilityRepeat P) s = .next s) ∧
      (s.portState P = 4 ∧ p.capStep = 1 → exec (.capabilityRepeat P) s
        = .next (s.emit (.portBlock P (capBlocks false (State.declaredSet e))))) ∧
      (s.portState P = 4 ∧ p.capStep = 3 → exec (.capabilityRepeat P) s
        = .next (s.emit (.portBlock P (capBlocks true p.agreed))))) ∧
    (let v := s.wr (FH_CONTROL_ENABLE off) (if on then 1 else 0)
     ((List.range 24).find? (fun P => PT_HDR P == off) = none → exec (.foldEnable off on) s = .next v) ∧
     (∀ P, (List.range 24).find? (fun P => PT_HDR P == off) = some P →
      exec (.foldEnable off on) s = .next (if on then State.portEnable P v else State.portOff P v))) ∧
    exec (.foldHalt off on) s = .next (s.wr (FH_CONTROL_HALT off) (if on then 1 else 0))

/-- Control requests, probes, echoes and camera events (R111, R120, R142, R143, R145, R151, R152, R176). A request
of the host by a function that may not use the channel changes nothing; while one is under way it sets REFUSED; on
a port that is not Active it ends with result 7, with too much data with 3, and otherwise waits for a slot with
BUSY set. An answer to no request of its kind is a stray on Torvelink; any other ends its request with the status,
and a timeout ends it with result 5. A probe goes out on an Active Torvelink port only; its echo writes the round
trip and half of it, an echo of no probe is a stray, and a missed probe is counted and in Exchange fails the
attempt. A heartbeat of CoaXPress keeps an Active port alive. -/
def Obligations.ControlChannel : Prop :=
  ∀ (fn P seq elapsed turn tag status event stream age arrival : Nat) (w : Word) (data : List Byte) (s : State),
    let go := w ||| 0x80000000#32
    let u := State.putWord fn (PT_CAM_CMD P) go s
    (s.mayCamera fn P = false → exec (.camChannelGo fn P w) s = .next s) ∧
    (s.mayCamera fn P = true ∧ s.rd (PT_CAM_STATUS_BUSY P) = 1 →
      exec (.camChannelGo fn P w) s = .next (s.wr (PT_CAM_STATUS_REFUSED P) 1)) ∧
    (s.mayCamera fn P = true ∧ s.rd (PT_CAM_STATUS_BUSY P) ≠ 1 ∧ u.rd (PT_LINK_STATUS_STATE P) ≠ 5 →
      exec (.camChannelGo fn P w) s = .next ((u.wr (PT_CAM_STATUS_BUSY P) 0).wr (PT_CAM_STATUS_RESULT P) 7)) ∧
    (s.mayCamera fn P = true ∧ s.rd (PT_CAM_STATUS_BUSY P) ≠ 1 ∧ u.rd (PT_LINK_STATUS_STATE P) = 5
        ∧ u.maxControl P < u.rd (PT_CAM_CMD_LENGTH P) →
      exec (.camChannelGo fn P w) s = .next ((u.wr (PT_CAM_STATUS_BUSY P) 0).wr (PT_CAM_STATUS_RESULT P) 3)) ∧
    (let len := u.rd (PT_CAM_CMD_LENGTH P)
     s.mayCamera fn P = true ∧ s.rd (PT_CAM_STATUS_BUSY P) ≠ 1 ∧ u.rd (PT_LINK_STATUS_STATE P) = 5 ∧ len ≤ u.maxControl P →
      exec (.camChannelGo fn P w) s = .next (State.addRequest P
        { tag := 0, write := u.rd (PT_CAM_CMD_WRITE P) == 1, addr := u.rdWide (PT_CAM_ADDR P) 2, len := len, kind := 0, who := fn,
          bytes := if u.rd (PT_CAM_CMD_WRITE P) = 1 then u.camBytes P len else [] } (u.wr (PT_CAM_STATUS_BUSY P) 1))) ∧
    (∀ write : Bool, (s.port P).requests.find? (fun r => r.sent && r.tag == tag && r.write == write) = none →
      let t := if s.torvelinkUp P then s.tally (PT_TV_STRAY_TALLY_COUNT P) else s
      (write = false → exec (.controlReadResponse P tag status data) s = .next t)
      ∧ (write = true → exec (.controlWriteAck P tag status) s = .next t)) ∧
    (∀ r : CtrlRequest, r.kind ≠ 2 →
      ((s.port P).requests.find? (fun r => r.sent && r.tag == tag && r.write == false) = some r →
        exec (.controlReadResponse P tag status data) s = .next (State.requestDone P r status data s)) ∧
      ((s.port P).requests.find? (fun r => r.sent && r.tag == tag && r.write == true) = some r →
        exec (.controlWriteAck P tag status) s = .next (State.requestDone P r status [] s)) ∧
      ((s.port P).requests.find? (fun r => r.sent && r.tag == tag) = some r → exec (.controlRequestTimeout P tag) s
        = .next (State.requestDone P r 5 [] (if s.standardOf P = 3 then s.tally (PT_TV_CTRL_TIMEOUT_TALLY_COUNT P) else s)))) ∧
    (let t := if s.standardOf P = 3 ∧ s.rd (PT_LINK_STATUS_STATE P) = 5 then State.sendProbe P s else s
     exec (.probeTimer P) s = .next t ∧ exec (.probeNow P) s = .next t) ∧
    (s.torvelinkUp P = false → exec (.echoReceived P seq elapsed turn) s = .next s) ∧
    (s.torvelinkUp P = true ∧ (s.port P).probes.contains seq = false →
      exec (.echoReceived P seq elapsed turn) s = .next (s.tally (PT_TV_STRAY_TALLY_COUNT P))) ∧
    (let p := s.port P
     s.torvelinkUp P = true ∧ p.probes.contains seq = true ∧ p.capStep = 8 →
      let v := (((s.setPort P { p with probes := p.probes.erase seq, keepAlive := s.now }).wr (PT_TV_RTT_UNITS P) (elapsed - turn)).wr
        (PT_TV_ONEWAY_UNITS P) (State.halfEven (elapsed - turn))).tally (PT_TV_PROBE_TALLY_COUNT P)
      exec (.echoReceived P seq elapsed turn) s = .next v) ∧
    ((s.port P).probes.contains seq = false → exec (.probeMiss P seq) s = .next s) ∧
    (let p := s.port P
     let v := (s.setPort P { p with probes := p.probes.erase seq }).tally (PT_TV_PROBE_MISS_TALLY_COUNT P)
     p.probes.contains seq = true → exec (.probeMiss P seq) s
      = .next (if v.portState P = 4 then State.attemptFail P 4 8 255 v else v)) ∧
    (s.rd (PT_LINK_STATUS_STATE P) ≠ 5 → exec (.cameraEventPacket P event stream age arrival) s = .next s) ∧
    (s.rd (PT_LINK_STATUS_STATE P) = 5 ∧ s.standardOf P ≠ 3 ∧ 4 ≤ stream →
      exec (.cameraEventPacket P event stream age arrival) s = .next (State.srcPulse 5 event P true arrival s.tb.dev s)) ∧
    (s.standardOf P = 1 ∧ s.rd (PT_LINK_STATUS_STATE P) = 5 →
      exec (.heartbeatPacket P) s = .next (s.updPort P fun p => { p with keepAlive := s.now })) ∧
    (¬ (s.standardOf P = 1 ∧ s.rd (PT_LINK_STATUS_STATE P) = 5) → exec (.heartbeatPacket P) s = .next s)

/-- Starts and ends of frames (R165, R166, R167, R168, R169, R170, R171, R175, R254). A start of frame on a port
that carries none changes nothing, and one of a stream not agreed is a stray on Torvelink. Any other closes a frame
left open and takes the camera's number; then the frame is dropped whole where the port is halted, intake is
stopped or the stream is disabled, skipped with its number and a tally where the port is throttled, and accepted
otherwise. An end marker closes the open frame, or waits for the resends it awaits; with none open the stream no
longer drops. A timeout closes the open frame with cause 1; with none open it changes nothing. A resend that has
not come is given up. -/
def Obligations.FramesOpenAndClose : Prop :=
  ∀ (st camFrame arrival startAge endAge egen : Nat) (late valid : Bool) (s : State),
    let i : FirstInfo := ⟨camFrame, arrival, startAge, endAge, late, egen, valid⟩
    let sof := Instr.startOfFrame st camFrame arrival startAge endAge late egen valid
    let P := State.portOf st
    let u := State.camNumber st camFrame (State.closeFrame st 2 s)
    let refused := u.rd (FH_CONTROL_HALT (PT_HDR P)) = 1 ∨ u.intakeStopped = true ∨ u.rd (ST_CTRL_ENABLE P (st % 4)) = 0
    (s.portCarries P = false → exec sof s = .next s) ∧
    (s.portCarries P = true ∧ s.streamAgreed st = false → exec sof s
      = .next (if s.standardOf P = 3 then s.tally (PT_TV_STRAY_TALLY_COUNT P) else s)) ∧
    (s.portCarries P = true ∧ s.streamAgreed st = true ∧ refused → exec sof s
      = .next (u.updStrm st fun x => { x with frame := none, drop := true })) ∧
    (s.portCarries P = true ∧ s.streamAgreed st = true ∧ ¬ refused ∧ u.throttled P = true →
      let v := (State.takeNumber st u).2.tally (ST_SKIP_TALLY_COUNT P (st % 4))
      exec sof s = .next (((v.wr (ST_STATUS_THROTTLED P (st % 4)) 1).updStrm st fun x =>
        { x with frame := none, drop := true }).updStrm st fun x => { x with resync := true })) ∧
    (s.portCarries P = true ∧ s.streamAgreed st = true ∧ ¬ refused ∧ u.throttled P = false →
      exec sof s = .next (State.acceptFrame st i u)) ∧
    ((s.strm st).frame = none → exec (.endOfFrame st) s = .next (s.updStrm st fun x => { x with drop := false, overflow := false })
      ∧ exec (.frameTimeout st) s = .next s ∧ exec (.resendTimeout st) s = .next s) ∧
    (∀ o, (s.strm st).frame = some o →
      (o.bad = [] → exec (.endOfFrame st) s = .next (State.closeFrame st 0 s) ∧ exec (.resendTimeout st) s = .next s) ∧
      (o.bad ≠ [] → exec (.endOfFrame st) s = .next (s.updStrm st fun x => { x with frame := some { o with endSeen := true } })
        ∧ exec (.resendTimeout st) s = .next (State.resendsDone st (s.updStrm st fun x =>
          { x with frame := some { o with bad := o.bad.tail } }))) ∧
      exec (.frameTimeout st) s = .next (State.closeFrame st 1 s))

/-- Video packets (R162, R165, R166, R168). A packet on a port that carries no frames changes nothing; one of a
stream not agreed is a stray on Torvelink. With no frame open it is a stray line, counted as failed where its CRC
fails, unless the stream drops: then it changes nothing, or counts its words after an overflow. In the open frame a
good packet of a line that fits is put into that line, and an overflow of the ingress pen checked; one beyond the
height is a surplus line, any other a stray. A resent packet that no resend awaits counts as stray. -/
def Obligations.VideoPackets : Prop :=
  ∀ (st line off : Nat) (data : List Byte) (ok cont : Bool) (s : State),
    let P := State.portOf st
    let x := s.strm st
    (∀ resent : Bool, s.portCarries P = false → exec (.videoPacket st line off data ok cont resent) s = .next s) ∧
    (∀ resent : Bool, s.portCarries P = true ∧ s.streamAgreed st = false →
      exec (.videoPacket st line off data ok cont resent) s
        = .next (if s.standardOf P = 3 then s.tally (PT_TV_STRAY_TALLY_COUNT P) else s)) ∧
    (s.portCarries P = true ∧ s.streamAgreed st = true →
      (x.frame = none → exec (.videoPacket st line off data ok cont true) s
        = .next (s.tally (ST_STRAY_TALLY_COUNT P (st % 4)))) ∧
      (∀ o, x.frame = some o ∧ o.bad.contains ⟨line, off⟩ = false → exec (.videoPacket st line off data ok cont true) s
        = .next (s.tally (ST_STRAY_TALLY_COUNT P (st % 4)))) ∧
      (x.frame = none ∧ x.drop = true → exec (.videoPacket st line off data ok cont false) s
        = .next (if x.overflow then s.tally (ST_IN_DROP_TALLY_COUNT P (st % 4)) (ceilDiv data.length 64) else s)) ∧
      (x.frame = none ∧ x.drop = false → exec (.videoPacket st line off data ok cont false) s
        = .next (let v := State.strayLine st line cont s; if ok then v else v.tally (ST_CRC_TALLY_COUNT P (st % 4)))) ∧
      (∀ o, x.frame = some o →
        let p := s.packetPlace st line off o
        let o' := { o with arrived := if o.inLine then o.arrived else o.arrived + 1, inLine := cont,
                           at_ := if cont then p.2 + data.length else 0 }
        let v := s.updStrm st fun x => { x with frame := some o' }
        (State.lineFits o p.1 = true → exec (.videoPacket st line off data true cont false) s
          = .next (State.overflowCheck st (State.placeBytes st p.1 p.2 data cont v))) ∧
        (State.lineFits o p.1 = false ∧ o.height ≤ p.1 → exec (.videoPacket st line off data true cont false) s
          = .next (State.surplusLine st p.1 cont o' v)) ∧
        (State.lineFits o p.1 = false ∧ p.1 < o.height → exec (.videoPacket st line off data true cont false) s
          = .next (State.strayLine st p.1 cont v))))

/-- The parallel port: clock, alignment and serial channel (R178, R179, R181). A link is aligned only with a pixel
clock and raises EV320 when it changes; a loss counts and truncates the open frame. In manual mode a slip of 1 to 6
bits of one of the three links moves it, modulo 7. A clock that goes truncates the port's frame with EV322; one
that returns is shown with EV322; one that is as it was changes nothing. A byte to send is shifted out at once
where nothing is, else it waits, and beyond 256 sets TX_OVF and is lost. A byte received with a bad stop bit sets
RX_FRAMING; beyond 256 it counts an overrun; else it waits, with EV321 where none did. A read takes the oldest byte
for a function that sees the port, and 0 for another. -/
def Obligations.ParallelPort : Prop :=
  ∀ (fn link byte : Nat) (w : Word) (s : State),
    (s.rd PP_STATUS_CLK_OK = 0 ∨ s.rd ⟨PP_STATUS, link, link⟩ = 1 → exec (.ppAlignAcquired link) s = .next s) ∧
    (s.rd PP_STATUS_CLK_OK ≠ 0 ∧ s.rd ⟨PP_STATUS, link, link⟩ ≠ 1 → exec (.ppAlignAcquired link) s
      = .next ((s.wr ⟨PP_STATUS, link, link⟩ 1).raise 320 0)) ∧
    (s.rd ⟨PP_STATUS, link, link⟩ = 0 → exec (.ppAlignLost link) s = .next s) ∧
    (s.rd ⟨PP_STATUS, link, link⟩ ≠ 0 → exec (.ppAlignLost link) s = .next (State.closeFrame 96 6
      (((s.wr ⟨PP_STATUS, link, link⟩ 0).tally PP_ALIGN_LOSS_TALLY_COUNT).raise 320 0))) ∧
    (let n := bitsOf w 10 8
     let l := bitsOf w 5 4
     let u := State.putWord 0 PP_ALIGN w s
     (u.rd PP_ALIGN_MANUAL = 1 ∧ 1 ≤ n ∧ n ≤ 6 ∧ l < 3 → exec (.ppAlignSlip w) s
      = .next { u with slips := Tab.upd (fun _ => 0) u.slips l fun x => (x + n) % 7 }) ∧
     (¬ (u.rd PP_ALIGN_MANUAL = 1 ∧ 1 ≤ n ∧ n ≤ 6 ∧ l < 3) → exec (.ppAlignSlip w) s = .next u)) ∧
    (s.rd PP_STATUS_CLK_OK = 0 → exec .ppClockLost s = .next s) ∧
    (s.rd PP_STATUS_CLK_OK ≠ 0 → exec .ppClockLost s = .next (State.portSilent 24 6 ((s.wr PP_STATUS_CLK_OK 0).raise 322 0))) ∧
    (s.rd PP_STATUS_CLK_OK = 1 → exec .ppClockPresent s = .next s) ∧
    (s.rd PP_STATUS_CLK_OK ≠ 1 → exec .ppClockPresent s = .next ((s.wr PP_STATUS_CLK_OK 1).raise 322 0)) ∧
    (s.serial.shift = none → exec (.ppSerTxWrite byte) s
      = .next (State.emit { s with serial := { s.serial with shift := some byte } } (.serialByte byte))) ∧
    (s.serial.shift ≠ none ∧ 256 ≤ s.serial.tx.length → exec (.ppSerTxWrite byte) s = .next (s.wr PP_SER_STATUS_TX_OVF 1)) ∧
    (s.serial.shift ≠ none ∧ s.serial.tx.length < 256 → exec (.ppSerTxWrite byte) s
      = .next (State.serialShow { s with serial := { s.serial with tx := s.serial.tx ++ [byte] } })) ∧
    (s.serial.shift = none → exec .ppSerByteSent s = .next s) ∧
    (s.serial.shift ≠ none ∧ s.serial.tx = [] → exec .ppSerByteSent s = .next { s with serial := { s.serial with shift := none } }) ∧
    (∀ b r, s.serial.shift ≠ none ∧ s.serial.tx = b :: r → exec .ppSerByteSent s = .next (State.serialShow
      (State.emit { s with serial := { s.serial with tx := r, shift := some b } } (.serialByte b)))) ∧
    exec (.ppSerByteReceived byte false) s = .next (s.wr PP_SER_STATUS_RX_FRAMING 1) ∧
    (let u := (s.wr PP_SER_STATUS_RX_OVF 1).tally PP_SER_OVR_TALLY_COUNT
     256 ≤ s.serial.rx.length → exec (.ppSerByteReceived byte true) s
      = .next (if s.rd PP_SER_STATUS_RX_OVF = 0 then u.raise 321 0 else u)) ∧
    (let u := State.serialShow { s with serial := { s.serial with rx := s.serial.rx ++ [byte] } }
     s.serial.rx.length < 256 → exec (.ppSerByteReceived byte true) s
      = .next (if s.serial.rx = [] then u.raise 321 0 else u)) ∧
    (let u := s.emit (.readReply fn (s.rw PP_SER_RX))
     s.seesPort fn 24 = true → exec (.ppSerRxRead fn) s
      = .next (State.serialShow { u with serial := { u.serial with rx := u.serial.rx.tail } })) ∧
    (s.seesPort fn 24 = false → exec (.ppSerRxRead fn) s = .next (s.emit (.readReply fn 0)))

/-- Both lines of an encoder change at once (R373). In a quadrature mode of an enabled encoder, a sample in which
both filtered levels change takes the new levels as the reference of the next transition, leaves the position,
counts one in EN_ILL_TALLY, sets ILL, and raises EV(680 + 12k) + 4 while ILL_EV is 1 and nothing where it is 0; it
changes nothing else but the instants at which the lines last changed. -/
def Obligations.IllegalTransitions : Prop :=
  ∀ (k : Nat) (a b : Bool) (sample : Nat) (s : State),
    let u := s.runTo (65536 * sample)
    let v := ((u.setEnc k { u.enc k with aAt := some sample, bAt := some sample }).wr (EN_STATUS_A k) (if a then 1 else 0)).wr
      (EN_STATUS_B k) (if b then 1 else 0)
    let w := (v.tally (EN_ILL_TALLY_COUNT k)).wr (EN_STATUS_ILL k) 1
    (u.rd (EN_STATUS_A k) == 1) = !a ∧ (u.rd (EN_STATUS_B k) == 1) = !b ∧ u.rd (EN_CTRL_ENABLE k) ≠ 0 ∧ u.rd (EN_CTRL_DECODE k) < 3 →
      exec (.encoderCountEdge k a b sample) s = .next (if w.rd (EN_CTRL_ILL_EV k) = 1 then
        w.raiseAt (680 + 12 * k + 4) (w.rw (EN_POS k)).toNat (w.encStamp k sample) else w)
      ∧ w.rdWide (EN_POS k) 2 = u.rdWide (EN_POS k) 2
      ∧ w.rd (EN_ILL_TALLY_COUNT k) = min (u.rd (EN_ILL_TALLY_COUNT k) + 1) (2 ^ 32 - 1)
      ∧ w.rd (EN_STATUS_ILL k) = 1 ∧ w.rd (EN_STATUS_A k) = (if a then 1 else 0) ∧ w.rd (EN_STATUS_B k) = (if b then 1 else 0)

/-- The commands and lines of an encoder (R374, R375, R376, R378, R379, R381, R385, R386, R394). A count edge on a
disabled encoder takes the levels and counts nothing. A set and an adjust act at the next sample, clamped to the
limits, and evaluate the compare list again; a set on index waits with SET_PENDING. A compare entry written outside
the armed span is stored and the address advances, one within it sets CMP_REFUSED; a tail more than 65,536 entries
ahead is an access error. A level of Z that is no gated rise only shows. A line fault shows with its event where it
changes. A Hall state shows on encoders 0 and 1 where enabled and changed, and 0 and 7 are illegal. Without an edge
for its time an enabled encoder's speed is 0 and STILL. -/
def Obligations.EncoderCommands : Prop :=
  ∀ (k signal state : Nat) (a b z on : Bool) (sample : Nat) (w : Word) (s : State),
    let u := s.runTo (65536 * sample)
    let t := s.nextSample
    let x := signed 48 (s.rdWide (EN_SET k) 2)
    (u.rd (EN_CTRL_ENABLE k) = 0 → ∃ r, exec (.encoderCountEdge k a b sample) s = .next r
      ∧ r.rd (EN_STATUS_A k) = (if a then 1 else 0) ∧ r.rd (EN_STATUS_B k) = (if b then 1 else 0)
      ∧ r.rdWide (EN_POS k) 2 = u.rdWide (EN_POS k) 2 ∧ r.tb = u.tb ∧ r.fab.mem = u.fab.mem ∧ r.fab.out = u.fab.out) ∧
    (exec (.encoderSet k) s = .next (let v := s.updEnc k fun e => { e with setAt := some t }
      State.encRearm k t (State.encInvalid k (State.encJump k (v.encSetValue k) false t v)))) ∧
    (exec (.encoderAdjust k) s = .next (State.encRearm k t (State.encJump k (s.encPos k + x) false t s))) ∧
    (exec (.encoderSetOnIndex k) s = .next ((s.updEnc k fun e => { e with onIndex := some (x, t) }).wr (EN_STATUS_SET_PENDING k) 1)) ∧
    (exec (.cmpReset k) s = .next ((((s.wr (EN_CMP_HEAD_HEAD k) 0).wr (EN_CMP_CTRL_TAIL k) 0).wr (EN_CMP_WADDR_SLOT k) 0).updEnc k
      fun e => { e with armed := 0 })) ∧
    (let slot := s.rd (EN_CMP_WADDR_SLOT k)
     let v := s.ww (EN_CMP_WDATA k + 4) w
     let inside := (slot + 65536 - v.rd (EN_CMP_HEAD_HEAD k) % 65536) % 65536 < v.encDepth k
     (inside → exec (.cmpEntryWrite k w) s = .next (v.wr (EN_STATUS_CMP_REFUSED k) 1)) ∧
     (¬ inside → exec (.cmpEntryWrite k w) s = .next ((v.updEnc k fun e => { e with
       list := tset (fun _ => 0) e.list slot ((v.rw (EN_CMP_WDATA k)).toNat + w.toNat * 2 ^ 32) }).wr (EN_CMP_WADDR_SLOT k) (slot + 1)))) ∧
    (let depth := (bitsOf w 16 0 + 131072 - s.rd (EN_CMP_HEAD_HEAD k)) % 131072
     let was := s.rd (EN_CMP_CTRL_ENABLE k)
     let v := s.wr (EN_CMP_CTRL_ENABLE k) (bitsOf w 31 31)
     let v := if 65536 < depth then v.accErr 0 else v.wr (EN_CMP_CTRL_TAIL k) (bitsOf w 16 0)
     let v := v.updEnc k fun e => { e with armed := if was = 0 then 0 else min e.armed (v.encDepth k) }
     exec (.cmpTailWrite k w) s = .next (State.encArm k v.now 16 v)) ∧
    (let v := u.wr (EN_STATUS_Z k) (if z then 1 else 0)
     z = false ∨ u.rd (EN_STATUS_Z k) = 1 ∨ v.rd (EN_CTRL_ENABLE k) = 0 → exec (.indexEvent k z sample) s = .next v) ∧
    (let f : FRef := ⟨EN_STATUS k, 16 + signal, 16 + signal⟩
     let v := State.encGood k s.now (s.wr f (if on then 1 else 0))
     (s.rd f = (if on then 1 else 0) ∨ (2 ≤ k ∧ 3 ≤ signal) → exec (.lineFault k signal on) s = .next s) ∧
     (s.rd f ≠ (if on then 1 else 0) ∧ ¬ (2 ≤ k ∧ 3 ≤ signal) → exec (.lineFault k signal on) s
      = .next (v.raiseAt (680 + 12 * k + 7) (v.rd (EN_STATUS_LINE_FAULT k)) v.now))) ∧
    (let shown := k < 2 ∧ u.rd (EN_CTRL_HALL_EN k) ≠ 0 ∧ u.rd (EN_STATUS_HALL k) ≠ state
     let v := u.wr (EN_STATUS_HALL k) state
     (¬ shown → exec (.hallStateChange k state sample) s = .next u) ∧
     (shown ∧ state ≠ 0 ∧ state ≠ 7 → exec (.hallStateChange k state sample) s = .next v) ∧
     (shown ∧ (state = 0 ∨ state = 7) → exec (.hallStateChange k state sample) s
      = .next (((v.tally (EN_HALL_ILL_TALLY_COUNT k)).wr (EN_STATUS_HALL_ILL k) 1).raiseAt (680 + 12 * k + 8) state
        (v.encStamp k sample)))) ∧
    (s.rd (EN_CTRL_ENABLE k) = 0 → exec (.speedStillTimeout k) s = .next s) ∧
    (s.rd (EN_CTRL_ENABLE k) ≠ 0 → exec (.speedStillTimeout k) s
      = .next (((s.updEnc k fun e => { e with still := true }).wr (EN_SPEED_SPEED k) 0).wr (EN_SPEED_STAT_STILL k) 1)) ∧
    (let e := s.enc k
     exec (.histSnapshotRead k) s = .next (e.hist.foldl (fun (a : Nat × State) x =>
      (a.1 - 1, State.histEntry k ((a.1 + 63) % 64) x a.2)) (e.edges + 64, s.wr (EN_HIST_HEAD_NEWEST k) ((e.edges + 63) % 64))).2)

/-- Transfers of an absolute channel (R388, R389, R390, R391). A request on a disabled channel is dropped without
trace. One while a transfer of another instant runs is a miss, one that finds the line low sets NOT_READY, both
with the channel's event; another starts a transfer within 50 ns (a free value, log entry 24) with BUSY set. A
transfer ends only where one runs: BUSY falls; with a wrong parity bit or a line that stayed low it counts an error
with its flags and event; else SA_POS takes the bits, from Gray code where so set, SA_TIME the sample instant,
VALID is set and the good transfer counted with its event, beside the paired position where enabled. -/
def Obligations.AbsolutePositions : Prop :=
  ∀ (j word : Nat) (line parity high : Bool) (s : State),
    let u := State.absWaiting j (s.setAbs j { s.absChan j with low := !line })
    let run := (u.absChan j).run
    (u.rd (SA_CFG_ENABLE j) = 0 → exec (.saRequestNow j line) s = .next u) ∧
    (u.rd (SA_CFG_ENABLE j) ≠ 0 → ∀ r, run = some r ∧ r.1 ≠ (s.setAbs j { s.absChan j with low := !line }).now →
      exec (.saRequestNow j line) s = .next (State.absErr j (u.tally (SA_MISS_TALLY_COUNT j)))) ∧
    (u.rd (SA_CFG_ENABLE j) ≠ 0 ∧ run = none ∧ (u.absChan j).low = true →
      exec (.saRequestNow j line) s = .next (State.absErr j (u.wr (SA_STATUS_NOT_READY j) 1))) ∧
    (u.rd (SA_CFG_ENABLE j) ≠ 0 ∧ run = none ∧ (u.absChan j).low = false →
      let v : State := { u with freeCounter := u.freeCounter + 1 }
      exec (.saRequestNow j line) s = .next ((v.setAbs j { u.absChan j with run := some (s.now,
        s.now + (Config.absStart u.freeCounter).val, v.encPos (v.rd (SA_PAIR_ENC j))) }).wr (SA_STATUS_BUSY j) 1)) ∧
    (let v := State.absWaiting j s
     ((v.absChan j).run = none → exec (.saTransferComplete j word parity high) s = .next v) ∧
     (∀ asked sample count, (v.absChan j).run = some (asked, sample, count) →
      let bits := v.rd (SA_CFG_BITS j)
      let raw := word % 2 ^ bits
      let odd := (State.ones bits raw + if parity then 1 else 0) % 2
      let bad := (v.rd (SA_CFG_PARITY j) = 1 ∧ odd = 1) ∨ (v.rd (SA_CFG_PARITY j) = 2 ∧ odd = 0)
      let value := if v.rd (SA_CFG_GRAY j) = 1 then State.ungray bits raw else raw
      let x := (v.setAbs j { v.absChan j with run := none, low := !high }).wr (SA_STATUS_BUSY j) 0
      (bad ∧ high = true → exec (.saTransferComplete j word parity high) s
        = .next (State.absErr j ((x.wr (SA_STATUS_PARITY_ERR j) 1).tally (SA_ERR_TALLY_COUNT j)))) ∧
      (¬ bad ∧ high = false → exec (.saTransferComplete j word parity high) s
        = .next (State.absErr j ((x.wr (SA_STATUS_MONO_ERR j) 1).tally (SA_ERR_TALLY_COUNT j)))) ∧
      (let y := ((x.wrWide (SA_POS j) 2 value).wrTime (SA_TIME j) sample).wr (SA_STATUS_VALID j) 1
       ¬ bad ∧ high = true ∧ y.rd (SA_PAIR_PAIR_EN j) ≠ 1 → exec (.saTransferComplete j word parity high) s
        = .next (((y.setAbs j { y.absChan j with done := true }).tally (SA_GOOD_TALLY_COUNT j)).raise (680 + 12 * j + 10)
          (value % 2 ^ 32)))))

/-- Software triggers, channel pulses, edges and in-band blocks (R396, R397, R400, R401, R402, R408). A software
trigger sends a pulse of its cause, now, to every channel of the mask that names the software source, and to no
other channel. A channel with nothing in its inbox has no pulse; one that is disabled, or while the sequencer is
held, takes the pulses that have arrived and issues nothing. A route with no edge left emits none; the next edge is
taken at its instant and marked late where it is. On the channel's pin it sets or clears PULSE and is emitted where the
pin's level changes by it, and on any other route it is emitted with that route's level. A port without a block that
may go sends none. An edge of a trigger input at the level it has changes nothing; another is dated at its first
sample less the input's delay, kept, counted and raised, and its pulse goes to the channels, converters and freeze
groups that name it. -/
def Obligations.TriggerEdges : Prop :=
  ∀ (n mask route P : Nat) (level : Bool) (first : Nat) (s : State),
    (∃ t, exec (.softwareTrigger mask) s = .next t ∧ t.fab = s.fab ∧ t.tb = s.tb
      ∧ ∀ m, t.trig m = (if m < 24 ∧ mask.testBit m = true then
          { s.trig m with inbox := (s.trig m).inbox
            ++ (if s.srcNames m false 4 0 0 true then [(s.tb.dev, false, s.now)] else [])
            ++ (if s.srcNames m true 4 0 0 true then [(s.tb.dev, true, s.now)] else []) } else s.trig m)) ∧
    ((s.trig n).inbox = [] → exec (.channelPulse n) s = .next s) ∧
    (∀ x r, (s.trig n).inbox = x :: r →
      let u := s.runTo (r.foldl (fun a y => min a y.1) x.1)
      let v := State.trigPromote n (u.updTrig n fun t => { t with inbox := t.inbox.filter fun y => u.tb.dev < y.1 })
      v.rd (TR_CTRL_ENABLE n) = 0 ∨ v.sequencerHeld = true → exec (.channelPulse n) s = .next v) ∧
    (∀ x r, (s.trig n).inbox = x :: r →
      let u := s.runTo (r.foldl (fun a y => min a y.1) x.1)
      let v := State.trigPromote n (u.updTrig n fun t => { t with inbox := t.inbox.filter fun y => u.tb.dev < y.1 })
      v.rd (TR_CTRL_ENABLE n) ≠ 0 ∧ v.sequencerHeld = false ∧ v.rd (TR_CTRL_COMBINE n) = 0 → exec (.channelPulse n) s
        = .next ((((((x :: r).filter fun y => y.1 ≤ u.tb.dev).filter fun y => y.2.1 == false).map fun y => y.2.2).foldl
          (fun s c => State.channelPulse n c s) v))) ∧
    (s.nextEdge n route = none → exec (.routeEdgeEmit n route) s = .next s) ∧
    (∀ id e, s.nextEdge n route = some (id, e) →
      let u := (s.runTo (65536 * e.at_)).updTrig n fun t => { t with held := t.held.map fun p =>
        if p.id = id then { p with edges := State.dropEdge route p.edges, begun := true } else p }
      let v := if e.late then State.markLate n id u else u
      let at_ := max e.at_ v.now
      let w := v.wr (TR_STATUS_PULSE n) (if e.rising then 1 else 0)
      exec (.routeEdgeEmit n route) s = .next (State.trigDone n (
        if route = 0 then (if w.pinLevel n = v.pinLevel n then w else w.emit (.triggerEdge 0 n (w.pinLevel n) at_))
        else v.emit (.triggerEdge route n (v.routeLevel route e.rising) at_)))) ∧
    ((s.port P).held.find? (fun x => !x.long) = none → exec (.inbandSend P) s = .next s) ∧
    (∀ x, (s.port P).held.find? (fun x => !x.long) = some x →
      let r := State.nextSlot P s
      let delay := r.1.blockDelay P x.at_ r.2
      (State.maxDelay < delay → exec (.inbandSend P) s = .next (r.1.setPort P { r.1.port P with
        held := (r.1.port P).held.map fun y => if y = x then { y with long := true } else y })) ∧
      (delay ≤ State.maxDelay → exec (.inbandSend P) s = .next (State.sendBlock P x r.2 delay r.1))) ∧
    ((s.rd (TI_STATUS_LEVEL n) == 1) = level → exec (.triggerInputEdge n level first) s = .next s) ∧
    ((s.rd (TI_STATUS_LEVEL n) == 1) = !level →
      let filter := s.rd (TI_CFG_FILTER n)
      let cause := first - Config.triggerDelay
      let u := s.runTo (65536 * (first + State.inputSamples (filter - 1)))
      let v := (((u.wr (TI_STATUS_LEVEL n) (if level then 1 else 0)).wr (if level then TI_STATUS_UP n else TI_STATUS_DOWN n) 1).wrTime
        (TI_TIME n) cause).tally (TI_EDGE_TALLY_COUNT n)
      let w : State := { v with inputs := Tab.upd (fun _ => {}) v.inputs n fun x => { x with levels := ((cause, level) :: x.levels).take 64 } }
      let p := State.srcPulse 3 n 0 level cause (65536 * (cause + Time.ofNs 10 + State.inputSamples filter))
        (w.raiseAt (752 + n) (if level then 1 else 0) cause)
      let q := (List.range 8).foldl (fun (s : State) c =>
        if s.rd (AI_START_ON_TI c) = 1 ∧ s.rd (AI_START_TI c) = n then State.aiStart c (65536 * cause) s else s) p
      exec (.triggerInputEdge n level first) s = .next (State.sourceFreeze 1 n level cause q))

/-- Exposure bank commits and camera writes (R405, R406, R407, R412, R414). Only the management function and the
owner of a stream bound to the channel commit its bank. A request takes the check's code as REJECT: one that fails
raises the channel's event, and one that passes is PENDING for the next tick, or for the stream's start of frame. A
cancel clears it. An application where no commit is ready changes nothing. An exposure write with none due changes
nothing; one whose in-band route leads to no Active port fails; another goes to the camera, rounded to its scale.
-/
def Obligations.ExposureBanks : Prop :=
  ∀ (fn n : Nat) (s : State),
    let code := State.trigCheck (s.trigBank n 0)
    let u := s.wr (TR_COMMIT_REJECT n) code
    (s.mayCommit fn n = false → exec (.exposureCommitReq fn n) s = .next s ∧ exec (.exposureCommitCancel fn n) s = .next s) ∧
    (s.mayCommit fn n = true ∧ code ≠ 0 → exec (.exposureCommitReq fn n) s = .next (u.raise (728 + n) 5)) ∧
    (s.mayCommit fn n = true ∧ code = 0 ∧ u.rd (TR_CTRL_COMMIT_MODE n) = 1 → exec (.exposureCommitReq fn n) s
      = .next ((u.updTrig n fun t => { t with commit := .sof }).wr (TR_COMMIT_PENDING n) 1)) ∧
    (s.mayCommit fn n = true ∧ code = 0 ∧ u.rd (TR_CTRL_COMMIT_MODE n) ≠ 1 → exec (.exposureCommitReq fn n) s
      = .next ((u.updTrig n fun t => { t with commit := .tick (u.bw.count + 1) }).wr (TR_COMMIT_PENDING n) 1)) ∧
    (s.mayCommit fn n = true → exec (.exposureCommitCancel fn n) s
      = .next ((s.updTrig n fun t => { t with commit := .idle }).wr (TR_COMMIT_PENDING n) 0)) ∧
    (let v := State.trigPromote n s
     (v.trig n).commit ≠ .ready → exec (.exposureCommitApply n) s = .next v) ∧
    (((State.trigPromote n s).trig n).commit = .ready → ∃ t, exec (.exposureCommitApply n) s = .next t
      ∧ (t.trig n).commit = .idle ∧ t.tb = s.tb ∧ t.pending = s.pending) ∧
    ((s.trig n).camDue = [] → exec (.cameraExposureWrite n) s = .next s) ∧
    (∀ width gen rest, (s.trig n).camDue = (width, gen, true) :: rest →
      let v := s.updTrig n fun t => { t with camDue := rest }
      let P := v.rd (TR_INBAND_PORT n)
      (v.inbandActive n = false → exec (.cameraExposureWrite n) s
        = .next (((v.wr (TR_STATUS_CAMW_FAIL n) 1).tally (TR_CAMW_FAIL_TALLY_COUNT n)).raise (728 + n) 6)) ∧
      (v.inbandActive n = true ∧ v.standardOf P ≠ 3 → ∃ r : CtrlRequest, r.write = true ∧ r.len = 4 ∧ r.kind = 1 ∧ r.who = n
        ∧ r.gen = gen ∧ r.addr = v.rdWide (TR_CAM_EXP_ADDR n) 2
        ∧ r.bytes = leBytes 4 (State.camWidth width (v.rd (TR_CAM_EXP_SCALE_PICOSECONDS n)))
        ∧ ((State.addRequest P r v).standardOf P ≠ 3 → exec (.cameraExposureWrite n) s = .next (State.addRequest P r v))))

/-- Analogue conversions and sample words (R416, R417, R418, R419, R421, R428). A request to a disabled channel is
dropped. With no start waiting, no conversion begins; a start on a disabled channel, or within a reserve window in
use, begins none, the latter counted; one too close to the last, or while the range settles, is a miss with the
channel's event; another begins a conversion at its instant with the range and coefficients in force. A conversion
that ends on a channel with none under way changes nothing, and on a disabled channel only leaves. The range has
settled after its time, and a flush closes the open word, if any. -/
def Obligations.Conversions : Prop :=
  ∀ (c raw : Nat) (s : State),
    (s.rd (AI_CTRL_ENABLE c) = 0 → exec (.aiConvertNow c) s = .next s) ∧
    (s.rd (AI_CTRL_ENABLE c) ≠ 0 → exec (.aiConvertNow c) s
      = .next (s.updAi c fun x => { x with starts := x.starts ++ [s.tb.dev] })) ∧
    ((s.ai c).starts = [] → exec (.conversionStart c) s = .next s) ∧
    (∀ t0 r, (s.ai c).starts = t0 :: r →
      let k := State.clockAt (r.foldl min t0) s
      let u := k.1.updAi c fun x => { x with starts := x.starts.filter fun t => k.2 < t }
      let inst := ((k.2 / 65536 : Nat) + u.apertureSkew c).toNat
      let x := u.ai c
      let close := (∃ t, x.last = some t ∧ inst < t + State.gridUnits) ∨ (∃ t, x.settle = some t ∧ inst < t)
      let range := u.rd (AI_CTRL_RANGE c)
      (u.rd (AI_CTRL_ENABLE c) = 0 → exec (.conversionStart c) s = .next u) ∧
      (u.rd (AI_CTRL_ENABLE c) ≠ 0 ∧ u.reserveUsed c inst = true → exec (.conversionStart c) s
        = .next ((u.tally (AI_RESERVE_TALLY_COUNT c)).setAi c { x with lost := true })) ∧
      (u.rd (AI_CTRL_ENABLE c) ≠ 0 ∧ u.reserveUsed c inst = false ∧ close → exec (.conversionStart c) s
        = .next (State.aiEv c 0 inst ((u.tally (AI_MISS_TALLY_COUNT c)).setAi c { x with lost := true }))) ∧
      (u.rd (AI_CTRL_ENABLE c) ≠ 0 ∧ u.reserveUsed c inst = false ∧ ¬ close → exec (.conversionStart c) s
        = .next (u.setAi c { x with
          last := some inst
          convs := x.convs ++ [⟨inst, range, (u.coefficients c range).1, (u.coefficients c range).2, x.gen⟩] }))) ∧
    ((s.ai c).convs = [] → exec (.conversionComplete c raw) s = .next s) ∧
    (∀ v r, (s.ai c).convs = v :: r ∧ (s.updAi c fun a => { a with convs := r }).rd (AI_CTRL_ENABLE c) = 0 →
      exec (.conversionComplete c raw) s = .next (s.updAi c fun a => { a with convs := r })) ∧
    (∀ v r, (s.ai c).convs = v :: r ∧ (s.updAi c fun a => { a with convs := r }).rd (AI_CTRL_ENABLE c) ≠ 0 →
      let x := signed 18 raw
      let y := calibrated v.offset v.gain x
      let a := (s.updAi c fun a => { a with convs := r }).tally (AI_CONV_TALLY_COUNT c)
      x ≠ -131072 ∧ x ≠ 131071 ∧ y.2 = false →
        let b := (((a.wr (AI_LAST_OVR c) 0).wr (AI_LAST_VALUE c) (toSigned 18 y.1)).wrTime (AI_LAST_TIME c) v.at_).updAi c
          fun a => { a with fresh := a.fresh ++ [⟨v.at_, y.1⟩] }
        let e := State.thresholds c ⟨v.at_, y.1⟩ (State.wordAdd c v y.1 false b)
        exec (.conversionComplete c raw) s = .next (e.2.foldl (fun (s : State) x => State.sourceFreeze 3 c x.1 x.2 s) e.1)) ∧
    exec (.rangeSettled c) s = .next ((s.updAi c fun x => { x with settle := none }).wr (AI_STATUS_SETTLING c) 0) ∧
    ((s.ai c).word = none → exec (.sampleWordFlush c) s = .next s) ∧
    (∀ w, (s.ai c).word = some w →
      let r := (s.updAi c fun x => { x with word := none }).penAdmit w.pen (wordBytes c w)
      (r.1 = true → exec (.sampleWordFlush c) s = .next r.2) ∧
      (r.1 = false → exec (.sampleWordFlush c) s = .next (State.aiEv c 1 r.2.now
        ((r.2.tally (AI_DROP_TALLY_COUNT c)).updAi c fun x => { x with lost := true }))))

/-- Calibration runs and their sets (R423, R425, R426, R427, R430, R431, R432, R434). A RUN makes the named blocks
due, forced. A temperature is shown; in a run it starts it again where it moved more than half the delta, else it
makes due a block that moved more than the delta, was never accepted, or waits to be tried again. A conversion or a
measurement window counts only for a run that may proceed, in a gap or on an idle line, short of its points. A run
completes only when all is measured: accepted within three times the noise, else rejected with its event. A
deadline defers a due block. LOAD and FACTORY fill the staging set; OVERRIDE copies the named blocks from it where
every value is in range. A save begins where none is under way, and its completion keeps the set or counts the
failure. -/
def Obligations.Calibrations : Prop :=
  ∀ (b c l raw temp blocks : Nat) (counts : List Nat) (ok : Bool) (s : State),
    exec (.calRun blocks) s = .next (((List.range 4).filter blocks.testBit).foldl (fun s b => State.calDue b true s) s) ∧
    (let u := s.wr (CB_TEMP_NOW b) temp
     let delta := u.rd CAL_TEMP_DELTA_SIXTEENTHS
     let moved := fun from_ : Nat => (signed 16 temp - signed 16 from_).natAbs
     (2 ≤ u.rd (CB_STATUS_STATE b) ∧ delta < 2 * moved (u.cal b).startTemp → exec (.calRunDue b temp) s
      = .next (((State.calClear b u).updCal b fun x => { x with startTemp := temp }).wr (CB_STATUS_STATE b) 2)) ∧
     (2 ≤ u.rd (CB_STATUS_STATE b) ∧ 2 * moved (u.cal b).startTemp ≤ delta → exec (.calRunDue b temp) s = .next u) ∧
     (u.rd (CB_STATUS_STATE b) = 1 → exec (.calRunDue b temp) s = .next u) ∧
     (u.rd (CB_STATUS_STATE b) = 0 ∧ u.calAccepted b = true ∧ delta < moved (u.rd (CB_TEMP_LAST b)) →
      exec (.calRunDue b temp) s = .next (State.calDue b false u)) ∧
     (u.rd (CB_STATUS_STATE b) = 0 ∧ u.calAccepted b = true ∧ (u.cal b).again = none ∧ moved (u.rd (CB_TEMP_LAST b)) ≤ delta →
      exec (.calRunDue b temp) s = .next u)) ∧
    (let u := State.calBegin (c / 4) s
     let v := u.updAi c fun a => { a with cal := State.addPoint u.calSamples (signed 18 raw) a.cal }
     let counts' := s.calMayRun (c / 4) = true ∧ s.pointsDone c < 27 ∧ s.gapOpen c s.now = true
     (¬ counts' → exec (.calGapConversion c raw) s = .next s) ∧
     (counts' → exec (.calGapConversion c raw) s = .next (if (blockChannels (c / 4)).all (fun c => v.pointsDone c ≥ 15) then
       v.wr (CB_STATUS_STATE (c / 4)) 3 else v))) ∧
    (let b := if l < 12 then 2 else 3
     s.calMayRun b = false ∨ s.lineIdle l = false ∨ 64 ≤ (s.lineOf b l).1 → exec (.delayLineMeasure l counts) s = .next s) ∧
    (let b := if l < 12 then 2 else 3
     let u := State.calBegin b s
     let x := u.lineOf b l
     let v := u.updCal b fun a => { a with lines := tset (fun _ => (0, [])) a.lines l (x.1 + 1, State.addCounts x.2 (counts.take 128)) }
     s.calMayRun b = true ∧ s.lineIdle l = true ∧ (s.lineOf b l).1 < 64 → exec (.delayLineMeasure l counts) s
      = .next (if (blockLines b).all (fun l => (v.lineOf b l).1 ≥ 64) then v.wr (CB_STATUS_STATE b) 3 else v)) ∧
    (let u := s.tally (CB_RUN_TALLY_COUNT b)
     let worst := s.calResidual b
     let bound := if b < 2 then u.rd CAL_REFV_NOISE_TENTHS_UV else u.rd CAL_REFCLK_JITTER_TENTHS_PS
     (s.rd (CB_STATUS_STATE b) < 2 ∨ s.calMeasured b = false → exec (.calRunComplete b) s = .next s) ∧
     (2 ≤ s.rd (CB_STATUS_STATE b) ∧ s.calMeasured b = true ∧ worst ≤ 3 * bound →
      exec (.calRunComplete b) s = .next (State.calAccept b ((worst + 1) / 2) u)) ∧
     (2 ≤ s.rd (CB_STATUS_STATE b) ∧ s.calMeasured b = true ∧ 3 * bound < worst →
      exec (.calRunComplete b) s = .next (State.calReject b ((worst + 1) / 2) u))) ∧
    (s.rd (CB_STATUS_STATE b) = 0 → exec (.calDeadlineExpire b) s = .next s) ∧
    (let u := (s.updCal b fun x => { x with defers := x.defers + 1 }).tally (CB_DEFER_TALLY_COUNT b)
     s.rd (CB_STATUS_STATE b) ≠ 0 → exec (.calDeadlineExpire b) s = .next (u.raise (788 + b) (u.cal b).defers)) ∧
    exec .calLoad s = .next ((List.range setWords).foldl (fun s i => s.ww (CAL_STAGE i) (s.rw (CAL_SET i))) s) ∧
    exec .calFactory s = .next ((List.range setWords).foldl (fun s i => s.ww (CAL_STAGE i) (Config.factoryWord i)) s) ∧
    exec (.calOverride blocks) s = .next (if s.stagingOk then State.extendSet (State.calPending
        (((List.range 4).filter blocks.testBit).foldl (fun s b => State.calTake b ((State.wr ((State.blockWords b).foldl
          (fun s i => s.ww (CAL_SET i) (s.rw (CAL_STAGE i))) s) (CB_STATUS_USER b) 1).wr ⟨CAL_SET 3, b, b⟩ 1)) s))
      else s.wr CAL_STATUS_OVR_REFUSED 1) ∧
    (s.calFlash.write ≠ none → exec .calSave s = .next s) ∧
    (s.calFlash.write = none → ∃ t, exec .calSave s = .next t ∧ t.rd CAL_STATUS_NV_BUSY = 1 ∧ t.calFlash.write ≠ none
      ∧ t.calFlash.last = some s.now ∧ t.calFlash.held = s.unseated ∧ t.tb = s.tb ∧ t.fab.mem = s.fab.mem) ∧
    (s.calFlash.write = none ∨ s.rd SH_STATUS_STATE ≠ 1 ∨ s.calFlash.held = true → exec (.calNvSaveComplete ok) s = .next s) ∧
    (∀ copy gen bytes, s.calFlash.write = some (copy, gen, bytes) ∧ s.rd SH_STATUS_STATE = 1 ∧ s.calFlash.held = false →
      let f := s.calFlash
      let u := fun l => State.wr { s with calFlash :=
        if copy = 0 then { f with copy0 := State.addSlot f.copy0 l, write := none }
        else { f with copy1 := State.addSlot f.copy1 l, write := none } } CAL_STATUS_NV_BUSY 0
      exec (.calNvSaveComplete true) s = .next (((u bytes).wr CAL_STATUS_COPY copy).raise 796 gen) ∧
      exec (.calNvSaveComplete false) s = .next (((((u []).tally CAL_NV_FAIL_TALLY_COUNT).raise 797 0).tally
        SH_FLASH_FAIL_TALLY_COUNT).raise 870 (0x180 + copy)))

/-- What arrives on a path, and what a flow sends (R356, R439, R440, R441, R443, R444, R445, R447, R448, R449,
R450, R459). Everything received counts. The active path answers an ARP or echo request for an address of its own,
at once where its gate is open, else when the gate opens. A PAUSE holds the path for its quanta. A neighbour's
answer fills a table entry where the resolution was asked for; a dynamic entry ages out, a static one stays. A
request is queued, or refused by code; a freeze datagram that is enabled and allowed reaches the groups of its mask
at the time it carries or of its arrival; a control datagram is not accepted, refused or carried out, and answered
with its status. What a path that is not active receives of these it drops. A flow with nothing to send, or before
its gate and pacing, sends nothing; else its next datagram leaves once its destination is resolved. A destination
not resolved in time costs the flow that datagram. RESTART writes NF_CTRL again with bit 30 set. Precision-time
messages leave on the active path at their interval; a management GET is answered and a SET refused. -/
def Obligations.NetworkTraffic : Prop :=
  ∀ (k i f stream first count port groups mac quanta op off tag d kind id : Nat) (v6 useT set : Bool) (addr : List Nat)
    (data : List Byte) (value : Word) (time : Time) (s : State),
    let a : NetAddr := ⟨v6, addr⟩
    let v := s.tally (NPP_RX_TALLY_COUNT k)
    let active := v.rd (NPP_STATUS_ROLE k) = 5
    let dropped := v.tally (NPP_RX_DROP_TALLY_COUNT k)
    let refused := v.tally NP_REFUSED_TALLY_COUNT
    let send := fun (j : Nat) (e : Emit) (t : State) =>
      if t.gateOpen j then (t.emit e).tally (NPP_TX_TALLY_COUNT j)
      else t.updPath j fun x => { x with waiting := x.waiting ++ [e] }
    exec (.arpRequest k v6 addr) s = .next (if active ∧ v.ownAddrs.contains a then
      send k (.netFrame k 0 (addr.flatMap (leBytes 4) ++ leBytes 6 (v.rdWide NP_MAC 2))) v else v) ∧
    exec (.icmpEchoRequest k v6 addr data) s = .next (if active ∧ v.ownAddrs.contains a then
      send k (.netFrame k 1 data) v else v) ∧
    exec (.pauseFrame k quanta) s = .next ((v.tally (NPP_PAUSE_TALLY_COUNT k)).updPath k fun x =>
      { x with paused := (v.tally (NPP_PAUSE_TALLY_COUNT k)).now + 33554432 * quanta / 100 }) ∧
    (¬ active ∨ v.net.resolving.contains a = false → exec (.neighborReply k v6 addr mac) s = .next v) ∧
    (∀ e, let u := v.updNet fun n =>
        { n with resolving := n.resolving.filter (· != a), reported := n.reported.filter (· != a) }
      active ∧ v.net.resolving.contains a = true ∧ u.nbPlace = some e → exec (.neighborReply k v6 addr mac) s = .next
        (State.nbTouch e (State.wrWide ((List.range 4).foldl (fun (t : State) j => t.wr (NB_IP_ADDRESS e j) (addr.getD j 0))
          (u.ww (NB_CTRL e) (BitVec.ofNat 32 (2 ^ 31 + if v6 then 2 ^ 28 else 0)))) (NB_MAC e) 2 mac))) ∧
    exec (.neighborAgeOut i) s = .next (if s.rd (NB_CTRL_VALID i) = 1 ∧ s.rd (NB_CTRL_STATIC i) = 0 then
      s.wr (NB_CTRL_VALID i) 0 else s) ∧
    exec (.datagramDiscard k) s = .next dropped ∧
    exec (.frameTransportRequest k stream first count v6 addr port) s = .next (if ¬ active then dropped else
      match v.serves stream with
      | none => State.refuseRequest k none ⟨0, stream, first, count, a, port⟩ 5 v
      | some g =>
        let q : NetRequest := ⟨g, stream, first, count, a, port⟩
        if v.rd NP_CTRL_SERVE_OPEN = 0 ∧ a ≠ (v.flowDest g).1 then State.refuseRequest k (some g) q 4 v
        else if (v.path k).requests.length ≥ 16 then State.refuseRequest k (some g) q 3 v
        else v.updPath k fun x => { x with requests := x.requests ++ [q] }) ∧
    exec (.networkFreeze k v6 addr groups useT time) s = .next (if ¬ active then dropped
      else if v.rd NP_CTRL_FREEZE_EN = 1 ∧ v.allowed a then
        (List.range 16).foldl (fun (t : State) g =>
          if groups.testBit g then State.freezeAt g (if useT then time else v.now) 7 t else t) (v.raise (800 + 16 * k + 11) groups)
      else refused) ∧
    exec (.remoteControl k v6 addr port op off value tag) s = .next (if ¬ active then dropped
      else if v.rd NP_CTRL_REMOTE_EN = 0 ∨ ¬ v.allowed a then State.remoteReply k a port 2 off value tag refused
      else if (op ≠ 1 ∧ op ≠ 2) ∨ off % 4 ≠ 0 ∨ ¬ off < 0x4000000 ∨ (op = 2 ∧ State.remoteBarred off) then
        State.remoteReply k a port 1 off value tag refused
      else if op = 2 then State.remoteReply k a port 0 off value tag (State.writeWord 0 off value (v.raise (800 + 16 * k + 10) off))
      else let r := State.readWord 0 off (v.raise (800 + 16 * k + 10) off)
        State.remoteReply k a port 0 off r.1 tag r.2) ∧
    (∀ j, s.activePath = some j →
      (s.flowTarget j f = none → exec (.flowDatagramSend f) s = .next s ∧ exec (.neighborResolveTimeout f) s = .next s) ∧
      (∀ t, s.flowTarget j f = some t →
        (s.gateOpen j = false ∨ s.flowPaced f = false → exec (.flowDatagramSend f) s = .next s) ∧
        (s.gateOpen j = true ∧ s.flowPaced f = true → exec (.flowDatagramSend f) s
          = .next (match (s.resolve j t.1).1 with
            | none => (s.resolve j t.1).2
            | some m => ((s.resolve j t.1).2.flowNext f ⟨j, t.1, t.2, some m⟩).handbackStep)) ∧
        exec (.neighborResolveTimeout f) s = .next (if ¬ s.net.resolving.contains (s.nextHop t.1) then s else
          let u := State.flowNext f ⟨j, t.1, t.2, none⟩
            (s.updNet fun n => { n with resolving := n.resolving.filter (· != s.nextHop t.1) })
          if s.net.reported.contains (s.nextHop t.1) then u else
            let w := u.updNet fun n => { n with reported := n.reported ++ [s.nextHop t.1] }
            w.raise (800 + 16 * j + 12) u.nbIndex))) ∧
    (s.activePath = none → exec (.flowDatagramSend f) s = .next s ∧ exec (.neighborResolveTimeout f) s = .next s) ∧
    exec (.flowRestart f) s = .next (State.flowCtrlWrite 0 f (s.rw (NF_CTRL f) ||| 0x40000000#32) s) ∧
    (∀ j, s.activePath = some j →
      (let due := s.rd (TD_PTP_CFG_ROLE d) ≠ 0
          ∧ (if kind = 1 then (s.servo d).master.isSome else s.rd (TD_STATUS_STATE d) = 5)
        let l := tget (fun _ => [0, 0, 0]) s.net.ptpSeq d
        let u := s.updNet fun n =>
          { n with ptpSeq := tset (fun _ => [0, 0, 0]) n.ptpSeq d (l.set kind ((l.getD kind 0 + 1) % 65536)) }
        exec (.ptpMessageTransmit d kind) s = .next (if due then State.ptpSend kind d (leBytes 2 (l.getD kind 0)
          ++ timeBytes (s.counterTime d) ++ if kind = 2 then (s.ownDataset d).flatMap (leBytes 8) else []) u else s)) ∧
      (s.rd (TD_PTP_CFG_ROLE d) ≠ 0 ∧ (set = true ∨ 3 < id) → exec (.ptpManagementGet d id set) s
        = .next (send j (.netFrame j 3 (leBytes 1 14 ++ leBytes 1 (s.rd (TD_PTP_CFG_DOMAIN d)) ++ (leBytes 1 id ++ [0xFF#8]))) s)) ∧
      (s.rd (TD_PTP_CFG_ROLE d) ≠ 0 ∧ set = false ∧ id = 3 → exec (.ptpManagementGet d id set) s
        = .next (send j (.netFrame j 3 (leBytes 1 13 ++ leBytes 1 (s.rd (TD_PTP_CFG_DOMAIN d)) ++ (leBytes 1 3
          ++ [s.rd TB_STATUS_REF_LOCK, s.rd TB_STATUS_PPS_LOCK].flatMap (leBytes 8)))) s)) ∧
      (s.rd (TD_PTP_CFG_ROLE d) ≠ 0 ∧ set = false ∧ id = 0 → exec (.ptpManagementGet d id set) s
        = .next (send j (.netFrame j 3 (leBytes 1 13 ++ leBytes 1 (s.rd (TD_PTP_CFG_DOMAIN d)) ++ (leBytes 1 0
          ++ (s.ownDataset d ++ [s.rd (TD_PTP_CFG_DOMAIN d), s.rd (TD_PTP_CFG_ROLE d)]).flatMap (leBytes 8)))) s))) ∧
    (s.activePath = none ∨ s.rd (TD_PTP_CFG_ROLE d) = 0 →
      exec (.ptpMessageTransmit d kind) s = .next s ∧ exec (.ptpManagementGet d id set) s = .next s)

/-- The crook, a path's health, and the mirror link (R451, R452, R453, R454, R455, R456, R457, R458, R459, R460). A
holder pulses; its pulse's return opens its gate and lets waiting frames go. Silence moves a healthy path in
Syncing or Standby that has heard no pulse of the other to Probing, and drives its probe. A probe that returns
seizes the crook; one that does not is a loop fault. A holder that misses its own pulses lets the crook go with a
loop fault. Contention counts, is shown and raised on both paths, and stops both. A transmitter's fault is raised
once and takes the path's health; loss of lock too, counted and raised; lock comes with the module in use and the
path's power. A snapshot advances the epoch, stores and sends it. A copy that arrives damaged, or at a holder, or
where none is on its way, installs nothing; a path in Syncing or the next in order in Standby installs it. A
standby not yet stale is marked stale, counted and raised. A handback begins on request, or with REVERT and a
healthy NP0, only from the active path to a standby that is not stale. -/
def Obligations.CrookAndMirror : Prop :=
  ∀ (k : Nat) (back ok : Bool) (s : State),
    let role := s.rd (NPP_STATUS_ROLE k)
    let holder := s.holds k = true
    let u := s.emit (.crook k)
    let fault := fun (t : State) => (t.wr NP_STATUS_LOOP_FAULT 1).raise (800 + 16 * k + 7) 2
    exec (.crookPulse k back) s = .next (if ¬ holder then s else if back then
      State.netFlush k (u.updPath k fun x => { x with returned := some u.now }) else u) ∧
    (let heard := s.holds (1 - k) = true ∧ ∃ t, (s.path (1 - k)).returned = some t ∧ s.now < t + Time.ofUs 50
     ((role = 2 ∨ role = 3) ∧ s.healthyNow k = true ∧ ¬ heard → exec (.crookSilence k) s
        = .next (State.emit ((s.wr (NPP_STATUS_ROLE k) 4).raise (800 + 16 * k) 4) (.crook k))) ∧
     (¬ ((role = 2 ∨ role = 3) ∧ s.healthyNow k = true ∧ ¬ heard) → exec (.crookSilence k) s = .next s)) ∧
    exec (.crookProbeReturn k back) s = .next (if role ≠ 4 then s else if back then State.seize k s
      else State.setRole k (if (s.path k).fresh then 2 else 3) (fault s)) ∧
    exec (.crookLoopCheckFail k) s = .next (if holder then State.setRole k 3 (fault (State.letGo k 0 s)) else s) ∧
    exec (.crookContention k) s = .next (if ¬ holder then s else
      let v := (((s.tally NP_CONTEND_TALLY_COUNT).wr NP_STATUS_CONTEND 1).raise 807 1).raise 823 1
      let stop := fun (j : Nat) (t : State) => if t.holds j = true then
        State.setRole j 3 ((State.letGo j 0 t).updPath j fun x => { x with listen := true }) else t
      stop 1 (stop 0 v)) ∧
    exec (.pathHealthLoss k true) s = .next (if (s.path k).txFault then s else
      State.pathFollow k (State.raise (s.updPath k fun x => { x with txFault := true }) (800 + 16 * k + 14) 0)) ∧
    (let v := ((s.updPath k fun x => { x with locked := false }).wr (NPP_STATUS_LINK k) 0).wr
        (NPP_STATUS_FEC_LOCK k) 0
     exec (.pathHealthLoss k false) s = .next (State.pathFollow k (if s.rd (NPP_STATUS_LINK k) = 1 then
        (v.tally (NPP_LINK_DOWN_TALLY_COUNT k)).raise (800 + 16 * k + 6) 0 else v))) ∧
    (let v := ((s.updPath k fun x => { x with locked := true, txFault := false }).wr (NPP_STATUS_LINK k) 1)
     let w := v.wr (NPP_STATUS_FEC_LOCK k) (if s.rd (NPP_CFG_FEC k) = 1 then 1 else 0)
     exec (.networkPathLinkUp k) s = .next (if s.pathOn k = true ∧ (s.path k).ready = true then
        State.pathFollow k (if s.rd (NPP_STATUS_LINK k) = 0 then w.raise (800 + 16 * k + 6) 1 else w) else s)) ∧
    (s.activePath = none ∧ s.net.handback = none → exec .epochSnapshot s = .next s) ∧
    (∀ j, s.activePath = some j →
      let v := s.runTo (65536 * max s.now (Time.ofMs s.net.nextMs))
      let w := State.handbackStep (v.updNet fun n => { n with nextMs := v.now / Time.ofMs 1 + 1 })
      exec .epochSnapshot s = .next (if w.roleOf j = 5 then State.snapshot j w else w)) ∧
    (s.net.flight = none → exec (.epochReceived k ok) s = .next s) ∧
    (∀ e, s.net.flight = some e →
      let v := s.updNet fun n => { n with flight := none }
      let next := (v.path k).epoch.map fun y => (y.number + 1) % 2 ^ 32
      (ok = false ∨ v.holds k = true → exec (.epochReceived k ok) s = .next v) ∧
      (ok = true ∧ v.holds k = false ∧ v.roleOf k ≠ 2 ∧ ¬ (v.roleOf k = 3 ∧ next = some e.number) →
        exec (.epochReceived k ok) s = .next v) ∧
      (ok = true ∧ v.roleOf k = 3 ∧ next = some e.number ∧ v.net.handback = none →
        (State.install k e v).net.handback = none → exec (.epochReceived k ok) s = .next (State.install k e v)) ∧
      (ok = true ∧ v.roleOf k = 2 ∧ (State.syncEpoch k e v).net.handback = none →
        exec (.epochReceived k ok) s = .next (State.syncEpoch k e v))) ∧
    exec (.mirrorStale k) s = .next (if role = 3 ∧ s.rd (NPP_STATUS_MIRROR_STALE k) = 0 then
      State.handbackOff (((s.wr (NPP_STATUS_MIRROR_STALE k) 1).tally NP_STALE_TALLY_COUNT).raise (800 + 16 * k + 4) 1)
      else s) ∧
    (let hand := fun (j : Nat) => if s.roleOf j = 5 ∧ s.roleOf (1 - j) = 3 ∧ s.rd (NPP_STATUS_MIRROR_STALE (1 - j)) = 0
        ∧ s.net.handback.isNone = true then
        State.handbackStep (s.updNet fun n => { n with handback := some { from_ := j, deadline := s.now + Time.ofMs 100 } })
        else s
     exec .revertHoldoffExpire s = .next (if s.rd NP_CTRL_REVERT = 1 ∧ s.healthyNow 0 then hand 1 else s) ∧
     (s.activePath = none → exec .crookRelease s = .next s) ∧
     (∀ j, s.activePath = some j → exec .crookRelease s = .next (hand j)))

/-- SPDM, MCTP and discovery (R332, R469, R470, R471). With the firmware running, each SPDM request is answered on
the transport it came by: version 1.2, the capabilities and algorithms, the digest of the chain, the part of the
chain asked for, a signed challenge response, and the measurement blocks asked for, signed where a signature is
asked. A slot other than 0 and a block that does not exist are invalid requests; a code that is not supported is
answered so. Until then any of them is answered with ResponseNotReady and kept under a token, which
RESPOND_IF_READY takes up. MCTP answers its control requests; a set endpoint ID is the one it holds from then on.
Discovery lists the three object protocols in turn. A response on the data object exchange raises its event. Codes
and layouts are those of SPDM 1.2 (log entry 45). -/
def Obligations.SpdmAndMctp : Prop :=
  ∀ (smbus sign : Bool) (slot off len op code token eid index : Nat) (nonce : List Byte) (s : State),
    let tr := if smbus then 1 else 0
    let answer := fun (v c p1 p2 : Nat) (body : List Byte) (t : State) =>
      let u := t.emit (.reply (1 + tr) (leBytes 1 v ++ leBytes 1 c ++ leBytes 1 p1 ++ leBytes 1 p2 ++ body))
      if tr = 0 then u.raise 839 0 else u
    let later := fun (r : SpdmRequest) => answer 0x12 0x7F 0x42 0
      (leBytes 1 0 ++ leBytes 1 (State.spdmCode r) ++ leBytes 1 ((s.shep.token + 1) % 256) ++ leBytes 1 0)
      (State.setDeferred tr (some r) (s.updShep fun x => { x with token := (s.shep.token + 1) % 256 }))
    let signed := fun (c p1 p2 : Nat) (body : List Byte) =>
      (answer 0x12 c p1 p2 (body ++ leBytes 32 (Config.nonce s.draw.1).toNat ++ leBytes 96 (Config.signature s.draw.1).toNat)
        s.draw.2).raise 869 tr
    let runs := s.shepherdRuns = true
    exec (.spdmGetVersion smbus) s = .next (if runs then
      answer 0x10 0x04 0 0 (leBytes 1 0 ++ leBytes 1 1 ++ leBytes 2 0x1200) s else later .version) ∧
    exec (.spdmGetCapabilities smbus) s = .next (if runs then
      answer 0x12 0x61 0 0 (leBytes 1 0 ++ leBytes 1 16 ++ leBytes 2 0 ++ leBytes 4 0x16 ++ leBytes 8 Config.spdmSizes.toNat) s
      else later .capabilities) ∧
    exec (.spdmNegotiateAlgorithms smbus) s = .next (if runs then
      answer 0x12 0x63 0 0 (leBytes 2 36 ++ leBytes 1 1 ++ leBytes 1 0 ++ leBytes 4 4 ++ leBytes 4 0x80 ++ leBytes 4 2
        ++ leBytes 16 0) s else later .algorithms) ∧
    exec (.spdmGetDigests smbus) s = .next (if runs then answer 0x12 0x01 0 1 (sha384 Config.certificates) s
      else later .digests) ∧
    (let part := (Config.certificates.drop off).take len
     exec (.spdmGetCertificate smbus slot off len) s = .next (if ¬ runs then later (.certificate slot off len)
      else if slot ≠ 0 then answer 0x12 0x7F 1 0 [] s
      else answer 0x12 0x02 0 0
        (leBytes 2 part.length ++ leBytes 2 (Config.certificates.length - off - part.length) ++ part) s)) ∧
    exec (.spdmChallenge smbus slot nonce) s = .next (if ¬ runs then later (.challenge slot nonce)
      else if slot ≠ 0 then answer 0x12 0x7F 1 0 [] s else signed 0x03 0 1 (sha384 Config.certificates)) ∧
    (let blocks := if op = 0xFF then [1, 2, 3, 4, 5, 6] else if 1 ≤ op ∧ op ≤ 6 then [op] else []
     let measured := blocks.flatMap s.measBlock
     let body := leBytes 1 blocks.length ++ leBytes 3 measured.length ++ measured
     let p1 := if op = 0 then 6 else 0
     exec (.spdmGetMeasurements smbus op sign nonce) s = .next (if ¬ runs then later (.measurements op sign nonce)
      else if blocks.isEmpty = true ∧ op ≠ 0 then answer 0x12 0x7F 1 0 [] s
      else if sign then signed 0x60 p1 0 body
      else answer 0x12 0x60 p1 0 (body ++ leBytes 32 (Config.nonce s.draw.1).toNat ++ leBytes 2 0) s.draw.2)) ∧
    (s.deferredOf tr = none → exec (.spdmRespondIfReady smbus code token) s = .next (answer 0x12 0x7F 4 0 [] s)) ∧
    (∀ q, s.deferredOf tr = some q → exec (.spdmRespondIfReady smbus code token) s
      = .next (if State.spdmCode q ≠ code ∨ s.shep.token ≠ token then answer 0x12 0x7F 1 0 [] s
        else if runs then State.spdmServe tr q (State.setDeferred tr none s) else later q)) ∧
    exec (.spdmUnsupportedRequest smbus code) s = .next (if spdmSupported.contains code = true then s
      else if runs then answer 0x12 0x7F 7 code [] s else later (.other code)) ∧
    exec (.mctpSetEndpointId eid) s = .next ((s.updShep fun x => { x with eid := eid }).emit
      (.reply 3 (leBytes 1 1 ++ leBytes 1 0 ++ (leBytes 1 0 ++ leBytes 1 eid ++ leBytes 1 0)))) ∧
    exec .mctpGetEndpointId s = .next (s.emit
      (.reply 3 (leBytes 1 2 ++ leBytes 1 0 ++ (leBytes 1 s.shep.eid ++ leBytes 1 0 ++ leBytes 1 0)))) ∧
    exec .mctpGetVersionSupport s = .next (s.emit
      (.reply 3 (leBytes 1 4 ++ leBytes 1 0 ++ (leBytes 1 1 ++ [0xF1#8, 0xF3#8, 0xF0#8, 0x00#8])))) ∧
    exec .mctpGetMessageTypeSupport s = .next (s.emit
      (.reply 3 (leBytes 1 5 ++ leBytes 1 0 ++ (leBytes 1 1 ++ leBytes 1 5)))) ∧
    (let protocol := if index = 0 then [0x01#8, 0x00#8, 0x00#8, 0x01#8] else if index = 1 then [0x01#8, 0x00#8, 0x01#8, 0x02#8]
      else if index = 2 then [0x3C#8, 0x1F#8, 0x01#8, 0x00#8] else [0xFF#8, 0xFF#8, 0xFF#8, 0x00#8]
     exec (.doeDiscovery index) s
      = .next ((s.emit (.reply 0 ([0x01#8, 0x00#8, 0x00#8, 0x00#8] ++ leBytes 4 3 ++ protocol))).raise 839 0))

/-- Uploads and the shepherd's mailbox (R42, R333, R463, R465, R466, R472, R477, R478). A mailbox command while
BUSY changes nothing; any other writes its registers and is served at once where the shepherd runs, or in Recovery
where Recovery serves it, else waits. BEGIN opens an upload of an admitted length unless another transport or kind
has one open; DATA appends at the offset reached, in words, within the total; END turns a complete image into the
image in RAM with its event, unless an activation uses it; ABORT drops the upload; QUERY answers the bytes
received. Each answers its STATUS and progress in the mailbox registers or as a data object, which waits while the
shepherd does not run. An unknown OP is answered 4. The end of a complete firmware upload writes the slot not
running, with its event, or leaves it invalid and answers 5. RESTART is refused during an activation and starts the
firmware anew otherwise; a log entry is copied to the data registers. Where no rule gives the progress word it is a
free value. -/
def Obligations.UploadsAndMailbox : Prop :=
  ∀ (total offset op entry : Nat) (data : List Byte) (fail : Bool) (s : State),
    let staged := fun (o arg : Nat) (l : List Byte) =>
      let a := (s.wr SH_MB_ARG_ARG arg).wr SH_MB_LEN_BYTES (min l.length 4096)
      let b := (List.range ((min l.length 4096 + 3) / 4)).foldl (fun (t : State) i =>
        t.ww (SH_MB_DATA i) (BitVec.ofNat 32 (leNat ((l.drop (4 * i)).take 4)))) a
      (State.putWord 0 SH_MB_CMD (BitVec.ofNat 32 (2 ^ 31 + o)) b).wr SH_MB_CMD_BUSY 1
    let answered := fun (r : Nat × Nat × State) => (((r.2.2.updShep fun x => { x with mailbox := none }).wr
      SH_MB_CMD_STATUS r.1).wr SH_MB_CMD_BUSY 0).wr SH_MB_REPLY_PROGRESS r.2.1
    let freed := fun (status : Nat) (t : State) => answered (status, (Config.mailboxProgress t.draw.1).toNat, t.draw.2)
    let mailed := fun (o arg : Nat) (l : List Byte) (serve : State → State) =>
      if s.rd SH_MB_CMD_BUSY = 1 then s else
        let t := staged o arg l
        if t.shepherdRuns = true ∨ t.rd SH_STATUS_STATE = 3 then serve t
        else t.updShep fun x => { x with mailbox := some o }
    let running := fun (serve : State → State) (t : State) =>
      if t.rd SH_STATUS_STATE = 3 then answered (4, 0, t) else serve t
    let object := fun (o arg : Nat) (l : List Byte) (r : Nat × Nat × State) =>
      if s.shepherdRuns = true then
        (r.2.2.emit (.reply 0 ([0x3C#8, 0x1F#8, 0x01#8, 0x00#8] ++ leBytes 4 4
          ++ (leBytes 1 (o ||| 0x80) ++ leBytes 3 r.1 ++ leBytes 4 r.2.1)))).raise 839 0
      else s.updShep fun x => { x with objects := x.objects ++ [(o, arg, l)] }
    let got := fun (u : Option Upload) => (u.map fun v => v.bytes.length).getD 0
    let begun := fun (tr : Transport) (fw : Bool) (n : Nat) (t : State) =>
      let mine := t.uploadOf tr fw
      if t.struct.upload.isSome = true ∧ mine.isNone = true then (3, got mine, t)
      else if ¬ State.uploadTotalOk fw n = true then (2, got mine, t)
      else (0, 0, State.setUpload (some ⟨tr, fw, n, []⟩) t)
    let appended := fun (tr : Transport) (fw : Bool) (off : Nat) (l : List Byte) (t : State) =>
      match t.uploadOf tr fw with
      | none => (t.noUpload tr, 0, t)
      | some u =>
        if off ≠ u.bytes.length then (1, u.bytes.length, t)
        else if l.length < 4 ∨ l.length > 65536 ∨ l.length % 4 ≠ 0 ∨ u.bytes.length + l.length > u.total then
          (2, u.bytes.length, t)
        else (0, u.bytes.length + l.length, State.setUpload (some { u with bytes := u.bytes ++ l }) t)
    let ended := fun (tr : Transport) (t : State) =>
      match t.uploadOf tr false with
      | none => (t.noUpload tr, 0, t)
      | some u =>
        if u.bytes.length ≠ u.total then (1, u.bytes.length, t)
        else if t.uploadInUse = true then (3, u.bytes.length, t)
        else (0, u.total, (State.setUploaded u.bytes (State.setUpload none t)).raise 840 0)
    let aborted := fun (tr : Transport) (fw : Bool) (t : State) =>
      match t.uploadOf tr fw with
      | none => (t.noUpload tr, 0, t)
      | some _ => (0, 0, State.setUpload none t)
    let queried := fun (tr : Transport) (t : State) => (0, got (t.uploadOf tr false), t)
    let complete := fun (t : State) =>
      match t.uploadOf .mailbox true with
      | none => answered (t.noUpload .mailbox, 0, t)
      | some u => if u.bytes.length ≠ u.total then answered (1, u.bytes.length, t)
        else t.updShep fun x => { x with mailbox := some 0x12 }
    exec (.uploadBegin true total) s = .next (mailed 1 total [] (running fun t =>
      answered (begun .mailbox false (t.rd SH_MB_ARG_ARG) t))) ∧
    exec (.uploadBegin false total) s = .next (object 1 total [] (begun .doe false total s)) ∧
    exec (.uploadData true offset data) s = .next (mailed 2 offset data (running fun t =>
      answered (appended .mailbox false (t.rd SH_MB_ARG_ARG) t.mailboxBytes t))) ∧
    exec (.uploadData false offset data) s = .next (object 2 offset data (appended .doe false offset data s)) ∧
    exec (.uploadEnd true) s = .next (mailed 3 0 [] (running fun t => answered (ended .mailbox t))) ∧
    exec (.uploadEnd false) s = .next (object 3 0 [] (ended .doe s)) ∧
    exec (.uploadAbort true) s = .next (mailed 4 0 [] (running fun t => answered (aborted .mailbox false t))) ∧
    exec (.uploadAbort false) s = .next (object 4 0 [] (aborted .doe false s)) ∧
    exec (.uploadQuery true) s = .next (mailed 5 0 [] (running fun t => answered (queried .mailbox t))) ∧
    exec (.uploadQuery false) s = .next (object 5 0 [] (queried .doe s)) ∧
    (op = 0 ∨ 5 < op → exec (.uploadUnknownOp false op) s = .next (object op 0 [] (4, 0, s))) ∧
    (op < 256 ∧ (op = 0 ∨ 5 < op) ∧ (op < 0x10 ∨ 0x14 < op) ∧ op ≠ 0x20 →
      exec (.uploadUnknownOp true op) s = .next (mailed op 0 [] fun t => answered (4, 0, t))) ∧
    exec (.firmwareBegin total) s = .next (mailed 0x10 total [] fun t =>
      answered (begun .mailbox true (t.rd SH_MB_ARG_ARG) t)) ∧
    exec (.firmwareData offset data) s = .next (mailed 0x11 offset data fun t =>
      answered (appended .mailbox true (t.rd SH_MB_ARG_ARG) t.mailboxBytes t)) ∧
    exec .firmwareAbort s = .next (mailed 0x14 0 [] fun t => answered (aborted .mailbox true t)) ∧
    (let v := mailed 0x12 0 [] complete
     exec (.firmwareEnd fail) s = .next (if v.shep.mailbox ≠ some 0x12 ∨ v.unseated = true
         ∨ ¬ (v.shepherdRuns = true ∨ v.rd SH_STATUS_STATE = 3) then v
       else match v.uploadOf .mailbox true with
       | none => v
       | some u =>
         let slot := 1 - v.rd SH_STATUS_FW_SLOT
         let put := fun (l : List Byte) => (State.setUpload none v).updShep fun x =>
           if slot = 0 then { x with fwA := { raw := l } } else { x with fwB := { raw := l } }
         if fail then answered (5, u.total, State.flashFail (if slot = 0 then 0x80 else 0x100) (put []))
         else (answered (0, u.total, put u.bytes)).raise 871 (leNat ((u.bytes.drop 8).take 4)))) ∧
    exec .shepherdRestart s = .next (mailed 0x13 0 [] fun t =>
      if t.struct.stage.active = true ∨ t.struct.rollbackDue.isSome = true then freed 6 t
      else freed 0 ((State.startFirmware (State.cutActivation t)).raise 872 0)) ∧
    exec (.readLogEntry entry) s = .next (mailed 0x20 entry [] (running fun t =>
      match t.shep.log[t.rd SH_MB_ARG_ARG]? with
      | none => freed 2 t
      | some e => freed 0 ((List.range 20).foldl (fun (w : State) j => w.ww (SH_MB_DATA j)
        (BitVec.ofNat 32 (leNat (((logBytes (t.rd SH_MB_ARG_ARG) e).drop (4 * j)).take 4)))) t)))

/-- Boot, watchdog, temperatures and the health log (R464, R465, R467, R472, R473, R474, R475, R476, R477, R491,
R501). The shepherd boots only out of reset, with 12 V and no trip: the ROM is measured, firmware chosen, measured
and started, or Recovery entered; started firmware measures its identity, loads the health log, counts the boot,
loads the coefficients, shows the slots, resumes a rollback or selects a boot image, and serves what has waited.
The watchdog counts and starts the firmware anew where it runs. A sample sets the readings and their maxima, moves
each fold's step, counts throttled time and warns; the second sample in a row with a sensor at 115 °C trips, and
after a trip a released reset ends once every sensor reads below 95 °C. Each minute the lifetime tallies are
appended to the log, a sector erased first where one begins; the sixtieth counts an hour; a write that fails
appends nothing and is reported. -/
def Obligations.SupervisionOfTheModule : Prop :=
  ∀ (temps : List Nat) (fail : Bool) (s : State),
    exec .shepherdBoot s = .next (if s.rd SH_STATUS_STATE ≠ 0 ∨ ¬ s.power.v12 ∨ s.power.inReset ∨ s.power.tripped then s else
      let u := State.extend 0 (digestBytes Config.romDigest) ((s.milestone 0).milestone 2)
      let v := State.milestone (match firmwareChoice u with
        | some (slot, seq, digest) =>
          ((State.extend 1 digest (u.wr SH_STATUS_FW_SLOT slot)).wr SH_FW_SEQ_SEQ seq).wr SH_STATUS_STATE 1
        | none => ((State.extend 1 (List.replicate 48 0) u).wr SH_STATUS_STATE 3).raise 873 0) 1
      if v.shepherdRuns = true then
        let a := (State.healthLoad (State.extend 5 (sha384 Config.identity) v)).tally SH_BOOTS_COUNT
        let b := (List.range 4).foldl (fun (t : State) n => State.calDue n false t) (State.extendSet (State.calLoadBoot a))
        let c := State.showSlot 1 (State.showSlot 0 b)
        State.serveAll (match c.struct.rollbackDue, c.struct.prior with
          | some _, some p => State.extend 2 p.2.digest c
          | _, _ => State.bootSelect c)
      else State.serveAll v) ∧
    exec .watchdogExpire s = .next (if s.shepherdRuns = true then
      State.serveAll ((State.startFirmware (State.cutActivation (s.tally SH_WDOG_TALLY_COUNT))).raise 872 1) else s) ∧
    (let raw := temps.take 12
     let t := raw.map (signed 16)
     let u := raw.zipIdx.foldl (fun (t : State) x =>
       let w := t.wr (SH_TEMP_NOW x.2) x.1
       if signed 16 (w.rd (SH_TH_MAX_MAX x.2)) < signed 16 x.1 then w.wr (SH_TH_MAX_MAX x.2) x.1 else w) s
     let v := State.thermalWarn t (State.throttleMs (State.stepJoin
       ((List.range 8).foldl (fun (w : State) f => State.stepFold t f w) u)))
     let hot := (List.range t.length).filter fun i => 16 * 115 ≤ t.getD i 0
     let again := hot.any v.shep.hot.contains
     let w := v.updShep fun x => { x with hot := hot }
     exec (.thermalSample temps) s = .next (if again = true ∧ ¬ w.power.tripped then State.trip w
       else if w.power.released ∧ ¬ w.stillHot = true then State.startUp w.power.lastLine w else w)) ∧
    (let n := s.shep.minutes + 1
     let u := s.updShep fun x => { x with minutes := n % 60 }
     let v := if n = 60 then u.tally SH_HOURS_COUNT else u
     let place := v.shep.healthNext
     let kept := if place % 512 = 0 then v.shep.health.filter fun e => e.1 < place || place + 512 ≤ e.1 else v.shep.health
     let entry : HealthEntry := ⟨((v.healthBest.map (·.seq)).getD 0 + 1) % 2 ^ 32, State.healthKeys.map v.rw⟩
     let w := v.updShep fun x =>
       { x with
         health := if fail then kept else tset (fun _ => none) kept place (some entry)
         healthNext := (place + 1) % 8192 }
     exec (.healthLogWrite fail) s = .next (if ¬ s.shepherdRuns = true ∨ s.unseated = true then s
       else if fail then (w.tally SH_FLASH_FAIL_TALLY_COUNT).raise 870 (0x185 + place / 512) else w))

/-- Supplies, resets and live plugging (R65, R323, R331, R475, R482, R483, R484, R487, R488, R489, R495, R496). 12
V that becomes good begins a cold reset: the core and the paddock start empty, flash stands, the cause and supplies
are shown. Losing 12 V, or 12 V above 14.0 V, cuts what is under way and empties core and paddock; without the
auxiliary supply the always-on domain goes too. The first line asserted cuts, idles and puts the paddock in
self-refresh; the last released, after a trip only once cool, starts the core anew with the paddock kept and the
recovery scan running. A warm reset marks itself busy, cuts an activation, idles the outputs, resets the channels
and ends post windows; reloading closes frames, resets pens, registers, views and contexts, applies presets and
starts the scan. A function-level reset of the management function ends object exchange and an image upload, cuts
an activation and resets its scope, or waits. A link that goes down counts, stops channels on the host space,
resets every capture function and then the management function. Unseating idles outputs and stops the paths;
reseating lets them go on. -/
def Obligations.SuppliesAndResets : Prop :=
  ∀ (mv line : Nat) (present hot : Bool) (s : State),
    let lost := fun (aux seated : Bool) =>
      let u := State.paddockLost (State.coreOff State.alwaysOnReg (State.cutFlash (State.cutActivation s)))
      let v : State := { u with power := { v12 := false, aux := aux, seated := seated, lost := u.power.lost } }
      let w := (v.wrIf GLB_SUPPLY_STAT_AUX_OK aux).wrIf GLB_SUPPLY_STAT_SEATED seated
      if aux then w else State.alwaysOnLost w
    let started := fun (n : Nat) (t : State) =>
      let u := State.shepherdFresh (State.coreOff State.supplyReg t)
      let v : State := { u with power := { v12 := true, aux := u.power.aux, seated := u.power.seated, lastLine := n }, scanFull := true }
      let w := (v.wr GLB_RESET_CAUSE_LAST (2 + n)).wrIf GLB_RESET_CAUSE_AFTER_TRIP t.power.tripped
      let x := ((w.wr GLB_SUPPLY_STAT_UV_WARN 0).wr GLB_SUPPLY_STAT_OV_WARN 0).wr STR_RAM_LEN_BYTES w.struct.uploaded.length
      let y := (((x.wr GLB_PWR_STATUS_PATHS 3).wr GLB_PWR_STATUS_PHY 1).wr GLB_PWR_STATUS_PADDOCK_SR 1).wr
        PD_STATUS_SELF_REFRESH 1
      (y.wr PD_STATUS_SCAN 1).milestone 3
    exec (.coldReset mv) s = .next (if s.power.v12 ∨ mv < 10900 ∨ 14000 < mv then s else
      let u := State.shepherdFresh (State.paddockLost (State.coreOff (fun _ => false) s))
      let v : State := { u with power := { v12 := true, aux := s.power.aux, seated := true, lost := false } }
      let w := ((v.wrIf GLB_SUPPLY_STAT_AUX_OK s.power.aux).wr GLB_SUPPLY_STAT_V12_OK 1).wr GLB_SUPPLY_STAT_SEATED 1
      let x := (w.wr GLB_RESET_CAUSE_LAST 1).wrIf GLB_RESET_CAUSE_AUX_HELD (!s.power.lost)
      let y := (((x.wr STR_RAM_LEN_BYTES x.struct.uploaded.length).wr GLB_PWR_STATUS_PATHS 3).wr GLB_PWR_STATUS_PHY 1).wr
        GLB_SUPPLY_V12_MV mv
      if State.supplyRange mv = 1 then (y.wr GLB_SUPPLY_STAT_UV_WARN 1).raise 912 mv
      else if State.supplyRange mv = 2 then (y.wr GLB_SUPPLY_STAT_OV_WARN 1).raise 912 mv else y) ∧
    exec .v12Loss s = .next (if s.power.v12 then lost s.power.aux s.power.seated else s) ∧
    exec .moduleRemoval s = .next (lost false false) ∧
    exec (.v12RangeChange mv) s = .next (if ¬ s.power.v12 ∨ mv < 10500 then s
      else if 14000 < mv then lost s.power.aux s.power.seated else
        let was := State.supplyRange (s.rd GLB_SUPPLY_V12_MV)
        let is_ := State.supplyRange mv
        let u := s.wr GLB_SUPPLY_V12_MV mv
        if was = is_ then u
        else (if is_ = 1 then u.wr GLB_SUPPLY_STAT_UV_WARN 1 else if is_ = 2 then u.wr GLB_SUPPLY_STAT_OV_WARN 1 else u).raise
          912 mv) ∧
    exec (.auxSupplyChange present) s = .next (if s.power.aux = present then s else
      let u := { s with power := { s.power with aux := present } }.wrIf GLB_SUPPLY_STAT_AUX_OK present
      if u.power.v12 then u.raise 913 (if present then 1 else 0) else if present then u else State.alwaysOnLost u) ∧
    exec (.moduleResetAssert line) s = .next (if ¬ s.power.v12 ∨ 1 < line ∨ s.power.lines.contains line then s else
      let u : State := { s with power := { s.power with lines := line :: s.power.lines, inReset := true, released := false } }
      let v := if line = 1 ∧ u.rd GLB_PWR_REQ_PHY_OFF_IN_RESET = 1 then u.wr GLB_PWR_STATUS_PHY 0 else u
      if !s.power.inReset then
        let w := (State.idleOutputs (State.cutFlash (State.cutActivation v))).wr SH_STATUS_STATE 0
        ({ w with strms := [], ctxs := [], folds := [] }.wr GLB_PWR_STATUS_PADDOCK_SR 1).wr PD_STATUS_SELF_REFRESH 1
      else v) ∧
    exec (.moduleResetRelease line) s = .next (if ¬ s.power.v12 ∨ 1 < line then s
      else if ¬ s.power.lines.contains line then if line = 1 ∧ ¬ s.power.inReset then s.milestone 3 else s
      else
        let u : State := { s with power := { s.power with lines := s.power.lines.filter (· != line), lastLine := line } }
        if ¬ u.power.lines.isEmpty then u
        else if u.power.tripped ∧ u.stillHot then { u with power := { u.power with released := true } }
        else started line u) ∧
    exec .warmReset s = .next (if s.rd GLB_RESET_BUSY = 1 then s else
      let u := State.idleOutputs (State.cutActivation ((s.wr GLB_RESET_BUSY 1).wr GLB_RESET_PHASE 1))
      (List.range 16).foldl (fun (t : State) g => if t.fgState g = 2 then State.clipOpen g t else t)
        (State.resetChannels 5 (fun _ => true) u)) ∧
    exec .warmResetReload s = .next (if s.rd GLB_RESET_PHASE ≠ 1 then s else
      let a := ((List.range 97).foldl (fun (t : State) st => State.closeFrame st 5 t) s).wr GLB_RESET_PHASE 2
      let b := a.listedPens.foldl (fun (t : State) p => State.penReset p t) a
      let c := State.warmRegs (State.warmCal (State.warmTime b))
      let d := (List.range 9).foldl (fun (t : State) fn => State.viewReset fn (fun _ => true) t) { c with snaps := [] }
      let e := d.homes.foldl (fun (t : State) h => State.warmContext h t) d
      let f : State := { e with strms := e.strms.map fun x => (x.1, { x.2 with egWritten := false }), firstRecord := false }
      let g := f.streams.foldl (fun (t : State) x => State.egImg x.stream t) f
      let h := match g.struct.image with
        | some im => State.presetsDone im g
        | none => g
      (h.wr GLB_RESET_PHASE 3).wr PD_STATUS_SCAN 1) ∧
    exec .mfFunctionLevelReset s = .next (
      let u := State.setDeferred 0 none (s.updShep fun x => { x with objects := [] })
      let v := match u.struct.upload with
        | some x => if x.firmware then u else State.setUpload none u
        | none => u
      let w := State.cutActivation v
      if v.rd GLB_RESET_BUSY = 1 then
        { w with flrDue := if w.flrDue.contains 0 then w.flrDue else w.flrDue ++ [0] }
      else State.functionScope 0 w) ∧
    (let a := s.tally HI_DOWN_TALLY_COUNT
     let b := if hot ∨ a.rd HI_LINK_STATUS_UP = 0 then a
       else State.hostEvent 838 (State.hostEvent 832 (a.wr HI_LINK_STATUS_UP 0))
     let c := (b.listedChannels.filter b.chBusy).foldl (fun (t : State) n =>
       if t.usesHost n then State.stopNow n 4 t else t) b
     exec (.linkDown hot) s = exec .mfFunctionLevelReset ((List.range 8).foldl (fun (t : State) i =>
       if t.scopeWaits then { t with flrDue := if t.flrDue.contains (i + 1) then t.flrDue else t.flrDue ++ [i + 1] }
       else State.functionScope (i + 1) t) c)) ∧
    exec .moduleUnseating s = .next (if ¬ s.power.v12 ∨ ¬ s.power.seated then s else
      let u := State.idleOutputs { s with power := { s.power with seated := false } }
      let v : State := { u with net := { u.net with stopped := true } }
      (v.wr GLB_SUPPLY_STAT_SEATED 0).raise 914 0) ∧
    exec .moduleReseated s = .next (if ¬ s.power.v12 ∨ s.power.seated then s else
      let u : State :=
        { s with
          power := { s.power with seated := true }
          net := { s.net with stopped := false }
          calFlash := { s.calFlash with held := false } }
      State.netFlush 1 (State.netFlush 0 (State.programBegin ((u.wr GLB_SUPPLY_STAT_SEATED 1).raise 914 1))))

/-- Power domains on request, and the modules in the cages (R113, R482, R484, R485, R486, R497, R498, R499, R503).
A request writes the domain's bit; each bit that moves is a request, which waits while another of its domain runs.
A power-down of a domain that is on is refused with its reason, or begins: its channels are told to stop, or its
cage's ports and lanes go off and its rail down. When it is complete the domain is off, with its event, and the
next request of the domain begins; a path's only once its channels have stopped. A domain that comes up is shown
and raised; then its lanes start, a fold's context store is empty, a path follows its health, and a cage's ports
restart. An inserted module is shown and raised once, and ends Rest; a ready one shows kind and class, and has high
power unless refused; a removed one and a rail fault take the rail away and silence the lanes, and a fault holds
until MODPWR is written 0 and 1 or the module goes. -/
def Obligations.DomainsAndCages : Prop :=
  ∀ (d c kind class_ : Nat) (s : State),
    let asked := fun (v : Nat) =>
      let w := withBits (s.rw GLB_PWR_REQ) (domainBit d) (domainBit d) v
      domainCodes.foldl (fun (t : State) n =>
        let was := (s.rw GLB_PWR_REQ).toNat.testBit (domainBit n)
        let is_ := w.toNat.testBit (domainBit n)
        if was == is_ then t
        else if t.power.jobs.any fun j => j.domain == n then State.setJobs t.power.jobs (t.power.queue ++ [⟨n, is_⟩]) t
        else State.startJob ⟨n, is_⟩ t) (State.putWord 0 GLB_PWR_REQ w s)
    exec (.powerDownRequest d) s = .next (if domainCodes.contains d then asked 0 else s) ∧
    exec (.powerUpRequest d) s = .next (if domainCodes.contains d then asked 1 else s) ∧
    State.startJob ⟨d, true⟩ s = (if s.domainOn d then s else State.setJobs (s.power.jobs ++ [⟨d, true⟩]) s.power.queue s) ∧
    State.startJob ⟨d, false⟩ s = (if ¬ s.domainOn d then s
      else if s.downReason d = 0 then State.downBegin d (State.setJobs (s.power.jobs ++ [⟨d, false⟩]) s.power.queue s)
      else (((s.wr (domainReq d) 1).wr GLB_PWR_STATUS_REFUSED 1).wr GLB_PWR_STATUS_REASON (s.downReason d)).raise 897
        (s.downReason d)) ∧
    exec (.powerDownComplete d) s = .next (if ¬ s.power.jobs.contains ⟨d, false⟩ then s
      else if (d = 16 ∨ d = 17) ∧ s.listedChannels.any (fun n => (s.chan n).drain && s.chBusy n && s.usesPath (d - 16) n) then s
      else
        let u := s.wr (domainStatus d) 0
        State.endJob d (State.raise
          (if d = 16 ∨ d = 17 then State.railDown (d - 10) (State.pathFollow (d - 16) u) else u) 896 d)) ∧
    exec (.powerUpComplete d) s = .next (if ¬ s.power.jobs.contains ⟨d, true⟩ then s else
      let u := (s.wr (domainStatus d) 1).raise 896 (256 + d)
      let v := if d = 16 ∨ d = 17 then State.pathFollow (d - 16) u
        else if 8 ≤ d ∧ d < 14 then (State.cageLanes (d - 8)).foldl (fun (t : State) n => State.laneOn n t) u
        else if d ≥ 24 then State.emptyStore (d - 24) u else u
      State.endJob d (if 8 ≤ d ∧ d < 14 then
        (v.cagePorts (d - 8)).foldl (fun (t : State) P => State.portBlockReset P t) v else v)) ∧
    exec (.cageModuleInsert c) s = .next (if s.rd (GLB_CAGE_PRESENT c) = 1 then s else
      let u := State.cageEv c 0 1 (s.wr (GLB_CAGE_PRESENT c) 1)
      if c < 6 ∧ u.domainOn (8 + c) then
        (u.cagePorts c).foldl (fun (t : State) P => if t.portState P = 6 then State.listenAfresh P t else t) u
      else u) ∧
    exec (.cageModuleReady c kind class_) s = .next (
      if s.rd (GLB_CAGE_PRESENT c) = 0 ∨ s.power.railOff.contains c ∨ ¬ s.domainOn (State.cageDomain c) then s else
      let u := (s.wr (GLB_CAGE_KIND c) kind).wr (GLB_CAGE_CLASS c) class_
      if kind ≠ 1 ∧ class_ > (if c < 6 then 140 else 45) then
        if c < 6 then State.cageEv c 1 2 (u.wr (GLB_CAGE_REFUSED c) 1) else u.wr (GLB_CAGE_REFUSED c) 1
      else if kind = 1 ∨ u.rd (GLB_CAGE_MODPWR c) = 1 then
        if c < 6 then u.wr (GLB_CAGE_HIGH_POWER c) 1 else State.pathModule (c - 6) true (u.wr (GLB_CAGE_HIGH_POWER c) 1)
      else u) ∧
    exec (.cageModuleRemove c) s = .next (if s.rd (GLB_CAGE_PRESENT c) = 0 then s else
      let u := State.railDown c { s with power := { s.power with railOff := s.power.railOff.filter (· != c) } }
      State.cageSilent c (State.cageEv c 0 0
        (((u.wr (GLB_CAGE_PRESENT c) 0).wr (GLB_CAGE_KIND c) 0).wr (GLB_CAGE_CLASS c) 0))) ∧
    exec (.cageRailFault c) s = .next (if s.power.railOff.contains c then s else
      let u : State := { s with power := { s.power with railOff := c :: s.power.railOff } }
      State.cageSilent c (State.cageEv c 1 1 (State.railDown c (u.wr (GLB_CAGE_FAULT c) 1))))

/-- Structure operations, the stages of an activation, and the tick (R23, R33, R36, R57, R60, R61, R62, R63, R65,
R66, R68, R410). GO, CHECK and PROGRAM write STR_CTRL and wait while the shepherd does not run. While one is under
way each answers 5; a source without an image answers 6; an image that fails its check is reported and answers 2.
GO on a good image measures it, reports it and begins the activation; CHECK answers 10; PROGRAM refuses sources
that are no slot and the active slot, and begins the write of the slot. Each stage begins only from the one before,
with the shepherd running: Quiesce idles the outputs and stops channels, at once, or after open windows are
clipped; a frame that outlasts the time is closed; Retain completes records, and rolls back where held regions
overlap the new image; Reconfigure loads the image; Retrain restarts the links; Resume answers its result and time
and ends. A rollback that is due begins where nothing is under way. A tick that is due closes the account of the
one before, and runs its work in order up to its capacity. -/
def Obligations.ActivationAndTick : Prop :=
  ∀ (source wait st : Nat) (fail : Bool) (s : State),
    let u := s.ww STR_CTRL (withBits (withBits (s.rw STR_CTRL) 11 8 wait) 1 0 source)
    let asked := fun (op : Nat) (serve : State → State) =>
      if u.shepherdRuns = true then serve u else u.updStruct fun x => { x with waiting := x.waiting ++ [(op, source)] }
    let runs := s.shepherdRuns = true
    let clipped := (List.range 16).foldl (fun (t : State) g => if t.fgState g = 2 then State.clipOpen g t else t) s
    (source < 4 ∧ wait < 16 → exec (.strGo source wait) s = .next (asked 0 fun t =>
      if t.strBusy = true then t.wr STR_STATUS_RESULT 5 else match t.sourceImage source with
      | none => t.wr STR_STATUS_RESULT 6
      | some (.error e) => (State.checkFailed e t).wr STR_STATUS_RESULT 2
      | some (.ok im) =>
        let v := (State.extend 2 im.digest ((t.wr STR_CHECK_CODE 0).wr STR_CHECK_OFFSET 0)).raise 864 0
        (v.wr STR_STATUS_STATE 1).updStruct fun x =>
          { x with
            stage := if v.postOpen then .waiting else .ready
            next := some (source, im)
            prior := v.inForce
            goTime := v.now })) ∧
    (source < 4 ∧ wait < 16 → exec (.strCheck source wait) s = .next (asked 1 fun t =>
      if t.strBusy = true then t.wr STR_STATUS_RESULT 5 else match t.sourceImage source with
      | none => t.wr STR_STATUS_RESULT 6
      | some (.error e) => (State.checkFailed e t).wr STR_STATUS_RESULT 2
      | some (.ok _) => ((t.wr STR_CHECK_CODE 0).wr STR_CHECK_OFFSET 0).wr STR_STATUS_RESULT 10)) ∧
    (source < 4 ∧ wait < 16 → exec (.strProgram source wait) s = .next (asked 2 fun t =>
      if source = 0 ∨ source = 3 then t.wr STR_STATUS_RESULT 9
      else if t.strBusy = true then t.wr STR_STATUS_RESULT 5
      else if t.struct.uploaded.isEmpty = true then t.wr STR_STATUS_RESULT 6
      else if t.rd STR_STATUS_ACTIVE = source ∧ t.struct.image.isSome = true then t.wr STR_STATUS_RESULT 8
      else match checkImage t.struct.uploaded with
      | .error e => (State.checkFailed e t).wr STR_STATUS_RESULT 2
      | .ok _ => State.programBegin ((((t.wr STR_CHECK_CODE 0).wr STR_CHECK_OFFSET 0).wr STR_STATUS_STATE 7).updStruct fun x =>
        { x with stage := .programming, program := some ⟨source, t.struct.uploaded, false⟩ }))) ∧
    (s.struct.program = none → exec (.programDone fail) s = .next s) ∧
    (∀ p, s.struct.program = some p → exec (.programDone fail) s = .next (if ¬ p.begun ∨ ¬ runs then s else
      let v := (s.updStruct fun x => { x with program := none, stage := .idle }).wr STR_STATUS_STATE 0
      let n := p.slot - 1
      if fail then (State.flashFail (64 * n) v).wr STR_STATUS_RESULT 11
      else (((State.setFlash n { image := p.bytes } v).wr (STR_SLOT_STATE_WRITTEN n) 1).wr (STR_SLOT_SERIAL_SERIAL n)
        (rdLe p.bytes 0x14 4)).wr STR_STATUS_RESULT 7)) ∧
    exec .postWaitEnd s = .next (if s.struct.stage ≠ .waiting ∨ ¬ runs then s else State.quiesce clipped) ∧
    exec .activationQuiesce s = .next (
      if (s.struct.stage == .ready || (s.struct.stage == .waiting && !s.postOpen)) = true ∧ runs then
        let v := State.idleOutputs (((s.updStruct fun x => { x with placed := s.placedNow }).updStruct fun x =>
          { x with stage := .quiesce }).wr STR_STATUS_STATE 2)
        (v.listedChannels.filter v.chBusy).foldl (fun (t : State) c => State.chDrain c t) v
      else s) ∧
    exec (.quiesceTimeout st) s = .next (if (s.struct.stage = .quiesce ∨ s.rd GLB_RESET_PHASE = 1) ∧ st < 97 then
      State.closeFrame st 5 s else s) ∧
    (let busy := s.rd PD_STATUS_SCAN == 1 || (List.range 97).any (fun n => (s.strm n).frame.isSome)
       || s.listedChannels.any s.chBusy
     (s.struct.stage ≠ .quiesce ∨ ¬ runs ∨ busy = true → exec .activationRetain s = .next s) ∧
     (∀ x, s.struct.stage = .quiesce ∧ runs ∧ busy = false ∧ s.struct.next = some x →
       let v := State.completeAll ((s.updStruct fun y => { y with stage := .retain }).wr STR_STATUS_STATE 3)
       exec .activationRetain s = .next (
         if v.retainedOverlap x.2 || (v.struct.image.isNone && v.heldOverlap x.2) then
           let w := ((v.wr STR_CHECK_CODE 0x0F).wr STR_CHECK_OFFSET 0).raise 866 0
           State.rollbackBegin 2 4 (w.struct.prior.getD (0, factoryImage)) w
         else v))) ∧
    ((s.struct.stage ≠ .retain ∧ s.struct.stage ≠ .rollback) ∨ ¬ runs → exec .activationReconfigure s = .next s) ∧
    (∀ x, (s.struct.stage = .retain ∨ s.struct.stage = .rollback) ∧ runs ∧ s.struct.next = some x →
      exec .activationReconfigure s = .next (State.loadImage x.1 x.2
        (State.firstPower ((s.updStruct fun y => { y with stage := .reconfigure }).wr STR_STATUS_STATE 4)))) ∧
    exec .activationRetrain s = .next (if s.struct.stage ≠ .reconfigure ∨ ¬ runs then s else
      ((List.range 24).filter fun P => s.portPowered P && s.rd (FH_CONTROL_ENABLE (PT_HDR P)) == 1).foldl
        (fun (t : State) P => State.listenAfresh P (State.leaveActive P 5 t))
        ((s.updStruct fun y => { y with stage := .retrain }).wr STR_STATUS_STATE 5)) ∧
    (∀ n im, s.struct.next = some (n, im) →
      (s.struct.stage ≠ .retrain ∨ ¬ runs ∨ (s.unseated = true ∧ (n = 1 ∨ n = 2)) → exec .activationResume s = .next s) ∧
      (s.struct.stage = .retrain ∧ runs ∧ ¬ (s.unseated = true ∧ (n = 1 ∨ n = 2)) →
        let back := s.rd STR_STATUS_ROLLBACK = 1
        let a := State.factoryRetrain (s.wr STR_STATUS_STATE 6)
        let b := ((List.range 97).filter fun k => !a.regionKept k).foldl (fun (t : State) k => State.emptyRegions k t) a
        let c : State := { b with strms := b.strms.map fun e => (e.1, { e.2 with resync := true }) }
        let v := c.updStruct fun x => { x with stage := .idle, next := none, prior := none, rollbackDue := none }
        let w := State.commitMarker n im (State.releaseFreezes im (State.resumeGroups v))
        let y := ((w.wr STR_STATUS_ROLLBACK 0).wr STR_STATUS_STATE 0).wr STR_STATUS_RESULT
          (if back then c.struct.rollbackResult else 1)
        let z := if back then y else y.wr STR_STATUS_PREVIOUS ((c.struct.prior.map (·.1)).getD 0)
        exec .activationResume s = .next (State.flrDueNow (State.milestone ((z.wr STR_ACT_TIME_MICROSECONDS
          ((z.now - z.struct.goTime) / Time.ofUs 1)).raise 865 0) 5)))) ∧
    (s.struct.rollbackDue = none → exec .activationRollback s = .next s) ∧
    (∀ code, s.struct.rollbackDue = some code →
      (¬ runs ∨ s.rd GLB_RESET_BUSY = 1 ∨ s.struct.stage ≠ .idle → exec .activationRollback s = .next s) ∧
      (runs ∧ s.rd GLB_RESET_BUSY ≠ 1 ∧ s.struct.stage = .idle →
        exec .activationRollback s = .next (match s.struct.prior with
          | none => State.bootSelect (s.updStruct fun x => { x with rollbackDue := none })
          | some p =>
            let v := (List.range 97).foldl (fun (t : State) k => State.closeFrame k 5 t)
              (s.updStruct fun x => { x with placed := s.placedNow })
            ((State.rollbackBegin code 3 p (State.idleOutputs v)).raise 866 0).wr STR_STATUS_STATE 4))) ∧
    (let a := if s.bw.pendingPeriod.isSome = true ∧ State.secondFrom s.tb.dev ≤ s.bw.next then State.bwApply s else s
     let b := a.runTo a.bw.next
     (b.tb.dev < b.bw.next → exec .bellwetherTick s = .next b) ∧
     (b.bw.next ≤ b.tb.dev →
       let c := State.tickEnd b
       let d : State := { c with bw :=
         { c.bw with next := c.bw.next + ns32 c.bw.period, count := c.bw.count + 1, sequencer := 0 } }
       let r := State.tickStarts ((List.range 24).foldl (fun (t : State) n => State.trigPromote n t) d)
       let work := r.1.bw.queue ++ r.1.rulesWork r.2 ++ r.1.postWork ++ r.1.collectWork ++ r.1.commitWork
       let e := (List.range 4).foldl (fun (t : State) j =>
         if (t.absChan j).done then t.setAbs j { t.absChan j with done := false } else t) r.1
       exec .bellwetherTick s = .next (State.runWork work (State.bwCapacity e.bw.period)
         { e with
           tb := { e.tb with fired := 0 }
           bw := { e.bw with
             demand := (work.map (·.1)).sum, carried := (r.1.bw.queue.map (·.1)).sum, commits := [] } })))
end

