-- ==== Sys2Proof/Laws/Fabric.lean ====
section
/-! SUPPORT. What each operation of `Machine/Fabric.lean` keeps (see `Laws/Onward.lean`). -/
set_option linter.unusedTactic false
set_option linter.unreachableTactic false
set_option linter.tactic.unusedName false
namespace Sys2Proof.Machine

theorem Fabric.ww_onward {key : Nat} {w : Word} {b c : Fabric} (h : b.Onward c) : b.Onward (c.ww key w) :=
  ⟨h.mem, fun k => twf_tset (h.regs k), h.out⟩


theorem Fabric.wr_onward {f : FRef} {v : Nat} {b c : Fabric} (h : b.Onward c) : b.Onward (Fabric.wr c f v) := by
  unfold Fabric.wr
  repeat' first
    | with_reducible assumption
    | with_reducible apply Fabric.ww_onward

theorem Fabric.tally_onward {f : FRef} {n : Nat} {b c : Fabric} (h : b.Onward c) : b.Onward (Fabric.tally c f n) := by
  unfold Fabric.tally
  repeat' first
    | with_reducible assumption
    | with_reducible apply Fabric.wr_onward

theorem Fabric.wrWide_onward {key n v : Nat} {b c : Fabric} (h : b.Onward c) : b.Onward (c.wrWide key n v) := by
  induction n with
  | zero => exact h
  | succ n ih => exact Fabric.ww_onward ih


theorem Fabric.wrTime_onward {key : Nat} {t : Time} {b c : Fabric} (h : b.Onward c) :
    b.Onward (Fabric.wrTime c key t) := by
  unfold Fabric.wrTime
  repeat' first
    | with_reducible assumption
    | with_reducible apply Fabric.ww_onward

theorem Fabric.setByte_onward {a : Nat} {v : Byte} {b c : Fabric} (h : b.Onward c) : b.Onward (c.setByte a v) :=
  ⟨fun k => twf_tset (h.mem k), h.regs, h.out⟩


theorem Fabric.setBytes_onward {a : Nat} {l : List Byte} {b c : Fabric} (h : b.Onward c) :
    b.Onward (c.setBytes a l) := by
  induction l generalizing a c with
  | nil => exact h
  | cons v r ih => exact ih (Fabric.setByte_onward h)


theorem Fabric.emit_onward {e : Emit} {b c : Fabric} (h : b.Onward c) : b.Onward (c.emit e) :=
  ⟨h.mem, h.regs, h.out.trans (List.suffix_cons _ _)⟩


theorem Fabric.indicate_onward {i : Indication} {b c : Fabric} (h : b.Onward c) : b.Onward (Fabric.indicate c i) := by
  unfold Fabric.indicate
  repeat' first
    | with_reducible assumption
    | fail_if_no_progress with_reducible apply Fabric.Onward.upd

theorem penGroupEvent_onward {owner : Nat → Nat} {now : Time} {p : Nat} {b c : Fabric} (h : b.Onward c) :
    b.Onward (penGroupEvent owner now p c) := by
  unfold penGroupEvent
  repeat' first
    | with_reducible assumption
    | (extract_lets -merge +onlyGivenNames x
       first
       | (have _f := fun a => x a
          clear _f
          unfold x
          clear x)
       | (refine onward_cut (P := Fabric.Onward b x) ?_ (fun hx => ?_)
          on_goal 1 => (unfold x; clear x)
          on_goal 2 => clear_value x)
       | clear_value x
       | (unfold x; clear x)
       | clear x)
    | with_reducible apply Fabric.indicate_onward
    | with_reducible apply Fabric.wr_onward
    | with_reducible refine Fabric.Onward.ite ?_ ?_
    | split
    | fail_if_no_progress dsimp only

theorem hurdlePin_onward {k : Nat} {b c : Fabric} (h : b.Onward c) : b.Onward (hurdlePin c k) := by
  unfold hurdlePin
  repeat' first
    | with_reducible assumption
    | (extract_lets -merge +onlyGivenNames x
       first
       | (have _f := fun a => x a
          clear _f
          unfold x
          clear x)
       | (refine onward_cut (P := Fabric.Onward b x) ?_ (fun hx => ?_)
          on_goal 1 => (unfold x; clear x)
          on_goal 2 => clear_value x)
       | (refine onward_cut (P := Fabric.Onward b x.2) ?_ (fun hx => ?_)
          on_goal 1 => (unfold x; clear x)
          on_goal 2 => clear_value x)
       | (refine onward_cut (P := Fabric.Onward b x.1) ?_ (fun hx => ?_)
          on_goal 1 => (unfold x; clear x)
          on_goal 2 => clear_value x)
       | clear_value x
       | (unfold x; clear x)
       | clear x)
    | with_reducible apply Fabric.wr_onward
    | with_reducible refine Fabric.Onward.ite ?_ ?_
    | split
    | fail_if_no_progress dsimp only

theorem penPin_onward {p : Nat} {b c : Fabric} (h : b.Onward c) : b.Onward (penPin p c) := by
  unfold penPin
  repeat' first
    | with_reducible assumption
    | (extract_lets -merge +onlyGivenNames x
       first
       | (have _f := fun a => x a
          clear _f
          unfold x
          clear x)
       | (refine onward_cut (P := Fabric.Onward b x) ?_ (fun hx => ?_)
          on_goal 1 => (unfold x; clear x)
          on_goal 2 => clear_value x)
       | clear_value x
       | (unfold x; clear x)
       | clear x)
    | with_reducible apply Machine.hurdlePin_onward
    | with_reducible refine Fabric.Onward.ite ?_ ?_
    | split
    | fail_if_no_progress dsimp only

theorem penCross_onward {owner : Nat → Nat} {now : Time} {p : Nat} {v : Nat} {b c : Fabric} (h : b.Onward c) :
    b.Onward (penCross owner now p v c) := by
  unfold penCross
  repeat' first
    | with_reducible assumption
    | (extract_lets -merge +onlyGivenNames x
       first
       | (have _f := fun a => x a
          clear _f
          unfold x
          clear x)
       | (refine onward_cut (P := Fabric.Onward b x) ?_ (fun hx => ?_)
          on_goal 1 => (unfold x; clear x)
          on_goal 2 => clear_value x)
       | clear_value x
       | (unfold x; clear x)
       | clear x)
    | with_reducible apply Machine.penGroupEvent_onward
    | with_reducible apply Machine.penPin_onward
    | with_reducible apply Fabric.tally_onward
    | with_reducible apply Fabric.wr_onward
    | with_reducible refine Fabric.Onward.ite ?_ ?_
    | split
    | fail_if_no_progress dsimp only

theorem penHurdle_onward {owner : Nat → Nat} {now : Time} {p : Nat} {b c : Fabric} (h : b.Onward c) :
    b.Onward (penHurdle owner now p c) := by
  unfold penHurdle
  repeat' first
    | with_reducible assumption
    | (extract_lets -merge +onlyGivenNames x
       first
       | (have _f := fun a => x a
          clear _f
          unfold x
          clear x)
       | (refine onward_cut (P := Fabric.Onward b x) ?_ (fun hx => ?_)
          on_goal 1 => (unfold x; clear x)
          on_goal 2 => clear_value x)
       | clear_value x
       | (unfold x; clear x)
       | clear x)
    | with_reducible apply Machine.penCross_onward
    | with_reducible refine Fabric.Onward.ite ?_ ?_
    | split
    | fail_if_no_progress dsimp only

theorem penSetPtrs_onward {p : Nat} {wr : Nat} {rd : Nat} {b c : Fabric} (h : b.Onward c) :
    b.Onward (penSetPtrs p wr rd c) := by
  unfold penSetPtrs
  repeat' first
    | with_reducible assumption
    | (extract_lets -merge +onlyGivenNames x
       first
       | (have _f := fun a => x a
          clear _f
          unfold x
          clear x)
       | (refine onward_cut (P := Fabric.Onward b x) ?_ (fun hx => ?_)
          on_goal 1 => (unfold x; clear x)
          on_goal 2 => clear_value x)
       | clear_value x
       | (unfold x; clear x)
       | clear x)
    | with_reducible apply Fabric.wr_onward
    | with_reducible refine Fabric.Onward.ite ?_ ?_
    | split
    | fail_if_no_progress dsimp only

theorem penTake_onward {p : Nat} {n : Nat} {b c : Fabric} (h : b.Onward c) : b.Onward (penTake p n c) := by
  unfold penTake
  repeat' first
    | with_reducible assumption
    | (extract_lets -merge +onlyGivenNames x
       first
       | (have _f := fun a => x a
          clear _f
          unfold x
          clear x)
       | (refine onward_cut (P := Fabric.Onward b x) ?_ (fun hx => ?_)
          on_goal 1 => (unfold x; clear x)
          on_goal 2 => clear_value x)
       | (refine onward_cut (P := Fabric.Onward b x.2) ?_ (fun hx => ?_)
          on_goal 1 => (unfold x; clear x)
          on_goal 2 => clear_value x)
       | (refine onward_cut (P := Fabric.Onward b x.1) ?_ (fun hx => ?_)
          on_goal 1 => (unfold x; clear x)
          on_goal 2 => clear_value x)
       | clear_value x
       | (unfold x; clear x)
       | clear x)
    | with_reducible apply Machine.penSetPtrs_onward
    | with_reducible apply Fabric.wr_onward
    | with_reducible refine Fabric.Onward.ite ?_ ?_
    | split
    | fail_if_no_progress dsimp only

theorem penEndPop_onward {p : Nat} {b c : Fabric} (h : b.Onward c) : b.Onward (penEndPop p c) := by
  unfold penEndPop
  repeat' first
    | with_reducible assumption
    | (extract_lets -merge +onlyGivenNames x
       first
       | (have _f := fun a => x a
          clear _f
          unfold x
          clear x)
       | (refine onward_cut (P := Fabric.Onward b x) ?_ (fun hx => ?_)
          on_goal 1 => (unfold x; clear x)
          on_goal 2 => clear_value x)
       | clear_value x
       | (unfold x; clear x)
       | clear x)
    | with_reducible apply Fabric.wr_onward
    | with_reducible refine Fabric.Onward.ite ?_ ?_
    | split
    | fail_if_no_progress dsimp only
    | fail_if_no_progress with_reducible apply Fabric.Onward.upd

theorem penCut_onward {p : Nat} {v : Nat} {b c : Fabric} (h : b.Onward c) : b.Onward (penCut p v c) := by
  unfold penCut
  repeat' first
    | with_reducible assumption
    | with_reducible refine Fabric.Onward.ite ?_ ?_
    | split
    | fail_if_no_progress dsimp only
    | fail_if_no_progress with_reducible apply Fabric.Onward.upd

theorem penOverwrite_onward {owner : Nat → Nat} {now : Time} {p : Nat} {b c : Fabric} (h : b.Onward c) :
    b.Onward (penOverwrite owner now p c) := by
  unfold penOverwrite
  repeat' first
    | with_reducible assumption
    | (extract_lets -merge +onlyGivenNames x
       first
       | (have _f := fun a => x a
          clear _f
          unfold x
          clear x)
       | (refine onward_cut (P := Fabric.Onward b x) ?_ (fun hx => ?_)
          on_goal 1 => (unfold x; clear x)
          on_goal 2 => clear_value x)
       | (refine onward_cut (P := Fabric.Onward b x.2) ?_ (fun hx => ?_)
          on_goal 1 => (unfold x; clear x)
          on_goal 2 => clear_value x)
       | (refine onward_cut (P := Fabric.Onward b x.1) ?_ (fun hx => ?_)
          on_goal 1 => (unfold x; clear x)
          on_goal 2 => clear_value x)
       | clear_value x
       | (unfold x; clear x)
       | clear x)
    | with_reducible apply Machine.penCut_onward
    | with_reducible apply Machine.penEndPop_onward
    | with_reducible apply Machine.penGroupEvent_onward
    | with_reducible apply Machine.penTake_onward
    | with_reducible apply Fabric.tally_onward
    | with_reducible apply Fabric.wr_onward
    | with_reducible refine Fabric.Onward.ite ?_ ?_
    | split
    | fail_if_no_progress dsimp only

theorem penLand_onward {p : Nat} {data : List Byte} {last : Bool} {b c : Fabric} (h : b.Onward c) :
    b.Onward (penLand p data last c) := by
  unfold penLand
  repeat' first
    | with_reducible assumption
    | (extract_lets -merge +onlyGivenNames x
       first
       | (have _f := fun a => x a
          clear _f
          unfold x
          clear x)
       | (refine onward_cut (P := Fabric.Onward b x) ?_ (fun hx => ?_)
          on_goal 1 => (unfold x; clear x)
          on_goal 2 => clear_value x)
       | clear_value x
       | (unfold x; clear x)
       | clear x)
    | with_reducible apply Machine.penSetPtrs_onward
    | with_reducible apply Fabric.setByte_onward
    | with_reducible apply Fabric.setBytes_onward
    | with_reducible apply Fabric.wr_onward
    | with_reducible refine Fabric.Onward.ite ?_ ?_
    | split
    | fail_if_no_progress dsimp only

theorem penRefuse_onward {p : Nat} {b c : Fabric} (h : b.Onward c) : b.Onward (penRefuse p c) := by
  unfold penRefuse
  repeat' first
    | with_reducible assumption
    | with_reducible apply Fabric.tally_onward
    | with_reducible apply Fabric.wr_onward

theorem penPushWith_onward {owner : Nat → Nat} {now : Time} {p : Nat} {last : Bool} {land : Fabric → Fabric}
    {b c : Fabric} (hl : ∀ x, b.Onward x → b.Onward (land x)) (h : b.Onward c) :
    b.Onward (penPushWith owner now p last land c) := by
  have ho := penOverwrite_onward (owner := owner) (now := now) (p := p) h
  simp only [penPushWith]
  split
  · exact Fabric.tally_onward h
  · split
    · split
      · exact Fabric.wr_onward (Fabric.wr_onward h)
      · exact h
    · split
      · split
        · exact penRefuse_onward h
        · split
          · apply penHurdle_onward
            split
            · exact Fabric.wr_onward (Fabric.wr_onward ho)
            · exact ho
          · exact penHurdle_onward (hl _ ho)
      · exact penHurdle_onward (hl _ h)


theorem penPush_onward {owner : Nat → Nat} {now : Time} {p : Nat} {data : List Byte} {last : Bool} {b c : Fabric}
    (h : b.Onward c) : b.Onward (penPush owner now p data last c) :=
  penPushWith_onward (fun _ k => penLand_onward k) h


theorem penPushAll_onward {owner : Nat → Nat} {now : Time} {p : Nat} {l : List (List Byte)} {b c : Fabric}
    (h : b.Onward c) : b.Onward (penPushAll owner now p l c) := by
  induction l generalizing c with
  | nil => exact h
  | cons w r ih =>
    cases r with
    | nil => exact penPush_onward h
    | cons w' r' => exact ih (penPush_onward h)


theorem penAdmit_onward {owner : Nat → Nat} {now : Time} {p : Nat} {packet : List Byte} {b c : Fabric} (h : b.Onward c) :
    b.Onward (penAdmit owner now p packet c).2 := by
  unfold penAdmit
  repeat' first
    | with_reducible assumption
    | (extract_lets -merge +onlyGivenNames x
       first
       | (have _f := fun a => x a
          clear _f
          unfold x
          clear x)
       | (refine onward_cut (P := Fabric.Onward b x) ?_ (fun hx => ?_)
          on_goal 1 => (unfold x; clear x)
          on_goal 2 => clear_value x)
       | clear_value x
       | (unfold x; clear x)
       | clear x)
    | with_reducible apply Machine.penPushAll_onward
    | with_reducible apply Machine.penRefuse_onward
    | with_reducible apply Fabric.tally_onward
    | with_reducible refine Fabric.Onward.ite ?_ ?_
    | split
    | fail_if_no_progress dsimp only

theorem Fabric.setView_onward {fn : Nat} {src : Nat} {v : View} {b c : Fabric} (h : b.Onward c) :
    b.Onward (Fabric.setView c fn src v) := by
  unfold Fabric.setView
  repeat' first
    | with_reducible assumption
    | fail_if_no_progress dsimp only
    | fail_if_no_progress with_reducible apply Fabric.Onward.upd

theorem sendVector_onward {fn : Nat} {vec : Nat} {b c : Fabric} (h : b.Onward c) :
    b.Onward (sendVector fn vec c) := by
  unfold sendVector
  repeat' first
    | with_reducible assumption
    | with_reducible apply Fabric.emit_onward
    | with_reducible apply Fabric.wr_onward
    | with_reducible refine Fabric.Onward.ite ?_ ?_
    | split

theorem discardRecord_onward {now : Time} {fn : Nat} {src : Nat} {b c : Fabric} (h : b.Onward c) :
    b.Onward (discardRecord now fn src c) := by
  unfold discardRecord
  repeat' first
    | with_reducible assumption
    | (extract_lets -merge +onlyGivenNames x
       first
       | (have _f := fun a => x a
          clear _f
          unfold x
          clear x)
       | (refine onward_cut (P := Fabric.Onward b x) ?_ (fun hx => ?_)
          on_goal 1 => (unfold x; clear x)
          on_goal 2 => clear_value x)
       | clear_value x
       | (unfold x; clear x)
       | clear x)
    | with_reducible apply Fabric.indicate_onward
    | with_reducible apply Fabric.tally_onward
    | with_reducible refine Fabric.Onward.ite ?_ ?_
    | split
    | fail_if_no_progress dsimp only

theorem sendRecord_onward {owner : Nat → Nat} {now : Time} {fn src count flags : Nat} {v : View} {b c : Fabric}
    (h : b.Onward c) : b.Onward (sendRecord owner now fn src count flags v c) := by
  have hw := Fabric.wr_onward (f := EV_SEQ_VALUE fn) (v := c.rd (EV_SEQ_VALUE fn) + 1) h
  simp only [sendRecord]
  split
  · split
    · exact penAdmit_onward hw
    · exact discardRecord_onward (penAdmit_onward hw)
  · exact discardRecord_onward hw


theorem deliver_onward {owner : Nat → Nat} {now : Time} {late : Bool} {fn : Nat} {src : Nat} {b c : Fabric} (h : b.Onward c) :
    b.Onward (deliver owner now late fn src c) := by
  unfold deliver
  repeat' first
    | with_reducible assumption
    | (extract_lets -merge +onlyGivenNames x
       first
       | (have _f := fun a => x a
          clear _f
          unfold x
          clear x)
       | (refine onward_cut (P := Fabric.Onward b x) ?_ (fun hx => ?_)
          on_goal 1 => (unfold x; clear x)
          on_goal 2 => clear_value x)
       | clear_value x
       | (unfold x; clear x)
       | clear x)
    | with_reducible apply Machine.sendRecord_onward
    | with_reducible apply Machine.sendVector_onward
    | with_reducible apply Fabric.setView_onward
    | with_reducible apply Fabric.wr_onward
    | with_reducible refine Fabric.Onward.ite ?_ ?_
    | split
    | fail_if_no_progress dsimp only

theorem viewOccur_onward {owner : Nat → Nat} {now : Time} {i : Indication} {fn : Nat} {b c : Fabric} (h : b.Onward c) :
    b.Onward (viewOccur owner now i c fn) := by
  unfold viewOccur
  repeat' first
    | with_reducible assumption
    | (extract_lets -merge +onlyGivenNames x
       first
       | (have _f := fun a => x a
          clear _f
          unfold x
          clear x)
       | (refine onward_cut (P := Fabric.Onward b x) ?_ (fun hx => ?_)
          on_goal 1 => (unfold x; clear x)
          on_goal 2 => clear_value x)
       | clear_value x
       | (unfold x; clear x)
       | clear x)
    | with_reducible apply Machine.deliver_onward
    | with_reducible apply Fabric.setView_onward
    | with_reducible apply Fabric.tally_onward
    | with_reducible apply Fabric.wr_onward
    | with_reducible refine Fabric.Onward.ite ?_ ?_
    | split
    | fail_if_no_progress dsimp only
    | fail_if_no_progress with_reducible apply Fabric.Onward.upd

theorem occur_onward {owner : Nat → Nat} {now : Time} {i : Indication} {b c : Fabric} (h : b.Onward c) :
    b.Onward (occur owner now i c) := by
  unfold occur
  repeat' first
    | with_reducible assumption
    | with_reducible apply Machine.viewOccur_onward
    | (with_reducible refine Fabric.Onward.foldl ?_ ?_
       on_goal 1 => intro _ _ _)

theorem drain_onward {owner : Nat → Nat} {now : Time} {n : Nat} {b c : Fabric} (h : b.Onward c) :
    b.Onward (drain owner now n c) := by
  induction n generalizing c with
  | zero => exact h
  | succ n ih =>
    rw [drain]
    split
    · exact h
    · exact ih (occur_onward (Fabric.Onward.upd h))


theorem Fabric.raise_onward {owner : Nat → Nat} {now : Time} {i : Indication} {b c : Fabric} (h : b.Onward c) :
    b.Onward (Fabric.raise owner now i c) := by
  unfold Fabric.raise
  repeat' first
    | with_reducible assumption
    | with_reducible apply Machine.drain_onward
    | with_reducible apply Fabric.indicate_onward

theorem Fabric.settle_onward {owner : Nat → Nat} {now : Time} {b c : Fabric} (h : b.Onward c) :
    b.Onward (Fabric.settle owner now c) := by
  unfold Fabric.settle
  repeat' first
    | with_reducible assumption
    | with_reducible apply Machine.drain_onward

end Sys2Proof.Machine
end

