-- ==== Sys2Proof/Laws/Ops.lean ====
section
/-! SUPPORT. What each operation of `Machine/Ops.lean` keeps (see `Laws/Onward.lean`). -/
set_option linter.unusedTactic false
set_option linter.unreachableTactic false
set_option linter.tactic.unusedName false
namespace Sys2Proof.Machine

theorem State.ww_onward {key : Nat} {w : Word} {s t : State} (h : s.Onward t) : s.Onward (State.ww t key w) := by
  unfold State.ww
  repeat' first
    | with_reducible assumption
    | with_reducible apply Fabric.ww_onward
    | (with_reducible refine State.inFab_onward ?_ ?_
       on_goal 2 => intro _ _ _)

theorem State.wr_onward {f : FRef} {v : Nat} {s t : State} (h : s.Onward t) : s.Onward (State.wr t f v) := by
  unfold State.wr
  repeat' first
    | with_reducible assumption
    | with_reducible apply Fabric.wr_onward
    | (with_reducible refine State.inFab_onward ?_ ?_
       on_goal 2 => intro _ _ _)

theorem State.tally_onward {f : FRef} {n : Nat} {s t : State} (h : s.Onward t) : s.Onward (State.tally t f n) := by
  unfold State.tally
  repeat' first
    | with_reducible assumption
    | with_reducible apply Fabric.tally_onward
    | (with_reducible refine State.inFab_onward ?_ ?_
       on_goal 2 => intro _ _ _)

theorem State.wrWide_onward {key : Nat} {n : Nat} {v : Nat} {s t : State} (h : s.Onward t) :
    s.Onward (State.wrWide t key n v) := by
  unfold State.wrWide
  repeat' first
    | with_reducible assumption
    | with_reducible apply Fabric.wrWide_onward
    | (with_reducible refine State.inFab_onward ?_ ?_
       on_goal 2 => intro _ _ _)

theorem State.wrTime_onward {key : Nat} {t' : Time} {s t : State} (h : s.Onward t) :
    s.Onward (State.wrTime t key t') := by
  unfold State.wrTime
  repeat' first
    | with_reducible assumption
    | with_reducible apply Fabric.wrTime_onward
    | (with_reducible refine State.inFab_onward ?_ ?_
       on_goal 2 => intro _ _ _)

theorem State.emit_onward {e : Emit} {s t : State} (h : s.Onward t) : s.Onward (State.emit t e) := by
  unfold State.emit
  repeat' first
    | with_reducible assumption
    | with_reducible apply Fabric.emit_onward
    | (with_reducible refine State.inFab_onward ?_ ?_
       on_goal 2 => intro _ _ _)

theorem State.setBytes_onward {a : Nat} {l : List Byte} {s t : State} (h : s.Onward t) :
    s.Onward (State.setBytes t a l) := by
  unfold State.setBytes
  repeat' first
    | with_reducible assumption
    | with_reducible apply Fabric.setBytes_onward
    | (with_reducible refine State.inFab_onward ?_ ?_
       on_goal 2 => intro _ _ _)

theorem State.wrIf_onward {f : FRef} {c : Bool} {s t : State} (h : s.Onward t) : s.Onward (State.wrIf t f c) := by
  unfold State.wrIf
  repeat' first
    | with_reducible assumption
    | with_reducible apply Fabric.wr_onward
    | with_reducible apply State.wr_onward
    | with_reducible refine State.Onward.ite ?_ ?_
    | split

theorem State.draw_onward {s t : State} (h : s.Onward t) : s.Onward t.draw.2 :=
  ⟨⟨h.kept.pending, h.kept.fab, Nat.le_succ_of_le h.kept.free⟩, h.tb⟩


theorem State.milestone_onward {k : Nat} {s t : State} (h : s.Onward t) : s.Onward (State.milestone t k) := by
  unfold State.milestone
  repeat' first
    | with_reducible assumption
    | with_reducible apply Fabric.wr_onward
    | with_reducible apply State.wr_onward
    | with_reducible refine State.Onward.ite ?_ ?_
    | split
    | fail_if_no_progress with_reducible apply State.Onward.upd

theorem State.raiseTo_onward {vis : List Nat} {src : Nat} {detail : Nat} {cause : Time} {s t : State} (h : s.Onward t) :
    s.Onward (State.raiseTo t vis src detail cause) := by
  unfold State.raiseTo
  repeat' first
    | with_reducible assumption
    | with_reducible apply Fabric.raise_onward
    | (with_reducible refine State.inFab_onward ?_ ?_
       on_goal 2 => intro _ _ _)
    | fail_if_no_progress dsimp only

theorem State.raise_onward {src : Nat} {detail : Nat} {s t : State} (h : s.Onward t) :
    s.Onward (State.raise t src detail) := by
  unfold State.raise
  repeat' first
    | with_reducible assumption
    | with_reducible apply State.raiseTo_onward

theorem State.raiseAt_onward {src : Nat} {detail : Nat} {cause : Time} {s t : State} (h : s.Onward t) :
    s.Onward (State.raiseAt t src detail cause) := by
  unfold State.raiseAt
  repeat' first
    | with_reducible assumption
    | with_reducible apply State.raiseTo_onward

theorem State.raiseFor_onward {fn : Nat} {src : Nat} {detail : Nat} {s t : State} (h : s.Onward t) :
    s.Onward (State.raiseFor t fn src detail) := by
  unfold State.raiseFor
  repeat' first
    | with_reducible assumption
    | with_reducible apply State.raiseTo_onward
    | with_reducible refine State.Onward.ite ?_ ?_
    | split
    | fail_if_no_progress dsimp only

theorem State.accErr_onward {fn : Nat} {s t : State} (h : s.Onward t) : s.Onward (State.accErr t fn) := by
  unfold State.accErr
  repeat' first
    | with_reducible assumption
    | with_reducible apply State.raiseFor_onward
    | with_reducible apply Fabric.tally_onward
    | with_reducible apply State.tally_onward

theorem State.settle_onward {s t : State} (h : s.Onward t) : s.Onward (State.settle t) := by
  unfold State.settle
  repeat' first
    | with_reducible assumption
    | with_reducible apply Fabric.settle_onward
    | (with_reducible refine State.inFab_onward ?_ ?_
       on_goal 2 => intro _ _ _)

theorem State.penPush_onward {p : Nat} {data : List Byte} {last : Bool} {s t : State} (h : s.Onward t) :
    s.Onward (State.penPush t p data last) := by
  unfold State.penPush
  repeat' first
    | with_reducible assumption
    | with_reducible apply Machine.penPush_onward
    | with_reducible apply Fabric.settle_onward
    | with_reducible apply State.settle_onward
    | (with_reducible refine State.inFab_onward ?_ ?_
       on_goal 2 => intro _ _ _)

theorem State.penAdmit_onward {p : Nat} {packet : List Byte} {s t : State} (h : s.Onward t) :
    s.Onward (State.penAdmit t p packet).2 := by
  unfold State.penAdmit
  repeat' first
    | with_reducible assumption
    | (extract_lets -merge +onlyGivenNames x
       first
       | (have _f := fun a => x a
          clear _f
          unfold x
          clear x)
       | (refine onward_cut (P := State.Onward s x.2) ?_ (fun hx => ?_)
          on_goal 1 => (unfold x; clear x)
          on_goal 2 => clear_value x)
       | (refine onward_cut (P := State.Onward s x.1) ?_ (fun hx => ?_)
          on_goal 1 => (unfold x; clear x)
          on_goal 2 => clear_value x)
       | (refine onward_cut (P := Fabric.Onward s.fab x) ?_ (fun hx => ?_)
          on_goal 1 => (unfold x; clear x)
          on_goal 2 => clear_value x)
       | (refine onward_cut (P := Fabric.Onward s.fab x.2) ?_ (fun hx => ?_)
          on_goal 1 => (unfold x; clear x)
          on_goal 2 => clear_value x)
       | clear_value x
       | (unfold x; clear x)
       | clear x)
    | with_reducible apply Machine.penAdmit_onward
    | with_reducible apply Fabric.settle_onward
    | with_reducible apply State.settle_onward
    | fail_if_no_progress dsimp only
    | fail_if_no_progress with_reducible apply State.Onward.upd
    | with_reducible refine State.Onward.updFab ?_ ?_
    | with_reducible apply State.Onward.fab

theorem State.setLane_onward {n : Nat} {l : Lane} {s t : State} (h : s.Onward t) :
    s.Onward (State.setLane t n l) := by
  unfold State.setLane
  repeat' first
    | with_reducible assumption
    | fail_if_no_progress dsimp only
    | fail_if_no_progress with_reducible apply State.Onward.upd

theorem State.setPort_onward {P : Nat} {l : Port} {s t : State} (h : s.Onward t) :
    s.Onward (State.setPort t P l) := by
  unfold State.setPort
  repeat' first
    | with_reducible assumption
    | fail_if_no_progress dsimp only
    | fail_if_no_progress with_reducible apply State.Onward.upd

end Sys2Proof.Machine
end

