-- ==== Sys2Proof/Laws/Operands.lean ====
section
/-! SUPPORT. What each operation of `Machine/Operands.lean` keeps (see `Laws/Onward.lean`). -/
set_option linter.unusedTactic false
set_option linter.unreachableTactic false
set_option linter.tactic.unusedName false
namespace Sys2Proof.Machine

theorem State.accErrs_onward {fn n : Nat} {s t : State} (h : s.Onward t) : s.Onward (State.accErrs fn n t) := by
  induction n generalizing t with
  | zero => exact h
  | succ n ih => exact ih (State.accErr_onward h)


theorem State.putWord_onward {fn : Nat} {key : Nat} {w : Word} {s t : State} (h : s.Onward t) :
    s.Onward (State.putWord fn key w t) := by
  unfold State.putWord
  repeat' first
    | with_reducible assumption
    | (extract_lets -merge +onlyGivenNames x
       first
       | (have _f := fun a => x a
          clear _f
          unfold x
          clear x)
       | (refine onward_cut (P := State.Onward s x.2) ?_ (fun hx => ?_)
          on_goal 1 => (unfold x; clear x)
          on_goal 2 => clear_value x)
       | (refine onward_cut (P := State.Onward s x.1) ?_ (fun hx => ?_)
          on_goal 1 => (unfold x; clear x)
          on_goal 2 => clear_value x)
       | clear_value x
       | (unfold x; clear x)
       | clear x)
    | with_reducible apply State.accErrs_onward
    | with_reducible apply Fabric.ww_onward
    | with_reducible apply State.ww_onward
    | with_reducible refine State.Onward.ite ?_ ?_
    | split
    | fail_if_no_progress dsimp only
    | fail_if_no_progress with_reducible apply State.Onward.upd

theorem State.resetRegs_onward {p : Nat → Bool} {s t : State} (h : s.Onward t) : s.Onward (State.resetRegs p t) := by
  refine State.Onward.updFab h ⟨h.fab.mem, fun k => ?_, h.fab.out⟩
  suffices ∀ (l : List (Nat × Word)) (r : Tab Word), twf resetWord r = true →
      twf resetWord (l.foldl (fun t e => if p e.1 then tset resetWord t e.1 e.2 else t) r) = true from
    this _ _ (twf_filter (h.fab.regs k))
  intro l
  induction l with
  | nil => exact fun _ k => k
  | cons e l ih =>
    intro r hr
    refine ih _ ?_
    dsimp only
    split
    · exact twf_tset hr
    · exact hr


theorem State.viewReset_onward {fn : Nat} {p : Nat → Bool} {s t : State} (h : s.Onward t) :
    s.Onward (State.viewReset fn p t) := by
  unfold State.viewReset
  repeat' first
    | with_reducible assumption
    | (extract_lets -merge +onlyGivenNames x
       first
       | (have _f := fun a => x a
          clear _f
          unfold x
          clear x)
       | (refine onward_cut (P := State.Onward s x) ?_ (fun hx => ?_)
          on_goal 1 => (unfold x; clear x)
          on_goal 2 => clear_value x)
       | (refine onward_cut (P := State.Onward s x.2) ?_ (fun hx => ?_)
          on_goal 1 => (unfold x; clear x)
          on_goal 2 => clear_value x)
       | (refine onward_cut (P := State.Onward s x.1) ?_ (fun hx => ?_)
          on_goal 1 => (unfold x; clear x)
          on_goal 2 => clear_value x)
       | clear_value x
       | (unfold x; clear x)
       | clear x)
    | with_reducible apply State.resetRegs_onward
    | (with_reducible refine State.inFab_onward ?_ ?_
       on_goal 2 => intro _ _ _)
    | fail_if_no_progress dsimp only
    | fail_if_no_progress with_reducible apply State.Onward.upd
    | fail_if_no_progress with_reducible apply Fabric.Onward.upd

theorem State.dropUnseen_onward {fn : Nat} {saw : List Nat} {s t : State} (h : s.Onward t) :
    s.Onward (State.dropUnseen fn saw t) := by
  unfold State.dropUnseen
  repeat' first
    | with_reducible assumption
    | (extract_lets -merge +onlyGivenNames x
       first
       | (have _f := fun a => x a
          clear _f
          unfold x
          clear x)
       | (refine onward_cut (P := State.Onward s x) ?_ (fun hx => ?_)
          on_goal 1 => (unfold x; clear x)
          on_goal 2 => clear_value x)
       | clear_value x
       | (unfold x; clear x)
       | clear x)
    | with_reducible apply State.viewReset_onward
    | with_reducible refine State.Onward.ite ?_ ?_
    | split
    | fail_if_no_progress dsimp only

end Sys2Proof.Machine
end

