-- ==== Sys2Proof/Laws/Events.lean ====
section
/-! SUPPORT. What each operation of `Machine/Events.lean` keeps (see `Laws/Onward.lean`). -/
set_option linter.unusedTactic false
set_option linter.unreachableTactic false
set_option linter.tactic.unusedName false
namespace Sys2Proof.Machine

theorem State.viewCheck_onward {fn : Nat} {src : Nat} {s t : State} (h : s.Onward t) :
    s.Onward (State.viewCheck fn src t) := by
  unfold State.viewCheck
  repeat' first
    | with_reducible assumption
    | with_reducible apply Machine.deliver_onward
    | with_reducible apply Fabric.settle_onward
    | with_reducible apply State.settle_onward
    | (with_reducible refine State.inFab_onward ?_ ?_
       on_goal 2 => intro _ _ _)
    | with_reducible refine State.Onward.ite ?_ ?_
    | split

theorem State.viewHoldoff_onward {fn : Nat} {src : Nat} {s t : State} (h : s.Onward t) :
    s.Onward (State.viewHoldoff fn src t) := by
  unfold State.viewHoldoff
  repeat' first
    | with_reducible assumption
    | with_reducible apply Machine.deliver_onward
    | with_reducible apply Fabric.settle_onward
    | with_reducible apply State.settle_onward
    | (with_reducible refine State.inFab_onward ?_ ?_
       on_goal 2 => intro _ _ _)
    | with_reducible refine State.Onward.ite ?_ ?_
    | split

theorem State.evCfg_onward {fn : Nat} {src : Nat} {w : Word} {s t : State} (h : s.Onward t) :
    s.Onward (State.evCfg fn src w t) := by
  unfold State.evCfg
  repeat' first
    | with_reducible assumption
    | (extract_lets -merge +onlyGivenNames x
       first
       | (have _f := fun a => x a
          clear _f
          unfold x
          clear x)
       | (refine onward_cut (P := State.Onward s x) ?_ (fun hx => ?_)
          on_goal 1 => (unfold x; clear x)
          on_goal 2 => clear_value x)
       | clear_value x
       | (unfold x; clear x)
       | clear x)
    | with_reducible apply Machine.deliver_onward
    | with_reducible apply State.putWord_onward
    | with_reducible apply Fabric.settle_onward
    | with_reducible apply State.settle_onward
    | (with_reducible refine State.inFab_onward ?_ ?_
       on_goal 2 => intro _ _ _)
    | with_reducible refine State.Onward.ite ?_ ?_
    | split
    | fail_if_no_progress dsimp only

theorem State.evCoal_onward {fn : Nat} {src : Nat} {w : Word} {s t : State} (h : s.Onward t) :
    s.Onward (State.evCoal fn src w t) := by
  unfold State.evCoal
  repeat' first
    | with_reducible assumption
    | with_reducible apply State.putWord_onward
    | with_reducible apply State.viewCheck_onward

theorem State.evRaise_onward {fn : Nat} {src : Nat} {s t : State} (h : s.Onward t) :
    s.Onward (State.evRaise fn src t) := by
  unfold State.evRaise
  repeat' first
    | with_reducible assumption
    | with_reducible apply State.accErr_onward
    | with_reducible apply Fabric.raise_onward
    | with_reducible apply State.raise_onward
    | with_reducible refine State.Onward.ite ?_ ?_
    | split

theorem State.msixUnmask_onward {fn : Nat} {vec : Nat} {s t : State} (h : s.Onward t) :
    s.Onward (State.msixUnmask fn vec t) := by
  unfold State.msixUnmask
  repeat' first
    | with_reducible assumption
    | (extract_lets -merge +onlyGivenNames x
       first
       | (have _f := fun a => x a
          clear _f
          unfold x
          clear x)
       | (refine onward_cut (P := State.Onward s x) ?_ (fun hx => ?_)
          on_goal 1 => (unfold x; clear x)
          on_goal 2 => clear_value x)
       | clear_value x
       | (unfold x; clear x)
       | clear x)
    | with_reducible apply Fabric.emit_onward
    | with_reducible apply State.emit_onward
    | with_reducible apply Fabric.wr_onward
    | with_reducible apply State.wr_onward
    | with_reducible refine State.Onward.ite ?_ ?_
    | split
    | fail_if_no_progress dsimp only

theorem State.hostEvent_onward {src : Nat} {s t : State} (h : s.Onward t) : s.Onward (State.hostEvent src t) := by
  unfold State.hostEvent
  repeat' first
    | with_reducible assumption
    | with_reducible apply Fabric.raise_onward
    | with_reducible apply State.raise_onward
    | with_reducible refine State.Onward.ite ?_ ?_
    | split
    | fail_if_no_progress dsimp only
    | fail_if_no_progress with_reducible apply State.Onward.upd

theorem State.linkShape_onward {rate : Nat} {width : Nat} {flit : Nat} {s t : State} (h : s.Onward t) :
    s.Onward (State.linkShape rate width flit t) := by
  unfold State.linkShape
  repeat' first
    | with_reducible assumption
    | (extract_lets -merge +onlyGivenNames x
       first
       | (have _f := fun a => x a
          clear _f
          unfold x
          clear x)
       | (refine onward_cut (P := State.Onward s x) ?_ (fun hx => ?_)
          on_goal 1 => (unfold x; clear x)
          on_goal 2 => clear_value x)
       | clear_value x
       | (unfold x; clear x)
       | clear x)
    | with_reducible apply Fabric.wr_onward
    | with_reducible apply State.wr_onward
    | with_reducible apply State.wrIf_onward
    | fail_if_no_progress dsimp only

theorem State.linkUp_onward {rate : Nat} {width : Nat} {flit : Nat} {s t : State} (h : s.Onward t) :
    s.Onward (State.linkUp rate width flit t) := by
  unfold State.linkUp
  repeat' first
    | with_reducible assumption
    | (extract_lets -merge +onlyGivenNames x
       first
       | (have _f := fun a => x a
          clear _f
          unfold x
          clear x)
       | (refine onward_cut (P := State.Onward s x) ?_ (fun hx => ?_)
          on_goal 1 => (unfold x; clear x)
          on_goal 2 => clear_value x)
       | (refine onward_cut (P := State.Onward s x.2) ?_ (fun hx => ?_)
          on_goal 1 => (unfold x; clear x)
          on_goal 2 => clear_value x)
       | (refine onward_cut (P := State.Onward s x.1) ?_ (fun hx => ?_)
          on_goal 1 => (unfold x; clear x)
          on_goal 2 => clear_value x)
       | clear_value x
       | (unfold x; clear x)
       | clear x)
    | with_reducible apply State.linkShape_onward
    | with_reducible apply State.milestone_onward
    | with_reducible apply Fabric.raise_onward
    | with_reducible apply State.raise_onward
    | with_reducible apply State.raiseAt_onward
    | with_reducible apply Fabric.wr_onward
    | with_reducible apply State.wr_onward
    | (with_reducible refine State.Onward.foldl ?_ ?_
       on_goal 1 => intro _ _ _)
    | (with_reducible refine State.Onward.foldl2 ?_ ?_
       on_goal 1 => intro _ _ _)
    | (with_reducible refine State.Onward.foldl1 ?_ ?_
       on_goal 1 => intro _ _ _)
    | with_reducible refine State.Onward.ite ?_ ?_
    | split
    | fail_if_no_progress dsimp only
    | fail_if_no_progress with_reducible apply State.Onward.upd

theorem State.linkRate_onward {rate : Nat} {width : Nat} {flit : Nat} {s t : State} (h : s.Onward t) :
    s.Onward (State.linkRate rate width flit t) := by
  unfold State.linkRate
  repeat' first
    | with_reducible assumption
    | with_reducible apply State.linkShape_onward
    | with_reducible apply Fabric.raise_onward
    | with_reducible apply State.raise_onward
    | with_reducible refine State.Onward.ite ?_ ?_
    | split

end Sys2Proof.Machine
end

