-- ==== Sys2Proof/Laws/Time.lean ====
section
/-! SUPPORT. What each operation of `Machine/Time.lean` keeps (see `Laws/Onward.lean`). -/
set_option linter.unusedTactic false
set_option linter.unreachableTactic false
set_option linter.tactic.unusedName false
namespace Sys2Proof.Machine

theorem State.syncTime_onward {s t : State} (h : s.Onward t) : s.Onward (State.syncTime t) := by
  unfold State.syncTime
  repeat' first
    | with_reducible assumption
    | (extract_lets -merge +onlyGivenNames x
       first
       | (have _f := fun a => x a
          clear _f
          unfold x
          clear x)
       | (refine onward_cut (P := State.Onward s x) ?_ (fun hx => ?_)
          on_goal 1 => (unfold x; clear x)
          on_goal 2 => clear_value x)
       | clear_value x
       | (unfold x; clear x)
       | clear x)
    | with_reducible apply Fabric.wr_onward
    | with_reducible apply State.wr_onward
    | with_reducible apply State.wrIf_onward
    | fail_if_no_progress dsimp only

theorem State.joined_onward {s t : State} (h : s.Onward t) : s.Onward (State.joined t) := by
  unfold State.joined
  repeat' first
    | with_reducible assumption
    | with_reducible apply Fabric.raise_onward
    | with_reducible apply State.raise_onward
    | with_reducible apply State.syncTime_onward
    | with_reducible apply Fabric.tally_onward
    | with_reducible apply State.tally_onward

theorem Counter.run_val_le {c : Counter} {n : Nat} : c.val ≤ (c.run n).val := Nat.le_add_right _ _

/-- The clock takes nothing back, and device time goes on with the counter it follows (R349). -/
theorem TimeBase.run_onward {a b : TimeBase} {n : Nat} (h : a.Onward b) : a.Onward (b.run n) := fun f => by
  have x := h f
  have hd := x.dev
  have ha := Nat.le_trans x.tda (Counter.run_val_le (c := b.tda) (n := n))
  have hb := Nat.le_trans x.tdb (Counter.run_val_le (c := b.tdb) (n := n))
  simp only [TimeBase.run]
  split
  · rename_i c
    refine ⟨fun _ => rfl, ?_, ha, hb⟩
    exact Nat.le_trans hd (Nat.le_trans (Nat.le_add_right _ _) c.2)
  · refine ⟨fun k => ?_, Nat.le_trans hd (Nat.le_add_right _ _), ha, hb⟩
    have e := x.follows k
    have i : b.devInc = (b.counter b.active).inc := by
      rcases k with k | k <;> simp only at k <;> simp only [TimeBase.devInc, k]
    change b.dev + n * b.devInc = _
    rw [e, i]
    simp only [TimeBase.counter]
    split <;> rfl

theorem State.runSpan_onward {n : Nat} {s t : State} (h : s.Onward t) : s.Onward (State.runSpan t n) := by
  have k : s.Onward { t with tb := t.tb.run n } := State.Onward.updTb h (TimeBase.run_onward h.tb)
  simp only [State.runSpan]
  split
  · exact State.joined_onward k
  · exact State.syncTime_onward k


theorem State.advanceIn_onward {k n : Nat} {s t : State} (h : s.Onward t) : s.Onward (State.advanceIn k n t) := by
  induction k generalizing n t with
  | zero => exact State.runSpan_onward h
  | succ k ih =>
    simp only [State.advanceIn]
    split
    · exact State.runSpan_onward h
    · exact ih (State.runSpan_onward h)


theorem State.advance_onward {n : Nat} {s t : State} (h : s.Onward t) : s.Onward (State.advance t n) := by
  unfold State.advance
  repeat' first
    | with_reducible assumption
    | with_reducible apply State.advanceIn_onward

theorem State.runToIn_onward {k n : Nat} {s t : State} (h : s.Onward t) : s.Onward (State.runToIn k n t) := by
  induction k generalizing t with
  | zero => exact State.runSpan_onward h
  | succ k ih =>
    simp only [State.runToIn]
    split
    · exact h
    · split
      · exact State.runSpan_onward h
      · exact ih (State.runSpan_onward h)


theorem State.runTo_onward {t' : Nat} {s t : State} (h : s.Onward t) : s.Onward (State.runTo t t') := by
  unfold State.runTo
  repeat' first
    | with_reducible assumption
    | with_reducible apply State.runToIn_onward

theorem State.bwTake_onward {p : Nat} {s t : State} (h : s.Onward t) : s.Onward (State.bwTake p t) := by
  unfold State.bwTake
  repeat' first
    | with_reducible assumption
    | (extract_lets -merge +onlyGivenNames x
       first
       | (have _f := fun a => x a
          clear _f
          unfold x
          clear x)
       | (refine onward_cut (P := State.Onward s x) ?_ (fun hx => ?_)
          on_goal 1 => (unfold x; clear x)
          on_goal 2 => clear_value x)
       | clear_value x
       | (unfold x; clear x)
       | clear x)
    | with_reducible apply Fabric.wr_onward
    | with_reducible apply State.wr_onward
    | fail_if_no_progress dsimp only
    | fail_if_no_progress with_reducible apply State.Onward.upd

theorem State.steppedMarks_onward {old : Nat} {s t : State} (h : s.Onward t) :
    s.Onward (State.steppedMarks old t) := State.Onward.updTb h (TimeBase.Onward.upd h.tb)

theorem State.steppedNext_onward {s t : State} (h : s.Onward t) : s.Onward (State.steppedNext t) := State.Onward.upd h

theorem State.steppedTake_onward {old : Nat} {s t : State} (h : s.Onward t) :
    s.Onward (State.steppedTake old t) := by
  simp only [State.steppedTake]
  generalize State.steppedPeriod t old = q
  cases q with
  | none => exact h
  | some p => exact State.steppedNext_onward (State.bwTake_onward h)

theorem State.forwardStep_onward {old : Nat} {s t : State} (h : s.Onward t) : s.Onward (State.forwardStep t old) := by
  have k := State.steppedTake_onward (old := old) (State.steppedMarks_onward (old := old) h)
  simp only [State.forwardStep]
  split
  · exact k
  · exact State.raise_onward (State.tally_onward (State.steppedNext_onward k))

theorem State.bwPeriod_onward {fn : Nat} {v : Nat} {s t : State} (h : s.Onward t) :
    s.Onward (State.bwPeriod fn v t) := by
  unfold State.bwPeriod
  repeat' first
    | with_reducible assumption
    | with_reducible apply State.accErr_onward
    | with_reducible apply Fabric.wr_onward
    | with_reducible apply State.wr_onward
    | with_reducible refine State.Onward.ite ?_ ?_
    | split
    | fail_if_no_progress with_reducible apply State.Onward.upd

theorem State.bwApply_onward {s t : State} (h : s.Onward t) : s.Onward (State.bwApply t) := by
  unfold State.bwApply
  repeat' first
    | with_reducible assumption
    | (extract_lets -merge +onlyGivenNames x
       first
       | (have _f := fun a => x a
          clear _f
          unfold x
          clear x)
       | (refine onward_cut (P := State.Onward s x) ?_ (fun hx => ?_)
          on_goal 1 => (unfold x; clear x)
          on_goal 2 => clear_value x)
       | clear_value x
       | (unfold x; clear x)
       | clear x)
    | with_reducible apply State.bwTake_onward
    | with_reducible apply State.runTo_onward
    | with_reducible refine State.Onward.ite ?_ ?_
    | split
    | fail_if_no_progress dsimp only
    | fail_if_no_progress with_reducible apply State.Onward.upd

/-- A step of device time onto a counter that is not behind it. -/
theorem State.joinStep_onward {d : Nat} {s t : State} (h : s.Onward t) (g : 0 ≤ t.joinGap d) :
    s.Onward (State.joinStep d t) := by
  unfold State.joinStep
  refine State.forwardStep_onward (State.joined_onward (State.Onward.updTb h fun f => ?_))
  have x := h.tb f
  refine ⟨fun _ => rfl, ?_, x.tda, x.tdb⟩
  have g := g
  simp only [State.joinGap] at g
  exact Nat.le_trans x.dev (by simp only; omega)


theorem State.joinWait_onward {d : Nat} {g : Int} {s t : State} (h : s.Onward t) : s.Onward (State.joinWait d g t) := by
  unfold State.joinWait
  refine State.raise_onward (State.syncTime_onward (State.Onward.updTb h fun f => ?_))
  have x := h.tb f
  split
  · rename_i e
    exact ⟨fun _ => x.follows (.inl e), x.dev, x.tda, x.tdb⟩
  · rename_i e
    exact ⟨fun _ => x.follows (.inr e), x.dev, x.tda, x.tdb⟩
  · exact ⟨fun k => (by rcases k with k | k <;> cases k), x.dev, x.tda, x.tdb⟩
  · exact ⟨x.follows, x.dev, x.tda, x.tdb⟩


theorem State.joinCatch_onward {d : Nat} {s t : State} (h : s.Onward t) : s.Onward (State.joinCatch d t) := by
  unfold State.joinCatch
  refine State.syncTime_onward (State.Onward.updTb h fun f => ?_)
  have x := h.tb f
  exact ⟨fun k => (by rcases k with k | k <;> cases k), x.dev, x.tda, x.tdb⟩


theorem State.joinJudge_onward {d : Nat} {s t : State} (h : s.Onward t) : s.Onward (State.joinJudge d t) := by
  simp only [State.joinJudge]
  split
  · rename_i g
    split
    · exact State.joinStep_onward h g
    · exact State.joinWait_onward h
  · split
    · exact State.joinCatch_onward h
    · exact State.joinWait_onward h


theorem State.joinBegin_onward {d : Nat} {s t : State} (h : s.Onward t) : s.Onward (State.joinBegin d t) := by
  unfold State.joinBegin
  repeat' first
    | with_reducible assumption
    | (extract_lets -merge +onlyGivenNames x
       first
       | (have _f := fun a => x a
          clear _f
          unfold x
          clear x)
       | (refine onward_cut (P := State.Onward s x) ?_ (fun hx => ?_)
          on_goal 1 => (unfold x; clear x)
          on_goal 2 => clear_value x)
       | (refine onward_cut (P := TimeBase.Onward s.tb x) ?_ (fun hx => ?_)
          on_goal 1 => (unfold x; clear x)
          on_goal 2 => clear_value x)
       | clear_value x
       | (unfold x; clear x)
       | clear x)
    | with_reducible apply State.advance_onward
    | with_reducible apply State.joinJudge_onward
    | with_reducible apply Fabric.raise_onward
    | with_reducible apply State.raise_onward
    | with_reducible apply Fabric.wr_onward
    | with_reducible apply State.wr_onward
    | fail_if_no_progress dsimp only
    | fail_if_no_progress with_reducible apply State.Onward.upd
    | with_reducible refine State.Onward.updTb ?_ ?_
    | fail_if_no_progress with_reducible apply TimeBase.Onward.upd
    | with_reducible apply State.Onward.tb

theorem State.joinStart_onward {d : Nat} {s t : State} (h : s.Onward t) : s.Onward (State.joinStart d t) := by
  unfold State.joinStart
  repeat' first
    | with_reducible assumption
    | with_reducible apply State.joinBegin_onward
    | with_reducible apply Fabric.wr_onward
    | with_reducible apply State.wr_onward
    | with_reducible refine State.Onward.ite ?_ ?_
    | split

theorem State.joinRun_onward {n : Nat} {s t : State} (h : s.Onward t) : s.Onward (State.joinRun n t) := by
  induction n generalizing t with
  | zero => exact h
  | succ n ih => exact State.Onward.ite (ih (State.advance_onward h)) h


theorem State.joinForce_onward {s t : State} (h : s.Onward t) : s.Onward (State.joinForce t) := by
  have k := State.advance_onward (n := 1) h
  simp only [State.joinForce]
  split
  · split
    · exact State.joinStep_onward k ‹_›
    · exact State.joinCatch_onward k
  · exact h


theorem State.joinCancel_onward {s t : State} (h : s.Onward t) : s.Onward (State.joinCancel t) := by
  simp only [State.joinCancel]
  split
  · rename_i e
    refine State.syncTime_onward (State.Onward.updTb (State.wr_onward h) fun f => ?_)
    have x := h.tb f
    exact ⟨fun _ => x.follows (.inr e), x.dev, x.tda, x.tdb⟩
  · split
    · exact State.joinBegin_onward (State.wr_onward h)
    · exact h


/-- A change of a counter that leaves its value. -/
theorem State.updCounter_onward {d : Nat} {g : Counter → Counter} {s t : State} (hg : ∀ c, (g c).val = c.val)
    (h : s.Onward t) : s.Onward (State.updCounter t d g) := by
  refine State.Onward.updTb h fun f => ?_
  have x := h.tb f
  have y := x.follows
  simp only [TimeBase.setCounter]
  split
  · rename_i e
    refine ⟨fun k => (y k).trans ?_, x.dev, ?_, x.tdb⟩
    · simp only [e, TimeBase.counter, if_pos]
      split
      · exact (hg _).symm
      · rfl
    · simp only [e, TimeBase.counter, if_pos, hg]
      exact x.tda
  · rename_i e
    refine ⟨fun k => (y k).trans ?_, x.dev, x.tda, ?_⟩
    · simp only [e, TimeBase.counter, if_neg, not_false_eq_true]
      split
      · rfl
      · exact (hg _).symm
    · simp only [e, TimeBase.counter, if_neg, not_false_eq_true, hg]
      exact x.tdb


theorem State.stepEvent_onward {d : Nat} {detail : Nat} {s t : State} (h : s.Onward t) :
    s.Onward (State.stepEvent d detail t) := by
  unfold State.stepEvent
  repeat' first
    | with_reducible assumption
    | with_reducible apply Fabric.raise_onward
    | with_reducible apply State.raise_onward

/-- After a set, seen from a state before it: the set state `w` has kept everything but has moved counter `d` on. -/
theorem State.afterSet_onward {d v : Nat} {s t w : State} (h : s.Onward t) (hv : (t.tb.counter d).val ≤ v)
    (hk : s.Kept w) (hw : w.tb = t.tb.setCounter d { t.tb.counter d with val := v }) :
    s.Onward (State.afterSet d w) := by
  have hdev : w.tb.dev = t.tb.dev := by rw [hw, TimeBase.setCounter]; split <;> rfl
  have hjoin : w.tb.join = t.tb.join := by rw [hw, TimeBase.setCounter]; split <;> rfl
  have hact : w.tb.active = t.tb.active := by rw [hw, TimeBase.setCounter]; split <;> rfl
  have hcd : (w.tb.counter d).val = v := by
    rw [hw, TimeBase.setCounter, TimeBase.counter]; split <;> simp [*]
  have ha : t.tb.tda.val ≤ w.tb.tda.val := by
    rw [hw, TimeBase.setCounter]; split
    · rename_i e; simp only [e, TimeBase.counter, if_pos] at hv; exact hv
    · exact Nat.le_refl _
  have hb : t.tb.tdb.val ≤ w.tb.tdb.val := by
    rw [hw, TimeBase.setCounter]; split
    · exact Nat.le_refl _
    · rename_i e; simp only [e, TimeBase.counter, if_neg, not_false_eq_true] at hv; exact hv
  have hle (f : s.tb.Follows) : s.tb.dev ≤ w.tb.dev ∧ s.tb.tda.val ≤ w.tb.tda.val ∧ s.tb.tdb.val ≤ w.tb.tdb.val :=
    have x := h.tb f
    ⟨hdev ▸ x.dev, Nat.le_trans x.tda ha, Nat.le_trans x.tdb hb⟩
  have honward (hf : s.tb.Follows → w.tb.Follows) : s.Onward w :=
    ⟨hk, fun f => ⟨hf f, (hle f).1, (hle f).2.1, (hle f).2.2⟩⟩
  have hfollow (e : w.tb.join = .follow ∨ w.tb.join = .wait) (k : State.sameCounter w.tb.active d = false) :
      s.Onward w := honward fun f _ => by
    have y := (h.tb f).follows (hjoin ▸ e)
    rw [hdev, y, hact, hw, TimeBase.setCounter]
    rw [hact] at k
    simp only [State.sameCounter] at k
    by_cases p : t.tb.active = 0 <;> by_cases q : d = 0 <;> simp_all
  have hself (e : w.tb.join = .follow ∨ w.tb.join = .wait) (k : State.sameCounter w.tb.active d = true) :
      s.Onward (State.forwardStep { w with tb := { w.tb with dev := (w.tb.counter d).val } } w.tb.dev) := by
    refine State.forwardStep_onward ⟨⟨hk.pending, hk.fab, hk.free⟩, fun f => ?_⟩
    have y := (h.tb f).follows (hjoin ▸ e)
    have c := hle f
    refine ⟨fun _ => ?_, ?_, c.2.1, c.2.2⟩
    · simp only [State.sameCounter] at k
      by_cases p : w.tb.active = 0 <;> by_cases q : d = 0 <;> simp_all [TimeBase.counter]
    · refine Nat.le_trans c.1 ?_
      change w.tb.dev ≤ (w.tb.counter d).val
      rw [hcd, hdev, y]
      refine Nat.le_trans (Nat.le_of_eq ?_) hv
      rw [hact] at k
      simp only [State.sameCounter] at k
      by_cases p : t.tb.active = 0 <;> by_cases q : d = 0 <;> simp_all [TimeBase.counter]
  have hrun (e : ¬ (w.tb.join = .follow ∨ w.tb.join = .wait)) : s.Onward w := honward fun _ k => absurd k e
  simp only [State.afterSet]
  split
  · rename_i e
    split
    · exact hself (.inl e) ‹_›
    · rename_i k
      have k := hfollow (.inl e) (Bool.eq_false_of_not_eq_true k)
      split
      · exact State.joinStep_onward k (by simp_all)
      · exact k
  · rename_i e
    split
    · exact hself (.inr e) ‹_›
    · rename_i k
      have k := hfollow (.inr e) (Bool.eq_false_of_not_eq_true k)
      split
      · exact State.joinStep_onward k (by simp_all)
      · exact k
  · rename_i e
    have k := hrun (by simp [e])
    split
    · exact State.joinJudge_onward k
    · exact k
  · rename_i e
    have k := hrun (by simp [e])
    split
    · exact State.joinStep_onward k (by simp_all)
    · exact k


theorem State.applySet_onward {d v : Nat} {s t : State} (h : s.Onward t) : s.Onward (State.applySet d v t) := by
  simp only [State.applySet]
  split
  · exact State.stepEvent_onward (State.wr_onward h)
  · rename_i c
    refine State.afterSet_onward h (Nat.le_of_not_lt c) ?_ rfl
    have k : s.Kept (t.updCounter d fun c => { c with val := v }) := ⟨h.kept.pending, h.kept.fab, h.kept.free⟩
    exact k.trans (State.stepEvent_onward (State.tally_onward .rfl)).kept


theorem State.timeSet_onward {d : Nat} {s t : State} (h : s.Onward t) : s.Onward (State.timeSet d t) := by
  unfold State.timeSet
  repeat' first
    | with_reducible assumption
    | (extract_lets -merge +onlyGivenNames x
       first
       | (have _f := fun a => x a
          clear _f
          unfold x
          clear x)
       | (refine onward_cut (P := State.Onward s x) ?_ (fun hx => ?_)
          on_goal 1 => (unfold x; clear x)
          on_goal 2 => clear_value x)
       | clear_value x
       | (unfold x; clear x)
       | clear x)
    | with_reducible apply State.advance_onward
    | with_reducible apply State.applySet_onward
    | with_reducible refine State.updCounter_onward (fun _ => rfl) ?_
    | fail_if_no_progress dsimp only
    | fail_if_no_progress with_reducible apply State.Onward.upd

theorem State.setOnPps_onward {d : Nat} {s t : State} (h : s.Onward t) : s.Onward (State.setOnPps d t) := by
  unfold State.setOnPps
  repeat' first
    | with_reducible assumption
    | (extract_lets -merge +onlyGivenNames x
       first
       | (have _f := fun a => x a
          clear _f
          unfold x
          clear x)
       | (refine onward_cut (P := State.Onward s x) ?_ (fun hx => ?_)
          on_goal 1 => (unfold x; clear x)
          on_goal 2 => clear_value x)
       | clear_value x
       | (unfold x; clear x)
       | clear x)
    | with_reducible refine State.updCounter_onward (fun _ => rfl) ?_
    | fail_if_no_progress dsimp only
    | fail_if_no_progress with_reducible apply State.Onward.upd

theorem State.halve_onward {d : Nat} {offset : Nat} {s t : State} (h : s.Onward t) :
    s.Onward (State.halve d offset t) := by
  unfold State.halve
  repeat' first
    | with_reducible assumption
    | (extract_lets -merge +onlyGivenNames x
       first
       | (have _f := fun a => x a
          clear _f
          unfold x
          clear x)
       | (refine onward_cut (P := State.Onward s x) ?_ (fun hx => ?_)
          on_goal 1 => (unfold x; clear x)
          on_goal 2 => clear_value x)
       | clear_value x
       | (unfold x; clear x)
       | clear x)
    | with_reducible apply State.stepEvent_onward
    | with_reducible apply State.syncTime_onward
    | with_reducible apply Fabric.tally_onward
    | with_reducible apply State.tally_onward
    | with_reducible refine State.updCounter_onward (fun _ => rfl) ?_
    | fail_if_no_progress dsimp only
    | fail_if_no_progress with_reducible apply State.Onward.upd

theorem State.incCommit_onward {fn : Nat} {d : Nat} {int : Nat} {s t : State} (h : s.Onward t) :
    s.Onward (State.incCommit fn d int t) := by
  unfold State.incCommit
  repeat' first
    | with_reducible assumption
    | (extract_lets -merge +onlyGivenNames x
       first
       | (have _f := fun a => x a
          clear _f
          unfold x
          clear x)
       | (refine onward_cut (P := State.Onward s x) ?_ (fun hx => ?_)
          on_goal 1 => (unfold x; clear x)
          on_goal 2 => clear_value x)
       | clear_value x
       | (unfold x; clear x)
       | clear x)
    | with_reducible apply State.accErr_onward
    | with_reducible refine State.updCounter_onward (fun _ => rfl) ?_
    | with_reducible apply Fabric.wr_onward
    | with_reducible apply State.wr_onward
    | with_reducible apply Fabric.ww_onward
    | with_reducible apply State.ww_onward
    | with_reducible refine State.Onward.ite ?_ ?_
    | split
    | fail_if_no_progress dsimp only
    | fail_if_no_progress with_reducible apply State.Onward.upd

theorem State.adjustStart_onward {fn : Nat} {d : Nat} {ticks : Nat} {s t : State} (h : s.Onward t) :
    s.Onward (State.adjustStart fn d ticks t) := by
  unfold State.adjustStart
  repeat' first
    | with_reducible assumption
    | (extract_lets -merge +onlyGivenNames x
       first
       | (have _f := fun a => x a
          clear _f
          unfold x
          clear x)
       | (refine onward_cut (P := State.Onward s x) ?_ (fun hx => ?_)
          on_goal 1 => (unfold x; clear x)
          on_goal 2 => clear_value x)
       | clear_value x
       | (unfold x; clear x)
       | clear x)
    | with_reducible apply State.accErr_onward
    | with_reducible apply State.syncTime_onward
    | with_reducible refine State.updCounter_onward (fun _ => rfl) ?_
    | with_reducible apply Fabric.wr_onward
    | with_reducible apply State.wr_onward
    | with_reducible refine State.Onward.ite ?_ ?_
    | split
    | fail_if_no_progress dsimp only
    | fail_if_no_progress with_reducible apply State.Onward.upd

theorem State.servoState_onward {d : Nat} {st : Nat} {s t : State} (h : s.Onward t) :
    s.Onward (State.servoState d st t) := by
  unfold State.servoState
  repeat' first
    | with_reducible assumption
    | (extract_lets -merge +onlyGivenNames x
       first
       | (have _f := fun a => x a
          clear _f
          unfold x
          clear x)
       | (refine onward_cut (P := State.Onward s x) ?_ (fun hx => ?_)
          on_goal 1 => (unfold x; clear x)
          on_goal 2 => clear_value x)
       | clear_value x
       | (unfold x; clear x)
       | clear x)
    | with_reducible apply Fabric.raise_onward
    | with_reducible apply State.raise_onward
    | with_reducible apply Fabric.wr_onward
    | with_reducible apply State.wr_onward
    | with_reducible refine State.Onward.ite ?_ ?_
    | split
    | fail_if_no_progress dsimp only

theorem State.updServo_onward {d : Nat} {g : PtpServo → PtpServo} {s t : State} (h : s.Onward t) :
    s.Onward (State.updServo t d g) := by
  unfold State.updServo
  repeat' first
    | with_reducible assumption
    | with_reducible refine State.updCounter_onward (fun _ => rfl) ?_
    | fail_if_no_progress with_reducible apply State.Onward.upd

theorem State.loseHistory_onward {d : Nat} {s t : State} (h : s.Onward t) : s.Onward (State.loseHistory d t) := by
  unfold State.loseHistory
  repeat' first
    | with_reducible assumption
    | (extract_lets -merge +onlyGivenNames x
       first
       | (have _f := fun a => x a
          clear _f
          unfold x
          clear x)
       | (refine onward_cut (P := State.Onward s x) ?_ (fun hx => ?_)
          on_goal 1 => (unfold x; clear x)
          on_goal 2 => clear_value x)
       | clear_value x
       | (unfold x; clear x)
       | clear x)
    | with_reducible apply State.servoState_onward
    | with_reducible apply State.updServo_onward
    | with_reducible refine State.Onward.ite ?_ ?_
    | split
    | fail_if_no_progress dsimp only
    | fail_if_no_progress with_reducible apply State.Onward.upd

theorem State.ptpCfgChanged_onward {d : Nat} {s t : State} (h : s.Onward t) : s.Onward (State.ptpCfgChanged d t) := by
  unfold State.ptpCfgChanged
  repeat' first
    | with_reducible assumption
    | with_reducible apply State.servoState_onward
    | with_reducible apply State.updServo_onward
    | fail_if_no_progress dsimp only
    | fail_if_no_progress with_reducible apply State.Onward.upd

theorem State.ptpAnnounce_onward {d : Nat} {domain : Nat} {transport : Nat} {data : List Nat} {s t : State} (h : s.Onward t) :
    s.Onward (State.ptpAnnounce d domain transport data t) := by
  unfold State.ptpAnnounce
  repeat' first
    | with_reducible assumption
    | (extract_lets -merge +onlyGivenNames x
       first
       | (have _f := fun a => x a
          clear _f
          unfold x
          clear x)
       | (refine onward_cut (P := State.Onward s x) ?_ (fun hx => ?_)
          on_goal 1 => (unfold x; clear x)
          on_goal 2 => clear_value x)
       | clear_value x
       | (unfold x; clear x)
       | clear x)
    | with_reducible apply State.loseHistory_onward
    | with_reducible apply State.servoState_onward
    | with_reducible apply State.updServo_onward
    | with_reducible apply Fabric.wr_onward
    | with_reducible apply State.wr_onward
    | with_reducible refine State.Onward.ite ?_ ?_
    | split
    | fail_if_no_progress dsimp only
    | fail_if_no_progress with_reducible apply State.Onward.upd

theorem State.ptpDelay_onward {d : Nat} {delay : Nat} {s t : State} (h : s.Onward t) :
    s.Onward (State.ptpDelay d delay t) := by
  unfold State.ptpDelay
  repeat' first
    | with_reducible assumption
    | with_reducible apply State.updServo_onward
    | with_reducible apply Fabric.wr_onward
    | with_reducible apply State.wr_onward
    | with_reducible refine State.Onward.ite ?_ ?_
    | split
    | fail_if_no_progress dsimp only
    | fail_if_no_progress with_reducible apply State.Onward.upd

theorem State.ptpSync_onward {d : Nat} {master : Nat} {gm : Nat} {s t : State} (h : s.Onward t) :
    s.Onward (State.ptpSync d master gm t) := by
  unfold State.ptpSync
  repeat' first
    | with_reducible assumption
    | (extract_lets -merge +onlyGivenNames x
       first
       | (have _f := fun a => x a
          clear _f
          unfold x
          clear x)
       | (refine onward_cut (P := State.Onward s x) ?_ (fun hx => ?_)
          on_goal 1 => (unfold x; clear x)
          on_goal 2 => clear_value x)
       | (refine onward_cut (P := State.Onward s x.2) ?_ (fun hx => ?_)
          on_goal 1 => (unfold x; clear x)
          on_goal 2 => clear_value x)
       | (refine onward_cut (P := State.Onward s x.1) ?_ (fun hx => ?_)
          on_goal 1 => (unfold x; clear x)
          on_goal 2 => clear_value x)
       | clear_value x
       | (unfold x; clear x)
       | clear x)
    | with_reducible apply State.applySet_onward
    | with_reducible apply State.draw_onward
    | with_reducible apply State.halve_onward
    | with_reducible apply State.loseHistory_onward
    | with_reducible apply State.servoState_onward
    | with_reducible apply State.syncTime_onward
    | with_reducible apply Fabric.tally_onward
    | with_reducible apply State.tally_onward
    | with_reducible refine State.updCounter_onward (fun _ => rfl) ?_
    | with_reducible apply State.updServo_onward
    | with_reducible apply Fabric.wr_onward
    | with_reducible apply State.wr_onward
    | with_reducible refine State.Onward.ite ?_ ?_
    | split
    | fail_if_no_progress dsimp only
    | fail_if_no_progress with_reducible apply State.Onward.upd

theorem State.announceTimeout_onward {d : Nat} {s t : State} (h : s.Onward t) :
    s.Onward (State.announceTimeout d t) := by
  unfold State.announceTimeout
  repeat' first
    | with_reducible assumption
    | (extract_lets -merge +onlyGivenNames x
       first
       | (have _f := fun a => x a
          clear _f
          unfold x
          clear x)
       | (refine onward_cut (P := State.Onward s x) ?_ (fun hx => ?_)
          on_goal 1 => (unfold x; clear x)
          on_goal 2 => clear_value x)
       | clear_value x
       | (unfold x; clear x)
       | clear x)
    | with_reducible apply State.servoState_onward
    | with_reducible apply Fabric.tally_onward
    | with_reducible apply State.tally_onward
    | with_reducible refine State.Onward.ite ?_ ?_
    | split
    | fail_if_no_progress dsimp only

theorem State.holdoverExpire_onward {d : Nat} {s t : State} (h : s.Onward t) :
    s.Onward (State.holdoverExpire d t) := by
  unfold State.holdoverExpire
  repeat' first
    | with_reducible assumption
    | with_reducible apply State.servoState_onward
    | with_reducible apply State.updServo_onward
    | with_reducible refine State.Onward.ite ?_ ?_
    | split
    | fail_if_no_progress dsimp only
    | fail_if_no_progress with_reducible apply State.Onward.upd

theorem State.setLocks_onward {ref : Bool} {pps : Bool} {s t : State} (h : s.Onward t) :
    s.Onward (State.setLocks ref pps t) := by
  unfold State.setLocks
  repeat' first
    | with_reducible assumption
    | (extract_lets -merge +onlyGivenNames x
       first
       | (have _f := fun a => x a
          clear _f
          unfold x
          clear x)
       | (refine onward_cut (P := State.Onward s x) ?_ (fun hx => ?_)
          on_goal 1 => (unfold x; clear x)
          on_goal 2 => clear_value x)
       | (refine onward_cut (P := State.Onward s x.2) ?_ (fun hx => ?_)
          on_goal 1 => (unfold x; clear x)
          on_goal 2 => clear_value x)
       | (refine onward_cut (P := State.Onward s x.1) ?_ (fun hx => ?_)
          on_goal 1 => (unfold x; clear x)
          on_goal 2 => clear_value x)
       | (refine onward_cut (P := TimeBase.Onward s.tb x) ?_ (fun hx => ?_)
          on_goal 1 => (unfold x; clear x)
          on_goal 2 => clear_value x)
       | clear_value x
       | (unfold x; clear x)
       | clear x)
    | with_reducible apply Fabric.raise_onward
    | with_reducible apply State.raise_onward
    | with_reducible apply State.wrIf_onward
    | with_reducible refine State.Onward.ite ?_ ?_
    | split
    | fail_if_no_progress dsimp only
    | fail_if_no_progress with_reducible apply State.Onward.upd
    | with_reducible refine State.Onward.updTb ?_ ?_
    | fail_if_no_progress with_reducible apply TimeBase.Onward.upd
    | with_reducible apply State.Onward.tb

theorem State.applyOnPps_onward {d : Nat} {s t : State} (h : s.Onward t) : s.Onward (State.applyOnPps d t) := by
  unfold State.applyOnPps
  repeat' first
    | with_reducible assumption
    | with_reducible apply State.applySet_onward
    | with_reducible apply State.setOnPps_onward
    | with_reducible refine State.updCounter_onward (fun _ => rfl) ?_
    | with_reducible refine State.Onward.ite ?_ ?_
    | split
    | fail_if_no_progress dsimp only
    | fail_if_no_progress with_reducible apply State.Onward.upd

theorem State.ppsEdge_onward {s t : State} (h : s.Onward t) : s.Onward (State.ppsEdge t) := by
  unfold State.ppsEdge
  repeat' first
    | with_reducible assumption
    | (extract_lets -merge +onlyGivenNames x
       first
       | (have _f := fun a => x a
          clear _f
          unfold x
          clear x)
       | (refine onward_cut (P := State.Onward s x) ?_ (fun hx => ?_)
          on_goal 1 => (unfold x; clear x)
          on_goal 2 => clear_value x)
       | (refine onward_cut (P := TimeBase.Onward s.tb x) ?_ (fun hx => ?_)
          on_goal 1 => (unfold x; clear x)
          on_goal 2 => clear_value x)
       | clear_value x
       | (unfold x; clear x)
       | clear x)
    | with_reducible apply State.applyOnPps_onward
    | with_reducible apply State.setLocks_onward
    | with_reducible apply State.syncTime_onward
    | with_reducible refine State.updCounter_onward (fun _ => rfl) ?_
    | with_reducible apply Fabric.wrTime_onward
    | with_reducible apply State.wrTime_onward
    | with_reducible refine State.Onward.ite ?_ ?_
    | split
    | fail_if_no_progress dsimp only
    | fail_if_no_progress with_reducible apply State.Onward.upd
    | with_reducible refine State.Onward.updTb ?_ ?_
    | fail_if_no_progress with_reducible apply TimeBase.Onward.upd
    | with_reducible apply State.Onward.tb

theorem State.refSel_onward {v : Nat} {s t : State} (h : s.Onward t) : s.Onward (State.refSel v t) := by
  unfold State.refSel
  repeat' first
    | with_reducible assumption
    | with_reducible apply State.setLocks_onward
    | with_reducible apply Fabric.wr_onward
    | with_reducible apply State.wr_onward
    | with_reducible refine State.Onward.ite ?_ ?_
    | split

theorem State.setSlot_onward {k : Nat} {x : Slot} {s t : State} (h : s.Onward t) :
    s.Onward (State.setSlot t k x) := by
  unfold State.setSlot
  repeat' first
    | with_reducible assumption
    | fail_if_no_progress dsimp only
    | fail_if_no_progress with_reducible apply State.Onward.upd
    | with_reducible refine State.Onward.updTb ?_ ?_
    | fail_if_no_progress with_reducible apply TimeBase.Onward.upd
    | with_reducible apply State.Onward.tb

theorem State.slotArm_onward {k : Nat} {s t : State} (h : s.Onward t) : s.Onward (State.slotArm k t) := by
  unfold State.slotArm
  repeat' first
    | with_reducible assumption
    | (extract_lets -merge +onlyGivenNames x
       first
       | (have _f := fun a => x a
          clear _f
          unfold x
          clear x)
       | (refine onward_cut (P := State.Onward s x) ?_ (fun hx => ?_)
          on_goal 1 => (unfold x; clear x)
          on_goal 2 => clear_value x)
       | clear_value x
       | (unfold x; clear x)
       | clear x)
    | with_reducible apply State.setSlot_onward
    | with_reducible apply Fabric.wr_onward
    | with_reducible apply State.wr_onward
    | with_reducible refine State.Onward.ite ?_ ?_
    | split
    | fail_if_no_progress dsimp only

theorem State.slotDisarm_onward {k : Nat} {s t : State} (h : s.Onward t) : s.Onward (State.slotDisarm k t) := by
  unfold State.slotDisarm
  repeat' first
    | with_reducible assumption
    | with_reducible apply State.setSlot_onward
    | with_reducible apply Fabric.wr_onward
    | with_reducible apply State.wr_onward

theorem State.slotRun_onward {k : Nat} {s t : State} (h : s.Onward t) : s.Onward (State.slotRun k t) := by
  unfold State.slotRun
  repeat' first
    | with_reducible assumption
    | (extract_lets -merge +onlyGivenNames x
       first
       | (have _f := fun a => x a
          clear _f
          unfold x
          clear x)
       | (refine onward_cut (P := State.Onward s x) ?_ (fun hx => ?_)
          on_goal 1 => (unfold x; clear x)
          on_goal 2 => clear_value x)
       | clear_value x
       | (unfold x; clear x)
       | clear x)
    | with_reducible apply State.advance_onward
    | with_reducible apply State.runTo_onward
    | with_reducible refine State.Onward.ite ?_ ?_
    | split
    | fail_if_no_progress dsimp only

theorem State.slotFire_onward {k : Nat} {s t : State} (h : s.Onward t) : s.Onward (State.slotFire k t).1 := by
  have e (c : Bool) {u : State} {f : FRef} {v : Nat} (h : s.Onward u) : s.Onward (if c then u.wr f v else u) := by
    split
    · exact State.wr_onward h
    · exact h
  have o (c : Prop) [Decidable c] {u v : State} (h : s.Onward u) (k : s.Onward v) : s.Onward (if c then u else v) := by
    split
    · exact h
    · exact k
  have a := e (t.slot k).stepped (f := TC_STATUS_STEPPED k) (v := 1) (State.wr_onward (f := TC_STATUS_FIRED k) (v := 1) h)
  simp only [State.slotFire]
  repeat' first
    | with_reducible assumption
    | with_reducible apply State.raise_onward
    | with_reducible apply State.setSlot_onward
    | with_reducible apply State.slotDisarm_onward
    | with_reducible apply State.tally_onward
    | with_reducible apply State.wr_onward
    | with_reducible apply State.wrTime_onward
    | with_reducible apply o
    | fail_if_no_progress with_reducible apply State.Onward.upd
    | with_reducible refine State.Onward.updTb ?_ ?_
    | fail_if_no_progress with_reducible apply TimeBase.Onward.upd
    | with_reducible apply State.Onward.tb


end Sys2Proof.Machine
end

