-- ==== Sys2Proof/Laws/Analog.lean ====
section
/-! SUPPORT. What each operation of `Machine/Analog.lean` keeps (see `Laws/Onward.lean`). -/
set_option linter.unusedTactic false
set_option linter.unreachableTactic false
set_option linter.tactic.unusedName false
namespace Sys2Proof.Machine

theorem State.setAi_onward {c : Nat} {x : AiChan} {s t : State} (h : s.Onward t) : s.Onward (State.setAi t c x) := by
  unfold State.setAi
  repeat' first
    | with_reducible assumption
    | fail_if_no_progress dsimp only
    | fail_if_no_progress with_reducible apply State.Onward.upd

theorem State.updAi_onward {c : Nat} {g : AiChan → AiChan} {s t : State} (h : s.Onward t) :
    s.Onward (State.updAi t c g) := by
  unfold State.updAi
  repeat' first
    | with_reducible assumption
    | with_reducible apply State.setAi_onward

theorem State.clockAt_onward {t' : Nat} {s t : State} (h : s.Onward t) : s.Onward (State.clockAt t' t).1 := by
  unfold State.clockAt
  repeat' first
    | with_reducible assumption
    | (extract_lets -merge +onlyGivenNames x
       first
       | (have _f := fun a => x a
          clear _f
          unfold x
          clear x)
       | (refine onward_cut (P := State.Onward s x) ?_ (fun hx => ?_)
          on_goal 1 => (unfold x; clear x)
          on_goal 2 => clear_value x)
       | clear_value x
       | (unfold x; clear x)
       | clear x)
    | with_reducible apply State.runTo_onward
    | with_reducible refine State.Onward.ite ?_ ?_
    | split
    | fail_if_no_progress dsimp only

theorem State.aiEv_onward {c : Nat} {detail : Nat} {t' : Time} {s t : State} (h : s.Onward t) :
    s.Onward (State.aiEv c detail t' t) := by
  unfold State.aiEv
  repeat' first
    | with_reducible assumption
    | with_reducible apply State.raiseAt_onward

theorem State.closeWord_onward {c : Nat} {s t : State} (h : s.Onward t) : s.Onward (State.closeWord c t) := by
  unfold State.closeWord
  repeat' first
    | with_reducible assumption
    | (extract_lets -merge +onlyGivenNames x
       first
       | (have _f := fun a => x a
          clear _f
          unfold x
          clear x)
       | (refine onward_cut (P := State.Onward s x) ?_ (fun hx => ?_)
          on_goal 1 => (unfold x; clear x)
          on_goal 2 => clear_value x)
       | (refine onward_cut (P := State.Onward s x.2) ?_ (fun hx => ?_)
          on_goal 1 => (unfold x; clear x)
          on_goal 2 => clear_value x)
       | (refine onward_cut (P := State.Onward s x.1) ?_ (fun hx => ?_)
          on_goal 1 => (unfold x; clear x)
          on_goal 2 => clear_value x)
       | (refine onward_cut (P := Fabric.Onward s.fab x) ?_ (fun hx => ?_)
          on_goal 1 => (unfold x; clear x)
          on_goal 2 => clear_value x)
       | (refine onward_cut (P := Fabric.Onward s.fab x.2) ?_ (fun hx => ?_)
          on_goal 1 => (unfold x; clear x)
          on_goal 2 => clear_value x)
       | clear_value x
       | (unfold x; clear x)
       | clear x)
    | with_reducible apply State.aiEv_onward
    | with_reducible apply Machine.penAdmit_onward
    | with_reducible apply State.penAdmit_onward
    | with_reducible apply Fabric.tally_onward
    | with_reducible apply State.tally_onward
    | with_reducible apply State.updAi_onward
    | with_reducible refine State.Onward.ite ?_ ?_
    | split
    | fail_if_no_progress dsimp only
    | fail_if_no_progress with_reducible apply State.Onward.upd

theorem State.wordAdd_onward {c : Nat} {v : Conversion} {y : Int} {outside : Bool} {s t : State} (h : s.Onward t) :
    s.Onward (State.wordAdd c v y outside t) := by
  unfold State.wordAdd
  repeat' first
    | with_reducible assumption
    | (extract_lets -merge +onlyGivenNames x
       first
       | (have _f := fun a => x a
          clear _f
          unfold x
          clear x)
       | (refine onward_cut (P := State.Onward s x) ?_ (fun hx => ?_)
          on_goal 1 => (unfold x; clear x)
          on_goal 2 => clear_value x)
       | clear_value x
       | (unfold x; clear x)
       | clear x)
    | with_reducible apply State.closeWord_onward
    | with_reducible apply State.setAi_onward
    | with_reducible refine State.Onward.ite ?_ ?_
    | split
    | fail_if_no_progress dsimp only
    | fail_if_no_progress with_reducible apply State.Onward.upd

theorem State.thresholds_onward {c : Nat} {now : Sample} {s t : State} (h : s.Onward t) :
    s.Onward (State.thresholds c now t).1 := by
  unfold State.thresholds
  repeat' first
    | with_reducible assumption
    | (extract_lets -merge +onlyGivenNames x
       first
       | (have _f := fun a => x a
          clear _f
          unfold x
          clear x)
       | (refine onward_cut (P := State.Onward s x) ?_ (fun hx => ?_)
          on_goal 1 => (unfold x; clear x)
          on_goal 2 => clear_value x)
       | (refine onward_cut (P := State.Onward s x.2) ?_ (fun hx => ?_)
          on_goal 1 => (unfold x; clear x)
          on_goal 2 => clear_value x)
       | (refine onward_cut (P := State.Onward s x.1) ?_ (fun hx => ?_)
          on_goal 1 => (unfold x; clear x)
          on_goal 2 => clear_value x)
       | (refine onward_cut (P := State.Onward s x.2.2) ?_ (fun hx => ?_)
          on_goal 1 => (unfold x; clear x)
          on_goal 2 => clear_value x)
       | clear_value x
       | (unfold x; clear x)
       | clear x)
    | with_reducible apply State.raiseAt_onward
    | with_reducible apply State.setAi_onward
    | with_reducible apply Fabric.tally_onward
    | with_reducible apply State.tally_onward
    | with_reducible apply State.updAi_onward
    | with_reducible apply Fabric.wr_onward
    | with_reducible apply State.wr_onward
    | with_reducible apply State.wrIf_onward
    | with_reducible apply Fabric.wrTime_onward
    | with_reducible apply State.wrTime_onward
    | with_reducible refine State.Onward.ite ?_ ?_
    | split
    | fail_if_no_progress dsimp only
    | fail_if_no_progress with_reducible apply State.Onward.upd

theorem State.aiStart_onward {c : Nat} {t' : Nat} {s t : State} (h : s.Onward t) :
    s.Onward (State.aiStart c t' t) := by
  unfold State.aiStart
  repeat' first
    | with_reducible assumption
    | with_reducible apply State.updAi_onward
    | with_reducible refine State.Onward.ite ?_ ?_
    | split
    | fail_if_no_progress dsimp only
    | fail_if_no_progress with_reducible apply State.Onward.upd

theorem State.conversionStart_onward {c : Nat} {s t : State} (h : s.Onward t) :
    s.Onward (State.conversionStart c t) := by
  unfold State.conversionStart
  repeat' first
    | with_reducible assumption
    | (extract_lets -merge +onlyGivenNames x
       first
       | (have _f := fun a => x a
          clear _f
          unfold x
          clear x)
       | (refine onward_cut (P := State.Onward s x) ?_ (fun hx => ?_)
          on_goal 1 => (unfold x; clear x)
          on_goal 2 => clear_value x)
       | (refine onward_cut (P := State.Onward s x.2) ?_ (fun hx => ?_)
          on_goal 1 => (unfold x; clear x)
          on_goal 2 => clear_value x)
       | (refine onward_cut (P := State.Onward s x.1) ?_ (fun hx => ?_)
          on_goal 1 => (unfold x; clear x)
          on_goal 2 => clear_value x)
       | clear_value x
       | (unfold x; clear x)
       | clear x)
    | with_reducible apply State.aiEv_onward
    | with_reducible apply State.clockAt_onward
    | with_reducible apply State.setAi_onward
    | with_reducible apply Fabric.settle_onward
    | with_reducible apply State.settle_onward
    | with_reducible apply Fabric.tally_onward
    | with_reducible apply State.tally_onward
    | with_reducible apply State.updAi_onward
    | (with_reducible refine State.Onward.foldl ?_ ?_
       on_goal 1 => intro _ _ _)
    | (with_reducible refine State.Onward.foldl2 ?_ ?_
       on_goal 1 => intro _ _ _)
    | (with_reducible refine State.Onward.foldl1 ?_ ?_
       on_goal 1 => intro _ _ _)
    | with_reducible refine State.Onward.ite ?_ ?_
    | split
    | fail_if_no_progress dsimp only
    | fail_if_no_progress with_reducible apply State.Onward.upd

theorem State.conversionDone_onward {c : Nat} {x : Int} {s t : State} (h : s.Onward t) :
    s.Onward (State.conversionDone c x t).1 := by
  unfold State.conversionDone
  repeat' first
    | with_reducible assumption
    | (extract_lets -merge +onlyGivenNames x
       first
       | (have _f := fun a => x a
          clear _f
          unfold x
          clear x)
       | (refine onward_cut (P := State.Onward s x) ?_ (fun hx => ?_)
          on_goal 1 => (unfold x; clear x)
          on_goal 2 => clear_value x)
       | (refine onward_cut (P := State.Onward s x.2) ?_ (fun hx => ?_)
          on_goal 1 => (unfold x; clear x)
          on_goal 2 => clear_value x)
       | (refine onward_cut (P := State.Onward s x.1) ?_ (fun hx => ?_)
          on_goal 1 => (unfold x; clear x)
          on_goal 2 => clear_value x)
       | clear_value x
       | (unfold x; clear x)
       | clear x)
    | with_reducible apply State.aiEv_onward
    | with_reducible apply Fabric.tally_onward
    | with_reducible apply State.tally_onward
    | with_reducible apply State.thresholds_onward
    | with_reducible apply State.updAi_onward
    | with_reducible apply State.wordAdd_onward
    | with_reducible apply Fabric.wr_onward
    | with_reducible apply State.wr_onward
    | with_reducible apply State.wrIf_onward
    | with_reducible apply Fabric.wrTime_onward
    | with_reducible apply State.wrTime_onward
    | with_reducible refine State.Onward.ite ?_ ?_
    | split
    | fail_if_no_progress dsimp only
    | fail_if_no_progress with_reducible apply State.Onward.upd

theorem State.collect_onward {c : Nat} {count : Nat} {s t : State} (h : s.Onward t) :
    s.Onward (State.collect c count t) := by
  unfold State.collect
  repeat' first
    | with_reducible assumption
    | with_reducible apply State.updAi_onward
    | fail_if_no_progress dsimp only
    | fail_if_no_progress with_reducible apply State.Onward.upd

theorem State.aiCtrl_onward {fn : Nat} {c : Nat} {w : Word} {s t : State} (h : s.Onward t) :
    s.Onward (State.aiCtrl fn c w t) := by
  unfold State.aiCtrl
  repeat' first
    | with_reducible assumption
    | (extract_lets -merge +onlyGivenNames x
       first
       | (have _f := fun a => x a
          clear _f
          unfold x
          clear x)
       | (refine onward_cut (P := State.Onward s x) ?_ (fun hx => ?_)
          on_goal 1 => (unfold x; clear x)
          on_goal 2 => clear_value x)
       | clear_value x
       | (unfold x; clear x)
       | clear x)
    | with_reducible apply State.closeWord_onward
    | with_reducible apply State.putWord_onward
    | with_reducible apply Fabric.settle_onward
    | with_reducible apply State.settle_onward
    | with_reducible apply State.updAi_onward
    | with_reducible apply Fabric.wr_onward
    | with_reducible apply State.wr_onward
    | with_reducible refine State.Onward.ite ?_ ?_
    | split
    | fail_if_no_progress dsimp only
    | fail_if_no_progress with_reducible apply State.Onward.upd

theorem State.thrCfg_onward {fn : Nat} {c : Nat} {w : Word} {s t : State} (h : s.Onward t) :
    s.Onward (State.thrCfg fn c w t) := by
  unfold State.thrCfg
  repeat' first
    | with_reducible assumption
    | (extract_lets -merge +onlyGivenNames x
       first
       | (have _f := fun a => x a
          clear _f
          unfold x
          clear x)
       | (refine onward_cut (P := State.Onward s x) ?_ (fun hx => ?_)
          on_goal 1 => (unfold x; clear x)
          on_goal 2 => clear_value x)
       | clear_value x
       | (unfold x; clear x)
       | clear x)
    | with_reducible apply State.putWord_onward
    | with_reducible apply State.updAi_onward
    | with_reducible apply Fabric.wr_onward
    | with_reducible apply State.wr_onward
    | with_reducible refine State.Onward.ite ?_ ?_
    | split
    | fail_if_no_progress dsimp only
    | fail_if_no_progress with_reducible apply State.Onward.upd

theorem State.rangeSettled_onward {c : Nat} {s t : State} (h : s.Onward t) : s.Onward (State.rangeSettled c t) := by
  unfold State.rangeSettled
  repeat' first
    | with_reducible assumption
    | with_reducible apply Fabric.settle_onward
    | with_reducible apply State.settle_onward
    | with_reducible apply State.updAi_onward
    | with_reducible apply Fabric.wr_onward
    | with_reducible apply State.wr_onward
    | fail_if_no_progress dsimp only
    | fail_if_no_progress with_reducible apply State.Onward.upd

end Sys2Proof.Machine
end

