-- ==== Sys2Proof/Laws/Pens.lean ====
section
/-! SUPPORT. What each operation of `Machine/Pens.lean` keeps (see `Laws/Onward.lean`). -/
set_option linter.unusedTactic false
set_option linter.unreachableTactic false
set_option linter.tactic.unusedName false
namespace Sys2Proof.Machine

theorem State.penWmEn_onward {p : Nat} {s t : State} (h : s.Onward t) : s.Onward (State.penWmEn p t) := by
  unfold State.penWmEn
  repeat' first
    | with_reducible assumption
    | with_reducible apply Fabric.wr_onward
    | with_reducible apply State.wr_onward
    | with_reducible refine State.Onward.ite ?_ ?_
    | split

theorem State.pinFollow_onward {k : Nat} {s t : State} (h : s.Onward t) : s.Onward (State.pinFollow k t) := by
  unfold State.pinFollow
  repeat' first
    | with_reducible assumption
    | with_reducible apply Machine.hurdlePin_onward
    | (with_reducible refine State.inFab_onward ?_ ?_
       on_goal 2 => intro _ _ _)
    | with_reducible refine State.Onward.ite ?_ ?_
    | split
    | fail_if_no_progress dsimp only

theorem State.penEval_onward {p : Nat} {s t : State} (h : s.Onward t) : s.Onward (State.penEval p t) := by
  unfold State.penEval
  repeat' first
    | with_reducible assumption
    | with_reducible apply Machine.penHurdle_onward
    | with_reducible apply Fabric.settle_onward
    | with_reducible apply State.settle_onward
    | (with_reducible refine State.inFab_onward ?_ ?_
       on_goal 2 => intro _ _ _)

theorem State.penCfg_onward {fn : Nat} {p : Nat} {w : Word} {s t : State} (h : s.Onward t) :
    s.Onward (State.penCfg fn p w t) := by
  unfold State.penCfg
  repeat' first
    | with_reducible assumption
    | (extract_lets -merge +onlyGivenNames x
       first
       | (have _f := fun a => x a
          clear _f
          unfold x
          clear x)
       | (refine onward_cut (P := State.Onward s x) ?_ (fun hx => ?_)
          on_goal 1 => (unfold x; clear x)
          on_goal 2 => clear_value x)
       | clear_value x
       | (unfold x; clear x)
       | clear x)
    | with_reducible apply State.penEval_onward
    | with_reducible apply State.penWmEn_onward
    | with_reducible apply State.pinFollow_onward
    | with_reducible apply State.putWord_onward
    | with_reducible apply Fabric.wr_onward
    | with_reducible apply State.wr_onward
    | with_reducible refine State.Onward.ite ?_ ?_
    | split
    | fail_if_no_progress dsimp only

theorem State.penAddr_onward {fn : Nat} {p : Nat} {key : Nat} {w : Word} {s t : State} (h : s.Onward t) :
    s.Onward (State.penAddr fn p key w t) := by
  unfold State.penAddr
  repeat' first
    | with_reducible assumption
    | with_reducible apply State.putWord_onward
    | with_reducible apply Fabric.wr_onward
    | with_reducible apply State.wr_onward
    | with_reducible refine State.Onward.ite ?_ ?_
    | split

theorem State.setPenPops_onward {p : Nat} {n : Nat} {s t : State} (h : s.Onward t) :
    s.Onward (State.setPenPops t p n) := by
  unfold State.setPenPops
  repeat' first
    | with_reducible assumption
    | (with_reducible refine State.inFab_onward ?_ ?_
       on_goal 2 => intro _ _ _)
    | fail_if_no_progress dsimp only
    | fail_if_no_progress with_reducible apply State.Onward.upd
    | fail_if_no_progress with_reducible apply Fabric.Onward.upd

theorem State.penPop_onward {p : Nat} {count : Nat} {s t : State} (h : s.Onward t) :
    s.Onward (State.penPop p count t) := by
  unfold State.penPop
  repeat' first
    | with_reducible assumption
    | with_reducible apply State.setPenPops_onward
    | with_reducible apply Fabric.wr_onward
    | with_reducible apply State.wr_onward
    | with_reducible refine State.Onward.ite ?_ ?_
    | split

theorem State.penPopDone_onward {p : Nat} {s t : State} (h : s.Onward t) : s.Onward (State.penPopDone p t) := by
  unfold State.penPopDone
  repeat' first
    | with_reducible assumption
    | (extract_lets -merge +onlyGivenNames x
       first
       | (have _f := fun a => x a
          clear _f
          unfold x
          clear x)
       | (refine onward_cut (P := State.Onward s x) ?_ (fun hx => ?_)
          on_goal 1 => (unfold x; clear x)
          on_goal 2 => clear_value x)
       | clear_value x
       | (unfold x; clear x)
       | clear x)
    | with_reducible apply State.penEval_onward
    | with_reducible apply Machine.penTake_onward
    | with_reducible apply State.setPenPops_onward
    | with_reducible apply Fabric.wr_onward
    | with_reducible apply State.wr_onward
    | (with_reducible refine State.inFab_onward ?_ ?_
       on_goal 2 => intro _ _ _)
    | with_reducible refine State.Onward.ite ?_ ?_
    | split
    | fail_if_no_progress dsimp only

theorem State.landHost_onward {p : Nat} {x : List Byte × Byte} {b c : Fabric} (h : b.Onward c) :
    b.Onward (State.landHost p x c) := by
  unfold State.landHost
  repeat' first
    | with_reducible assumption
    | (extract_lets -merge +onlyGivenNames x
       first
       | (have _f := fun a => x a
          clear _f
          unfold x
          clear x)
       | (refine onward_cut (P := Fabric.Onward b x) ?_ (fun hx => ?_)
          on_goal 1 => (unfold x; clear x)
          on_goal 2 => clear_value x)
       | (refine onward_cut (P := Fabric.Onward b x.2) ?_ (fun hx => ?_)
          on_goal 1 => (unfold x; clear x)
          on_goal 2 => clear_value x)
       | (refine onward_cut (P := Fabric.Onward b x.1) ?_ (fun hx => ?_)
          on_goal 1 => (unfold x; clear x)
          on_goal 2 => clear_value x)
       | clear_value x
       | (unfold x; clear x)
       | clear x)
    | with_reducible apply Machine.penSetPtrs_onward
    | with_reducible apply Fabric.setByte_onward
    | with_reducible apply Fabric.setBytes_onward
    | with_reducible apply State.setBytes_onward
    | with_reducible apply Fabric.wr_onward
    | with_reducible apply State.wr_onward
    | with_reducible refine Fabric.Onward.ite ?_ ?_
    | split
    | fail_if_no_progress dsimp only

theorem State.penHostPush_onward {p : Nat} {count : Nat} {s t : State} (h : s.Onward t) :
    s.Onward (State.penHostPush p count t) := by
  unfold State.penHostPush
  repeat' first
    | with_reducible assumption
    | (extract_lets -merge +onlyGivenNames x
       first
       | (have _f := fun a => x a
          clear _f
          unfold x
          clear x)
       | (refine onward_cut (P := State.Onward s x) ?_ (fun hx => ?_)
          on_goal 1 => (unfold x; clear x)
          on_goal 2 => clear_value x)
       | (refine onward_cut (P := State.Onward s x.2) ?_ (fun hx => ?_)
          on_goal 1 => (unfold x; clear x)
          on_goal 2 => clear_value x)
       | (refine onward_cut (P := Fabric.Onward s.fab x) ?_ (fun hx => ?_)
          on_goal 1 => (unfold x; clear x)
          on_goal 2 => clear_value x)
       | (refine onward_cut (P := Fabric.Onward s.fab x.2) ?_ (fun hx => ?_)
          on_goal 1 => (unfold x; clear x)
          on_goal 2 => clear_value x)
       | clear_value x
       | (unfold x; clear x)
       | clear x)
    | with_reducible apply State.landHost_onward
    | with_reducible apply Machine.penPushWith_onward
    | with_reducible apply Machine.penRefuse_onward
    | with_reducible apply Fabric.settle_onward
    | with_reducible apply State.settle_onward
    | with_reducible apply Fabric.wr_onward
    | with_reducible apply State.wr_onward
    | (with_reducible refine State.Onward.foldl ?_ ?_
       on_goal 1 => intro _ _ _)
    | (with_reducible refine State.Onward.foldl2 ?_ ?_
       on_goal 1 => intro _ _ _)
    | (with_reducible refine State.Onward.foldl1 ?_ ?_
       on_goal 1 => intro _ _ _)
    | (with_reducible refine State.inFab_onward ?_ ?_
       on_goal 2 => intro _ _ _)
    | (with_reducible refine Fabric.Onward.foldl ?_ ?_
       on_goal 1 => intro _ _ _)
    | with_reducible refine State.Onward.ite ?_ ?_
    | split
    | fail_if_no_progress dsimp only
    | fail_if_no_progress with_reducible apply State.Onward.upd
    | with_reducible refine State.Onward.updFab ?_ ?_
    | with_reducible apply State.Onward.fab
    | fail_if_no_progress with_reducible apply Fabric.Onward.upd

theorem State.penDrop_onward {p : Nat} {s t : State} (h : s.Onward t) : s.Onward (State.penDrop p t) := by
  unfold State.penDrop
  repeat' first
    | with_reducible assumption
    | (extract_lets -merge +onlyGivenNames x
       first
       | (have _f := fun a => x a
          clear _f
          unfold x
          clear x)
       | (refine onward_cut (P := State.Onward s x) ?_ (fun hx => ?_)
          on_goal 1 => (unfold x; clear x)
          on_goal 2 => clear_value x)
       | (refine onward_cut (P := State.Onward s x.2) ?_ (fun hx => ?_)
          on_goal 1 => (unfold x; clear x)
          on_goal 2 => clear_value x)
       | (refine onward_cut (P := State.Onward s x.1) ?_ (fun hx => ?_)
          on_goal 1 => (unfold x; clear x)
          on_goal 2 => clear_value x)
       | (refine onward_cut (P := Fabric.Onward s.fab x) ?_ (fun hx => ?_)
          on_goal 1 => (unfold x; clear x)
          on_goal 2 => clear_value x)
       | (refine onward_cut (P := Fabric.Onward s.fab x.2) ?_ (fun hx => ?_)
          on_goal 1 => (unfold x; clear x)
          on_goal 2 => clear_value x)
       | clear_value x
       | (unfold x; clear x)
       | clear x)
    | with_reducible apply Machine.penCut_onward
    | with_reducible apply State.penEval_onward
    | with_reducible apply Machine.penTake_onward
    | with_reducible apply Fabric.tally_onward
    | with_reducible apply State.tally_onward
    | with_reducible apply Fabric.wr_onward
    | with_reducible apply State.wr_onward
    | (with_reducible refine State.inFab_onward ?_ ?_
       on_goal 2 => intro _ _ _)
    | with_reducible refine State.Onward.ite ?_ ?_
    | split
    | fail_if_no_progress dsimp only

theorem State.penClear_onward {p : Nat} {s t : State} (h : s.Onward t) : s.Onward (State.penClear p t) := by
  unfold State.penClear
  repeat' first
    | with_reducible assumption
    | (extract_lets -merge +onlyGivenNames x
       first
       | (have _f := fun a => x a
          clear _f
          unfold x
          clear x)
       | (refine onward_cut (P := State.Onward s x) ?_ (fun hx => ?_)
          on_goal 1 => (unfold x; clear x)
          on_goal 2 => clear_value x)
       | clear_value x
       | (unfold x; clear x)
       | clear x)
    | with_reducible apply Machine.penCut_onward
    | with_reducible apply State.penEval_onward
    | with_reducible apply Machine.penSetPtrs_onward
    | with_reducible apply State.setPenPops_onward
    | with_reducible apply Fabric.wr_onward
    | with_reducible apply State.wr_onward
    | (with_reducible refine State.inFab_onward ?_ ?_
       on_goal 2 => intro _ _ _)
    | fail_if_no_progress dsimp only

theorem State.penCmd_onward {p : Nat} {w : Word} {s t : State} (h : s.Onward t) : s.Onward (State.penCmd p w t) := by
  unfold State.penCmd
  repeat' first
    | with_reducible assumption
    | (extract_lets -merge +onlyGivenNames x
       first
       | (have _f := fun a => x a
          clear _f
          unfold x
          clear x)
       | (refine onward_cut (P := State.Onward s x) ?_ (fun hx => ?_)
          on_goal 1 => (unfold x; clear x)
          on_goal 2 => clear_value x)
       | clear_value x
       | (unfold x; clear x)
       | clear x)
    | with_reducible apply State.penClear_onward
    | with_reducible apply State.penDrop_onward
    | with_reducible apply State.penHostPush_onward
    | with_reducible refine State.Onward.ite ?_ ?_
    | split
    | fail_if_no_progress dsimp only

theorem State.penReset_onward {p : Nat} {s t : State} (h : s.Onward t) : s.Onward (State.penReset p t) := by
  unfold State.penReset
  repeat' first
    | with_reducible assumption
    | (extract_lets -merge +onlyGivenNames x
       first
       | (have _f := fun a => x a
          clear _f
          unfold x
          clear x)
       | (refine onward_cut (P := State.Onward s x) ?_ (fun hx => ?_)
          on_goal 1 => (unfold x; clear x)
          on_goal 2 => clear_value x)
       | clear_value x
       | (unfold x; clear x)
       | clear x)
    | with_reducible apply State.pinFollow_onward
    | with_reducible apply State.resetRegs_onward
    | with_reducible apply State.setPenPops_onward
    | with_reducible apply Fabric.wr_onward
    | with_reducible apply State.wr_onward
    | fail_if_no_progress dsimp only

theorem State.hurdleInput_onward {k : Nat} {level : Bool} {s t : State} (h : s.Onward t) :
    s.Onward (State.hurdleInput k level t) := by
  unfold State.hurdleInput
  repeat' first
    | with_reducible assumption
    | (extract_lets -merge +onlyGivenNames x
       first
       | (have _f := fun a => x a
          clear _f
          unfold x
          clear x)
       | (refine onward_cut (P := State.Onward s x) ?_ (fun hx => ?_)
          on_goal 1 => (unfold x; clear x)
          on_goal 2 => clear_value x)
       | clear_value x
       | (unfold x; clear x)
       | clear x)
    | with_reducible apply Fabric.wr_onward
    | with_reducible apply State.wr_onward
    | with_reducible apply State.wrIf_onward
    | with_reducible refine State.Onward.ite ?_ ?_
    | split
    | fail_if_no_progress dsimp only

end Sys2Proof.Machine
end

