-- ==== Sys2Proof/Laws/Position.lean ====
section
/-! SUPPORT. What each operation of `Machine/Position.lean` keeps (see `Laws/Onward.lean`). -/
set_option linter.unusedTactic false
set_option linter.unreachableTactic false
set_option linter.tactic.unusedName false
namespace Sys2Proof.Machine

theorem State.setEnc_onward {k : Nat} {e : Encoder} {s t : State} (h : s.Onward t) :
    s.Onward (State.setEnc t k e) := by
  unfold State.setEnc
  repeat' first
    | with_reducible assumption
    | fail_if_no_progress dsimp only
    | fail_if_no_progress with_reducible apply State.Onward.upd

theorem State.updEnc_onward {k : Nat} {g : Encoder → Encoder} {s t : State} (h : s.Onward t) :
    s.Onward (State.updEnc t k g) := by
  unfold State.updEnc
  repeat' first
    | with_reducible assumption
    | with_reducible apply State.setEnc_onward

theorem State.encEv_onward {k : Nat} {i : Nat} {detail : Nat} {cause : Time} {s t : State} (h : s.Onward t) :
    s.Onward (State.encEv k i detail cause t) := by
  unfold State.encEv
  repeat' first
    | with_reducible assumption
    | with_reducible apply State.raiseAt_onward

theorem State.encGood_onward {k : Nat} {t' : Time} {s t : State} (h : s.Onward t) :
    s.Onward (State.encGood k t' t) := by
  unfold State.encGood
  repeat' first
    | with_reducible assumption
    | (extract_lets -merge +onlyGivenNames x
       first
       | (have _f := fun a => x a
          clear _f
          unfold x
          clear x)
       | (refine onward_cut (P := State.Onward s x) ?_ (fun hx => ?_)
          on_goal 1 => (unfold x; clear x)
          on_goal 2 => clear_value x)
       | (refine onward_cut (P := State.Onward s x.2) ?_ (fun hx => ?_)
          on_goal 1 => (unfold x; clear x)
          on_goal 2 => clear_value x)
       | clear_value x
       | (unfold x; clear x)
       | clear x)
    | with_reducible apply State.updEnc_onward
    | with_reducible refine State.Onward.ite ?_ ?_
    | split
    | fail_if_no_progress dsimp only
    | fail_if_no_progress with_reducible apply State.Onward.upd

theorem State.encMove_onward {k : Nat} {v : Int} {t' : Time} {s t : State} (h : s.Onward t) :
    s.Onward (State.encMove k v t' t) := by
  unfold State.encMove
  repeat' first
    | with_reducible assumption
    | (extract_lets -merge +onlyGivenNames x
       first
       | (have _f := fun a => x a
          clear _f
          unfold x
          clear x)
       | (refine onward_cut (P := State.Onward s x) ?_ (fun hx => ?_)
          on_goal 1 => (unfold x; clear x)
          on_goal 2 => clear_value x)
       | clear_value x
       | (unfold x; clear x)
       | clear x)
    | with_reducible apply State.encEv_onward
    | with_reducible apply State.encGood_onward
    | with_reducible apply State.wrIf_onward
    | with_reducible apply Fabric.wrWide_onward
    | with_reducible apply State.wrWide_onward
    | with_reducible refine State.Onward.ite ?_ ?_
    | split
    | fail_if_no_progress dsimp only

theorem State.encJump_onward {k : Nat} {v : Int} {counted : Bool} {t' : Time} {s t : State} (h : s.Onward t) :
    s.Onward (State.encJump k v counted t' t) := by
  unfold State.encJump
  repeat' first
    | with_reducible assumption
    | (extract_lets -merge +onlyGivenNames x
       first
       | (have _f := fun a => x a
          clear _f
          unfold x
          clear x)
       | (refine onward_cut (P := State.Onward s x) ?_ (fun hx => ?_)
          on_goal 1 => (unfold x; clear x)
          on_goal 2 => clear_value x)
       | clear_value x
       | (unfold x; clear x)
       | clear x)
    | with_reducible apply State.encMove_onward
    | with_reducible apply Fabric.tally_onward
    | with_reducible apply State.tally_onward
    | with_reducible apply Fabric.wr_onward
    | with_reducible apply State.wr_onward
    | with_reducible refine State.Onward.ite ?_ ?_
    | split
    | fail_if_no_progress dsimp only

theorem State.encArm_onward {k : Nat} {r : Time} {n : Nat} {s t : State} (h : s.Onward t) :
    s.Onward (State.encArm k r n t) := by
  induction n generalizing t with
  | zero => exact h
  | succ n ih =>
    simp only [State.encArm]
    split
    · exact h
    · exact ih (State.Onward.ite (State.encEv_onward (State.wr_onward (State.wr_onward (State.setEnc_onward h))))
        (State.setEnc_onward h))


theorem State.encRearm_onward {k : Nat} {t' : Time} {s t : State} (h : s.Onward t) :
    s.Onward (State.encRearm k t' t) := by
  unfold State.encRearm
  repeat' first
    | with_reducible assumption
    | with_reducible apply State.encArm_onward
    | with_reducible apply State.updEnc_onward
    | fail_if_no_progress dsimp only
    | fail_if_no_progress with_reducible apply State.Onward.upd

theorem State.encFire_onward {k : Nat} {back : Bool} {t' : Time} {s t : State} (h : s.Onward t) :
    s.Onward (State.encFire k back t' t).1 := by
  unfold State.encFire
  repeat' first
    | with_reducible assumption
    | (extract_lets -merge +onlyGivenNames x
       first
       | (have _f := fun a => x a
          clear _f
          unfold x
          clear x)
       | (refine onward_cut (P := State.Onward s x) ?_ (fun hx => ?_)
          on_goal 1 => (unfold x; clear x)
          on_goal 2 => clear_value x)
       | (refine onward_cut (P := State.Onward s x.2) ?_ (fun hx => ?_)
          on_goal 1 => (unfold x; clear x)
          on_goal 2 => clear_value x)
       | (refine onward_cut (P := State.Onward s x.1) ?_ (fun hx => ?_)
          on_goal 1 => (unfold x; clear x)
          on_goal 2 => clear_value x)
       | clear_value x
       | (unfold x; clear x)
       | clear x)
    | with_reducible apply State.encArm_onward
    | with_reducible apply State.encEv_onward
    | with_reducible apply Fabric.tally_onward
    | with_reducible apply State.tally_onward
    | with_reducible apply State.updEnc_onward
    | with_reducible apply Fabric.wr_onward
    | with_reducible apply State.wr_onward
    | (with_reducible refine State.Onward.foldl ?_ ?_
       on_goal 1 => intro _ _ _)
    | (with_reducible refine State.Onward.foldl2 ?_ ?_
       on_goal 1 => intro _ _ _)
    | (with_reducible refine State.Onward.foldl1 ?_ ?_
       on_goal 1 => intro _ _ _)
    | with_reducible refine State.Onward.ite ?_ ?_
    | split
    | fail_if_no_progress dsimp only
    | fail_if_no_progress with_reducible apply State.Onward.upd

theorem State.encSpeed_onward {k : Nat} {t' : Time} {s t : State} (h : s.Onward t) :
    s.Onward (State.encSpeed k t' t) := by
  unfold State.encSpeed
  repeat' first
    | with_reducible assumption
    | (extract_lets -merge +onlyGivenNames x
       first
       | (have _f := fun a => x a
          clear _f
          unfold x
          clear x)
       | (refine onward_cut (P := State.Onward s x) ?_ (fun hx => ?_)
          on_goal 1 => (unfold x; clear x)
          on_goal 2 => clear_value x)
       | (refine onward_cut (P := State.Onward s x.2) ?_ (fun hx => ?_)
          on_goal 1 => (unfold x; clear x)
          on_goal 2 => clear_value x)
       | (refine onward_cut (P := State.Onward s x.1) ?_ (fun hx => ?_)
          on_goal 1 => (unfold x; clear x)
          on_goal 2 => clear_value x)
       | (refine onward_cut (P := State.Onward s x.2.2) ?_ (fun hx => ?_)
          on_goal 1 => (unfold x; clear x)
          on_goal 2 => clear_value x)
       | clear_value x
       | (unfold x; clear x)
       | clear x)
    | with_reducible apply Fabric.wr_onward
    | with_reducible apply State.wr_onward
    | with_reducible apply State.wrIf_onward
    | with_reducible refine State.Onward.ite ?_ ?_
    | split
    | fail_if_no_progress dsimp only
    | fail_if_no_progress with_reducible apply State.Onward.upd

theorem State.encSpeedLive_onward {k : Nat} {s t : State} (h : s.Onward t) : s.Onward (State.encSpeedLive k t) := by
  unfold State.encSpeedLive
  repeat' first
    | with_reducible assumption
    | (extract_lets -merge +onlyGivenNames x
       first
       | (have _f := fun a => x a
          clear _f
          unfold x
          clear x)
       | (refine onward_cut (P := State.Onward s x) ?_ (fun hx => ?_)
          on_goal 1 => (unfold x; clear x)
          on_goal 2 => clear_value x)
       | clear_value x
       | (unfold x; clear x)
       | clear x)
    | with_reducible apply State.encSpeed_onward
    | with_reducible refine State.Onward.ite ?_ ?_
    | split
    | fail_if_no_progress dsimp only
    | fail_if_no_progress with_reducible apply State.Onward.upd

theorem State.encInvalid_onward {k : Nat} {s t : State} (h : s.Onward t) : s.Onward (State.encInvalid k t) := by
  unfold State.encInvalid
  repeat' first
    | with_reducible assumption
    | with_reducible apply State.updEnc_onward
    | with_reducible apply Fabric.wr_onward
    | with_reducible apply State.wr_onward
    | fail_if_no_progress dsimp only
    | fail_if_no_progress with_reducible apply State.Onward.upd

theorem State.encFault_onward {k cause : Nat} {dev : Int} {r : Time} {s t : State} (h : s.Onward t) :
    s.Onward (State.encMissing.encFault k cause dev r t) := by
  simp only [State.encMissing.encFault]
  exact State.encEv_onward (State.wr_onward (State.wr_onward (State.wr_onward (State.tally_onward h))))

theorem State.encMissing_onward {k : Nat} {r : Time} {s t : State} (h : s.Onward t) :
    s.Onward (State.encMissing k r t) := by
  simp only [State.encMissing]
  split
  · exact h
  · exact State.Onward.ite h (State.encFault_onward (State.setEnc_onward h))


theorem State.encKeep_onward {k : Nat} {x : Edge} {s t : State} (h : s.Onward t) :
    s.Onward (State.encKeep k x t) := by
  unfold State.encKeep
  repeat' first
    | with_reducible assumption
    | (extract_lets -merge +onlyGivenNames x
       first
       | (have _f := fun a => x a
          clear _f
          unfold x
          clear x)
       | (refine onward_cut (P := State.Onward s x) ?_ (fun hx => ?_)
          on_goal 1 => (unfold x; clear x)
          on_goal 2 => clear_value x)
       | clear_value x
       | (unfold x; clear x)
       | clear x)
    | with_reducible apply State.updEnc_onward
    | with_reducible apply State.wrIf_onward
    | fail_if_no_progress dsimp only
    | fail_if_no_progress with_reducible apply State.Onward.upd

theorem State.encCount_onward {k : Nat} {back : Bool} {sample : Time} {s t : State} (h : s.Onward t) :
    s.Onward (State.encCount k back sample t).1 := by
  unfold State.encCount
  repeat' first
    | with_reducible assumption
    | (extract_lets -merge +onlyGivenNames x
       first
       | (have _f := fun a => x a
          clear _f
          unfold x
          clear x)
       | (refine onward_cut (P := State.Onward s x) ?_ (fun hx => ?_)
          on_goal 1 => (unfold x; clear x)
          on_goal 2 => clear_value x)
       | clear_value x
       | (unfold x; clear x)
       | clear x)
    | with_reducible apply State.encFire_onward
    | with_reducible apply State.encKeep_onward
    | with_reducible apply State.encFault_onward
    | with_reducible apply State.encMissing_onward
    | with_reducible apply State.encMove_onward
    | with_reducible apply State.encSpeed_onward
    | with_reducible apply Fabric.tally_onward
    | with_reducible apply State.tally_onward
    | with_reducible apply Fabric.wr_onward
    | with_reducible apply State.wr_onward
    | with_reducible refine State.Onward.ite ?_ ?_
    | split
    | fail_if_no_progress dsimp only

theorem State.encDecoded_onward {k : Nat} {move : Option Int} {lost : Bool} {sample : Time} {s t : State} (h : s.Onward t) :
    s.Onward (State.encDecoded k move lost sample t).1 := by
  unfold State.encDecoded
  repeat' first
    | with_reducible assumption
    | (extract_lets -merge +onlyGivenNames x
       first
       | (have _f := fun a => x a
          clear _f
          unfold x
          clear x)
       | (refine onward_cut (P := State.Onward s x) ?_ (fun hx => ?_)
          on_goal 1 => (unfold x; clear x)
          on_goal 2 => clear_value x)
       | clear_value x
       | (unfold x; clear x)
       | clear x)
    | with_reducible apply State.encCount_onward
    | with_reducible apply State.encEv_onward
    | with_reducible apply Fabric.tally_onward
    | with_reducible apply State.tally_onward
    | with_reducible apply Fabric.wr_onward
    | with_reducible apply State.wr_onward
    | with_reducible refine State.Onward.ite ?_ ?_
    | split
    | fail_if_no_progress dsimp only
    | fail_if_no_progress with_reducible apply State.Onward.upd

theorem State.encEdge_onward {k : Nat} {a b : Bool} {sample : Time} {s t : State} (h : s.Onward t) :
    s.Onward (State.encEdge k a b sample t).1 := by
  unfold State.encEdge
  extract_lets s1 A B e apart near tooClose both s2 s3
  have h3 : s.Onward s3 := State.wrIf_onward (State.wrIf_onward (State.setEnc_onward (State.runTo_onward h)))
  clear_value s3
  split
  · exact h3
  · exact State.encDecoded_onward h3


theorem State.encSet_onward {k : Nat} {s t : State} (h : s.Onward t) : s.Onward (State.encSet k t) := by
  unfold State.encSet
  repeat' first
    | with_reducible assumption
    | (extract_lets -merge +onlyGivenNames x
       first
       | (have _f := fun a => x a
          clear _f
          unfold x
          clear x)
       | (refine onward_cut (P := State.Onward s x) ?_ (fun hx => ?_)
          on_goal 1 => (unfold x; clear x)
          on_goal 2 => clear_value x)
       | clear_value x
       | (unfold x; clear x)
       | clear x)
    | with_reducible apply State.encInvalid_onward
    | with_reducible apply State.encJump_onward
    | with_reducible apply State.encRearm_onward
    | with_reducible apply State.updEnc_onward
    | fail_if_no_progress dsimp only
    | fail_if_no_progress with_reducible apply State.Onward.upd

theorem State.encSetOnIndex_onward {k : Nat} {s t : State} (h : s.Onward t) : s.Onward (State.encSetOnIndex k t) := by
  unfold State.encSetOnIndex
  repeat' first
    | with_reducible assumption
    | (extract_lets -merge +onlyGivenNames x
       first
       | (have _f := fun a => x a
          clear _f
          unfold x
          clear x)
       | (refine onward_cut (P := State.Onward s x) ?_ (fun hx => ?_)
          on_goal 1 => (unfold x; clear x)
          on_goal 2 => clear_value x)
       | clear_value x
       | (unfold x; clear x)
       | clear x)
    | with_reducible apply State.updEnc_onward
    | with_reducible apply Fabric.wr_onward
    | with_reducible apply State.wr_onward
    | fail_if_no_progress dsimp only
    | fail_if_no_progress with_reducible apply State.Onward.upd

theorem State.encAdjust_onward {k : Nat} {s t : State} (h : s.Onward t) : s.Onward (State.encAdjust k t) := by
  unfold State.encAdjust
  repeat' first
    | with_reducible assumption
    | (extract_lets -merge +onlyGivenNames x
       first
       | (have _f := fun a => x a
          clear _f
          unfold x
          clear x)
       | (refine onward_cut (P := State.Onward s x) ?_ (fun hx => ?_)
          on_goal 1 => (unfold x; clear x)
          on_goal 2 => clear_value x)
       | clear_value x
       | (unfold x; clear x)
       | clear x)
    | with_reducible apply State.encJump_onward
    | with_reducible apply State.encRearm_onward
    | fail_if_no_progress dsimp only

theorem State.encCmpReset_onward {k : Nat} {s t : State} (h : s.Onward t) : s.Onward (State.encCmpReset k t) := by
  unfold State.encCmpReset
  repeat' first
    | with_reducible assumption
    | (extract_lets -merge +onlyGivenNames x
       first
       | (have _f := fun a => x a
          clear _f
          unfold x
          clear x)
       | (refine onward_cut (P := State.Onward s x) ?_ (fun hx => ?_)
          on_goal 1 => (unfold x; clear x)
          on_goal 2 => clear_value x)
       | clear_value x
       | (unfold x; clear x)
       | clear x)
    | with_reducible apply State.updEnc_onward
    | with_reducible apply Fabric.wr_onward
    | with_reducible apply State.wr_onward
    | fail_if_no_progress dsimp only
    | fail_if_no_progress with_reducible apply State.Onward.upd

theorem State.encCmd_onward {k : Nat} {w : Word} {s t : State} (h : s.Onward t) : s.Onward (State.encCmd k w t) := by
  unfold State.encCmd
  repeat' first
    | with_reducible assumption
    | (extract_lets -merge +onlyGivenNames x
       first
       | (have _f := fun a => x a
          clear _f
          unfold x
          clear x)
       | (refine onward_cut (P := State.Onward s x) ?_ (fun hx => ?_)
          on_goal 1 => (unfold x; clear x)
          on_goal 2 => clear_value x)
       | clear_value x
       | (unfold x; clear x)
       | clear x)
    | with_reducible apply State.encAdjust_onward
    | with_reducible apply State.encCmpReset_onward
    | with_reducible apply State.encSet_onward
    | with_reducible apply State.encSetOnIndex_onward
    | with_reducible refine State.Onward.ite ?_ ?_
    | split
    | fail_if_no_progress dsimp only

theorem State.encLimit_onward {fn : Nat} {k : Nat} {s t : State} (h : s.Onward t) :
    s.Onward (State.encLimit fn k t) := by
  unfold State.encLimit
  repeat' first
    | with_reducible assumption
    | (extract_lets -merge +onlyGivenNames x
       first
       | (have _f := fun a => x a
          clear _f
          unfold x
          clear x)
       | (refine onward_cut (P := State.Onward s x) ?_ (fun hx => ?_)
          on_goal 1 => (unfold x; clear x)
          on_goal 2 => clear_value x)
       | clear_value x
       | (unfold x; clear x)
       | clear x)
    | with_reducible apply State.accErr_onward
    | with_reducible apply State.encJump_onward
    | with_reducible apply State.setEnc_onward
    | with_reducible apply Fabric.wrWide_onward
    | with_reducible apply State.wrWide_onward
    | with_reducible refine State.Onward.ite ?_ ?_
    | split
    | fail_if_no_progress dsimp only
    | fail_if_no_progress with_reducible apply State.Onward.upd

theorem State.encCtrl_onward {fn : Nat} {k : Nat} {w : Word} {s t : State} (h : s.Onward t) :
    s.Onward (State.encCtrl fn k w t) := by
  unfold State.encCtrl
  repeat' first
    | with_reducible assumption
    | (extract_lets -merge +onlyGivenNames x
       first
       | (have _f := fun a => x a
          clear _f
          unfold x
          clear x)
       | (refine onward_cut (P := State.Onward s x) ?_ (fun hx => ?_)
          on_goal 1 => (unfold x; clear x)
          on_goal 2 => clear_value x)
       | clear_value x
       | (unfold x; clear x)
       | clear x)
    | with_reducible apply State.encGood_onward
    | with_reducible apply State.encInvalid_onward
    | with_reducible apply State.putWord_onward
    | with_reducible apply Fabric.wr_onward
    | with_reducible apply State.wr_onward
    | with_reducible refine State.Onward.ite ?_ ?_
    | split
    | fail_if_no_progress dsimp only

theorem State.cmpCtrl_onward {fn : Nat} {k : Nat} {w : Word} {s t : State} (h : s.Onward t) :
    s.Onward (State.cmpCtrl fn k w t) := by
  unfold State.cmpCtrl
  repeat' first
    | with_reducible assumption
    | (extract_lets -merge +onlyGivenNames x
       first
       | (have _f := fun a => x a
          clear _f
          unfold x
          clear x)
       | (refine onward_cut (P := State.Onward s x) ?_ (fun hx => ?_)
          on_goal 1 => (unfold x; clear x)
          on_goal 2 => clear_value x)
       | clear_value x
       | (unfold x; clear x)
       | clear x)
    | with_reducible apply State.accErr_onward
    | with_reducible apply State.encArm_onward
    | with_reducible apply State.updEnc_onward
    | with_reducible apply Fabric.wr_onward
    | with_reducible apply State.wr_onward
    | with_reducible refine State.Onward.ite ?_ ?_
    | split
    | fail_if_no_progress dsimp only
    | fail_if_no_progress with_reducible apply State.Onward.upd

theorem State.cmpWrite_onward {k : Nat} {hi : Word} {s t : State} (h : s.Onward t) :
    s.Onward (State.cmpWrite k hi t) := by
  unfold State.cmpWrite
  repeat' first
    | with_reducible assumption
    | (extract_lets -merge +onlyGivenNames x
       first
       | (have _f := fun a => x a
          clear _f
          unfold x
          clear x)
       | (refine onward_cut (P := State.Onward s x) ?_ (fun hx => ?_)
          on_goal 1 => (unfold x; clear x)
          on_goal 2 => clear_value x)
       | clear_value x
       | (unfold x; clear x)
       | clear x)
    | with_reducible apply State.updEnc_onward
    | with_reducible apply Fabric.wr_onward
    | with_reducible apply State.wr_onward
    | with_reducible apply Fabric.ww_onward
    | with_reducible apply State.ww_onward
    | with_reducible refine State.Onward.ite ?_ ?_
    | split
    | fail_if_no_progress dsimp only
    | fail_if_no_progress with_reducible apply State.Onward.upd

theorem State.encJudge_onward {k : Nat} {back : Bool} {t' : Time} {s t : State} (h : s.Onward t) :
    s.Onward (State.encJudge k back t' t) := by
  unfold State.encJudge
  repeat' first
    | with_reducible assumption
    | (extract_lets -merge +onlyGivenNames x
       first
       | (have _f := fun a => x a
          clear _f
          unfold x
          clear x)
       | (refine onward_cut (P := State.Onward s x) ?_ (fun hx => ?_)
          on_goal 1 => (unfold x; clear x)
          on_goal 2 => clear_value x)
       | clear_value x
       | (unfold x; clear x)
       | clear x)
    | with_reducible apply State.encFault_onward
    | with_reducible apply State.encMissing_onward
    | with_reducible refine State.Onward.ite ?_ ?_
    | split
    | fail_if_no_progress dsimp only
    | fail_if_no_progress with_reducible apply State.Onward.upd

theorem State.encApplyIndex_onward {k : Nat} {sample : Time} {t' : Time} {s t : State} (h : s.Onward t) :
    s.Onward (State.encApplyIndex k sample t' t) := by
  unfold State.encApplyIndex
  repeat' first
    | with_reducible assumption
    | (extract_lets -merge +onlyGivenNames x
       first
       | (have _f := fun a => x a
          clear _f
          unfold x
          clear x)
       | (refine onward_cut (P := State.Onward s x) ?_ (fun hx => ?_)
          on_goal 1 => (unfold x; clear x)
          on_goal 2 => clear_value x)
       | clear_value x
       | (unfold x; clear x)
       | clear x)
    | with_reducible apply State.encEv_onward
    | with_reducible apply State.encInvalid_onward
    | with_reducible apply State.encJump_onward
    | with_reducible apply State.encRearm_onward
    | with_reducible apply State.updEnc_onward
    | with_reducible apply Fabric.wr_onward
    | with_reducible apply State.wr_onward
    | with_reducible refine State.Onward.ite ?_ ?_
    | split
    | fail_if_no_progress dsimp only
    | fail_if_no_progress with_reducible apply State.Onward.upd

theorem State.encIndex_onward {k : Nat} {z : Bool} {sample : Time} {s t : State} (h : s.Onward t) :
    s.Onward (State.encIndex k z sample t) := by
  unfold State.encIndex
  repeat' first
    | with_reducible assumption
    | (extract_lets -merge +onlyGivenNames x
       first
       | (have _f := fun a => x a
          clear _f
          unfold x
          clear x)
       | (refine onward_cut (P := State.Onward s x) ?_ (fun hx => ?_)
          on_goal 1 => (unfold x; clear x)
          on_goal 2 => clear_value x)
       | clear_value x
       | (unfold x; clear x)
       | clear x)
    | with_reducible apply State.encApplyIndex_onward
    | with_reducible apply State.encEv_onward
    | with_reducible apply State.encJudge_onward
    | with_reducible apply State.runTo_onward
    | with_reducible apply State.updEnc_onward
    | with_reducible apply State.wrIf_onward
    | with_reducible apply Fabric.wrWide_onward
    | with_reducible apply State.wrWide_onward
    | with_reducible refine State.Onward.ite ?_ ?_
    | split
    | fail_if_no_progress dsimp only
    | fail_if_no_progress with_reducible apply State.Onward.upd

theorem State.encLineFault_onward {k : Nat} {signal : Nat} {on : Bool} {s t : State} (h : s.Onward t) :
    s.Onward (State.encLineFault k signal on t) := by
  unfold State.encLineFault
  repeat' first
    | with_reducible assumption
    | (extract_lets -merge +onlyGivenNames x
       first
       | (have _f := fun a => x a
          clear _f
          unfold x
          clear x)
       | (refine onward_cut (P := State.Onward s x) ?_ (fun hx => ?_)
          on_goal 1 => (unfold x; clear x)
          on_goal 2 => clear_value x)
       | clear_value x
       | (unfold x; clear x)
       | clear x)
    | with_reducible apply State.encEv_onward
    | with_reducible apply State.encGood_onward
    | with_reducible apply State.wrIf_onward
    | with_reducible refine State.Onward.ite ?_ ?_
    | split
    | fail_if_no_progress dsimp only

theorem State.encHall_onward {k : Nat} {state : Nat} {sample : Time} {s t : State} (h : s.Onward t) :
    s.Onward (State.encHall k state sample t) := by
  unfold State.encHall
  repeat' first
    | with_reducible assumption
    | (extract_lets -merge +onlyGivenNames x
       first
       | (have _f := fun a => x a
          clear _f
          unfold x
          clear x)
       | (refine onward_cut (P := State.Onward s x) ?_ (fun hx => ?_)
          on_goal 1 => (unfold x; clear x)
          on_goal 2 => clear_value x)
       | clear_value x
       | (unfold x; clear x)
       | clear x)
    | with_reducible apply State.encEv_onward
    | with_reducible apply State.runTo_onward
    | with_reducible apply Fabric.tally_onward
    | with_reducible apply State.tally_onward
    | with_reducible apply Fabric.wr_onward
    | with_reducible apply State.wr_onward
    | with_reducible refine State.Onward.ite ?_ ?_
    | split
    | fail_if_no_progress dsimp only

theorem State.encStill_onward {k : Nat} {s t : State} (h : s.Onward t) : s.Onward (State.encStill k t) := by
  unfold State.encStill
  repeat' first
    | with_reducible assumption
    | with_reducible apply State.updEnc_onward
    | with_reducible apply Fabric.wr_onward
    | with_reducible apply State.wr_onward
    | with_reducible refine State.Onward.ite ?_ ?_
    | split
    | fail_if_no_progress dsimp only
    | fail_if_no_progress with_reducible apply State.Onward.upd

theorem State.histEntry_onward {k : Nat} {i : Nat} {x : Edge} {s t : State} (h : s.Onward t) :
    s.Onward (State.histEntry k i x t) := by
  unfold State.histEntry
  repeat' first
    | with_reducible assumption
    | (extract_lets -merge +onlyGivenNames x
       first
       | (have _f := fun a => x a
          clear _f
          unfold x
          clear x)
       | (refine onward_cut (P := State.Onward s x) ?_ (fun hx => ?_)
          on_goal 1 => (unfold x; clear x)
          on_goal 2 => clear_value x)
       | clear_value x
       | (unfold x; clear x)
       | clear x)
    | with_reducible apply Fabric.wrTime_onward
    | with_reducible apply State.wrTime_onward
    | with_reducible apply Fabric.ww_onward
    | with_reducible apply State.ww_onward
    | with_reducible refine State.Onward.ite ?_ ?_
    | split
    | fail_if_no_progress dsimp only

theorem State.histSnapshot_onward {k : Nat} {s t : State} (h : s.Onward t) : s.Onward (State.histSnapshot k t) := by
  unfold State.histSnapshot
  repeat' first
    | with_reducible assumption
    | (extract_lets -merge +onlyGivenNames x
       first
       | (have _f := fun a => x a
          clear _f
          unfold x
          clear x)
       | (refine onward_cut (P := State.Onward s x) ?_ (fun hx => ?_)
          on_goal 1 => (unfold x; clear x)
          on_goal 2 => clear_value x)
       | (refine onward_cut (P := State.Onward s x.2) ?_ (fun hx => ?_)
          on_goal 1 => (unfold x; clear x)
          on_goal 2 => clear_value x)
       | (refine onward_cut (P := State.Onward s x.1) ?_ (fun hx => ?_)
          on_goal 1 => (unfold x; clear x)
          on_goal 2 => clear_value x)
       | clear_value x
       | (unfold x; clear x)
       | clear x)
    | with_reducible apply State.histEntry_onward
    | with_reducible apply Fabric.wr_onward
    | with_reducible apply State.wr_onward
    | (with_reducible refine State.Onward.foldl ?_ ?_
       on_goal 1 => intro _ _ _)
    | (with_reducible refine State.Onward.foldl2 ?_ ?_
       on_goal 1 => intro _ _ _)
    | (with_reducible refine State.Onward.foldl1 ?_ ?_
       on_goal 1 => intro _ _ _)
    | fail_if_no_progress dsimp only

theorem State.setAbs_onward {j : Nat} {e : AbsChan} {s t : State} (h : s.Onward t) :
    s.Onward (State.setAbs t j e) := by
  unfold State.setAbs
  repeat' first
    | with_reducible assumption
    | fail_if_no_progress dsimp only
    | fail_if_no_progress with_reducible apply State.Onward.upd

theorem State.absErr_onward {j : Nat} {s t : State} (h : s.Onward t) : s.Onward (State.absErr j t) := by
  unfold State.absErr
  repeat' first
    | with_reducible assumption
    | with_reducible apply Fabric.raise_onward
    | with_reducible apply State.raise_onward

theorem State.absRequest_onward {j : Nat} {at_ : Time} {s t : State} (h : s.Onward t) :
    s.Onward (State.absRequest j at_ t) := by
  unfold State.absRequest
  repeat' first
    | with_reducible assumption
    | (extract_lets -merge +onlyGivenNames x
       first
       | (have _f := fun a => x a
          clear _f
          unfold x
          clear x)
       | (refine onward_cut (P := State.Onward s x) ?_ (fun hx => ?_)
          on_goal 1 => (unfold x; clear x)
          on_goal 2 => clear_value x)
       | (refine onward_cut (P := State.Onward s x.2) ?_ (fun hx => ?_)
          on_goal 1 => (unfold x; clear x)
          on_goal 2 => clear_value x)
       | (refine onward_cut (P := State.Onward s x.1) ?_ (fun hx => ?_)
          on_goal 1 => (unfold x; clear x)
          on_goal 2 => clear_value x)
       | clear_value x
       | (unfold x; clear x)
       | clear x)
    | with_reducible apply State.absErr_onward
    | with_reducible apply State.draw_onward
    | with_reducible apply State.setAbs_onward
    | with_reducible apply Fabric.tally_onward
    | with_reducible apply State.tally_onward
    | with_reducible apply Fabric.wr_onward
    | with_reducible apply State.wr_onward
    | with_reducible refine State.Onward.ite ?_ ?_
    | split
    | fail_if_no_progress dsimp only
    | fail_if_no_progress with_reducible apply State.Onward.upd

theorem State.absWaiting_onward {j : Nat} {s t : State} (h : s.Onward t) : s.Onward (State.absWaiting j t) := by
  unfold State.absWaiting
  repeat' first
    | with_reducible assumption
    | (extract_lets -merge +onlyGivenNames x
       first
       | (have _f := fun a => x a
          clear _f
          unfold x
          clear x)
       | (refine onward_cut (P := State.Onward s x) ?_ (fun hx => ?_)
          on_goal 1 => (unfold x; clear x)
          on_goal 2 => clear_value x)
       | clear_value x
       | (unfold x; clear x)
       | clear x)
    | with_reducible apply State.absRequest_onward
    | with_reducible apply State.setAbs_onward
    | (with_reducible refine State.Onward.foldl ?_ ?_
       on_goal 1 => intro _ _ _)
    | with_reducible refine State.Onward.ite ?_ ?_
    | split
    | fail_if_no_progress dsimp only
    | fail_if_no_progress with_reducible apply State.Onward.upd

theorem State.absAsk_onward {j : Nat} {s t : State} (h : s.Onward t) : s.Onward (State.absAsk j t) := by
  unfold State.absAsk
  repeat' first
    | with_reducible assumption
    | with_reducible apply State.absRequest_onward
    | with_reducible apply State.absWaiting_onward

theorem State.absDone_onward {j : Nat} {word : Nat} {parity : Bool} {high : Bool} {s t : State} (h : s.Onward t) :
    s.Onward (State.absDone j word parity high t) := by
  unfold State.absDone
  repeat' first
    | with_reducible assumption
    | (extract_lets -merge +onlyGivenNames x
       first
       | (have _f := fun a => x a
          clear _f
          unfold x
          clear x)
       | (refine onward_cut (P := State.Onward s x) ?_ (fun hx => ?_)
          on_goal 1 => (unfold x; clear x)
          on_goal 2 => clear_value x)
       | clear_value x
       | (unfold x; clear x)
       | clear x)
    | with_reducible apply State.absErr_onward
    | with_reducible apply State.absWaiting_onward
    | with_reducible apply Fabric.raise_onward
    | with_reducible apply State.raise_onward
    | with_reducible apply State.setAbs_onward
    | with_reducible apply Fabric.tally_onward
    | with_reducible apply State.tally_onward
    | with_reducible apply Fabric.wr_onward
    | with_reducible apply State.wr_onward
    | with_reducible apply Fabric.wrTime_onward
    | with_reducible apply State.wrTime_onward
    | with_reducible apply Fabric.wrWide_onward
    | with_reducible apply State.wrWide_onward
    | with_reducible refine State.Onward.ite ?_ ?_
    | split
    | fail_if_no_progress dsimp only
    | fail_if_no_progress with_reducible apply State.Onward.upd

end Sys2Proof.Machine
end

