-- ==== Sys2Proof/Laws/Paddock.lean ====
section
/-! SUPPORT. What each operation of `Machine/Paddock.lean` keeps (see `Laws/Onward.lean`). -/
set_option linter.unusedTactic false
set_option linter.unreachableTactic false
set_option linter.tactic.unusedName false
namespace Sys2Proof.Machine

theorem State.setStrm_onward {st : Nat} {x : Strm} {s t : State} (h : s.Onward t) :
    s.Onward (State.setStrm t st x) := by
  unfold State.setStrm
  repeat' first
    | with_reducible assumption
    | fail_if_no_progress dsimp only
    | fail_if_no_progress with_reducible apply State.Onward.upd

theorem State.updStrm_onward {st : Nat} {g : Strm → Strm} {s t : State} (h : s.Onward t) :
    s.Onward (State.updStrm t st g) := by
  unfold State.updStrm
  repeat' first
    | with_reducible assumption
    | with_reducible apply State.setStrm_onward

theorem State.keepRecord_onward {r : Rec} {s t : State} (h : s.Onward t) : s.Onward (State.keepRecord r t) := by
  unfold State.keepRecord
  repeat' first
    | with_reducible assumption
    | fail_if_no_progress dsimp only
    | fail_if_no_progress with_reducible apply State.Onward.upd

theorem State.putRecord_onward {r : Rec} {s t : State} (h : s.Onward t) : s.Onward (State.putRecord r t) := by
  unfold State.putRecord
  repeat' first
    | with_reducible assumption
    | with_reducible apply State.keepRecord_onward
    | with_reducible apply Fabric.setBytes_onward
    | with_reducible apply State.setBytes_onward

theorem State.markOver_onward {r : Rec} {s t : State} (h : s.Onward t) : s.Onward (State.markOver r t) := by
  unfold State.markOver
  repeat' first
    | with_reducible assumption
    | with_reducible apply State.putRecord_onward
    | with_reducible refine State.Onward.ite ?_ ?_
    | split
    | fail_if_no_progress with_reducible apply State.Onward.upd

theorem State.smallCheck_onward {st : Nat} {s t : State} (h : s.Onward t) : s.Onward (State.smallCheck st t) := by
  unfold State.smallCheck
  repeat' first
    | with_reducible assumption
    | (extract_lets -merge +onlyGivenNames x
       first
       | (have _f := fun a => x a
          clear _f
          unfold x
          clear x)
       | (refine onward_cut (P := State.Onward s x) ?_ (fun hx => ?_)
          on_goal 1 => (unfold x; clear x)
          on_goal 2 => clear_value x)
       | (refine onward_cut (P := State.Onward s x.2) ?_ (fun hx => ?_)
          on_goal 1 => (unfold x; clear x)
          on_goal 2 => clear_value x)
       | clear_value x
       | (unfold x; clear x)
       | clear x)
    | with_reducible apply Fabric.raise_onward
    | with_reducible apply State.raise_onward
    | with_reducible apply State.wrIf_onward
    | with_reducible refine State.Onward.ite ?_ ?_
    | split
    | fail_if_no_progress dsimp only
    | fail_if_no_progress with_reducible apply State.Onward.upd

theorem State.encTag_onward {k : Nat} {m : Time} {s t : State} (h : s.Onward t) :
    s.Onward (State.encTag k m t).2 := by
  unfold State.encTag
  repeat' first
    | with_reducible assumption
    | (extract_lets -merge +onlyGivenNames x
       first
       | (have _f := fun a => x a
          clear _f
          unfold x
          clear x)
       | (refine onward_cut (P := State.Onward s x) ?_ (fun hx => ?_)
          on_goal 1 => (unfold x; clear x)
          on_goal 2 => clear_value x)
       | (refine onward_cut (P := State.Onward s x.2) ?_ (fun hx => ?_)
          on_goal 1 => (unfold x; clear x)
          on_goal 2 => clear_value x)
       | (refine onward_cut (P := State.Onward s x.1) ?_ (fun hx => ?_)
          on_goal 1 => (unfold x; clear x)
          on_goal 2 => clear_value x)
       | clear_value x
       | (unfold x; clear x)
       | clear x)
    | with_reducible apply State.draw_onward
    | with_reducible refine State.Onward.ite ?_ ?_
    | split
    | fail_if_no_progress dsimp only
    | fail_if_no_progress with_reducible apply State.Onward.upd

theorem State.absTag_onward {j : Nat} {m : Time} {s t : State} (h : s.Onward t) :
    s.Onward (State.absTag j m t).2 := by
  unfold State.absTag
  repeat' first
    | with_reducible assumption
    | (extract_lets -merge +onlyGivenNames x
       first
       | (have _f := fun a => x a
          clear _f
          unfold x
          clear x)
       | (refine onward_cut (P := State.Onward s x) ?_ (fun hx => ?_)
          on_goal 1 => (unfold x; clear x)
          on_goal 2 => clear_value x)
       | (refine onward_cut (P := State.Onward s x.2) ?_ (fun hx => ?_)
          on_goal 1 => (unfold x; clear x)
          on_goal 2 => clear_value x)
       | (refine onward_cut (P := State.Onward s x.1) ?_ (fun hx => ?_)
          on_goal 1 => (unfold x; clear x)
          on_goal 2 => clear_value x)
       | clear_value x
       | (unfold x; clear x)
       | clear x)
    | with_reducible apply State.draw_onward
    | with_reducible refine State.Onward.ite ?_ ?_
    | split
    | fail_if_no_progress dsimp only
    | fail_if_no_progress with_reducible apply State.Onward.upd

theorem State.aiTag_onward {c : Nat} {m : Time} {s t : State} (h : s.Onward t) : s.Onward (State.aiTag c m t).2 := by
  unfold State.aiTag
  repeat' first
    | with_reducible assumption
    | (extract_lets -merge +onlyGivenNames x
       first
       | (have _f := fun a => x a
          clear _f
          unfold x
          clear x)
       | (refine onward_cut (P := State.Onward s x) ?_ (fun hx => ?_)
          on_goal 1 => (unfold x; clear x)
          on_goal 2 => clear_value x)
       | (refine onward_cut (P := State.Onward s x.2) ?_ (fun hx => ?_)
          on_goal 1 => (unfold x; clear x)
          on_goal 2 => clear_value x)
       | (refine onward_cut (P := State.Onward s x.1) ?_ (fun hx => ?_)
          on_goal 1 => (unfold x; clear x)
          on_goal 2 => clear_value x)
       | clear_value x
       | (unfold x; clear x)
       | clear x)
    | with_reducible apply State.draw_onward
    | with_reducible refine State.Onward.ite ?_ ?_
    | split
    | fail_if_no_progress dsimp only
    | fail_if_no_progress with_reducible apply State.Onward.upd

theorem State.tagsFrom_onward {f : Nat → State → Nat × State} {n i : Nat} {s t : State}
    (hf : ∀ k x, s.Onward x → s.Onward (f k x).2) (h : s.Onward t) : s.Onward (State.tagsFrom f n i t).2 := by
  induction n generalizing i t with
  | zero => exact h
  | succ n ih => exact ih (hf i t h)


theorem State.fillTags_onward {r : Rec} {s t : State} (h : s.Onward t) : s.Onward (State.fillTags r t).2 := by
  unfold State.fillTags
  extract_lets m a b c
  have ha : s.Onward a.2 := State.tagsFrom_onward (fun _ _ k => State.encTag_onward k) h
  have hb : s.Onward b.2 := State.tagsFrom_onward (fun _ _ k => State.absTag_onward k) ha
  have hc : s.Onward c.2 := State.tagsFrom_onward (fun _ _ k => State.aiTag_onward k) hb
  clear_value a b c
  exact hc


theorem State.offer_onward {r : Rec} {s t : State} (h : s.Onward t) : s.Onward (State.offer r t) := by
  unfold State.offer
  repeat' first
    | with_reducible assumption
    | (extract_lets -merge +onlyGivenNames x
       first
       | (have _f := fun a => x a
          clear _f
          unfold x
          clear x)
       | (refine onward_cut (P := State.Onward s x) ?_ (fun hx => ?_)
          on_goal 1 => (unfold x; clear x)
          on_goal 2 => clear_value x)
       | (refine onward_cut (P := State.Onward s x.2) ?_ (fun hx => ?_)
          on_goal 1 => (unfold x; clear x)
          on_goal 2 => clear_value x)
       | (refine onward_cut (P := State.Onward s x.1) ?_ (fun hx => ?_)
          on_goal 1 => (unfold x; clear x)
          on_goal 2 => clear_value x)
       | (refine onward_cut (P := Fabric.Onward s.fab x) ?_ (fun hx => ?_)
          on_goal 1 => (unfold x; clear x)
          on_goal 2 => clear_value x)
       | (refine onward_cut (P := Fabric.Onward s.fab x.2) ?_ (fun hx => ?_)
          on_goal 1 => (unfold x; clear x)
          on_goal 2 => clear_value x)
       | clear_value x
       | (unfold x; clear x)
       | clear x)
    | with_reducible apply Machine.penAdmit_onward
    | with_reducible apply State.penAdmit_onward
    | with_reducible apply Fabric.tally_onward
    | with_reducible apply State.tally_onward
    | with_reducible refine State.Onward.ite ?_ ?_
    | split
    | fail_if_no_progress dsimp only
    | fail_if_no_progress with_reducible apply State.Onward.upd

theorem State.frameFind_onward {fn : Nat} {s t : State} (h : s.Onward t) : s.Onward (State.frameFind fn t) := by
  unfold State.frameFind
  repeat' first
    | with_reducible assumption
    | (extract_lets -merge +onlyGivenNames x
       first
       | (have _f := fun a => x a
          clear _f
          unfold x
          clear x)
       | (refine onward_cut (P := State.Onward s x) ?_ (fun hx => ?_)
          on_goal 1 => (unfold x; clear x)
          on_goal 2 => clear_value x)
       | clear_value x
       | (unfold x; clear x)
       | clear x)
    | with_reducible apply Fabric.wr_onward
    | with_reducible apply State.wr_onward
    | with_reducible apply State.wrIf_onward
    | with_reducible refine State.Onward.ite ?_ ?_
    | split
    | fail_if_no_progress dsimp only

theorem State.bar4Put_onward {fn a : Nat} {l : List (Option Byte)} {s t : State} (h : s.Onward t) :
    s.Onward (State.bar4Put fn a l t).2 := by
  induction l generalizing a t with
  | nil => exact h
  | cons v r ih =>
    cases v with
    | none => exact ih h
    | some b =>
      rw [State.bar4Put]
      split
      · exact ih (State.inFab_onward h fun _ _ k => Fabric.setByte_onward k)
      · exact ih h


end Sys2Proof.Machine
end

