-- ==== Sys2Proof/Laws/Freeze.lean ====
section
/-! SUPPORT. What each operation of `Machine/Freeze.lean` keeps (see `Laws/Onward.lean`). -/
set_option linter.unusedTactic false
set_option linter.unreachableTactic false
set_option linter.tactic.unusedName false
namespace Sys2Proof.Machine

theorem State.setGroup_onward {g : Nat} {x : Group} {s t : State} (h : s.Onward t) :
    s.Onward (State.setGroup t g x) := by
  unfold State.setGroup
  repeat' first
    | with_reducible assumption
    | fail_if_no_progress dsimp only
    | fail_if_no_progress with_reducible apply State.Onward.upd

theorem State.updGroup_onward {g : Nat} {f : Group → Group} {s t : State} (h : s.Onward t) :
    s.Onward (State.updGroup t g f) := by
  unfold State.updGroup
  repeat' first
    | with_reducible assumption
    | with_reducible apply State.setGroup_onward

theorem State.fgEv_onward {g : Nat} {i : Nat} {s t : State} (h : s.Onward t) : s.Onward (State.fgEv g i t) := by
  unfold State.fgEv
  repeat' first
    | with_reducible assumption
    | with_reducible apply Fabric.raise_onward
    | with_reducible apply State.raise_onward

theorem State.fgEnter_onward {g : Nat} {v : Nat} {s t : State} (h : s.Onward t) : s.Onward (State.fgEnter g v t) := by
  unfold State.fgEnter
  repeat' first
    | with_reducible assumption
    | with_reducible apply State.fgEv_onward
    | with_reducible apply Fabric.wr_onward
    | with_reducible apply State.wr_onward

theorem State.showWin_onward {st : Nat} {w : Win} {s t : State} (h : s.Onward t) :
    s.Onward (State.showWin st w t) := by
  unfold State.showWin
  repeat' first
    | with_reducible assumption
    | (extract_lets -merge +onlyGivenNames x
       first
       | (have _f := fun a => x a
          clear _f
          unfold x
          clear x)
       | (refine onward_cut (P := State.Onward s x) ?_ (fun hx => ?_)
          on_goal 1 => (unfold x; clear x)
          on_goal 2 => clear_value x)
       | clear_value x
       | (unfold x; clear x)
       | clear x)
    | with_reducible apply Fabric.wr_onward
    | with_reducible apply State.wr_onward
    | with_reducible apply State.wrIf_onward
    | with_reducible apply Fabric.wrWide_onward
    | with_reducible apply State.wrWide_onward
    | fail_if_no_progress dsimp only

theorem State.setWin_onward {g : Nat} {r : Nat} {st : Nat} {w : Win} {s t : State} (h : s.Onward t) :
    s.Onward (State.setWin g r st w t) := by
  unfold State.setWin
  repeat' first
    | with_reducible assumption
    | (extract_lets -merge +onlyGivenNames x
       first
       | (have _f := fun a => x a
          clear _f
          unfold x
          clear x)
       | (refine onward_cut (P := State.Onward s x) ?_ (fun hx => ?_)
          on_goal 1 => (unfold x; clear x)
          on_goal 2 => clear_value x)
       | clear_value x
       | (unfold x; clear x)
       | clear x)
    | with_reducible apply State.showWin_onward
    | with_reducible apply State.updGroup_onward
    | with_reducible refine State.Onward.ite ?_ ?_
    | split
    | fail_if_no_progress dsimp only
    | fail_if_no_progress with_reducible apply State.Onward.upd

theorem State.holdSlot_onward {slot : Nat} {s t : State} (h : s.Onward t) : s.Onward (State.holdSlot slot t) := by
  unfold State.holdSlot
  repeat' first
    | with_reducible assumption
    | with_reducible apply State.putRecord_onward
    | with_reducible refine State.Onward.ite ?_ ?_
    | split
    | fail_if_no_progress with_reducible apply State.Onward.upd

theorem State.unholdSlot_onward {leave : Bool} {slot : Nat} {s t : State} (h : s.Onward t) :
    s.Onward (State.unholdSlot leave slot t) := by
  unfold State.unholdSlot
  repeat' first
    | with_reducible assumption
    | with_reducible apply State.putRecord_onward
    | with_reducible refine State.Onward.ite ?_ ?_
    | split
    | fail_if_no_progress with_reducible apply State.Onward.upd

theorem State.clipEvent_onward {g : Nat} {s t : State} (h : s.Onward t) : s.Onward (State.clipEvent g t) := by
  unfold State.clipEvent
  repeat' first
    | with_reducible assumption
    | with_reducible apply State.fgEv_onward
    | with_reducible apply State.updGroup_onward
    | with_reducible refine State.Onward.ite ?_ ?_
    | split
    | fail_if_no_progress dsimp only
    | fail_if_no_progress with_reducible apply State.Onward.upd

theorem State.clip_onward {g : Nat} {f : FRef} {s t : State} (h : s.Onward t) : s.Onward (State.clip g f t) := by
  unfold State.clip
  repeat' first
    | with_reducible assumption
    | (extract_lets -merge +onlyGivenNames x
       first
       | (have _f := fun a => x a
          clear _f
          unfold x
          clear x)
       | (refine onward_cut (P := State.Onward s x) ?_ (fun hx => ?_)
          on_goal 1 => (unfold x; clear x)
          on_goal 2 => clear_value x)
       | clear_value x
       | (unfold x; clear x)
       | clear x)
    | with_reducible apply State.clipEvent_onward
    | with_reducible apply Fabric.tally_onward
    | with_reducible apply State.tally_onward
    | with_reducible apply State.updGroup_onward
    | with_reducible apply Fabric.wr_onward
    | with_reducible apply State.wr_onward
    | with_reducible refine State.Onward.ite ?_ ?_
    | split
    | fail_if_no_progress dsimp only
    | fail_if_no_progress with_reducible apply State.Onward.upd

theorem State.closeWin_onward {g : Nat} {st : Nat} {clipPost : Bool} {grace : Bool} {s t : State} (h : s.Onward t) :
    s.Onward (State.closeWin g st clipPost grace t) := by
  unfold State.closeWin
  repeat' first
    | with_reducible assumption
    | (extract_lets -merge +onlyGivenNames x
       first
       | (have _f := fun a => x a
          clear _f
          unfold x
          clear x)
       | (refine onward_cut (P := State.Onward s x) ?_ (fun hx => ?_)
          on_goal 1 => (unfold x; clear x)
          on_goal 2 => clear_value x)
       | clear_value x
       | (unfold x; clear x)
       | clear x)
    | with_reducible apply State.clip_onward
    | with_reducible apply State.setWin_onward
    | with_reducible refine State.Onward.ite ?_ ?_
    | split
    | fail_if_no_progress dsimp only
    | fail_if_no_progress with_reducible apply State.Onward.upd

theorem State.writeSummary_onward {g : Nat} {state : Nat} {s t : State} (h : s.Onward t) :
    s.Onward (State.writeSummary g state t) := by
  unfold State.writeSummary
  repeat' first
    | with_reducible assumption
    | with_reducible apply Fabric.setBytes_onward
    | with_reducible apply State.setBytes_onward

theorem State.pushSummary_onward {g : Nat} {s t : State} (h : s.Onward t) : s.Onward (State.pushSummary g t) := by
  unfold State.pushSummary
  repeat' first
    | with_reducible assumption
    | (extract_lets -merge +onlyGivenNames x
       first
       | (have _f := fun a => x a
          clear _f
          unfold x
          clear x)
       | (refine onward_cut (P := State.Onward s x) ?_ (fun hx => ?_)
          on_goal 1 => (unfold x; clear x)
          on_goal 2 => clear_value x)
       | (refine onward_cut (P := State.Onward s x.2) ?_ (fun hx => ?_)
          on_goal 1 => (unfold x; clear x)
          on_goal 2 => clear_value x)
       | (refine onward_cut (P := Fabric.Onward s.fab x) ?_ (fun hx => ?_)
          on_goal 1 => (unfold x; clear x)
          on_goal 2 => clear_value x)
       | (refine onward_cut (P := Fabric.Onward s.fab x.2) ?_ (fun hx => ?_)
          on_goal 1 => (unfold x; clear x)
          on_goal 2 => clear_value x)
       | clear_value x
       | (unfold x; clear x)
       | clear x)
    | with_reducible apply Machine.penAdmit_onward
    | with_reducible apply State.penAdmit_onward
    | with_reducible refine State.Onward.ite ?_ ?_
    | split
    | fail_if_no_progress dsimp only

theorem State.burstRearm_onward {st : Nat} {s t : State} (h : s.Onward t) : s.Onward (State.burstRearm st t) := by
  unfold State.burstRearm
  repeat' first
    | with_reducible assumption
    | (extract_lets -merge +onlyGivenNames x
       first
       | (have _f := fun a => x a
          clear _f
          unfold x
          clear x)
       | (refine onward_cut (P := State.Onward s x) ?_ (fun hx => ?_)
          on_goal 1 => (unfold x; clear x)
          on_goal 2 => clear_value x)
       | clear_value x
       | (unfold x; clear x)
       | clear x)
    | with_reducible apply State.markOver_onward
    | with_reducible apply Fabric.wr_onward
    | with_reducible apply State.wr_onward
    | (with_reducible refine State.Onward.foldl ?_ ?_
       on_goal 1 => intro _ _ _)
    | with_reducible refine State.Onward.ite ?_ ?_
    | split
    | fail_if_no_progress dsimp only
    | fail_if_no_progress with_reducible apply State.Onward.upd

theorem State.enterArmed_onward {g : Nat} {s t : State} (h : s.Onward t) : s.Onward (State.enterArmed g t) := by
  unfold State.enterArmed
  repeat' first
    | with_reducible assumption
    | (extract_lets -merge +onlyGivenNames x
       first
       | (have _f := fun a => x a
          clear _f
          unfold x
          clear x)
       | (refine onward_cut (P := State.Onward s x) ?_ (fun hx => ?_)
          on_goal 1 => (unfold x; clear x)
          on_goal 2 => clear_value x)
       | clear_value x
       | (unfold x; clear x)
       | clear x)
    | with_reducible apply State.burstRearm_onward
    | with_reducible apply State.clipEvent_onward
    | with_reducible apply State.fgEnter_onward
    | with_reducible apply State.updGroup_onward
    | (with_reducible refine State.Onward.foldl ?_ ?_
       on_goal 1 => intro _ _ _)
    | fail_if_no_progress dsimp only
    | fail_if_no_progress with_reducible apply State.Onward.upd

theorem State.fgArm_onward {g : Nat} {s t : State} (h : s.Onward t) : s.Onward (State.fgArm g t) := by
  unfold State.fgArm
  repeat' first
    | with_reducible assumption
    | with_reducible apply State.enterArmed_onward
    | with_reducible refine State.Onward.ite ?_ ?_
    | split

theorem State.memberSwitch_onward {g : Nat} {st : Nat} {s t : State} (h : s.Onward t) :
    s.Onward (State.memberSwitch g st t) := by
  unfold State.memberSwitch
  repeat' first
    | with_reducible assumption
    | (extract_lets -merge +onlyGivenNames x
       first
       | (have _f := fun a => x a
          clear _f
          unfold x
          clear x)
       | (refine onward_cut (P := State.Onward s x) ?_ (fun hx => ?_)
          on_goal 1 => (unfold x; clear x)
          on_goal 2 => clear_value x)
       | clear_value x
       | (unfold x; clear x)
       | clear x)
    | with_reducible apply State.enterArmed_onward
    | with_reducible apply State.markOver_onward
    | with_reducible apply State.smallCheck_onward
    | with_reducible apply State.updGroup_onward
    | with_reducible apply State.updStrm_onward
    | with_reducible apply Fabric.wr_onward
    | with_reducible apply State.wr_onward
    | (with_reducible refine State.Onward.foldl ?_ ?_
       on_goal 1 => intro _ _ _)
    | with_reducible refine State.Onward.ite ?_ ?_
    | split
    | fail_if_no_progress dsimp only
    | fail_if_no_progress with_reducible apply State.Onward.upd

theorem State.fgRearm_onward {g : Nat} {s t : State} (h : s.Onward t) : s.Onward (State.fgRearm g t) := by
  unfold State.fgRearm
  repeat' first
    | with_reducible assumption
    | (extract_lets -merge +onlyGivenNames x
       first
       | (have _f := fun a => x a
          clear _f
          unfold x
          clear x)
       | (refine onward_cut (P := State.Onward s x) ?_ (fun hx => ?_)
          on_goal 1 => (unfold x; clear x)
          on_goal 2 => clear_value x)
       | clear_value x
       | (unfold x; clear x)
       | clear x)
    | with_reducible apply State.enterArmed_onward
    | with_reducible apply State.fgEv_onward
    | with_reducible apply State.memberSwitch_onward
    | with_reducible apply State.updGroup_onward
    | with_reducible apply Fabric.wr_onward
    | with_reducible apply State.wr_onward
    | (with_reducible refine State.Onward.foldl ?_ ?_
       on_goal 1 => intro _ _ _)
    | with_reducible refine State.Onward.ite ?_ ?_
    | split
    | fail_if_no_progress dsimp only
    | fail_if_no_progress with_reducible apply State.Onward.upd

theorem State.fgRelease_onward {g : Nat} {r : Nat} {s t : State} (h : s.Onward t) :
    s.Onward (State.fgRelease g r t) := by
  unfold State.fgRelease
  repeat' first
    | with_reducible assumption
    | (extract_lets -merge +onlyGivenNames x
       first
       | (have _f := fun a => x a
          clear _f
          unfold x
          clear x)
       | (refine onward_cut (P := State.Onward s x) ?_ (fun hx => ?_)
          on_goal 1 => (unfold x; clear x)
          on_goal 2 => clear_value x)
       | (refine onward_cut (P := State.Onward s x.2) ?_ (fun hx => ?_)
          on_goal 1 => (unfold x; clear x)
          on_goal 2 => clear_value x)
       | (refine onward_cut (P := State.Onward s x.1) ?_ (fun hx => ?_)
          on_goal 1 => (unfold x; clear x)
          on_goal 2 => clear_value x)
       | clear_value x
       | (unfold x; clear x)
       | clear x)
    | with_reducible apply State.enterArmed_onward
    | with_reducible apply State.unholdSlot_onward
    | with_reducible apply State.updGroup_onward
    | with_reducible apply Fabric.wr_onward
    | with_reducible apply State.wr_onward
    | (with_reducible refine State.Onward.foldl ?_ ?_
       on_goal 1 => intro _ _ _)
    | (with_reducible refine State.Onward.foldl2 ?_ ?_
       on_goal 1 => intro _ _ _)
    | (with_reducible refine State.Onward.foldl1 ?_ ?_
       on_goal 1 => intro _ _ _)
    | with_reducible refine State.Onward.ite ?_ ?_
    | split
    | fail_if_no_progress dsimp only
    | fail_if_no_progress with_reducible apply State.Onward.upd

theorem State.frozenCheck_onward {g : Nat} {s t : State} (h : s.Onward t) : s.Onward (State.frozenCheck g t) := by
  unfold State.frozenCheck
  repeat' first
    | with_reducible assumption
    | (extract_lets -merge +onlyGivenNames x
       first
       | (have _f := fun a => x a
          clear _f
          unfold x
          clear x)
       | (refine onward_cut (P := State.Onward s x) ?_ (fun hx => ?_)
          on_goal 1 => (unfold x; clear x)
          on_goal 2 => clear_value x)
       | clear_value x
       | (unfold x; clear x)
       | clear x)
    | with_reducible apply State.fgEv_onward
    | with_reducible apply State.fgRearm_onward
    | with_reducible apply State.pushSummary_onward
    | with_reducible apply Fabric.wr_onward
    | with_reducible apply State.wr_onward
    | with_reducible apply State.writeSummary_onward
    | with_reducible refine State.Onward.ite ?_ ?_
    | split
    | fail_if_no_progress dsimp only

theorem State.clipOpen_onward {g : Nat} {s t : State} (h : s.Onward t) : s.Onward (State.clipOpen g t) := by
  unfold State.clipOpen
  repeat' first
    | with_reducible assumption
    | (extract_lets -merge +onlyGivenNames x
       first
       | (have _f := fun a => x a
          clear _f
          unfold x
          clear x)
       | (refine onward_cut (P := State.Onward s x) ?_ (fun hx => ?_)
          on_goal 1 => (unfold x; clear x)
          on_goal 2 => clear_value x)
       | clear_value x
       | (unfold x; clear x)
       | clear x)
    | with_reducible apply State.closeWin_onward
    | with_reducible apply State.frozenCheck_onward
    | (with_reducible refine State.Onward.foldl ?_ ?_
       on_goal 1 => intro _ _ _)
    | with_reducible refine State.Onward.ite ?_ ?_
    | split
    | fail_if_no_progress dsimp only

theorem State.fgDisarm_onward {g : Nat} {s t : State} (h : s.Onward t) : s.Onward (State.fgDisarm g t) := by
  unfold State.fgDisarm
  repeat' first
    | with_reducible assumption
    | with_reducible apply State.clipOpen_onward
    | with_reducible apply State.fgEnter_onward
    | with_reducible refine State.Onward.ite ?_ ?_
    | split

theorem State.winTake_onward {g : Nat} {st : Nat} {slot : Nat} {s t : State} (h : s.Onward t) :
    s.Onward (State.winTake g st slot t) := by
  unfold State.winTake
  repeat' first
    | with_reducible assumption
    | (extract_lets -merge +onlyGivenNames x
       first
       | (have _f := fun a => x a
          clear _f
          unfold x
          clear x)
       | (refine onward_cut (P := State.Onward s x) ?_ (fun hx => ?_)
          on_goal 1 => (unfold x; clear x)
          on_goal 2 => clear_value x)
       | clear_value x
       | (unfold x; clear x)
       | clear x)
    | with_reducible apply State.closeWin_onward
    | with_reducible apply State.holdSlot_onward
    | with_reducible apply State.setWin_onward
    | with_reducible apply State.unholdSlot_onward
    | with_reducible refine State.Onward.ite ?_ ?_
    | split
    | fail_if_no_progress dsimp only
    | fail_if_no_progress with_reducible apply State.Onward.upd

theorem State.winRecord_onward {st : Nat} {slot : Nat} {s t : State} (h : s.Onward t) :
    s.Onward (State.winRecord st slot t) := by
  unfold State.winRecord
  repeat' first
    | with_reducible assumption
    | (extract_lets -merge +onlyGivenNames x
       first
       | (have _f := fun a => x a
          clear _f
          unfold x
          clear x)
       | (refine onward_cut (P := State.Onward s x) ?_ (fun hx => ?_)
          on_goal 1 => (unfold x; clear x)
          on_goal 2 => clear_value x)
       | clear_value x
       | (unfold x; clear x)
       | clear x)
    | with_reducible apply State.frozenCheck_onward
    | with_reducible apply State.updStrm_onward
    | with_reducible apply State.winTake_onward
    | with_reducible refine State.Onward.ite ?_ ?_
    | split
    | fail_if_no_progress dsimp only
    | fail_if_no_progress with_reducible apply State.Onward.upd

theorem State.fgLost_onward {g : Nat} {s t : State} (h : s.Onward t) : s.Onward (State.fgLost g t) := by
  unfold State.fgLost
  repeat' first
    | with_reducible assumption
    | with_reducible apply State.fgEv_onward
    | with_reducible apply Fabric.tally_onward
    | with_reducible apply State.tally_onward
    | with_reducible apply Fabric.wr_onward
    | with_reducible apply State.wr_onward

theorem State.fgApply_onward {g : Nat} {t' : Time} {cause : Nat} {s t : State} (h : s.Onward t) :
    s.Onward (State.fgApply g t' cause t) := by
  unfold State.fgApply
  repeat' first
    | with_reducible assumption
    | (extract_lets -merge +onlyGivenNames x
       first
       | (have _f := fun a => x a
          clear _f
          unfold x
          clear x)
       | (refine onward_cut (P := State.Onward s x) ?_ (fun hx => ?_)
          on_goal 1 => (unfold x; clear x)
          on_goal 2 => clear_value x)
       | (refine onward_cut (P := State.Onward s x.2) ?_ (fun hx => ?_)
          on_goal 1 => (unfold x; clear x)
          on_goal 2 => clear_value x)
       | (refine onward_cut (P := State.Onward s x.1) ?_ (fun hx => ?_)
          on_goal 1 => (unfold x; clear x)
          on_goal 2 => clear_value x)
       | clear_value x
       | (unfold x; clear x)
       | clear x)
    | with_reducible apply State.closeWin_onward
    | with_reducible apply State.fgEnter_onward
    | with_reducible apply State.frozenCheck_onward
    | with_reducible apply State.setWin_onward
    | with_reducible apply Fabric.tally_onward
    | with_reducible apply State.tally_onward
    | with_reducible apply State.updGroup_onward
    | with_reducible apply State.winTake_onward
    | with_reducible apply Fabric.wr_onward
    | with_reducible apply State.wr_onward
    | with_reducible apply Fabric.wrTime_onward
    | with_reducible apply State.wrTime_onward
    | with_reducible apply State.writeSummary_onward
    | (with_reducible refine State.Onward.foldl ?_ ?_
       on_goal 1 => intro _ _ _)
    | (with_reducible refine State.Onward.foldl2 ?_ ?_
       on_goal 1 => intro _ _ _)
    | (with_reducible refine State.Onward.foldl1 ?_ ?_
       on_goal 1 => intro _ _ _)
    | with_reducible refine State.Onward.ite ?_ ?_
    | split
    | fail_if_no_progress dsimp only
    | fail_if_no_progress with_reducible apply State.Onward.upd

theorem State.fgRequest_onward {g : Nat} {t' : Time} {cause : Nat} {s t : State} (h : s.Onward t) :
    s.Onward (State.fgRequest g t' cause t) := by
  unfold State.fgRequest
  repeat' first
    | with_reducible assumption
    | with_reducible apply State.fgApply_onward
    | with_reducible apply State.fgLost_onward
    | with_reducible refine State.Onward.ite ?_ ?_
    | split

theorem State.fgHeld_onward {g : Nat} {t' : Time} {cause : Nat} {s t : State} (h : s.Onward t) :
    s.Onward (State.fgHeld g t' cause t) := by
  unfold State.fgHeld
  repeat' first
    | with_reducible assumption
    | (extract_lets -merge +onlyGivenNames x
       first
       | (have _f := fun a => x a
          clear _f
          unfold x
          clear x)
       | (refine onward_cut (P := State.Onward s x) ?_ (fun hx => ?_)
          on_goal 1 => (unfold x; clear x)
          on_goal 2 => clear_value x)
       | (refine onward_cut (P := State.Onward s x.2) ?_ (fun hx => ?_)
          on_goal 1 => (unfold x; clear x)
          on_goal 2 => clear_value x)
       | (refine onward_cut (P := State.Onward s x.1) ?_ (fun hx => ?_)
          on_goal 1 => (unfold x; clear x)
          on_goal 2 => clear_value x)
       | clear_value x
       | (unfold x; clear x)
       | clear x)
    | with_reducible apply State.clipEvent_onward
    | with_reducible apply State.fgApply_onward
    | with_reducible apply State.fgLost_onward
    | with_reducible apply State.updGroup_onward
    | with_reducible apply Fabric.wr_onward
    | with_reducible apply State.wr_onward
    | with_reducible refine State.Onward.ite ?_ ?_
    | split
    | fail_if_no_progress dsimp only
    | fail_if_no_progress with_reducible apply State.Onward.upd

theorem State.fgFreeze_onward {g : Nat} {s t : State} (h : s.Onward t) : s.Onward (State.fgFreeze g t) := by
  unfold State.fgFreeze
  repeat' first
    | with_reducible assumption
    | (extract_lets -merge +onlyGivenNames x
       first
       | (have _f := fun a => x a
          clear _f
          unfold x
          clear x)
       | (refine onward_cut (P := State.Onward s x) ?_ (fun hx => ?_)
          on_goal 1 => (unfold x; clear x)
          on_goal 2 => clear_value x)
       | clear_value x
       | (unfold x; clear x)
       | clear x)
    | with_reducible apply State.fgLost_onward
    | with_reducible apply State.fgRequest_onward
    | with_reducible refine State.Onward.ite ?_ ?_
    | split
    | fail_if_no_progress dsimp only

theorem State.freezeAt_onward {g : Nat} {t' : Time} {cause : Nat} {s t : State} (h : s.Onward t) :
    s.Onward (State.freezeAt g t' cause t) := by
  unfold State.freezeAt
  repeat' first
    | with_reducible assumption
    | with_reducible apply State.fgRequest_onward
    | with_reducible refine State.Onward.ite ?_ ?_
    | split
    | fail_if_no_progress with_reducible apply State.Onward.upd

theorem State.sourceFreeze_onward {source : Nat} {index : Nat} {rising : Bool} {t' : Time} {s t : State} (h : s.Onward t) :
    s.Onward (State.sourceFreeze source index rising t' t) := by
  unfold State.sourceFreeze
  repeat' first
    | with_reducible assumption
    | (extract_lets -merge +onlyGivenNames x
       first
       | (have _f := fun a => x a
          clear _f
          unfold x
          clear x)
       | (refine onward_cut (P := State.Onward s x) ?_ (fun hx => ?_)
          on_goal 1 => (unfold x; clear x)
          on_goal 2 => clear_value x)
       | clear_value x
       | (unfold x; clear x)
       | clear x)
    | with_reducible apply State.freezeAt_onward
    | (with_reducible refine State.Onward.foldl ?_ ?_
       on_goal 1 => intro _ _ _)
    | with_reducible refine State.Onward.ite ?_ ?_
    | split
    | fail_if_no_progress dsimp only

theorem State.graceEnd_onward {g : Nat} {st : Nat} {s t : State} (h : s.Onward t) :
    s.Onward (State.graceEnd g st t) := by
  unfold State.graceEnd
  repeat' first
    | with_reducible assumption
    | with_reducible apply State.closeWin_onward
    | with_reducible apply State.frozenCheck_onward
    | with_reducible refine State.Onward.ite ?_ ?_
    | split

theorem State.fgCmd_onward {g : Nat} {w : Word} {s t : State} (h : s.Onward t) : s.Onward (State.fgCmd g w t) := by
  unfold State.fgCmd
  repeat' first
    | with_reducible assumption
    | (extract_lets -merge +onlyGivenNames x
       first
       | (have _f := fun a => x a
          clear _f
          unfold x
          clear x)
       | (refine onward_cut (P := State.Onward s x) ?_ (fun hx => ?_)
          on_goal 1 => (unfold x; clear x)
          on_goal 2 => clear_value x)
       | clear_value x
       | (unfold x; clear x)
       | clear x)
    | with_reducible apply State.fgArm_onward
    | with_reducible apply State.fgDisarm_onward
    | with_reducible apply State.fgFreeze_onward
    | with_reducible apply State.fgRearm_onward
    | with_reducible apply State.fgRelease_onward
    | with_reducible apply State.freezeAt_onward
    | with_reducible refine State.Onward.ite ?_ ?_
    | split
    | fail_if_no_progress dsimp only

theorem State.fgConfig_onward {fn : Nat} {g : Nat} {key : Nat} {w : Word} {s t : State} (h : s.Onward t) :
    s.Onward (State.fgConfig fn g key w t) := by
  unfold State.fgConfig
  repeat' first
    | with_reducible assumption
    | with_reducible apply State.accErr_onward
    | with_reducible apply State.putWord_onward
    | with_reducible apply Fabric.wr_onward
    | with_reducible apply State.wr_onward
    | with_reducible refine State.Onward.ite ?_ ?_
    | split

theorem State.mayOverwrite_onward {st : Nat} {vs : List Rec} {s t : State} (h : s.Onward t) :
    s.Onward (State.mayOverwrite st vs t).2 := by
  unfold State.mayOverwrite
  repeat' first
    | with_reducible assumption
    | (extract_lets -merge +onlyGivenNames x
       first
       | (have _f := fun a => x a
          clear _f
          unfold x
          clear x)
       | (refine onward_cut (P := State.Onward s x) ?_ (fun hx => ?_)
          on_goal 1 => (unfold x; clear x)
          on_goal 2 => clear_value x)
       | clear_value x
       | (unfold x; clear x)
       | clear x)
    | with_reducible apply State.clip_onward
    | with_reducible apply State.clipEvent_onward
    | with_reducible apply State.closeWin_onward
    | with_reducible apply State.frozenCheck_onward
    | with_reducible apply State.setWin_onward
    | with_reducible apply Fabric.tally_onward
    | with_reducible apply State.tally_onward
    | with_reducible apply State.unholdSlot_onward
    | with_reducible apply State.updGroup_onward
    | with_reducible apply Fabric.wr_onward
    | with_reducible apply State.wr_onward
    | (with_reducible refine State.Onward.foldl ?_ ?_
       on_goal 1 => intro _ _ _)
    | with_reducible refine State.Onward.ite ?_ ?_
    | split
    | fail_if_no_progress dsimp only
    | fail_if_no_progress with_reducible apply State.Onward.upd

theorem State.setFlow_onward {f : Nat} {x : Flow} {s t : State} (h : s.Onward t) :
    s.Onward (State.setFlow t f x) := by
  unfold State.setFlow
  repeat' first
    | with_reducible assumption
    | fail_if_no_progress dsimp only
    | fail_if_no_progress with_reducible apply State.Onward.upd

theorem State.updFlow_onward {f : Nat} {g : Flow → Flow} {s t : State} (h : s.Onward t) :
    s.Onward (State.updFlow t f g) := by
  unfold State.updFlow
  repeat' first
    | with_reducible assumption
    | with_reducible apply State.setFlow_onward

theorem State.flowReady_onward {r : Rec} {s t : State} (h : s.Onward t) : s.Onward (State.flowReady r t) := by
  unfold State.flowReady
  repeat' first
    | with_reducible assumption
    | with_reducible apply State.updFlow_onward
    | (with_reducible refine State.Onward.foldl ?_ ?_
       on_goal 1 => intro _ _ _)
    | with_reducible refine State.Onward.ite ?_ ?_
    | split
    | fail_if_no_progress dsimp only
    | fail_if_no_progress with_reducible apply State.Onward.upd

theorem State.completeRecord_onward {slot : Nat} {late : Bool} {s t : State} (h : s.Onward t) :
    s.Onward (State.completeRecord slot late t) := by
  unfold State.completeRecord
  repeat' first
    | with_reducible assumption
    | (extract_lets -merge +onlyGivenNames x
       first
       | (have _f := fun a => x a
          clear _f
          unfold x
          clear x)
       | (refine onward_cut (P := State.Onward s x) ?_ (fun hx => ?_)
          on_goal 1 => (unfold x; clear x)
          on_goal 2 => clear_value x)
       | (refine onward_cut (P := State.Onward s x.2) ?_ (fun hx => ?_)
          on_goal 1 => (unfold x; clear x)
          on_goal 2 => clear_value x)
       | (refine onward_cut (P := State.Onward s x.1) ?_ (fun hx => ?_)
          on_goal 1 => (unfold x; clear x)
          on_goal 2 => clear_value x)
       | clear_value x
       | (unfold x; clear x)
       | clear x)
    | with_reducible apply State.fillTags_onward
    | with_reducible apply State.flowReady_onward
    | with_reducible apply State.milestone_onward
    | with_reducible apply State.offer_onward
    | with_reducible apply State.putRecord_onward
    | with_reducible apply Fabric.raise_onward
    | with_reducible apply State.raise_onward
    | with_reducible apply State.winRecord_onward
    | with_reducible refine State.Onward.ite ?_ ?_
    | split
    | fail_if_no_progress dsimp only
    | fail_if_no_progress with_reducible apply State.Onward.upd

end Sys2Proof.Machine
end

