-- ==== Sys2Proof/Laws/Folds.lean ====
section
/-! SUPPORT. What each operation of `Machine/Folds.lean` keeps (see `Laws/Onward.lean`). -/
set_option linter.unusedTactic false
set_option linter.unreachableTactic false
set_option linter.tactic.unusedName false
namespace Sys2Proof.Machine

theorem State.setCtx_onward {k : Nat} {x : Ctx} {s t : State} (h : s.Onward t) : s.Onward (State.setCtx t k x) := by
  unfold State.setCtx
  repeat' first
    | with_reducible assumption
    | fail_if_no_progress dsimp only
    | fail_if_no_progress with_reducible apply State.Onward.upd

theorem State.updCtx_onward {k : Nat} {g : Ctx → Ctx} {s t : State} (h : s.Onward t) :
    s.Onward (State.updCtx t k g) := by
  unfold State.updCtx
  repeat' first
    | with_reducible assumption
    | with_reducible apply State.setCtx_onward

theorem State.setFold_onward {f : Nat} {x : FoldRun} {s t : State} (h : s.Onward t) :
    s.Onward (State.setFold t f x) := by
  unfold State.setFold
  repeat' first
    | with_reducible assumption
    | fail_if_no_progress dsimp only
    | fail_if_no_progress with_reducible apply State.Onward.upd

theorem State.foldEv_onward {f : Nat} {i : Nat} {s t : State} (h : s.Onward t) : s.Onward (State.foldEv f i t) := by
  unfold State.foldEv
  repeat' first
    | with_reducible assumption
    | with_reducible apply Fabric.raise_onward
    | with_reducible apply State.raise_onward

theorem State.contextReq_onward {f : Nat} {c : Nat} {s t : State} (h : s.Onward t) :
    s.Onward (State.contextReq f c t) := by
  unfold State.contextReq
  repeat' first
    | with_reducible assumption
    | (extract_lets -merge +onlyGivenNames x
       first
       | (have _f := fun a => x a
          clear _f
          unfold x
          clear x)
       | (refine onward_cut (P := State.Onward s x) ?_ (fun hx => ?_)
          on_goal 1 => (unfold x; clear x)
          on_goal 2 => clear_value x)
       | (refine onward_cut (P := Fabric.Onward s.fab x) ?_ (fun hx => ?_)
          on_goal 1 => (unfold x; clear x)
          on_goal 2 => clear_value x)
       | (refine onward_cut (P := Fabric.Onward s.fab x.2) ?_ (fun hx => ?_)
          on_goal 1 => (unfold x; clear x)
          on_goal 2 => clear_value x)
       | clear_value x
       | (unfold x; clear x)
       | clear x)
    | with_reducible apply State.foldEv_onward
    | with_reducible apply Fabric.wr_onward
    | with_reducible apply State.wr_onward
    | with_reducible refine State.Onward.ite ?_ ?_
    | split
    | fail_if_no_progress dsimp only

theorem State.contextCancel_onward {f : Nat} {c : Nat} {s t : State} (h : s.Onward t) :
    s.Onward (State.contextCancel f c t) := by
  unfold State.contextCancel
  repeat' first
    | with_reducible assumption
    | with_reducible apply Fabric.wr_onward
    | with_reducible apply State.wr_onward

theorem State.clearDark_onward {f : Nat} {c : Nat} {glob : Nat} {s t : State} (h : s.Onward t) :
    s.Onward (State.clearDark f c glob t) := by
  unfold State.clearDark
  repeat' first
    | with_reducible assumption
    | (extract_lets -merge +onlyGivenNames x
       first
       | (have _f := fun a => x a
          clear _f
          unfold x
          clear x)
       | (refine onward_cut (P := State.Onward s x) ?_ (fun hx => ?_)
          on_goal 1 => (unfold x; clear x)
          on_goal 2 => clear_value x)
       | clear_value x
       | (unfold x; clear x)
       | clear x)
    | with_reducible apply State.updCtx_onward
    | with_reducible apply Fabric.wr_onward
    | with_reducible apply State.wr_onward
    | (with_reducible refine State.Onward.foldl ?_ ?_
       on_goal 1 => intro _ _ _)
    | fail_if_no_progress dsimp only
    | fail_if_no_progress with_reducible apply State.Onward.upd

theorem State.coderShow_onward {f : Nat} {c : Nat} {s t : State} (h : s.Onward t) :
    s.Onward (State.coderShow f c t) := by
  unfold State.coderShow
  repeat' first
    | with_reducible assumption
    | (extract_lets -merge +onlyGivenNames x
       first
       | (have _f := fun a => x a
          clear _f
          unfold x
          clear x)
       | (refine onward_cut (P := State.Onward s x) ?_ (fun hx => ?_)
          on_goal 1 => (unfold x; clear x)
          on_goal 2 => clear_value x)
       | clear_value x
       | (unfold x; clear x)
       | clear x)
    | with_reducible apply Fabric.wr_onward
    | with_reducible apply State.wr_onward
    | with_reducible apply State.wrIf_onward
    | fail_if_no_progress dsimp only

theorem State.clearCoder_onward {f : Nat} {c : Nat} {s t : State} (h : s.Onward t) :
    s.Onward (State.clearCoder f c t) := by
  unfold State.clearCoder
  repeat' first
    | with_reducible assumption
    | with_reducible apply State.coderShow_onward
    | with_reducible apply State.updCtx_onward
    | fail_if_no_progress dsimp only
    | fail_if_no_progress with_reducible apply State.Onward.upd

theorem State.showRetiring_onward {f : Nat} {c : Nat} {s t : State} (h : s.Onward t) :
    s.Onward (State.showRetiring f c t) := by
  unfold State.showRetiring
  repeat' first
    | with_reducible assumption
    | with_reducible apply State.wrIf_onward
    | fail_if_no_progress dsimp only

theorem State.copyBanks_onward {a : Nat × Nat} {b : Nat × Nat} {s t : State} (h : s.Onward t) :
    s.Onward (State.copyBanks a b t) := by
  unfold State.copyBanks
  repeat' first
    | with_reducible assumption
    | with_reducible apply Fabric.ww_onward
    | with_reducible apply State.ww_onward
    | (with_reducible refine State.Onward.foldl ?_ ?_
       on_goal 1 => intro _ _ _)
    | (with_reducible refine State.Onward.foldl2 ?_ ?_
       on_goal 1 => intro _ _ _)
    | (with_reducible refine State.Onward.foldl1 ?_ ?_
       on_goal 1 => intro _ _ _)
    | fail_if_no_progress dsimp only

theorem State.applyMove_onward {h' : Nat × Nat} {st : Nat} {s t : State} (h : s.Onward t) :
    s.Onward (State.applyMove h' st t) := by
  unfold State.applyMove
  repeat' first
    | with_reducible assumption
    | (extract_lets -merge +onlyGivenNames x
       first
       | (have _f := fun a => x a
          clear _f
          unfold x
          clear x)
       | (refine onward_cut (P := State.Onward s x) ?_ (fun hx => ?_)
          on_goal 1 => (unfold x; clear x)
          on_goal 2 => clear_value x)
       | (refine onward_cut (P := State.Onward s x.2) ?_ (fun hx => ?_)
          on_goal 1 => (unfold x; clear x)
          on_goal 2 => clear_value x)
       | (refine onward_cut (P := State.Onward s x.1) ?_ (fun hx => ?_)
          on_goal 1 => (unfold x; clear x)
          on_goal 2 => clear_value x)
       | clear_value x
       | (unfold x; clear x)
       | clear x)
    | with_reducible apply State.clearCoder_onward
    | with_reducible apply State.copyBanks_onward
    | with_reducible apply State.foldEv_onward
    | with_reducible apply Fabric.tally_onward
    | with_reducible apply State.tally_onward
    | with_reducible apply State.updCtx_onward
    | with_reducible apply Fabric.wr_onward
    | with_reducible apply State.wr_onward
    | with_reducible refine State.Onward.ite ?_ ?_
    | split
    | fail_if_no_progress dsimp only
    | fail_if_no_progress with_reducible apply State.Onward.upd

theorem State.swapBanks_onward {h' : Nat × Nat} {st : Nat} {s t : State} (h : s.Onward t) :
    s.Onward (State.swapBanks h' st t) := by
  unfold State.swapBanks
  repeat' first
    | with_reducible assumption
    | (extract_lets -merge +onlyGivenNames x
       first
       | (have _f := fun a => x a
          clear _f
          unfold x
          clear x)
       | (refine onward_cut (P := State.Onward s x) ?_ (fun hx => ?_)
          on_goal 1 => (unfold x; clear x)
          on_goal 2 => clear_value x)
       | (refine onward_cut (P := State.Onward s x.2) ?_ (fun hx => ?_)
          on_goal 1 => (unfold x; clear x)
          on_goal 2 => clear_value x)
       | (refine onward_cut (P := State.Onward s x.1) ?_ (fun hx => ?_)
          on_goal 1 => (unfold x; clear x)
          on_goal 2 => clear_value x)
       | (refine onward_cut (P := Fabric.Onward s.fab x) ?_ (fun hx => ?_)
          on_goal 1 => (unfold x; clear x)
          on_goal 2 => clear_value x)
       | (refine onward_cut (P := Fabric.Onward s.fab x.2) ?_ (fun hx => ?_)
          on_goal 1 => (unfold x; clear x)
          on_goal 2 => clear_value x)
       | clear_value x
       | (unfold x; clear x)
       | clear x)
    | with_reducible apply State.clearCoder_onward
    | with_reducible apply State.clearDark_onward
    | with_reducible apply State.copyBanks_onward
    | with_reducible apply State.updCtx_onward
    | with_reducible apply Fabric.wr_onward
    | with_reducible apply State.wr_onward
    | with_reducible apply Fabric.ww_onward
    | with_reducible apply State.ww_onward
    | (with_reducible refine State.Onward.foldl ?_ ?_
       on_goal 1 => intro _ _ _)
    | (with_reducible refine State.Onward.foldl2 ?_ ?_
       on_goal 1 => intro _ _ _)
    | (with_reducible refine State.Onward.foldl1 ?_ ?_
       on_goal 1 => intro _ _ _)
    | with_reducible refine State.Onward.ite ?_ ?_
    | split
    | fail_if_no_progress dsimp only
    | fail_if_no_progress with_reducible apply State.Onward.upd
    | with_reducible refine State.Onward.updFab ?_ ?_
    | with_reducible apply State.Onward.fab

theorem State.contextSof_onward {st : Nat} {s t : State} (h : s.Onward t) : s.Onward (State.contextSof st t) := by
  unfold State.contextSof
  repeat' first
    | with_reducible assumption
    | (extract_lets -merge +onlyGivenNames x
       first
       | (have _f := fun a => x a
          clear _f
          unfold x
          clear x)
       | (refine onward_cut (P := State.Onward s x) ?_ (fun hx => ?_)
          on_goal 1 => (unfold x; clear x)
          on_goal 2 => clear_value x)
       | (refine onward_cut (P := State.Onward s x.2) ?_ (fun hx => ?_)
          on_goal 1 => (unfold x; clear x)
          on_goal 2 => clear_value x)
       | (refine onward_cut (P := State.Onward s x.1) ?_ (fun hx => ?_)
          on_goal 1 => (unfold x; clear x)
          on_goal 2 => clear_value x)
       | (refine onward_cut (P := Fabric.Onward s.fab x) ?_ (fun hx => ?_)
          on_goal 1 => (unfold x; clear x)
          on_goal 2 => clear_value x)
       | (refine onward_cut (P := Fabric.Onward s.fab x.2) ?_ (fun hx => ?_)
          on_goal 1 => (unfold x; clear x)
          on_goal 2 => clear_value x)
       | clear_value x
       | (unfold x; clear x)
       | clear x)
    | with_reducible apply State.applyMove_onward
    | with_reducible apply State.clearCoder_onward
    | with_reducible apply State.clearDark_onward
    | with_reducible apply State.setCtx_onward
    | with_reducible apply State.swapBanks_onward
    | with_reducible apply State.updCtx_onward
    | with_reducible refine State.Onward.ite ?_ ?_
    | split
    | fail_if_no_progress dsimp only
    | fail_if_no_progress with_reducible apply State.Onward.upd
    | with_reducible refine State.Onward.updFab ?_ ?_
    | with_reducible apply State.Onward.fab

theorem State.addJob_onward {r : Rec} {s t : State} (h : s.Onward t) : s.Onward (State.addJob r t) := by
  unfold State.addJob
  repeat' first
    | with_reducible assumption
    | (extract_lets -merge +onlyGivenNames x
       first
       | (have _f := fun a => x a
          clear _f
          unfold x
          clear x)
       | (refine onward_cut (P := State.Onward s x) ?_ (fun hx => ?_)
          on_goal 1 => (unfold x; clear x)
          on_goal 2 => clear_value x)
       | (refine onward_cut (P := State.Onward s x.2) ?_ (fun hx => ?_)
          on_goal 1 => (unfold x; clear x)
          on_goal 2 => clear_value x)
       | (refine onward_cut (P := State.Onward s x.1) ?_ (fun hx => ?_)
          on_goal 1 => (unfold x; clear x)
          on_goal 2 => clear_value x)
       | clear_value x
       | (unfold x; clear x)
       | clear x)
    | with_reducible apply State.clearCoder_onward
    | with_reducible apply State.clearDark_onward
    | with_reducible apply State.setCtx_onward
    | with_reducible apply State.showRetiring_onward
    | with_reducible refine State.Onward.ite ?_ ?_
    | split
    | fail_if_no_progress dsimp only
    | fail_if_no_progress with_reducible apply State.Onward.upd
    | with_reducible refine State.Onward.updFab ?_ ?_
    | with_reducible apply State.Onward.fab

theorem State.countArrival_onward {st : Nat} {pixels : Nat} {s t : State} (h : s.Onward t) :
    s.Onward (State.countArrival st pixels t) := by
  unfold State.countArrival
  repeat' first
    | with_reducible assumption
    | (extract_lets -merge +onlyGivenNames x
       first
       | (have _f := fun a => x a
          clear _f
          unfold x
          clear x)
       | (refine onward_cut (P := State.Onward s x) ?_ (fun hx => ?_)
          on_goal 1 => (unfold x; clear x)
          on_goal 2 => clear_value x)
       | (refine onward_cut (P := State.Onward s x.2) ?_ (fun hx => ?_)
          on_goal 1 => (unfold x; clear x)
          on_goal 2 => clear_value x)
       | (refine onward_cut (P := State.Onward s x.1) ?_ (fun hx => ?_)
          on_goal 1 => (unfold x; clear x)
          on_goal 2 => clear_value x)
       | clear_value x
       | (unfold x; clear x)
       | clear x)
    | with_reducible apply State.updCtx_onward
    | with_reducible refine State.Onward.ite ?_ ?_
    | split
    | fail_if_no_progress dsimp only
    | fail_if_no_progress with_reducible apply State.Onward.upd

theorem State.mapJobs_onward {k : Nat} {p : Job → Bool} {g : Job → Job} {s t : State} (h : s.Onward t) :
    s.Onward (State.mapJobs k p g t) := by
  unfold State.mapJobs
  repeat' first
    | with_reducible assumption
    | with_reducible apply State.updCtx_onward
    | with_reducible refine State.Onward.ite ?_ ?_
    | split
    | fail_if_no_progress with_reducible apply State.Onward.upd

theorem State.unitReady_onward {st : Nat} {s t : State} (h : s.Onward t) : s.Onward (State.unitReady st t) := by
  unfold State.unitReady
  repeat' first
    | with_reducible assumption
    | (extract_lets -merge +onlyGivenNames x
       first
       | (have _f := fun a => x a
          clear _f
          unfold x
          clear x)
       | (refine onward_cut (P := State.Onward s x) ?_ (fun hx => ?_)
          on_goal 1 => (unfold x; clear x)
          on_goal 2 => clear_value x)
       | (refine onward_cut (P := State.Onward s x.2) ?_ (fun hx => ?_)
          on_goal 1 => (unfold x; clear x)
          on_goal 2 => clear_value x)
       | (refine onward_cut (P := State.Onward s x.1) ?_ (fun hx => ?_)
          on_goal 1 => (unfold x; clear x)
          on_goal 2 => clear_value x)
       | clear_value x
       | (unfold x; clear x)
       | clear x)
    | with_reducible apply State.foldEv_onward
    | with_reducible apply State.mapJobs_onward
    | with_reducible apply Fabric.tally_onward
    | with_reducible apply State.tally_onward
    | with_reducible apply Fabric.wr_onward
    | with_reducible apply State.wr_onward
    | with_reducible refine State.Onward.ite ?_ ?_
    | split
    | fail_if_no_progress dsimp only
    | fail_if_no_progress with_reducible apply State.Onward.upd

theorem State.lateOff_onward {h' : Nat × Nat} {s t : State} (h : s.Onward t) : s.Onward (State.lateOff h' t) := by
  unfold State.lateOff
  repeat' first
    | with_reducible assumption
    | with_reducible apply Fabric.wr_onward
    | with_reducible apply State.wr_onward
    | with_reducible refine State.Onward.ite ?_ ?_
    | split
    | fail_if_no_progress dsimp only

theorem State.emitStat_onward {h' : Nat × Nat} {r : Rec} {j : Job} {focus : Bool} {abandoned : Bool} {body : List Byte} {s t : State} (h : s.Onward t) :
    s.Onward (State.emitStat h' r j focus abandoned body t) := by
  unfold State.emitStat
  repeat' first
    | with_reducible assumption
    | (extract_lets -merge +onlyGivenNames x
       first
       | (have _f := fun a => x a
          clear _f
          unfold x
          clear x)
       | (refine onward_cut (P := State.Onward s x) ?_ (fun hx => ?_)
          on_goal 1 => (unfold x; clear x)
          on_goal 2 => clear_value x)
       | (refine onward_cut (P := State.Onward s x.2) ?_ (fun hx => ?_)
          on_goal 1 => (unfold x; clear x)
          on_goal 2 => clear_value x)
       | (refine onward_cut (P := State.Onward s x.1) ?_ (fun hx => ?_)
          on_goal 1 => (unfold x; clear x)
          on_goal 2 => clear_value x)
       | (refine onward_cut (P := Fabric.Onward s.fab x) ?_ (fun hx => ?_)
          on_goal 1 => (unfold x; clear x)
          on_goal 2 => clear_value x)
       | (refine onward_cut (P := Fabric.Onward s.fab x.2) ?_ (fun hx => ?_)
          on_goal 1 => (unfold x; clear x)
          on_goal 2 => clear_value x)
       | clear_value x
       | (unfold x; clear x)
       | clear x)
    | with_reducible apply Machine.penAdmit_onward
    | with_reducible apply State.penAdmit_onward
    | with_reducible apply Fabric.tally_onward
    | with_reducible apply State.tally_onward
    | with_reducible apply Fabric.wrWide_onward
    | with_reducible apply State.wrWide_onward
    | with_reducible refine State.Onward.ite ?_ ?_
    | split
    | fail_if_no_progress dsimp only

theorem State.emitStats_onward {h' : Nat × Nat} {r : Rec} {j : Job} {abandoned : Bool} {s t : State} (h : s.Onward t) :
    s.Onward (State.emitStats h' r j abandoned t) := by
  unfold State.emitStats
  repeat' first
    | with_reducible assumption
    | (extract_lets -merge +onlyGivenNames x
       first
       | (have _f := fun a => x a
          clear _f
          unfold x
          clear x)
       | (refine onward_cut (P := State.Onward s x) ?_ (fun hx => ?_)
          on_goal 1 => (unfold x; clear x)
          on_goal 2 => clear_value x)
       | (refine onward_cut (P := State.Onward s x.2) ?_ (fun hx => ?_)
          on_goal 1 => (unfold x; clear x)
          on_goal 2 => clear_value x)
       | (refine onward_cut (P := State.Onward s x.1) ?_ (fun hx => ?_)
          on_goal 1 => (unfold x; clear x)
          on_goal 2 => clear_value x)
       | clear_value x
       | (unfold x; clear x)
       | clear x)
    | with_reducible apply State.emitStat_onward
    | with_reducible apply Fabric.tally_onward
    | with_reducible apply State.tally_onward
    | with_reducible refine State.Onward.ite ?_ ?_
    | split
    | fail_if_no_progress dsimp only
    | fail_if_no_progress with_reducible apply State.Onward.upd

theorem State.darkStates_onward {k : Nat} {o : List Nat} {e : List (Int × Nat)} {s t : State}
    (h : s.Onward t) : s.Onward (State.darkStates k o e t).2 := by
  induction o generalizing e t with
  | nil => rw [State.darkStates]; exact h; simp
  | cons x os ih =>
    cases e with
    | nil => rw [State.darkStates]; exact h; simp
    | cons y es =>
      simp only [State.darkStates]
      apply ih
      split
      · exact State.draw_onward h
      · exact h


theorem State.processUnit_onward {h' : Nat × Nat} {r : Rec} {f : PixelFormat} {y : Nat} {n : Nat} {j : Job} {s t : State} (h : s.Onward t) :
    s.Onward (State.processUnit h' r f y n j t).2.2 := by
  unfold State.processUnit
  repeat' first
    | with_reducible assumption
    | (extract_lets -merge +onlyGivenNames x
       first
       | (have _f := fun a => x a
          clear _f
          unfold x
          clear x)
       | (refine onward_cut (P := State.Onward s x) ?_ (fun hx => ?_)
          on_goal 1 => (unfold x; clear x)
          on_goal 2 => clear_value x)
       | (refine onward_cut (P := State.Onward s x.2) ?_ (fun hx => ?_)
          on_goal 1 => (unfold x; clear x)
          on_goal 2 => clear_value x)
       | (refine onward_cut (P := State.Onward s x.1) ?_ (fun hx => ?_)
          on_goal 1 => (unfold x; clear x)
          on_goal 2 => clear_value x)
       | clear_value x
       | (unfold x; clear x)
       | clear x)
    | with_reducible apply State.clearCoder_onward
    | with_reducible apply State.clearDark_onward
    | with_reducible apply State.coderShow_onward
    | with_reducible apply State.darkStates_onward
    | with_reducible apply State.foldEv_onward
    | with_reducible apply Fabric.setBytes_onward
    | with_reducible apply State.setBytes_onward
    | with_reducible apply Fabric.tally_onward
    | with_reducible apply State.tally_onward
    | with_reducible apply State.updCtx_onward
    | with_reducible apply Fabric.wr_onward
    | with_reducible apply State.wr_onward
    | (with_reducible refine State.Onward.foldl ?_ ?_
       on_goal 1 => intro _ _ _)
    | (with_reducible refine State.Onward.foldl2 ?_ ?_
       on_goal 1 => intro _ _ _)
    | (with_reducible refine State.Onward.foldl1 ?_ ?_
       on_goal 1 => intro _ _ _)
    | with_reducible refine State.Onward.ite ?_ ?_
    | split
    | fail_if_no_progress dsimp only
    | fail_if_no_progress with_reducible apply State.Onward.upd

theorem State.skipJob_onward {h' : Nat × Nat} {j : Job} {s t : State} (h : s.Onward t) :
    s.Onward (State.skipJob h' j t) := by
  unfold State.skipJob
  repeat' first
    | with_reducible assumption
    | (extract_lets -merge +onlyGivenNames x
       first
       | (have _f := fun a => x a
          clear _f
          unfold x
          clear x)
       | (refine onward_cut (P := State.Onward s x) ?_ (fun hx => ?_)
          on_goal 1 => (unfold x; clear x)
          on_goal 2 => clear_value x)
       | (refine onward_cut (P := State.Onward s x.2) ?_ (fun hx => ?_)
          on_goal 1 => (unfold x; clear x)
          on_goal 2 => clear_value x)
       | (refine onward_cut (P := State.Onward s x.1) ?_ (fun hx => ?_)
          on_goal 1 => (unfold x; clear x)
          on_goal 2 => clear_value x)
       | clear_value x
       | (unfold x; clear x)
       | clear x)
    | with_reducible apply State.clearCoder_onward
    | with_reducible apply State.clearDark_onward
    | with_reducible apply State.foldEv_onward
    | with_reducible apply State.lateOff_onward
    | with_reducible apply State.setFold_onward
    | with_reducible apply State.showRetiring_onward
    | with_reducible apply Fabric.tally_onward
    | with_reducible apply State.tally_onward
    | with_reducible apply State.updCtx_onward
    | (with_reducible refine State.Onward.foldl ?_ ?_
       on_goal 1 => intro _ _ _)
    | (with_reducible refine State.Onward.foldl2 ?_ ?_
       on_goal 1 => intro _ _ _)
    | (with_reducible refine State.Onward.foldl1 ?_ ?_
       on_goal 1 => intro _ _ _)
    | with_reducible refine State.Onward.ite ?_ ?_
    | split
    | fail_if_no_progress dsimp only
    | fail_if_no_progress with_reducible apply State.Onward.upd

theorem State.unitStart_onward {f n : Nat} {s t : State} (h : s.Onward t) : s.Onward (State.unitStart f n t) := by
  induction n generalizing t with
  | zero => exact h
  | succ n ih =>
    simp only [State.unitStart]
    refine State.Onward.ite h ?_
    split
    · exact h
    · refine State.Onward.ite (ih (State.skipJob_onward h)) ?_
      split
      · exact h
      · exact State.setFold_onward (State.mapJobs_onward h)


theorem State.pushOut_onward {f n : Nat} {s t : State} (h : s.Onward t) : s.Onward (State.pushOut f n t) := by
  induction n generalizing t with
  | zero => exact h
  | succ n ih =>
    simp only [State.pushOut]
    split
    · exact h
    · exact State.Onward.ite (State.Onward.ite h (State.setFold_onward (State.penPush_onward h)))
        (ih (State.setFold_onward (State.penPush_onward h)))


theorem State.frameDone_onward {h' : Nat × Nat} {j : Job} {s t : State} (h : s.Onward t) :
    s.Onward (State.frameDone h' j t) := by
  unfold State.frameDone
  repeat' first
    | with_reducible assumption
    | (extract_lets -merge +onlyGivenNames x
       first
       | (have _f := fun a => x a
          clear _f
          unfold x
          clear x)
       | (refine onward_cut (P := State.Onward s x) ?_ (fun hx => ?_)
          on_goal 1 => (unfold x; clear x)
          on_goal 2 => clear_value x)
       | (refine onward_cut (P := State.Onward s x.2) ?_ (fun hx => ?_)
          on_goal 1 => (unfold x; clear x)
          on_goal 2 => clear_value x)
       | (refine onward_cut (P := State.Onward s x.1) ?_ (fun hx => ?_)
          on_goal 1 => (unfold x; clear x)
          on_goal 2 => clear_value x)
       | clear_value x
       | (unfold x; clear x)
       | clear x)
    | with_reducible apply State.lateOff_onward
    | with_reducible apply State.putRecord_onward
    | with_reducible apply State.showRetiring_onward
    | with_reducible apply State.updCtx_onward
    | with_reducible apply Fabric.wr_onward
    | with_reducible apply State.wr_onward
    | with_reducible refine State.Onward.ite ?_ ?_
    | split
    | fail_if_no_progress dsimp only
    | fail_if_no_progress with_reducible apply State.Onward.upd

theorem State.computeUnit_onward {f : Nat} {u : Nat × Nat × Nat × Nat} {s t : State} (h : s.Onward t) :
    s.Onward (State.computeUnit f u t) := by
  unfold State.computeUnit
  repeat' first
    | with_reducible assumption
    | (extract_lets -merge +onlyGivenNames x
       first
       | (have _f := fun a => x a
          clear _f
          unfold x
          clear x)
       | (refine onward_cut (P := State.Onward s x) ?_ (fun hx => ?_)
          on_goal 1 => (unfold x; clear x)
          on_goal 2 => clear_value x)
       | (refine onward_cut (P := State.Onward s x.2) ?_ (fun hx => ?_)
          on_goal 1 => (unfold x; clear x)
          on_goal 2 => clear_value x)
       | (refine onward_cut (P := State.Onward s x.1) ?_ (fun hx => ?_)
          on_goal 1 => (unfold x; clear x)
          on_goal 2 => clear_value x)
       | (refine onward_cut (P := State.Onward s x.2.2) ?_ (fun hx => ?_)
          on_goal 1 => (unfold x; clear x)
          on_goal 2 => clear_value x)
       | clear_value x
       | (unfold x; clear x)
       | clear x)
    | with_reducible apply State.emitStats_onward
    | with_reducible apply State.mapJobs_onward
    | with_reducible apply State.processUnit_onward
    | with_reducible apply State.setFold_onward
    | with_reducible refine State.Onward.ite ?_ ?_
    | split
    | fail_if_no_progress dsimp only
    | fail_if_no_progress with_reducible apply State.Onward.upd

theorem State.unitComplete_onward {f : Nat} {s t : State} (h : s.Onward t) : s.Onward (State.unitComplete f t) := by
  unfold State.unitComplete
  repeat' first
    | with_reducible assumption
    | (extract_lets -merge +onlyGivenNames x
       first
       | (have _f := fun a => x a
          clear _f
          unfold x
          clear x)
       | (refine onward_cut (P := State.Onward s x) ?_ (fun hx => ?_)
          on_goal 1 => (unfold x; clear x)
          on_goal 2 => clear_value x)
       | (refine onward_cut (P := State.Onward s x.2) ?_ (fun hx => ?_)
          on_goal 1 => (unfold x; clear x)
          on_goal 2 => clear_value x)
       | (refine onward_cut (P := State.Onward s x.1) ?_ (fun hx => ?_)
          on_goal 1 => (unfold x; clear x)
          on_goal 2 => clear_value x)
       | (refine onward_cut (P := State.Onward s x.2.2) ?_ (fun hx => ?_)
          on_goal 1 => (unfold x; clear x)
          on_goal 2 => clear_value x)
       | clear_value x
       | (unfold x; clear x)
       | clear x)
    | with_reducible apply State.computeUnit_onward
    | with_reducible apply State.frameDone_onward
    | with_reducible apply State.lateOff_onward
    | with_reducible apply State.pushOut_onward
    | with_reducible apply State.setFold_onward
    | with_reducible apply State.updCtx_onward
    | with_reducible refine State.Onward.ite ?_ ?_
    | split
    | fail_if_no_progress dsimp only
    | fail_if_no_progress with_reducible apply State.Onward.upd

theorem State.throttleStep_onward {f : Nat} {k : Nat} {s t : State} (h : s.Onward t) :
    s.Onward (State.throttleStep f k t) := by
  unfold State.throttleStep
  repeat' first
    | with_reducible assumption
    | (extract_lets -merge +onlyGivenNames x
       first
       | (have _f := fun a => x a
          clear _f
          unfold x
          clear x)
       | (refine onward_cut (P := State.Onward s x) ?_ (fun hx => ?_)
          on_goal 1 => (unfold x; clear x)
          on_goal 2 => clear_value x)
       | clear_value x
       | (unfold x; clear x)
       | clear x)
    | with_reducible apply State.foldEv_onward
    | with_reducible apply Fabric.wr_onward
    | with_reducible apply State.wr_onward
    | with_reducible refine State.Onward.ite ?_ ?_
    | split
    | fail_if_no_progress dsimp only

theorem State.rebalanceFold_onward {f : Nat} {s t : State} (h : s.Onward t) : s.Onward (State.rebalanceFold t f) := by
  unfold State.rebalanceFold
  repeat' first
    | with_reducible assumption
    | (extract_lets -merge +onlyGivenNames x
       first
       | (have _f := fun a => x a
          clear _f
          unfold x
          clear x)
       | (refine onward_cut (P := State.Onward s x) ?_ (fun hx => ?_)
          on_goal 1 => (unfold x; clear x)
          on_goal 2 => clear_value x)
       | (refine onward_cut (P := State.Onward s x.2) ?_ (fun hx => ?_)
          on_goal 1 => (unfold x; clear x)
          on_goal 2 => clear_value x)
       | (refine onward_cut (P := State.Onward s x.1) ?_ (fun hx => ?_)
          on_goal 1 => (unfold x; clear x)
          on_goal 2 => clear_value x)
       | clear_value x
       | (unfold x; clear x)
       | clear x)
    | with_reducible apply State.foldEv_onward
    | with_reducible apply State.updCtx_onward
    | (with_reducible refine State.Onward.foldl ?_ ?_
       on_goal 1 => intro _ _ _)
    | (with_reducible refine State.Onward.foldl2 ?_ ?_
       on_goal 1 => intro _ _ _)
    | (with_reducible refine State.Onward.foldl1 ?_ ?_
       on_goal 1 => intro _ _ _)
    | with_reducible refine State.Onward.ite ?_ ?_
    | split
    | fail_if_no_progress dsimp only
    | fail_if_no_progress with_reducible apply State.Onward.upd

theorem State.rebalance_onward {s t : State} (h : s.Onward t) : s.Onward (State.rebalance t) := by
  unfold State.rebalance
  repeat' first
    | with_reducible assumption
    | with_reducible apply State.rebalanceFold_onward
    | (with_reducible refine State.Onward.foldl ?_ ?_
       on_goal 1 => intro _ _ _)

theorem State.abandonUnit_onward {f : Nat} {s t : State} (h : s.Onward t) : s.Onward (State.abandonUnit f t) := by
  unfold State.abandonUnit
  repeat' first
    | with_reducible assumption
    | (extract_lets -merge +onlyGivenNames x
       first
       | (have _f := fun a => x a
          clear _f
          unfold x
          clear x)
       | (refine onward_cut (P := State.Onward s x) ?_ (fun hx => ?_)
          on_goal 1 => (unfold x; clear x)
          on_goal 2 => clear_value x)
       | (refine onward_cut (P := State.Onward s x.2) ?_ (fun hx => ?_)
          on_goal 1 => (unfold x; clear x)
          on_goal 2 => clear_value x)
       | (refine onward_cut (P := State.Onward s x.1) ?_ (fun hx => ?_)
          on_goal 1 => (unfold x; clear x)
          on_goal 2 => clear_value x)
       | (refine onward_cut (P := State.Onward s x.2.2) ?_ (fun hx => ?_)
          on_goal 1 => (unfold x; clear x)
          on_goal 2 => clear_value x)
       | clear_value x
       | (unfold x; clear x)
       | clear x)
    | with_reducible apply State.emitStats_onward
    | with_reducible apply State.setFold_onward
    | with_reducible apply State.updCtx_onward
    | with_reducible refine State.Onward.ite ?_ ?_
    | split
    | fail_if_no_progress dsimp only
    | fail_if_no_progress with_reducible apply State.Onward.upd

theorem State.foldReset_onward {f : Nat} {s t : State} (h : s.Onward t) : s.Onward (State.foldReset f t) := by
  unfold State.foldReset
  repeat' first
    | with_reducible assumption
    | (extract_lets -merge +onlyGivenNames x
       first
       | (have _f := fun a => x a
          clear _f
          unfold x
          clear x)
       | (refine onward_cut (P := State.Onward s x) ?_ (fun hx => ?_)
          on_goal 1 => (unfold x; clear x)
          on_goal 2 => clear_value x)
       | (refine onward_cut (P := State.Onward s x.2) ?_ (fun hx => ?_)
          on_goal 1 => (unfold x; clear x)
          on_goal 2 => clear_value x)
       | (refine onward_cut (P := State.Onward s x.1) ?_ (fun hx => ?_)
          on_goal 1 => (unfold x; clear x)
          on_goal 2 => clear_value x)
       | clear_value x
       | (unfold x; clear x)
       | clear x)
    | with_reducible apply State.abandonUnit_onward
    | with_reducible apply State.clearCoder_onward
    | with_reducible apply State.clearDark_onward
    | with_reducible apply State.pushOut_onward
    | with_reducible apply State.skipJob_onward
    | (with_reducible refine State.Onward.foldl ?_ ?_
       on_goal 1 => intro _ _ _)
    | (with_reducible refine State.Onward.foldl2 ?_ ?_
       on_goal 1 => intro _ _ _)
    | (with_reducible refine State.Onward.foldl1 ?_ ?_
       on_goal 1 => intro _ _ _)
    | with_reducible refine State.Onward.ite ?_ ?_
    | split
    | fail_if_no_progress dsimp only

theorem State.publishCommit_onward {st : Nat} {s t : State} (h : s.Onward t) :
    s.Onward (State.publishCommit st t) := by
  unfold State.publishCommit
  repeat' first
    | with_reducible assumption
    | (extract_lets -merge +onlyGivenNames x
       first
       | (have _f := fun a => x a
          clear _f
          unfold x
          clear x)
       | (refine onward_cut (P := State.Onward s x) ?_ (fun hx => ?_)
          on_goal 1 => (unfold x; clear x)
          on_goal 2 => clear_value x)
       | (refine onward_cut (P := State.Onward s x.2) ?_ (fun hx => ?_)
          on_goal 1 => (unfold x; clear x)
          on_goal 2 => clear_value x)
       | (refine onward_cut (P := State.Onward s x.1) ?_ (fun hx => ?_)
          on_goal 1 => (unfold x; clear x)
          on_goal 2 => clear_value x)
       | clear_value x
       | (unfold x; clear x)
       | clear x)
    | with_reducible apply State.foldEv_onward
    | with_reducible apply State.updCtx_onward
    | with_reducible apply Fabric.wr_onward
    | with_reducible apply State.wr_onward
    | with_reducible refine State.Onward.ite ?_ ?_
    | split
    | fail_if_no_progress dsimp only
    | fail_if_no_progress with_reducible apply State.Onward.upd

end Sys2Proof.Machine
end

