-- ==== Sys2Proof/Laws/Trigger.lean ====
section
/-! SUPPORT. What each operation of `Machine/Trigger.lean` keeps (see `Laws/Onward.lean`). -/
set_option linter.unusedTactic false
set_option linter.unreachableTactic false
set_option linter.tactic.unusedName false
namespace Sys2Proof.Machine

theorem State.setTrig_onward {n : Nat} {t' : Trig} {s t : State} (h : s.Onward t) :
    s.Onward (State.setTrig t n t') := by
  unfold State.setTrig
  repeat' first
    | with_reducible assumption
    | fail_if_no_progress dsimp only
    | fail_if_no_progress with_reducible apply State.Onward.upd

theorem State.updTrig_onward {n : Nat} {g : Trig → Trig} {s t : State} (h : s.Onward t) :
    s.Onward (State.updTrig t n g) := by
  unfold State.updTrig
  repeat' first
    | with_reducible assumption
    | with_reducible apply State.setTrig_onward

theorem State.trigEv_onward {n : Nat} {detail : Nat} {s t : State} (h : s.Onward t) :
    s.Onward (State.trigEv n detail t) := by
  unfold State.trigEv
  repeat' first
    | with_reducible assumption
    | with_reducible apply Fabric.raise_onward
    | with_reducible apply State.raise_onward

theorem State.trigQueued_onward {n : Nat} {s t : State} (h : s.Onward t) : s.Onward (State.trigQueued n t) := by
  unfold State.trigQueued
  repeat' first
    | with_reducible assumption
    | with_reducible apply Fabric.wr_onward
    | with_reducible apply State.wr_onward

theorem State.trigPromote_onward {n : Nat} {s t : State} (h : s.Onward t) : s.Onward (State.trigPromote n t) := by
  unfold State.trigPromote
  repeat' first
    | with_reducible assumption
    | with_reducible apply State.updTrig_onward
    | with_reducible refine State.Onward.ite ?_ ?_
    | split
    | fail_if_no_progress dsimp only
    | fail_if_no_progress with_reducible apply State.Onward.upd

theorem State.trigReq_onward {n : Nat} {s t : State} (h : s.Onward t) : s.Onward (State.trigReq n t) := by
  unfold State.trigReq
  repeat' first
    | with_reducible assumption
    | (extract_lets -merge +onlyGivenNames x
       first
       | (have _f := fun a => x a
          clear _f
          unfold x
          clear x)
       | (refine onward_cut (P := State.Onward s x) ?_ (fun hx => ?_)
          on_goal 1 => (unfold x; clear x)
          on_goal 2 => clear_value x)
       | clear_value x
       | (unfold x; clear x)
       | clear x)
    | with_reducible apply State.trigEv_onward
    | with_reducible apply State.updTrig_onward
    | with_reducible apply Fabric.wr_onward
    | with_reducible apply State.wr_onward
    | with_reducible refine State.Onward.ite ?_ ?_
    | split
    | fail_if_no_progress dsimp only
    | fail_if_no_progress with_reducible apply State.Onward.upd

theorem State.trigCancel_onward {n : Nat} {s t : State} (h : s.Onward t) : s.Onward (State.trigCancel n t) := by
  unfold State.trigCancel
  repeat' first
    | with_reducible assumption
    | with_reducible apply State.updTrig_onward
    | with_reducible apply Fabric.wr_onward
    | with_reducible apply State.wr_onward
    | fail_if_no_progress dsimp only
    | fail_if_no_progress with_reducible apply State.Onward.upd

theorem State.trigSof_onward {st : Nat} {s t : State} (h : s.Onward t) : s.Onward (State.trigSof st t) := by
  unfold State.trigSof
  repeat' first
    | with_reducible assumption
    | with_reducible refine State.Onward.ite ?_ ?_
    | split
    | fail_if_no_progress dsimp only
    | fail_if_no_progress with_reducible apply State.Onward.upd

theorem State.trigApply_onward {n : Nat} {s t : State} (h : s.Onward t) : s.Onward (State.trigApply n t) := by
  unfold State.trigApply
  repeat' first
    | with_reducible assumption
    | (extract_lets -merge +onlyGivenNames x
       first
       | (have _f := fun a => x a
          clear _f
          unfold x
          clear x)
       | (refine onward_cut (P := State.Onward s x) ?_ (fun hx => ?_)
          on_goal 1 => (unfold x; clear x)
          on_goal 2 => clear_value x)
       | (refine onward_cut (P := State.Onward s x.2) ?_ (fun hx => ?_)
          on_goal 1 => (unfold x; clear x)
          on_goal 2 => clear_value x)
       | (refine onward_cut (P := State.Onward s x.1) ?_ (fun hx => ?_)
          on_goal 1 => (unfold x; clear x)
          on_goal 2 => clear_value x)
       | clear_value x
       | (unfold x; clear x)
       | clear x)
    | with_reducible apply State.trigEv_onward
    | with_reducible apply State.trigPromote_onward
    | with_reducible apply State.updTrig_onward
    | with_reducible apply Fabric.wr_onward
    | with_reducible apply State.wr_onward
    | with_reducible apply Fabric.ww_onward
    | with_reducible apply State.ww_onward
    | (with_reducible refine State.Onward.foldl ?_ ?_
       on_goal 1 => intro _ _ _)
    | (with_reducible refine State.Onward.foldl2 ?_ ?_
       on_goal 1 => intro _ _ _)
    | (with_reducible refine State.Onward.foldl1 ?_ ?_
       on_goal 1 => intro _ _ _)
    | with_reducible refine State.Onward.ite ?_ ?_
    | split
    | fail_if_no_progress dsimp only
    | fail_if_no_progress with_reducible apply State.Onward.upd

theorem State.srcPulseTo_onward {chs : List Nat} {kind : Nat} {index : Nat} {port : Nat} {rising : Bool} {cause : Nat} {arrival : Nat} {s t : State} (h : s.Onward t) :
    s.Onward (State.srcPulseTo chs kind index port rising cause arrival t) := by
  unfold State.srcPulseTo
  repeat' first
    | with_reducible assumption
    | (extract_lets -merge +onlyGivenNames x
       first
       | (have _f := fun a => x a
          clear _f
          unfold x
          clear x)
       | (refine onward_cut (P := State.Onward s x) ?_ (fun hx => ?_)
          on_goal 1 => (unfold x; clear x)
          on_goal 2 => clear_value x)
       | clear_value x
       | (unfold x; clear x)
       | clear x)
    | with_reducible apply State.updTrig_onward
    | (with_reducible refine State.Onward.foldl ?_ ?_
       on_goal 1 => intro _ _ _)
    | with_reducible refine State.Onward.ite ?_ ?_
    | split
    | fail_if_no_progress dsimp only
    | fail_if_no_progress with_reducible apply State.Onward.upd

theorem State.srcPulse_onward {kind : Nat} {index : Nat} {port : Nat} {rising : Bool} {cause : Nat} {arrival : Nat} {s t : State} (h : s.Onward t) :
    s.Onward (State.srcPulse kind index port rising cause arrival t) := by
  unfold State.srcPulse
  repeat' first
    | with_reducible assumption
    | with_reducible apply State.srcPulseTo_onward

theorem State.softwareTrigger_onward {mask : Nat} {s t : State} (h : s.Onward t) :
    s.Onward (State.softwareTrigger mask t) := by
  unfold State.softwareTrigger
  repeat' first
    | with_reducible assumption
    | with_reducible apply State.srcPulseTo_onward

theorem State.markLate_onward {n : Nat} {id : Nat} {s t : State} (h : s.Onward t) :
    s.Onward (State.markLate n id t) := by
  unfold State.markLate
  repeat' first
    | with_reducible assumption
    | (extract_lets -merge +onlyGivenNames x
       first
       | (have _f := fun a => x a
          clear _f
          unfold x
          clear x)
       | (refine onward_cut (P := State.Onward s x) ?_ (fun hx => ?_)
          on_goal 1 => (unfold x; clear x)
          on_goal 2 => clear_value x)
       | clear_value x
       | (unfold x; clear x)
       | clear x)
    | with_reducible apply State.setTrig_onward
    | with_reducible apply Fabric.tally_onward
    | with_reducible apply State.tally_onward
    | with_reducible apply State.trigEv_onward
    | with_reducible apply Fabric.wr_onward
    | with_reducible apply State.wr_onward
    | with_reducible refine State.Onward.ite ?_ ?_
    | split
    | fail_if_no_progress dsimp only
    | fail_if_no_progress with_reducible apply State.Onward.upd

theorem State.trigDone_onward {n : Nat} {s t : State} (h : s.Onward t) : s.Onward (State.trigDone n t) := by
  unfold State.trigDone
  repeat' first
    | with_reducible assumption
    | with_reducible apply State.trigQueued_onward
    | with_reducible apply State.updTrig_onward
    | fail_if_no_progress dsimp only
    | fail_if_no_progress with_reducible apply State.Onward.upd

theorem State.inbandRoute_onward {n : Nat} {id : Nat} {start : Time} {end_ : Time} {issue : Time} {s t : State} (h : s.Onward t) :
    s.Onward (State.inbandRoute n id start end_ issue t).1 := by
  unfold State.inbandRoute
  repeat' first
    | with_reducible assumption
    | (extract_lets -merge +onlyGivenNames x
       first
       | (have _f := fun a => x a
          clear _f
          unfold x
          clear x)
       | (refine onward_cut (P := State.Onward s x) ?_ (fun hx => ?_)
          on_goal 1 => (unfold x; clear x)
          on_goal 2 => clear_value x)
       | (refine onward_cut (P := State.Onward s x.2) ?_ (fun hx => ?_)
          on_goal 1 => (unfold x; clear x)
          on_goal 2 => clear_value x)
       | (refine onward_cut (P := State.Onward s x.1) ?_ (fun hx => ?_)
          on_goal 1 => (unfold x; clear x)
          on_goal 2 => clear_value x)
       | clear_value x
       | (unfold x; clear x)
       | clear x)
    | with_reducible apply State.draw_onward
    | with_reducible apply State.setPort_onward
    | with_reducible apply Fabric.tally_onward
    | with_reducible apply State.tally_onward
    | with_reducible refine State.Onward.ite ?_ ?_
    | split
    | fail_if_no_progress dsimp only
    | fail_if_no_progress with_reducible apply State.Onward.upd

theorem State.followStart_onward {n : Nat} {start : Time} {s t : State} (h : s.Onward t) :
    s.Onward (State.followStart n start t) := by
  unfold State.followStart
  repeat' first
    | with_reducible assumption
    | (extract_lets -merge +onlyGivenNames x
       first
       | (have _f := fun a => x a
          clear _f
          unfold x
          clear x)
       | (refine onward_cut (P := State.Onward s x) ?_ (fun hx => ?_)
          on_goal 1 => (unfold x; clear x)
          on_goal 2 => clear_value x)
       | clear_value x
       | (unfold x; clear x)
       | clear x)
    | (with_reducible refine State.Onward.foldl ?_ ?_
       on_goal 1 => intro _ _ _)
    | with_reducible refine State.Onward.ite ?_ ?_
    | split
    | fail_if_no_progress dsimp only
    | fail_if_no_progress with_reducible apply State.Onward.upd

theorem State.place_onward {n : Nat} {start : Time} {end_ : Time} {issue : Time} {gen : Nat} {s t : State} (h : s.Onward t) :
    s.Onward (State.place n start end_ issue gen t) := by
  unfold State.place
  repeat' first
    | with_reducible assumption
    | (extract_lets -merge +onlyGivenNames x
       first
       | (have _f := fun a => x a
          clear _f
          unfold x
          clear x)
       | (refine onward_cut (P := State.Onward s x) ?_ (fun hx => ?_)
          on_goal 1 => (unfold x; clear x)
          on_goal 2 => clear_value x)
       | (refine onward_cut (P := State.Onward s x.2) ?_ (fun hx => ?_)
          on_goal 1 => (unfold x; clear x)
          on_goal 2 => clear_value x)
       | (refine onward_cut (P := State.Onward s x.1) ?_ (fun hx => ?_)
          on_goal 1 => (unfold x; clear x)
          on_goal 2 => clear_value x)
       | (refine onward_cut (P := State.Onward s x.2.2) ?_ (fun hx => ?_)
          on_goal 1 => (unfold x; clear x)
          on_goal 2 => clear_value x)
       | clear_value x
       | (unfold x; clear x)
       | clear x)
    | with_reducible apply State.followStart_onward
    | with_reducible apply State.inbandRoute_onward
    | with_reducible apply Fabric.tally_onward
    | with_reducible apply State.tally_onward
    | with_reducible apply State.trigDone_onward
    | with_reducible apply State.trigEv_onward
    | with_reducible apply State.updTrig_onward
    | with_reducible apply Fabric.wr_onward
    | with_reducible apply State.wr_onward
    | with_reducible apply Fabric.wrTime_onward
    | with_reducible apply State.wrTime_onward
    | with_reducible refine State.Onward.ite ?_ ?_
    | split
    | fail_if_no_progress dsimp only
    | fail_if_no_progress with_reducible apply State.Onward.upd

theorem State.issue_onward {n : Nat} {c : Time} {s t : State} (h : s.Onward t) : s.Onward (State.issue n c t) := by
  unfold State.issue
  repeat' first
    | with_reducible assumption
    | (extract_lets -merge +onlyGivenNames x
       first
       | (have _f := fun a => x a
          clear _f
          unfold x
          clear x)
       | (refine onward_cut (P := State.Onward s x) ?_ (fun hx => ?_)
          on_goal 1 => (unfold x; clear x)
          on_goal 2 => clear_value x)
       | (refine onward_cut (P := State.Onward s x.2) ?_ (fun hx => ?_)
          on_goal 1 => (unfold x; clear x)
          on_goal 2 => clear_value x)
       | (refine onward_cut (P := State.Onward s x.1) ?_ (fun hx => ?_)
          on_goal 1 => (unfold x; clear x)
          on_goal 2 => clear_value x)
       | clear_value x
       | (unfold x; clear x)
       | clear x)
    | with_reducible apply State.draw_onward
    | with_reducible apply State.place_onward
    | with_reducible apply State.trigEv_onward
    | (with_reducible refine State.Onward.foldl ?_ ?_
       on_goal 1 => intro _ _ _)
    | (with_reducible refine State.Onward.foldl2 ?_ ?_
       on_goal 1 => intro _ _ _)
    | (with_reducible refine State.Onward.foldl1 ?_ ?_
       on_goal 1 => intro _ _ _)
    | with_reducible refine State.Onward.ite ?_ ?_
    | split
    | fail_if_no_progress dsimp only

theorem State.channelPulse_onward {n : Nat} {c : Time} {s t : State} (h : s.Onward t) :
    s.Onward (State.channelPulse n c t) := by
  unfold State.channelPulse
  repeat' first
    | with_reducible assumption
    | (extract_lets -merge +onlyGivenNames x
       first
       | (have _f := fun a => x a
          clear _f
          unfold x
          clear x)
       | (refine onward_cut (P := State.Onward s x) ?_ (fun hx => ?_)
          on_goal 1 => (unfold x; clear x)
          on_goal 2 => clear_value x)
       | (refine onward_cut (P := State.Onward s x.2) ?_ (fun hx => ?_)
          on_goal 1 => (unfold x; clear x)
          on_goal 2 => clear_value x)
       | (refine onward_cut (P := State.Onward s x.1) ?_ (fun hx => ?_)
          on_goal 1 => (unfold x; clear x)
          on_goal 2 => clear_value x)
       | clear_value x
       | (unfold x; clear x)
       | clear x)
    | with_reducible apply State.issue_onward
    | with_reducible apply State.setTrig_onward
    | with_reducible refine State.Onward.ite ?_ ?_
    | split
    | fail_if_no_progress dsimp only
    | fail_if_no_progress with_reducible apply State.Onward.upd

theorem State.combineAnd_onward {n : Nat} {w : Nat} {b : Bool} {c : Time} {s t : State} (h : s.Onward t) :
    s.Onward (State.combineAnd n w b c t) := by
  unfold State.combineAnd
  repeat' first
    | with_reducible assumption
    | (extract_lets -merge +onlyGivenNames x
       first
       | (have _f := fun a => x a
          clear _f
          unfold x
          clear x)
       | (refine onward_cut (P := State.Onward s x) ?_ (fun hx => ?_)
          on_goal 1 => (unfold x; clear x)
          on_goal 2 => clear_value x)
       | clear_value x
       | (unfold x; clear x)
       | clear x)
    | with_reducible apply State.channelPulse_onward
    | with_reducible apply State.setTrig_onward
    | with_reducible refine State.Onward.ite ?_ ?_
    | split
    | fail_if_no_progress dsimp only
    | fail_if_no_progress with_reducible apply State.Onward.upd

theorem State.combine_onward {n : Nat} {s t : State} (h : s.Onward t) : s.Onward (State.combine n t) := by
  unfold State.combine
  repeat' first
    | with_reducible assumption
    | (extract_lets -merge +onlyGivenNames x
       first
       | (have _f := fun a => x a
          clear _f
          unfold x
          clear x)
       | (refine onward_cut (P := State.Onward s x) ?_ (fun hx => ?_)
          on_goal 1 => (unfold x; clear x)
          on_goal 2 => clear_value x)
       | (refine onward_cut (P := State.Onward s x.2) ?_ (fun hx => ?_)
          on_goal 1 => (unfold x; clear x)
          on_goal 2 => clear_value x)
       | (refine onward_cut (P := State.Onward s x.1) ?_ (fun hx => ?_)
          on_goal 1 => (unfold x; clear x)
          on_goal 2 => clear_value x)
       | (refine onward_cut (P := State.Onward s x.2.2) ?_ (fun hx => ?_)
          on_goal 1 => (unfold x; clear x)
          on_goal 2 => clear_value x)
       | clear_value x
       | (unfold x; clear x)
       | clear x)
    | with_reducible apply State.channelPulse_onward
    | with_reducible apply State.combineAnd_onward
    | with_reducible apply State.runTo_onward
    | with_reducible apply State.trigPromote_onward
    | with_reducible apply State.updTrig_onward
    | (with_reducible refine State.Onward.foldl ?_ ?_
       on_goal 1 => intro _ _ _)
    | (with_reducible refine State.Onward.foldl2 ?_ ?_
       on_goal 1 => intro _ _ _)
    | (with_reducible refine State.Onward.foldl1 ?_ ?_
       on_goal 1 => intro _ _ _)
    | with_reducible refine State.Onward.ite ?_ ?_
    | split
    | fail_if_no_progress dsimp only
    | fail_if_no_progress with_reducible apply State.Onward.upd

theorem State.showPin_onward {n : Nat} {was : Bool} {at_ : Time} {s t : State} (h : s.Onward t) :
    s.Onward (State.showPin n was at_ t) := by
  unfold State.showPin
  repeat' first
    | with_reducible assumption
    | with_reducible apply Fabric.emit_onward
    | with_reducible apply State.emit_onward
    | with_reducible refine State.Onward.ite ?_ ?_
    | split

theorem State.emitEdge_onward {n : Nat} {route : Nat} {s t : State} (h : s.Onward t) :
    s.Onward (State.emitEdge n route t) := by
  unfold State.emitEdge
  repeat' first
    | with_reducible assumption
    | (extract_lets -merge +onlyGivenNames x
       first
       | (have _f := fun a => x a
          clear _f
          unfold x
          clear x)
       | (refine onward_cut (P := State.Onward s x) ?_ (fun hx => ?_)
          on_goal 1 => (unfold x; clear x)
          on_goal 2 => clear_value x)
       | clear_value x
       | (unfold x; clear x)
       | clear x)
    | with_reducible apply Fabric.emit_onward
    | with_reducible apply State.emit_onward
    | with_reducible apply State.markLate_onward
    | with_reducible apply State.runTo_onward
    | with_reducible apply State.showPin_onward
    | with_reducible apply State.trigDone_onward
    | with_reducible apply State.updTrig_onward
    | with_reducible apply State.wrIf_onward
    | with_reducible refine State.Onward.ite ?_ ?_
    | split
    | fail_if_no_progress dsimp only
    | fail_if_no_progress with_reducible apply State.Onward.upd

theorem State.dropBlock_onward {P : Nat} {x : HeldBlock} {s t : State} (h : s.Onward t) :
    s.Onward (State.dropBlock P x t) := by
  unfold State.dropBlock
  repeat' first
    | with_reducible assumption
    | (extract_lets -merge +onlyGivenNames x
       first
       | (have _f := fun a => x a
          clear _f
          unfold x
          clear x)
       | (refine onward_cut (P := State.Onward s x) ?_ (fun hx => ?_)
          on_goal 1 => (unfold x; clear x)
          on_goal 2 => clear_value x)
       | clear_value x
       | (unfold x; clear x)
       | clear x)
    | with_reducible apply State.place_onward
    | with_reducible apply State.setPort_onward
    | with_reducible apply State.updTrig_onward
    | with_reducible refine State.Onward.ite ?_ ?_
    | split
    | fail_if_no_progress dsimp only
    | fail_if_no_progress with_reducible apply State.Onward.upd

theorem State.nextSlot_onward {P : Nat} {s t : State} (h : s.Onward t) : s.Onward (State.nextSlot P t).1 := by
  unfold State.nextSlot
  repeat' first
    | with_reducible assumption
    | (extract_lets -merge +onlyGivenNames x
       first
       | (have _f := fun a => x a
          clear _f
          unfold x
          clear x)
       | (refine onward_cut (P := State.Onward s x) ?_ (fun hx => ?_)
          on_goal 1 => (unfold x; clear x)
          on_goal 2 => clear_value x)
       | (refine onward_cut (P := State.Onward s x.2) ?_ (fun hx => ?_)
          on_goal 1 => (unfold x; clear x)
          on_goal 2 => clear_value x)
       | (refine onward_cut (P := State.Onward s x.1) ?_ (fun hx => ?_)
          on_goal 1 => (unfold x; clear x)
          on_goal 2 => clear_value x)
       | clear_value x
       | (unfold x; clear x)
       | clear x)
    | with_reducible apply State.draw_onward
    | with_reducible refine State.Onward.ite ?_ ?_
    | split
    | fail_if_no_progress dsimp only
    | fail_if_no_progress with_reducible apply State.Onward.upd

theorem State.sendBlock_onward {P : Nat} {x : HeldBlock} {at_ : Time} {delay : Int} {s t : State} (h : s.Onward t) :
    s.Onward (State.sendBlock P x at_ delay t) := by
  unfold State.sendBlock
  repeat' first
    | with_reducible assumption
    | (extract_lets -merge +onlyGivenNames x
       first
       | (have _f := fun a => x a
          clear _f
          unfold x
          clear x)
       | (refine onward_cut (P := State.Onward s x) ?_ (fun hx => ?_)
          on_goal 1 => (unfold x; clear x)
          on_goal 2 => clear_value x)
       | clear_value x
       | (unfold x; clear x)
       | clear x)
    | with_reducible apply State.dropBlock_onward
    | with_reducible apply Fabric.emit_onward
    | with_reducible apply State.emit_onward
    | with_reducible apply State.markLate_onward
    | with_reducible apply State.place_onward
    | with_reducible apply State.setPort_onward
    | with_reducible apply State.trigDone_onward
    | with_reducible apply State.updTrig_onward
    | with_reducible refine State.Onward.ite ?_ ?_
    | split
    | fail_if_no_progress dsimp only
    | fail_if_no_progress with_reducible apply State.Onward.upd

theorem State.inbandSend_onward {P : Nat} {s t : State} (h : s.Onward t) : s.Onward (State.inbandSend P t) := by
  unfold State.inbandSend
  repeat' first
    | with_reducible assumption
    | (extract_lets -merge +onlyGivenNames x
       first
       | (have _f := fun a => x a
          clear _f
          unfold x
          clear x)
       | (refine onward_cut (P := State.Onward s x) ?_ (fun hx => ?_)
          on_goal 1 => (unfold x; clear x)
          on_goal 2 => clear_value x)
       | (refine onward_cut (P := State.Onward s x.2) ?_ (fun hx => ?_)
          on_goal 1 => (unfold x; clear x)
          on_goal 2 => clear_value x)
       | (refine onward_cut (P := State.Onward s x.1) ?_ (fun hx => ?_)
          on_goal 1 => (unfold x; clear x)
          on_goal 2 => clear_value x)
       | clear_value x
       | (unfold x; clear x)
       | clear x)
    | with_reducible apply State.nextSlot_onward
    | with_reducible apply State.sendBlock_onward
    | with_reducible apply State.setPort_onward
    | with_reducible refine State.Onward.ite ?_ ?_
    | split
    | fail_if_no_progress dsimp only
    | fail_if_no_progress with_reducible apply State.Onward.upd

theorem State.releaseBlock_onward {P : Nat} {s t : State} (h : s.Onward t) : s.Onward (State.releaseBlock P t) := by
  unfold State.releaseBlock
  repeat' first
    | with_reducible assumption
    | (extract_lets -merge +onlyGivenNames x
       first
       | (have _f := fun a => x a
          clear _f
          unfold x
          clear x)
       | (refine onward_cut (P := State.Onward s x.2) ?_ (fun hx => ?_)
          on_goal 1 => (unfold x; clear x)
          on_goal 2 => clear_value x)
       | (refine onward_cut (P := State.Onward s x.1) ?_ (fun hx => ?_)
          on_goal 1 => (unfold x; clear x)
          on_goal 2 => clear_value x)
       | clear_value x
       | (unfold x; clear x)
       | clear x)
    | with_reducible apply State.nextSlot_onward
    | with_reducible apply State.sendBlock_onward
    | with_reducible refine State.Onward.ite ?_ ?_
    | split
    | fail_if_no_progress dsimp only
    | fail_if_no_progress with_reducible apply State.Onward.upd

theorem State.inbandDiscard_onward {P : Nat} {s t : State} (h : s.Onward t) : s.Onward (State.inbandDiscard P t) := by
  unfold State.inbandDiscard
  repeat' first
    | with_reducible assumption
    | (extract_lets -merge +onlyGivenNames x
       first
       | (have _f := fun a => x a
          clear _f
          unfold x
          clear x)
       | (refine onward_cut (P := State.Onward s x) ?_ (fun hx => ?_)
          on_goal 1 => (unfold x; clear x)
          on_goal 2 => clear_value x)
       | clear_value x
       | (unfold x; clear x)
       | clear x)
    | with_reducible apply State.dropBlock_onward
    | with_reducible apply Fabric.tally_onward
    | with_reducible apply State.tally_onward
    | with_reducible apply State.trigDone_onward
    | with_reducible apply State.updTrig_onward
    | (with_reducible refine State.Onward.foldl ?_ ?_
       on_goal 1 => intro _ _ _)
    | with_reducible refine State.Onward.ite ?_ ?_
    | split
    | fail_if_no_progress dsimp only
    | fail_if_no_progress with_reducible apply State.Onward.upd

theorem State.trigDiscard_onward {n : Nat} {s t : State} (h : s.Onward t) : s.Onward (State.trigDiscard n t) := by
  unfold State.trigDiscard
  repeat' first
    | with_reducible assumption
    | (extract_lets -merge +onlyGivenNames x
       first
       | (have _f := fun a => x a
          clear _f
          unfold x
          clear x)
       | (refine onward_cut (P := State.Onward s x) ?_ (fun hx => ?_)
          on_goal 1 => (unfold x; clear x)
          on_goal 2 => clear_value x)
       | clear_value x
       | (unfold x; clear x)
       | clear x)
    | with_reducible apply State.place_onward
    | with_reducible apply State.setPort_onward
    | with_reducible apply Fabric.tally_onward
    | with_reducible apply State.tally_onward
    | with_reducible apply State.trigQueued_onward
    | with_reducible apply State.updTrig_onward
    | (with_reducible refine State.Onward.foldl ?_ ?_
       on_goal 1 => intro _ _ _)
    | fail_if_no_progress dsimp only
    | fail_if_no_progress with_reducible apply State.Onward.upd

theorem State.idlePins_onward {n : Nat} {s t : State} (h : s.Onward t) : s.Onward (State.idlePins n t) := by
  unfold State.idlePins
  repeat' first
    | with_reducible assumption
    | (extract_lets -merge +onlyGivenNames x
       first
       | (have _f := fun a => x a
          clear _f
          unfold x
          clear x)
       | (refine onward_cut (P := State.Onward s x) ?_ (fun hx => ?_)
          on_goal 1 => (unfold x; clear x)
          on_goal 2 => clear_value x)
       | clear_value x
       | (unfold x; clear x)
       | clear x)
    | with_reducible apply Fabric.emit_onward
    | with_reducible apply State.emit_onward
    | with_reducible apply State.showPin_onward
    | with_reducible apply State.trigDiscard_onward
    | with_reducible apply State.trigDone_onward
    | with_reducible apply State.updTrig_onward
    | with_reducible apply Fabric.wr_onward
    | with_reducible apply State.wr_onward
    | (with_reducible refine State.Onward.foldl ?_ ?_
       on_goal 1 => intro _ _ _)
    | fail_if_no_progress dsimp only
    | fail_if_no_progress with_reducible apply State.Onward.upd

theorem State.idleOutputs_onward {s t : State} (h : s.Onward t) : s.Onward (State.idleOutputs t) := by
  unfold State.idleOutputs
  repeat' first
    | with_reducible assumption
    | with_reducible apply State.idlePins_onward
    | (with_reducible refine State.Onward.foldl ?_ ?_
       on_goal 1 => intro _ _ _)
    | fail_if_no_progress dsimp only

theorem State.trigCtrl_onward {fn : Nat} {n : Nat} {w : Word} {s t : State} (h : s.Onward t) :
    s.Onward (State.trigCtrl fn n w t) := by
  unfold State.trigCtrl
  repeat' first
    | with_reducible assumption
    | (extract_lets -merge +onlyGivenNames x
       first
       | (have _f := fun a => x a
          clear _f
          unfold x
          clear x)
       | (refine onward_cut (P := State.Onward s x) ?_ (fun hx => ?_)
          on_goal 1 => (unfold x; clear x)
          on_goal 2 => clear_value x)
       | clear_value x
       | (unfold x; clear x)
       | clear x)
    | with_reducible apply State.putWord_onward
    | with_reducible apply State.trigDiscard_onward
    | with_reducible apply State.updTrig_onward
    | with_reducible refine State.Onward.ite ?_ ?_
    | split
    | fail_if_no_progress dsimp only
    | fail_if_no_progress with_reducible apply State.Onward.upd

theorem State.trigCommit_onward {n : Nat} {w : Word} {s t : State} (h : s.Onward t) :
    s.Onward (State.trigCommit n w t) := by
  unfold State.trigCommit
  repeat' first
    | with_reducible assumption
    | (extract_lets -merge +onlyGivenNames x
       first
       | (have _f := fun a => x a
          clear _f
          unfold x
          clear x)
       | (refine onward_cut (P := State.Onward s x) ?_ (fun hx => ?_)
          on_goal 1 => (unfold x; clear x)
          on_goal 2 => clear_value x)
       | clear_value x
       | (unfold x; clear x)
       | clear x)
    | with_reducible apply State.trigCancel_onward
    | with_reducible apply State.trigReq_onward
    | with_reducible refine State.Onward.ite ?_ ?_
    | split
    | fail_if_no_progress dsimp only

theorem State.postPlacements_onward {n : Nat} {count : Nat} {s t : State} (h : s.Onward t) :
    s.Onward (State.postPlacements n count t) := by
  unfold State.postPlacements
  repeat' first
    | with_reducible assumption
    | (extract_lets -merge +onlyGivenNames x
       first
       | (have _f := fun a => x a
          clear _f
          unfold x
          clear x)
       | (refine onward_cut (P := State.Onward s x) ?_ (fun hx => ?_)
          on_goal 1 => (unfold x; clear x)
          on_goal 2 => clear_value x)
       | clear_value x
       | (unfold x; clear x)
       | clear x)
    | with_reducible apply State.setTrig_onward
    | with_reducible apply Fabric.tally_onward
    | with_reducible apply State.tally_onward
    | with_reducible refine State.Onward.ite ?_ ?_
    | split
    | fail_if_no_progress dsimp only
    | fail_if_no_progress with_reducible apply State.Onward.upd

end Sys2Proof.Machine
end

