-- ==== Sys2Proof/Laws/Parallel.lean ====
section
/-! SUPPORT. What each operation of `Machine/Parallel.lean` keeps (see `Laws/Onward.lean`). -/
set_option linter.unusedTactic false
set_option linter.unreachableTactic false
set_option linter.tactic.unusedName false
namespace Sys2Proof.Machine

theorem State.alignAcquired_onward {l : Nat} {s t : State} (h : s.Onward t) : s.Onward (State.alignAcquired l t) := by
  unfold State.alignAcquired
  repeat' first
    | with_reducible assumption
    | with_reducible apply Fabric.raise_onward
    | with_reducible apply State.raise_onward
    | with_reducible apply Fabric.wr_onward
    | with_reducible apply State.wr_onward
    | with_reducible refine State.Onward.ite ?_ ?_
    | split

theorem State.alignLost_onward {l : Nat} {s t : State} (h : s.Onward t) : s.Onward (State.alignLost l t) := by
  unfold State.alignLost
  repeat' first
    | with_reducible assumption
    | with_reducible apply State.closeFrame_onward
    | with_reducible apply Fabric.raise_onward
    | with_reducible apply State.raise_onward
    | with_reducible apply Fabric.tally_onward
    | with_reducible apply State.tally_onward
    | with_reducible apply Fabric.wr_onward
    | with_reducible apply State.wr_onward
    | with_reducible refine State.Onward.ite ?_ ?_
    | split

theorem State.alignWrite_onward {fn : Nat} {w : Word} {s t : State} (h : s.Onward t) :
    s.Onward (State.alignWrite fn w t) := by
  unfold State.alignWrite
  repeat' first
    | with_reducible assumption
    | (extract_lets -merge +onlyGivenNames x
       first
       | (have _f := fun a => x a
          clear _f
          unfold x
          clear x)
       | (refine onward_cut (P := State.Onward s x) ?_ (fun hx => ?_)
          on_goal 1 => (unfold x; clear x)
          on_goal 2 => clear_value x)
       | clear_value x
       | (unfold x; clear x)
       | clear x)
    | with_reducible apply State.putWord_onward
    | with_reducible refine State.Onward.ite ?_ ?_
    | split
    | fail_if_no_progress dsimp only
    | fail_if_no_progress with_reducible apply State.Onward.upd

theorem State.clockLost_onward {s t : State} (h : s.Onward t) : s.Onward (State.clockLost t) := by
  unfold State.clockLost
  repeat' first
    | with_reducible assumption
    | with_reducible apply State.portSilent_onward
    | with_reducible apply Fabric.raise_onward
    | with_reducible apply State.raise_onward
    | with_reducible apply Fabric.wr_onward
    | with_reducible apply State.wr_onward
    | with_reducible refine State.Onward.ite ?_ ?_
    | split

theorem State.clockPresent_onward {s t : State} (h : s.Onward t) : s.Onward (State.clockPresent t) := by
  unfold State.clockPresent
  repeat' first
    | with_reducible assumption
    | with_reducible apply Fabric.raise_onward
    | with_reducible apply State.raise_onward
    | with_reducible apply Fabric.wr_onward
    | with_reducible apply State.wr_onward
    | with_reducible refine State.Onward.ite ?_ ?_
    | split

theorem State.serialShow_onward {s t : State} (h : s.Onward t) : s.Onward (State.serialShow t) := by
  unfold State.serialShow
  repeat' first
    | with_reducible assumption
    | (extract_lets -merge +onlyGivenNames x
       first
       | (have _f := fun a => x a
          clear _f
          unfold x
          clear x)
       | (refine onward_cut (P := State.Onward s x) ?_ (fun hx => ?_)
          on_goal 1 => (unfold x; clear x)
          on_goal 2 => clear_value x)
       | clear_value x
       | (unfold x; clear x)
       | clear x)
    | with_reducible apply Fabric.wr_onward
    | with_reducible apply State.wr_onward
    | with_reducible apply State.wrIf_onward
    | fail_if_no_progress dsimp only

theorem State.serialShift_onward {b : Nat} {s t : State} (h : s.Onward t) : s.Onward (State.serialShift b t) := by
  unfold State.serialShift
  repeat' first
    | with_reducible assumption
    | with_reducible apply Fabric.emit_onward
    | with_reducible apply State.emit_onward
    | fail_if_no_progress with_reducible apply State.Onward.upd

theorem State.serialSend_onward {b : Nat} {s t : State} (h : s.Onward t) : s.Onward (State.serialSend b t) := by
  unfold State.serialSend
  repeat' first
    | with_reducible assumption
    | with_reducible apply State.serialShift_onward
    | with_reducible apply State.serialShow_onward
    | with_reducible apply Fabric.wr_onward
    | with_reducible apply State.wr_onward
    | with_reducible refine State.Onward.ite ?_ ?_
    | split
    | fail_if_no_progress with_reducible apply State.Onward.upd

theorem State.serialSent_onward {s t : State} (h : s.Onward t) : s.Onward (State.serialSent t) := by
  unfold State.serialSent
  repeat' first
    | with_reducible assumption
    | with_reducible apply State.serialShift_onward
    | with_reducible apply State.serialShow_onward
    | with_reducible refine State.Onward.ite ?_ ?_
    | split
    | fail_if_no_progress with_reducible apply State.Onward.upd

theorem State.serialReceive_onward {b : Nat} {stop : Bool} {s t : State} (h : s.Onward t) :
    s.Onward (State.serialReceive b stop t) := by
  unfold State.serialReceive
  repeat' first
    | with_reducible assumption
    | (extract_lets -merge +onlyGivenNames x
       first
       | (refine onward_cut (P := State.Onward s x) ?_ (fun hx => ?_)
          on_goal 1 => (unfold x; clear x)
          on_goal 2 => clear_value x)
       | clear_value x
       | (unfold x; clear x)
       | clear x)
    | with_reducible apply Fabric.raise_onward
    | with_reducible apply State.raise_onward
    | with_reducible apply State.serialShow_onward
    | with_reducible apply Fabric.tally_onward
    | with_reducible apply State.tally_onward
    | with_reducible apply Fabric.wr_onward
    | with_reducible apply State.wr_onward
    | with_reducible refine State.Onward.ite ?_ ?_
    | split
    | fail_if_no_progress dsimp only
    | fail_if_no_progress with_reducible apply State.Onward.upd

theorem State.serialRead_onward {fn : Nat} {s t : State} (h : s.Onward t) : s.Onward (State.serialRead fn t) := by
  unfold State.serialRead
  repeat' first
    | with_reducible assumption
    | (extract_lets -merge +onlyGivenNames x
       first
       | (have _f := fun a => x a
          clear _f
          unfold x
          clear x)
       | (refine onward_cut (P := State.Onward s x) ?_ (fun hx => ?_)
          on_goal 1 => (unfold x; clear x)
          on_goal 2 => clear_value x)
       | clear_value x
       | (unfold x; clear x)
       | clear x)
    | with_reducible apply Fabric.emit_onward
    | with_reducible apply State.emit_onward
    | with_reducible apply State.serialShow_onward
    | fail_if_no_progress dsimp only
    | fail_if_no_progress with_reducible apply State.Onward.upd

end Sys2Proof.Machine
end

