-- ==== Sys2Proof/Laws/Placement.lean ====
section
/-! SUPPORT. What each operation of `Machine/Placement.lean` keeps (see `Laws/Onward.lean`). -/
set_option linter.unusedTactic false
set_option linter.unreachableTactic false
set_option linter.tactic.unusedName false
namespace Sys2Proof.Machine

theorem State.imgSet_onward {f : FRef} {v : Nat} {s t : State} (h : s.Onward t) : s.Onward (State.imgSet f v t) := by
  unfold State.imgSet
  repeat' first
    | with_reducible assumption
    | (extract_lets -merge +onlyGivenNames x
       first
       | (have _f := fun a => x a
          clear _f
          unfold x
          clear x)
       | (refine onward_cut (P := State.Onward s x) ?_ (fun hx => ?_)
          on_goal 1 => (unfold x; clear x)
          on_goal 2 => clear_value x)
       | clear_value x
       | (unfold x; clear x)
       | clear x)
    | with_reducible apply Fabric.wr_onward
    | with_reducible apply State.wr_onward
    | fail_if_no_progress dsimp only
    | fail_if_no_progress with_reducible apply State.Onward.upd

theorem State.imgOnly_onward {f : FRef} {v : Nat} {s t : State} (h : s.Onward t) :
    s.Onward (State.imgOnly f v t) := by
  unfold State.imgOnly
  repeat' first
    | with_reducible assumption
    | (extract_lets -merge +onlyGivenNames x
       first
       | (have _f := fun a => x a
          clear _f
          unfold x
          clear x)
       | (refine onward_cut (P := State.Onward s x) ?_ (fun hx => ?_)
          on_goal 1 => (unfold x; clear x)
          on_goal 2 => clear_value x)
       | clear_value x
       | (unfold x; clear x)
       | clear x)
    | fail_if_no_progress dsimp only
    | fail_if_no_progress with_reducible apply State.Onward.upd

theorem State.setShape_onward {st : Nat} {x : Nat × Nat × Nat} {s t : State} (h : s.Onward t) :
    s.Onward (State.setShape st x t) := by
  unfold State.setShape
  repeat' first
    | with_reducible assumption
    | (extract_lets -merge +onlyGivenNames x
       first
       | (have _f := fun a => x a
          clear _f
          unfold x
          clear x)
       | (refine onward_cut (P := State.Onward s x) ?_ (fun hx => ?_)
          on_goal 1 => (unfold x; clear x)
          on_goal 2 => clear_value x)
       | (refine onward_cut (P := State.Onward s x.2) ?_ (fun hx => ?_)
          on_goal 1 => (unfold x; clear x)
          on_goal 2 => clear_value x)
       | (refine onward_cut (P := State.Onward s x.1) ?_ (fun hx => ?_)
          on_goal 1 => (unfold x; clear x)
          on_goal 2 => clear_value x)
       | (refine onward_cut (P := State.Onward s x.2.2) ?_ (fun hx => ?_)
          on_goal 1 => (unfold x; clear x)
          on_goal 2 => clear_value x)
       | clear_value x
       | (unfold x; clear x)
       | clear x)
    | with_reducible apply State.imgSet_onward
    | fail_if_no_progress dsimp only

theorem State.bankInit_onward {e : StreamEntry} {x : Nat × Nat × Nat} {half : Nat}
    {set : Nat → FRef → Nat → State → State}
    {s t : State} (hs : ∀ o f v y, s.Onward y → s.Onward (set o f v y)) (h : s.Onward t) :
    s.Onward (State.bankInit e x half set t) := by
  simp only [State.bankInit]
  repeat with_reducible apply hs
  exact h

theorem State.contextInit_onward {e : StreamEntry} {s t : State} (h : s.Onward t) :
    s.Onward (State.contextInit e t) := by
  have k (c : Prop) [Decidable c] (f : FRef) (v : Nat) (y : State) (hy : s.Onward y) :
      s.Onward ((if c then State.imgOnly else State.imgSet) f v y) := by
    split
    · exact State.imgOnly_onward hy
    · exact State.imgSet_onward hy
  simp only [State.contextInit]
  exact State.bankInit_onward (fun _ f v y hy => k _ f v y hy)
    (State.bankInit_onward (fun _ f v y hy => k _ f v y hy) (State.imgSet_onward (State.imgSet_onward h)))

theorem State.contextNew_onward {e : StreamEntry} {s t : State} (h : s.Onward t) :
    s.Onward (State.contextNew e t) := by
  unfold State.contextNew
  repeat' first
    | with_reducible assumption
    | with_reducible apply State.updCtx_onward
    | fail_if_no_progress dsimp only
    | fail_if_no_progress with_reducible apply State.Onward.upd

theorem State.egImg_onward {st : Nat} {s t : State} (h : s.Onward t) : s.Onward (State.egImg st t) := by
  unfold State.egImg
  repeat' first
    | with_reducible assumption
    | (extract_lets -merge +onlyGivenNames x
       first
       | (have _f := fun a => x a
          clear _f
          unfold x
          clear x)
       | (refine onward_cut (P := State.Onward s x) ?_ (fun hx => ?_)
          on_goal 1 => (unfold x; clear x)
          on_goal 2 => clear_value x)
       | clear_value x
       | (unfold x; clear x)
       | clear x)
    | with_reducible apply State.imgOnly_onward
    | with_reducible apply State.imgSet_onward
    | with_reducible refine State.Onward.ite ?_ ?_
    | split
    | fail_if_no_progress dsimp only

theorem State.countContexts_onward {s t : State} (h : s.Onward t) : s.Onward (State.countContexts t) := by
  unfold State.countContexts
  repeat' first
    | with_reducible assumption
    | (extract_lets -merge +onlyGivenNames x
       first
       | (have _f := fun a => x a
          clear _f
          unfold x
          clear x)
       | (refine onward_cut (P := State.Onward s x.2) ?_ (fun hx => ?_)
          on_goal 1 => (unfold x; clear x)
          on_goal 2 => clear_value x)
       | (refine onward_cut (P := State.Onward s x.1) ?_ (fun hx => ?_)
          on_goal 1 => (unfold x; clear x)
          on_goal 2 => clear_value x)
       | clear_value x
       | (unfold x; clear x)
       | clear x)
    | with_reducible apply State.imgSet_onward
    | (with_reducible refine State.Onward.foldl ?_ ?_
       on_goal 1 => intro _ _ _)
    | (with_reducible refine State.Onward.foldl2 ?_ ?_
       on_goal 1 => intro _ _ _)
    | (with_reducible refine State.Onward.foldl1 ?_ ?_
       on_goal 1 => intro _ _ _)
    | fail_if_no_progress dsimp only

theorem State.setRegion_onward {st : Nat} {mode : Nat} {run : PageRun} {s t : State} (h : s.Onward t) :
    s.Onward (State.setRegion st mode run t) := by
  unfold State.setRegion
  repeat' first
    | with_reducible assumption
    | with_reducible apply State.imgSet_onward
    | with_reducible apply State.smallCheck_onward
    | fail_if_no_progress dsimp only

theorem State.factoryPen_onward {p : Nat} {size : Nat} {data : Nat} {side : Nat} {s t : State} (h : s.Onward t) :
    s.Onward (State.factoryPen p size data side t) := by
  unfold State.factoryPen
  repeat' first
    | with_reducible assumption
    | (extract_lets -merge +onlyGivenNames x
       first
       | (have _f := fun a => x a
          clear _f
          unfold x
          clear x)
       | (refine onward_cut (P := State.Onward s x) ?_ (fun hx => ?_)
          on_goal 1 => (unfold x; clear x)
          on_goal 2 => clear_value x)
       | clear_value x
       | (unfold x; clear x)
       | clear x)
    | with_reducible apply State.imgSet_onward
    | fail_if_no_progress dsimp only

theorem State.factoryStream_onward {st : Nat} {run : PageRun} {s t : State} (h : s.Onward t) :
    s.Onward (State.factoryStream st run t) := by
  unfold State.factoryStream
  repeat' first
    | with_reducible assumption
    | (extract_lets -merge +onlyGivenNames x
       first
       | (have _f := fun a => x a
          clear _f
          unfold x
          clear x)
       | (refine onward_cut (P := State.Onward s x) ?_ (fun hx => ?_)
          on_goal 1 => (unfold x; clear x)
          on_goal 2 => clear_value x)
       | (refine onward_cut (P := State.Onward s x.2) ?_ (fun hx => ?_)
          on_goal 1 => (unfold x; clear x)
          on_goal 2 => clear_value x)
       | clear_value x
       | (unfold x; clear x)
       | clear x)
    | with_reducible apply State.contextInit_onward
    | with_reducible apply State.contextNew_onward
    | with_reducible apply State.egImg_onward
    | with_reducible apply State.factoryPen_onward
    | with_reducible apply State.imgSet_onward
    | with_reducible apply State.setRegion_onward
    | fail_if_no_progress dsimp only
    | fail_if_no_progress with_reducible apply State.Onward.upd

theorem State.noteCarried_onward {P : Nat} {s t : State} (h : s.Onward t) : s.Onward (State.noteCarried P t) := by
  unfold State.noteCarried
  repeat' first
    | with_reducible assumption
    | with_reducible refine State.Onward.ite ?_ ?_
    | split
    | fail_if_no_progress with_reducible apply State.Onward.upd

theorem State.factoryRetrain_onward {s t : State} (h : s.Onward t) : s.Onward (State.factoryRetrain t) := by
  unfold State.factoryRetrain
  repeat' first
    | with_reducible assumption
    | (extract_lets -merge +onlyGivenNames x
       first
       | (have _f := fun a => x a
          clear _f
          unfold x
          clear x)
       | (refine onward_cut (P := State.Onward s x) ?_ (fun hx => ?_)
          on_goal 1 => (unfold x; clear x)
          on_goal 2 => clear_value x)
       | (refine onward_cut (P := State.Onward s x.2) ?_ (fun hx => ?_)
          on_goal 1 => (unfold x; clear x)
          on_goal 2 => clear_value x)
       | (refine onward_cut (P := State.Onward s x.1) ?_ (fun hx => ?_)
          on_goal 1 => (unfold x; clear x)
          on_goal 2 => clear_value x)
       | clear_value x
       | (unfold x; clear x)
       | clear x)
    | with_reducible apply State.countContexts_onward
    | with_reducible apply State.factoryStream_onward
    | with_reducible apply State.imgSet_onward
    | with_reducible apply State.noteCarried_onward
    | (with_reducible refine State.Onward.foldl ?_ ?_
       on_goal 1 => intro _ _ _)
    | (with_reducible refine State.Onward.foldl2 ?_ ?_
       on_goal 1 => intro _ _ _)
    | (with_reducible refine State.Onward.foldl1 ?_ ?_
       on_goal 1 => intro _ _ _)
    | with_reducible refine State.Onward.ite ?_ ?_
    | split
    | fail_if_no_progress dsimp only

theorem State.factoryLate_onward {P : Nat} {s t : State} (h : s.Onward t) : s.Onward (State.factoryLate P t) := by
  unfold State.factoryLate
  repeat' first
    | with_reducible assumption
    | (extract_lets -merge +onlyGivenNames x
       first
       | (have _f := fun a => x a
          clear _f
          unfold x
          clear x)
       | (refine onward_cut (P := State.Onward s x) ?_ (fun hx => ?_)
          on_goal 1 => (unfold x; clear x)
          on_goal 2 => clear_value x)
       | (refine onward_cut (P := State.Onward s x.2) ?_ (fun hx => ?_)
          on_goal 1 => (unfold x; clear x)
          on_goal 2 => clear_value x)
       | clear_value x
       | (unfold x; clear x)
       | clear x)
    | with_reducible apply State.countContexts_onward
    | with_reducible apply State.factoryStream_onward
    | with_reducible apply State.noteCarried_onward
    | (with_reducible refine State.Onward.foldl ?_ ?_
       on_goal 1 => intro _ _ _)
    | (with_reducible refine State.Onward.foldl2 ?_ ?_
       on_goal 1 => intro _ _ _)
    | (with_reducible refine State.Onward.foldl1 ?_ ?_
       on_goal 1 => intro _ _ _)
    | with_reducible refine State.Onward.ite ?_ ?_
    | split
    | fail_if_no_progress dsimp only

end Sys2Proof.Machine
end

