-- ==== Sys2Proof/Laws/Lanes.lean ====
section
/-! SUPPORT. What each operation of `Machine/Lanes.lean` keeps (see `Laws/Onward.lean`). -/
set_option linter.unusedTactic false
set_option linter.unreachableTactic false
set_option linter.tactic.unusedName false
namespace Sys2Proof.Machine

theorem State.updLane_onward {n : Nat} {f : Lane → Lane} {s t : State} (h : s.Onward t) :
    s.Onward (State.updLane t n f) := by
  unfold State.updLane
  repeat' first
    | with_reducible assumption
    | with_reducible apply State.setLane_onward

theorem State.setLanePower_onward {n : Nat} {v : Nat} {s t : State} (h : s.Onward t) :
    s.Onward (State.setLanePower n v t) := by
  unfold State.setLanePower
  repeat' first
    | with_reducible assumption
    | with_reducible apply Fabric.wr_onward
    | with_reducible apply State.wr_onward

theorem State.laneEv_onward {n : Nat} {i : Nat} {s t : State} (h : s.Onward t) : s.Onward (State.laneEv n i t) := by
  unfold State.laneEv
  repeat' first
    | with_reducible assumption
    | with_reducible apply Fabric.raise_onward
    | with_reducible apply State.raise_onward

theorem State.scanEnd_onward {n : Nat} {code : Nat} {s t : State} (h : s.Onward t) :
    s.Onward (State.scanEnd n code t) := by
  unfold State.scanEnd
  repeat' first
    | with_reducible assumption
    | with_reducible apply State.laneEv_onward
    | with_reducible apply Fabric.wr_onward
    | with_reducible apply State.wr_onward
    | with_reducible refine State.Onward.ite ?_ ?_
    | split

theorem State.scanCut_onward {n : Nat} {code : Nat} {s t : State} (h : s.Onward t) :
    s.Onward (State.scanCut n code t) := by
  unfold State.scanCut
  repeat' first
    | with_reducible assumption
    | (extract_lets -merge +onlyGivenNames x
       first
       | (have _f := fun a => x a
          clear _f
          unfold x
          clear x)
       | (refine onward_cut (P := State.Onward s x) ?_ (fun hx => ?_)
          on_goal 1 => (unfold x; clear x)
          on_goal 2 => clear_value x)
       | (refine onward_cut (P := State.Onward s x.2) ?_ (fun hx => ?_)
          on_goal 1 => (unfold x; clear x)
          on_goal 2 => clear_value x)
       | (refine onward_cut (P := State.Onward s x.1) ?_ (fun hx => ?_)
          on_goal 1 => (unfold x; clear x)
          on_goal 2 => clear_value x)
       | clear_value x
       | (unfold x; clear x)
       | clear x)
    | with_reducible apply State.draw_onward
    | with_reducible apply State.scanEnd_onward
    | with_reducible apply Fabric.wr_onward
    | with_reducible apply State.wr_onward
    | with_reducible apply Fabric.wrWide_onward
    | with_reducible apply State.wrWide_onward
    | with_reducible refine State.Onward.ite ?_ ?_
    | split
    | fail_if_no_progress dsimp only

theorem State.scanWrite_onward {fn : Nat} {n : Nat} {w : Word} {s t : State} (h : s.Onward t) :
    s.Onward (State.scanWrite fn n w t) := by
  unfold State.scanWrite
  repeat' first
    | with_reducible assumption
    | (extract_lets -merge +onlyGivenNames x
       first
       | (have _f := fun a => x a
          clear _f
          unfold x
          clear x)
       | (refine onward_cut (P := State.Onward s x) ?_ (fun hx => ?_)
          on_goal 1 => (unfold x; clear x)
          on_goal 2 => clear_value x)
       | clear_value x
       | (unfold x; clear x)
       | clear x)
    | with_reducible apply State.laneEv_onward
    | with_reducible apply State.putWord_onward
    | with_reducible apply State.scanCut_onward
    | with_reducible apply Fabric.wr_onward
    | with_reducible apply State.wr_onward
    | with_reducible apply Fabric.wrWide_onward
    | with_reducible apply State.wrWide_onward
    | with_reducible refine State.Onward.ite ?_ ?_
    | split
    | fail_if_no_progress dsimp only

theorem State.scanDone_onward {n : Nat} {errors : Nat} {s t : State} (h : s.Onward t) :
    s.Onward (State.scanDone n errors t) := by
  unfold State.scanDone
  repeat' first
    | with_reducible assumption
    | with_reducible apply State.scanEnd_onward
    | with_reducible apply Fabric.wr_onward
    | with_reducible apply State.wr_onward
    | with_reducible apply Fabric.wrWide_onward
    | with_reducible apply State.wrWide_onward
    | with_reducible refine State.Onward.ite ?_ ?_
    | split

theorem State.freezeStop_onward {n : Nat} {s t : State} (h : s.Onward t) : s.Onward (State.freezeStop n t) := by
  unfold State.freezeStop
  repeat' first
    | with_reducible assumption
    | with_reducible apply State.updLane_onward
    | with_reducible apply Fabric.wr_onward
    | with_reducible apply State.wr_onward
    | fail_if_no_progress dsimp only
    | fail_if_no_progress with_reducible apply State.Onward.upd

theorem State.densityEnd_onward {n : Nat} {density : Nat} {ctle : Word} {dfe : Word} {s t : State} (h : s.Onward t) :
    s.Onward (State.densityEnd n density ctle dfe t) := by
  unfold State.densityEnd
  repeat' first
    | with_reducible assumption
    | (extract_lets -merge +onlyGivenNames x
       first
       | (have _f := fun a => x a
          clear _f
          unfold x
          clear x)
       | (refine onward_cut (P := State.Onward s x) ?_ (fun hx => ?_)
          on_goal 1 => (unfold x; clear x)
          on_goal 2 => clear_value x)
       | clear_value x
       | (unfold x; clear x)
       | clear x)
    | with_reducible apply State.freezeStop_onward
    | with_reducible apply Fabric.tally_onward
    | with_reducible apply State.tally_onward
    | with_reducible apply State.updLane_onward
    | with_reducible apply Fabric.wr_onward
    | with_reducible apply State.wr_onward
    | with_reducible apply Fabric.ww_onward
    | with_reducible apply State.ww_onward
    | with_reducible refine State.Onward.ite ?_ ?_
    | split
    | fail_if_no_progress dsimp only
    | fail_if_no_progress with_reducible apply State.Onward.upd

theorem State.freezeLimit_onward {n : Nat} {s t : State} (h : s.Onward t) : s.Onward (State.freezeLimit n t) := by
  unfold State.freezeLimit
  repeat' first
    | with_reducible assumption
    | with_reducible apply State.laneEv_onward
    | with_reducible apply State.updLane_onward
    | with_reducible refine State.Onward.ite ?_ ?_
    | split
    | fail_if_no_progress dsimp only
    | fail_if_no_progress with_reducible apply State.Onward.upd

theorem State.adaptStart_onward {n : Nat} {s t : State} (h : s.Onward t) : s.Onward (State.adaptStart n t) := by
  unfold State.adaptStart
  repeat' first
    | with_reducible assumption
    | (extract_lets -merge +onlyGivenNames x
       first
       | (have _f := fun a => x a
          clear _f
          unfold x
          clear x)
       | (refine onward_cut (P := State.Onward s x) ?_ (fun hx => ?_)
          on_goal 1 => (unfold x; clear x)
          on_goal 2 => clear_value x)
       | clear_value x
       | (unfold x; clear x)
       | clear x)
    | with_reducible apply State.updLane_onward
    | with_reducible apply Fabric.ww_onward
    | with_reducible apply State.ww_onward
    | with_reducible refine State.Onward.ite ?_ ?_
    | split
    | fail_if_no_progress dsimp only
    | fail_if_no_progress with_reducible apply State.Onward.upd

theorem State.slipSettle_onward {n : Nat} {s t : State} (h : s.Onward t) : s.Onward (State.slipSettle n t) := by
  unfold State.slipSettle
  repeat' first
    | with_reducible assumption
    | (extract_lets -merge +onlyGivenNames x
       first
       | (have _f := fun a => x a
          clear _f
          unfold x
          clear x)
       | (refine onward_cut (P := State.Onward s x) ?_ (fun hx => ?_)
          on_goal 1 => (unfold x; clear x)
          on_goal 2 => clear_value x)
       | clear_value x
       | (unfold x; clear x)
       | clear x)
    | with_reducible apply State.setLane_onward
    | with_reducible apply Fabric.wr_onward
    | with_reducible apply State.wr_onward
    | fail_if_no_progress dsimp only
    | fail_if_no_progress with_reducible apply State.Onward.upd

theorem State.slipDrop_onward {n : Nat} {s t : State} (h : s.Onward t) : s.Onward (State.slipDrop n t) := by
  unfold State.slipDrop
  repeat' first
    | with_reducible assumption
    | with_reducible apply State.slipSettle_onward
    | with_reducible apply State.updLane_onward
    | with_reducible apply Fabric.wr_onward
    | with_reducible apply State.wr_onward
    | fail_if_no_progress dsimp only
    | fail_if_no_progress with_reducible apply State.Onward.upd

theorem State.alignSlip_onward {fn : Nat} {n : Nat} {w : Word} {s t : State} (h : s.Onward t) :
    s.Onward (State.alignSlip fn n w t) := by
  unfold State.alignSlip
  repeat' first
    | with_reducible assumption
    | (extract_lets -merge +onlyGivenNames x
       first
       | (have _f := fun a => x a
          clear _f
          unfold x
          clear x)
       | (refine onward_cut (P := State.Onward s x) ?_ (fun hx => ?_)
          on_goal 1 => (unfold x; clear x)
          on_goal 2 => clear_value x)
       | clear_value x
       | (unfold x; clear x)
       | clear x)
    | with_reducible apply State.putWord_onward
    | with_reducible apply State.setLane_onward
    | with_reducible apply State.slipDrop_onward
    | with_reducible apply State.slipSettle_onward
    | with_reducible apply Fabric.wr_onward
    | with_reducible apply State.wr_onward
    | with_reducible refine State.Onward.ite ?_ ?_
    | split
    | fail_if_no_progress dsimp only
    | fail_if_no_progress with_reducible apply State.Onward.upd

theorem State.lockDrop_onward {n : Nat} {s t : State} (h : s.Onward t) : s.Onward (State.lockDrop n t) := by
  unfold State.lockDrop
  repeat' first
    | with_reducible assumption
    | (extract_lets -merge +onlyGivenNames x
       first
       | (have _f := fun a => x a
          clear _f
          unfold x
          clear x)
       | (refine onward_cut (P := State.Onward s x) ?_ (fun hx => ?_)
          on_goal 1 => (unfold x; clear x)
          on_goal 2 => clear_value x)
       | clear_value x
       | (unfold x; clear x)
       | clear x)
    | with_reducible apply State.laneEv_onward
    | with_reducible apply Fabric.wr_onward
    | with_reducible apply State.wr_onward
    | with_reducible refine State.Onward.ite ?_ ?_
    | split
    | fail_if_no_progress dsimp only

theorem State.lockRise_onward {n : Nat} {latency : Nat} {s t : State} (h : s.Onward t) :
    s.Onward (State.lockRise n latency t) := by
  unfold State.lockRise
  repeat' first
    | with_reducible assumption
    | with_reducible apply State.laneEv_onward
    | with_reducible apply Fabric.wr_onward
    | with_reducible apply State.wr_onward
    | with_reducible refine State.Onward.ite ?_ ?_
    | split

theorem State.lockLoss_onward {n : Nat} {s t : State} (h : s.Onward t) : s.Onward (State.lockLoss n t) := by
  unfold State.lockLoss
  repeat' first
    | with_reducible assumption
    | with_reducible apply State.lockDrop_onward
    | with_reducible apply Fabric.tally_onward
    | with_reducible apply State.tally_onward
    | with_reducible refine State.Onward.ite ?_ ?_
    | split

theorem State.badHeader_onward {n : Nat} {valid : Nat} {s t : State} (h : s.Onward t) :
    s.Onward (State.badHeader n valid t) := by
  unfold State.badHeader
  repeat' first
    | with_reducible assumption
    | (extract_lets -merge +onlyGivenNames x
       first
       | (have _f := fun a => x a
          clear _f
          unfold x
          clear x)
       | (refine onward_cut (P := State.Onward s x) ?_ (fun hx => ?_)
          on_goal 1 => (unfold x; clear x)
          on_goal 2 => clear_value x)
       | clear_value x
       | (unfold x; clear x)
       | clear x)
    | with_reducible apply Fabric.tally_onward
    | with_reducible apply State.tally_onward
    | with_reducible apply State.updLane_onward
    | with_reducible apply Fabric.wr_onward
    | with_reducible apply State.wr_onward
    | with_reducible refine State.Onward.ite ?_ ?_
    | split
    | fail_if_no_progress dsimp only
    | fail_if_no_progress with_reducible apply State.Onward.upd

theorem State.laneLeave_onward {n : Nat} {s t : State} (h : s.Onward t) : s.Onward (State.laneLeave n t) := by
  unfold State.laneLeave
  repeat' first
    | with_reducible assumption
    | with_reducible apply State.freezeStop_onward
    | with_reducible apply State.lockDrop_onward
    | with_reducible apply State.scanCut_onward
    | with_reducible apply State.slipDrop_onward
    | with_reducible apply Fabric.wr_onward
    | with_reducible apply State.wr_onward

theorem State.laneApply_onward {n : Nat} {r : Nat} {s t : State} (h : s.Onward t) :
    s.Onward (State.laneApply n r t) := by
  unfold State.laneApply
  repeat' first
    | with_reducible assumption
    | (extract_lets -merge +onlyGivenNames x
       first
       | (have _f := fun a => x a
          clear _f
          unfold x
          clear x)
       | (refine onward_cut (P := State.Onward s x) ?_ (fun hx => ?_)
          on_goal 1 => (unfold x; clear x)
          on_goal 2 => clear_value x)
       | clear_value x
       | (unfold x; clear x)
       | clear x)
    | with_reducible apply State.laneLeave_onward
    | with_reducible apply State.setLanePower_onward
    | with_reducible apply Fabric.wr_onward
    | with_reducible apply State.wr_onward
    | with_reducible refine State.Onward.ite ?_ ?_
    | split
    | fail_if_no_progress dsimp only

theorem State.laneRequest_onward {n : Nat} {r : Nat} {s t : State} (h : s.Onward t) :
    s.Onward (State.laneRequest n r t) := by
  unfold State.laneRequest
  repeat' first
    | with_reducible assumption
    | (extract_lets -merge +onlyGivenNames x
       first
       | (have _f := fun a => x a
          clear _f
          unfold x
          clear x)
       | (refine onward_cut (P := State.Onward s x) ?_ (fun hx => ?_)
          on_goal 1 => (unfold x; clear x)
          on_goal 2 => clear_value x)
       | clear_value x
       | (unfold x; clear x)
       | clear x)
    | with_reducible apply State.laneApply_onward
    | with_reducible apply State.updLane_onward
    | with_reducible apply Fabric.wr_onward
    | with_reducible apply State.wr_onward
    | with_reducible refine State.Onward.ite ?_ ?_
    | split
    | fail_if_no_progress dsimp only
    | fail_if_no_progress with_reducible apply State.Onward.upd

theorem State.laneDeferred_onward {n : Nat} {s t : State} (h : s.Onward t) : s.Onward (State.laneDeferred n t) := by
  unfold State.laneDeferred
  repeat' first
    | with_reducible assumption
    | with_reducible apply State.laneApply_onward
    | with_reducible apply State.updLane_onward
    | with_reducible refine State.Onward.ite ?_ ?_
    | split
    | fail_if_no_progress dsimp only
    | fail_if_no_progress with_reducible apply State.Onward.upd

theorem State.laneExit_onward {n : Nat} {locked : Bool} {vstep : Nat} {phase : Nat} {latency : Nat} {s t : State} (h : s.Onward t) :
    s.Onward (State.laneExit n locked vstep phase latency t) := by
  unfold State.laneExit
  repeat' first
    | with_reducible assumption
    | (extract_lets -merge +onlyGivenNames x
       first
       | (have _f := fun a => x a
          clear _f
          unfold x
          clear x)
       | (refine onward_cut (P := State.Onward s x) ?_ (fun hx => ?_)
          on_goal 1 => (unfold x; clear x)
          on_goal 2 => clear_value x)
       | clear_value x
       | (unfold x; clear x)
       | clear x)
    | with_reducible apply State.adaptStart_onward
    | with_reducible apply State.laneDeferred_onward
    | with_reducible apply State.laneEv_onward
    | with_reducible apply State.setLanePower_onward
    | with_reducible apply State.updLane_onward
    | with_reducible apply Fabric.wr_onward
    | with_reducible apply State.wr_onward
    | with_reducible refine State.Onward.ite ?_ ?_
    | split
    | fail_if_no_progress dsimp only
    | fail_if_no_progress with_reducible apply State.Onward.upd

theorem State.laneOff_onward {n : Nat} {s t : State} (h : s.Onward t) : s.Onward (State.laneOff n t) := by
  unfold State.laneOff
  repeat' first
    | with_reducible assumption
    | (extract_lets -merge +onlyGivenNames x
       first
       | (have _f := fun a => x a
          clear _f
          unfold x
          clear x)
       | (refine onward_cut (P := State.Onward s x) ?_ (fun hx => ?_)
          on_goal 1 => (unfold x; clear x)
          on_goal 2 => clear_value x)
       | clear_value x
       | (unfold x; clear x)
       | clear x)
    | with_reducible apply State.laneLeave_onward
    | with_reducible apply State.setLanePower_onward
    | with_reducible apply State.updLane_onward
    | with_reducible apply Fabric.wr_onward
    | with_reducible apply State.wr_onward
    | with_reducible refine State.Onward.ite ?_ ?_
    | split
    | fail_if_no_progress dsimp only
    | fail_if_no_progress with_reducible apply State.Onward.upd

theorem State.laneOn_onward {n : Nat} {s t : State} (h : s.Onward t) : s.Onward (State.laneOn n t) := by
  unfold State.laneOn
  repeat' first
    | with_reducible assumption
    | with_reducible apply State.setLanePower_onward
    | with_reducible refine State.Onward.ite ?_ ?_
    | split

theorem State.laneReset_onward {n : Nat} {s t : State} (h : s.Onward t) : s.Onward (State.laneReset n t) := by
  unfold State.laneReset
  repeat' first
    | with_reducible assumption
    | (extract_lets -merge +onlyGivenNames x
       first
       | (have _f := fun a => x a
          clear _f
          unfold x
          clear x)
       | (refine onward_cut (P := State.Onward s x) ?_ (fun hx => ?_)
          on_goal 1 => (unfold x; clear x)
          on_goal 2 => clear_value x)
       | clear_value x
       | (unfold x; clear x)
       | clear x)
    | with_reducible apply State.adaptStart_onward
    | with_reducible apply State.freezeStop_onward
    | with_reducible apply State.lockDrop_onward
    | with_reducible apply State.scanCut_onward
    | with_reducible apply State.slipDrop_onward
    | with_reducible apply State.updLane_onward
    | with_reducible refine State.Onward.ite ?_ ?_
    | split
    | fail_if_no_progress dsimp only
    | fail_if_no_progress with_reducible apply State.Onward.upd

theorem State.eqWrite_onward {fn : Nat} {n : Nat} {key : Nat} {w : Word} {s t : State} (h : s.Onward t) :
    s.Onward (State.eqWrite fn n key w t) := by
  unfold State.eqWrite
  repeat' first
    | with_reducible assumption
    | with_reducible apply State.putWord_onward
    | with_reducible refine State.Onward.ite ?_ ?_
    | split

theorem State.adaptWrite_onward {fn : Nat} {n : Nat} {w : Word} {s t : State} (h : s.Onward t) :
    s.Onward (State.adaptWrite fn n w t) := by
  unfold State.adaptWrite
  repeat' first
    | with_reducible assumption
    | (extract_lets -merge +onlyGivenNames x
       first
       | (have _f := fun a => x a
          clear _f
          unfold x
          clear x)
       | (refine onward_cut (P := State.Onward s x) ?_ (fun hx => ?_)
          on_goal 1 => (unfold x; clear x)
          on_goal 2 => clear_value x)
       | clear_value x
       | (unfold x; clear x)
       | clear x)
    | with_reducible apply State.freezeStop_onward
    | with_reducible apply State.putWord_onward
    | with_reducible refine State.Onward.ite ?_ ?_
    | split
    | fail_if_no_progress dsimp only

theorem State.tapWrite_onward {fn : Nat} {key : Nat} {w : Word} {s t : State} (h : s.Onward t) :
    s.Onward (State.tapWrite fn key w t) := by
  unfold State.tapWrite
  repeat' first
    | with_reducible assumption
    | (extract_lets -merge +onlyGivenNames x
       first
       | (have _f := fun a => x a
          clear _f
          unfold x
          clear x)
       | (refine onward_cut (P := State.Onward s x) ?_ (fun hx => ?_)
          on_goal 1 => (unfold x; clear x)
          on_goal 2 => clear_value x)
       | clear_value x
       | (unfold x; clear x)
       | clear x)
    | with_reducible apply State.accErr_onward
    | with_reducible apply State.putWord_onward
    | with_reducible apply Fabric.wr_onward
    | with_reducible apply State.wr_onward
    | with_reducible refine State.Onward.ite ?_ ?_
    | split
    | fail_if_no_progress dsimp only

theorem State.patternWrite_onward {fn : Nat} {n : Nat} {w : Word} {s t : State} (h : s.Onward t) :
    s.Onward (State.patternWrite fn n w t) := by
  unfold State.patternWrite
  repeat' first
    | with_reducible assumption
    | (extract_lets -merge +onlyGivenNames x
       first
       | (have _f := fun a => x a
          clear _f
          unfold x
          clear x)
       | (refine onward_cut (P := State.Onward s x) ?_ (fun hx => ?_)
          on_goal 1 => (unfold x; clear x)
          on_goal 2 => clear_value x)
       | clear_value x
       | (unfold x; clear x)
       | clear x)
    | with_reducible apply State.putWord_onward
    | with_reducible apply Fabric.wr_onward
    | with_reducible apply State.wr_onward
    | with_reducible refine State.Onward.ite ?_ ?_
    | split
    | fail_if_no_progress dsimp only

theorem State.laneCtrl_onward {fn : Nat} {n : Nat} {w : Word} {s t : State} (h : s.Onward t) :
    s.Onward (State.laneCtrl fn n w t) := by
  unfold State.laneCtrl
  repeat' first
    | with_reducible assumption
    | (extract_lets -merge +onlyGivenNames x
       first
       | (have _f := fun a => x a
          clear _f
          unfold x
          clear x)
       | (refine onward_cut (P := State.Onward s x) ?_ (fun hx => ?_)
          on_goal 1 => (unfold x; clear x)
          on_goal 2 => clear_value x)
       | clear_value x
       | (unfold x; clear x)
       | clear x)
    | with_reducible apply State.accErr_onward
    | with_reducible apply State.putWord_onward
    | with_reducible apply State.updLane_onward
    | with_reducible apply Fabric.wr_onward
    | with_reducible apply State.wr_onward
    | with_reducible refine State.Onward.ite ?_ ?_
    | split
    | fail_if_no_progress dsimp only
    | fail_if_no_progress with_reducible apply State.Onward.upd

theorem State.patternSync_onward {n : Nat} {errors : Nat} {s t : State} (h : s.Onward t) :
    s.Onward (State.patternSync n errors t) := by
  unfold State.patternSync
  repeat' first
    | with_reducible assumption
    | with_reducible apply Fabric.tally_onward
    | with_reducible apply State.tally_onward
    | with_reducible apply Fabric.wr_onward
    | with_reducible apply State.wr_onward
    | with_reducible refine State.Onward.ite ?_ ?_
    | split

theorem State.setTaps_onward {n : Nat} {pre : Nat} {main : Nat} {post : Nat} {s t : State} (h : s.Onward t) :
    s.Onward (State.setTaps n pre main post t) := by
  unfold State.setTaps
  repeat' first
    | with_reducible assumption
    | with_reducible apply Fabric.wr_onward
    | with_reducible apply State.wr_onward

theorem State.tapStep_onward {n : Nat} {tap : Nat} {up : Bool} {s t : State} (h : s.Onward t) :
    s.Onward (State.tapStep n tap up t).2 := by
  unfold State.tapStep
  repeat' first
    | with_reducible assumption
    | (extract_lets -merge +onlyGivenNames x
       first
       | (have _f := fun a => x a
          clear _f
          unfold x
          clear x)
       | (refine onward_cut (P := State.Onward s x) ?_ (fun hx => ?_)
          on_goal 1 => (unfold x; clear x)
          on_goal 2 => clear_value x)
       | (refine onward_cut (P := State.Onward s x.2) ?_ (fun hx => ?_)
          on_goal 1 => (unfold x; clear x)
          on_goal 2 => clear_value x)
       | (refine onward_cut (P := State.Onward s x.1) ?_ (fun hx => ?_)
          on_goal 1 => (unfold x; clear x)
          on_goal 2 => clear_value x)
       | (refine onward_cut (P := State.Onward s x.2.2) ?_ (fun hx => ?_)
          on_goal 1 => (unfold x; clear x)
          on_goal 2 => clear_value x)
       | clear_value x
       | (unfold x; clear x)
       | clear x)
    | with_reducible apply State.setTaps_onward
    | with_reducible refine State.Onward.ite ?_ ?_
    | split
    | fail_if_no_progress dsimp only

theorem State.tapRequest_onward {n : Nat} {tap : Nat} {action : Nat} {s t : State} (h : s.Onward t) :
    s.Onward (State.tapRequest n tap action t) := by
  unfold State.tapRequest
  repeat' first
    | with_reducible assumption
    | (extract_lets -merge +onlyGivenNames x
       first
       | (have _f := fun a => x a
          clear _f
          unfold x
          clear x)
       | (refine onward_cut (P := State.Onward s x.2) ?_ (fun hx => ?_)
          on_goal 1 => (unfold x; clear x)
          on_goal 2 => clear_value x)
       | (refine onward_cut (P := State.Onward s x.1) ?_ (fun hx => ?_)
          on_goal 1 => (unfold x; clear x)
          on_goal 2 => clear_value x)
       | clear_value x
       | (unfold x; clear x)
       | clear x)
    | with_reducible apply State.setTaps_onward
    | with_reducible apply Fabric.tally_onward
    | with_reducible apply State.tally_onward
    | with_reducible apply State.tapStep_onward
    | with_reducible apply State.updLane_onward
    | with_reducible apply Fabric.wr_onward
    | with_reducible apply State.wr_onward
    | with_reducible refine State.Onward.ite ?_ ?_
    | split
    | fail_if_no_progress dsimp only
    | fail_if_no_progress with_reducible apply State.Onward.upd

end Sys2Proof.Machine
end

