-- ==== Sys2Proof/Laws/Control.lean ====
section
/-! SUPPORT. What each operation of `Machine/Control.lean` keeps (see `Laws/Onward.lean`). -/
set_option linter.unusedTactic false
set_option linter.unreachableTactic false
set_option linter.tactic.unusedName false
namespace Sys2Proof.Machine

theorem State.updPort_onward {P : Nat} {f : Port → Port} {s t : State} (h : s.Onward t) :
    s.Onward (State.updPort t P f) := by
  unfold State.updPort
  repeat' first
    | with_reducible assumption
    | with_reducible apply State.setPort_onward

theorem State.sendRequest_onward {P : Nat} {s t : State} (h : s.Onward t) : s.Onward (State.sendRequest P t) := by
  unfold State.sendRequest
  repeat' first
    | with_reducible assumption
    | (extract_lets -merge +onlyGivenNames x
       first
       | (have _f := fun a => x a
          clear _f
          unfold x
          clear x)
       | (refine onward_cut (P := State.Onward s x) ?_ (fun hx => ?_)
          on_goal 1 => (unfold x; clear x)
          on_goal 2 => clear_value x)
       | clear_value x
       | (unfold x; clear x)
       | clear x)
    | with_reducible apply Fabric.emit_onward
    | with_reducible apply State.emit_onward
    | with_reducible apply State.setPort_onward
    | with_reducible refine State.Onward.ite ?_ ?_
    | split
    | fail_if_no_progress dsimp only
    | fail_if_no_progress with_reducible apply State.Onward.upd

theorem State.pumpRequests_onward {P n : Nat} {s t : State} (h : s.Onward t) : s.Onward (State.pumpRequests P n t) := by
  induction n generalizing t with
  | zero => exact h
  | succ n ih =>
    simp only [State.pumpRequests]
    exact State.Onward.ite (ih (State.sendRequest_onward h)) h


theorem State.addRequest_onward {P : Nat} {r : CtrlRequest} {s t : State} (h : s.Onward t) :
    s.Onward (State.addRequest P r t) := by
  unfold State.addRequest
  repeat' first
    | with_reducible assumption
    | with_reducible apply State.pumpRequests_onward
    | with_reducible apply State.updPort_onward
    | fail_if_no_progress dsimp only
    | fail_if_no_progress with_reducible apply State.Onward.upd

theorem State.camDone_onward {P : Nat} {result : Nat} {s t : State} (h : s.Onward t) :
    s.Onward (State.camDone P result t) := by
  unfold State.camDone
  repeat' first
    | with_reducible assumption
    | with_reducible apply Fabric.wr_onward
    | with_reducible apply State.wr_onward

theorem State.camCommand_onward {fn : Nat} {P : Nat} {w : Word} {s t : State} (h : s.Onward t) :
    s.Onward (State.camCommand fn P w t) := by
  unfold State.camCommand
  repeat' first
    | with_reducible assumption
    | (extract_lets -merge +onlyGivenNames x
       first
       | (have _f := fun a => x a
          clear _f
          unfold x
          clear x)
       | (refine onward_cut (P := State.Onward s x) ?_ (fun hx => ?_)
          on_goal 1 => (unfold x; clear x)
          on_goal 2 => clear_value x)
       | clear_value x
       | (unfold x; clear x)
       | clear x)
    | with_reducible apply State.addRequest_onward
    | with_reducible apply State.camDone_onward
    | with_reducible apply State.putWord_onward
    | with_reducible apply Fabric.wr_onward
    | with_reducible apply State.wr_onward
    | with_reducible refine State.Onward.ite ?_ ?_
    | split
    | fail_if_no_progress dsimp only

theorem State.camFail_onward {n : Nat} {s t : State} (h : s.Onward t) : s.Onward (State.camFail n t) := by
  unfold State.camFail
  repeat' first
    | with_reducible assumption
    | with_reducible apply Fabric.tally_onward
    | with_reducible apply State.tally_onward
    | with_reducible apply State.trigEv_onward
    | with_reducible apply Fabric.wr_onward
    | with_reducible apply State.wr_onward

theorem State.exposureWrite_onward {n : Nat} {s t : State} (h : s.Onward t) : s.Onward (State.exposureWrite n t) := by
  unfold State.exposureWrite
  repeat' first
    | with_reducible assumption
    | (extract_lets -merge +onlyGivenNames x
       first
       | (have _f := fun a => x a
          clear _f
          unfold x
          clear x)
       | (refine onward_cut (P := State.Onward s x) ?_ (fun hx => ?_)
          on_goal 1 => (unfold x; clear x)
          on_goal 2 => clear_value x)
       | clear_value x
       | (unfold x; clear x)
       | clear x)
    | with_reducible apply State.addRequest_onward
    | with_reducible apply State.camFail_onward
    | with_reducible apply State.setTrig_onward
    | with_reducible refine State.Onward.ite ?_ ?_
    | split
    | fail_if_no_progress dsimp only
    | fail_if_no_progress with_reducible apply State.Onward.upd

theorem State.exposureDone_onward {P : Nat} {r : CtrlRequest} {good : Bool} {s t : State} (h : s.Onward t) :
    s.Onward (State.exposureDone P r good t) := by
  unfold State.exposureDone
  repeat' first
    | with_reducible assumption
    | (extract_lets -merge +onlyGivenNames x
       first
       | (have _f := fun a => x a
          clear _f
          unfold x
          clear x)
       | (refine onward_cut (P := State.Onward s x) ?_ (fun hx => ?_)
          on_goal 1 => (unfold x; clear x)
          on_goal 2 => clear_value x)
       | clear_value x
       | (unfold x; clear x)
       | clear x)
    | with_reducible apply State.camFail_onward
    | with_reducible apply State.setPort_onward
    | with_reducible refine State.Onward.ite ?_ ?_
    | split
    | fail_if_no_progress dsimp only
    | fail_if_no_progress with_reducible apply State.Onward.upd

theorem State.hostDone_onward {P : Nat} {r : CtrlRequest} {result : Nat} {data : List Byte} {s t : State} (h : s.Onward t) :
    s.Onward (State.hostDone P r result data t) := by
  unfold State.hostDone
  repeat' first
    | with_reducible assumption
    | (extract_lets -merge +onlyGivenNames x
       first
       | (have _f := fun a => x a
          clear _f
          unfold x
          clear x)
       | (refine onward_cut (P := State.Onward s x) ?_ (fun hx => ?_)
          on_goal 1 => (unfold x; clear x)
          on_goal 2 => clear_value x)
       | clear_value x
       | (unfold x; clear x)
       | clear x)
    | with_reducible apply State.camDone_onward
    | with_reducible apply Fabric.wr_onward
    | with_reducible apply State.wr_onward
    | with_reducible apply Fabric.ww_onward
    | with_reducible apply State.ww_onward
    | (with_reducible refine State.Onward.foldl ?_ ?_
       on_goal 1 => intro _ _ _)
    | with_reducible refine State.Onward.ite ?_ ?_
    | split
    | fail_if_no_progress dsimp only

theorem State.requestDone_onward {P : Nat} {r : CtrlRequest} {result : Nat} {data : List Byte} {s t : State} (h : s.Onward t) :
    s.Onward (State.requestDone P r result data t) := by
  unfold State.requestDone
  repeat' first
    | with_reducible assumption
    | (extract_lets -merge +onlyGivenNames x
       first
       | (have _f := fun a => x a
          clear _f
          unfold x
          clear x)
       | (refine onward_cut (P := State.Onward s x) ?_ (fun hx => ?_)
          on_goal 1 => (unfold x; clear x)
          on_goal 2 => clear_value x)
       | clear_value x
       | (unfold x; clear x)
       | clear x)
    | with_reducible apply State.exposureDone_onward
    | with_reducible apply State.hostDone_onward
    | with_reducible apply State.pumpRequests_onward
    | with_reducible apply State.updPort_onward
    | with_reducible refine State.Onward.ite ?_ ?_
    | split
    | fail_if_no_progress dsimp only
    | fail_if_no_progress with_reducible apply State.Onward.upd

theorem State.requestsDown_onward {P : Nat} {s t : State} (h : s.Onward t) : s.Onward (State.requestsDown P t) := by
  unfold State.requestsDown
  repeat' first
    | with_reducible assumption
    | (extract_lets -merge +onlyGivenNames x
       first
       | (have _f := fun a => x a
          clear _f
          unfold x
          clear x)
       | (refine onward_cut (P := State.Onward s x) ?_ (fun hx => ?_)
          on_goal 1 => (unfold x; clear x)
          on_goal 2 => clear_value x)
       | clear_value x
       | (unfold x; clear x)
       | clear x)
    | with_reducible apply State.camFail_onward
    | with_reducible apply State.hostDone_onward
    | with_reducible apply State.updPort_onward
    | (with_reducible refine State.Onward.foldl ?_ ?_
       on_goal 1 => intro _ _ _)
    | with_reducible refine State.Onward.ite ?_ ?_
    | split
    | fail_if_no_progress dsimp only
    | fail_if_no_progress with_reducible apply State.Onward.upd

theorem State.sendProbe_onward {P : Nat} {s t : State} (h : s.Onward t) : s.Onward (State.sendProbe P t) := by
  unfold State.sendProbe
  repeat' first
    | with_reducible assumption
    | (extract_lets -merge +onlyGivenNames x
       first
       | (have _f := fun a => x a
          clear _f
          unfold x
          clear x)
       | (refine onward_cut (P := State.Onward s x) ?_ (fun hx => ?_)
          on_goal 1 => (unfold x; clear x)
          on_goal 2 => clear_value x)
       | clear_value x
       | (unfold x; clear x)
       | clear x)
    | with_reducible apply Fabric.emit_onward
    | with_reducible apply State.emit_onward
    | with_reducible apply State.setPort_onward
    | fail_if_no_progress dsimp only
    | fail_if_no_progress with_reducible apply State.Onward.upd

theorem State.echo_onward {P : Nat} {seq : Nat} {elapsed : Nat} {turn : Nat} {s t : State} (h : s.Onward t) :
    s.Onward (State.echo P seq elapsed turn t) := by
  unfold State.echo
  repeat' first
    | with_reducible assumption
    | (extract_lets -merge +onlyGivenNames x
       first
       | (have _f := fun a => x a
          clear _f
          unfold x
          clear x)
       | (refine onward_cut (P := State.Onward s x) ?_ (fun hx => ?_)
          on_goal 1 => (unfold x; clear x)
          on_goal 2 => clear_value x)
       | clear_value x
       | (unfold x; clear x)
       | clear x)
    | with_reducible apply State.sendProbe_onward
    | with_reducible apply State.setPort_onward
    | with_reducible apply Fabric.tally_onward
    | with_reducible apply State.tally_onward
    | with_reducible apply Fabric.wr_onward
    | with_reducible apply State.wr_onward
    | with_reducible refine State.Onward.ite ?_ ?_
    | split
    | fail_if_no_progress dsimp only
    | fail_if_no_progress with_reducible apply State.Onward.upd

theorem State.probe_onward {P : Nat} {s t : State} (h : s.Onward t) : s.Onward (State.probe P t) := by
  unfold State.probe
  repeat' first
    | with_reducible assumption
    | with_reducible apply State.sendProbe_onward
    | with_reducible refine State.Onward.ite ?_ ?_
    | split

theorem State.probeWrite_onward {fn : Nat} {P : Nat} {w : Word} {s t : State} (h : s.Onward t) :
    s.Onward (State.probeWrite fn P w t) := by
  unfold State.probeWrite
  repeat' first
    | with_reducible assumption
    | (extract_lets -merge +onlyGivenNames x
       first
       | (have _f := fun a => x a
          clear _f
          unfold x
          clear x)
       | (refine onward_cut (P := State.Onward s x) ?_ (fun hx => ?_)
          on_goal 1 => (unfold x; clear x)
          on_goal 2 => clear_value x)
       | clear_value x
       | (unfold x; clear x)
       | clear x)
    | with_reducible apply State.probe_onward
    | with_reducible apply State.putWord_onward
    | with_reducible refine State.Onward.ite ?_ ?_
    | split
    | fail_if_no_progress dsimp only

theorem State.cameraEvent_onward {P : Nat} {event : Nat} {stream : Nat} {age : Nat} {arrival : Nat} {s t : State} (h : s.Onward t) :
    s.Onward (State.cameraEvent P event stream age arrival t) := by
  unfold State.cameraEvent
  repeat' first
    | with_reducible assumption
    | (extract_lets -merge +onlyGivenNames x
       first
       | (have _f := fun a => x a
          clear _f
          unfold x
          clear x)
       | (refine onward_cut (P := State.Onward s x) ?_ (fun hx => ?_)
          on_goal 1 => (unfold x; clear x)
          on_goal 2 => clear_value x)
       | (refine onward_cut (P := State.Onward s x.2) ?_ (fun hx => ?_)
          on_goal 1 => (unfold x; clear x)
          on_goal 2 => clear_value x)
       | (refine onward_cut (P := State.Onward s x.1) ?_ (fun hx => ?_)
          on_goal 1 => (unfold x; clear x)
          on_goal 2 => clear_value x)
       | clear_value x
       | (unfold x; clear x)
       | clear x)
    | with_reducible apply State.sourceFreeze_onward
    | with_reducible apply State.srcPulse_onward
    | with_reducible apply Fabric.tally_onward
    | with_reducible apply State.tally_onward
    | with_reducible refine State.Onward.ite ?_ ?_
    | split
    | fail_if_no_progress dsimp only

theorem State.heartbeat_onward {P : Nat} {s t : State} (h : s.Onward t) : s.Onward (State.heartbeat P t) := by
  unfold State.heartbeat
  repeat' first
    | with_reducible assumption
    | with_reducible apply State.updPort_onward
    | with_reducible refine State.Onward.ite ?_ ?_
    | split
    | fail_if_no_progress dsimp only
    | fail_if_no_progress with_reducible apply State.Onward.upd

end Sys2Proof.Machine
end

