-- ==== Sys2Proof/Laws/Links.lean ====
section
/-! SUPPORT. What each operation of `Machine/Links.lean` keeps (see `Laws/Onward.lean`). -/
set_option linter.unusedTactic false
set_option linter.unreachableTactic false
set_option linter.tactic.unusedName false
namespace Sys2Proof.Machine

theorem State.portEv_onward {P : Nat} {i : Nat} {s t : State} (h : s.Onward t) : s.Onward (State.portEv P i t) := by
  unfold State.portEv
  repeat' first
    | with_reducible assumption
    | with_reducible apply Fabric.raise_onward
    | with_reducible apply State.raise_onward

theorem State.useCandidate_onward {P : Nat} {c : Nat × Nat} {s t : State} (h : s.Onward t) :
    s.Onward (State.useCandidate P c t) := by
  unfold State.useCandidate
  repeat' first
    | with_reducible assumption
    | (extract_lets -merge +onlyGivenNames x
       first
       | (have _f := fun a => x a
          clear _f
          unfold x
          clear x)
       | (refine onward_cut (P := State.Onward s x) ?_ (fun hx => ?_)
          on_goal 1 => (unfold x; clear x)
          on_goal 2 => clear_value x)
       | (refine onward_cut (P := State.Onward s x.2) ?_ (fun hx => ?_)
          on_goal 1 => (unfold x; clear x)
          on_goal 2 => clear_value x)
       | (refine onward_cut (P := State.Onward s x.1) ?_ (fun hx => ?_)
          on_goal 1 => (unfold x; clear x)
          on_goal 2 => clear_value x)
       | clear_value x
       | (unfold x; clear x)
       | clear x)
    | with_reducible apply State.updPort_onward
    | with_reducible apply Fabric.wr_onward
    | with_reducible apply State.wr_onward
    | (with_reducible refine State.Onward.foldl ?_ ?_
       on_goal 1 => intro _ _ _)
    | (with_reducible refine State.Onward.foldl2 ?_ ?_
       on_goal 1 => intro _ _ _)
    | (with_reducible refine State.Onward.foldl1 ?_ ?_
       on_goal 1 => intro _ _ _)
    | fail_if_no_progress dsimp only
    | fail_if_no_progress with_reducible apply State.Onward.upd

theorem State.listen_onward {P : Nat} {s t : State} (h : s.Onward t) : s.Onward (State.listen P t) := by
  unfold State.listen
  repeat' first
    | with_reducible assumption
    | (extract_lets -merge +onlyGivenNames x
       first
       | (have _f := fun a => x a
          clear _f
          unfold x
          clear x)
       | (refine onward_cut (P := State.Onward s x) ?_ (fun hx => ?_)
          on_goal 1 => (unfold x; clear x)
          on_goal 2 => clear_value x)
       | clear_value x
       | (unfold x; clear x)
       | clear x)
    | with_reducible apply State.laneRequest_onward
    | with_reducible apply State.updLane_onward
    | with_reducible apply State.updPort_onward
    | with_reducible apply State.useCandidate_onward
    | with_reducible apply Fabric.wr_onward
    | with_reducible apply State.wr_onward
    | (with_reducible refine State.Onward.foldl ?_ ?_
       on_goal 1 => intro _ _ _)
    | with_reducible refine State.Onward.ite ?_ ?_
    | split
    | fail_if_no_progress dsimp only
    | fail_if_no_progress with_reducible apply State.Onward.upd

theorem State.leaveActive_onward {P : Nat} {cause : Nat} {s t : State} (h : s.Onward t) :
    s.Onward (State.leaveActive P cause t) := by
  unfold State.leaveActive
  repeat' first
    | with_reducible assumption
    | (extract_lets -merge +onlyGivenNames x
       first
       | (have _f := fun a => x a
          clear _f
          unfold x
          clear x)
       | (refine onward_cut (P := State.Onward s x) ?_ (fun hx => ?_)
          on_goal 1 => (unfold x; clear x)
          on_goal 2 => clear_value x)
       | clear_value x
       | (unfold x; clear x)
       | clear x)
    | with_reducible apply State.inbandDiscard_onward
    | with_reducible apply State.portEv_onward
    | with_reducible apply State.portSilent_onward
    | with_reducible apply State.requestsDown_onward
    | with_reducible apply Fabric.wr_onward
    | with_reducible apply State.wr_onward
    | with_reducible apply Fabric.wrWide_onward
    | with_reducible apply State.wrWide_onward
    | with_reducible refine State.Onward.ite ?_ ?_
    | split
    | fail_if_no_progress dsimp only

theorem State.portOff_onward {P : Nat} {s t : State} (h : s.Onward t) : s.Onward (State.portOff P t) := by
  unfold State.portOff
  repeat' first
    | with_reducible assumption
    | (extract_lets -merge +onlyGivenNames x
       first
       | (have _f := fun a => x a
          clear _f
          unfold x
          clear x)
       | (refine onward_cut (P := State.Onward s x) ?_ (fun hx => ?_)
          on_goal 1 => (unfold x; clear x)
          on_goal 2 => clear_value x)
       | clear_value x
       | (unfold x; clear x)
       | clear x)
    | with_reducible apply State.leaveActive_onward
    | with_reducible apply State.updPort_onward
    | with_reducible apply Fabric.wr_onward
    | with_reducible apply State.wr_onward
    | fail_if_no_progress dsimp only
    | fail_if_no_progress with_reducible apply State.Onward.upd

theorem State.lastFail_onward {P : Nat} {stage : Nat} {cause : Nat} {lane : Nat} {s t : State} (h : s.Onward t) :
    s.Onward (State.lastFail P stage cause lane t) := by
  unfold State.lastFail
  repeat' first
    | with_reducible assumption
    | with_reducible apply Fabric.wr_onward
    | with_reducible apply State.wr_onward

theorem State.restPort_onward {P : Nat} {s t : State} (h : s.Onward t) : s.Onward (State.restPort P t) := by
  unfold State.restPort
  repeat' first
    | with_reducible assumption
    | (extract_lets -merge +onlyGivenNames x
       first
       | (have _f := fun a => x a
          clear _f
          unfold x
          clear x)
       | (refine onward_cut (P := State.Onward s x) ?_ (fun hx => ?_)
          on_goal 1 => (unfold x; clear x)
          on_goal 2 => clear_value x)
       | clear_value x
       | (unfold x; clear x)
       | clear x)
    | with_reducible apply State.laneRequest_onward
    | with_reducible apply State.portEv_onward
    | with_reducible apply Fabric.tally_onward
    | with_reducible apply State.tally_onward
    | with_reducible apply Fabric.wr_onward
    | with_reducible apply State.wr_onward
    | (with_reducible refine State.Onward.foldl ?_ ?_
       on_goal 1 => intro _ _ _)
    | fail_if_no_progress dsimp only

theorem State.attemptFail_onward {P : Nat} {stage : Nat} {cause : Nat} {lane : Nat} {s t : State} (h : s.Onward t) :
    s.Onward (State.attemptFail P stage cause lane t) := by
  unfold State.attemptFail
  repeat' first
    | with_reducible assumption
    | (extract_lets -merge +onlyGivenNames x
       first
       | (have _f := fun a => x a
          clear _f
          unfold x
          clear x)
       | (refine onward_cut (P := State.Onward s x) ?_ (fun hx => ?_)
          on_goal 1 => (unfold x; clear x)
          on_goal 2 => clear_value x)
       | clear_value x
       | (unfold x; clear x)
       | clear x)
    | with_reducible apply State.lastFail_onward
    | with_reducible apply State.listen_onward
    | with_reducible apply State.portEv_onward
    | with_reducible apply State.restPort_onward
    | with_reducible apply Fabric.tally_onward
    | with_reducible apply State.tally_onward
    | with_reducible apply Fabric.wr_onward
    | with_reducible apply State.wr_onward
    | with_reducible refine State.Onward.ite ?_ ?_
    | split
    | fail_if_no_progress dsimp only

theorem State.listenAfresh_onward {P : Nat} {s t : State} (h : s.Onward t) : s.Onward (State.listenAfresh P t) := by
  unfold State.listenAfresh
  repeat' first
    | with_reducible assumption
    | with_reducible apply State.listen_onward
    | with_reducible apply Fabric.wr_onward
    | with_reducible apply State.wr_onward

theorem State.partnerDetect_onward {P : Nat} {seen : List Nat} {s t : State} (h : s.Onward t) :
    s.Onward (State.partnerDetect P seen t) := by
  unfold State.partnerDetect
  repeat' first
    | with_reducible assumption
    | (extract_lets -merge +onlyGivenNames x
       first
       | (have _f := fun a => x a
          clear _f
          unfold x
          clear x)
       | (refine onward_cut (P := State.Onward s x) ?_ (fun hx => ?_)
          on_goal 1 => (unfold x; clear x)
          on_goal 2 => clear_value x)
       | clear_value x
       | (unfold x; clear x)
       | clear x)
    | with_reducible apply State.setLane_onward
    | with_reducible apply State.setPort_onward
    | with_reducible apply Fabric.wr_onward
    | with_reducible apply State.wr_onward
    | (with_reducible refine State.Onward.foldl ?_ ?_
       on_goal 1 => intro _ _ _)
    | with_reducible refine State.Onward.ite ?_ ?_
    | split
    | fail_if_no_progress dsimp only
    | fail_if_no_progress with_reducible apply State.Onward.upd

theorem State.nextCandidate_onward {P : Nat} {s t : State} (h : s.Onward t) : s.Onward (State.nextCandidate P t) := by
  unfold State.nextCandidate
  repeat' first
    | with_reducible assumption
    | (extract_lets -merge +onlyGivenNames x
       first
       | (have _f := fun a => x a
          clear _f
          unfold x
          clear x)
       | (refine onward_cut (P := State.Onward s x) ?_ (fun hx => ?_)
          on_goal 1 => (unfold x; clear x)
          on_goal 2 => clear_value x)
       | clear_value x
       | (unfold x; clear x)
       | clear x)
    | with_reducible apply State.updPort_onward
    | with_reducible apply State.useCandidate_onward
    | with_reducible refine State.Onward.ite ?_ ?_
    | split
    | fail_if_no_progress dsimp only
    | fail_if_no_progress with_reducible apply State.Onward.upd

theorem State.listenLimit_onward {P : Nat} {s t : State} (h : s.Onward t) : s.Onward (State.listenLimit P t) := by
  unfold State.listenLimit
  repeat' first
    | with_reducible assumption
    | with_reducible apply State.attemptFail_onward
    | with_reducible refine State.Onward.ite ?_ ?_
    | split

theorem State.nameStandard_onward {P : Nat} {standard : Nat} {s t : State} (h : s.Onward t) :
    s.Onward (State.nameStandard P standard t) := by
  unfold State.nameStandard
  repeat' first
    | with_reducible assumption
    | with_reducible apply State.updPort_onward
    | with_reducible apply Fabric.wr_onward
    | with_reducible apply State.wr_onward
    | fail_if_no_progress dsimp only
    | fail_if_no_progress with_reducible apply State.Onward.upd

theorem State.tapSearch_onward {n : Nat} {reply : Nat} {better : Bool} {s t : State} (h : s.Onward t) :
    s.Onward (State.tapSearch n reply better t) := by
  unfold State.tapSearch
  repeat' first
    | with_reducible assumption
    | (extract_lets -merge +onlyGivenNames x
       first
       | (have _f := fun a => x a
          clear _f
          unfold x
          clear x)
       | (refine onward_cut (P := State.Onward s x) ?_ (fun hx => ?_)
          on_goal 1 => (unfold x; clear x)
          on_goal 2 => clear_value x)
       | clear_value x
       | (unfold x; clear x)
       | clear x)
    | with_reducible apply State.updLane_onward
    | with_reducible refine State.Onward.ite ?_ ?_
    | split
    | fail_if_no_progress dsimp only
    | fail_if_no_progress with_reducible apply State.Onward.upd

theorem State.trainingBlock_onward {n : Nat} {number : Nat} {ready : Bool} {tap : Nat} {action : Nat} {reply : Nat} {inverted : Bool} {better : Bool} {s t : State} (h : s.Onward t) :
    s.Onward (State.trainingBlock n number ready tap action reply inverted better t) := by
  unfold State.trainingBlock
  repeat' first
    | with_reducible assumption
    | (extract_lets -merge +onlyGivenNames x
       first
       | (have _f := fun a => x a
          clear _f
          unfold x
          clear x)
       | (refine onward_cut (P := State.Onward s x) ?_ (fun hx => ?_)
          on_goal 1 => (unfold x; clear x)
          on_goal 2 => clear_value x)
       | clear_value x
       | (unfold x; clear x)
       | clear x)
    | with_reducible apply State.nameStandard_onward
    | with_reducible apply Fabric.tally_onward
    | with_reducible apply State.tally_onward
    | with_reducible apply State.tapRequest_onward
    | with_reducible apply State.tapSearch_onward
    | with_reducible apply State.updLane_onward
    | with_reducible refine State.Onward.ite ?_ ?_
    | split
    | fail_if_no_progress dsimp only
    | fail_if_no_progress with_reducible apply State.Onward.upd

theorem State.trainExit_onward {P : Nat} {seen : List Nat} {s t : State} (h : s.Onward t) :
    s.Onward (State.trainExit P seen t) := by
  unfold State.trainExit
  repeat' first
    | with_reducible assumption
    | (extract_lets -merge +onlyGivenNames x
       first
       | (have _f := fun a => x a
          clear _f
          unfold x
          clear x)
       | (refine onward_cut (P := State.Onward s x) ?_ (fun hx => ?_)
          on_goal 1 => (unfold x; clear x)
          on_goal 2 => clear_value x)
       | clear_value x
       | (unfold x; clear x)
       | clear x)
    | with_reducible apply State.nameStandard_onward
    | with_reducible apply State.setPort_onward
    | with_reducible apply Fabric.wr_onward
    | with_reducible apply State.wr_onward
    | with_reducible refine State.Onward.ite ?_ ?_
    | split
    | fail_if_no_progress dsimp only
    | fail_if_no_progress with_reducible apply State.Onward.upd

theorem State.trainLimit_onward {P : Nat} {s t : State} (h : s.Onward t) : s.Onward (State.trainLimit P t) := by
  unfold State.trainLimit
  repeat' first
    | with_reducible assumption
    | (extract_lets -merge +onlyGivenNames x
       first
       | (have _f := fun a => x a
          clear _f
          unfold x
          clear x)
       | (refine onward_cut (P := State.Onward s x) ?_ (fun hx => ?_)
          on_goal 1 => (unfold x; clear x)
          on_goal 2 => clear_value x)
       | clear_value x
       | (unfold x; clear x)
       | clear x)
    | with_reducible apply State.attemptFail_onward
    | with_reducible refine State.Onward.ite ?_ ?_
    | split
    | fail_if_no_progress dsimp only
    | fail_if_no_progress with_reducible apply State.Onward.upd

theorem State.orderStep_onward {P : Nat} {s t : State} (h : s.Onward t) : s.Onward (State.orderStep P t) := by
  unfold State.orderStep
  repeat' first
    | with_reducible assumption
    | (extract_lets -merge +onlyGivenNames x
       first
       | (have _f := fun a => x a
          clear _f
          unfold x
          clear x)
       | (refine onward_cut (P := State.Onward s x) ?_ (fun hx => ?_)
          on_goal 1 => (unfold x; clear x)
          on_goal 2 => clear_value x)
       | (refine onward_cut (P := State.Onward s x.2) ?_ (fun hx => ?_)
          on_goal 1 => (unfold x; clear x)
          on_goal 2 => clear_value x)
       | (refine onward_cut (P := State.Onward s x.1) ?_ (fun hx => ?_)
          on_goal 1 => (unfold x; clear x)
          on_goal 2 => clear_value x)
       | clear_value x
       | (unfold x; clear x)
       | clear x)
    | with_reducible apply State.attemptFail_onward
    | with_reducible apply State.setPort_onward
    | with_reducible apply State.updLane_onward
    | with_reducible apply Fabric.wr_onward
    | with_reducible apply State.wr_onward
    | with_reducible apply Fabric.wrWide_onward
    | with_reducible apply State.wrWide_onward
    | (with_reducible refine State.Onward.foldl ?_ ?_
       on_goal 1 => intro _ _ _)
    | (with_reducible refine State.Onward.foldl2 ?_ ?_
       on_goal 1 => intro _ _ _)
    | (with_reducible refine State.Onward.foldl1 ?_ ?_
       on_goal 1 => intro _ _ _)
    | with_reducible refine State.Onward.ite ?_ ?_
    | split
    | fail_if_no_progress dsimp only
    | fail_if_no_progress with_reducible apply State.Onward.upd

theorem State.lockExit_onward {P : Nat} {skew : Nat} {named : Nat} {s t : State} (h : s.Onward t) :
    s.Onward (State.lockExit P skew named t) := by
  unfold State.lockExit
  repeat' first
    | with_reducible assumption
    | (extract_lets -merge +onlyGivenNames x
       first
       | (have _f := fun a => x a
          clear _f
          unfold x
          clear x)
       | (refine onward_cut (P := State.Onward s x) ?_ (fun hx => ?_)
          on_goal 1 => (unfold x; clear x)
          on_goal 2 => clear_value x)
       | clear_value x
       | (unfold x; clear x)
       | clear x)
    | with_reducible apply State.attemptFail_onward
    | with_reducible apply Fabric.emit_onward
    | with_reducible apply State.emit_onward
    | with_reducible apply State.nameStandard_onward
    | with_reducible apply State.updPort_onward
    | with_reducible apply Fabric.wr_onward
    | with_reducible apply State.wr_onward
    | with_reducible refine State.Onward.ite ?_ ?_
    | split
    | fail_if_no_progress dsimp only
    | fail_if_no_progress with_reducible apply State.Onward.upd

theorem State.lockLimit_onward {P : Nat} {s t : State} (h : s.Onward t) : s.Onward (State.lockLimit P t) := by
  unfold State.lockLimit
  repeat' first
    | with_reducible assumption
    | with_reducible apply State.attemptFail_onward
    | with_reducible refine State.Onward.ite ?_ ?_
    | split
    | fail_if_no_progress dsimp only
    | fail_if_no_progress with_reducible apply State.Onward.upd

theorem State.capabilitySet_onward {P : Nat} {agreed : Bool} {reject : Bool} {fields : List (Nat × Nat)} {s t : State} (h : s.Onward t) :
    s.Onward (State.capabilitySet P agreed reject fields t) := by
  unfold State.capabilitySet
  repeat' first
    | with_reducible assumption
    | (extract_lets -merge +onlyGivenNames x
       first
       | (have _f := fun a => x a
          clear _f
          unfold x
          clear x)
       | (refine onward_cut (P := State.Onward s x) ?_ (fun hx => ?_)
          on_goal 1 => (unfold x; clear x)
          on_goal 2 => clear_value x)
       | clear_value x
       | (unfold x; clear x)
       | clear x)
    | with_reducible apply State.addRequest_onward
    | with_reducible apply State.attemptFail_onward
    | with_reducible apply Fabric.emit_onward
    | with_reducible apply State.emit_onward
    | with_reducible apply State.setPort_onward
    | with_reducible apply Fabric.tally_onward
    | with_reducible apply State.tally_onward
    | with_reducible refine State.Onward.ite ?_ ?_
    | split
    | fail_if_no_progress dsimp only
    | fail_if_no_progress with_reducible apply State.Onward.upd

theorem State.capabilityRepeat_onward {P : Nat} {s t : State} (h : s.Onward t) :
    s.Onward (State.capabilityRepeat P t) := by
  unfold State.capabilityRepeat
  repeat' first
    | with_reducible assumption
    | (extract_lets -merge +onlyGivenNames x
       first
       | (have _f := fun a => x a
          clear _f
          unfold x
          clear x)
       | (refine onward_cut (P := State.Onward s x) ?_ (fun hx => ?_)
          on_goal 1 => (unfold x; clear x)
          on_goal 2 => clear_value x)
       | clear_value x
       | (unfold x; clear x)
       | clear x)
    | with_reducible apply Fabric.emit_onward
    | with_reducible apply State.emit_onward
    | with_reducible refine State.Onward.ite ?_ ?_
    | split
    | fail_if_no_progress dsimp only
    | fail_if_no_progress with_reducible apply State.Onward.upd

theorem State.activate_onward {P : Nat} {lanes : Nat} {streams : Nat} {shapes : List (Nat × Nat × Nat)} {s t : State} (h : s.Onward t) :
    s.Onward (State.activate P lanes streams shapes t) := by
  unfold State.activate
  repeat' first
    | with_reducible assumption
    | (extract_lets -merge +onlyGivenNames x
       first
       | (have _f := fun a => x a
          clear _f
          unfold x
          clear x)
       | (refine onward_cut (P := State.Onward s x) ?_ (fun hx => ?_)
          on_goal 1 => (unfold x; clear x)
          on_goal 2 => clear_value x)
       | (refine onward_cut (P := State.Onward s x.2) ?_ (fun hx => ?_)
          on_goal 1 => (unfold x; clear x)
          on_goal 2 => clear_value x)
       | (refine onward_cut (P := State.Onward s x.1) ?_ (fun hx => ?_)
          on_goal 1 => (unfold x; clear x)
          on_goal 2 => clear_value x)
       | clear_value x
       | (unfold x; clear x)
       | clear x)
    | with_reducible apply State.contextInit_onward
    | with_reducible apply State.egImg_onward
    | with_reducible apply State.factoryLate_onward
    | with_reducible apply State.laneRequest_onward
    | with_reducible apply State.portEv_onward
    | with_reducible apply State.setPort_onward
    | with_reducible apply State.setShape_onward
    | with_reducible apply State.smallCheck_onward
    | with_reducible apply Fabric.wr_onward
    | with_reducible apply State.wr_onward
    | (with_reducible refine State.Onward.foldl ?_ ?_
       on_goal 1 => intro _ _ _)
    | (with_reducible refine State.Onward.foldl2 ?_ ?_
       on_goal 1 => intro _ _ _)
    | (with_reducible refine State.Onward.foldl1 ?_ ?_
       on_goal 1 => intro _ _ _)
    | with_reducible refine State.Onward.ite ?_ ?_
    | split
    | fail_if_no_progress dsimp only
    | fail_if_no_progress with_reducible apply State.Onward.upd

theorem State.exchangeComplete_onward {P : Nat} {caps : List (Nat × Nat)} {s t : State} (h : s.Onward t) :
    s.Onward (State.exchangeComplete P caps t) := by
  unfold State.exchangeComplete
  repeat' first
    | with_reducible assumption
    | (extract_lets -merge +onlyGivenNames x
       first
       | (have _f := fun a => x a
          clear _f
          unfold x
          clear x)
       | (refine onward_cut (P := State.Onward s x) ?_ (fun hx => ?_)
          on_goal 1 => (unfold x; clear x)
          on_goal 2 => clear_value x)
       | clear_value x
       | (unfold x; clear x)
       | clear x)
    | with_reducible apply State.activate_onward
    | with_reducible apply State.attemptFail_onward
    | with_reducible refine State.Onward.ite ?_ ?_
    | split
    | fail_if_no_progress dsimp only
    | fail_if_no_progress with_reducible apply State.Onward.upd

theorem State.exchangeLimit_onward {P : Nat} {s t : State} (h : s.Onward t) : s.Onward (State.exchangeLimit P t) := by
  unfold State.exchangeLimit
  repeat' first
    | with_reducible assumption
    | with_reducible apply State.attemptFail_onward
    | with_reducible refine State.Onward.ite ?_ ?_
    | split

theorem State.exchangeLockLoss_onward {P : Nat} {lane : Nat} {s t : State} (h : s.Onward t) :
    s.Onward (State.exchangeLockLoss P lane t) := by
  unfold State.exchangeLockLoss
  repeat' first
    | with_reducible assumption
    | with_reducible apply State.attemptFail_onward
    | with_reducible refine State.Onward.ite ?_ ?_
    | split

theorem State.controlAnswer_onward {P : Nat} {tag : Nat} {status : Nat} {write : Bool} {data : List Byte} {s t : State} (h : s.Onward t) :
    s.Onward (State.controlAnswer P tag status write data t) := by
  unfold State.controlAnswer
  repeat' first
    | with_reducible assumption
    | (extract_lets -merge +onlyGivenNames x
       first
       | (have _f := fun a => x a
          clear _f
          unfold x
          clear x)
       | (refine onward_cut (P := State.Onward s x) ?_ (fun hx => ?_)
          on_goal 1 => (unfold x; clear x)
          on_goal 2 => clear_value x)
       | clear_value x
       | (unfold x; clear x)
       | clear x)
    | with_reducible apply State.requestDone_onward
    | with_reducible apply State.sendProbe_onward
    | with_reducible apply Fabric.tally_onward
    | with_reducible apply State.tally_onward
    | with_reducible apply State.updPort_onward
    | with_reducible refine State.Onward.ite ?_ ?_
    | split
    | fail_if_no_progress dsimp only
    | fail_if_no_progress with_reducible apply State.Onward.upd

theorem State.controlTimeout_onward {P : Nat} {tag : Nat} {s t : State} (h : s.Onward t) :
    s.Onward (State.controlTimeout P tag t) := by
  unfold State.controlTimeout
  repeat' first
    | with_reducible assumption
    | (extract_lets -merge +onlyGivenNames x
       first
       | (have _f := fun a => x a
          clear _f
          unfold x
          clear x)
       | (refine onward_cut (P := State.Onward s x) ?_ (fun hx => ?_)
          on_goal 1 => (unfold x; clear x)
          on_goal 2 => clear_value x)
       | clear_value x
       | (unfold x; clear x)
       | clear x)
    | with_reducible apply State.attemptFail_onward
    | with_reducible apply State.requestDone_onward
    | with_reducible apply Fabric.tally_onward
    | with_reducible apply State.tally_onward
    | with_reducible refine State.Onward.ite ?_ ?_
    | split
    | fail_if_no_progress dsimp only
    | fail_if_no_progress with_reducible apply State.Onward.upd

theorem State.probeMiss_onward {P : Nat} {seq : Nat} {s t : State} (h : s.Onward t) :
    s.Onward (State.probeMiss P seq t) := by
  unfold State.probeMiss
  repeat' first
    | with_reducible assumption
    | (extract_lets -merge +onlyGivenNames x
       first
       | (have _f := fun a => x a
          clear _f
          unfold x
          clear x)
       | (refine onward_cut (P := State.Onward s x) ?_ (fun hx => ?_)
          on_goal 1 => (unfold x; clear x)
          on_goal 2 => clear_value x)
       | clear_value x
       | (unfold x; clear x)
       | clear x)
    | with_reducible apply State.attemptFail_onward
    | with_reducible apply State.setPort_onward
    | with_reducible apply Fabric.tally_onward
    | with_reducible apply State.tally_onward
    | with_reducible refine State.Onward.ite ?_ ?_
    | split
    | fail_if_no_progress dsimp only
    | fail_if_no_progress with_reducible apply State.Onward.upd

theorem State.partnerLost_onward {P : Nat} {lane : Nat} {s t : State} (h : s.Onward t) :
    s.Onward (State.partnerLost P lane t) := by
  unfold State.partnerLost
  repeat' first
    | with_reducible assumption
    | with_reducible apply State.lastFail_onward
    | with_reducible apply State.leaveActive_onward
    | with_reducible apply State.listenAfresh_onward
    | with_reducible apply Fabric.tally_onward
    | with_reducible apply State.tally_onward
    | with_reducible refine State.Onward.ite ?_ ?_
    | split

theorem State.restPoll_onward {P : Nat} {seen : List Nat} {s t : State} (h : s.Onward t) :
    s.Onward (State.restPoll P seen t) := by
  unfold State.restPoll
  repeat' first
    | with_reducible assumption
    | (extract_lets -merge +onlyGivenNames x
       first
       | (have _f := fun a => x a
          clear _f
          unfold x
          clear x)
       | (refine onward_cut (P := State.Onward s x) ?_ (fun hx => ?_)
          on_goal 1 => (unfold x; clear x)
          on_goal 2 => clear_value x)
       | clear_value x
       | (unfold x; clear x)
       | clear x)
    | with_reducible apply State.listenAfresh_onward
    | with_reducible apply State.wrIf_onward
    | (with_reducible refine State.Onward.foldl ?_ ?_
       on_goal 1 => intro _ _ _)
    | with_reducible refine State.Onward.ite ?_ ?_
    | split
    | fail_if_no_progress dsimp only

theorem State.retrain_onward {P : Nat} {s t : State} (h : s.Onward t) : s.Onward (State.retrain P t) := by
  unfold State.retrain
  repeat' first
    | with_reducible assumption
    | (extract_lets -merge +onlyGivenNames x
       first
       | (have _f := fun a => x a
          clear _f
          unfold x
          clear x)
       | (refine onward_cut (P := State.Onward s x) ?_ (fun hx => ?_)
          on_goal 1 => (unfold x; clear x)
          on_goal 2 => clear_value x)
       | clear_value x
       | (unfold x; clear x)
       | clear x)
    | with_reducible apply State.leaveActive_onward
    | with_reducible apply State.listen_onward
    | with_reducible apply State.listenAfresh_onward
    | with_reducible refine State.Onward.ite ?_ ?_
    | split
    | fail_if_no_progress dsimp only

theorem State.linkCtrl_onward {fn : Nat} {P : Nat} {w : Word} {s t : State} (h : s.Onward t) :
    s.Onward (State.linkCtrl fn P w t) := by
  unfold State.linkCtrl
  repeat' first
    | with_reducible assumption
    | (extract_lets -merge +onlyGivenNames x
       first
       | (have _f := fun a => x a
          clear _f
          unfold x
          clear x)
       | (refine onward_cut (P := State.Onward s x) ?_ (fun hx => ?_)
          on_goal 1 => (unfold x; clear x)
          on_goal 2 => clear_value x)
       | clear_value x
       | (unfold x; clear x)
       | clear x)
    | with_reducible apply State.putWord_onward
    | with_reducible apply State.retrain_onward
    | with_reducible refine State.Onward.ite ?_ ?_
    | split
    | fail_if_no_progress dsimp only

theorem State.laneBlockReset_onward {n : Nat} {s t : State} (h : s.Onward t) :
    s.Onward (State.laneBlockReset n t) := by
  unfold State.laneBlockReset
  repeat' first
    | with_reducible assumption
    | (extract_lets -merge +onlyGivenNames x
       first
       | (have _f := fun a => x a
          clear _f
          unfold x
          clear x)
       | (refine onward_cut (P := State.Onward s x) ?_ (fun hx => ?_)
          on_goal 1 => (unfold x; clear x)
          on_goal 2 => clear_value x)
       | clear_value x
       | (unfold x; clear x)
       | clear x)
    | with_reducible apply State.laneReset_onward
    | with_reducible apply State.leaveActive_onward
    | with_reducible apply State.listen_onward
    | with_reducible apply State.listenAfresh_onward
    | with_reducible refine State.Onward.ite ?_ ?_
    | split
    | fail_if_no_progress dsimp only
    | fail_if_no_progress with_reducible apply State.Onward.upd

theorem State.portBlockReset_onward {P : Nat} {s t : State} (h : s.Onward t) :
    s.Onward (State.portBlockReset P t) := by
  unfold State.portBlockReset
  repeat' first
    | with_reducible assumption
    | (extract_lets -merge +onlyGivenNames x
       first
       | (have _f := fun a => x a
          clear _f
          unfold x
          clear x)
       | (refine onward_cut (P := State.Onward s x) ?_ (fun hx => ?_)
          on_goal 1 => (unfold x; clear x)
          on_goal 2 => clear_value x)
       | clear_value x
       | (unfold x; clear x)
       | clear x)
    | with_reducible apply State.laneReset_onward
    | with_reducible apply State.leaveActive_onward
    | with_reducible apply State.listenAfresh_onward
    | with_reducible apply State.portSilent_onward
    | (with_reducible refine State.Onward.foldl ?_ ?_
       on_goal 1 => intro _ _ _)
    | with_reducible refine State.Onward.ite ?_ ?_
    | split
    | fail_if_no_progress dsimp only
    | fail_if_no_progress with_reducible apply State.Onward.upd

theorem State.portEnable_onward {P : Nat} {s t : State} (h : s.Onward t) : s.Onward (State.portEnable P t) := by
  unfold State.portEnable
  repeat' first
    | with_reducible assumption
    | with_reducible apply State.listenAfresh_onward
    | with_reducible refine State.Onward.ite ?_ ?_
    | split

theorem State.foldEnable_onward {off : Nat} {on : Bool} {s t : State} (h : s.Onward t) :
    s.Onward (State.foldEnable off on t) := by
  unfold State.foldEnable
  repeat' first
    | with_reducible assumption
    | (extract_lets -merge +onlyGivenNames x
       first
       | (have _f := fun a => x a
          clear _f
          unfold x
          clear x)
       | (refine onward_cut (P := State.Onward s x) ?_ (fun hx => ?_)
          on_goal 1 => (unfold x; clear x)
          on_goal 2 => clear_value x)
       | clear_value x
       | (unfold x; clear x)
       | clear x)
    | with_reducible apply State.portEnable_onward
    | with_reducible apply State.portOff_onward
    | with_reducible apply State.wrIf_onward
    | with_reducible refine State.Onward.ite ?_ ?_
    | split
    | fail_if_no_progress dsimp only
    | fail_if_no_progress with_reducible apply State.Onward.upd

end Sys2Proof.Machine
end

