-- ==== Sys2Proof/Laws/Network.lean ====
section
/-! SUPPORT. What each operation of `Machine/Network.lean` keeps (see `Laws/Onward.lean`). -/
set_option linter.unusedTactic false
set_option linter.unreachableTactic false
set_option linter.tactic.unusedName false
namespace Sys2Proof.Machine

theorem State.setPath_onward {k : Nat} {x : Path} {s t : State} (h : s.Onward t) :
    s.Onward (State.setPath t k x) := by
  unfold State.setPath
  repeat' first
    | with_reducible assumption
    | fail_if_no_progress dsimp only
    | fail_if_no_progress with_reducible apply State.Onward.upd

theorem State.updPath_onward {k : Nat} {g : Path → Path} {s t : State} (h : s.Onward t) :
    s.Onward (State.updPath t k g) := by
  unfold State.updPath
  repeat' first
    | with_reducible assumption
    | with_reducible apply State.setPath_onward

theorem State.updNet_onward {g : Network → Network} {s t : State} (h : s.Onward t) : s.Onward (State.updNet t g) := by
  unfold State.updNet
  repeat' first
    | with_reducible assumption
    | fail_if_no_progress with_reducible apply State.Onward.upd

theorem State.npEv_onward {k : Nat} {i : Nat} {detail : Nat} {s t : State} (h : s.Onward t) :
    s.Onward (State.npEv k i detail t) := by
  unfold State.npEv
  repeat' first
    | with_reducible assumption
    | with_reducible apply Fabric.raise_onward
    | with_reducible apply State.raise_onward

theorem State.setRole_onward {k : Nat} {r : Nat} {s t : State} (h : s.Onward t) : s.Onward (State.setRole k r t) := by
  unfold State.setRole
  repeat' first
    | with_reducible assumption
    | with_reducible apply State.npEv_onward
    | with_reducible apply Fabric.wr_onward
    | with_reducible apply State.wr_onward
    | with_reducible refine State.Onward.ite ?_ ?_
    | split

theorem State.netEmit_onward {k : Nat} {e : Emit} {s t : State} (h : s.Onward t) :
    s.Onward (State.netEmit k e t) := by
  unfold State.netEmit
  repeat' first
    | with_reducible assumption
    | with_reducible apply Fabric.emit_onward
    | with_reducible apply State.emit_onward
    | with_reducible apply Fabric.tally_onward
    | with_reducible apply State.tally_onward

theorem State.netSend_onward {k : Nat} {e : Emit} {s t : State} (h : s.Onward t) :
    s.Onward (State.netSend k e t) := by
  unfold State.netSend
  repeat' first
    | with_reducible assumption
    | with_reducible apply State.netEmit_onward
    | with_reducible apply State.updPath_onward
    | with_reducible refine State.Onward.ite ?_ ?_
    | split
    | fail_if_no_progress with_reducible apply State.Onward.upd

theorem State.netFlush_onward {k : Nat} {s t : State} (h : s.Onward t) : s.Onward (State.netFlush k t) := by
  unfold State.netFlush
  repeat' first
    | with_reducible assumption
    | (extract_lets -merge +onlyGivenNames x
       first
       | (have _f := fun a => x a
          clear _f
          unfold x
          clear x)
       | (refine onward_cut (P := State.Onward s x) ?_ (fun hx => ?_)
          on_goal 1 => (unfold x; clear x)
          on_goal 2 => clear_value x)
       | clear_value x
       | (unfold x; clear x)
       | clear x)
    | with_reducible apply State.netEmit_onward
    | with_reducible apply State.updPath_onward
    | (with_reducible refine State.Onward.foldl ?_ ?_
       on_goal 1 => intro _ _ _)
    | with_reducible refine State.Onward.ite ?_ ?_
    | split
    | fail_if_no_progress dsimp only
    | fail_if_no_progress with_reducible apply State.Onward.upd

theorem State.nbTouch_onward {i : Nat} {s t : State} (h : s.Onward t) : s.Onward (State.nbTouch i t) := by
  unfold State.nbTouch
  repeat' first
    | with_reducible assumption
    | with_reducible apply State.updNet_onward
    | fail_if_no_progress dsimp only
    | fail_if_no_progress with_reducible apply State.Onward.upd

theorem State.resolve_onward {k : Nat} {a : NetAddr} {s t : State} (h : s.Onward t) :
    s.Onward (State.resolve k a t).2 := by
  unfold State.resolve
  repeat' first
    | with_reducible assumption
    | (extract_lets -merge +onlyGivenNames x
       first
       | (have _f := fun a => x a
          clear _f
          unfold x
          clear x)
       | (refine onward_cut (P := State.Onward s x) ?_ (fun hx => ?_)
          on_goal 1 => (unfold x; clear x)
          on_goal 2 => clear_value x)
       | clear_value x
       | (unfold x; clear x)
       | clear x)
    | with_reducible apply State.nbTouch_onward
    | with_reducible apply State.netSend_onward
    | with_reducible apply State.updNet_onward
    | with_reducible refine State.Onward.ite ?_ ?_
    | split
    | fail_if_no_progress dsimp only
    | fail_if_no_progress with_reducible apply State.Onward.upd

theorem State.nbReply_onward {a : NetAddr} {mac : Nat} {s t : State} (h : s.Onward t) :
    s.Onward (State.nbReply a mac t) := by
  unfold State.nbReply
  repeat' first
    | with_reducible assumption
    | (extract_lets -merge +onlyGivenNames x
       first
       | (have _f := fun a => x a
          clear _f
          unfold x
          clear x)
       | (refine onward_cut (P := State.Onward s x) ?_ (fun hx => ?_)
          on_goal 1 => (unfold x; clear x)
          on_goal 2 => clear_value x)
       | clear_value x
       | (unfold x; clear x)
       | clear x)
    | with_reducible apply State.nbTouch_onward
    | with_reducible apply State.updNet_onward
    | with_reducible apply Fabric.wr_onward
    | with_reducible apply State.wr_onward
    | with_reducible apply Fabric.wrWide_onward
    | with_reducible apply State.wrWide_onward
    | with_reducible apply Fabric.ww_onward
    | with_reducible apply State.ww_onward
    | (with_reducible refine State.Onward.foldl ?_ ?_
       on_goal 1 => intro _ _ _)
    | with_reducible refine State.Onward.ite ?_ ?_
    | split
    | fail_if_no_progress dsimp only
    | fail_if_no_progress with_reducible apply State.Onward.upd

theorem State.setSeq_onward {f : Nat} {v : Nat} {s t : State} (h : s.Onward t) : s.Onward (State.setSeq f v t) := by
  unfold State.setSeq
  repeat' first
    | with_reducible assumption
    | with_reducible apply Fabric.wrWide_onward
    | with_reducible apply State.wrWide_onward

theorem State.flowSend_onward {f : Nat} {kind : Nat} {stream : Nat} {flags : Nat} {frame : Nat} {offset : Nat} {payload : List Byte} {r : Route} {s t : State} (h : s.Onward t) :
    s.Onward (State.flowSend f kind stream flags frame offset payload r t) := by
  unfold State.flowSend
  repeat' first
    | with_reducible assumption
    | (extract_lets -merge +onlyGivenNames x
       first
       | (have _f := fun a => x a
          clear _f
          unfold x
          clear x)
       | (refine onward_cut (P := State.Onward s x) ?_ (fun hx => ?_)
          on_goal 1 => (unfold x; clear x)
          on_goal 2 => clear_value x)
       | clear_value x
       | (unfold x; clear x)
       | clear x)
    | with_reducible apply State.netEmit_onward
    | with_reducible apply State.setSeq_onward
    | with_reducible apply Fabric.tally_onward
    | with_reducible apply State.tally_onward
    | with_reducible apply State.updFlow_onward
    | with_reducible refine State.Onward.ite ?_ ?_
    | split
    | fail_if_no_progress dsimp only
    | fail_if_no_progress with_reducible apply State.Onward.upd

theorem State.statusSend_onward {f : Nat} {stream : Nat} {frame : Nat} {code : Nat} {count : Nat} {r : Route} {s t : State} (h : s.Onward t) :
    s.Onward (State.statusSend f stream frame code count r t) := by
  unfold State.statusSend
  repeat' first
    | with_reducible assumption
    | with_reducible apply State.flowSend_onward

theorem State.flowEnd_onward {f : Nat} {s t : State} (h : s.Onward t) : s.Onward (State.flowEnd f t) := by
  unfold State.flowEnd
  repeat' first
    | with_reducible assumption
    | with_reducible apply State.updFlow_onward
    | fail_if_no_progress with_reducible apply State.Onward.upd

theorem State.sendFrame_onward {f : Nat} {c : Sending} {r : Route} {s t : State} (h : s.Onward t) :
    s.Onward (State.sendFrame f c r t) := by
  unfold State.sendFrame
  repeat' first
    | with_reducible assumption
    | (extract_lets -merge +onlyGivenNames x
       first
       | (have _f := fun a => x a
          clear _f
          unfold x
          clear x)
       | (refine onward_cut (P := State.Onward s x) ?_ (fun hx => ?_)
          on_goal 1 => (unfold x; clear x)
          on_goal 2 => clear_value x)
       | clear_value x
       | (unfold x; clear x)
       | clear x)
    | with_reducible apply State.flowEnd_onward
    | with_reducible apply State.flowSend_onward
    | with_reducible apply State.npEv_onward
    | with_reducible apply State.statusSend_onward
    | with_reducible apply Fabric.tally_onward
    | with_reducible apply State.tally_onward
    | with_reducible apply State.updFlow_onward
    | with_reducible refine State.Onward.ite ?_ ?_
    | split
    | fail_if_no_progress dsimp only
    | fail_if_no_progress with_reducible apply State.Onward.upd

theorem State.beginFrame_onward {f : Nat} {x : Rec} {src : Option (NetAddr × Nat)} {r : Route} {s t : State} (h : s.Onward t) :
    s.Onward (State.beginFrame f x src r t) := by
  unfold State.beginFrame
  repeat' first
    | with_reducible assumption
    | (extract_lets -merge +onlyGivenNames x
       first
       | (have _f := fun a => x a
          clear _f
          unfold x
          clear x)
       | (refine onward_cut (P := State.Onward s x) ?_ (fun hx => ?_)
          on_goal 1 => (unfold x; clear x)
          on_goal 2 => clear_value x)
       | clear_value x
       | (unfold x; clear x)
       | clear x)
    | with_reducible apply State.sendFrame_onward
    | with_reducible apply State.updFlow_onward
    | with_reducible apply Fabric.wrWide_onward
    | with_reducible apply State.wrWide_onward
    | fail_if_no_progress dsimp only
    | fail_if_no_progress with_reducible apply State.Onward.upd

theorem State.skipReady_onward {k f : Nat} {l : List (Nat × Nat)} {s t : State} (h : s.Onward t) :
    s.Onward (State.skipReady k f l t).2 := by
  induction l generalizing t with
  | nil => exact h
  | cons x r ih =>
    simp only [State.skipReady]
    split
    · exact h
    · exact ih (State.npEv_onward (State.tally_onward h))


theorem State.requestStep_onward {k : Nat} {q : NetRequest} {s t : State} (h : s.Onward t) :
    s.Onward (State.requestStep k q t) := by
  unfold State.requestStep
  repeat' first
    | with_reducible assumption
    | (extract_lets -merge +onlyGivenNames x
       first
       | (have _f := fun a => x a
          clear _f
          unfold x
          clear x)
       | (refine onward_cut (P := State.Onward s x) ?_ (fun hx => ?_)
          on_goal 1 => (unfold x; clear x)
          on_goal 2 => clear_value x)
       | clear_value x
       | (unfold x; clear x)
       | clear x)
    | with_reducible apply State.updPath_onward
    | with_reducible refine State.Onward.ite ?_ ?_
    | split
    | fail_if_no_progress dsimp only
    | fail_if_no_progress with_reducible apply State.Onward.upd

theorem State.sendMarker_onward {f : Nat} {m : Nat × Nat × Nat} {r : Route} {s t : State} (h : s.Onward t) :
    s.Onward (State.sendMarker f m r t) := by
  unfold State.sendMarker
  repeat' first
    | with_reducible assumption
    | (extract_lets -merge +onlyGivenNames x
       first
       | (have _f := fun a => x a
          clear _f
          unfold x
          clear x)
       | (refine onward_cut (P := State.Onward s x) ?_ (fun hx => ?_)
          on_goal 1 => (unfold x; clear x)
          on_goal 2 => clear_value x)
       | (refine onward_cut (P := State.Onward s x.2) ?_ (fun hx => ?_)
          on_goal 1 => (unfold x; clear x)
          on_goal 2 => clear_value x)
       | (refine onward_cut (P := State.Onward s x.1) ?_ (fun hx => ?_)
          on_goal 1 => (unfold x; clear x)
          on_goal 2 => clear_value x)
       | (refine onward_cut (P := State.Onward s x.2.2) ?_ (fun hx => ?_)
          on_goal 1 => (unfold x; clear x)
          on_goal 2 => clear_value x)
       | clear_value x
       | (unfold x; clear x)
       | clear x)
    | with_reducible apply State.flowSend_onward
    | with_reducible apply State.npEv_onward
    | with_reducible apply State.setSeq_onward
    | with_reducible apply State.updFlow_onward
    | fail_if_no_progress dsimp only
    | fail_if_no_progress with_reducible apply State.Onward.upd

theorem State.sendRelay_onward {f : Nat} {i : RelayItem} {r : Route} {s t : State} (h : s.Onward t) :
    s.Onward (State.sendRelay f i r t) := by
  unfold State.sendRelay
  repeat' first
    | with_reducible assumption
    | (extract_lets -merge +onlyGivenNames x
       first
       | (have _f := fun a => x a
          clear _f
          unfold x
          clear x)
       | (refine onward_cut (P := State.Onward s x) ?_ (fun hx => ?_)
          on_goal 1 => (unfold x; clear x)
          on_goal 2 => clear_value x)
       | clear_value x
       | (unfold x; clear x)
       | clear x)
    | with_reducible apply State.flowSend_onward
    | with_reducible apply Fabric.tally_onward
    | with_reducible apply State.tally_onward
    | with_reducible apply State.updFlow_onward
    | with_reducible refine State.Onward.ite ?_ ?_
    | split
    | fail_if_no_progress dsimp only
    | fail_if_no_progress with_reducible apply State.Onward.upd

theorem State.flowNext_onward {f : Nat} {r : Route} {s t : State} (h : s.Onward t) :
    s.Onward (State.flowNext f r t) := by
  unfold State.flowNext
  repeat' first
    | with_reducible assumption
    | (extract_lets -merge +onlyGivenNames x
       first
       | (have _f := fun a => x a
          clear _f
          unfold x
          clear x)
       | (refine onward_cut (P := State.Onward s x) ?_ (fun hx => ?_)
          on_goal 1 => (unfold x; clear x)
          on_goal 2 => clear_value x)
       | (refine onward_cut (P := State.Onward s x.2) ?_ (fun hx => ?_)
          on_goal 1 => (unfold x; clear x)
          on_goal 2 => clear_value x)
       | (refine onward_cut (P := State.Onward s x.1) ?_ (fun hx => ?_)
          on_goal 1 => (unfold x; clear x)
          on_goal 2 => clear_value x)
       | clear_value x
       | (unfold x; clear x)
       | clear x)
    | with_reducible apply State.beginFrame_onward
    | with_reducible apply State.requestStep_onward
    | with_reducible apply State.sendFrame_onward
    | with_reducible apply State.sendMarker_onward
    | with_reducible apply State.sendRelay_onward
    | with_reducible apply State.skipReady_onward
    | with_reducible apply State.statusSend_onward
    | with_reducible apply State.updFlow_onward
    | with_reducible refine State.Onward.ite ?_ ?_
    | split
    | fail_if_no_progress dsimp only
    | fail_if_no_progress with_reducible apply State.Onward.upd

theorem State.setHolder_onward {v : Nat} {s t : State} (h : s.Onward t) : s.Onward (State.setHolder v t) := by
  unfold State.setHolder
  repeat' first
    | with_reducible assumption
    | with_reducible apply Fabric.wr_onward
    | with_reducible apply State.wr_onward

theorem State.letGo_onward {k : Nat} {detail : Nat} {s t : State} (h : s.Onward t) :
    s.Onward (State.letGo k detail t) := by
  unfold State.letGo
  repeat' first
    | with_reducible assumption
    | (extract_lets -merge +onlyGivenNames x
       first
       | (have _f := fun a => x a
          clear _f
          unfold x
          clear x)
       | (refine onward_cut (P := State.Onward s x) ?_ (fun hx => ?_)
          on_goal 1 => (unfold x; clear x)
          on_goal 2 => clear_value x)
       | clear_value x
       | (unfold x; clear x)
       | clear x)
    | with_reducible apply State.npEv_onward
    | with_reducible apply State.setHolder_onward
    | with_reducible apply State.updNet_onward
    | with_reducible apply State.updPath_onward
    | with_reducible refine State.Onward.ite ?_ ?_
    | split
    | fail_if_no_progress dsimp only
    | fail_if_no_progress with_reducible apply State.Onward.upd

theorem State.handbackOff_onward {s t : State} (h : s.Onward t) : s.Onward (State.handbackOff t) := by
  unfold State.handbackOff
  repeat' first
    | with_reducible assumption
    | (extract_lets -merge +onlyGivenNames x
       first
       | (have _f := fun a => x a
          clear _f
          unfold x
          clear x)
       | (refine onward_cut (P := State.Onward s x) ?_ (fun hx => ?_)
          on_goal 1 => (unfold x; clear x)
          on_goal 2 => clear_value x)
       | clear_value x
       | (unfold x; clear x)
       | clear x)
    | with_reducible apply State.setRole_onward
    | with_reducible apply State.updNet_onward
    | with_reducible refine State.Onward.ite ?_ ?_
    | split
    | fail_if_no_progress dsimp only
    | fail_if_no_progress with_reducible apply State.Onward.upd

theorem State.pathFollow_onward {k : Nat} {s t : State} (h : s.Onward t) : s.Onward (State.pathFollow k t) := by
  unfold State.pathFollow
  repeat' first
    | with_reducible assumption
    | (extract_lets -merge +onlyGivenNames x
       first
       | (have _f := fun a => x a
          clear _f
          unfold x
          clear x)
       | (refine onward_cut (P := State.Onward s x) ?_ (fun hx => ?_)
          on_goal 1 => (unfold x; clear x)
          on_goal 2 => clear_value x)
       | clear_value x
       | (unfold x; clear x)
       | clear x)
    | with_reducible apply State.handbackOff_onward
    | with_reducible apply State.letGo_onward
    | with_reducible apply State.setRole_onward
    | with_reducible apply State.updNet_onward
    | with_reducible apply State.updPath_onward
    | with_reducible apply Fabric.wr_onward
    | with_reducible apply State.wr_onward
    | with_reducible apply State.wrIf_onward
    | with_reducible refine State.Onward.ite ?_ ?_
    | split
    | fail_if_no_progress dsimp only
    | fail_if_no_progress with_reducible apply State.Onward.upd

theorem State.pathLock_onward {k : Nat} {up : Bool} {s t : State} (h : s.Onward t) :
    s.Onward (State.pathLock k up t) := by
  unfold State.pathLock
  repeat' first
    | with_reducible assumption
    | (extract_lets -merge +onlyGivenNames x
       first
       | (have _f := fun a => x a
          clear _f
          unfold x
          clear x)
       | (refine onward_cut (P := State.Onward s x) ?_ (fun hx => ?_)
          on_goal 1 => (unfold x; clear x)
          on_goal 2 => clear_value x)
       | clear_value x
       | (unfold x; clear x)
       | clear x)
    | with_reducible apply State.npEv_onward
    | with_reducible apply State.pathFollow_onward
    | with_reducible apply Fabric.tally_onward
    | with_reducible apply State.tally_onward
    | with_reducible apply State.updPath_onward
    | with_reducible apply State.wrIf_onward
    | with_reducible refine State.Onward.ite ?_ ?_
    | split
    | fail_if_no_progress dsimp only
    | fail_if_no_progress with_reducible apply State.Onward.upd

theorem State.pathModule_onward {k : Nat} {ready : Bool} {s t : State} (h : s.Onward t) :
    s.Onward (State.pathModule k ready t) := by
  unfold State.pathModule
  repeat' first
    | with_reducible assumption
    | (extract_lets -merge +onlyGivenNames x
       first
       | (have _f := fun a => x a
          clear _f
          unfold x
          clear x)
       | (refine onward_cut (P := State.Onward s x) ?_ (fun hx => ?_)
          on_goal 1 => (unfold x; clear x)
          on_goal 2 => clear_value x)
       | clear_value x
       | (unfold x; clear x)
       | clear x)
    | with_reducible apply State.pathFollow_onward
    | with_reducible apply State.pathLock_onward
    | with_reducible apply State.updPath_onward
    | with_reducible apply State.wrIf_onward
    | with_reducible refine State.Onward.ite ?_ ?_
    | split
    | fail_if_no_progress dsimp only
    | fail_if_no_progress with_reducible apply State.Onward.upd

theorem State.snapshot_onward {k : Nat} {s t : State} (h : s.Onward t) : s.Onward (State.snapshot k t) := by
  unfold State.snapshot
  repeat' first
    | with_reducible assumption
    | (extract_lets -merge +onlyGivenNames x
       first
       | (have _f := fun a => x a
          clear _f
          unfold x
          clear x)
       | (refine onward_cut (P := State.Onward s x) ?_ (fun hx => ?_)
          on_goal 1 => (unfold x; clear x)
          on_goal 2 => clear_value x)
       | clear_value x
       | (unfold x; clear x)
       | clear x)
    | with_reducible apply State.updNet_onward
    | with_reducible apply State.updPath_onward
    | with_reducible apply Fabric.wr_onward
    | with_reducible apply State.wr_onward
    | fail_if_no_progress dsimp only
    | fail_if_no_progress with_reducible apply State.Onward.upd

theorem State.handbackStep_onward {s t : State} (h : s.Onward t) : s.Onward (State.handbackStep t) := by
  unfold State.handbackStep
  repeat' first
    | with_reducible assumption
    | (extract_lets -merge +onlyGivenNames x
       first
       | (have _f := fun a => x a
          clear _f
          unfold x
          clear x)
       | (refine onward_cut (P := State.Onward s x) ?_ (fun hx => ?_)
          on_goal 1 => (unfold x; clear x)
          on_goal 2 => clear_value x)
       | clear_value x
       | (unfold x; clear x)
       | clear x)
    | with_reducible apply State.setRole_onward
    | with_reducible apply State.snapshot_onward
    | with_reducible apply State.updNet_onward
    | with_reducible refine State.Onward.ite ?_ ?_
    | split
    | fail_if_no_progress dsimp only
    | fail_if_no_progress with_reducible apply State.Onward.upd

theorem State.startHandback_onward {k : Nat} {s t : State} (h : s.Onward t) : s.Onward (State.startHandback k t) := by
  unfold State.startHandback
  repeat' first
    | with_reducible assumption
    | with_reducible apply State.handbackStep_onward
    | with_reducible apply State.updNet_onward
    | with_reducible refine State.Onward.ite ?_ ?_
    | split
    | fail_if_no_progress dsimp only
    | fail_if_no_progress with_reducible apply State.Onward.upd

theorem State.epochDue_onward {s t : State} (h : s.Onward t) : s.Onward (State.epochDue t) := by
  unfold State.epochDue
  repeat' first
    | with_reducible assumption
    | (extract_lets -merge +onlyGivenNames x
       first
       | (have _f := fun a => x a
          clear _f
          unfold x
          clear x)
       | (refine onward_cut (P := State.Onward s x) ?_ (fun hx => ?_)
          on_goal 1 => (unfold x; clear x)
          on_goal 2 => clear_value x)
       | clear_value x
       | (unfold x; clear x)
       | clear x)
    | with_reducible apply State.handbackStep_onward
    | with_reducible apply State.runTo_onward
    | with_reducible apply State.snapshot_onward
    | with_reducible apply State.updNet_onward
    | with_reducible refine State.Onward.ite ?_ ?_
    | split
    | fail_if_no_progress dsimp only
    | fail_if_no_progress with_reducible apply State.Onward.upd

theorem State.install_onward {k : Nat} {e : Epoch} {s t : State} (h : s.Onward t) :
    s.Onward (State.install k e t) := by
  unfold State.install
  repeat' first
    | with_reducible assumption
    | (extract_lets -merge +onlyGivenNames x
       first
       | (have _f := fun a => x a
          clear _f
          unfold x
          clear x)
       | (refine onward_cut (P := State.Onward s x) ?_ (fun hx => ?_)
          on_goal 1 => (unfold x; clear x)
          on_goal 2 => clear_value x)
       | clear_value x
       | (unfold x; clear x)
       | clear x)
    | with_reducible apply State.npEv_onward
    | with_reducible apply State.updPath_onward
    | with_reducible apply Fabric.wr_onward
    | with_reducible apply State.wr_onward
    | with_reducible refine State.Onward.ite ?_ ?_
    | split
    | fail_if_no_progress dsimp only
    | fail_if_no_progress with_reducible apply State.Onward.upd

theorem State.syncEpoch_onward {k : Nat} {e : Epoch} {s t : State} (h : s.Onward t) :
    s.Onward (State.syncEpoch k e t) := by
  unfold State.syncEpoch
  repeat' first
    | with_reducible assumption
    | (extract_lets -merge +onlyGivenNames x
       first
       | (have _f := fun a => x a
          clear _f
          unfold x
          clear x)
       | (refine onward_cut (P := State.Onward s x) ?_ (fun hx => ?_)
          on_goal 1 => (unfold x; clear x)
          on_goal 2 => clear_value x)
       | clear_value x
       | (unfold x; clear x)
       | clear x)
    | with_reducible apply State.install_onward
    | with_reducible apply State.npEv_onward
    | with_reducible apply State.setRole_onward
    | with_reducible apply Fabric.tally_onward
    | with_reducible apply State.tally_onward
    | with_reducible refine State.Onward.ite ?_ ?_
    | split
    | fail_if_no_progress dsimp only

theorem State.epochReceived_onward {k : Nat} {ok : Bool} {s t : State} (h : s.Onward t) :
    s.Onward (State.epochReceived k ok t) := by
  unfold State.epochReceived
  repeat' first
    | with_reducible assumption
    | (extract_lets -merge +onlyGivenNames x
       first
       | (have _f := fun a => x a
          clear _f
          unfold x
          clear x)
       | (refine onward_cut (P := State.Onward s x) ?_ (fun hx => ?_)
          on_goal 1 => (unfold x; clear x)
          on_goal 2 => clear_value x)
       | clear_value x
       | (unfold x; clear x)
       | clear x)
    | with_reducible apply State.handbackStep_onward
    | with_reducible apply State.install_onward
    | with_reducible apply State.letGo_onward
    | with_reducible apply State.setRole_onward
    | with_reducible apply State.syncEpoch_onward
    | with_reducible apply Fabric.tally_onward
    | with_reducible apply State.tally_onward
    | with_reducible apply State.updNet_onward
    | with_reducible refine State.Onward.ite ?_ ?_
    | split
    | fail_if_no_progress dsimp only
    | fail_if_no_progress with_reducible apply State.Onward.upd

theorem State.mirrorStale_onward {k : Nat} {s t : State} (h : s.Onward t) : s.Onward (State.mirrorStale k t) := by
  unfold State.mirrorStale
  repeat' first
    | with_reducible assumption
    | with_reducible apply State.handbackOff_onward
    | with_reducible apply State.npEv_onward
    | with_reducible apply Fabric.tally_onward
    | with_reducible apply State.tally_onward
    | with_reducible apply Fabric.wr_onward
    | with_reducible apply State.wr_onward
    | with_reducible refine State.Onward.ite ?_ ?_
    | split

theorem State.crookSilence_onward {k : Nat} {s t : State} (h : s.Onward t) : s.Onward (State.crookSilence k t) := by
  unfold State.crookSilence
  repeat' first
    | with_reducible assumption
    | (extract_lets -merge +onlyGivenNames x
       first
       | (have _f := fun a => x a
          clear _f
          unfold x
          clear x)
       | (refine onward_cut (P := State.Onward s x) ?_ (fun hx => ?_)
          on_goal 1 => (unfold x; clear x)
          on_goal 2 => clear_value x)
       | clear_value x
       | (unfold x; clear x)
       | clear x)
    | with_reducible apply Fabric.emit_onward
    | with_reducible apply State.emit_onward
    | with_reducible apply State.setRole_onward
    | with_reducible refine State.Onward.ite ?_ ?_
    | split
    | fail_if_no_progress dsimp only
    | fail_if_no_progress with_reducible apply State.Onward.upd

theorem State.announce_onward {k : Nat} {s t : State} (h : s.Onward t) : s.Onward (State.announce k t) := by
  unfold State.announce
  repeat' first
    | with_reducible assumption
    | with_reducible apply State.netSend_onward
    | (with_reducible refine State.Onward.foldl ?_ ?_
       on_goal 1 => intro _ _ _)
    | fail_if_no_progress dsimp only

theorem State.marker_onward {k : Nat} {f : Nat} {epoch : Nat} {base : Nat} {cause : Nat} {s t : State} (h : s.Onward t) :
    s.Onward (State.marker k f epoch base cause t) := by
  unfold State.marker
  repeat' first
    | with_reducible assumption
    | (extract_lets -merge +onlyGivenNames x
       first
       | (have _f := fun a => x a
          clear _f
          unfold x
          clear x)
       | (refine onward_cut (P := State.Onward s x) ?_ (fun hx => ?_)
          on_goal 1 => (unfold x; clear x)
          on_goal 2 => clear_value x)
       | (refine onward_cut (P := State.Onward s x.2) ?_ (fun hx => ?_)
          on_goal 1 => (unfold x; clear x)
          on_goal 2 => clear_value x)
       | (refine onward_cut (P := State.Onward s x.1) ?_ (fun hx => ?_)
          on_goal 1 => (unfold x; clear x)
          on_goal 2 => clear_value x)
       | clear_value x
       | (unfold x; clear x)
       | clear x)
    | with_reducible apply State.resolve_onward
    | with_reducible apply State.sendMarker_onward
    | with_reducible apply State.updFlow_onward
    | with_reducible refine State.Onward.ite ?_ ?_
    | split
    | fail_if_no_progress dsimp only
    | fail_if_no_progress with_reducible apply State.Onward.upd

theorem State.resumeFlows_onward {e : Epoch} {s t : State} (h : s.Onward t) : s.Onward (State.resumeFlows e t) := by
  unfold State.resumeFlows
  repeat' first
    | with_reducible assumption
    | (extract_lets -merge +onlyGivenNames x
       first
       | (have _f := fun a => x a
          clear _f
          unfold x
          clear x)
       | (refine onward_cut (P := State.Onward s x) ?_ (fun hx => ?_)
          on_goal 1 => (unfold x; clear x)
          on_goal 2 => clear_value x)
       | clear_value x
       | (unfold x; clear x)
       | clear x)
    | with_reducible apply State.setSeq_onward
    | with_reducible apply State.updFlow_onward
    | with_reducible apply Fabric.wrWide_onward
    | with_reducible apply State.wrWide_onward
    | (with_reducible refine State.Onward.foldl ?_ ?_
       on_goal 1 => intro _ _ _)
    | with_reducible refine State.Onward.ite ?_ ?_
    | split
    | fail_if_no_progress dsimp only
    | fail_if_no_progress with_reducible apply State.Onward.upd

theorem State.resumePtp_onward {e : Epoch} {s t : State} (h : s.Onward t) : s.Onward (State.resumePtp e t) := by
  unfold State.resumePtp
  repeat' first
    | with_reducible assumption
    | with_reducible apply State.updNet_onward
    | with_reducible apply State.updServo_onward
    | (with_reducible refine State.Onward.foldl ?_ ?_
       on_goal 1 => intro _ _ _)
    | (with_reducible refine State.Onward.foldl2 ?_ ?_
       on_goal 1 => intro _ _ _)
    | (with_reducible refine State.Onward.foldl1 ?_ ?_
       on_goal 1 => intro _ _ _)
    | with_reducible refine State.Onward.ite ?_ ?_
    | split
    | fail_if_no_progress dsimp only
    | fail_if_no_progress with_reducible apply State.Onward.upd

theorem State.resumeTables_onward {k : Nat} {e : Epoch} {s t : State} (h : s.Onward t) :
    s.Onward (State.resumeTables k e t) := by
  unfold State.resumeTables
  repeat' first
    | with_reducible assumption
    | (extract_lets -merge +onlyGivenNames x
       first
       | (have _f := fun a => x a
          clear _f
          unfold x
          clear x)
       | (refine onward_cut (P := State.Onward s x) ?_ (fun hx => ?_)
          on_goal 1 => (unfold x; clear x)
          on_goal 2 => clear_value x)
       | (refine onward_cut (P := State.Onward s x.2) ?_ (fun hx => ?_)
          on_goal 1 => (unfold x; clear x)
          on_goal 2 => clear_value x)
       | (refine onward_cut (P := State.Onward s x.1) ?_ (fun hx => ?_)
          on_goal 1 => (unfold x; clear x)
          on_goal 2 => clear_value x)
       | clear_value x
       | (unfold x; clear x)
       | clear x)
    | with_reducible apply State.updNet_onward
    | with_reducible apply State.updPath_onward
    | with_reducible apply Fabric.ww_onward
    | with_reducible apply State.ww_onward
    | (with_reducible refine State.Onward.foldl ?_ ?_
       on_goal 1 => intro _ _ _)
    | (with_reducible refine State.Onward.foldl2 ?_ ?_
       on_goal 1 => intro _ _ _)
    | (with_reducible refine State.Onward.foldl1 ?_ ?_
       on_goal 1 => intro _ _ _)
    | with_reducible refine State.Onward.ite ?_ ?_
    | split
    | fail_if_no_progress dsimp only
    | fail_if_no_progress with_reducible apply State.Onward.upd

theorem State.takeover_onward {k : Nat} {cause : Nat} {e : Epoch} {s t : State} (h : s.Onward t) :
    s.Onward (State.takeover k cause e t) := by
  unfold State.takeover
  repeat' first
    | with_reducible assumption
    | (extract_lets -merge +onlyGivenNames x
       first
       | (have _f := fun a => x a
          clear _f
          unfold x
          clear x)
       | (refine onward_cut (P := State.Onward s x) ?_ (fun hx => ?_)
          on_goal 1 => (unfold x; clear x)
          on_goal 2 => clear_value x)
       | clear_value x
       | (unfold x; clear x)
       | clear x)
    | with_reducible apply State.marker_onward
    | with_reducible apply State.resumeFlows_onward
    | with_reducible apply State.resumePtp_onward
    | with_reducible apply State.resumeTables_onward
    | with_reducible apply Fabric.tally_onward
    | with_reducible apply State.tally_onward
    | (with_reducible refine State.Onward.foldl ?_ ?_
       on_goal 1 => intro _ _ _)
    | with_reducible refine State.Onward.ite ?_ ?_
    | split
    | fail_if_no_progress dsimp only

theorem State.seize_onward {k : Nat} {s t : State} (h : s.Onward t) : s.Onward (State.seize k t) := by
  unfold State.seize
  repeat' first
    | with_reducible assumption
    | (extract_lets -merge +onlyGivenNames x
       first
       | (have _f := fun a => x a
          clear _f
          unfold x
          clear x)
       | (refine onward_cut (P := State.Onward s x) ?_ (fun hx => ?_)
          on_goal 1 => (unfold x; clear x)
          on_goal 2 => clear_value x)
       | clear_value x
       | (unfold x; clear x)
       | clear x)
    | with_reducible apply State.announce_onward
    | with_reducible apply State.listen_onward
    | with_reducible apply State.npEv_onward
    | with_reducible apply State.setHolder_onward
    | with_reducible apply State.setRole_onward
    | with_reducible apply State.takeover_onward
    | with_reducible apply State.updNet_onward
    | with_reducible apply State.updPath_onward
    | with_reducible refine State.Onward.ite ?_ ?_
    | split
    | fail_if_no_progress dsimp only
    | fail_if_no_progress with_reducible apply State.Onward.upd

theorem State.loopFault_onward {k : Nat} {s t : State} (h : s.Onward t) : s.Onward (State.loopFault k t) := by
  unfold State.loopFault
  repeat' first
    | with_reducible assumption
    | with_reducible apply State.npEv_onward
    | with_reducible apply Fabric.wr_onward
    | with_reducible apply State.wr_onward

theorem State.probeReturn_onward {k : Nat} {back : Bool} {s t : State} (h : s.Onward t) :
    s.Onward (State.probeReturn k back t) := by
  unfold State.probeReturn
  repeat' first
    | with_reducible assumption
    | with_reducible apply State.loopFault_onward
    | with_reducible apply State.seize_onward
    | with_reducible apply State.setRole_onward
    | with_reducible refine State.Onward.ite ?_ ?_
    | split

theorem State.crookPulse_onward {k : Nat} {back : Bool} {s t : State} (h : s.Onward t) :
    s.Onward (State.crookPulse k back t) := by
  unfold State.crookPulse
  repeat' first
    | with_reducible assumption
    | (extract_lets -merge +onlyGivenNames x
       first
       | (have _f := fun a => x a
          clear _f
          unfold x
          clear x)
       | (refine onward_cut (P := State.Onward s x) ?_ (fun hx => ?_)
          on_goal 1 => (unfold x; clear x)
          on_goal 2 => clear_value x)
       | clear_value x
       | (unfold x; clear x)
       | clear x)
    | with_reducible apply Fabric.emit_onward
    | with_reducible apply State.emit_onward
    | with_reducible apply State.netFlush_onward
    | with_reducible apply State.updPath_onward
    | with_reducible refine State.Onward.ite ?_ ?_
    | split
    | fail_if_no_progress dsimp only
    | fail_if_no_progress with_reducible apply State.Onward.upd

theorem State.loopCheckFail_onward {k : Nat} {s t : State} (h : s.Onward t) : s.Onward (State.loopCheckFail k t) := by
  unfold State.loopCheckFail
  repeat' first
    | with_reducible assumption
    | with_reducible apply State.letGo_onward
    | with_reducible apply State.loopFault_onward
    | with_reducible apply State.setRole_onward
    | with_reducible refine State.Onward.ite ?_ ?_
    | split

theorem State.contention_onward {k : Nat} {s t : State} (h : s.Onward t) : s.Onward (State.contention k t) := by
  unfold State.contention
  repeat' first
    | with_reducible assumption
    | (extract_lets -merge +onlyGivenNames x
       first
       | (have _f := fun a => x a
          clear _f
          unfold x
          clear x)
       | (refine onward_cut (P := State.Onward s x) ?_ (fun hx => ?_)
          on_goal 1 => (unfold x; clear x)
          on_goal 2 => clear_value x)
       | clear_value x
       | (unfold x; clear x)
       | clear x)
    | with_reducible apply State.letGo_onward
    | with_reducible apply State.listen_onward
    | with_reducible apply State.npEv_onward
    | with_reducible apply State.setRole_onward
    | with_reducible apply Fabric.tally_onward
    | with_reducible apply State.tally_onward
    | with_reducible apply State.updPath_onward
    | with_reducible apply Fabric.wr_onward
    | with_reducible apply State.wr_onward
    | (with_reducible refine State.Onward.foldl ?_ ?_
       on_goal 1 => intro _ _ _)
    | with_reducible refine State.Onward.ite ?_ ?_
    | split
    | fail_if_no_progress dsimp only
    | fail_if_no_progress with_reducible apply State.Onward.upd

theorem State.relayCut_onward {f : Nat} {last : Bool} {s t : State} (h : s.Onward t) :
    s.Onward (State.relayCut f last t) := by
  unfold State.relayCut
  repeat' first
    | with_reducible assumption
    | (extract_lets -merge +onlyGivenNames x
       first
       | (have _f := fun a => x a
          clear _f
          unfold x
          clear x)
       | (refine onward_cut (P := State.Onward s x) ?_ (fun hx => ?_)
          on_goal 1 => (unfold x; clear x)
          on_goal 2 => clear_value x)
       | clear_value x
       | (unfold x; clear x)
       | clear x)
    | with_reducible apply Fabric.tally_onward
    | with_reducible apply State.tally_onward
    | with_reducible apply State.updFlow_onward
    | with_reducible apply Fabric.wrWide_onward
    | with_reducible apply State.wrWide_onward
    | with_reducible refine State.Onward.ite ?_ ?_
    | split
    | fail_if_no_progress dsimp only
    | fail_if_no_progress with_reducible apply State.Onward.upd

theorem State.relayByte_onward {f : Nat} {b : Byte} {s t : State} (h : s.Onward t) :
    s.Onward (State.relayByte f b t) := by
  unfold State.relayByte
  repeat' first
    | with_reducible assumption
    | (extract_lets -merge +onlyGivenNames x
       first
       | (have _f := fun a => x a
          clear _f
          unfold x
          clear x)
       | (refine onward_cut (P := State.Onward s x) ?_ (fun hx => ?_)
          on_goal 1 => (unfold x; clear x)
          on_goal 2 => clear_value x)
       | clear_value x
       | (unfold x; clear x)
       | clear x)
    | with_reducible apply State.relayCut_onward
    | with_reducible apply State.updFlow_onward
    | with_reducible refine State.Onward.ite ?_ ?_
    | split
    | fail_if_no_progress dsimp only
    | fail_if_no_progress with_reducible apply State.Onward.upd

theorem State.relayBytes_onward {f : Nat} {l : List Byte} {s t : State} (h : s.Onward t) :
    s.Onward (State.relayBytes f l t) := by
  unfold State.relayBytes
  repeat' first
    | with_reducible assumption
    | with_reducible apply State.relayByte_onward
    | (with_reducible refine State.Onward.foldl ?_ ?_
       on_goal 1 => intro _ _ _)
    | fail_if_no_progress dsimp only

theorem State.relayEnd_onward {f : Nat} {s t : State} (h : s.Onward t) : s.Onward (State.relayEnd f t) := by
  unfold State.relayEnd
  repeat' first
    | with_reducible assumption
    | (extract_lets -merge +onlyGivenNames x
       first
       | (have _f := fun a => x a
          clear _f
          unfold x
          clear x)
       | (refine onward_cut (P := State.Onward s x) ?_ (fun hx => ?_)
          on_goal 1 => (unfold x; clear x)
          on_goal 2 => clear_value x)
       | clear_value x
       | (unfold x; clear x)
       | clear x)
    | with_reducible apply State.relayCut_onward
    | with_reducible apply State.updFlow_onward
    | fail_if_no_progress dsimp only
    | fail_if_no_progress with_reducible apply State.Onward.upd

theorem State.received_onward {k : Nat} {s t : State} (h : s.Onward t) : s.Onward (State.received k t) := by
  unfold State.received
  repeat' first
    | with_reducible assumption
    | with_reducible apply Fabric.tally_onward
    | with_reducible apply State.tally_onward

theorem State.rxDrop_onward {k : Nat} {s t : State} (h : s.Onward t) : s.Onward (State.rxDrop k t) := by
  unfold State.rxDrop
  repeat' first
    | with_reducible assumption
    | with_reducible apply Fabric.tally_onward
    | with_reducible apply State.tally_onward

theorem State.netRefused_onward {s t : State} (h : s.Onward t) : s.Onward (State.netRefused t) := by
  unfold State.netRefused
  repeat' first
    | with_reducible assumption
    | with_reducible apply Fabric.tally_onward
    | with_reducible apply State.tally_onward

theorem State.netReply_onward {k : Nat} {src : NetAddr} {port : Nat} {h' : List Byte} {payload : List Byte} {s t : State} (h : s.Onward t) :
    s.Onward (State.netReply k src port h' payload t) := by
  unfold State.netReply
  repeat' first
    | with_reducible assumption
    | (extract_lets -merge +onlyGivenNames x
       first
       | (have _f := fun a => x a
          clear _f
          unfold x
          clear x)
       | (refine onward_cut (P := State.Onward s x.2) ?_ (fun hx => ?_)
          on_goal 1 => (unfold x; clear x)
          on_goal 2 => clear_value x)
       | (refine onward_cut (P := State.Onward s x.1) ?_ (fun hx => ?_)
          on_goal 1 => (unfold x; clear x)
          on_goal 2 => clear_value x)
       | clear_value x
       | (unfold x; clear x)
       | clear x)
    | with_reducible apply State.netSend_onward
    | with_reducible apply State.resolve_onward
    | with_reducible refine State.Onward.ite ?_ ?_
    | split
    | fail_if_no_progress dsimp only
    | fail_if_no_progress with_reducible apply State.Onward.upd

theorem State.refuseRequest_onward {k : Nat} {flow : Option Nat} {q : NetRequest} {code : Nat} {s t : State} (h : s.Onward t) :
    s.Onward (State.refuseRequest k flow q code t) := by
  unfold State.refuseRequest
  repeat' first
    | with_reducible assumption
    | (extract_lets -merge +onlyGivenNames x
       first
       | (have _f := fun a => x a
          clear _f
          unfold x
          clear x)
       | (refine onward_cut (P := State.Onward s x) ?_ (fun hx => ?_)
          on_goal 1 => (unfold x; clear x)
          on_goal 2 => clear_value x)
       | clear_value x
       | (unfold x; clear x)
       | clear x)
    | with_reducible apply State.netRefused_onward
    | with_reducible apply State.netReply_onward
    | with_reducible apply State.npEv_onward
    | with_reducible apply State.setSeq_onward
    | with_reducible refine State.Onward.ite ?_ ?_
    | split
    | fail_if_no_progress dsimp only
    | fail_if_no_progress with_reducible apply State.Onward.upd

theorem State.request_onward {k : Nat} {st : Nat} {first : Nat} {count : Nat} {src : NetAddr} {port : Nat} {s t : State} (h : s.Onward t) :
    s.Onward (State.request k st first count src port t) := by
  unfold State.request
  repeat' first
    | with_reducible assumption
    | (extract_lets -merge +onlyGivenNames x
       first
       | (have _f := fun a => x a
          clear _f
          unfold x
          clear x)
       | (refine onward_cut (P := State.Onward s x.2) ?_ (fun hx => ?_)
          on_goal 1 => (unfold x; clear x)
          on_goal 2 => clear_value x)
       | (refine onward_cut (P := State.Onward s x.1) ?_ (fun hx => ?_)
          on_goal 1 => (unfold x; clear x)
          on_goal 2 => clear_value x)
       | clear_value x
       | (unfold x; clear x)
       | clear x)
    | with_reducible apply State.refuseRequest_onward
    | with_reducible apply State.rxDrop_onward
    | with_reducible apply State.updPath_onward
    | with_reducible refine State.Onward.ite ?_ ?_
    | split
    | fail_if_no_progress dsimp only
    | fail_if_no_progress with_reducible apply State.Onward.upd

theorem State.networkFreeze_onward {k : Nat} {src : NetAddr} {groups : Nat} {useT : Bool} {t' : Time} {s t : State} (h : s.Onward t) :
    s.Onward (State.networkFreeze k src groups useT t' t) := by
  unfold State.networkFreeze
  repeat' first
    | with_reducible assumption
    | (extract_lets -merge +onlyGivenNames x
       first
       | (have _f := fun a => x a
          clear _f
          unfold x
          clear x)
       | (refine onward_cut (P := State.Onward s x) ?_ (fun hx => ?_)
          on_goal 1 => (unfold x; clear x)
          on_goal 2 => clear_value x)
       | clear_value x
       | (unfold x; clear x)
       | clear x)
    | with_reducible apply State.freezeAt_onward
    | with_reducible apply State.netRefused_onward
    | with_reducible apply State.npEv_onward
    | with_reducible apply State.rxDrop_onward
    | (with_reducible refine State.Onward.foldl ?_ ?_
       on_goal 1 => intro _ _ _)
    | with_reducible refine State.Onward.ite ?_ ?_
    | split
    | fail_if_no_progress dsimp only

theorem State.flowCtrlWrite_onward {fn : Nat} {f : Nat} {w : Word} {s t : State} (h : s.Onward t) :
    s.Onward (State.flowCtrlWrite fn f w t) := by
  unfold State.flowCtrlWrite
  repeat' first
    | with_reducible assumption
    | (extract_lets -merge +onlyGivenNames x
       first
       | (have _f := fun a => x a
          clear _f
          unfold x
          clear x)
       | (refine onward_cut (P := State.Onward s x) ?_ (fun hx => ?_)
          on_goal 1 => (unfold x; clear x)
          on_goal 2 => clear_value x)
       | clear_value x
       | (unfold x; clear x)
       | clear x)
    | with_reducible apply State.marker_onward
    | with_reducible apply State.putWord_onward
    | with_reducible apply State.updFlow_onward
    | with_reducible refine State.Onward.ite ?_ ?_
    | split
    | fail_if_no_progress dsimp only
    | fail_if_no_progress with_reducible apply State.Onward.upd

theorem State.nbCtrlWrite_onward {fn : Nat} {i : Nat} {w : Word} {s t : State} (h : s.Onward t) :
    s.Onward (State.nbCtrlWrite fn i w t) := by
  unfold State.nbCtrlWrite
  repeat' first
    | with_reducible assumption
    | (extract_lets -merge +onlyGivenNames x
       first
       | (have _f := fun a => x a
          clear _f
          unfold x
          clear x)
       | (refine onward_cut (P := State.Onward s x) ?_ (fun hx => ?_)
          on_goal 1 => (unfold x; clear x)
          on_goal 2 => clear_value x)
       | clear_value x
       | (unfold x; clear x)
       | clear x)
    | with_reducible apply State.putWord_onward
    | with_reducible apply Fabric.wr_onward
    | with_reducible apply State.wr_onward
    | with_reducible refine State.Onward.ite ?_ ?_
    | split
    | fail_if_no_progress dsimp only

theorem State.ptpSend_onward {kind : Nat} {d : Nat} {body : List Byte} {s t : State} (h : s.Onward t) :
    s.Onward (State.ptpSend kind d body t) := by
  unfold State.ptpSend
  repeat' first
    | with_reducible assumption
    | with_reducible apply State.netSend_onward
    | with_reducible refine State.Onward.ite ?_ ?_
    | split
    | fail_if_no_progress with_reducible apply State.Onward.upd

theorem State.ptpTransmit_onward {d : Nat} {kind : Nat} {s t : State} (h : s.Onward t) :
    s.Onward (State.ptpTransmit d kind t) := by
  unfold State.ptpTransmit
  repeat' first
    | with_reducible assumption
    | (extract_lets -merge +onlyGivenNames x
       first
       | (have _f := fun a => x a
          clear _f
          unfold x
          clear x)
       | (refine onward_cut (P := State.Onward s x) ?_ (fun hx => ?_)
          on_goal 1 => (unfold x; clear x)
          on_goal 2 => clear_value x)
       | clear_value x
       | (unfold x; clear x)
       | clear x)
    | with_reducible apply State.ptpSend_onward
    | with_reducible apply State.updNet_onward
    | with_reducible refine State.Onward.ite ?_ ?_
    | split
    | fail_if_no_progress dsimp only
    | fail_if_no_progress with_reducible apply State.Onward.upd

theorem State.ptpManage_onward {d : Nat} {id : Nat} {set : Bool} {s t : State} (h : s.Onward t) :
    s.Onward (State.ptpManage d id set t) := by
  unfold State.ptpManage
  repeat' first
    | with_reducible assumption
    | (extract_lets -merge +onlyGivenNames x
       first
       | (have _f := fun a => x a
          clear _f
          unfold x
          clear x)
       | (refine onward_cut (P := State.Onward s x) ?_ (fun hx => ?_)
          on_goal 1 => (unfold x; clear x)
          on_goal 2 => clear_value x)
       | clear_value x
       | (unfold x; clear x)
       | clear x)
    | with_reducible apply State.ptpSend_onward
    | with_reducible refine State.Onward.ite ?_ ?_
    | split
    | fail_if_no_progress dsimp only

end Sys2Proof.Machine
end

