-- ==== Sys2Proof/Laws/Drovers.lean ====
section
/-! SUPPORT. What each operation of `Machine/Drovers.lean` keeps (see `Laws/Onward.lean`). -/
set_option linter.unusedTactic false
set_option linter.unreachableTactic false
set_option linter.tactic.unusedName false
namespace Sys2Proof.Machine

theorem State.setChan_onward {c : Nat} {x : Chan} {s t : State} (h : s.Onward t) :
    s.Onward (State.setChan t c x) := by
  unfold State.setChan
  repeat' first
    | with_reducible assumption
    | fail_if_no_progress dsimp only
    | fail_if_no_progress with_reducible apply State.Onward.upd

theorem State.updChan_onward {c : Nat} {g : Chan → Chan} {s t : State} (h : s.Onward t) :
    s.Onward (State.updChan t c g) := by
  unfold State.updChan
  repeat' first
    | with_reducible assumption
    | with_reducible apply State.setChan_onward

theorem State.setDrover_onward {d : Nat} {x : Drover} {s t : State} (h : s.Onward t) :
    s.Onward (State.setDrover t d x) := by
  unfold State.setDrover
  repeat' first
    | with_reducible assumption
    | fail_if_no_progress dsimp only
    | fail_if_no_progress with_reducible apply State.Onward.upd

theorem State.updDrover_onward {d : Nat} {g : Drover → Drover} {s t : State} (h : s.Onward t) :
    s.Onward (State.updDrover t d g) := by
  unfold State.updDrover
  repeat' first
    | with_reducible assumption
    | with_reducible apply State.setDrover_onward

theorem State.setChState_onward {c : Nat} {v : Nat} {s t : State} (h : s.Onward t) :
    s.Onward (State.setChState c v t) := by
  unfold State.setChState
  repeat' first
    | with_reducible assumption
    | with_reducible apply Fabric.wr_onward
    | with_reducible apply State.wr_onward

theorem State.chEvent_onward {c : Nat} {i : Nat} {sticky : FRef} {s t : State} (h : s.Onward t) :
    s.Onward (State.chEvent c i sticky t) := by
  unfold State.chEvent
  repeat' first
    | with_reducible assumption
    | (extract_lets -merge +onlyGivenNames x
       first
       | (have _f := fun a => x a
          clear _f
          unfold x
          clear x)
       | (refine onward_cut (P := State.Onward s x) ?_ (fun hx => ?_)
          on_goal 1 => (unfold x; clear x)
          on_goal 2 => clear_value x)
       | clear_value x
       | (unfold x; clear x)
       | clear x)
    | with_reducible apply State.raiseFor_onward
    | with_reducible apply Fabric.wr_onward
    | with_reducible apply State.wr_onward
    | fail_if_no_progress dsimp only

theorem State.heldSettle_onward {d : Nat} {s t : State} (h : s.Onward t) : s.Onward (State.heldSettle d t) := by
  unfold State.heldSettle
  repeat' first
    | with_reducible assumption
    | (extract_lets -merge +onlyGivenNames x
       first
       | (have _f := fun a => x a
          clear _f
          unfold x
          clear x)
       | (refine onward_cut (P := State.Onward s x) ?_ (fun hx => ?_)
          on_goal 1 => (unfold x; clear x)
          on_goal 2 => clear_value x)
       | clear_value x
       | (unfold x; clear x)
       | clear x)
    | with_reducible apply State.setDrover_onward
    | with_reducible apply Fabric.tally_onward
    | with_reducible apply State.tally_onward
    | with_reducible refine State.Onward.ite ?_ ?_
    | split
    | fail_if_no_progress dsimp only
    | fail_if_no_progress with_reducible apply State.Onward.upd

theorem State.countMoved_onward {c : Nat} {n : Nat} {s t : State} (h : s.Onward t) :
    s.Onward (State.countMoved c n t) := by
  unfold State.countMoved
  repeat' first
    | with_reducible assumption
    | (extract_lets -merge +onlyGivenNames x
       first
       | (have _f := fun a => x a
          clear _f
          unfold x
          clear x)
       | (refine onward_cut (P := State.Onward s x) ?_ (fun hx => ?_)
          on_goal 1 => (unfold x; clear x)
          on_goal 2 => clear_value x)
       | clear_value x
       | (unfold x; clear x)
       | clear x)
    | with_reducible apply Fabric.wrWide_onward
    | with_reducible apply State.wrWide_onward
    | fail_if_no_progress dsimp only

theorem State.select_onward {d : Nat} {s t : State} (h : s.Onward t) : s.Onward (State.select d t) := by
  unfold State.select
  repeat' first
    | with_reducible assumption
    | (extract_lets -merge +onlyGivenNames x
       first
       | (have _f := fun a => x a
          clear _f
          unfold x
          clear x)
       | (refine onward_cut (P := State.Onward s x) ?_ (fun hx => ?_)
          on_goal 1 => (unfold x; clear x)
          on_goal 2 => clear_value x)
       | clear_value x
       | (unfold x; clear x)
       | clear x)
    | with_reducible apply State.heldSettle_onward
    | with_reducible apply State.setChState_onward
    | with_reducible apply State.updDrover_onward
    | with_reducible apply Fabric.wr_onward
    | with_reducible apply State.wr_onward
    | with_reducible refine State.Onward.ite ?_ ?_
    | split
    | fail_if_no_progress dsimp only
    | fail_if_no_progress with_reducible apply State.Onward.upd

theorem State.release_onward {c : Nat} {s t : State} (h : s.Onward t) : s.Onward (State.release c t) := by
  unfold State.release
  repeat' first
    | with_reducible assumption
    | (extract_lets -merge +onlyGivenNames x
       first
       | (have _f := fun a => x a
          clear _f
          unfold x
          clear x)
       | (refine onward_cut (P := State.Onward s x) ?_ (fun hx => ?_)
          on_goal 1 => (unfold x; clear x)
          on_goal 2 => clear_value x)
       | clear_value x
       | (unfold x; clear x)
       | clear x)
    | with_reducible apply State.heldSettle_onward
    | with_reducible apply State.select_onward
    | with_reducible apply State.updDrover_onward
    | with_reducible refine State.Onward.ite ?_ ?_
    | split
    | fail_if_no_progress dsimp only
    | fail_if_no_progress with_reducible apply State.Onward.upd

theorem State.dropReads_onward {c : Nat} {s t : State} (h : s.Onward t) : s.Onward (State.dropReads c t) := by
  unfold State.dropReads
  repeat' first
    | with_reducible assumption
    | with_reducible apply State.updDrover_onward
    | with_reducible refine State.Onward.ite ?_ ?_
    | split
    | fail_if_no_progress dsimp only
    | fail_if_no_progress with_reducible apply State.Onward.upd

theorem State.enterStopped_onward {c : Nat} {cause : Nat} {s t : State} (h : s.Onward t) :
    s.Onward (State.enterStopped c cause t) := by
  unfold State.enterStopped
  repeat' first
    | with_reducible assumption
    | (extract_lets -merge +onlyGivenNames x
       first
       | (have _f := fun a => x a
          clear _f
          unfold x
          clear x)
       | (refine onward_cut (P := State.Onward s x) ?_ (fun hx => ?_)
          on_goal 1 => (unfold x; clear x)
          on_goal 2 => clear_value x)
       | clear_value x
       | (unfold x; clear x)
       | clear x)
    | with_reducible apply State.chEvent_onward
    | with_reducible apply Machine.drain_onward
    | with_reducible apply State.release_onward
    | with_reducible apply State.setChState_onward
    | with_reducible apply State.updChan_onward
    | with_reducible apply Fabric.wr_onward
    | with_reducible apply State.wr_onward
    | fail_if_no_progress dsimp only
    | fail_if_no_progress with_reducible apply State.Onward.upd

theorem State.stopNow_onward {c : Nat} {cause : Nat} {s t : State} (h : s.Onward t) :
    s.Onward (State.stopNow c cause t) := by
  unfold State.stopNow
  repeat' first
    | with_reducible assumption
    | (extract_lets -merge +onlyGivenNames x
       first
       | (have _f := fun a => x a
          clear _f
          unfold x
          clear x)
       | (refine onward_cut (P := State.Onward s x) ?_ (fun hx => ?_)
          on_goal 1 => (unfold x; clear x)
          on_goal 2 => clear_value x)
       | (refine onward_cut (P := State.Onward s x.2) ?_ (fun hx => ?_)
          on_goal 1 => (unfold x; clear x)
          on_goal 2 => clear_value x)
       | (refine onward_cut (P := State.Onward s x.1) ?_ (fun hx => ?_)
          on_goal 1 => (unfold x; clear x)
          on_goal 2 => clear_value x)
       | clear_value x
       | (unfold x; clear x)
       | clear x)
    | with_reducible apply State.draw_onward
    | with_reducible apply State.dropReads_onward
    | with_reducible apply State.enterStopped_onward
    | with_reducible apply State.relayEnd_onward
    | with_reducible apply State.updChan_onward
    | with_reducible apply Fabric.ww_onward
    | with_reducible apply State.ww_onward
    | with_reducible refine State.Onward.ite ?_ ?_
    | split
    | fail_if_no_progress dsimp only
    | fail_if_no_progress with_reducible apply State.Onward.upd

theorem State.chReset_onward {c : Nat} {s t : State} (h : s.Onward t) : s.Onward (State.chReset c t) := by
  unfold State.chReset
  repeat' first
    | with_reducible assumption
    | (extract_lets -merge +onlyGivenNames x
       first
       | (have _f := fun a => x a
          clear _f
          unfold x
          clear x)
       | (refine onward_cut (P := State.Onward s x) ?_ (fun hx => ?_)
          on_goal 1 => (unfold x; clear x)
          on_goal 2 => clear_value x)
       | clear_value x
       | (unfold x; clear x)
       | clear x)
    | with_reducible apply State.setChState_onward
    | with_reducible apply State.setChan_onward
    | with_reducible apply State.stopNow_onward
    | with_reducible apply Fabric.wr_onward
    | with_reducible apply State.wr_onward
    | with_reducible apply Fabric.wrWide_onward
    | with_reducible apply State.wrWide_onward
    | with_reducible refine State.Onward.ite ?_ ?_
    | split
    | fail_if_no_progress dsimp only

theorem State.chStart_onward {c : Nat} {s t : State} (h : s.Onward t) : s.Onward (State.chStart c t) := by
  unfold State.chStart
  repeat' first
    | with_reducible assumption
    | (extract_lets -merge +onlyGivenNames x
       first
       | (have _f := fun a => x a
          clear _f
          unfold x
          clear x)
       | (refine onward_cut (P := State.Onward s x) ?_ (fun hx => ?_)
          on_goal 1 => (unfold x; clear x)
          on_goal 2 => clear_value x)
       | clear_value x
       | (unfold x; clear x)
       | clear x)
    | with_reducible apply State.select_onward
    | with_reducible apply State.setChState_onward
    | with_reducible apply State.updChan_onward
    | with_reducible apply Fabric.wr_onward
    | with_reducible apply State.wr_onward
    | with_reducible refine State.Onward.ite ?_ ?_
    | split
    | fail_if_no_progress dsimp only
    | fail_if_no_progress with_reducible apply State.Onward.upd

theorem State.chCtrl_onward {fn : Nat} {c : Nat} {w : Word} {s t : State} (h : s.Onward t) :
    s.Onward (State.chCtrl fn c w t) := by
  unfold State.chCtrl
  repeat' first
    | with_reducible assumption
    | (extract_lets -merge +onlyGivenNames x
       first
       | (have _f := fun a => x a
          clear _f
          unfold x
          clear x)
       | (refine onward_cut (P := State.Onward s x) ?_ (fun hx => ?_)
          on_goal 1 => (unfold x; clear x)
          on_goal 2 => clear_value x)
       | clear_value x
       | (unfold x; clear x)
       | clear x)
    | with_reducible apply State.chReset_onward
    | with_reducible apply State.chStart_onward
    | with_reducible apply State.putWord_onward
    | with_reducible apply State.stopNow_onward
    | with_reducible refine State.Onward.ite ?_ ?_
    | split
    | fail_if_no_progress dsimp only

theorem State.chConfig_onward {fn : Nat} {c : Nat} {key : Nat} {w : Word} {s t : State} (h : s.Onward t) :
    s.Onward (State.chConfig fn c key w t) := by
  unfold State.chConfig
  repeat' first
    | with_reducible assumption
    | with_reducible apply State.putWord_onward
    | with_reducible apply Fabric.wr_onward
    | with_reducible apply State.wr_onward
    | with_reducible refine State.Onward.ite ?_ ?_
    | split

theorem State.setEntry_onward {c : Nat} {e : ListEntry} {s t : State} (h : s.Onward t) :
    s.Onward (State.setEntry c e t) := by
  unfold State.setEntry
  repeat' first
    | with_reducible assumption
    | with_reducible apply State.updChan_onward
    | fail_if_no_progress with_reducible apply State.Onward.upd

theorem State.chAbort_onward {c : Nat} {s t : State} (h : s.Onward t) : s.Onward (State.chAbort c t) := by
  unfold State.chAbort
  repeat' first
    | with_reducible assumption
    | (extract_lets -merge +onlyGivenNames x
       first
       | (have _f := fun a => x a
          clear _f
          unfold x
          clear x)
       | (refine onward_cut (P := State.Onward s x) ?_ (fun hx => ?_)
          on_goal 1 => (unfold x; clear x)
          on_goal 2 => clear_value x)
       | clear_value x
       | (unfold x; clear x)
       | clear x)
    | with_reducible apply State.chEvent_onward
    | with_reducible apply Machine.drain_onward
    | with_reducible apply State.dropReads_onward
    | with_reducible apply State.release_onward
    | with_reducible apply State.setChState_onward
    | with_reducible apply State.updChan_onward
    | fail_if_no_progress dsimp only
    | fail_if_no_progress with_reducible apply State.Onward.upd

theorem State.fetchFail_onward {c : Nat} {code : Nat} {s t : State} (h : s.Onward t) :
    s.Onward (State.fetchFail c code t) := by
  unfold State.fetchFail
  repeat' first
    | with_reducible assumption
    | with_reducible apply State.chAbort_onward
    | with_reducible apply Fabric.wr_onward
    | with_reducible apply State.wr_onward

theorem State.writeBack_onward {c : Nat} {e : ListEntry} {status : Nat} {s t : State} (h : s.Onward t) :
    s.Onward (State.writeBack c e status t) := by
  unfold State.writeBack
  repeat' first
    | with_reducible assumption
    | (extract_lets -merge +onlyGivenNames x
       first
       | (have _f := fun a => x a
          clear _f
          unfold x
          clear x)
       | (refine onward_cut (P := State.Onward s x) ?_ (fun hx => ?_)
          on_goal 1 => (unfold x; clear x)
          on_goal 2 => clear_value x)
       | clear_value x
       | (unfold x; clear x)
       | clear x)
    | with_reducible apply State.chEvent_onward
    | with_reducible apply State.dropReads_onward
    | with_reducible apply Fabric.emit_onward
    | with_reducible apply State.emit_onward
    | with_reducible apply State.relayEnd_onward
    | with_reducible apply Fabric.setBytes_onward
    | with_reducible apply State.setBytes_onward
    | with_reducible apply Fabric.tally_onward
    | with_reducible apply State.tally_onward
    | with_reducible apply State.updChan_onward
    | with_reducible apply State.updDrover_onward
    | with_reducible apply Fabric.wr_onward
    | with_reducible apply State.wr_onward
    | with_reducible refine State.Onward.ite ?_ ?_
    | split
    | fail_if_no_progress dsimp only
    | fail_if_no_progress with_reducible apply State.Onward.upd

theorem State.afterEntry_onward {c : Nat} {e : ListEntry} {s t : State} (h : s.Onward t) :
    s.Onward (State.afterEntry c e t) := by
  unfold State.afterEntry
  repeat' first
    | with_reducible assumption
    | (extract_lets -merge +onlyGivenNames x
       first
       | (have _f := fun a => x a
          clear _f
          unfold x
          clear x)
       | (refine onward_cut (P := State.Onward s x) ?_ (fun hx => ?_)
          on_goal 1 => (unfold x; clear x)
          on_goal 2 => clear_value x)
       | clear_value x
       | (unfold x; clear x)
       | clear x)
    | with_reducible apply State.chEvent_onward
    | with_reducible apply Machine.drain_onward
    | with_reducible apply State.enterStopped_onward
    | with_reducible apply State.release_onward
    | with_reducible apply State.setChState_onward
    | with_reducible apply State.updChan_onward
    | with_reducible refine State.Onward.ite ?_ ?_
    | split
    | fail_if_no_progress dsimp only
    | fail_if_no_progress with_reducible apply State.Onward.upd

theorem State.finishEntry_onward {c : Nat} {e : ListEntry} {status : Nat} {s t : State} (h : s.Onward t) :
    s.Onward (State.finishEntry c e status t) := by
  unfold State.finishEntry
  repeat' first
    | with_reducible assumption
    | with_reducible apply State.afterEntry_onward
    | with_reducible apply State.writeBack_onward

theorem State.takeLink_onward {c : Nat} {e : ListEntry} {bad : Bool} {s t : State} (h : s.Onward t) :
    s.Onward (State.takeLink c e bad t) := by
  unfold State.takeLink
  repeat' first
    | with_reducible assumption
    | (extract_lets -merge +onlyGivenNames x
       first
       | (have _f := fun a => x a
          clear _f
          unfold x
          clear x)
       | (refine onward_cut (P := State.Onward s x) ?_ (fun hx => ?_)
          on_goal 1 => (unfold x; clear x)
          on_goal 2 => clear_value x)
       | clear_value x
       | (unfold x; clear x)
       | clear x)
    | with_reducible apply State.chAbort_onward
    | with_reducible apply Machine.drain_onward
    | with_reducible apply State.enterStopped_onward
    | with_reducible apply State.updChan_onward
    | with_reducible apply State.writeBack_onward
    | with_reducible refine State.Onward.ite ?_ ?_
    | split
    | fail_if_no_progress dsimp only
    | fail_if_no_progress with_reducible apply State.Onward.upd

theorem State.takeEntry_onward {c : Nat} {raw : List Byte} {s t : State} (h : s.Onward t) :
    s.Onward (State.takeEntry c raw t) := by
  unfold State.takeEntry
  repeat' first
    | with_reducible assumption
    | (extract_lets -merge +onlyGivenNames x
       first
       | (have _f := fun a => x a
          clear _f
          unfold x
          clear x)
       | (refine onward_cut (P := State.Onward s x) ?_ (fun hx => ?_)
          on_goal 1 => (unfold x; clear x)
          on_goal 2 => clear_value x)
       | (refine onward_cut (P := Fabric.Onward s.fab x) ?_ (fun hx => ?_)
          on_goal 1 => (unfold x; clear x)
          on_goal 2 => clear_value x)
       | (refine onward_cut (P := Fabric.Onward s.fab x.2) ?_ (fun hx => ?_)
          on_goal 1 => (unfold x; clear x)
          on_goal 2 => clear_value x)
       | clear_value x
       | (unfold x; clear x)
       | clear x)
    | with_reducible apply State.finishEntry_onward
    | with_reducible apply State.setEntry_onward
    | with_reducible apply State.takeLink_onward
    | with_reducible apply State.updChan_onward
    | (with_reducible refine State.inFab_onward ?_ ?_
       on_goal 2 => intro _ _ _)
    | with_reducible refine State.Onward.ite ?_ ?_
    | split
    | fail_if_no_progress dsimp only
    | fail_if_no_progress with_reducible apply State.Onward.upd
    | with_reducible refine State.Onward.updFab ?_ ?_
    | with_reducible apply State.Onward.fab
    | fail_if_no_progress with_reducible apply Fabric.Onward.upd

theorem State.issueRead_onward {c : Nat} {list : Bool} {off : Nat} {addr : Nat} {len : Nat} {s t : State} (h : s.Onward t) :
    s.Onward (State.issueRead c list off addr len t) := by
  unfold State.issueRead
  repeat' first
    | with_reducible assumption
    | (extract_lets -merge +onlyGivenNames x
       first
       | (have _f := fun a => x a
          clear _f
          unfold x
          clear x)
       | (refine onward_cut (P := State.Onward s x) ?_ (fun hx => ?_)
          on_goal 1 => (unfold x; clear x)
          on_goal 2 => clear_value x)
       | clear_value x
       | (unfold x; clear x)
       | clear x)
    | with_reducible apply Fabric.emit_onward
    | with_reducible apply State.emit_onward
    | with_reducible apply State.setDrover_onward
    | fail_if_no_progress dsimp only
    | fail_if_no_progress with_reducible apply State.Onward.upd

theorem State.fetchEntry_onward {d : Nat} {s t : State} (h : s.Onward t) : s.Onward (State.fetchEntry d t) := by
  unfold State.fetchEntry
  repeat' first
    | with_reducible assumption
    | (extract_lets -merge +onlyGivenNames x
       first
       | (have _f := fun a => x a
          clear _f
          unfold x
          clear x)
       | (refine onward_cut (P := State.Onward s x) ?_ (fun hx => ?_)
          on_goal 1 => (unfold x; clear x)
          on_goal 2 => clear_value x)
       | clear_value x
       | (unfold x; clear x)
       | clear x)
    | with_reducible apply State.fetchFail_onward
    | with_reducible apply State.issueRead_onward
    | with_reducible apply State.takeEntry_onward
    | with_reducible apply State.updChan_onward
    | with_reducible apply Fabric.wrWide_onward
    | with_reducible apply State.wrWide_onward
    | with_reducible refine State.Onward.ite ?_ ?_
    | split
    | fail_if_no_progress dsimp only
    | fail_if_no_progress with_reducible apply State.Onward.upd
    | with_reducible refine State.Onward.updFab ?_ ?_
    | with_reducible apply State.Onward.fab

theorem State.putData_onward {c : Nat} {e : ListEntry} {l : List Byte} {s t : State} (h : s.Onward t) :
    s.Onward (State.putData c e l t) := by
  unfold State.putData
  repeat' first
    | with_reducible assumption
    | (extract_lets -merge +onlyGivenNames x
       first
       | (have _f := fun a => x a
          clear _f
          unfold x
          clear x)
       | (refine onward_cut (P := State.Onward s x) ?_ (fun hx => ?_)
          on_goal 1 => (unfold x; clear x)
          on_goal 2 => clear_value x)
       | clear_value x
       | (unfold x; clear x)
       | clear x)
    | with_reducible apply State.countMoved_onward
    | with_reducible apply Fabric.emit_onward
    | with_reducible apply State.emit_onward
    | with_reducible apply State.relayBytes_onward
    | with_reducible apply Fabric.setBytes_onward
    | with_reducible apply State.setBytes_onward
    | with_reducible apply State.updDrover_onward
    | with_reducible refine State.Onward.ite ?_ ?_
    | split
    | fail_if_no_progress dsimp only
    | fail_if_no_progress with_reducible apply State.Onward.upd

theorem State.popHead_onward {p : Nat} {s t : State} (h : s.Onward t) : s.Onward (State.popHead p t) := by
  unfold State.popHead
  repeat' first
    | with_reducible assumption
    | with_reducible apply State.penEval_onward
    | with_reducible apply Machine.penTake_onward
    | (with_reducible refine State.inFab_onward ?_ ?_
       on_goal 2 => intro _ _ _)

theorem State.popStep_onward {c : Nat} {e : ListEntry} {s t : State} {r : ListEntry × State} (h : s.Onward t)
    (k : State.popStep c e t = some r) : s.Onward r.2 := by
  unfold State.popStep at k
  extract_lets x p full closed want w take e' off s' ends at k
  have h' : s.Onward s' := State.popHead_onward (State.updChan_onward h)
  clear_value s'
  split at k
  · split at k <;> cases k
    exact State.putData_onward h
  · split at k
    · cases k
    · split at k
      · cases k
      · split at k <;> cases k
        · exact h'
        · dsimp only
          exact State.updChan_onward h


theorem State.copyStep_onward {c : Nat} {e : ListEntry} {s t : State} {r : ListEntry × State} (h : s.Onward t)
    (k : State.copyStep c e t = some r) : s.Onward r.2 := by
  unfold State.copyStep at k
  split at k
  · cases k
  · extract_lets key src n at_ s' at k
    split at k <;> cases k
    · exact State.wrWide_onward (State.putData_onward h)
    · exact h


theorem State.pushWord_onward {c : Nat} {e : ListEntry} {w l : List Byte} {b : Bool} {s t : State}
    {r : ListEntry × State} (h : s.Onward t) (k : State.pushWord c e w l b t = some r) : s.Onward r.2 := by
  simp only [State.pushWord] at k
  split at k
  · cases k
    dsimp only
    exact State.updChan_onward (State.penPush_onward h)
  · split at k <;> cases k
    dsimp only
    exact State.updChan_onward (State.penPush_onward h)

theorem State.pushStep_onward {c : Nat} {e : ListEntry} {s t : State} {r : ListEntry × State} (h : s.Onward t)
    (k : State.pushStep c e t = some r) : s.Onward r.2 := by
  unfold State.pushStep at k
  extract_lets x d p closed n at k
  split at k
  · exact State.pushWord_onward h k
  · split at k
    · split at k <;> cases k
      · exact h
      · exact State.countMoved_onward (State.updChan_onward h)
    · split at k
      · exact State.pushWord_onward h k
      · split at k
        · cases k
        · split at k
          · cases k
            exact h
          · split at k <;> cases k
            exact State.issueRead_onward h


theorem State.moveStep_onward {c : Nat} {e : ListEntry} {s t : State} {r : ListEntry × State} (h : s.Onward t)
    (k : State.moveStep c e t = some r) : s.Onward r.2 := by
  simp only [State.moveStep] at k
  split at k
  · exact State.pushStep_onward h k
  · split at k
    · cases k
    · split at k
      · exact State.popStep_onward h k
      · exact State.copyStep_onward h k


theorem State.moveLoop_onward {c n : Nat} {s t : State} (h : s.Onward t) : s.Onward (State.moveLoop c n t) := by
  induction n generalizing t with
  | zero => exact h
  | succ n ih =>
    rw [State.moveLoop]
    split
    · exact h
    · split
      · exact h
      · exact ih (State.setEntry_onward (State.moveStep_onward h ‹_›))


theorem State.noteCut_onward {c : Nat} {s t : State} (h : s.Onward t) : s.Onward (State.noteCut c t) := by
  unfold State.noteCut
  repeat' first
    | with_reducible assumption
    | (extract_lets -merge +onlyGivenNames x
       first
       | (have _f := fun a => x a
          clear _f
          unfold x
          clear x)
       | (refine onward_cut (P := State.Onward s x) ?_ (fun hx => ?_)
          on_goal 1 => (unfold x; clear x)
          on_goal 2 => clear_value x)
       | (refine onward_cut (P := Fabric.Onward s.fab x) ?_ (fun hx => ?_)
          on_goal 1 => (unfold x; clear x)
          on_goal 2 => clear_value x)
       | (refine onward_cut (P := Fabric.Onward s.fab x.2) ?_ (fun hx => ?_)
          on_goal 1 => (unfold x; clear x)
          on_goal 2 => clear_value x)
       | clear_value x
       | (unfold x; clear x)
       | clear x)
    | with_reducible apply State.setChan_onward
    | (with_reducible refine State.inFab_onward ?_ ?_
       on_goal 2 => intro _ _ _)
    | with_reducible refine State.Onward.ite ?_ ?_
    | split
    | fail_if_no_progress dsimp only
    | fail_if_no_progress with_reducible apply State.Onward.upd
    | with_reducible refine State.Onward.updFab ?_ ?_
    | with_reducible apply State.Onward.fab
    | fail_if_no_progress with_reducible apply Fabric.Onward.upd

theorem State.moves_onward {d : Nat} {s t : State} (h : s.Onward t) : s.Onward (State.moves d t) := by
  unfold State.moves
  repeat' first
    | with_reducible assumption
    | (extract_lets -merge +onlyGivenNames x
       first
       | (have _f := fun a => x a
          clear _f
          unfold x
          clear x)
       | (refine onward_cut (P := State.Onward s x) ?_ (fun hx => ?_)
          on_goal 1 => (unfold x; clear x)
          on_goal 2 => clear_value x)
       | clear_value x
       | (unfold x; clear x)
       | clear x)
    | with_reducible apply State.moveLoop_onward
    | with_reducible apply State.noteCut_onward
    | with_reducible refine State.Onward.ite ?_ ?_
    | split
    | fail_if_no_progress dsimp only
    | fail_if_no_progress with_reducible apply State.Onward.upd

theorem State.showState_onward {d : Nat} {s t : State} (h : s.Onward t) : s.Onward (State.showState d t) := by
  unfold State.showState
  repeat' first
    | with_reducible assumption
    | (extract_lets -merge +onlyGivenNames x
       first
       | (have _f := fun a => x a
          clear _f
          unfold x
          clear x)
       | (refine onward_cut (P := State.Onward s x) ?_ (fun hx => ?_)
          on_goal 1 => (unfold x; clear x)
          on_goal 2 => clear_value x)
       | clear_value x
       | (unfold x; clear x)
       | clear x)
    | with_reducible apply State.heldSettle_onward
    | with_reducible apply State.setChState_onward
    | with_reducible apply State.updDrover_onward
    | with_reducible apply Fabric.wr_onward
    | with_reducible apply State.wr_onward
    | with_reducible refine State.Onward.ite ?_ ?_
    | split
    | fail_if_no_progress dsimp only
    | fail_if_no_progress with_reducible apply State.Onward.upd

theorem State.pump_onward {d : Nat} {s t : State} (h : s.Onward t) : s.Onward (State.pump d t) := by
  unfold State.pump
  repeat' first
    | with_reducible assumption
    | with_reducible apply State.moves_onward
    | with_reducible apply State.showState_onward

theorem State.completeEntry_onward {d : Nat} {s t : State} (h : s.Onward t) : s.Onward (State.completeEntry d t) := by
  unfold State.completeEntry
  repeat' first
    | with_reducible assumption
    | (extract_lets -merge +onlyGivenNames x
       first
       | (have _f := fun a => x a
          clear _f
          unfold x
          clear x)
       | (refine onward_cut (P := State.Onward s x) ?_ (fun hx => ?_)
          on_goal 1 => (unfold x; clear x)
          on_goal 2 => clear_value x)
       | clear_value x
       | (unfold x; clear x)
       | clear x)
    | with_reducible apply State.finishEntry_onward
    | with_reducible apply State.moves_onward
    | with_reducible apply State.showState_onward
    | with_reducible refine State.Onward.ite ?_ ?_
    | split
    | fail_if_no_progress dsimp only
    | fail_if_no_progress with_reducible apply State.Onward.upd

theorem State.cutSettle_onward {p : Nat} {s t : State} (h : s.Onward t) : s.Onward (State.cutSettle p t) := by
  unfold State.cutSettle
  repeat' first
    | with_reducible assumption
    | with_reducible apply State.completeEntry_onward
    | (with_reducible refine State.Onward.foldl ?_ ?_
       on_goal 1 => intro _ _ _)
    | with_reducible refine State.Onward.ite ?_ ?_
    | split
    | fail_if_no_progress dsimp only
    | fail_if_no_progress with_reducible apply State.Onward.upd
    | with_reducible refine State.Onward.updFab ?_ ?_
    | with_reducible apply State.Onward.fab

theorem State.failEntry_onward {c : Nat} {code : Nat} {s t : State} (h : s.Onward t) :
    s.Onward (State.failEntry c code t) := by
  unfold State.failEntry
  repeat' first
    | with_reducible assumption
    | (extract_lets -merge +onlyGivenNames x
       first
       | (have _f := fun a => x a
          clear _f
          unfold x
          clear x)
       | (refine onward_cut (P := State.Onward s x.2) ?_ (fun hx => ?_)
          on_goal 1 => (unfold x; clear x)
          on_goal 2 => clear_value x)
       | (refine onward_cut (P := State.Onward s x.1) ?_ (fun hx => ?_)
          on_goal 1 => (unfold x; clear x)
          on_goal 2 => clear_value x)
       | clear_value x
       | (unfold x; clear x)
       | clear x)
    | with_reducible apply State.dropReads_onward
    | with_reducible apply State.setEntry_onward
    | with_reducible refine State.Onward.ite ?_ ?_
    | split
    | fail_if_no_progress dsimp only
    | fail_if_no_progress with_reducible apply State.Onward.upd

theorem State.readDone_onward {d : Nat} {tag : Nat} {err : Bool} {data : List Byte} {s t : State} (h : s.Onward t) :
    s.Onward (State.readDone d tag err data t) := by
  unfold State.readDone
  repeat' first
    | with_reducible assumption
    | (extract_lets -merge +onlyGivenNames x
       first
       | (have _f := fun a => x a
          clear _f
          unfold x
          clear x)
       | (refine onward_cut (P := State.Onward s x) ?_ (fun hx => ?_)
          on_goal 1 => (unfold x; clear x)
          on_goal 2 => clear_value x)
       | clear_value x
       | (unfold x; clear x)
       | clear x)
    | with_reducible apply State.failEntry_onward
    | with_reducible apply State.fetchFail_onward
    | with_reducible apply State.pump_onward
    | with_reducible apply State.setEntry_onward
    | with_reducible apply State.showState_onward
    | with_reducible apply State.takeEntry_onward
    | with_reducible apply Fabric.tally_onward
    | with_reducible apply State.tally_onward
    | with_reducible apply State.updDrover_onward
    | with_reducible refine State.Onward.ite ?_ ?_
    | split
    | fail_if_no_progress dsimp only
    | fail_if_no_progress with_reducible apply State.Onward.upd

theorem State.timeOut_onward {d : Nat} {write : Bool} {tag : Nat} {s t : State} (h : s.Onward t) :
    s.Onward (State.timeOut d write tag t) := by
  unfold State.timeOut
  repeat' first
    | with_reducible assumption
    | (extract_lets -merge +onlyGivenNames x
       first
       | (have _f := fun a => x a
          clear _f
          unfold x
          clear x)
       | (refine onward_cut (P := State.Onward s x) ?_ (fun hx => ?_)
          on_goal 1 => (unfold x; clear x)
          on_goal 2 => clear_value x)
       | clear_value x
       | (unfold x; clear x)
       | clear x)
    | with_reducible apply State.failEntry_onward
    | with_reducible apply State.fetchFail_onward
    | with_reducible apply State.moves_onward
    | with_reducible apply State.pump_onward
    | with_reducible apply State.showState_onward
    | with_reducible apply State.updDrover_onward
    | with_reducible refine State.Onward.ite ?_ ?_
    | split
    | fail_if_no_progress dsimp only
    | fail_if_no_progress with_reducible apply State.Onward.upd

theorem State.chDrain_onward {c : Nat} {s t : State} (h : s.Onward t) : s.Onward (State.chDrain c t) := by
  unfold State.chDrain
  repeat' first
    | with_reducible assumption
    | (extract_lets -merge +onlyGivenNames x
       first
       | (have _f := fun a => x a
          clear _f
          unfold x
          clear x)
       | (refine onward_cut (P := State.Onward s x) ?_ (fun hx => ?_)
          on_goal 1 => (unfold x; clear x)
          on_goal 2 => clear_value x)
       | clear_value x
       | (unfold x; clear x)
       | clear x)
    | with_reducible apply Machine.drain_onward
    | with_reducible apply State.enterStopped_onward
    | with_reducible apply State.setChan_onward
    | with_reducible refine State.Onward.ite ?_ ?_
    | split
    | fail_if_no_progress dsimp only
    | fail_if_no_progress with_reducible apply State.Onward.upd

end Sys2Proof.Machine
end

