-- ==== Sys2Proof/Laws/Measure.lean ====
section
/-! SUPPORT. What each operation of `Machine/Measure.lean` keeps (see `Laws/Onward.lean`). -/
set_option linter.unusedTactic false
set_option linter.unreachableTactic false
set_option linter.tactic.unusedName false
namespace Sys2Proof.Machine

theorem State.updShep_onward {g : Shepherd → Shepherd} {s t : State} (h : s.Onward t) :
    s.Onward (State.updShep t g) := by
  unfold State.updShep
  repeat' first
    | with_reducible assumption
    | fail_if_no_progress with_reducible apply State.Onward.upd

theorem State.setMeas_onward {i : Nat} {m : List Byte} {s t : State} (h : s.Onward t) :
    s.Onward (State.setMeas i m t) := by
  unfold State.setMeas
  repeat' first
    | with_reducible assumption
    | with_reducible apply Fabric.ww_onward
    | with_reducible apply State.ww_onward
    | (with_reducible refine State.Onward.foldl ?_ ?_
       on_goal 1 => intro _ _ _)
    | fail_if_no_progress dsimp only

theorem State.logExtension_onward {i : Nat} {d : List Byte} {s t : State} (h : s.Onward t) :
    s.Onward (State.logExtension i d t) := by
  unfold State.logExtension
  repeat' first
    | with_reducible assumption
    | with_reducible apply Fabric.raise_onward
    | with_reducible apply State.raise_onward
    | with_reducible apply State.updShep_onward
    | with_reducible apply Fabric.wr_onward
    | with_reducible apply State.wr_onward
    | with_reducible refine State.Onward.ite ?_ ?_
    | split
    | fail_if_no_progress dsimp only
    | fail_if_no_progress with_reducible apply State.Onward.upd

theorem State.extend_onward {i : Nat} {d : List Byte} {s t : State} (h : s.Onward t) :
    s.Onward (State.extend i d t) := by
  unfold State.extend
  repeat' first
    | with_reducible assumption
    | (extract_lets -merge +onlyGivenNames x
       first
       | (have _f := fun a => x a
          clear _f
          unfold x
          clear x)
       | (refine onward_cut (P := State.Onward s x) ?_ (fun hx => ?_)
          on_goal 1 => (unfold x; clear x)
          on_goal 2 => clear_value x)
       | clear_value x
       | (unfold x; clear x)
       | clear x)
    | with_reducible apply State.logExtension_onward
    | with_reducible apply Fabric.raise_onward
    | with_reducible apply State.raise_onward
    | with_reducible apply State.setMeas_onward
    | with_reducible apply Fabric.wr_onward
    | with_reducible apply State.wr_onward
    | fail_if_no_progress dsimp only

theorem State.extendSet_onward {s t : State} (h : s.Onward t) : s.Onward (State.extendSet t) := by
  unfold State.extendSet
  repeat' first
    | with_reducible assumption
    | with_reducible apply State.extend_onward
    | fail_if_no_progress dsimp only

theorem State.flashFail_onward {offset : Nat} {s t : State} (h : s.Onward t) :
    s.Onward (State.flashFail offset t) := by
  unfold State.flashFail
  repeat' first
    | with_reducible assumption
    | with_reducible apply Fabric.raise_onward
    | with_reducible apply State.raise_onward
    | with_reducible apply Fabric.tally_onward
    | with_reducible apply State.tally_onward

end Sys2Proof.Machine
end

