-- ==== Sys2Proof/Laws/Shepherd.lean ====
section
/-! SUPPORT. What each operation of `Machine/Shepherd.lean` keeps (see `Laws/Onward.lean`). -/
set_option linter.unusedTactic false
set_option linter.unreachableTactic false
set_option linter.tactic.unusedName false
namespace Sys2Proof.Machine

theorem State.startFirmware_onward {s t : State} (h : s.Onward t) : s.Onward (State.startFirmware t) := by
  unfold State.startFirmware
  repeat' first
    | with_reducible assumption
    | with_reducible apply State.extend_onward
    | with_reducible apply Fabric.raise_onward
    | with_reducible apply State.raise_onward
    | with_reducible apply Fabric.wr_onward
    | with_reducible apply State.wr_onward
    | with_reducible refine State.Onward.ite ?_ ?_
    | split
    | fail_if_no_progress dsimp only
    | fail_if_no_progress with_reducible apply State.Onward.upd

theorem State.cutActivation_onward {s t : State} (h : s.Onward t) : s.Onward (State.cutActivation t) := by
  unfold State.cutActivation
  repeat' first
    | with_reducible assumption
    | with_reducible refine State.Onward.ite ?_ ?_
    | split
    | fail_if_no_progress with_reducible apply State.Onward.upd

theorem State.setUpload_onward {u : Option Upload} {s t : State} (h : s.Onward t) :
    s.Onward (State.setUpload u t) := by
  unfold State.setUpload
  repeat' first
    | with_reducible assumption
    | fail_if_no_progress with_reducible apply State.Onward.upd

theorem State.setUploaded_onward {l : List Byte} {s t : State} (h : s.Onward t) :
    s.Onward (State.setUploaded l t) := by
  unfold State.setUploaded
  repeat' first
    | with_reducible assumption
    | with_reducible apply Fabric.wr_onward
    | with_reducible apply State.wr_onward
    | fail_if_no_progress with_reducible apply State.Onward.upd

theorem State.uploadOp_onward {t' : Transport} {firmware : Bool} {op : Nat} {arg : Nat} {payload : List Byte} {s t : State} (h : s.Onward t) :
    s.Onward (State.uploadOp t' firmware op arg payload t).2.2 := by
  unfold State.uploadOp
  repeat' first
    | with_reducible assumption
    | (extract_lets -merge +onlyGivenNames x
       first
       | (have _f := fun a => x a
          clear _f
          unfold x
          clear x)
       | (refine onward_cut (P := State.Onward s x) ?_ (fun hx => ?_)
          on_goal 1 => (unfold x; clear x)
          on_goal 2 => clear_value x)
       | clear_value x
       | (unfold x; clear x)
       | clear x)
    | with_reducible apply Fabric.raise_onward
    | with_reducible apply State.raise_onward
    | with_reducible apply State.setUpload_onward
    | with_reducible apply State.setUploaded_onward
    | with_reducible refine State.Onward.ite ?_ ?_
    | split
    | fail_if_no_progress dsimp only
    | fail_if_no_progress with_reducible apply State.Onward.upd

theorem State.doeReply_onward {body : List Byte} {s t : State} (h : s.Onward t) :
    s.Onward (State.doeReply body t) := by
  unfold State.doeReply
  repeat' first
    | with_reducible assumption
    | (extract_lets -merge +onlyGivenNames x
       first
       | (have _f := fun a => x a
          clear _f
          unfold x
          clear x)
       | (refine onward_cut (P := State.Onward s x) ?_ (fun hx => ?_)
          on_goal 1 => (unfold x; clear x)
          on_goal 2 => clear_value x)
       | clear_value x
       | (unfold x; clear x)
       | clear x)
    | with_reducible apply Fabric.emit_onward
    | with_reducible apply State.emit_onward
    | with_reducible apply Fabric.raise_onward
    | with_reducible apply State.raise_onward
    | fail_if_no_progress dsimp only

theorem State.uploadObject_onward {op : Nat} {arg : Nat} {payload : List Byte} {s t : State} (h : s.Onward t) :
    s.Onward (State.uploadObject op arg payload t) := by
  unfold State.uploadObject
  repeat' first
    | with_reducible assumption
    | (extract_lets -merge +onlyGivenNames x
       first
       | (have _f := fun a => x a
          clear _f
          unfold x
          clear x)
       | (refine onward_cut (P := State.Onward s x.2) ?_ (fun hx => ?_)
          on_goal 1 => (unfold x; clear x)
          on_goal 2 => clear_value x)
       | (refine onward_cut (P := State.Onward s x.1) ?_ (fun hx => ?_)
          on_goal 1 => (unfold x; clear x)
          on_goal 2 => clear_value x)
       | (refine onward_cut (P := State.Onward s x.2.2) ?_ (fun hx => ?_)
          on_goal 1 => (unfold x; clear x)
          on_goal 2 => clear_value x)
       | clear_value x
       | (unfold x; clear x)
       | clear x)
    | with_reducible apply State.doeReply_onward
    | with_reducible apply State.uploadOp_onward
    | with_reducible refine State.Onward.ite ?_ ?_
    | split
    | fail_if_no_progress dsimp only

theorem State.objectArrives_onward {op : Nat} {arg : Nat} {payload : List Byte} {s t : State} (h : s.Onward t) :
    s.Onward (State.objectArrives op arg payload t) := by
  unfold State.objectArrives
  repeat' first
    | with_reducible assumption
    | with_reducible apply State.updShep_onward
    | with_reducible apply State.uploadObject_onward
    | with_reducible refine State.Onward.ite ?_ ?_
    | split
    | fail_if_no_progress dsimp only
    | fail_if_no_progress with_reducible apply State.Onward.upd

theorem State.mailboxDone_onward {status : Nat} {progress : Nat} {s t : State} (h : s.Onward t) :
    s.Onward (State.mailboxDone status progress t) := by
  unfold State.mailboxDone
  repeat' first
    | with_reducible assumption
    | with_reducible apply State.updShep_onward
    | with_reducible apply Fabric.wr_onward
    | with_reducible apply State.wr_onward
    | fail_if_no_progress dsimp only
    | fail_if_no_progress with_reducible apply State.Onward.upd

theorem State.freeProgress_onward {status : Nat} {s t : State} (h : s.Onward t) :
    s.Onward (State.freeProgress status t) := by
  unfold State.freeProgress
  repeat' first
    | with_reducible assumption
    | (extract_lets -merge +onlyGivenNames x
       first
       | (have _f := fun a => x a
          clear _f
          unfold x
          clear x)
       | (refine onward_cut (P := State.Onward s x) ?_ (fun hx => ?_)
          on_goal 1 => (unfold x; clear x)
          on_goal 2 => clear_value x)
       | (refine onward_cut (P := State.Onward s x.2) ?_ (fun hx => ?_)
          on_goal 1 => (unfold x; clear x)
          on_goal 2 => clear_value x)
       | (refine onward_cut (P := State.Onward s x.1) ?_ (fun hx => ?_)
          on_goal 1 => (unfold x; clear x)
          on_goal 2 => clear_value x)
       | clear_value x
       | (unfold x; clear x)
       | clear x)
    | with_reducible apply State.draw_onward
    | with_reducible apply State.mailboxDone_onward
    | fail_if_no_progress dsimp only

theorem State.readLog_onward {s t : State} (h : s.Onward t) : s.Onward (State.readLog t) := by
  unfold State.readLog
  repeat' first
    | with_reducible assumption
    | (extract_lets -merge +onlyGivenNames x
       first
       | (have _f := fun a => x a
          clear _f
          unfold x
          clear x)
       | (refine onward_cut (P := State.Onward s x) ?_ (fun hx => ?_)
          on_goal 1 => (unfold x; clear x)
          on_goal 2 => clear_value x)
       | clear_value x
       | (unfold x; clear x)
       | clear x)
    | with_reducible apply State.freeProgress_onward
    | with_reducible apply Fabric.ww_onward
    | with_reducible apply State.ww_onward
    | (with_reducible refine State.Onward.foldl ?_ ?_
       on_goal 1 => intro _ _ _)
    | with_reducible refine State.Onward.ite ?_ ?_
    | split
    | fail_if_no_progress dsimp only
    | fail_if_no_progress with_reducible apply State.Onward.upd

theorem State.restartFirmware_onward {cause : Nat} {s t : State} (h : s.Onward t) :
    s.Onward (State.restartFirmware cause t) := by
  unfold State.restartFirmware
  repeat' first
    | with_reducible assumption
    | with_reducible apply State.cutActivation_onward
    | with_reducible apply Fabric.raise_onward
    | with_reducible apply State.raise_onward
    | with_reducible apply State.startFirmware_onward

theorem State.restartOp_onward {s t : State} (h : s.Onward t) : s.Onward (State.restartOp t) := by
  unfold State.restartOp
  repeat' first
    | with_reducible assumption
    | with_reducible apply State.freeProgress_onward
    | with_reducible apply State.restartFirmware_onward
    | with_reducible refine State.Onward.ite ?_ ?_
    | split

theorem State.mailboxServe_onward {op : Nat} {s t : State} (h : s.Onward t) : s.Onward (State.mailboxServe op t) := by
  unfold State.mailboxServe
  repeat' first
    | with_reducible assumption
    | (extract_lets -merge +onlyGivenNames x
       first
       | (have _f := fun a => x a
          clear _f
          unfold x
          clear x)
       | (refine onward_cut (P := State.Onward s x) ?_ (fun hx => ?_)
          on_goal 1 => (unfold x; clear x)
          on_goal 2 => clear_value x)
       | (refine onward_cut (P := State.Onward s x.2) ?_ (fun hx => ?_)
          on_goal 1 => (unfold x; clear x)
          on_goal 2 => clear_value x)
       | (refine onward_cut (P := State.Onward s x.1) ?_ (fun hx => ?_)
          on_goal 1 => (unfold x; clear x)
          on_goal 2 => clear_value x)
       | (refine onward_cut (P := State.Onward s x.2.2) ?_ (fun hx => ?_)
          on_goal 1 => (unfold x; clear x)
          on_goal 2 => clear_value x)
       | clear_value x
       | (unfold x; clear x)
       | clear x)
    | with_reducible apply State.mailboxDone_onward
    | with_reducible apply State.readLog_onward
    | with_reducible apply State.restartOp_onward
    | with_reducible apply State.updShep_onward
    | with_reducible apply State.uploadOp_onward
    | with_reducible refine State.Onward.ite ?_ ?_
    | split
    | fail_if_no_progress dsimp only
    | fail_if_no_progress with_reducible apply State.Onward.upd

theorem State.mailboxCmd_onward {fn : Nat} {w : Word} {s t : State} (h : s.Onward t) :
    s.Onward (State.mailboxCmd fn w t) := by
  unfold State.mailboxCmd
  repeat' first
    | with_reducible assumption
    | (extract_lets -merge +onlyGivenNames x
       first
       | (have _f := fun a => x a
          clear _f
          unfold x
          clear x)
       | (refine onward_cut (P := State.Onward s x) ?_ (fun hx => ?_)
          on_goal 1 => (unfold x; clear x)
          on_goal 2 => clear_value x)
       | clear_value x
       | (unfold x; clear x)
       | clear x)
    | with_reducible apply State.mailboxServe_onward
    | with_reducible apply State.putWord_onward
    | with_reducible apply State.updShep_onward
    | with_reducible apply Fabric.wr_onward
    | with_reducible apply State.wr_onward
    | with_reducible refine State.Onward.ite ?_ ?_
    | split
    | fail_if_no_progress dsimp only
    | fail_if_no_progress with_reducible apply State.Onward.upd

theorem State.mailboxOp_onward {op : Nat} {arg : Nat} {data : List Byte} {s t : State} (h : s.Onward t) :
    s.Onward (State.mailboxOp op arg data t) := by
  unfold State.mailboxOp
  repeat' first
    | with_reducible assumption
    | (extract_lets -merge +onlyGivenNames x
       first
       | (have _f := fun a => x a
          clear _f
          unfold x
          clear x)
       | (refine onward_cut (P := State.Onward s x) ?_ (fun hx => ?_)
          on_goal 1 => (unfold x; clear x)
          on_goal 2 => clear_value x)
       | clear_value x
       | (unfold x; clear x)
       | clear x)
    | with_reducible apply State.mailboxCmd_onward
    | with_reducible apply Fabric.wr_onward
    | with_reducible apply State.wr_onward
    | with_reducible apply Fabric.ww_onward
    | with_reducible apply State.ww_onward
    | (with_reducible refine State.Onward.foldl ?_ ?_
       on_goal 1 => intro _ _ _)
    | with_reducible refine State.Onward.ite ?_ ?_
    | split
    | fail_if_no_progress dsimp only

theorem State.firmwareWritten_onward {fail : Bool} {s t : State} (h : s.Onward t) :
    s.Onward (State.firmwareWritten fail t) := by
  unfold State.firmwareWritten
  repeat' first
    | with_reducible assumption
    | (extract_lets -merge +onlyGivenNames x
       first
       | (have _f := fun a => x a
          clear _f
          unfold x
          clear x)
       | (refine onward_cut (P := State.Onward s x) ?_ (fun hx => ?_)
          on_goal 1 => (unfold x; clear x)
          on_goal 2 => clear_value x)
       | clear_value x
       | (unfold x; clear x)
       | clear x)
    | with_reducible apply State.flashFail_onward
    | with_reducible apply State.mailboxDone_onward
    | with_reducible apply Fabric.raise_onward
    | with_reducible apply State.raise_onward
    | with_reducible apply State.setUpload_onward
    | with_reducible apply State.updShep_onward
    | with_reducible refine State.Onward.ite ?_ ?_
    | split
    | fail_if_no_progress dsimp only
    | fail_if_no_progress with_reducible apply State.Onward.upd

theorem State.serveWaiting_onward {s t : State} (h : s.Onward t) : s.Onward (State.serveWaiting t) := by
  unfold State.serveWaiting
  repeat' first
    | with_reducible assumption
    | (extract_lets -merge +onlyGivenNames x
       first
       | (have _f := fun a => x a
          clear _f
          unfold x
          clear x)
       | (refine onward_cut (P := State.Onward s x) ?_ (fun hx => ?_)
          on_goal 1 => (unfold x; clear x)
          on_goal 2 => clear_value x)
       | (refine onward_cut (P := State.Onward s x.2) ?_ (fun hx => ?_)
          on_goal 1 => (unfold x; clear x)
          on_goal 2 => clear_value x)
       | (refine onward_cut (P := State.Onward s x.1) ?_ (fun hx => ?_)
          on_goal 1 => (unfold x; clear x)
          on_goal 2 => clear_value x)
       | (refine onward_cut (P := State.Onward s x.2.2) ?_ (fun hx => ?_)
          on_goal 1 => (unfold x; clear x)
          on_goal 2 => clear_value x)
       | clear_value x
       | (unfold x; clear x)
       | clear x)
    | with_reducible apply State.mailboxServe_onward
    | with_reducible apply State.updShep_onward
    | with_reducible apply State.uploadObject_onward
    | (with_reducible refine State.Onward.foldl ?_ ?_
       on_goal 1 => intro _ _ _)
    | (with_reducible refine State.Onward.foldl2 ?_ ?_
       on_goal 1 => intro _ _ _)
    | (with_reducible refine State.Onward.foldl1 ?_ ?_
       on_goal 1 => intro _ _ _)
    | with_reducible refine State.Onward.ite ?_ ?_
    | split
    | fail_if_no_progress dsimp only
    | fail_if_no_progress with_reducible apply State.Onward.upd

theorem State.spdmSend_onward {transport : Nat} {code : Nat} {p1 : Nat} {p2 : Nat} {body : List Byte} {s t : State} (h : s.Onward t) :
    s.Onward (State.spdmSend transport code p1 p2 body t) := by
  unfold State.spdmSend
  repeat' first
    | with_reducible assumption
    | (extract_lets -merge +onlyGivenNames x
       first
       | (have _f := fun a => x a
          clear _f
          unfold x
          clear x)
       | (refine onward_cut (P := State.Onward s x) ?_ (fun hx => ?_)
          on_goal 1 => (unfold x; clear x)
          on_goal 2 => clear_value x)
       | clear_value x
       | (unfold x; clear x)
       | clear x)
    | with_reducible apply Fabric.emit_onward
    | with_reducible apply State.emit_onward
    | with_reducible apply Fabric.raise_onward
    | with_reducible apply State.raise_onward
    | with_reducible refine State.Onward.ite ?_ ?_
    | split
    | fail_if_no_progress dsimp only

theorem State.spdmError_onward {transport : Nat} {code : Nat} {data : Nat} {s t : State} (h : s.Onward t) :
    s.Onward (State.spdmError transport code data t) := by
  unfold State.spdmError
  repeat' first
    | with_reducible assumption
    | with_reducible apply State.spdmSend_onward

theorem State.spdmSigned_onward {transport : Nat} {code : Nat} {p1 : Nat} {p2 : Nat} {body : List Byte} {s t : State} (h : s.Onward t) :
    s.Onward (State.spdmSigned transport code p1 p2 body t) := by
  unfold State.spdmSigned
  repeat' first
    | with_reducible assumption
    | (extract_lets -merge +onlyGivenNames x
       first
       | (have _f := fun a => x a
          clear _f
          unfold x
          clear x)
       | (refine onward_cut (P := State.Onward s x) ?_ (fun hx => ?_)
          on_goal 1 => (unfold x; clear x)
          on_goal 2 => clear_value x)
       | (refine onward_cut (P := State.Onward s x.2) ?_ (fun hx => ?_)
          on_goal 1 => (unfold x; clear x)
          on_goal 2 => clear_value x)
       | (refine onward_cut (P := State.Onward s x.1) ?_ (fun hx => ?_)
          on_goal 1 => (unfold x; clear x)
          on_goal 2 => clear_value x)
       | clear_value x
       | (unfold x; clear x)
       | clear x)
    | with_reducible apply State.draw_onward
    | with_reducible apply Fabric.raise_onward
    | with_reducible apply State.raise_onward
    | with_reducible apply State.spdmSend_onward
    | fail_if_no_progress dsimp only

theorem State.spdmServe_onward {transport : Nat} {r : SpdmRequest} {s t : State} (h : s.Onward t) :
    s.Onward (State.spdmServe transport r t) := by
  unfold State.spdmServe
  repeat' first
    | with_reducible assumption
    | (extract_lets -merge +onlyGivenNames x
       first
       | (have _f := fun a => x a
          clear _f
          unfold x
          clear x)
       | (refine onward_cut (P := State.Onward s x) ?_ (fun hx => ?_)
          on_goal 1 => (unfold x; clear x)
          on_goal 2 => clear_value x)
       | (refine onward_cut (P := State.Onward s x.2) ?_ (fun hx => ?_)
          on_goal 1 => (unfold x; clear x)
          on_goal 2 => clear_value x)
       | (refine onward_cut (P := State.Onward s x.1) ?_ (fun hx => ?_)
          on_goal 1 => (unfold x; clear x)
          on_goal 2 => clear_value x)
       | clear_value x
       | (unfold x; clear x)
       | clear x)
    | with_reducible apply State.draw_onward
    | with_reducible apply State.spdmError_onward
    | with_reducible apply State.spdmSend_onward
    | with_reducible apply State.spdmSigned_onward
    | with_reducible refine State.Onward.ite ?_ ?_
    | split
    | fail_if_no_progress dsimp only
    | fail_if_no_progress with_reducible apply State.Onward.upd

theorem State.setDeferred_onward {transport : Nat} {r : Option SpdmRequest} {s t : State} (h : s.Onward t) :
    s.Onward (State.setDeferred transport r t) := by
  unfold State.setDeferred
  repeat' first
    | with_reducible assumption
    | with_reducible apply State.updShep_onward
    | fail_if_no_progress dsimp only
    | fail_if_no_progress with_reducible apply State.Onward.upd

theorem State.spdmNotReady_onward {transport : Nat} {r : SpdmRequest} {s t : State} (h : s.Onward t) :
    s.Onward (State.spdmNotReady transport r t) := by
  unfold State.spdmNotReady
  repeat' first
    | with_reducible assumption
    | (extract_lets -merge +onlyGivenNames x
       first
       | (have _f := fun a => x a
          clear _f
          unfold x
          clear x)
       | (refine onward_cut (P := State.Onward s x) ?_ (fun hx => ?_)
          on_goal 1 => (unfold x; clear x)
          on_goal 2 => clear_value x)
       | clear_value x
       | (unfold x; clear x)
       | clear x)
    | with_reducible apply State.setDeferred_onward
    | with_reducible apply State.spdmSend_onward
    | with_reducible apply State.updShep_onward
    | fail_if_no_progress dsimp only
    | fail_if_no_progress with_reducible apply State.Onward.upd

theorem State.spdmRequest_onward {transport : Nat} {r : SpdmRequest} {s t : State} (h : s.Onward t) :
    s.Onward (State.spdmRequest transport r t) := by
  unfold State.spdmRequest
  repeat' first
    | with_reducible assumption
    | with_reducible apply State.setDeferred_onward
    | with_reducible apply State.spdmError_onward
    | with_reducible apply State.spdmNotReady_onward
    | with_reducible apply State.spdmServe_onward
    | with_reducible refine State.Onward.ite ?_ ?_
    | split
    | fail_if_no_progress with_reducible apply State.Onward.upd

theorem State.mctpReply_onward {cmd : Nat} {code : Nat} {data : List Byte} {s t : State} (h : s.Onward t) :
    s.Onward (State.mctpReply cmd code data t) := by
  unfold State.mctpReply
  repeat' first
    | with_reducible assumption
    | with_reducible apply Fabric.emit_onward
    | with_reducible apply State.emit_onward

theorem State.healthAppend_onward {fail : Bool} {s t : State} (h : s.Onward t) :
    s.Onward (State.healthAppend fail t) := by
  unfold State.healthAppend
  repeat' first
    | with_reducible assumption
    | (extract_lets -merge +onlyGivenNames x
       first
       | (have _f := fun a => x a
          clear _f
          unfold x
          clear x)
       | (refine onward_cut (P := State.Onward s x) ?_ (fun hx => ?_)
          on_goal 1 => (unfold x; clear x)
          on_goal 2 => clear_value x)
       | (refine onward_cut (P := State.Onward s x.2) ?_ (fun hx => ?_)
          on_goal 1 => (unfold x; clear x)
          on_goal 2 => clear_value x)
       | (refine onward_cut (P := State.Onward s x.1) ?_ (fun hx => ?_)
          on_goal 1 => (unfold x; clear x)
          on_goal 2 => clear_value x)
       | clear_value x
       | (unfold x; clear x)
       | clear x)
    | with_reducible apply State.flashFail_onward
    | with_reducible apply State.updShep_onward
    | with_reducible refine State.Onward.ite ?_ ?_
    | split
    | fail_if_no_progress dsimp only
    | fail_if_no_progress with_reducible apply State.Onward.upd

theorem State.healthWrite_onward {fail : Bool} {s t : State} (h : s.Onward t) :
    s.Onward (State.healthWrite fail t) := by
  unfold State.healthWrite
  repeat' first
    | with_reducible assumption
    | (extract_lets -merge +onlyGivenNames x
       first
       | (have _f := fun a => x a
          clear _f
          unfold x
          clear x)
       | (refine onward_cut (P := State.Onward s x) ?_ (fun hx => ?_)
          on_goal 1 => (unfold x; clear x)
          on_goal 2 => clear_value x)
       | clear_value x
       | (unfold x; clear x)
       | clear x)
    | with_reducible apply State.healthAppend_onward
    | with_reducible apply Fabric.tally_onward
    | with_reducible apply State.tally_onward
    | with_reducible apply State.updShep_onward
    | with_reducible refine State.Onward.ite ?_ ?_
    | split
    | fail_if_no_progress dsimp only
    | fail_if_no_progress with_reducible apply State.Onward.upd

theorem State.healthLoad_onward {s t : State} (h : s.Onward t) : s.Onward (State.healthLoad t) := by
  unfold State.healthLoad
  repeat' first
    | with_reducible assumption
    | with_reducible apply Fabric.ww_onward
    | with_reducible apply State.ww_onward
    | (with_reducible refine State.Onward.foldl ?_ ?_
       on_goal 1 => intro _ _ _)
    | (with_reducible refine State.Onward.foldl2 ?_ ?_
       on_goal 1 => intro _ _ _)
    | (with_reducible refine State.Onward.foldl1 ?_ ?_
       on_goal 1 => intro _ _ _)
    | with_reducible refine State.Onward.ite ?_ ?_
    | split
    | fail_if_no_progress dsimp only
    | fail_if_no_progress with_reducible apply State.Onward.upd

theorem State.stepFold_onward {temps : List Int} {f : Nat} {s t : State} (h : s.Onward t) :
    s.Onward (State.stepFold temps f t) := by
  unfold State.stepFold
  repeat' first
    | with_reducible assumption
    | (extract_lets -merge +onlyGivenNames x
       first
       | (have _f := fun a => x a
          clear _f
          unfold x
          clear x)
       | (refine onward_cut (P := State.Onward s x) ?_ (fun hx => ?_)
          on_goal 1 => (unfold x; clear x)
          on_goal 2 => clear_value x)
       | clear_value x
       | (unfold x; clear x)
       | clear x)
    | with_reducible apply State.updShep_onward
    | with_reducible apply Fabric.wr_onward
    | with_reducible apply State.wr_onward
    | with_reducible refine State.Onward.ite ?_ ?_
    | split
    | fail_if_no_progress dsimp only
    | fail_if_no_progress with_reducible apply State.Onward.upd

theorem State.stepJoin_onward {s t : State} (h : s.Onward t) : s.Onward (State.stepJoin t) := by
  unfold State.stepJoin
  repeat' first
    | with_reducible assumption
    | (extract_lets -merge +onlyGivenNames x
       first
       | (have _f := fun a => x a
          clear _f
          unfold x
          clear x)
       | (refine onward_cut (P := State.Onward s x) ?_ (fun hx => ?_)
          on_goal 1 => (unfold x; clear x)
          on_goal 2 => clear_value x)
       | clear_value x
       | (unfold x; clear x)
       | clear x)
    | with_reducible apply Fabric.wr_onward
    | with_reducible apply State.wr_onward
    | (with_reducible refine State.Onward.foldl ?_ ?_
       on_goal 1 => intro _ _ _)
    | with_reducible refine State.Onward.ite ?_ ?_
    | split
    | fail_if_no_progress dsimp only
    | fail_if_no_progress with_reducible apply State.Onward.upd

theorem State.thermalWarn_onward {temps : List Int} {s t : State} (h : s.Onward t) :
    s.Onward (State.thermalWarn temps t) := by
  unfold State.thermalWarn
  repeat' first
    | with_reducible assumption
    | (extract_lets -merge +onlyGivenNames x
       first
       | (have _f := fun a => x a
          clear _f
          unfold x
          clear x)
       | (refine onward_cut (P := State.Onward s x) ?_ (fun hx => ?_)
          on_goal 1 => (unfold x; clear x)
          on_goal 2 => clear_value x)
       | clear_value x
       | (unfold x; clear x)
       | clear x)
    | with_reducible apply Fabric.raise_onward
    | with_reducible apply State.raise_onward
    | with_reducible apply State.updShep_onward
    | with_reducible refine State.Onward.ite ?_ ?_
    | split
    | fail_if_no_progress dsimp only
    | fail_if_no_progress with_reducible apply State.Onward.upd

theorem State.thermalRead_onward {temps : List Nat} {s t : State} (h : s.Onward t) :
    s.Onward (State.thermalRead temps t) := by
  unfold State.thermalRead
  repeat' first
    | with_reducible assumption
    | (extract_lets -merge +onlyGivenNames x
       first
       | (have _f := fun a => x a
          clear _f
          unfold x
          clear x)
       | (refine onward_cut (P := State.Onward s x) ?_ (fun hx => ?_)
          on_goal 1 => (unfold x; clear x)
          on_goal 2 => clear_value x)
       | (refine onward_cut (P := State.Onward s x.2) ?_ (fun hx => ?_)
          on_goal 1 => (unfold x; clear x)
          on_goal 2 => clear_value x)
       | (refine onward_cut (P := State.Onward s x.1) ?_ (fun hx => ?_)
          on_goal 1 => (unfold x; clear x)
          on_goal 2 => clear_value x)
       | clear_value x
       | (unfold x; clear x)
       | clear x)
    | with_reducible apply Fabric.wr_onward
    | with_reducible apply State.wr_onward
    | (with_reducible refine State.Onward.foldl ?_ ?_
       on_goal 1 => intro _ _ _)
    | (with_reducible refine State.Onward.foldl2 ?_ ?_
       on_goal 1 => intro _ _ _)
    | (with_reducible refine State.Onward.foldl1 ?_ ?_
       on_goal 1 => intro _ _ _)
    | with_reducible refine State.Onward.ite ?_ ?_
    | split
    | fail_if_no_progress dsimp only

theorem State.throttleMs_onward {s t : State} (h : s.Onward t) : s.Onward (State.throttleMs t) := by
  unfold State.throttleMs
  repeat' first
    | with_reducible assumption
    | with_reducible apply Fabric.tally_onward
    | with_reducible apply State.tally_onward
    | with_reducible apply State.updShep_onward
    | with_reducible refine State.Onward.ite ?_ ?_
    | split
    | fail_if_no_progress dsimp only
    | fail_if_no_progress with_reducible apply State.Onward.upd

theorem uploadRequest_onward {mailbox : Bool} {op : Nat} {arg : Nat} {data : List Byte} {s t : State} (h : s.Onward t) :
    s.Onward (uploadRequest mailbox op arg data t) := by
  unfold uploadRequest
  repeat' first
    | with_reducible assumption
    | with_reducible apply State.mailboxOp_onward
    | with_reducible apply State.objectArrives_onward
    | with_reducible refine State.Onward.ite ?_ ?_
    | split

theorem State.calOverrideCmd_onward {mask : Nat} {s t : State} (h : s.Onward t) :
    s.Onward (State.calOverrideCmd mask t) := by
  unfold State.calOverrideCmd
  repeat' first
    | with_reducible assumption
    | (extract_lets -merge +onlyGivenNames x
       first
       | (have _f := fun a => x a
          clear _f
          unfold x
          clear x)
       | (refine onward_cut (P := State.Onward s x) ?_ (fun hx => ?_)
          on_goal 1 => (unfold x; clear x)
          on_goal 2 => clear_value x)
       | (refine onward_cut (P := State.Onward s x.2) ?_ (fun hx => ?_)
          on_goal 1 => (unfold x; clear x)
          on_goal 2 => clear_value x)
       | (refine onward_cut (P := State.Onward s x.1) ?_ (fun hx => ?_)
          on_goal 1 => (unfold x; clear x)
          on_goal 2 => clear_value x)
       | clear_value x
       | (unfold x; clear x)
       | clear x)
    | with_reducible apply State.calOverride_onward
    | with_reducible apply State.extendSet_onward
    | with_reducible refine State.Onward.ite ?_ ?_
    | split
    | fail_if_no_progress dsimp only

end Sys2Proof.Machine
end

