-- ==== Sys2Proof/Laws/Access.lean ====
section
/-! SUPPORT. What each operation of `Machine/Access.lean` keeps (see `Laws/Onward.lean`). -/
set_option linter.unusedTactic false
set_option linter.unreachableTactic false
set_option linter.tactic.unusedName false
namespace Sys2Proof.Machine

theorem State.headerWrite_onward {off : Nat} {w : Word} {s t : State} (h : s.Onward t) :
    s.Onward (State.headerWrite off w t) := by
  unfold State.headerWrite
  repeat' first
    | with_reducible assumption
    | (extract_lets -merge +onlyGivenNames x
       first
       | (have _f := fun a => x a
          clear _f
          unfold x
          clear x)
       | (refine onward_cut (P := State.Onward s x) ?_ (fun hx => ?_)
          on_goal 1 => (unfold x; clear x)
          on_goal 2 => clear_value x)
       | clear_value x
       | (unfold x; clear x)
       | clear x)
    | with_reducible apply State.foldEnable_onward
    | with_reducible apply State.nodeReset_onward
    | with_reducible apply State.wrIf_onward
    | with_reducible refine State.Onward.ite ?_ ?_
    | split
    | fail_if_no_progress dsimp only
    | fail_if_no_progress with_reducible apply State.Onward.upd

theorem State.laneWrite_onward {fn : Nat} {off : Nat} {w : Word} {s t : State} (h : s.Onward t) :
    s.Onward (State.laneWrite fn off w t) := by
  unfold State.laneWrite
  repeat' first
    | with_reducible assumption
    | (extract_lets -merge +onlyGivenNames x
       first
       | (have _f := fun a => x a
          clear _f
          unfold x
          clear x)
       | (refine onward_cut (P := State.Onward s x) ?_ (fun hx => ?_)
          on_goal 1 => (unfold x; clear x)
          on_goal 2 => clear_value x)
       | clear_value x
       | (unfold x; clear x)
       | clear x)
    | with_reducible apply State.accErr_onward
    | with_reducible apply State.adaptWrite_onward
    | with_reducible apply State.alignSlip_onward
    | with_reducible apply State.eqWrite_onward
    | with_reducible apply State.laneCtrl_onward
    | with_reducible apply State.laneRequest_onward
    | with_reducible apply State.patternWrite_onward
    | with_reducible apply State.putWord_onward
    | with_reducible apply State.scanWrite_onward
    | with_reducible apply State.tapWrite_onward
    | with_reducible refine State.Onward.ite ?_ ?_
    | split
    | fail_if_no_progress dsimp only

theorem State.streamWrite_onward {fn : Nat} {off : Nat} {w : Word} {s t : State} (h : s.Onward t) :
    s.Onward (State.streamWrite fn off w t) := by
  unfold State.streamWrite
  repeat' first
    | with_reducible assumption
    | (extract_lets -merge +onlyGivenNames x
       first
       | (have _f := fun a => x a
          clear _f
          unfold x
          clear x)
       | (refine onward_cut (P := State.Onward s x) ?_ (fun hx => ?_)
          on_goal 1 => (unfold x; clear x)
          on_goal 2 => clear_value x)
       | clear_value x
       | (unfold x; clear x)
       | clear x)
    | with_reducible apply State.egImg_onward
    | with_reducible apply State.putWord_onward
    | with_reducible refine State.Onward.ite ?_ ?_
    | split
    | fail_if_no_progress dsimp only

theorem State.portWrite_onward {fn : Nat} {off : Nat} {w : Word} {s t : State} (h : s.Onward t) :
    s.Onward (State.portWrite fn off w t) := by
  unfold State.portWrite
  repeat' first
    | with_reducible assumption
    | (extract_lets -merge +onlyGivenNames x
       first
       | (have _f := fun a => x a
          clear _f
          unfold x
          clear x)
       | (refine onward_cut (P := State.Onward s x) ?_ (fun hx => ?_)
          on_goal 1 => (unfold x; clear x)
          on_goal 2 => clear_value x)
       | clear_value x
       | (unfold x; clear x)
       | clear x)
    | with_reducible apply State.alignWrite_onward
    | with_reducible apply State.camCommand_onward
    | with_reducible apply State.linkCtrl_onward
    | with_reducible apply State.probeWrite_onward
    | with_reducible apply State.putWord_onward
    | with_reducible apply State.serialSend_onward
    | with_reducible apply State.streamWrite_onward
    | with_reducible refine State.Onward.ite ?_ ?_
    | split
    | fail_if_no_progress dsimp only

theorem State.shadowWritten_onward {h' : Nat × Nat} {o : Nat} {s t : State} (h : s.Onward t) :
    s.Onward (State.shadowWritten h' o t) := by
  unfold State.shadowWritten
  repeat' first
    | with_reducible assumption
    | with_reducible apply State.updCtx_onward
    | with_reducible refine State.Onward.ite ?_ ?_
    | split
    | fail_if_no_progress dsimp only
    | fail_if_no_progress with_reducible apply State.Onward.upd

theorem State.contextWrite_onward {fn : Nat} {off : Nat} {w : Word} {s t : State} (h : s.Onward t) :
    s.Onward (State.contextWrite fn off w t) := by
  unfold State.contextWrite
  repeat' first
    | with_reducible assumption
    | (extract_lets -merge +onlyGivenNames x
       first
       | (have _f := fun a => x a
          clear _f
          unfold x
          clear x)
       | (refine onward_cut (P := State.Onward s x) ?_ (fun hx => ?_)
          on_goal 1 => (unfold x; clear x)
          on_goal 2 => clear_value x)
       | (refine onward_cut (P := State.Onward s x.2) ?_ (fun hx => ?_)
          on_goal 1 => (unfold x; clear x)
          on_goal 2 => clear_value x)
       | (refine onward_cut (P := State.Onward s x.1) ?_ (fun hx => ?_)
          on_goal 1 => (unfold x; clear x)
          on_goal 2 => clear_value x)
       | clear_value x
       | (unfold x; clear x)
       | clear x)
    | with_reducible apply State.contextCancel_onward
    | with_reducible apply State.contextReq_onward
    | with_reducible apply State.putWord_onward
    | with_reducible apply State.shadowWritten_onward
    | with_reducible apply State.updCtx_onward
    | with_reducible refine State.Onward.ite ?_ ?_
    | split
    | fail_if_no_progress dsimp only
    | fail_if_no_progress with_reducible apply State.Onward.upd

theorem State.areaWrite_onward {fn : Nat} {off : Nat} {w : Word} {s t : State} (h : s.Onward t) :
    s.Onward (State.areaWrite fn off w t) := by
  unfold State.areaWrite
  repeat' first
    | with_reducible assumption
    | (extract_lets -merge +onlyGivenNames x
       first
       | (have _f := fun a => x a
          clear _f
          unfold x
          clear x)
       | (refine onward_cut (P := State.Onward s x) ?_ (fun hx => ?_)
          on_goal 1 => (unfold x; clear x)
          on_goal 2 => clear_value x)
       | clear_value x
       | (unfold x; clear x)
       | clear x)
    | with_reducible apply State.accErr_onward
    | with_reducible apply State.putWord_onward
    | with_reducible refine State.Onward.ite ?_ ?_
    | split
    | fail_if_no_progress dsimp only

theorem State.paddockWrite_onward {fn : Nat} {off : Nat} {w : Word} {s t : State} (h : s.Onward t) :
    s.Onward (State.paddockWrite fn off w t) := by
  unfold State.paddockWrite
  repeat' first
    | with_reducible assumption
    | (extract_lets -merge +onlyGivenNames x
       first
       | (have _f := fun a => x a
          clear _f
          unfold x
          clear x)
       | (refine onward_cut (P := State.Onward s x) ?_ (fun hx => ?_)
          on_goal 1 => (unfold x; clear x)
          on_goal 2 => clear_value x)
       | clear_value x
       | (unfold x; clear x)
       | clear x)
    | with_reducible apply State.areaWrite_onward
    | with_reducible apply State.burstRearm_onward
    | with_reducible apply State.fgCmd_onward
    | with_reducible apply State.fgConfig_onward
    | with_reducible apply State.frameFind_onward
    | with_reducible apply State.putWord_onward
    | with_reducible apply State.smallCheck_onward
    | with_reducible refine State.Onward.ite ?_ ?_
    | split
    | fail_if_no_progress dsimp only

theorem State.droverWrite_onward {fn : Nat} {off : Nat} {w : Word} {s t : State} (h : s.Onward t) :
    s.Onward (State.droverWrite fn off w t) := by
  unfold State.droverWrite
  repeat' first
    | with_reducible assumption
    | (extract_lets -merge +onlyGivenNames x
       first
       | (have _f := fun a => x a
          clear _f
          unfold x
          clear x)
       | (refine onward_cut (P := State.Onward s x) ?_ (fun hx => ?_)
          on_goal 1 => (unfold x; clear x)
          on_goal 2 => clear_value x)
       | clear_value x
       | (unfold x; clear x)
       | clear x)
    | with_reducible apply State.chConfig_onward
    | with_reducible apply State.chCtrl_onward
    | with_reducible apply State.putWord_onward
    | with_reducible refine State.Onward.ite ?_ ?_
    | split
    | fail_if_no_progress dsimp only

theorem State.tbCtrl_onward {fn : Nat} {w : Word} {s t : State} (h : s.Onward t) :
    s.Onward (State.tbCtrl fn w t) := by
  unfold State.tbCtrl
  repeat' first
    | with_reducible assumption
    | (extract_lets -merge +onlyGivenNames x
       first
       | (have _f := fun a => x a
          clear _f
          unfold x
          clear x)
       | (refine onward_cut (P := State.Onward s x) ?_ (fun hx => ?_)
          on_goal 1 => (unfold x; clear x)
          on_goal 2 => clear_value x)
       | clear_value x
       | (unfold x; clear x)
       | clear x)
    | with_reducible apply State.joinCancel_onward
    | with_reducible apply State.joinForce_onward
    | with_reducible apply State.joinStart_onward
    | with_reducible apply State.putWord_onward
    | with_reducible apply State.refSel_onward
    | with_reducible refine State.Onward.ite ?_ ?_
    | split
    | fail_if_no_progress dsimp only

theorem State.ptpCfgWrite_onward {fn : Nat} {d : Nat} {w : Word} {s t : State} (h : s.Onward t) :
    s.Onward (State.ptpCfgWrite fn d w t) := by
  unfold State.ptpCfgWrite
  repeat' first
    | with_reducible assumption
    | (extract_lets -merge +onlyGivenNames x
       first
       | (have _f := fun a => x a
          clear _f
          unfold x
          clear x)
       | (refine onward_cut (P := State.Onward s x) ?_ (fun hx => ?_)
          on_goal 1 => (unfold x; clear x)
          on_goal 2 => clear_value x)
       | clear_value x
       | (unfold x; clear x)
       | clear x)
    | with_reducible apply State.accErr_onward
    | with_reducible apply State.ptpCfgChanged_onward
    | with_reducible apply State.putWord_onward
    | with_reducible refine State.Onward.ite ?_ ?_
    | split
    | fail_if_no_progress dsimp only

theorem State.timeWrite_onward {fn : Nat} {off : Nat} {w : Word} {s t : State} (h : s.Onward t) :
    s.Onward (State.timeWrite fn off w t) := by
  unfold State.timeWrite
  repeat' first
    | with_reducible assumption
    | (extract_lets -merge +onlyGivenNames x
       first
       | (have _f := fun a => x a
          clear _f
          unfold x
          clear x)
       | (refine onward_cut (P := State.Onward s x) ?_ (fun hx => ?_)
          on_goal 1 => (unfold x; clear x)
          on_goal 2 => clear_value x)
       | clear_value x
       | (unfold x; clear x)
       | clear x)
    | with_reducible apply State.accErr_onward
    | with_reducible apply State.adjustStart_onward
    | with_reducible apply State.incCommit_onward
    | with_reducible apply State.loseHistory_onward
    | with_reducible apply State.ptpCfgWrite_onward
    | with_reducible apply State.putWord_onward
    | with_reducible apply State.setOnPps_onward
    | with_reducible apply State.slotArm_onward
    | with_reducible apply State.slotDisarm_onward
    | with_reducible apply State.tbCtrl_onward
    | with_reducible apply State.timeSet_onward
    | with_reducible refine State.Onward.ite ?_ ?_
    | split
    | fail_if_no_progress dsimp only

theorem State.encoderWrite_onward {fn : Nat} {off : Nat} {w : Word} {s t : State} (h : s.Onward t) :
    s.Onward (State.encoderWrite fn off w t) := by
  unfold State.encoderWrite
  repeat' first
    | with_reducible assumption
    | (extract_lets -merge +onlyGivenNames x
       first
       | (have _f := fun a => x a
          clear _f
          unfold x
          clear x)
       | (refine onward_cut (P := State.Onward s x) ?_ (fun hx => ?_)
          on_goal 1 => (unfold x; clear x)
          on_goal 2 => clear_value x)
       | clear_value x
       | (unfold x; clear x)
       | clear x)
    | with_reducible apply State.absAsk_onward
    | with_reducible apply State.cmpCtrl_onward
    | with_reducible apply State.cmpWrite_onward
    | with_reducible apply State.encCmd_onward
    | with_reducible apply State.encCtrl_onward
    | with_reducible apply State.encLimit_onward
    | with_reducible apply State.putWord_onward
    | with_reducible refine State.Onward.ite ?_ ?_
    | split
    | fail_if_no_progress dsimp only

theorem State.outWrite_onward {fn : Nat} {n : Nat} {off : Nat} {w : Word} {s t : State} (h : s.Onward t) :
    s.Onward (State.outWrite fn n off w t) := by
  unfold State.outWrite
  repeat' first
    | with_reducible assumption
    | with_reducible apply State.putWord_onward
    | with_reducible apply State.showPin_onward

theorem State.triggerWrite_onward {fn : Nat} {off : Nat} {w : Word} {s t : State} (h : s.Onward t) :
    s.Onward (State.triggerWrite fn off w t) := by
  unfold State.triggerWrite
  repeat' first
    | with_reducible assumption
    | (extract_lets -merge +onlyGivenNames x
       first
       | (have _f := fun a => x a
          clear _f
          unfold x
          clear x)
       | (refine onward_cut (P := State.Onward s x) ?_ (fun hx => ?_)
          on_goal 1 => (unfold x; clear x)
          on_goal 2 => clear_value x)
       | clear_value x
       | (unfold x; clear x)
       | clear x)
    | with_reducible apply State.outWrite_onward
    | with_reducible apply State.putWord_onward
    | with_reducible apply State.softwareTrigger_onward
    | with_reducible apply State.trigCommit_onward
    | with_reducible apply State.trigCtrl_onward
    | with_reducible refine State.Onward.ite ?_ ?_
    | split
    | fail_if_no_progress dsimp only

theorem State.analogWrite_onward {fn : Nat} {off : Nat} {w : Word} {s t : State} (h : s.Onward t) :
    s.Onward (State.analogWrite fn off w t) := by
  unfold State.analogWrite
  repeat' first
    | with_reducible assumption
    | (extract_lets -merge +onlyGivenNames x
       first
       | (have _f := fun a => x a
          clear _f
          unfold x
          clear x)
       | (refine onward_cut (P := State.Onward s x) ?_ (fun hx => ?_)
          on_goal 1 => (unfold x; clear x)
          on_goal 2 => clear_value x)
       | clear_value x
       | (unfold x; clear x)
       | clear x)
    | with_reducible apply State.aiCtrl_onward
    | with_reducible apply State.aiStart_onward
    | with_reducible apply State.putWord_onward
    | with_reducible apply State.thrCfg_onward
    | with_reducible refine State.Onward.ite ?_ ?_
    | split
    | fail_if_no_progress dsimp only

theorem State.calCmd_onward {w : Word} {s t : State} (h : s.Onward t) : s.Onward (State.calCmd w t) := by
  unfold State.calCmd
  repeat' first
    | with_reducible assumption
    | (extract_lets -merge +onlyGivenNames x
       first
       | (have _f := fun a => x a
          clear _f
          unfold x
          clear x)
       | (refine onward_cut (P := State.Onward s x) ?_ (fun hx => ?_)
          on_goal 1 => (unfold x; clear x)
          on_goal 2 => clear_value x)
       | clear_value x
       | (unfold x; clear x)
       | clear x)
    | with_reducible apply State.calFactory_onward
    | with_reducible apply State.calLoad_onward
    | with_reducible apply State.calOverrideCmd_onward
    | with_reducible apply State.calRun_onward
    | with_reducible apply State.calSave_onward
    | with_reducible refine State.Onward.ite ?_ ?_
    | split
    | fail_if_no_progress dsimp only

theorem State.payloadWrite_onward {fn : Nat} {f : Nat} {off : Nat} {w : Word} {s t : State} (h : s.Onward t) :
    s.Onward (State.payloadWrite fn f off w t) := by
  unfold State.payloadWrite
  repeat' first
    | with_reducible assumption
    | (extract_lets -merge +onlyGivenNames x
       first
       | (have _f := fun a => x a
          clear _f
          unfold x
          clear x)
       | (refine onward_cut (P := State.Onward s x) ?_ (fun hx => ?_)
          on_goal 1 => (unfold x; clear x)
          on_goal 2 => clear_value x)
       | clear_value x
       | (unfold x; clear x)
       | clear x)
    | with_reducible apply State.accErr_onward
    | with_reducible apply State.putWord_onward
    | with_reducible refine State.Onward.ite ?_ ?_
    | split
    | fail_if_no_progress dsimp only

theorem State.networkWrite_onward {fn : Nat} {off : Nat} {w : Word} {s t : State} (h : s.Onward t) :
    s.Onward (State.networkWrite fn off w t) := by
  unfold State.networkWrite
  repeat' first
    | with_reducible assumption
    | (extract_lets -merge +onlyGivenNames x
       first
       | (have _f := fun a => x a
          clear _f
          unfold x
          clear x)
       | (refine onward_cut (P := State.Onward s x) ?_ (fun hx => ?_)
          on_goal 1 => (unfold x; clear x)
          on_goal 2 => clear_value x)
       | clear_value x
       | (unfold x; clear x)
       | clear x)
    | with_reducible apply State.flowCtrlWrite_onward
    | with_reducible apply State.nbCtrlWrite_onward
    | with_reducible apply State.pathFollow_onward
    | with_reducible apply State.payloadWrite_onward
    | with_reducible apply State.putWord_onward
    | with_reducible apply State.startHandback_onward
    | with_reducible refine State.Onward.ite ?_ ?_
    | split
    | fail_if_no_progress dsimp only
    | fail_if_no_progress with_reducible apply State.Onward.upd

theorem State.eventWrite_onward {fn : Nat} {off : Nat} {w : Word} {s t : State} (h : s.Onward t) :
    s.Onward (State.eventWrite fn off w t) := by
  unfold State.eventWrite
  repeat' first
    | with_reducible assumption
    | (extract_lets -merge +onlyGivenNames x
       first
       | (have _f := fun a => x a
          clear _f
          unfold x
          clear x)
       | (refine onward_cut (P := State.Onward s x) ?_ (fun hx => ?_)
          on_goal 1 => (unfold x; clear x)
          on_goal 2 => clear_value x)
       | clear_value x
       | (unfold x; clear x)
       | clear x)
    | with_reducible apply State.evCfg_onward
    | with_reducible apply State.evCoal_onward
    | with_reducible apply State.evRaise_onward
    | with_reducible apply State.msixUnmask_onward
    | with_reducible apply State.pinFollow_onward
    | with_reducible apply State.putWord_onward
    | with_reducible apply Fabric.wr_onward
    | with_reducible apply State.wr_onward
    | (with_reducible refine State.Onward.foldl ?_ ?_
       on_goal 1 => intro _ _ _)
    | with_reducible refine State.Onward.ite ?_ ?_
    | split
    | fail_if_no_progress dsimp only

theorem State.penWrite_onward {fn : Nat} {off : Nat} {w : Word} {s t : State} (h : s.Onward t) :
    s.Onward (State.penWrite fn off w t) := by
  unfold State.penWrite
  repeat' first
    | with_reducible assumption
    | (extract_lets -merge +onlyGivenNames x
       first
       | (have _f := fun a => x a
          clear _f
          unfold x
          clear x)
       | (refine onward_cut (P := State.Onward s x) ?_ (fun hx => ?_)
          on_goal 1 => (unfold x; clear x)
          on_goal 2 => clear_value x)
       | clear_value x
       | (unfold x; clear x)
       | clear x)
    | with_reducible apply State.cutSettle_onward
    | with_reducible apply State.penAddr_onward
    | with_reducible apply State.penCfg_onward
    | with_reducible apply State.penCmd_onward
    | with_reducible apply State.penEval_onward
    | with_reducible apply State.penPop_onward
    | with_reducible apply State.putWord_onward
    | with_reducible refine State.Onward.ite ?_ ?_
    | split
    | fail_if_no_progress dsimp only

theorem State.regWrite_onward {fn : Nat} {off : Nat} {w : Word} {s t : State} (h : s.Onward t) :
    s.Onward (State.regWrite fn off w t) := by
  unfold State.regWrite
  repeat' first
    | with_reducible assumption
    | (extract_lets -merge +onlyGivenNames x
       first
       | (have _f := fun a => x a
          clear _f
          unfold x
          clear x)
       | (refine onward_cut (P := State.Onward s x) ?_ (fun hx => ?_)
          on_goal 1 => (unfold x; clear x)
          on_goal 2 => clear_value x)
       | clear_value x
       | (unfold x; clear x)
       | clear x)
    | with_reducible apply State.analogWrite_onward
    | with_reducible apply State.bwPeriod_onward
    | with_reducible apply State.cageWrite_onward
    | with_reducible apply State.calCmd_onward
    | with_reducible apply State.contextWrite_onward
    | with_reducible apply State.droverWrite_onward
    | with_reducible apply State.encoderWrite_onward
    | with_reducible apply State.eventWrite_onward
    | with_reducible apply State.headerWrite_onward
    | with_reducible apply State.laneWrite_onward
    | with_reducible apply State.mailboxCmd_onward
    | with_reducible apply State.networkWrite_onward
    | with_reducible apply State.paddockWrite_onward
    | with_reducible apply State.partCmd_onward
    | with_reducible apply State.penWrite_onward
    | with_reducible apply State.portWrite_onward
    | with_reducible apply State.putWord_onward
    | with_reducible apply State.pwrReqWrite_onward
    | with_reducible apply State.timeWrite_onward
    | with_reducible apply State.triggerWrite_onward
    | with_reducible apply State.updStrm_onward
    | with_reducible refine State.Onward.ite ?_ ?_
    | split
    | fail_if_no_progress dsimp only
    | fail_if_no_progress with_reducible apply State.Onward.upd

theorem State.putTime_onward {key : Nat} {t' : Time} {s t : State} (h : s.Onward t) :
    s.Onward (State.putTime key t' t) := by
  unfold State.putTime
  repeat' first
    | with_reducible assumption
    | with_reducible apply Fabric.wrTime_onward
    | with_reducible apply State.wrTime_onward

theorem State.refresh_onward {fn : Nat} {off : Nat} {s t : State} (h : s.Onward t) :
    s.Onward (State.refresh fn off t) := by
  unfold State.refresh
  repeat' first
    | with_reducible assumption
    | (extract_lets -merge +onlyGivenNames x
       first
       | (have _f := fun a => x a
          clear _f
          unfold x
          clear x)
       | (refine onward_cut (P := State.Onward s x) ?_ (fun hx => ?_)
          on_goal 1 => (unfold x; clear x)
          on_goal 2 => clear_value x)
       | (refine onward_cut (P := State.Onward s x.2) ?_ (fun hx => ?_)
          on_goal 1 => (unfold x; clear x)
          on_goal 2 => clear_value x)
       | (refine onward_cut (P := State.Onward s x.1) ?_ (fun hx => ?_)
          on_goal 1 => (unfold x; clear x)
          on_goal 2 => clear_value x)
       | clear_value x
       | (unfold x; clear x)
       | clear x)
    | with_reducible apply State.draw_onward
    | with_reducible apply State.encSpeedLive_onward
    | with_reducible apply State.heldSettle_onward
    | with_reducible apply State.histSnapshot_onward
    | with_reducible apply State.putTime_onward
    | with_reducible apply State.slipSettle_onward
    | with_reducible apply Fabric.wr_onward
    | with_reducible apply State.wr_onward
    | with_reducible apply State.wrIf_onward
    | with_reducible apply Fabric.ww_onward
    | with_reducible apply State.ww_onward
    | with_reducible refine State.Onward.ite ?_ ?_
    | split
    | fail_if_no_progress dsimp only
    | fail_if_no_progress with_reducible apply State.Onward.upd

theorem State.capture_onward {fn : Nat} {off : Nat} {r : RegDef} {s t : State} (h : s.Onward t) :
    s.Onward (State.capture fn off r t) := by
  unfold State.capture
  repeat' first
    | with_reducible assumption
    | (with_reducible refine State.Onward.foldl ?_ ?_
       on_goal 1 => intro _ _ _)
    | with_reducible refine State.Onward.ite ?_ ?_
    | split
    | fail_if_no_progress dsimp only
    | fail_if_no_progress with_reducible apply State.Onward.upd

theorem State.regRead_onward {fn : Nat} {off : Nat} {s t : State} (h : s.Onward t) :
    s.Onward (State.regRead fn off t).2 := by
  unfold State.regRead
  repeat' first
    | with_reducible assumption
    | (extract_lets -merge +onlyGivenNames x
       first
       | (have _f := fun a => x a
          clear _f
          unfold x
          clear x)
       | (refine onward_cut (P := State.Onward s x) ?_ (fun hx => ?_)
          on_goal 1 => (unfold x; clear x)
          on_goal 2 => clear_value x)
       | clear_value x
       | (unfold x; clear x)
       | clear x)
    | with_reducible apply State.capture_onward
    | with_reducible apply State.refresh_onward
    | with_reducible apply State.serialShow_onward
    | with_reducible apply Fabric.ww_onward
    | with_reducible apply State.ww_onward
    | with_reducible refine State.Onward.ite ?_ ?_
    | split
    | fail_if_no_progress dsimp only
    | fail_if_no_progress with_reducible apply State.Onward.upd

end Sys2Proof.Machine
end

