-- ==== Sys2Proof/Laws/Activation.lean ====
section
/-! SUPPORT. What each operation of `Machine/Activation.lean` keeps (see `Laws/Onward.lean`). -/
set_option linter.unusedTactic false
set_option linter.unreachableTactic false
set_option linter.tactic.unusedName false
namespace Sys2Proof.Machine

theorem State.setFlash_onward {n : Nat} {f : FlashSlot} {s t : State} (h : s.Onward t) :
    s.Onward (State.setFlash n f t) := by
  unfold State.setFlash
  repeat' first
    | with_reducible assumption
    | with_reducible refine State.Onward.ite ?_ ?_
    | split
    | fail_if_no_progress with_reducible apply State.Onward.upd

theorem State.updStruct_onward {g : Structure → Structure} {s t : State} (h : s.Onward t) :
    s.Onward (State.updStruct t g) := by
  unfold State.updStruct
  repeat' first
    | with_reducible assumption
    | fail_if_no_progress with_reducible apply State.Onward.upd

theorem State.showSlot_onward {n : Nat} {s t : State} (h : s.Onward t) : s.Onward (State.showSlot n t) := by
  unfold State.showSlot
  repeat' first
    | with_reducible assumption
    | (extract_lets -merge +onlyGivenNames x
       first
       | (have _f := fun a => x a
          clear _f
          unfold x
          clear x)
       | (refine onward_cut (P := State.Onward s x) ?_ (fun hx => ?_)
          on_goal 1 => (unfold x; clear x)
          on_goal 2 => clear_value x)
       | clear_value x
       | (unfold x; clear x)
       | clear x)
    | with_reducible apply Fabric.wr_onward
    | with_reducible apply State.wr_onward
    | with_reducible apply State.wrIf_onward
    | with_reducible refine State.Onward.ite ?_ ?_
    | split
    | fail_if_no_progress dsimp only

theorem State.result_onward {v : Nat} {s t : State} (h : s.Onward t) : s.Onward (State.result v t) := by
  unfold State.result
  repeat' first
    | with_reducible assumption
    | with_reducible apply Fabric.wr_onward
    | with_reducible apply State.wr_onward

theorem State.checkPassed_onward {s t : State} (h : s.Onward t) : s.Onward (State.checkPassed t) := by
  unfold State.checkPassed
  repeat' first
    | with_reducible assumption
    | with_reducible apply Fabric.wr_onward
    | with_reducible apply State.wr_onward

theorem State.checkFailed_onward {e : CheckFail} {s t : State} (h : s.Onward t) :
    s.Onward (State.checkFailed e t) := by
  unfold State.checkFailed
  repeat' first
    | with_reducible assumption
    | with_reducible apply Fabric.raise_onward
    | with_reducible apply State.raise_onward
    | with_reducible apply Fabric.wr_onward
    | with_reducible apply State.wr_onward
    | fail_if_no_progress dsimp only

theorem State.beginActivation_onward {source : Nat} {im : Image} {s t : State} (h : s.Onward t) :
    s.Onward (State.beginActivation source im t) := by
  unfold State.beginActivation
  repeat' first
    | with_reducible assumption
    | (extract_lets -merge +onlyGivenNames x
       first
       | (have _f := fun a => x a
          clear _f
          unfold x
          clear x)
       | (refine onward_cut (P := State.Onward s x) ?_ (fun hx => ?_)
          on_goal 1 => (unfold x; clear x)
          on_goal 2 => clear_value x)
       | clear_value x
       | (unfold x; clear x)
       | clear x)
    | with_reducible apply State.checkPassed_onward
    | with_reducible apply State.extend_onward
    | with_reducible apply Fabric.raise_onward
    | with_reducible apply State.raise_onward
    | with_reducible apply State.updStruct_onward
    | with_reducible apply Fabric.wr_onward
    | with_reducible apply State.wr_onward
    | with_reducible refine State.Onward.ite ?_ ?_
    | split
    | fail_if_no_progress dsimp only
    | fail_if_no_progress with_reducible apply State.Onward.upd

theorem State.strGo_onward {source : Nat} {s t : State} (h : s.Onward t) : s.Onward (State.strGo source t) := by
  unfold State.strGo
  repeat' first
    | with_reducible assumption
    | with_reducible apply State.beginActivation_onward
    | with_reducible apply State.checkFailed_onward
    | with_reducible apply State.result_onward
    | with_reducible refine State.Onward.ite ?_ ?_
    | split
    | fail_if_no_progress with_reducible apply State.Onward.upd

theorem State.strCheck_onward {source : Nat} {s t : State} (h : s.Onward t) : s.Onward (State.strCheck source t) := by
  unfold State.strCheck
  repeat' first
    | with_reducible assumption
    | with_reducible apply State.checkFailed_onward
    | with_reducible apply State.checkPassed_onward
    | with_reducible apply State.result_onward
    | with_reducible refine State.Onward.ite ?_ ?_
    | split
    | fail_if_no_progress with_reducible apply State.Onward.upd

theorem State.programBegin_onward {s t : State} (h : s.Onward t) : s.Onward (State.programBegin t) := by
  unfold State.programBegin
  repeat' first
    | with_reducible assumption
    | (extract_lets -merge +onlyGivenNames x
       first
       | (have _f := fun a => x a
          clear _f
          unfold x
          clear x)
       | (refine onward_cut (P := State.Onward s x) ?_ (fun hx => ?_)
          on_goal 1 => (unfold x; clear x)
          on_goal 2 => clear_value x)
       | clear_value x
       | (unfold x; clear x)
       | clear x)
    | with_reducible apply State.setFlash_onward
    | with_reducible apply State.updStruct_onward
    | with_reducible apply Fabric.wr_onward
    | with_reducible apply State.wr_onward
    | with_reducible refine State.Onward.ite ?_ ?_
    | split
    | fail_if_no_progress dsimp only
    | fail_if_no_progress with_reducible apply State.Onward.upd

theorem State.strProgram_onward {source : Nat} {s t : State} (h : s.Onward t) :
    s.Onward (State.strProgram source t) := by
  unfold State.strProgram
  repeat' first
    | with_reducible assumption
    | with_reducible apply State.checkFailed_onward
    | with_reducible apply State.checkPassed_onward
    | with_reducible apply State.programBegin_onward
    | with_reducible apply State.result_onward
    | with_reducible apply State.updStruct_onward
    | with_reducible apply Fabric.wr_onward
    | with_reducible apply State.wr_onward
    | with_reducible refine State.Onward.ite ?_ ?_
    | split
    | fail_if_no_progress dsimp only
    | fail_if_no_progress with_reducible apply State.Onward.upd

theorem State.strServe_onward {op : Nat} {source : Nat} {s t : State} (h : s.Onward t) :
    s.Onward (State.strServe op source t) := by
  unfold State.strServe
  repeat' first
    | with_reducible assumption
    | with_reducible apply State.strCheck_onward
    | with_reducible apply State.strGo_onward
    | with_reducible apply State.strProgram_onward
    | with_reducible refine State.Onward.ite ?_ ?_
    | split

theorem State.strOp_onward {op : Nat} {source : Nat} {s t : State} (h : s.Onward t) :
    s.Onward (State.strOp op source t) := by
  unfold State.strOp
  repeat' first
    | with_reducible assumption
    | with_reducible apply State.strServe_onward
    | with_reducible apply State.updStruct_onward
    | with_reducible refine State.Onward.ite ?_ ?_
    | split
    | fail_if_no_progress dsimp only
    | fail_if_no_progress with_reducible apply State.Onward.upd

theorem State.strCtrl_onward {fn : Nat} {w : Word} {s t : State} (h : s.Onward t) :
    s.Onward (State.strCtrl fn w t) := by
  unfold State.strCtrl
  repeat' first
    | with_reducible assumption
    | (extract_lets -merge +onlyGivenNames x
       first
       | (have _f := fun a => x a
          clear _f
          unfold x
          clear x)
       | (refine onward_cut (P := State.Onward s x) ?_ (fun hx => ?_)
          on_goal 1 => (unfold x; clear x)
          on_goal 2 => clear_value x)
       | clear_value x
       | (unfold x; clear x)
       | clear x)
    | with_reducible apply State.accErr_onward
    | with_reducible apply State.putWord_onward
    | with_reducible apply State.strOp_onward
    | with_reducible refine State.Onward.ite ?_ ?_
    | split
    | fail_if_no_progress dsimp only
    | fail_if_no_progress with_reducible apply State.Onward.upd

theorem State.programDone_onward {fail : Bool} {s t : State} (h : s.Onward t) :
    s.Onward (State.programDone fail t) := by
  unfold State.programDone
  repeat' first
    | with_reducible assumption
    | (extract_lets -merge +onlyGivenNames x
       first
       | (have _f := fun a => x a
          clear _f
          unfold x
          clear x)
       | (refine onward_cut (P := State.Onward s x) ?_ (fun hx => ?_)
          on_goal 1 => (unfold x; clear x)
          on_goal 2 => clear_value x)
       | clear_value x
       | (unfold x; clear x)
       | clear x)
    | with_reducible apply State.flashFail_onward
    | with_reducible apply State.result_onward
    | with_reducible apply State.setFlash_onward
    | with_reducible apply State.updStruct_onward
    | with_reducible apply Fabric.wr_onward
    | with_reducible apply State.wr_onward
    | with_reducible refine State.Onward.ite ?_ ?_
    | split
    | fail_if_no_progress dsimp only
    | fail_if_no_progress with_reducible apply State.Onward.upd

theorem State.setStage_onward {st : Stage} {code : Nat} {s t : State} (h : s.Onward t) :
    s.Onward (State.setStage st code t) := by
  unfold State.setStage
  repeat' first
    | with_reducible assumption
    | with_reducible apply State.updStruct_onward
    | with_reducible apply Fabric.wr_onward
    | with_reducible apply State.wr_onward
    | fail_if_no_progress dsimp only
    | fail_if_no_progress with_reducible apply State.Onward.upd

theorem State.notePlaced_onward {s t : State} (h : s.Onward t) : s.Onward (State.notePlaced t) := by
  unfold State.notePlaced
  repeat' first
    | with_reducible assumption
    | with_reducible apply State.updStruct_onward
    | fail_if_no_progress with_reducible apply State.Onward.upd

theorem State.quiesce_onward {s t : State} (h : s.Onward t) : s.Onward (State.quiesce t) := by
  unfold State.quiesce
  repeat' first
    | with_reducible assumption
    | (extract_lets -merge +onlyGivenNames x
       first
       | (have _f := fun a => x a
          clear _f
          unfold x
          clear x)
       | (refine onward_cut (P := State.Onward s x) ?_ (fun hx => ?_)
          on_goal 1 => (unfold x; clear x)
          on_goal 2 => clear_value x)
       | clear_value x
       | (unfold x; clear x)
       | clear x)
    | with_reducible apply State.chDrain_onward
    | with_reducible apply State.idleOutputs_onward
    | with_reducible apply State.notePlaced_onward
    | with_reducible apply State.setStage_onward
    | (with_reducible refine State.Onward.foldl ?_ ?_
       on_goal 1 => intro _ _ _)
    | fail_if_no_progress dsimp only

theorem State.postWaitEnd_onward {s t : State} (h : s.Onward t) : s.Onward (State.postWaitEnd t) := by
  unfold State.postWaitEnd
  repeat' first
    | with_reducible assumption
    | with_reducible apply State.clipOpen_onward
    | with_reducible apply State.quiesce_onward
    | (with_reducible refine State.Onward.foldl ?_ ?_
       on_goal 1 => intro _ _ _)
    | with_reducible refine State.Onward.ite ?_ ?_
    | split
    | fail_if_no_progress dsimp only

theorem State.quiesceStage_onward {s t : State} (h : s.Onward t) : s.Onward (State.quiesceStage t) := by
  unfold State.quiesceStage
  repeat' first
    | with_reducible assumption
    | (extract_lets -merge +onlyGivenNames x
       first
       | (have _f := fun a => x a
          clear _f
          unfold x
          clear x)
       | (refine onward_cut (P := State.Onward s x) ?_ (fun hx => ?_)
          on_goal 1 => (unfold x; clear x)
          on_goal 2 => clear_value x)
       | clear_value x
       | (unfold x; clear x)
       | clear x)
    | with_reducible apply State.quiesce_onward
    | with_reducible refine State.Onward.ite ?_ ?_
    | split
    | fail_if_no_progress dsimp only

theorem State.quiesceTimeout_onward {st : Nat} {s t : State} (h : s.Onward t) :
    s.Onward (State.quiesceTimeout st t) := by
  unfold State.quiesceTimeout
  repeat' first
    | with_reducible assumption
    | with_reducible apply State.closeFrame_onward
    | with_reducible apply State.quiesce_onward
    | with_reducible refine State.Onward.ite ?_ ?_
    | split

theorem State.completeAll_onward {s t : State} (h : s.Onward t) : s.Onward (State.completeAll t) := by
  unfold State.completeAll
  repeat' first
    | with_reducible assumption
    | with_reducible apply State.completeRecord_onward
    | (with_reducible refine State.Onward.foldl ?_ ?_
       on_goal 1 => intro _ _ _)
    | (with_reducible refine State.Onward.foldl2 ?_ ?_
       on_goal 1 => intro _ _ _)
    | (with_reducible refine State.Onward.foldl1 ?_ ?_
       on_goal 1 => intro _ _ _)
    | fail_if_no_progress dsimp only

theorem State.rollbackBegin_onward {interrupted : Nat} {res : Nat} {target : Nat × Image} {s t : State} (h : s.Onward t) :
    s.Onward (State.rollbackBegin interrupted res target t) := by
  unfold State.rollbackBegin
  repeat' first
    | with_reducible assumption
    | (extract_lets -merge +onlyGivenNames x
       first
       | (have _f := fun a => x a
          clear _f
          unfold x
          clear x)
       | (refine onward_cut (P := State.Onward s x) ?_ (fun hx => ?_)
          on_goal 1 => (unfold x; clear x)
          on_goal 2 => clear_value x)
       | clear_value x
       | (unfold x; clear x)
       | clear x)
    | with_reducible apply Fabric.raise_onward
    | with_reducible apply State.raise_onward
    | with_reducible apply State.updStruct_onward
    | with_reducible apply Fabric.wr_onward
    | with_reducible apply State.wr_onward
    | fail_if_no_progress dsimp only
    | fail_if_no_progress with_reducible apply State.Onward.upd

theorem State.retain_onward {s t : State} (h : s.Onward t) : s.Onward (State.retain t) := by
  unfold State.retain
  repeat' first
    | with_reducible assumption
    | (extract_lets -merge +onlyGivenNames x
       first
       | (have _f := fun a => x a
          clear _f
          unfold x
          clear x)
       | (refine onward_cut (P := State.Onward s x) ?_ (fun hx => ?_)
          on_goal 1 => (unfold x; clear x)
          on_goal 2 => clear_value x)
       | (refine onward_cut (P := State.Onward s x.2) ?_ (fun hx => ?_)
          on_goal 1 => (unfold x; clear x)
          on_goal 2 => clear_value x)
       | clear_value x
       | (unfold x; clear x)
       | clear x)
    | with_reducible apply State.completeAll_onward
    | with_reducible apply State.quiesce_onward
    | with_reducible apply Fabric.raise_onward
    | with_reducible apply State.raise_onward
    | with_reducible apply State.rollbackBegin_onward
    | with_reducible apply State.setStage_onward
    | with_reducible apply Fabric.wr_onward
    | with_reducible apply State.wr_onward
    | with_reducible refine State.Onward.ite ?_ ?_
    | split
    | fail_if_no_progress dsimp only
    | fail_if_no_progress with_reducible apply State.Onward.upd

theorem State.firstPower_onward {s t : State} (h : s.Onward t) : s.Onward (State.firstPower t) := by
  unfold State.firstPower
  repeat' first
    | with_reducible assumption
    | with_reducible apply State.domainUp_onward
    | with_reducible apply State.updStruct_onward
    | (with_reducible refine State.Onward.foldl ?_ ?_
       on_goal 1 => intro _ _ _)
    | with_reducible refine State.Onward.ite ?_ ?_
    | split
    | fail_if_no_progress dsimp only
    | fail_if_no_progress with_reducible apply State.Onward.upd

theorem State.imgClear_onward {keep : Nat → Bool} {s t : State} (h : s.Onward t) :
    s.Onward (State.imgClear keep t) := by
  unfold State.imgClear
  repeat' first
    | with_reducible assumption
    | (extract_lets -merge +onlyGivenNames x
       first
       | (have _f := fun a => x a
          clear _f
          unfold x
          clear x)
       | (refine onward_cut (P := State.Onward s x) ?_ (fun hx => ?_)
          on_goal 1 => (unfold x; clear x)
          on_goal 2 => clear_value x)
       | (refine onward_cut (P := State.Onward s x.2) ?_ (fun hx => ?_)
          on_goal 1 => (unfold x; clear x)
          on_goal 2 => clear_value x)
       | (refine onward_cut (P := State.Onward s x.1) ?_ (fun hx => ?_)
          on_goal 1 => (unfold x; clear x)
          on_goal 2 => clear_value x)
       | clear_value x
       | (unfold x; clear x)
       | clear x)
    | with_reducible apply State.updStruct_onward
    | with_reducible apply Fabric.ww_onward
    | with_reducible apply State.ww_onward
    | (with_reducible refine State.Onward.foldl ?_ ?_
       on_goal 1 => intro _ _ _)
    | (with_reducible refine State.Onward.foldl2 ?_ ?_
       on_goal 1 => intro _ _ _)
    | (with_reducible refine State.Onward.foldl1 ?_ ?_
       on_goal 1 => intro _ _ _)
    | with_reducible refine State.Onward.ite ?_ ?_
    | split
    | fail_if_no_progress dsimp only
    | fail_if_no_progress with_reducible apply State.Onward.upd
    | with_reducible refine State.Onward.updFab ?_ ?_
    | with_reducible apply State.Onward.fab

theorem State.imgTake_onward {key : Nat} {s t : State} (h : s.Onward t) : s.Onward (State.imgTake key t) := by
  unfold State.imgTake
  repeat' first
    | with_reducible assumption
    | with_reducible apply State.imgOnly_onward
    | (with_reducible refine State.Onward.foldl ?_ ?_
       on_goal 1 => intro _ _ _)
    | with_reducible refine State.Onward.ite ?_ ?_
    | split
    | fail_if_no_progress dsimp only
    | fail_if_no_progress with_reducible apply State.Onward.upd

theorem State.applyPresets_onward {im : Image} {s t : State} (h : s.Onward t) :
    s.Onward (State.applyPresets im t).1 := by
  unfold State.applyPresets
  repeat' first
    | with_reducible assumption
    | (extract_lets -merge +onlyGivenNames x
       first
       | (have _f := fun a => x a
          clear _f
          unfold x
          clear x)
       | (refine onward_cut (P := State.Onward s x) ?_ (fun hx => ?_)
          on_goal 1 => (unfold x; clear x)
          on_goal 2 => clear_value x)
       | (refine onward_cut (P := State.Onward s x.2) ?_ (fun hx => ?_)
          on_goal 1 => (unfold x; clear x)
          on_goal 2 => clear_value x)
       | (refine onward_cut (P := State.Onward s x.1) ?_ (fun hx => ?_)
          on_goal 1 => (unfold x; clear x)
          on_goal 2 => clear_value x)
       | clear_value x
       | (unfold x; clear x)
       | clear x)
    | with_reducible apply State.imgTake_onward
    | with_reducible apply State.regWrite_onward
    | (with_reducible refine State.Onward.foldl ?_ ?_
       on_goal 1 => intro _ _ _)
    | (with_reducible refine State.Onward.foldl2 ?_ ?_
       on_goal 1 => intro _ _ _)
    | (with_reducible refine State.Onward.foldl1 ?_ ?_
       on_goal 1 => intro _ _ _)
    | fail_if_no_progress dsimp only

theorem State.presetsDone_onward {im : Image} {s t : State} (h : s.Onward t) : s.Onward (State.presetsDone im t) := by
  unfold State.presetsDone
  repeat' first
    | with_reducible assumption
    | (extract_lets -merge +onlyGivenNames x
       first
       | (have _f := fun a => x a
          clear _f
          unfold x
          clear x)
       | (refine onward_cut (P := State.Onward s x.2) ?_ (fun hx => ?_)
          on_goal 1 => (unfold x; clear x)
          on_goal 2 => clear_value x)
       | (refine onward_cut (P := State.Onward s x.1) ?_ (fun hx => ?_)
          on_goal 1 => (unfold x; clear x)
          on_goal 2 => clear_value x)
       | clear_value x
       | (unfold x; clear x)
       | clear x)
    | with_reducible apply State.applyPresets_onward
    | with_reducible apply State.extend_onward
    | fail_if_no_progress dsimp only

theorem State.enableFolds_onward {im : Image} {s t : State} (h : s.Onward t) : s.Onward (State.enableFolds im t) := by
  unfold State.enableFolds
  repeat' first
    | with_reducible assumption
    | (extract_lets -merge +onlyGivenNames x
       first
       | (have _f := fun a => x a
          clear _f
          unfold x
          clear x)
       | (refine onward_cut (P := State.Onward s x) ?_ (fun hx => ?_)
          on_goal 1 => (unfold x; clear x)
          on_goal 2 => clear_value x)
       | clear_value x
       | (unfold x; clear x)
       | clear x)
    | with_reducible apply State.imgSet_onward
    | (with_reducible refine State.Onward.foldl ?_ ?_
       on_goal 1 => intro _ _ _)
    | with_reducible refine State.Onward.ite ?_ ?_
    | split
    | fail_if_no_progress dsimp only

theorem State.loadPartition_onward {im : Image} {s t : State} (h : s.Onward t) :
    s.Onward (State.loadPartition im t) := by
  unfold State.loadPartition
  repeat' first
    | with_reducible assumption
    | (extract_lets -merge +onlyGivenNames x
       first
       | (have _f := fun a => x a
          clear _f
          unfold x
          clear x)
       | (refine onward_cut (P := State.Onward s x) ?_ (fun hx => ?_)
          on_goal 1 => (unfold x; clear x)
          on_goal 2 => clear_value x)
       | (refine onward_cut (P := State.Onward s x.2) ?_ (fun hx => ?_)
          on_goal 1 => (unfold x; clear x)
          on_goal 2 => clear_value x)
       | (refine onward_cut (P := State.Onward s x.1) ?_ (fun hx => ?_)
          on_goal 1 => (unfold x; clear x)
          on_goal 2 => clear_value x)
       | clear_value x
       | (unfold x; clear x)
       | clear x)
    | with_reducible apply State.dropUnseen_onward
    | with_reducible apply State.imgSet_onward
    | (with_reducible refine State.partShow_onward ?_ ?_
       on_goal 1 => intro _ _ _ _)
    | with_reducible apply Fabric.wr_onward
    | with_reducible apply State.wr_onward
    | (with_reducible refine State.Onward.foldl ?_ ?_
       on_goal 1 => intro _ _ _)
    | (with_reducible refine State.Onward.foldl2 ?_ ?_
       on_goal 1 => intro _ _ _)
    | (with_reducible refine State.Onward.foldl1 ?_ ?_
       on_goal 1 => intro _ _ _)
    | with_reducible refine State.Onward.ite ?_ ?_
    | split
    | fail_if_no_progress dsimp only
    | fail_if_no_progress with_reducible apply State.Onward.upd

theorem State.loadStreams_onward {im : Image} {s t : State} (h : s.Onward t) : s.Onward (State.loadStreams im t) := by
  unfold State.loadStreams
  repeat' first
    | with_reducible assumption
    | (extract_lets -merge +onlyGivenNames x
       first
       | (have _f := fun a => x a
          clear _f
          unfold x
          clear x)
       | (refine onward_cut (P := State.Onward s x) ?_ (fun hx => ?_)
          on_goal 1 => (unfold x; clear x)
          on_goal 2 => clear_value x)
       | (refine onward_cut (P := State.Onward s x.2) ?_ (fun hx => ?_)
          on_goal 1 => (unfold x; clear x)
          on_goal 2 => clear_value x)
       | (refine onward_cut (P := State.Onward s x.1) ?_ (fun hx => ?_)
          on_goal 1 => (unfold x; clear x)
          on_goal 2 => clear_value x)
       | clear_value x
       | (unfold x; clear x)
       | clear x)
    | with_reducible apply State.contextInit_onward
    | with_reducible apply State.contextNew_onward
    | with_reducible apply State.countContexts_onward
    | with_reducible apply State.egImg_onward
    | with_reducible apply State.imgSet_onward
    | with_reducible apply State.setRegion_onward
    | with_reducible apply State.setShape_onward
    | (with_reducible refine State.Onward.foldl ?_ ?_
       on_goal 1 => intro _ _ _)
    | (with_reducible refine State.Onward.foldl2 ?_ ?_
       on_goal 1 => intro _ _ _)
    | (with_reducible refine State.Onward.foldl1 ?_ ?_
       on_goal 1 => intro _ _ _)
    | fail_if_no_progress dsimp only
    | fail_if_no_progress with_reducible apply State.Onward.upd

theorem State.loadGroups_onward {im : Image} {s t : State} (h : s.Onward t) : s.Onward (State.loadGroups im t) := by
  unfold State.loadGroups
  repeat' first
    | with_reducible assumption
    | (extract_lets -merge +onlyGivenNames x
       first
       | (have _f := fun a => x a
          clear _f
          unfold x
          clear x)
       | (refine onward_cut (P := State.Onward s x) ?_ (fun hx => ?_)
          on_goal 1 => (unfold x; clear x)
          on_goal 2 => clear_value x)
       | clear_value x
       | (unfold x; clear x)
       | clear x)
    | with_reducible apply State.fgEnter_onward
    | with_reducible apply State.imgSet_onward
    | (with_reducible refine State.Onward.foldl ?_ ?_
       on_goal 1 => intro _ _ _)
    | with_reducible refine State.Onward.ite ?_ ?_
    | split
    | fail_if_no_progress dsimp only

theorem State.loadFactory_onward {s t : State} (h : s.Onward t) : s.Onward (State.loadFactory t) := by
  unfold State.loadFactory
  repeat' first
    | with_reducible assumption
    | (extract_lets -merge +onlyGivenNames x
       first
       | (have _f := fun a => x a
          clear _f
          unfold x
          clear x)
       | (refine onward_cut (P := State.Onward s x) ?_ (fun hx => ?_)
          on_goal 1 => (unfold x; clear x)
          on_goal 2 => clear_value x)
       | clear_value x
       | (unfold x; clear x)
       | clear x)
    | with_reducible apply State.factoryPen_onward
    | with_reducible apply State.imgSet_onward
    | fail_if_no_progress dsimp only

theorem State.clearFolds_onward {s t : State} (h : s.Onward t) : s.Onward (State.clearFolds t) := by
  unfold State.clearFolds
  repeat' first
    | with_reducible assumption
    | (extract_lets -merge +onlyGivenNames x
       first
       | (have _f := fun a => x a
          clear _f
          unfold x
          clear x)
       | (refine onward_cut (P := State.Onward s x) ?_ (fun hx => ?_)
          on_goal 1 => (unfold x; clear x)
          on_goal 2 => clear_value x)
       | clear_value x
       | (unfold x; clear x)
       | clear x)
    | with_reducible apply State.emptyStore_onward
    | with_reducible apply State.resetRegs_onward
    | (with_reducible refine State.Onward.foldl ?_ ?_
       on_goal 1 => intro _ _ _)
    | fail_if_no_progress dsimp only
    | fail_if_no_progress with_reducible apply State.Onward.upd

theorem State.dropPorts_onward {im : Image} {s t : State} (h : s.Onward t) : s.Onward (State.dropPorts im t) := by
  unfold State.dropPorts
  repeat' first
    | with_reducible assumption
    | with_reducible apply State.portOff_onward
    | (with_reducible refine State.Onward.foldl ?_ ?_
       on_goal 1 => intro _ _ _)
    | with_reducible refine State.Onward.ite ?_ ?_
    | split
    | fail_if_no_progress dsimp only
    | fail_if_no_progress with_reducible apply State.Onward.upd

theorem State.loadImage_onward {source : Nat} {im : Image} {s t : State} (h : s.Onward t) :
    s.Onward (State.loadImage source im t) := by
  unfold State.loadImage
  repeat' first
    | with_reducible assumption
    | (extract_lets -merge +onlyGivenNames x
       first
       | (have _f := fun a => x a
          clear _f
          unfold x
          clear x)
       | (refine onward_cut (P := State.Onward s x) ?_ (fun hx => ?_)
          on_goal 1 => (unfold x; clear x)
          on_goal 2 => clear_value x)
       | (refine onward_cut (P := State.Onward s x.2) ?_ (fun hx => ?_)
          on_goal 1 => (unfold x; clear x)
          on_goal 2 => clear_value x)
       | (refine onward_cut (P := State.Onward s x.1) ?_ (fun hx => ?_)
          on_goal 1 => (unfold x; clear x)
          on_goal 2 => clear_value x)
       | clear_value x
       | (unfold x; clear x)
       | clear x)
    | with_reducible apply State.clearFolds_onward
    | with_reducible apply State.dropPorts_onward
    | with_reducible apply State.enableFolds_onward
    | with_reducible apply State.imgClear_onward
    | with_reducible apply State.imgSet_onward
    | with_reducible apply State.laneRequest_onward
    | with_reducible apply State.loadFactory_onward
    | with_reducible apply State.loadGroups_onward
    | with_reducible apply State.loadPartition_onward
    | with_reducible apply State.loadStreams_onward
    | with_reducible apply State.pathFollow_onward
    | with_reducible apply State.penReset_onward
    | with_reducible apply State.presetsDone_onward
    | with_reducible apply State.ptpCfgChanged_onward
    | with_reducible apply State.resetChannels_onward
    | with_reducible apply State.trigCancel_onward
    | with_reducible apply State.updStruct_onward
    | (with_reducible refine State.Onward.foldl ?_ ?_
       on_goal 1 => intro _ _ _)
    | (with_reducible refine State.Onward.foldl2 ?_ ?_
       on_goal 1 => intro _ _ _)
    | (with_reducible refine State.Onward.foldl1 ?_ ?_
       on_goal 1 => intro _ _ _)
    | with_reducible refine State.Onward.ite ?_ ?_
    | split
    | fail_if_no_progress dsimp only
    | fail_if_no_progress with_reducible apply State.Onward.upd

theorem State.reconfigure_onward {s t : State} (h : s.Onward t) : s.Onward (State.reconfigure t) := by
  unfold State.reconfigure
  repeat' first
    | with_reducible assumption
    | with_reducible apply State.firstPower_onward
    | with_reducible apply State.loadImage_onward
    | with_reducible apply State.retain_onward
    | with_reducible apply State.setStage_onward
    | with_reducible refine State.Onward.ite ?_ ?_
    | split
    | fail_if_no_progress dsimp only
    | fail_if_no_progress with_reducible apply State.Onward.upd

theorem State.retrainStage_onward {s t : State} (h : s.Onward t) : s.Onward (State.retrainStage t) := by
  unfold State.retrainStage
  repeat' first
    | with_reducible assumption
    | with_reducible apply State.leaveActive_onward
    | with_reducible apply State.listenAfresh_onward
    | with_reducible apply State.reconfigure_onward
    | with_reducible apply State.retrain_onward
    | with_reducible apply State.setStage_onward
    | (with_reducible refine State.Onward.foldl ?_ ?_
       on_goal 1 => intro _ _ _)
    | with_reducible refine State.Onward.ite ?_ ?_
    | split
    | fail_if_no_progress dsimp only

theorem State.emptyRegions_onward {st : Nat} {s t : State} (h : s.Onward t) : s.Onward (State.emptyRegions st t) := by
  unfold State.emptyRegions
  repeat' first
    | with_reducible assumption
    | (extract_lets -merge +onlyGivenNames x
       first
       | (have _f := fun a => x a
          clear _f
          unfold x
          clear x)
       | (refine onward_cut (P := State.Onward s x) ?_ (fun hx => ?_)
          on_goal 1 => (unfold x; clear x)
          on_goal 2 => clear_value x)
       | clear_value x
       | (unfold x; clear x)
       | clear x)
    | with_reducible apply State.markOver_onward
    | with_reducible apply State.smallCheck_onward
    | with_reducible apply Fabric.wr_onward
    | with_reducible apply State.wr_onward
    | (with_reducible refine State.Onward.foldl ?_ ?_
       on_goal 1 => intro _ _ _)
    | with_reducible refine State.Onward.ite ?_ ?_
    | split
    | fail_if_no_progress dsimp only

theorem State.commitMarker_onward {source : Nat} {im : Image} {s t : State} (h : s.Onward t) :
    s.Onward (State.commitMarker source im t) := by
  unfold State.commitMarker
  repeat' first
    | with_reducible assumption
    | (extract_lets -merge +onlyGivenNames x
       first
       | (have _f := fun a => x a
          clear _f
          unfold x
          clear x)
       | (refine onward_cut (P := State.Onward s x) ?_ (fun hx => ?_)
          on_goal 1 => (unfold x; clear x)
          on_goal 2 => clear_value x)
       | clear_value x
       | (unfold x; clear x)
       | clear x)
    | with_reducible apply State.marker_onward
    | with_reducible apply State.setFlash_onward
    | with_reducible apply Fabric.wr_onward
    | with_reducible apply State.wr_onward
    | with_reducible refine State.Onward.ite ?_ ?_
    | split
    | fail_if_no_progress dsimp only
    | fail_if_no_progress with_reducible apply State.Onward.upd

theorem State.releaseFreezes_onward {im : Image} {s t : State} (h : s.Onward t) :
    s.Onward (State.releaseFreezes im t) := by
  unfold State.releaseFreezes
  repeat' first
    | with_reducible assumption
    | (extract_lets -merge +onlyGivenNames x
       first
       | (have _f := fun a => x a
          clear _f
          unfold x
          clear x)
       | (refine onward_cut (P := State.Onward s x) ?_ (fun hx => ?_)
          on_goal 1 => (unfold x; clear x)
          on_goal 2 => clear_value x)
       | clear_value x
       | (unfold x; clear x)
       | clear x)
    | with_reducible apply State.fgHeld_onward
    | with_reducible apply State.fgLost_onward
    | with_reducible apply State.updStruct_onward
    | (with_reducible refine State.Onward.foldl ?_ ?_
       on_goal 1 => intro _ _ _)
    | with_reducible refine State.Onward.ite ?_ ?_
    | split
    | fail_if_no_progress dsimp only
    | fail_if_no_progress with_reducible apply State.Onward.upd

theorem State.resumeGroups_onward {s t : State} (h : s.Onward t) : s.Onward (State.resumeGroups t) := by
  unfold State.resumeGroups
  repeat' first
    | with_reducible assumption
    | (extract_lets -merge +onlyGivenNames x
       first
       | (have _f := fun a => x a
          clear _f
          unfold x
          clear x)
       | (refine onward_cut (P := State.Onward s x) ?_ (fun hx => ?_)
          on_goal 1 => (unfold x; clear x)
          on_goal 2 => clear_value x)
       | clear_value x
       | (unfold x; clear x)
       | clear x)
    | with_reducible apply State.burstRearm_onward
    | with_reducible apply State.enterArmed_onward
    | (with_reducible refine State.Onward.foldl ?_ ?_
       on_goal 1 => intro _ _ _)
    | with_reducible refine State.Onward.ite ?_ ?_
    | split
    | fail_if_no_progress dsimp only

theorem State.resume_onward {s t : State} (h : s.Onward t) : s.Onward (State.resume t) := by
  unfold State.resume
  repeat' first
    | with_reducible assumption
    | (extract_lets -merge +onlyGivenNames x
       first
       | (have _f := fun a => x a
          clear _f
          unfold x
          clear x)
       | (refine onward_cut (P := State.Onward s x) ?_ (fun hx => ?_)
          on_goal 1 => (unfold x; clear x)
          on_goal 2 => clear_value x)
       | (refine onward_cut (P := State.Onward s x.2) ?_ (fun hx => ?_)
          on_goal 1 => (unfold x; clear x)
          on_goal 2 => clear_value x)
       | (refine onward_cut (P := State.Onward s x.1) ?_ (fun hx => ?_)
          on_goal 1 => (unfold x; clear x)
          on_goal 2 => clear_value x)
       | clear_value x
       | (unfold x; clear x)
       | clear x)
    | with_reducible apply State.commitMarker_onward
    | with_reducible apply State.emptyRegions_onward
    | with_reducible apply State.factoryRetrain_onward
    | with_reducible apply State.flrDueNow_onward
    | with_reducible apply State.milestone_onward
    | with_reducible apply Fabric.raise_onward
    | with_reducible apply State.raise_onward
    | with_reducible apply State.releaseFreezes_onward
    | with_reducible apply State.result_onward
    | with_reducible apply State.resumeGroups_onward
    | with_reducible apply State.retrain_onward
    | with_reducible apply State.updStruct_onward
    | with_reducible apply Fabric.wr_onward
    | with_reducible apply State.wr_onward
    | (with_reducible refine State.Onward.foldl ?_ ?_
       on_goal 1 => intro _ _ _)
    | (with_reducible refine State.Onward.foldl2 ?_ ?_
       on_goal 1 => intro _ _ _)
    | (with_reducible refine State.Onward.foldl1 ?_ ?_
       on_goal 1 => intro _ _ _)
    | with_reducible refine State.Onward.ite ?_ ?_
    | split
    | fail_if_no_progress dsimp only
    | fail_if_no_progress with_reducible apply State.Onward.upd

theorem State.bootSlots_onward {l : List Nat} {s t : State} (h : s.Onward t) : s.Onward (State.bootSlots l t) := by
  induction l generalizing t with
  | nil => exact State.beginActivation_onward h
  | cons n r ih =>
    rw [State.bootSlots]
    split
    · exact State.beginActivation_onward h
    · exact ih (State.checkFailed_onward h)


theorem State.bootSelect_onward {s t : State} (h : s.Onward t) : s.Onward (State.bootSelect t) := by
  unfold State.bootSelect
  repeat' first
    | with_reducible assumption
    | with_reducible apply State.bootSlots_onward

theorem State.rollback_onward {s t : State} (h : s.Onward t) : s.Onward (State.rollback t) := by
  unfold State.rollback
  repeat' first
    | with_reducible assumption
    | (extract_lets -merge +onlyGivenNames x
       first
       | (have _f := fun a => x a
          clear _f
          unfold x
          clear x)
       | (refine onward_cut (P := State.Onward s x) ?_ (fun hx => ?_)
          on_goal 1 => (unfold x; clear x)
          on_goal 2 => clear_value x)
       | clear_value x
       | (unfold x; clear x)
       | clear x)
    | with_reducible apply State.bootSelect_onward
    | with_reducible apply State.closeFrame_onward
    | with_reducible apply State.idleOutputs_onward
    | with_reducible apply State.notePlaced_onward
    | with_reducible apply Fabric.raise_onward
    | with_reducible apply State.raise_onward
    | with_reducible apply State.rollbackBegin_onward
    | with_reducible apply State.updStruct_onward
    | with_reducible apply Fabric.wr_onward
    | with_reducible apply State.wr_onward
    | (with_reducible refine State.Onward.foldl ?_ ?_
       on_goal 1 => intro _ _ _)
    | with_reducible refine State.Onward.ite ?_ ?_
    | split
    | fail_if_no_progress dsimp only
    | fail_if_no_progress with_reducible apply State.Onward.upd

theorem State.serveStructure_onward {s t : State} (h : s.Onward t) : s.Onward (State.serveStructure t) := by
  unfold State.serveStructure
  repeat' first
    | with_reducible assumption
    | (extract_lets -merge +onlyGivenNames x
       first
       | (have _f := fun a => x a
          clear _f
          unfold x
          clear x)
       | (refine onward_cut (P := State.Onward s x) ?_ (fun hx => ?_)
          on_goal 1 => (unfold x; clear x)
          on_goal 2 => clear_value x)
       | (refine onward_cut (P := State.Onward s x.2) ?_ (fun hx => ?_)
          on_goal 1 => (unfold x; clear x)
          on_goal 2 => clear_value x)
       | (refine onward_cut (P := State.Onward s x.1) ?_ (fun hx => ?_)
          on_goal 1 => (unfold x; clear x)
          on_goal 2 => clear_value x)
       | clear_value x
       | (unfold x; clear x)
       | clear x)
    | with_reducible apply State.strServe_onward
    | with_reducible apply State.updStruct_onward
    | (with_reducible refine State.Onward.foldl ?_ ?_
       on_goal 1 => intro _ _ _)
    | (with_reducible refine State.Onward.foldl2 ?_ ?_
       on_goal 1 => intro _ _ _)
    | (with_reducible refine State.Onward.foldl1 ?_ ?_
       on_goal 1 => intro _ _ _)
    | fail_if_no_progress dsimp only
    | fail_if_no_progress with_reducible apply State.Onward.upd

theorem State.serveAll_onward {s t : State} (h : s.Onward t) : s.Onward (State.serveAll t) := by
  unfold State.serveAll
  repeat' first
    | with_reducible assumption
    | with_reducible apply State.serveStructure_onward
    | with_reducible apply State.serveWaiting_onward

end Sys2Proof.Machine
end

