-- ==== Sys2Proof/Laws/Bellwether.lean ====
section
/-! SUPPORT. What each operation of `Machine/Bellwether.lean` keeps (see `Laws/Onward.lean`). -/
set_option linter.unusedTactic false
set_option linter.unreachableTactic false
set_option linter.tactic.unusedName false
namespace Sys2Proof.Machine

theorem State.postEncoder_onward {k : Nat} {x : EncSample} {s t : State} (h : s.Onward t) :
    s.Onward (State.postEncoder k x t) := by
  unfold State.postEncoder
  repeat' first
    | with_reducible assumption
    | with_reducible apply State.updEnc_onward
    | fail_if_no_progress dsimp only
    | fail_if_no_progress with_reducible apply State.Onward.upd

theorem State.workDone_onward {w : Work} {s t : State} (h : s.Onward t) : s.Onward (State.workDone w t) := by
  unfold State.workDone
  repeat' first
    | with_reducible assumption
    | with_reducible apply State.collect_onward
    | with_reducible apply State.postEncoder_onward
    | with_reducible apply State.postPlacements_onward
    | with_reducible apply State.releaseBlock_onward
    | with_reducible apply State.setAbs_onward
    | with_reducible apply State.updCtx_onward
    | with_reducible apply State.updTrig_onward
    | with_reducible refine State.Onward.ite ?_ ?_
    | split
    | fail_if_no_progress dsimp only
    | fail_if_no_progress with_reducible apply State.Onward.upd

theorem State.runWork_onward {l : List (Nat × Work)} {left : Nat} {s t : State} (h : s.Onward t) :
    s.Onward (State.runWork l left t) := by
  induction l generalizing left t with
  | nil => exact State.Onward.upd h
  | cons e r ih =>
    obtain ⟨u, w⟩ := e
    have k : s.Onward (if w.ofSequencer then
        { t with bw := { t.bw with sequencer := t.bw.sequencer + min u left } } else t) :=
      State.Onward.ite (State.Onward.upd h) h
    simp only [State.runWork]
    exact State.Onward.ite (ih (State.workDone_onward k)) (State.Onward.upd k)


theorem State.tickEnd_onward {s t : State} (h : s.Onward t) : s.Onward (State.tickEnd t) := by
  unfold State.tickEnd
  repeat' first
    | with_reducible assumption
    | (extract_lets -merge +onlyGivenNames x
       first
       | (have _f := fun a => x a
          clear _f
          unfold x
          clear x)
       | (refine onward_cut (P := State.Onward s x) ?_ (fun hx => ?_)
          on_goal 1 => (unfold x; clear x)
          on_goal 2 => clear_value x)
       | clear_value x
       | (unfold x; clear x)
       | clear x)
    | with_reducible apply Fabric.raise_onward
    | with_reducible apply State.raise_onward
    | with_reducible apply Fabric.tally_onward
    | with_reducible apply State.tally_onward
    | with_reducible apply Fabric.wr_onward
    | with_reducible apply State.wr_onward
    | with_reducible refine State.Onward.ite ?_ ?_
    | split
    | fail_if_no_progress dsimp only

theorem State.tickStarts_onward {s t : State} (h : s.Onward t) : s.Onward (State.tickStarts t).1 := by
  unfold State.tickStarts
  repeat' first
    | with_reducible assumption
    | (extract_lets -merge +onlyGivenNames x
       first
       | (have _f := fun a => x a
          clear _f
          unfold x
          clear x)
       | (refine onward_cut (P := State.Onward s x) ?_ (fun hx => ?_)
          on_goal 1 => (unfold x; clear x)
          on_goal 2 => clear_value x)
       | clear_value x
       | (unfold x; clear x)
       | clear x)
    | with_reducible apply State.absAsk_onward
    | with_reducible apply State.aiStart_onward
    | (with_reducible refine State.Onward.foldl ?_ ?_
       on_goal 1 => intro _ _ _)
    | with_reducible refine State.Onward.ite ?_ ?_
    | split
    | fail_if_no_progress dsimp only

theorem State.tick_onward {s t : State} (h : s.Onward t) : s.Onward (State.tick t) := by
  unfold State.tick
  repeat' first
    | with_reducible assumption
    | (extract_lets -merge +onlyGivenNames x
       first
       | (have _f := fun a => x a
          clear _f
          unfold x
          clear x)
       | (refine onward_cut (P := State.Onward s x) ?_ (fun hx => ?_)
          on_goal 1 => (unfold x; clear x)
          on_goal 2 => clear_value x)
       | (refine onward_cut (P := State.Onward s x.2) ?_ (fun hx => ?_)
          on_goal 1 => (unfold x; clear x)
          on_goal 2 => clear_value x)
       | (refine onward_cut (P := State.Onward s x.1) ?_ (fun hx => ?_)
          on_goal 1 => (unfold x; clear x)
          on_goal 2 => clear_value x)
       | (refine onward_cut (P := TimeBase.Onward s.tb x) ?_ (fun hx => ?_)
          on_goal 1 => (unfold x; clear x)
          on_goal 2 => clear_value x)
       | clear_value x
       | (unfold x; clear x)
       | clear x)
    | with_reducible apply State.bwApply_onward
    | with_reducible apply State.runTo_onward
    | with_reducible apply State.runWork_onward
    | with_reducible apply State.setAbs_onward
    | with_reducible apply State.tickEnd_onward
    | with_reducible apply State.tickStarts_onward
    | with_reducible apply State.trigPromote_onward
    | (with_reducible refine State.Onward.foldl ?_ ?_
       on_goal 1 => intro _ _ _)
    | (with_reducible refine State.Onward.foldl2 ?_ ?_
       on_goal 1 => intro _ _ _)
    | (with_reducible refine State.Onward.foldl1 ?_ ?_
       on_goal 1 => intro _ _ _)
    | with_reducible refine State.Onward.ite ?_ ?_
    | split
    | fail_if_no_progress dsimp only
    | fail_if_no_progress with_reducible apply State.Onward.upd
    | with_reducible refine State.Onward.updTb ?_ ?_
    | fail_if_no_progress with_reducible apply TimeBase.Onward.upd
    | with_reducible apply State.Onward.tb

end Sys2Proof.Machine
end

