-- ==== Sys2Proof/Laws/Resets.lean ====
section
/-! SUPPORT. What each operation of `Machine/Resets.lean` keeps (see `Laws/Onward.lean`). -/
set_option linter.unusedTactic false
set_option linter.unreachableTactic false
set_option linter.tactic.unusedName false
namespace Sys2Proof.Machine

theorem State.cutFlash_onward {s t : State} (h : s.Onward t) : s.Onward (State.cutFlash t) := by
  unfold State.cutFlash
  repeat' first
    | with_reducible assumption
    | (extract_lets -merge +onlyGivenNames x
       first
       | (have _f := fun a => x a
          clear _f
          unfold x
          clear x)
       | (refine onward_cut (P := State.Onward s x) ?_ (fun hx => ?_)
          on_goal 1 => (unfold x; clear x)
          on_goal 2 => clear_value x)
       | clear_value x
       | (unfold x; clear x)
       | clear x)
    | with_reducible apply State.setStage_onward
    | with_reducible apply State.updShep_onward
    | with_reducible apply State.updStruct_onward
    | with_reducible refine State.Onward.ite ?_ ?_
    | split
    | fail_if_no_progress dsimp only
    | fail_if_no_progress with_reducible apply State.Onward.upd

/-- The core at its reset values: device time and the counters start again (R349). -/
theorem State.coreOff_sound {keep : Nat → Bool} {s t : State} (h : s.Sound t) : s.Sound (State.coreOff keep t) :=
  ⟨⟨h.kept.pending, ⟨h.kept.fab.mem, fun w => twf_filter (h.kept.fab.regs w), h.kept.fab.out⟩, h.kept.free⟩,
    fun _ _ => rfl⟩


theorem State.paddockLost_onward {s t : State} (h : s.Onward t) : s.Onward (State.paddockLost t) :=
  State.Onward.updFab h ⟨fun _ => rfl, h.fab.regs, h.fab.out⟩


theorem State.shepherdFresh_onward {s t : State} (h : s.Onward t) : s.Onward (State.shepherdFresh t) := by
  unfold State.shepherdFresh
  repeat' first
    | with_reducible assumption
    | fail_if_no_progress with_reducible apply State.Onward.upd

theorem State.alwaysOnLost_onward {s t : State} (h : s.Onward t) : s.Onward (State.alwaysOnLost t) := by
  have k : s.Onward (t.inFab fun b => { b with regs := b.regs.filter fun e => !alwaysOnReg e.1 }) :=
    State.Onward.updFab h ⟨h.fab.mem, fun w => twf_filter (h.fab.regs w), h.fab.out⟩
  exact State.Onward.upd (State.shepherdFresh_onward k)


theorem State.supplyLost_sound {aux seated : Bool} {s t : State} (h : s.Sound t) :
    s.Sound (State.supplyLost aux seated t) := by
  have k := (State.coreOff_sound (keep := alwaysOnReg) (h.then (State.cutFlash_onward (State.cutActivation_onward .rfl)))).then
    (State.paddockLost_onward .rfl)
  simp only [State.supplyLost]
  exact .ite (k.then (State.wrIf_onward (State.wrIf_onward (State.Onward.upd .rfl))))
    (k.then (State.alwaysOnLost_onward (State.wrIf_onward (State.wrIf_onward (State.Onward.upd .rfl)))))


theorem State.auxChange_onward {present : Bool} {s t : State} (h : s.Onward t) :
    s.Onward (State.auxChange present t) := by
  unfold State.auxChange
  repeat' first
    | with_reducible assumption
    | (extract_lets -merge +onlyGivenNames x
       first
       | (have _f := fun a => x a
          clear _f
          unfold x
          clear x)
       | (refine onward_cut (P := State.Onward s x) ?_ (fun hx => ?_)
          on_goal 1 => (unfold x; clear x)
          on_goal 2 => clear_value x)
       | clear_value x
       | (unfold x; clear x)
       | clear x)
    | with_reducible apply State.alwaysOnLost_onward
    | with_reducible apply Fabric.raise_onward
    | with_reducible apply State.raise_onward
    | with_reducible apply State.wrIf_onward
    | with_reducible refine State.Onward.ite ?_ ?_
    | split
    | fail_if_no_progress dsimp only
    | fail_if_no_progress with_reducible apply State.Onward.upd

theorem State.supplyFirst_onward {mv : Nat} {s t : State} (h : s.Onward t) : s.Onward (State.supplyFirst mv t) := by
  unfold State.supplyFirst
  repeat' first
    | with_reducible assumption
    | (extract_lets -merge +onlyGivenNames x
       first
       | (have _f := fun a => x a
          clear _f
          unfold x
          clear x)
       | (refine onward_cut (P := State.Onward s x) ?_ (fun hx => ?_)
          on_goal 1 => (unfold x; clear x)
          on_goal 2 => clear_value x)
       | clear_value x
       | (unfold x; clear x)
       | clear x)
    | with_reducible apply Fabric.raise_onward
    | with_reducible apply State.raise_onward
    | with_reducible apply Fabric.wr_onward
    | with_reducible apply State.wr_onward
    | with_reducible refine State.Onward.ite ?_ ?_
    | split
    | fail_if_no_progress dsimp only

theorem State.coreUp_onward {s t : State} (h : s.Onward t) : s.Onward (State.coreUp t) := by
  unfold State.coreUp
  repeat' first
    | with_reducible assumption
    | with_reducible apply Fabric.wr_onward
    | with_reducible apply State.wr_onward

theorem State.coldReset_sound {mv : Nat} {s t : State} (h : s.Sound t) : s.Sound (State.coldReset mv t) := by
  have k := State.coreOff_sound (keep := fun _ => false) h
  simp only [State.coldReset]
  refine .ite h (k.then ?_)
  apply State.supplyFirst_onward
  apply State.coreUp_onward
  apply State.wr_onward
  apply State.wrIf_onward
  iterate 3 apply State.wr_onward
  apply State.wrIf_onward
  apply State.Onward.upd
  exact State.shepherdFresh_onward (State.paddockLost_onward .rfl)


theorem State.rangeChange_sound {mv : Nat} {s t : State} (h : s.Sound t) : s.Sound (State.rangeChange mv t) :=
  .ite h (.ite (State.supplyLost_sound h) (h.then (State.supplyMoves_onward .rfl)))


theorem State.selfRefresh_onward {s t : State} (h : s.Onward t) : s.Onward (State.selfRefresh t) := by
  unfold State.selfRefresh
  repeat' first
    | with_reducible assumption
    | (extract_lets -merge +onlyGivenNames x
       first
       | (have _f := fun a => x a
          clear _f
          unfold x
          clear x)
       | (refine onward_cut (P := State.Onward s x) ?_ (fun hx => ?_)
          on_goal 1 => (unfold x; clear x)
          on_goal 2 => clear_value x)
       | clear_value x
       | (unfold x; clear x)
       | clear x)
    | with_reducible apply Fabric.wr_onward
    | with_reducible apply State.wr_onward
    | fail_if_no_progress dsimp only
    | fail_if_no_progress with_reducible apply State.Onward.upd

theorem State.resetAssert_onward {line : Nat} {s t : State} (h : s.Onward t) : s.Onward (State.resetAssert line t) := by
  have k : s.Onward { t with power := { t.power with lines := line :: t.power.lines, inReset := true, released := false } } :=
    State.Onward.upd h
  simp only [State.resetAssert]
  have j := State.Onward.ite (c := line = 1 ∧ State.rd { t with power :=
    { t.power with lines := line :: t.power.lines, inReset := true, released := false } } GLB_PWR_REQ_PHY_OFF_IN_RESET = 1)
    (State.wr_onward (f := GLB_PWR_STATUS_PHY) (v := 0) k) k
  exact .ite h (.ite (State.selfRefresh_onward (State.wr_onward (State.idleOutputs_onward (State.cutFlash_onward
    (State.cutActivation_onward j))))) j)


theorem State.startUp_sound {line : Nat} {s t : State} (h : s.Sound t) : s.Sound (State.startUp line t) := by
  have k := State.coreOff_sound (keep := supplyReg) h
  refine k.then ?_
  apply State.milestone_onward
  iterate 3 apply State.wr_onward
  apply State.coreUp_onward
  iterate 3 apply State.wr_onward
  apply State.wrIf_onward
  apply State.wr_onward
  apply State.Onward.upd
  exact State.shepherdFresh_onward .rfl


theorem State.resetRelease_sound {line : Nat} {s t : State} (h : s.Sound t) : s.Sound (State.resetRelease line t) := by
  have k : s.Sound { t with power := { t.power with lines := t.power.lines.filter (· != line), lastLine := line } } :=
    h.then (State.Onward.upd .rfl)
  simp only [State.resetRelease]
  exact .ite h (.ite (.ite (h.then (State.milestone_onward .rfl)) h)
    (.ite k (.ite (h.then (State.Onward.upd (State.Onward.upd .rfl))) (State.startUp_sound k))))


theorem State.trip_sound {s t : State} (h : s.Sound t) : s.Sound (State.trip t) := by
  unfold State.trip
  extract_lets s1 s2 p s3
  have h1 : t.Onward s1 := State.cutFlash_onward (State.cutActivation_onward (State.idleOutputs_onward .rfl))
  have h2 : s.Sound s2 := State.coreOff_sound (h.then h1)
  have h3 : s2.Onward s3 := State.selfRefresh_onward (State.Onward.upd .rfl)
  clear_value s3 p
  clear h1
  clear_value s2
  exact (h2.then h3).then (State.healthAppend_onward (State.tally_onward (State.wr_onward .rfl)))


theorem State.thermalSample_sound {temps : List Nat} {s t : State} (h : s.Sound t) :
    s.Sound (State.thermalSample temps t) := by
  unfold State.thermalSample
  extract_lets raw u s1 s2 s3 hot again s4
  have k : t.Onward s4 := State.updShep_onward (State.thermalWarn_onward (State.throttleMs_onward (State.stepJoin_onward
    (State.Onward.foldl (fun _ _ k => State.stepFold_onward k) (State.thermalRead_onward .rfl)))))
  have k := h.then k
  clear_value s4
  exact .ite (State.trip_sound k) (.ite (State.startUp_sound k) k)


theorem State.firmwareBoots_onward {s t : State} (h : s.Onward t) : s.Onward (State.firmwareBoots t) := by
  unfold State.firmwareBoots
  repeat' first
    | with_reducible assumption
    | (extract_lets -merge +onlyGivenNames x
       first
       | (have _f := fun a => x a
          clear _f
          unfold x
          clear x)
       | (refine onward_cut (P := State.Onward s x) ?_ (fun hx => ?_)
          on_goal 1 => (unfold x; clear x)
          on_goal 2 => clear_value x)
       | (refine onward_cut (P := State.Onward s x.2) ?_ (fun hx => ?_)
          on_goal 1 => (unfold x; clear x)
          on_goal 2 => clear_value x)
       | clear_value x
       | (unfold x; clear x)
       | clear x)
    | with_reducible apply State.bootSelect_onward
    | with_reducible apply State.calDue_onward
    | with_reducible apply State.calLoadBoot_onward
    | with_reducible apply State.extend_onward
    | with_reducible apply State.extendSet_onward
    | with_reducible apply State.healthLoad_onward
    | with_reducible apply State.serveAll_onward
    | with_reducible apply State.showSlot_onward
    | with_reducible apply Fabric.tally_onward
    | with_reducible apply State.tally_onward
    | (with_reducible refine State.Onward.foldl ?_ ?_
       on_goal 1 => intro _ _ _)
    | (with_reducible refine State.Onward.foldl2 ?_ ?_
       on_goal 1 => intro _ _ _)
    | (with_reducible refine State.Onward.foldl1 ?_ ?_
       on_goal 1 => intro _ _ _)
    | with_reducible refine State.Onward.ite ?_ ?_
    | split
    | fail_if_no_progress dsimp only
    | fail_if_no_progress with_reducible apply State.Onward.upd

theorem State.shepherdBoot_onward {s t : State} (h : s.Onward t) : s.Onward (State.shepherdBoot t) := by
  unfold State.shepherdBoot
  repeat' first
    | with_reducible assumption
    | (extract_lets -merge +onlyGivenNames x
       first
       | (have _f := fun a => x a
          clear _f
          unfold x
          clear x)
       | (refine onward_cut (P := State.Onward s x) ?_ (fun hx => ?_)
          on_goal 1 => (unfold x; clear x)
          on_goal 2 => clear_value x)
       | clear_value x
       | (unfold x; clear x)
       | clear x)
    | with_reducible apply State.extend_onward
    | with_reducible apply State.firmwareBoots_onward
    | with_reducible apply State.milestone_onward
    | with_reducible apply State.serveAll_onward
    | with_reducible apply State.startFirmware_onward
    | with_reducible refine State.Onward.ite ?_ ?_
    | split
    | fail_if_no_progress dsimp only

theorem State.watchdog_onward {s t : State} (h : s.Onward t) : s.Onward (State.watchdog t) := by
  unfold State.watchdog
  repeat' first
    | with_reducible assumption
    | with_reducible apply State.restartFirmware_onward
    | with_reducible apply State.serveAll_onward
    | with_reducible apply Fabric.tally_onward
    | with_reducible apply State.tally_onward
    | with_reducible refine State.Onward.ite ?_ ?_
    | split

theorem State.warmRegs_onward {s t : State} (h : s.Onward t) : s.Onward (State.warmRegs t) := by
  have step (g : Tab Word → Nat × Word → Nat × Word) (l : List (Nat × Word)) (r : Tab Word)
      (hr : twf resetWord r = true) :
      twf resetWord (l.foldl (fun t e => tset resetWord t (g t e).1 (g t e).2) r) = true := by
    induction l generalizing r with
    | nil => exact hr
    | cons e l ih => exact ih _ (twf_tset hr)
  refine State.Onward.updFab h ⟨h.fab.mem, fun w => ?_, h.fab.out⟩
  exact step (fun t' e => (e.1, warmWord t.struct.img e.1 (tget resetWord t' e.1))) _ _
    (step (fun _ e => (e.1, warmWord t.struct.img e.1 e.2)) _ _ (h.fab.regs w))


theorem State.warmContext_onward {h' : Nat × Nat} {s t : State} (h : s.Onward t) :
    s.Onward (State.warmContext h' t) := by
  unfold State.warmContext
  repeat' first
    | with_reducible assumption
    | (extract_lets -merge +onlyGivenNames x
       first
       | (have _f := fun a => x a
          clear _f
          unfold x
          clear x)
       | (refine onward_cut (P := State.Onward s x) ?_ (fun hx => ?_)
          on_goal 1 => (unfold x; clear x)
          on_goal 2 => clear_value x)
       | (refine onward_cut (P := State.Onward s x.2) ?_ (fun hx => ?_)
          on_goal 1 => (unfold x; clear x)
          on_goal 2 => clear_value x)
       | (refine onward_cut (P := State.Onward s x.1) ?_ (fun hx => ?_)
          on_goal 1 => (unfold x; clear x)
          on_goal 2 => clear_value x)
       | clear_value x
       | (unfold x; clear x)
       | clear x)
    | with_reducible apply State.clearCoder_onward
    | with_reducible apply State.clearDark_onward
    | with_reducible apply State.updCtx_onward
    | with_reducible apply Fabric.wr_onward
    | with_reducible apply State.wr_onward
    | fail_if_no_progress dsimp only
    | fail_if_no_progress with_reducible apply State.Onward.upd

theorem State.warmTime_onward {s t : State} (h : s.Onward t) : s.Onward (State.warmTime t) := by
  unfold State.warmTime
  repeat' first
    | with_reducible assumption
    | (extract_lets -merge +onlyGivenNames x
       first
       | (have _f := fun a => x a
          clear _f
          unfold x
          clear x)
       | (refine onward_cut (P := State.Onward s x) ?_ (fun hx => ?_)
          on_goal 1 => (unfold x; clear x)
          on_goal 2 => clear_value x)
       | (refine onward_cut (P := State.Onward s x.2) ?_ (fun hx => ?_)
          on_goal 1 => (unfold x; clear x)
          on_goal 2 => clear_value x)
       | (refine onward_cut (P := State.Onward s x.1) ?_ (fun hx => ?_)
          on_goal 1 => (unfold x; clear x)
          on_goal 2 => clear_value x)
       | clear_value x
       | (unfold x; clear x)
       | clear x)
    | with_reducible apply State.loseHistory_onward
    | with_reducible apply State.slotDisarm_onward
    | with_reducible refine State.updCounter_onward (fun _ => rfl) ?_
    | with_reducible apply Fabric.wr_onward
    | with_reducible apply State.wr_onward
    | (with_reducible refine State.Onward.foldl ?_ ?_
       on_goal 1 => intro _ _ _)
    | (with_reducible refine State.Onward.foldl2 ?_ ?_
       on_goal 1 => intro _ _ _)
    | (with_reducible refine State.Onward.foldl1 ?_ ?_
       on_goal 1 => intro _ _ _)
    | with_reducible refine State.Onward.ite ?_ ?_
    | split
    | fail_if_no_progress dsimp only
    | fail_if_no_progress with_reducible apply State.Onward.upd

theorem State.warmCal_onward {s t : State} (h : s.Onward t) : s.Onward (State.warmCal t) := by
  unfold State.warmCal
  repeat' first
    | with_reducible assumption
    | with_reducible apply State.calDue_onward
    | with_reducible apply Fabric.wr_onward
    | with_reducible apply State.wr_onward
    | (with_reducible refine State.Onward.foldl ?_ ?_
       on_goal 1 => intro _ _ _)
    | with_reducible refine State.Onward.ite ?_ ?_
    | split
    | fail_if_no_progress dsimp only

theorem State.warmReset_onward {s t : State} (h : s.Onward t) : s.Onward (State.warmReset t) := by
  unfold State.warmReset
  repeat' first
    | with_reducible assumption
    | (extract_lets -merge +onlyGivenNames x
       first
       | (have _f := fun a => x a
          clear _f
          unfold x
          clear x)
       | (refine onward_cut (P := State.Onward s x) ?_ (fun hx => ?_)
          on_goal 1 => (unfold x; clear x)
          on_goal 2 => clear_value x)
       | clear_value x
       | (unfold x; clear x)
       | clear x)
    | with_reducible apply State.clipOpen_onward
    | with_reducible apply State.cutActivation_onward
    | with_reducible apply State.idleOutputs_onward
    | with_reducible apply State.resetChannels_onward
    | with_reducible apply Fabric.wr_onward
    | with_reducible apply State.wr_onward
    | (with_reducible refine State.Onward.foldl ?_ ?_
       on_goal 1 => intro _ _ _)
    | with_reducible refine State.Onward.ite ?_ ?_
    | split
    | fail_if_no_progress dsimp only

theorem State.warmReload_onward {s t : State} (h : s.Onward t) : s.Onward (State.warmReload t) := by
  unfold State.warmReload
  repeat' first
    | with_reducible assumption
    | (extract_lets -merge +onlyGivenNames x
       first
       | (have _f := fun a => x a
          clear _f
          unfold x
          clear x)
       | (refine onward_cut (P := State.Onward s x) ?_ (fun hx => ?_)
          on_goal 1 => (unfold x; clear x)
          on_goal 2 => clear_value x)
       | (refine onward_cut (P := State.Onward s x.2) ?_ (fun hx => ?_)
          on_goal 1 => (unfold x; clear x)
          on_goal 2 => clear_value x)
       | (refine onward_cut (P := State.Onward s x.1) ?_ (fun hx => ?_)
          on_goal 1 => (unfold x; clear x)
          on_goal 2 => clear_value x)
       | clear_value x
       | (unfold x; clear x)
       | clear x)
    | with_reducible apply State.closeFrame_onward
    | with_reducible apply State.egImg_onward
    | with_reducible apply State.penReset_onward
    | with_reducible apply State.presetsDone_onward
    | with_reducible apply State.viewReset_onward
    | with_reducible apply State.warmCal_onward
    | with_reducible apply State.warmContext_onward
    | with_reducible apply State.warmRegs_onward
    | with_reducible apply State.warmTime_onward
    | with_reducible apply Fabric.wr_onward
    | with_reducible apply State.wr_onward
    | (with_reducible refine State.Onward.foldl ?_ ?_
       on_goal 1 => intro _ _ _)
    | (with_reducible refine State.Onward.foldl2 ?_ ?_
       on_goal 1 => intro _ _ _)
    | (with_reducible refine State.Onward.foldl1 ?_ ?_
       on_goal 1 => intro _ _ _)
    | with_reducible refine State.Onward.ite ?_ ?_
    | split
    | fail_if_no_progress dsimp only
    | fail_if_no_progress with_reducible apply State.Onward.upd

theorem State.recoveryEnd_onward {us : Nat} {rate : Nat} {s t : State} (h : s.Onward t) :
    s.Onward (State.recoveryEnd us rate t) := by
  unfold State.recoveryEnd
  repeat' first
    | with_reducible assumption
    | (extract_lets -merge +onlyGivenNames x
       first
       | (have _f := fun a => x a
          clear _f
          unfold x
          clear x)
       | (refine onward_cut (P := State.Onward s x) ?_ (fun hx => ?_)
          on_goal 1 => (unfold x; clear x)
          on_goal 2 => clear_value x)
       | clear_value x
       | (unfold x; clear x)
       | clear x)
    | with_reducible apply State.flrDueNow_onward
    | with_reducible apply State.scanComplete_onward
    | with_reducible refine State.Onward.ite ?_ ?_
    | split
    | fail_if_no_progress dsimp only

theorem State.managementReset_onward {s t : State} (h : s.Onward t) : s.Onward (State.managementReset t) := by
  unfold State.managementReset
  repeat' first
    | with_reducible assumption
    | (extract_lets -merge +onlyGivenNames x
       first
       | (have _f := fun a => x a
          clear _f
          unfold x
          clear x)
       | (refine onward_cut (P := State.Onward s x) ?_ (fun hx => ?_)
          on_goal 1 => (unfold x; clear x)
          on_goal 2 => clear_value x)
       | clear_value x
       | (unfold x; clear x)
       | clear x)
    | with_reducible apply State.cutActivation_onward
    | with_reducible apply State.functionScope_onward
    | with_reducible apply State.setDeferred_onward
    | with_reducible apply State.setUpload_onward
    | with_reducible apply State.updShep_onward
    | with_reducible refine State.Onward.ite ?_ ?_
    | split
    | fail_if_no_progress dsimp only
    | fail_if_no_progress with_reducible apply State.Onward.upd

theorem State.linkDown_onward {hot : Bool} {s t : State} (h : s.Onward t) : s.Onward (State.linkDown hot t) := by
  unfold State.linkDown
  repeat' first
    | with_reducible assumption
    | (extract_lets -merge +onlyGivenNames x
       first
       | (have _f := fun a => x a
          clear _f
          unfold x
          clear x)
       | (refine onward_cut (P := State.Onward s x) ?_ (fun hx => ?_)
          on_goal 1 => (unfold x; clear x)
          on_goal 2 => clear_value x)
       | clear_value x
       | (unfold x; clear x)
       | clear x)
    | with_reducible apply State.functionScope_onward
    | with_reducible apply State.hostEvent_onward
    | with_reducible apply State.managementReset_onward
    | with_reducible apply State.stopNow_onward
    | with_reducible apply Fabric.tally_onward
    | with_reducible apply State.tally_onward
    | with_reducible apply Fabric.wr_onward
    | with_reducible apply State.wr_onward
    | (with_reducible refine State.Onward.foldl ?_ ?_
       on_goal 1 => intro _ _ _)
    | with_reducible refine State.Onward.ite ?_ ?_
    | split
    | fail_if_no_progress dsimp only
    | fail_if_no_progress with_reducible apply State.Onward.upd

theorem State.unseat_onward {s t : State} (h : s.Onward t) : s.Onward (State.unseat t) := by
  unfold State.unseat
  repeat' first
    | with_reducible assumption
    | (extract_lets -merge +onlyGivenNames x
       first
       | (have _f := fun a => x a
          clear _f
          unfold x
          clear x)
       | (refine onward_cut (P := State.Onward s x) ?_ (fun hx => ?_)
          on_goal 1 => (unfold x; clear x)
          on_goal 2 => clear_value x)
       | clear_value x
       | (unfold x; clear x)
       | clear x)
    | with_reducible apply State.idleOutputs_onward
    | with_reducible apply Fabric.raise_onward
    | with_reducible apply State.raise_onward
    | with_reducible apply Fabric.wr_onward
    | with_reducible apply State.wr_onward
    | with_reducible refine State.Onward.ite ?_ ?_
    | split
    | fail_if_no_progress dsimp only
    | fail_if_no_progress with_reducible apply State.Onward.upd

theorem State.reseat_onward {s t : State} (h : s.Onward t) : s.Onward (State.reseat t) := by
  unfold State.reseat
  repeat' first
    | with_reducible assumption
    | (extract_lets -merge +onlyGivenNames x
       first
       | (have _f := fun a => x a
          clear _f
          unfold x
          clear x)
       | (refine onward_cut (P := State.Onward s x) ?_ (fun hx => ?_)
          on_goal 1 => (unfold x; clear x)
          on_goal 2 => clear_value x)
       | clear_value x
       | (unfold x; clear x)
       | clear x)
    | with_reducible apply State.netFlush_onward
    | with_reducible apply State.programBegin_onward
    | with_reducible apply Fabric.raise_onward
    | with_reducible apply State.raise_onward
    | with_reducible apply Fabric.wr_onward
    | with_reducible apply State.wr_onward
    | with_reducible refine State.Onward.ite ?_ ?_
    | split
    | fail_if_no_progress dsimp only
    | fail_if_no_progress with_reducible apply State.Onward.upd

end Sys2Proof.Machine
end

