-- ==== Sys2Proof/Laws/Host.lean ====
section
/-! SUPPORT. What each operation of `Machine/Host.lean` keeps (see `Laws/Onward.lean`). -/
set_option linter.unusedTactic false
set_option linter.unreachableTactic false
set_option linter.tactic.unusedName false
namespace Sys2Proof.Machine

theorem State.putRegister_onward {fn : Nat} {off : Nat} {w : Word} {s t : State} (h : s.Onward t) :
    s.Onward (State.putRegister fn off w t) := by
  unfold State.putRegister
  repeat' first
    | with_reducible assumption
    | with_reducible apply State.regWrite_onward
    | with_reducible apply State.strCtrl_onward
    | with_reducible apply State.warmReset_onward
    | with_reducible refine State.Onward.ite ?_ ?_
    | split

theorem State.writeWord_onward {fn : Nat} {off : Nat} {w : Word} {s t : State} (h : s.Onward t) :
    s.Onward (State.writeWord fn off w t) := by
  unfold State.writeWord
  repeat' first
    | with_reducible assumption
    | (extract_lets -merge +onlyGivenNames x
       first
       | (have _f := fun a => x a
          clear _f
          unfold x
          clear x)
       | (refine onward_cut (P := State.Onward s x) ?_ (fun hx => ?_)
          on_goal 1 => (unfold x; clear x)
          on_goal 2 => clear_value x)
       | clear_value x
       | (unfold x; clear x)
       | clear x)
    | with_reducible apply State.accErr_onward
    | with_reducible apply State.putRegister_onward
    | with_reducible refine State.Onward.ite ?_ ?_
    | split
    | fail_if_no_progress dsimp only

theorem State.readWord_onward {fn : Nat} {off : Nat} {s t : State} (h : s.Onward t) :
    s.Onward (State.readWord fn off t).2 := by
  unfold State.readWord
  repeat' first
    | with_reducible assumption
    | (extract_lets -merge +onlyGivenNames x
       first
       | (have _f := fun a => x a
          clear _f
          unfold x
          clear x)
       | (refine onward_cut (P := State.Onward s x) ?_ (fun hx => ?_)
          on_goal 1 => (unfold x; clear x)
          on_goal 2 => clear_value x)
       | clear_value x
       | (unfold x; clear x)
       | clear x)
    | with_reducible apply State.accErr_onward
    | with_reducible apply State.regRead_onward
    | with_reducible refine State.Onward.ite ?_ ?_
    | split
    | fail_if_no_progress dsimp only

theorem State.hostWrite_onward {fn : Nat} {off : Nat} {w : Word} {s t : State} (h : s.Onward t) :
    s.Onward (State.hostWrite fn off w t) := by
  unfold State.hostWrite
  repeat' first
    | with_reducible assumption
    | with_reducible apply Fabric.emit_onward
    | with_reducible apply State.emit_onward
    | with_reducible apply State.writeWord_onward
    | with_reducible refine State.Onward.ite ?_ ?_
    | split

theorem State.hostRead_onward {fn : Nat} {off : Nat} {s t : State} (h : s.Onward t) :
    s.Onward (State.hostRead fn off t) := by
  unfold State.hostRead
  repeat' first
    | with_reducible assumption
    | (extract_lets -merge +onlyGivenNames x
       first
       | (have _f := fun a => x a
          clear _f
          unfold x
          clear x)
       | (refine onward_cut (P := State.Onward s x.2) ?_ (fun hx => ?_)
          on_goal 1 => (unfold x; clear x)
          on_goal 2 => clear_value x)
       | (refine onward_cut (P := State.Onward s x.1) ?_ (fun hx => ?_)
          on_goal 1 => (unfold x; clear x)
          on_goal 2 => clear_value x)
       | clear_value x
       | (unfold x; clear x)
       | clear x)
    | with_reducible apply Fabric.emit_onward
    | with_reducible apply State.emit_onward
    | with_reducible apply State.readWord_onward
    | with_reducible refine State.Onward.ite ?_ ?_
    | split
    | fail_if_no_progress dsimp only

theorem State.keepIncrements_onward {fn : Nat} {off : Nat} {inc : Word} {s t : State} (h : s.Onward t) :
    s.Onward (State.keepIncrements fn off inc t) := by
  unfold State.keepIncrements
  repeat' first
    | with_reducible assumption
    | with_reducible apply Fabric.wr_onward
    | with_reducible apply State.wr_onward
    | (with_reducible refine State.Onward.foldl ?_ ?_
       on_goal 1 => intro _ _ _)
    | with_reducible refine State.Onward.ite ?_ ?_
    | split
    | fail_if_no_progress dsimp only
    | fail_if_no_progress with_reducible apply State.Onward.upd

theorem State.readToClear_onward {fn : Nat} {off : Nat} {inc : Word} {s t : State} (h : s.Onward t) :
    s.Onward (State.readToClear fn off inc t) := by
  unfold State.readToClear
  repeat' first
    | with_reducible assumption
    | (extract_lets -merge +onlyGivenNames x
       first
       | (have _f := fun a => x a
          clear _f
          unfold x
          clear x)
       | (refine onward_cut (P := State.Onward s x) ?_ (fun hx => ?_)
          on_goal 1 => (unfold x; clear x)
          on_goal 2 => clear_value x)
       | clear_value x
       | (unfold x; clear x)
       | clear x)
    | with_reducible apply State.hostRead_onward
    | with_reducible apply State.keepIncrements_onward
    | with_reducible refine State.Onward.ite ?_ ?_
    | split
    | fail_if_no_progress dsimp only
    | fail_if_no_progress with_reducible apply State.Onward.upd

theorem State.wideRead_onward {fn : Nat} {off : Nat} {s t : State} (h : s.Onward t) :
    s.Onward (State.wideRead fn off t) := by
  unfold State.wideRead
  repeat' first
    | with_reducible assumption
    | with_reducible apply State.hostRead_onward
    | with_reducible refine State.Onward.ite ?_ ?_
    | split
    | fail_if_no_progress with_reducible apply State.Onward.upd

theorem State.undefinedAccess_onward {fn : Nat} {off : Nat} {write : Bool} {w : Word} {s t : State} (h : s.Onward t) :
    s.Onward (State.undefinedAccess fn off write w t) := by
  unfold State.undefinedAccess
  repeat' first
    | with_reducible assumption
    | with_reducible apply State.hostRead_onward
    | with_reducible apply State.hostWrite_onward
    | with_reducible refine State.Onward.ite ?_ ?_
    | split

theorem State.remoteReply_onward {k : Nat} {src : NetAddr} {port : Nat} {status : Nat} {off : Nat} {value : Word} {tag : Nat} {s t : State} (h : s.Onward t) :
    s.Onward (State.remoteReply k src port status off value tag t) := by
  unfold State.remoteReply
  repeat' first
    | with_reducible assumption
    | with_reducible apply State.netReply_onward

theorem State.remoteControl_onward {k : Nat} {src : NetAddr} {port : Nat} {op : Nat} {off : Nat} {value : Word} {tag : Nat} {s t : State} (h : s.Onward t) :
    s.Onward (State.remoteControl k src port op off value tag t) := by
  unfold State.remoteControl
  repeat' first
    | with_reducible assumption
    | (extract_lets -merge +onlyGivenNames x
       first
       | (have _f := fun a => x a
          clear _f
          unfold x
          clear x)
       | (refine onward_cut (P := State.Onward s x) ?_ (fun hx => ?_)
          on_goal 1 => (unfold x; clear x)
          on_goal 2 => clear_value x)
       | (refine onward_cut (P := State.Onward s x.2) ?_ (fun hx => ?_)
          on_goal 1 => (unfold x; clear x)
          on_goal 2 => clear_value x)
       | (refine onward_cut (P := State.Onward s x.1) ?_ (fun hx => ?_)
          on_goal 1 => (unfold x; clear x)
          on_goal 2 => clear_value x)
       | clear_value x
       | (unfold x; clear x)
       | clear x)
    | with_reducible apply State.netRefused_onward
    | with_reducible apply State.npEv_onward
    | with_reducible apply State.readWord_onward
    | with_reducible apply State.received_onward
    | with_reducible apply State.remoteReply_onward
    | with_reducible apply State.rxDrop_onward
    | with_reducible apply State.writeWord_onward
    | with_reducible refine State.Onward.ite ?_ ?_
    | split
    | fail_if_no_progress dsimp only

end Sys2Proof.Machine
end

