-- ==== Sys2Proof/Laws/Commands.lean ====
section
/-! SUPPORT. What every command keeps: it answers a next state that is `Onward`, or `Sound` where it may reset the core. -/
set_option linter.unusedTactic false
set_option linter.unreachableTactic false
set_option linter.tactic.unusedName false
namespace Sys2Proof.Machine

/-! Activation -/

theorem execStrGo_onward {source : Nat} {wait : Nat} {s : State} :
    ∃ t, execStrGo source wait s = .next t ∧ s.Onward t := by
  have h : s.Onward s := .rfl
  refine ⟨_, rfl, ?_⟩
  repeat' first
    | with_reducible assumption
    | with_reducible apply State.strCtrl_onward

theorem execStrCheck_onward {source : Nat} {wait : Nat} {s : State} :
    ∃ t, execStrCheck source wait s = .next t ∧ s.Onward t := by
  have h : s.Onward s := .rfl
  refine ⟨_, rfl, ?_⟩
  repeat' first
    | with_reducible assumption
    | with_reducible apply State.strCtrl_onward

theorem execStrProgram_onward {source : Nat} {wait : Nat} {s : State} :
    ∃ t, execStrProgram source wait s = .next t ∧ s.Onward t := by
  have h : s.Onward s := .rfl
  refine ⟨_, rfl, ?_⟩
  repeat' first
    | with_reducible assumption
    | with_reducible apply State.strCtrl_onward

theorem execProgramDone_onward {fail : Bool} {s : State} : ∃ t, execProgramDone fail s = .next t ∧ s.Onward t := by
  have h : s.Onward s := .rfl
  refine ⟨_, rfl, ?_⟩
  repeat' first
    | with_reducible assumption
    | with_reducible apply State.programDone_onward

theorem execPostWaitEnd_onward {s : State} : ∃ t, execPostWaitEnd s = .next t ∧ s.Onward t := by
  have h : s.Onward s := .rfl
  refine ⟨_, rfl, ?_⟩
  repeat' first
    | with_reducible assumption
    | with_reducible apply State.postWaitEnd_onward

theorem execActivationQuiesce_onward {s : State} : ∃ t, execActivationQuiesce s = .next t ∧ s.Onward t := by
  have h : s.Onward s := .rfl
  refine ⟨_, rfl, ?_⟩
  repeat' first
    | with_reducible assumption
    | with_reducible apply State.quiesceStage_onward

theorem execQuiesceTimeout_onward {st : Nat} {s : State} : ∃ t, execQuiesceTimeout st s = .next t ∧ s.Onward t := by
  have h : s.Onward s := .rfl
  refine ⟨_, rfl, ?_⟩
  repeat' first
    | with_reducible assumption
    | with_reducible apply State.quiesceTimeout_onward

theorem execActivationRetain_onward {s : State} : ∃ t, execActivationRetain s = .next t ∧ s.Onward t := by
  have h : s.Onward s := .rfl
  refine ⟨_, rfl, ?_⟩
  repeat' first
    | with_reducible assumption
    | with_reducible apply State.retain_onward

theorem execActivationReconfigure_onward {s : State} : ∃ t, execActivationReconfigure s = .next t ∧ s.Onward t := by
  have h : s.Onward s := .rfl
  refine ⟨_, rfl, ?_⟩
  repeat' first
    | with_reducible assumption
    | with_reducible apply State.reconfigure_onward

theorem execActivationRetrain_onward {s : State} : ∃ t, execActivationRetrain s = .next t ∧ s.Onward t := by
  have h : s.Onward s := .rfl
  refine ⟨_, rfl, ?_⟩
  repeat' first
    | with_reducible assumption
    | with_reducible apply State.retrainStage_onward

theorem execActivationResume_onward {s : State} : ∃ t, execActivationResume s = .next t ∧ s.Onward t := by
  have h : s.Onward s := .rfl
  refine ⟨_, rfl, ?_⟩
  repeat' first
    | with_reducible assumption
    | with_reducible apply State.resume_onward

theorem execActivationRollback_onward {s : State} : ∃ t, execActivationRollback s = .next t ∧ s.Onward t := by
  have h : s.Onward s := .rfl
  refine ⟨_, rfl, ?_⟩
  repeat' first
    | with_reducible assumption
    | with_reducible apply State.rollback_onward

/-! Analog -/

theorem execAiConvertNow_onward {c : Nat} {s : State} : ∃ t, execAiConvertNow c s = .next t ∧ s.Onward t := by
  have h : s.Onward s := .rfl
  refine ⟨_, rfl, ?_⟩
  repeat' first
    | with_reducible assumption
    | with_reducible apply State.aiStart_onward

theorem execConversionStart_onward {c : Nat} {s : State} : ∃ t, execConversionStart c s = .next t ∧ s.Onward t := by
  have h : s.Onward s := .rfl
  refine ⟨_, rfl, ?_⟩
  repeat' first
    | with_reducible assumption
    | with_reducible apply State.conversionStart_onward

theorem execRangeSettled_onward {c : Nat} {s : State} : ∃ t, execRangeSettled c s = .next t ∧ s.Onward t := by
  have h : s.Onward s := .rfl
  refine ⟨_, rfl, ?_⟩
  repeat' first
    | with_reducible assumption
    | with_reducible apply State.rangeSettled_onward

theorem execSampleWordFlush_onward {c : Nat} {s : State} : ∃ t, execSampleWordFlush c s = .next t ∧ s.Onward t := by
  have h : s.Onward s := .rfl
  refine ⟨_, rfl, ?_⟩
  repeat' first
    | with_reducible assumption
    | with_reducible apply State.closeWord_onward

/-! Bellwether -/

theorem execBellwetherTick_onward {s : State} : ∃ t, execBellwetherTick s = .next t ∧ s.Onward t := by
  have h : s.Onward s := .rfl
  refine ⟨_, rfl, ?_⟩
  repeat' first
    | with_reducible assumption
    | with_reducible apply State.tick_onward

/-! Calibration -/

theorem execCalRunDue_onward {b : Nat} {temp : Nat} {s : State} :
    ∃ t, execCalRunDue b temp s = .next t ∧ s.Onward t := by
  have h : s.Onward s := .rfl
  refine ⟨_, rfl, ?_⟩
  repeat' first
    | with_reducible assumption
    | with_reducible apply State.calTemp_onward

theorem execCalRun_onward {blocks : Nat} {s : State} : ∃ t, execCalRun blocks s = .next t ∧ s.Onward t := by
  have h : s.Onward s := .rfl
  refine ⟨_, rfl, ?_⟩
  repeat' first
    | with_reducible assumption
    | with_reducible apply State.calRun_onward

theorem execCalSave_onward {s : State} : ∃ t, execCalSave s = .next t ∧ s.Onward t := by
  have h : s.Onward s := .rfl
  refine ⟨_, rfl, ?_⟩
  repeat' first
    | with_reducible assumption
    | with_reducible apply State.calSave_onward

theorem execCalLoad_onward {s : State} : ∃ t, execCalLoad s = .next t ∧ s.Onward t := by
  have h : s.Onward s := .rfl
  refine ⟨_, rfl, ?_⟩
  repeat' first
    | with_reducible assumption
    | with_reducible apply State.calLoad_onward

theorem execCalFactory_onward {s : State} : ∃ t, execCalFactory s = .next t ∧ s.Onward t := by
  have h : s.Onward s := .rfl
  refine ⟨_, rfl, ?_⟩
  repeat' first
    | with_reducible assumption
    | with_reducible apply State.calFactory_onward

theorem execCalGapConversion_onward {c : Nat} {raw : Nat} {s : State} :
    ∃ t, execCalGapConversion c raw s = .next t ∧ s.Onward t := by
  have h : s.Onward s := .rfl
  refine ⟨_, rfl, ?_⟩
  repeat' first
    | with_reducible assumption
    | with_reducible apply State.gapConversion_onward

theorem execDelayLineMeasure_onward {l : Nat} {counts : List Nat} {s : State} :
    ∃ t, execDelayLineMeasure l counts s = .next t ∧ s.Onward t := by
  have h : s.Onward s := .rfl
  refine ⟨_, rfl, ?_⟩
  repeat' first
    | with_reducible assumption
    | with_reducible apply State.lineMeasure_onward

theorem execCalRunComplete_onward {b : Nat} {s : State} : ∃ t, execCalRunComplete b s = .next t ∧ s.Onward t := by
  have h : s.Onward s := .rfl
  refine ⟨_, rfl, ?_⟩
  repeat' first
    | with_reducible assumption
    | with_reducible apply State.calComplete_onward

theorem execCalDeadlineExpire_onward {b : Nat} {s : State} :
    ∃ t, execCalDeadlineExpire b s = .next t ∧ s.Onward t := by
  have h : s.Onward s := .rfl
  refine ⟨_, rfl, ?_⟩
  repeat' first
    | with_reducible assumption
    | with_reducible apply State.calDefer_onward

theorem execCalNvSaveComplete_onward {ok : Bool} {s : State} :
    ∃ t, execCalNvSaveComplete ok s = .next t ∧ s.Onward t := by
  have h : s.Onward s := .rfl
  refine ⟨_, rfl, ?_⟩
  repeat' first
    | with_reducible assumption
    | with_reducible apply State.calSaved_onward

/-! Control -/

theorem execCamChannelGo_onward {fn : Nat} {P : Nat} {value : Word} {s : State} :
    ∃ t, execCamChannelGo fn P value s = .next t ∧ s.Onward t := by
  have h : s.Onward s := .rfl
  refine ⟨_, rfl, ?_⟩
  repeat' first
    | with_reducible assumption
    | with_reducible apply State.camCommand_onward
    | with_reducible refine State.Onward.ite ?_ ?_
    | split

theorem execCameraExposureWrite_onward {n : Nat} {s : State} :
    ∃ t, execCameraExposureWrite n s = .next t ∧ s.Onward t := by
  have h : s.Onward s := .rfl
  refine ⟨_, rfl, ?_⟩
  repeat' first
    | with_reducible assumption
    | with_reducible apply State.exposureWrite_onward

theorem execProbeTimer_onward {P : Nat} {s : State} : ∃ t, execProbeTimer P s = .next t ∧ s.Onward t := by
  have h : s.Onward s := .rfl
  refine ⟨_, rfl, ?_⟩
  repeat' first
    | with_reducible assumption
    | with_reducible apply State.probe_onward

theorem execProbeNow_onward {P : Nat} {s : State} : ∃ t, execProbeNow P s = .next t ∧ s.Onward t := by
  have h : s.Onward s := .rfl
  refine ⟨_, rfl, ?_⟩
  repeat' first
    | with_reducible assumption
    | with_reducible apply State.probe_onward

theorem execEchoReceived_onward {P : Nat} {seq : Nat} {elapsed : Nat} {turn : Nat} {s : State} :
    ∃ t, execEchoReceived P seq elapsed turn s = .next t ∧ s.Onward t := by
  have h : s.Onward s := .rfl
  refine ⟨_, rfl, ?_⟩
  repeat' first
    | with_reducible assumption
    | with_reducible apply State.echo_onward

theorem execCameraEventPacket_onward {P : Nat} {event : Nat} {stream : Nat} {age : Nat} {arrival : Nat} {s : State} :
    ∃ t, execCameraEventPacket P event stream age arrival s = .next t ∧ s.Onward t := by
  have h : s.Onward s := .rfl
  refine ⟨_, rfl, ?_⟩
  repeat' first
    | with_reducible assumption
    | with_reducible apply State.cameraEvent_onward

theorem execHeartbeatPacket_onward {P : Nat} {s : State} : ∃ t, execHeartbeatPacket P s = .next t ∧ s.Onward t := by
  have h : s.Onward s := .rfl
  refine ⟨_, rfl, ?_⟩
  repeat' first
    | with_reducible assumption
    | with_reducible apply State.heartbeat_onward

/-! Drovers -/

theorem execPenHostPush_onward {fn : Nat} {p : Nat} {count : Nat} {s : State} :
    ∃ t, execPenHostPush fn p count s = .next t ∧ s.Onward t := by
  have h : s.Onward s := .rfl
  refine ⟨_, rfl, ?_⟩
  repeat' first
    | with_reducible assumption
    | with_reducible apply State.cutSettle_onward
    | with_reducible apply State.penHostPush_onward
    | with_reducible refine State.Onward.ite ?_ ?_
    | split

theorem execPenDrop_onward {fn : Nat} {p : Nat} {s : State} : ∃ t, execPenDrop fn p s = .next t ∧ s.Onward t := by
  have h : s.Onward s := .rfl
  refine ⟨_, rfl, ?_⟩
  repeat' first
    | with_reducible assumption
    | with_reducible apply State.cutSettle_onward
    | with_reducible apply State.penDrop_onward
    | with_reducible refine State.Onward.ite ?_ ?_
    | split

theorem execPenClear_onward {fn : Nat} {p : Nat} {s : State} : ∃ t, execPenClear fn p s = .next t ∧ s.Onward t := by
  have h : s.Onward s := .rfl
  refine ⟨_, rfl, ?_⟩
  repeat' first
    | with_reducible assumption
    | with_reducible apply State.cutSettle_onward
    | with_reducible apply State.penClear_onward
    | with_reducible refine State.Onward.ite ?_ ?_
    | split

theorem execChannelStart_onward {fn : Nat} {c : Nat} {enable : Bool} {s : State} :
    ∃ t, execChannelStart fn c enable s = .next t ∧ s.Onward t := by
  have h : s.Onward s := .rfl
  refine ⟨_, rfl, ?_⟩
  repeat' first
    | with_reducible assumption
    | with_reducible apply State.chCtrl_onward
    | with_reducible refine State.Onward.ite ?_ ?_
    | split

theorem execChannelDisable_onward {fn : Nat} {c : Nat} {s : State} :
    ∃ t, execChannelDisable fn c s = .next t ∧ s.Onward t := by
  have h : s.Onward s := .rfl
  refine ⟨_, rfl, ?_⟩
  repeat' first
    | with_reducible assumption
    | with_reducible apply State.chCtrl_onward
    | with_reducible refine State.Onward.ite ?_ ?_
    | split

theorem execChannelReset_onward {fn : Nat} {c : Nat} {s : State} :
    ∃ t, execChannelReset fn c s = .next t ∧ s.Onward t := by
  have h : s.Onward s := .rfl
  refine ⟨_, rfl, ?_⟩
  repeat' first
    | with_reducible assumption
    | with_reducible apply State.chCtrl_onward
    | with_reducible refine State.Onward.ite ?_ ?_
    | split

theorem execListEntryFetch_onward {d : Nat} {s : State} : ∃ t, execListEntryFetch d s = .next t ∧ s.Onward t := by
  have h : s.Onward s := .rfl
  refine ⟨_, rfl, ?_⟩
  repeat' first
    | with_reducible assumption
    | with_reducible apply State.fetchEntry_onward
    | with_reducible apply State.pump_onward

theorem execEntryComplete_onward {d : Nat} {s : State} : ∃ t, execEntryComplete d s = .next t ∧ s.Onward t := by
  have h : s.Onward s := .rfl
  refine ⟨_, rfl, ?_⟩
  repeat' first
    | with_reducible assumption
    | with_reducible apply State.completeEntry_onward

theorem execReadCompletion_onward {d : Nat} {tag : Nat} {err : Bool} {data : List Byte} {s : State} :
    ∃ t, execReadCompletion d tag err data s = .next t ∧ s.Onward t := by
  have h : s.Onward s := .rfl
  refine ⟨_, rfl, ?_⟩
  repeat' first
    | with_reducible assumption
    | with_reducible apply State.readDone_onward

theorem execCompletionTimeout_onward {d : Nat} {write : Bool} {tag : Nat} {s : State} :
    ∃ t, execCompletionTimeout d write tag s = .next t ∧ s.Onward t := by
  have h : s.Onward s := .rfl
  refine ⟨_, rfl, ?_⟩
  repeat' first
    | with_reducible assumption
    | with_reducible apply State.timeOut_onward

theorem execPowerdownForceStop_onward {c : Nat} {s : State} :
    ∃ t, execPowerdownForceStop c s = .next t ∧ s.Onward t := by
  have h : s.Onward s := .rfl
  refine ⟨_, rfl, ?_⟩
  repeat' first
    | with_reducible assumption
    | with_reducible apply Machine.drain_onward
    | with_reducible apply State.stopNow_onward
    | with_reducible refine State.Onward.ite ?_ ?_
    | split

theorem execWriteCreditReturn_onward {d : Nat} {n : Nat} {s : State} :
    ∃ t, execWriteCreditReturn d n s = .next t ∧ s.Onward t := by
  have h : s.Onward s := .rfl
  refine ⟨_, rfl, ?_⟩
  repeat' first
    | with_reducible assumption
    | with_reducible apply State.pump_onward
    | with_reducible apply State.updDrover_onward
    | fail_if_no_progress dsimp only
    | fail_if_no_progress with_reducible apply State.Onward.upd

/-! Events -/

theorem execEventOccurrence_onward {src : Nat} {detail : Nat} {s : State} :
    ∃ t, execEventOccurrence src detail s = .next t ∧ s.Onward t := by
  have h : s.Onward s := .rfl
  refine ⟨_, rfl, ?_⟩
  repeat' first
    | with_reducible assumption
    | with_reducible apply Fabric.raise_onward
    | with_reducible apply State.raise_onward

theorem execEventHoldoffExpire_onward {fn : Nat} {src : Nat} {s : State} :
    ∃ t, execEventHoldoffExpire fn src s = .next t ∧ s.Onward t := by
  have h : s.Onward s := .rfl
  refine ⟨_, rfl, ?_⟩
  repeat' first
    | with_reducible assumption
    | with_reducible apply State.viewHoldoff_onward

theorem execEventEnable_onward {fn : Nat} {src : Nat} {s : State} :
    ∃ t, execEventEnable fn src s = .next t ∧ s.Onward t := by
  have h : s.Onward s := .rfl
  refine ⟨_, rfl, ?_⟩
  repeat' first
    | with_reducible assumption
    | with_reducible apply State.evCfg_onward
    | with_reducible refine State.Onward.ite ?_ ?_
    | split

theorem execEventRaise_onward {fn : Nat} {src : Nat} {s : State} :
    ∃ t, execEventRaise fn src s = .next t ∧ s.Onward t := by
  have h : s.Onward s := .rfl
  refine ⟨_, rfl, ?_⟩
  repeat' first
    | with_reducible assumption
    | with_reducible apply State.evRaise_onward

theorem execMsixUnmask_onward {fn : Nat} {vec : Nat} {s : State} :
    ∃ t, execMsixUnmask fn vec s = .next t ∧ s.Onward t := by
  have h : s.Onward s := .rfl
  refine ⟨_, rfl, ?_⟩
  repeat' first
    | with_reducible assumption
    | with_reducible apply State.msixUnmask_onward

theorem execLinkUp_onward {rate : Nat} {width : Nat} {flit : Nat} {s : State} :
    ∃ t, execLinkUp rate width flit s = .next t ∧ s.Onward t := by
  have h : s.Onward s := .rfl
  refine ⟨_, rfl, ?_⟩
  repeat' first
    | with_reducible assumption
    | with_reducible apply State.linkUp_onward

theorem execLinkRateChange_onward {rate : Nat} {width : Nat} {flit : Nat} {s : State} :
    ∃ t, execLinkRateChange rate width flit s = .next t ∧ s.Onward t := by
  have h : s.Onward s := .rfl
  refine ⟨_, rfl, ?_⟩
  repeat' first
    | with_reducible assumption
    | with_reducible apply State.linkRate_onward

theorem execLinkRecovery_onward {s : State} : ∃ t, execLinkRecovery s = .next t ∧ s.Onward t := by
  have h : s.Onward s := .rfl
  refine ⟨_, rfl, ?_⟩
  repeat' first
    | with_reducible assumption
    | with_reducible apply State.hostEvent_onward
    | with_reducible apply Fabric.tally_onward
    | with_reducible apply State.tally_onward

theorem execPcieErrorLogged_onward {kind : Nat} {s : State} :
    ∃ t, execPcieErrorLogged kind s = .next t ∧ s.Onward t := by
  have h : s.Onward s := .rfl
  refine ⟨_, rfl, ?_⟩
  repeat' first
    | with_reducible assumption
    | with_reducible apply State.hostEvent_onward
    | with_reducible apply Fabric.tally_onward
    | with_reducible apply State.tally_onward
    | with_reducible refine State.Onward.ite ?_ ?_
    | split

/-! Folds -/

theorem execControlShadowCommit_onward {st : Nat} {s : State} :
    ∃ t, execControlShadowCommit st s = .next t ∧ s.Onward t := by
  have h : s.Onward s := .rfl
  refine ⟨_, rfl, ?_⟩
  repeat' first
    | with_reducible assumption
    | with_reducible apply State.publishCommit_onward

theorem execUnitReady_onward {st : Nat} {s : State} : ∃ t, execUnitReady st s = .next t ∧ s.Onward t := by
  have h : s.Onward s := .rfl
  refine ⟨_, rfl, ?_⟩
  repeat' first
    | with_reducible assumption
    | with_reducible apply State.unitReady_onward

theorem execFoldUnitStart_onward {f : Nat} {s : State} : ∃ t, execFoldUnitStart f s = .next t ∧ s.Onward t := by
  have h : s.Onward s := .rfl
  refine ⟨_, rfl, ?_⟩
  repeat' first
    | with_reducible assumption
    | with_reducible apply State.unitStart_onward
    | fail_if_no_progress dsimp only

theorem execFoldUnitComplete_onward {f : Nat} {s : State} : ∃ t, execFoldUnitComplete f s = .next t ∧ s.Onward t := by
  have h : s.Onward s := .rfl
  refine ⟨_, rfl, ?_⟩
  repeat' first
    | with_reducible assumption
    | with_reducible apply State.unitComplete_onward

theorem execThrottleStepChange_onward {f : Nat} {k : Nat} {s : State} :
    ∃ t, execThrottleStepChange f k s = .next t ∧ s.Onward t := by
  have h : s.Onward s := .rfl
  refine ⟨_, rfl, ?_⟩
  repeat' first
    | with_reducible assumption
    | with_reducible apply State.throttleStep_onward

theorem execSchedulerRebalance_onward {s : State} : ∃ t, execSchedulerRebalance s = .next t ∧ s.Onward t := by
  have h : s.Onward s := .rfl
  refine ⟨_, rfl, ?_⟩
  repeat' first
    | with_reducible assumption
    | with_reducible apply State.rebalance_onward

theorem execContextCommitReq_onward {fn : Nat} {f : Nat} {c : Nat} {s : State} :
    ∃ t, execContextCommitReq fn f c s = .next t ∧ s.Onward t := by
  have h : s.Onward s := .rfl
  refine ⟨_, rfl, ?_⟩
  repeat' first
    | with_reducible assumption
    | with_reducible apply State.contextReq_onward
    | with_reducible refine State.Onward.ite ?_ ?_
    | split

theorem execContextCommitCancel_onward {fn : Nat} {f : Nat} {c : Nat} {s : State} :
    ∃ t, execContextCommitCancel fn f c s = .next t ∧ s.Onward t := by
  have h : s.Onward s := .rfl
  refine ⟨_, rfl, ?_⟩
  repeat' first
    | with_reducible assumption
    | with_reducible apply State.contextCancel_onward
    | with_reducible refine State.Onward.ite ?_ ?_
    | split

/-! Frames -/

theorem execStartOfFrame_onward {st : Nat} {camFrame : Nat} {arrival : Nat} {startAge : Nat} {endAge : Nat}
    {trigLate : Bool} {egen : Nat} {egenValid : Bool} {s : State} :
    ∃ t, execStartOfFrame st camFrame arrival startAge endAge trigLate egen egenValid s = .next t ∧ s.Onward t := by
  have h : s.Onward s := .rfl
  refine ⟨_, rfl, ?_⟩
  repeat' first
    | with_reducible assumption
    | with_reducible apply State.startOfFrame_onward
    | fail_if_no_progress dsimp only

theorem execVideoPacket_onward {st : Nat} {line : Nat} {offset : Nat} {data : List Byte} {crcOk : Bool}
    {cont : Bool} {resent : Bool} {s : State} :
    ∃ t, execVideoPacket st line offset data crcOk cont resent s = .next t ∧ s.Onward t := by
  have h : s.Onward s := .rfl
  refine ⟨_, rfl, ?_⟩
  repeat' first
    | with_reducible assumption
    | with_reducible apply State.videoPacket_onward

theorem execEndOfFrame_onward {st : Nat} {s : State} : ∃ t, execEndOfFrame st s = .next t ∧ s.Onward t := by
  have h : s.Onward s := .rfl
  refine ⟨_, rfl, ?_⟩
  repeat' first
    | with_reducible assumption
    | with_reducible apply State.endOfFrame_onward

theorem execFrameTimeout_onward {st : Nat} {s : State} : ∃ t, execFrameTimeout st s = .next t ∧ s.Onward t := by
  have h : s.Onward s := .rfl
  refine ⟨_, rfl, ?_⟩
  repeat' first
    | with_reducible assumption
    | with_reducible apply State.closeFrame_onward

theorem execResendTimeout_onward {st : Nat} {s : State} : ∃ t, execResendTimeout st s = .next t ∧ s.Onward t := by
  have h : s.Onward s := .rfl
  refine ⟨_, rfl, ?_⟩
  repeat' first
    | with_reducible assumption
    | with_reducible apply State.resendTimeout_onward

/-! Freeze -/

theorem execRecordComplete_onward {slot : Nat} {s : State} :
    ∃ t, execRecordComplete slot s = .next t ∧ s.Onward t := by
  have h : s.Onward s := .rfl
  refine ⟨_, rfl, ?_⟩
  repeat' first
    | with_reducible assumption
    | with_reducible apply State.completeRecord_onward
    | with_reducible refine State.Onward.ite ?_ ?_
    | split
    | fail_if_no_progress with_reducible apply State.Onward.upd

theorem execRecordTagTimeout_onward {slot : Nat} {s : State} :
    ∃ t, execRecordTagTimeout slot s = .next t ∧ s.Onward t := by
  have h : s.Onward s := .rfl
  refine ⟨_, rfl, ?_⟩
  repeat' first
    | with_reducible assumption
    | with_reducible apply State.completeRecord_onward
    | with_reducible refine State.Onward.ite ?_ ?_
    | split
    | fail_if_no_progress with_reducible apply State.Onward.upd

theorem execFgArm_onward {fn : Nat} {g : Nat} {s : State} : ∃ t, execFgArm fn g s = .next t ∧ s.Onward t := by
  have h : s.Onward s := .rfl
  refine ⟨_, rfl, ?_⟩
  repeat' first
    | with_reducible assumption
    | with_reducible apply State.fgArm_onward
    | with_reducible refine State.Onward.ite ?_ ?_
    | split

theorem execFgDisarm_onward {fn : Nat} {g : Nat} {s : State} : ∃ t, execFgDisarm fn g s = .next t ∧ s.Onward t := by
  have h : s.Onward s := .rfl
  refine ⟨_, rfl, ?_⟩
  repeat' first
    | with_reducible assumption
    | with_reducible apply State.fgDisarm_onward
    | with_reducible refine State.Onward.ite ?_ ?_
    | split

theorem execFgFreeze_onward {fn : Nat} {g : Nat} {s : State} : ∃ t, execFgFreeze fn g s = .next t ∧ s.Onward t := by
  have h : s.Onward s := .rfl
  refine ⟨_, rfl, ?_⟩
  repeat' first
    | with_reducible assumption
    | with_reducible apply State.fgCmd_onward
    | with_reducible refine State.Onward.ite ?_ ?_
    | split

theorem execFgRearm_onward {fn : Nat} {g : Nat} {s : State} : ∃ t, execFgRearm fn g s = .next t ∧ s.Onward t := by
  have h : s.Onward s := .rfl
  refine ⟨_, rfl, ?_⟩
  repeat' first
    | with_reducible assumption
    | with_reducible apply State.fgRearm_onward
    | with_reducible refine State.Onward.ite ?_ ?_
    | split

theorem execFgRelease_onward {fn : Nat} {g : Nat} {r : Nat} {s : State} :
    ∃ t, execFgRelease fn g r s = .next t ∧ s.Onward t := by
  have h : s.Onward s := .rfl
  refine ⟨_, rfl, ?_⟩
  repeat' first
    | with_reducible assumption
    | with_reducible apply State.fgRelease_onward
    | with_reducible refine State.Onward.ite ?_ ?_
    | split

theorem execFreezeRequest_onward {g : Nat} {cause : Nat} {time : Nat} {s : State} :
    ∃ t, execFreezeRequest g cause time s = .next t ∧ s.Onward t := by
  have h : s.Onward s := .rfl
  refine ⟨_, rfl, ?_⟩
  repeat' first
    | with_reducible assumption
    | with_reducible apply State.freezeAt_onward

theorem execWindowGraceExpire_onward {g : Nat} {st : Nat} {s : State} :
    ∃ t, execWindowGraceExpire g st s = .next t ∧ s.Onward t := by
  have h : s.Onward s := .rfl
  refine ⟨_, rfl, ?_⟩
  repeat' first
    | with_reducible assumption
    | with_reducible apply State.graceEnd_onward

theorem execBurstRearm_onward {fn : Nat} {st : Nat} {s : State} :
    ∃ t, execBurstRearm fn st s = .next t ∧ s.Onward t := by
  have h : s.Onward s := .rfl
  refine ⟨_, rfl, ?_⟩
  repeat' first
    | with_reducible assumption
    | with_reducible apply State.burstRearm_onward
    | with_reducible refine State.Onward.ite ?_ ?_
    | split

/-! Functions -/

theorem execPartitionCommit_onward {fn : Nat} {s : State} : ∃ t, execPartitionCommit fn s = .next t ∧ s.Onward t := by
  have h : s.Onward s := .rfl
  refine ⟨_, rfl, ?_⟩
  repeat' first
    | with_reducible assumption
    | with_reducible apply State.partCmd_onward

theorem execPartitionApply_onward {s : State} : ∃ t, execPartitionApply s = .next t ∧ s.Onward t := by
  have h : s.Onward s := .rfl
  refine ⟨_, rfl, ?_⟩
  repeat' first
    | with_reducible assumption
    | with_reducible apply State.partApply_onward
    | with_reducible refine State.Onward.ite ?_ ?_
    | split
    | fail_if_no_progress with_reducible apply State.Onward.upd

theorem execPartitionRevert_onward {fn : Nat} {s : State} : ∃ t, execPartitionRevert fn s = .next t ∧ s.Onward t := by
  have h : s.Onward s := .rfl
  refine ⟨_, rfl, ?_⟩
  repeat' first
    | with_reducible assumption
    | with_reducible apply State.partCmd_onward

theorem execFunctionLevelReset_onward {fn : Nat} {s : State} :
    ∃ t, execFunctionLevelReset fn s = .next t ∧ s.Onward t := by
  have h : s.Onward s := .rfl
  refine ⟨_, rfl, ?_⟩
  repeat' first
    | with_reducible assumption
    | with_reducible apply State.functionReset_onward
    | with_reducible refine State.Onward.ite ?_ ?_
    | split
    | fail_if_no_progress dsimp only

theorem execFlrComplete_onward {fn : Nat} {s : State} : ∃ t, execFlrComplete fn s = .next t ∧ s.Onward t := by
  have h : s.Onward s := .rfl
  refine ⟨_, rfl, ?_⟩
  repeat' first
    | with_reducible assumption
    | with_reducible apply Fabric.raise_onward
    | with_reducible apply State.raise_onward
    | with_reducible refine State.Onward.ite ?_ ?_
    | split
    | fail_if_no_progress with_reducible apply State.Onward.upd

/-! Host -/

theorem execRegisterWrite_onward {fn : Nat} {off : Nat} {value : Word} {s : State} :
    ∃ t, execRegisterWrite fn off value s = .next t ∧ s.Onward t := by
  have h : s.Onward s := .rfl
  refine ⟨_, rfl, ?_⟩
  repeat' first
    | with_reducible assumption
    | with_reducible apply State.hostWrite_onward

theorem execMisalignedAccess_onward {fn : Nat} {off : Nat} {len : Nat} {s : State} :
    ∃ t, execMisalignedAccess fn off len s = .next t ∧ s.Onward t := by
  have h : s.Onward s := .rfl
  refine ⟨_, rfl, ?_⟩
  repeat' first
    | with_reducible assumption
    | with_reducible apply Fabric.emit_onward
    | with_reducible apply State.emit_onward
    | with_reducible refine State.Onward.ite ?_ ?_
    | split

theorem execUndefinedOffsetAccess_onward {fn : Nat} {off : Nat} {write : Bool} {value : Word} {s : State} :
    ∃ t, execUndefinedOffsetAccess fn off write value s = .next t ∧ s.Onward t := by
  have h : s.Onward s := .rfl
  refine ⟨_, rfl, ?_⟩
  repeat' first
    | with_reducible assumption
    | with_reducible apply State.undefinedAccess_onward

theorem execWideValueLowRead_onward {fn : Nat} {off : Nat} {s : State} :
    ∃ t, execWideValueLowRead fn off s = .next t ∧ s.Onward t := by
  have h : s.Onward s := .rfl
  refine ⟨_, rfl, ?_⟩
  repeat' first
    | with_reducible assumption
    | with_reducible apply State.wideRead_onward

theorem execReadToClear_onward {fn : Nat} {off : Nat} {inc : Word} {s : State} :
    ∃ t, execReadToClear fn off inc s = .next t ∧ s.Onward t := by
  have h : s.Onward s := .rfl
  refine ⟨_, rfl, ?_⟩
  repeat' first
    | with_reducible assumption
    | with_reducible apply State.readToClear_onward

theorem execRemoteControl_onward {k : Nat} {v6 : Bool} {addr : List Nat} {port : Nat} {op : Nat} {off : Nat}
    {value : Word} {tag : Nat} {s : State} :
    ∃ t, execRemoteControl k v6 addr port op off value tag s = .next t ∧ s.Onward t := by
  have h : s.Onward s := .rfl
  refine ⟨_, rfl, ?_⟩
  repeat' first
    | with_reducible assumption
    | with_reducible apply State.remoteControl_onward
    | fail_if_no_progress dsimp only

/-! Lanes -/

theorem execLanePowerRequest_onward {n : Nat} {req : Nat} {s : State} :
    ∃ t, execLanePowerRequest n req s = .next t ∧ s.Onward t := by
  have h : s.Onward s := .rfl
  refine ⟨_, rfl, ?_⟩
  repeat' first
    | with_reducible assumption
    | with_reducible apply State.accErr_onward
    | with_reducible apply State.laneRequest_onward
    | with_reducible refine State.Onward.ite ?_ ?_
    | split

theorem execLaneExitComplete_onward {n : Nat} {vstep : Nat} {phase : Nat} {latency : Nat} {s : State} :
    ∃ t, execLaneExitComplete n vstep phase latency s = .next t ∧ s.Onward t := by
  have h : s.Onward s := .rfl
  refine ⟨_, rfl, ?_⟩
  repeat' first
    | with_reducible assumption
    | with_reducible apply State.laneExit_onward

theorem execLaneExitTimeout_onward {n : Nat} {s : State} : ∃ t, execLaneExitTimeout n s = .next t ∧ s.Onward t := by
  have h : s.Onward s := .rfl
  refine ⟨_, rfl, ?_⟩
  repeat' first
    | with_reducible assumption
    | with_reducible apply State.laneExit_onward

theorem execCdrCoastTimeout_onward {n : Nat} {s : State} : ∃ t, execCdrCoastTimeout n s = .next t ∧ s.Onward t := by
  have h : s.Onward s := .rfl
  refine ⟨_, rfl, ?_⟩
  repeat' first
    | with_reducible assumption
    | with_reducible apply Fabric.wr_onward
    | with_reducible apply State.wr_onward

theorem execDensityWindowEnd_onward {n : Nat} {density : Nat} {ctle : Word} {dfe : Word} {s : State} :
    ∃ t, execDensityWindowEnd n density ctle dfe s = .next t ∧ s.Onward t := by
  have h : s.Onward s := .rfl
  refine ⟨_, rfl, ?_⟩
  repeat' first
    | with_reducible assumption
    | with_reducible apply State.densityEnd_onward

theorem execFreezeLimitExpire_onward {n : Nat} {s : State} :
    ∃ t, execFreezeLimitExpire n s = .next t ∧ s.Onward t := by
  have h : s.Onward s := .rfl
  refine ⟨_, rfl, ?_⟩
  repeat' first
    | with_reducible assumption
    | with_reducible apply State.freezeLimit_onward

theorem execInvalidHeader_onward {n : Nat} {valid : Nat} {s : State} :
    ∃ t, execInvalidHeader n valid s = .next t ∧ s.Onward t := by
  have h : s.Onward s := .rfl
  refine ⟨_, rfl, ?_⟩
  repeat' first
    | with_reducible assumption
    | with_reducible apply State.badHeader_onward

theorem execBlockLockAcquired_onward {n : Nat} {latency : Nat} {s : State} :
    ∃ t, execBlockLockAcquired n latency s = .next t ∧ s.Onward t := by
  have h : s.Onward s := .rfl
  refine ⟨_, rfl, ?_⟩
  repeat' first
    | with_reducible assumption
    | with_reducible apply State.lockRise_onward

theorem execBlockLockLost_onward {n : Nat} {s : State} : ∃ t, execBlockLockLost n s = .next t ∧ s.Onward t := by
  have h : s.Onward s := .rfl
  refine ⟨_, rfl, ?_⟩
  repeat' first
    | with_reducible assumption
    | with_reducible apply State.lockLoss_onward

theorem execSlipWrite_onward {n : Nat} {value : Word} {s : State} :
    ∃ t, execSlipWrite n value s = .next t ∧ s.Onward t := by
  have h : s.Onward s := .rfl
  refine ⟨_, rfl, ?_⟩
  repeat' first
    | with_reducible assumption
    | with_reducible apply State.alignSlip_onward

theorem execPatternCheckerSync_onward {n : Nat} {errors : Nat} {s : State} :
    ∃ t, execPatternCheckerSync n errors s = .next t ∧ s.Onward t := by
  have h : s.Onward s := .rfl
  refine ⟨_, rfl, ?_⟩
  repeat' first
    | with_reducible assumption
    | with_reducible apply State.patternSync_onward

theorem execScanStart_onward {n : Nat} {value : Word} {s : State} :
    ∃ t, execScanStart n value s = .next t ∧ s.Onward t := by
  have h : s.Onward s := .rfl
  refine ⟨_, rfl, ?_⟩
  repeat' first
    | with_reducible assumption
    | with_reducible apply State.scanWrite_onward

theorem execScanAbort_onward {n : Nat} {s : State} : ∃ t, execScanAbort n s = .next t ∧ s.Onward t := by
  have h : s.Onward s := .rfl
  refine ⟨_, rfl, ?_⟩
  repeat' first
    | with_reducible assumption
    | with_reducible apply State.scanCut_onward

theorem execScanComplete_onward {n : Nat} {errors : Nat} {s : State} :
    ∃ t, execScanComplete n errors s = .next t ∧ s.Onward t := by
  have h : s.Onward s := .rfl
  refine ⟨_, rfl, ?_⟩
  repeat' first
    | with_reducible assumption
    | with_reducible apply State.scanDone_onward

/-! Links -/

theorem execFoldEnable_onward {off : Nat} {on : Bool} {s : State} :
    ∃ t, execFoldEnable off on s = .next t ∧ s.Onward t := by
  have h : s.Onward s := .rfl
  refine ⟨_, rfl, ?_⟩
  repeat' first
    | with_reducible assumption
    | with_reducible apply State.foldEnable_onward

theorem execFoldHalt_onward {off : Nat} {on : Bool} {s : State} :
    ∃ t, execFoldHalt off on s = .next t ∧ s.Onward t := by
  have h : s.Onward s := .rfl
  refine ⟨_, rfl, ?_⟩
  repeat' first
    | with_reducible assumption
    | with_reducible apply State.wrIf_onward

theorem execLaneBlockReset_onward {n : Nat} {s : State} : ∃ t, execLaneBlockReset n s = .next t ∧ s.Onward t := by
  have h : s.Onward s := .rfl
  refine ⟨_, rfl, ?_⟩
  repeat' first
    | with_reducible assumption
    | with_reducible apply State.laneBlockReset_onward

theorem execPortBlockReset_onward {P : Nat} {s : State} : ∃ t, execPortBlockReset P s = .next t ∧ s.Onward t := by
  have h : s.Onward s := .rfl
  refine ⟨_, rfl, ?_⟩
  repeat' first
    | with_reducible assumption
    | with_reducible apply State.portBlockReset_onward

theorem execPixelFoldBlockReset_onward {f : Nat} {s : State} :
    ∃ t, execPixelFoldBlockReset f s = .next t ∧ s.Onward t := by
  have h : s.Onward s := .rfl
  refine ⟨_, rfl, ?_⟩
  repeat' first
    | with_reducible assumption
    | with_reducible apply State.foldReset_onward

theorem execPartnerDetect_onward {P : Nat} {seen : List Nat} {s : State} :
    ∃ t, execPartnerDetect P seen s = .next t ∧ s.Onward t := by
  have h : s.Onward s := .rfl
  refine ⟨_, rfl, ?_⟩
  repeat' first
    | with_reducible assumption
    | with_reducible apply State.partnerDetect_onward

theorem execListenCandidateTimeout_onward {P : Nat} {s : State} :
    ∃ t, execListenCandidateTimeout P s = .next t ∧ s.Onward t := by
  have h : s.Onward s := .rfl
  refine ⟨_, rfl, ?_⟩
  repeat' first
    | with_reducible assumption
    | with_reducible apply State.nextCandidate_onward

theorem execListenLimitExpire_onward {P : Nat} {s : State} :
    ∃ t, execListenLimitExpire P s = .next t ∧ s.Onward t := by
  have h : s.Onward s := .rfl
  refine ⟨_, rfl, ?_⟩
  repeat' first
    | with_reducible assumption
    | with_reducible apply State.listenLimit_onward

theorem execTrainExit_onward {P : Nat} {seen : List Nat} {s : State} :
    ∃ t, execTrainExit P seen s = .next t ∧ s.Onward t := by
  have h : s.Onward s := .rfl
  refine ⟨_, rfl, ?_⟩
  repeat' first
    | with_reducible assumption
    | with_reducible apply State.trainExit_onward

theorem execTrainLimitExpire_onward {P : Nat} {s : State} : ∃ t, execTrainLimitExpire P s = .next t ∧ s.Onward t := by
  have h : s.Onward s := .rfl
  refine ⟨_, rfl, ?_⟩
  repeat' first
    | with_reducible assumption
    | with_reducible apply State.trainLimit_onward

theorem execOrderStep_onward {P : Nat} {s : State} : ∃ t, execOrderStep P s = .next t ∧ s.Onward t := by
  have h : s.Onward s := .rfl
  refine ⟨_, rfl, ?_⟩
  repeat' first
    | with_reducible assumption
    | with_reducible apply State.orderStep_onward

theorem execLockExit_onward {P : Nat} {skew : Nat} {standard : Nat} {s : State} :
    ∃ t, execLockExit P skew standard s = .next t ∧ s.Onward t := by
  have h : s.Onward s := .rfl
  refine ⟨_, rfl, ?_⟩
  repeat' first
    | with_reducible assumption
    | with_reducible apply State.lockExit_onward

theorem execLockLimitExpire_onward {P : Nat} {s : State} : ∃ t, execLockLimitExpire P s = .next t ∧ s.Onward t := by
  have h : s.Onward s := .rfl
  refine ⟨_, rfl, ?_⟩
  repeat' first
    | with_reducible assumption
    | with_reducible apply State.lockLimit_onward

theorem execExchangeComplete_onward {P : Nat} {caps : List (Nat × Nat)} {s : State} :
    ∃ t, execExchangeComplete P caps s = .next t ∧ s.Onward t := by
  have h : s.Onward s := .rfl
  refine ⟨_, rfl, ?_⟩
  repeat' first
    | with_reducible assumption
    | with_reducible apply State.exchangeComplete_onward

theorem execExchangeLimitExpire_onward {P : Nat} {s : State} :
    ∃ t, execExchangeLimitExpire P s = .next t ∧ s.Onward t := by
  have h : s.Onward s := .rfl
  refine ⟨_, rfl, ?_⟩
  repeat' first
    | with_reducible assumption
    | with_reducible apply State.exchangeLimit_onward

theorem execExchangeLockLossTimeout_onward {P : Nat} {lane : Nat} {s : State} :
    ∃ t, execExchangeLockLossTimeout P lane s = .next t ∧ s.Onward t := by
  have h : s.Onward s := .rfl
  refine ⟨_, rfl, ?_⟩
  repeat' first
    | with_reducible assumption
    | with_reducible apply State.exchangeLockLoss_onward

theorem execPartnerLost_onward {P : Nat} {lane : Nat} {s : State} :
    ∃ t, execPartnerLost P lane s = .next t ∧ s.Onward t := by
  have h : s.Onward s := .rfl
  refine ⟨_, rfl, ?_⟩
  repeat' first
    | with_reducible assumption
    | with_reducible apply State.partnerLost_onward

theorem execRestPoll_onward {P : Nat} {seen : List Nat} {s : State} :
    ∃ t, execRestPoll P seen s = .next t ∧ s.Onward t := by
  have h : s.Onward s := .rfl
  refine ⟨_, rfl, ?_⟩
  repeat' first
    | with_reducible assumption
    | with_reducible apply State.restPoll_onward

theorem execRetrain_onward {P : Nat} {s : State} : ∃ t, execRetrain P s = .next t ∧ s.Onward t := by
  have h : s.Onward s := .rfl
  refine ⟨_, rfl, ?_⟩
  repeat' first
    | with_reducible assumption
    | with_reducible apply State.retrain_onward

theorem execTrainingBlock_onward {n : Nat} {number : Nat} {ready : Bool} {tap : Nat} {action : Nat}
    {reply : Nat} {inverted : Bool} {better : Bool} {s : State} :
    ∃ t, execTrainingBlock n number ready tap action reply inverted better s = .next t ∧ s.Onward t := by
  have h : s.Onward s := .rfl
  refine ⟨_, rfl, ?_⟩
  repeat' first
    | with_reducible assumption
    | with_reducible apply State.trainingBlock_onward

theorem execCapabilityBlock_onward {P : Nat} {agreed : Bool} {reject : Bool} {fields : List (Nat × Nat)} {s : State} :
    ∃ t, execCapabilityBlock P agreed reject fields s = .next t ∧ s.Onward t := by
  have h : s.Onward s := .rfl
  refine ⟨_, rfl, ?_⟩
  repeat' first
    | with_reducible assumption
    | with_reducible apply State.capabilitySet_onward

theorem execCapabilityRepeat_onward {P : Nat} {s : State} : ∃ t, execCapabilityRepeat P s = .next t ∧ s.Onward t := by
  have h : s.Onward s := .rfl
  refine ⟨_, rfl, ?_⟩
  repeat' first
    | with_reducible assumption
    | with_reducible apply State.capabilityRepeat_onward

theorem execControlReadResponse_onward {P : Nat} {tag : Nat} {status : Nat} {data : List Byte} {s : State} :
    ∃ t, execControlReadResponse P tag status data s = .next t ∧ s.Onward t := by
  have h : s.Onward s := .rfl
  refine ⟨_, rfl, ?_⟩
  repeat' first
    | with_reducible assumption
    | with_reducible apply State.controlAnswer_onward

theorem execControlWriteAck_onward {P : Nat} {tag : Nat} {status : Nat} {s : State} :
    ∃ t, execControlWriteAck P tag status s = .next t ∧ s.Onward t := by
  have h : s.Onward s := .rfl
  refine ⟨_, rfl, ?_⟩
  repeat' first
    | with_reducible assumption
    | with_reducible apply State.controlAnswer_onward

theorem execControlRequestTimeout_onward {P : Nat} {tag : Nat} {s : State} :
    ∃ t, execControlRequestTimeout P tag s = .next t ∧ s.Onward t := by
  have h : s.Onward s := .rfl
  refine ⟨_, rfl, ?_⟩
  repeat' first
    | with_reducible assumption
    | with_reducible apply State.controlTimeout_onward

theorem execProbeMiss_onward {P : Nat} {seq : Nat} {s : State} :
    ∃ t, execProbeMiss P seq s = .next t ∧ s.Onward t := by
  have h : s.Onward s := .rfl
  refine ⟨_, rfl, ?_⟩
  repeat' first
    | with_reducible assumption
    | with_reducible apply State.probeMiss_onward

/-! Network -/

theorem execArpRequest_onward {k : Nat} {v6 : Bool} {addr : List Nat} {s : State} :
    ∃ t, execArpRequest k v6 addr s = .next t ∧ s.Onward t := by
  have h : s.Onward s := .rfl
  refine ⟨_, rfl, ?_⟩
  repeat' first
    | with_reducible assumption
    | (extract_lets -merge +onlyGivenNames x
       first
       | (have _f := fun a => x a
          clear _f
          unfold x
          clear x)
       | (refine onward_cut (P := State.Onward s x) ?_ (fun hx => ?_)
          on_goal 1 => (unfold x; clear x)
          on_goal 2 => clear_value x)
       | clear_value x
       | (unfold x; clear x)
       | clear x)
    | with_reducible apply State.netSend_onward
    | with_reducible apply State.received_onward
    | with_reducible refine State.Onward.ite ?_ ?_
    | split
    | fail_if_no_progress dsimp only

theorem execIcmpEchoRequest_onward {k : Nat} {v6 : Bool} {addr : List Nat} {data : List Byte} {s : State} :
    ∃ t, execIcmpEchoRequest k v6 addr data s = .next t ∧ s.Onward t := by
  have h : s.Onward s := .rfl
  refine ⟨_, rfl, ?_⟩
  repeat' first
    | with_reducible assumption
    | (extract_lets -merge +onlyGivenNames x
       first
       | (have _f := fun a => x a
          clear _f
          unfold x
          clear x)
       | (refine onward_cut (P := State.Onward s x) ?_ (fun hx => ?_)
          on_goal 1 => (unfold x; clear x)
          on_goal 2 => clear_value x)
       | clear_value x
       | (unfold x; clear x)
       | clear x)
    | with_reducible apply State.netSend_onward
    | with_reducible apply State.received_onward
    | with_reducible refine State.Onward.ite ?_ ?_
    | split
    | fail_if_no_progress dsimp only

theorem execPauseFrame_onward {k : Nat} {quanta : Nat} {s : State} :
    ∃ t, execPauseFrame k quanta s = .next t ∧ s.Onward t := by
  have h : s.Onward s := .rfl
  refine ⟨_, rfl, ?_⟩
  repeat' first
    | with_reducible assumption
    | (extract_lets -merge +onlyGivenNames x
       first
       | (have _f := fun a => x a
          clear _f
          unfold x
          clear x)
       | (refine onward_cut (P := State.Onward s x) ?_ (fun hx => ?_)
          on_goal 1 => (unfold x; clear x)
          on_goal 2 => clear_value x)
       | clear_value x
       | (unfold x; clear x)
       | clear x)
    | with_reducible apply State.received_onward
    | with_reducible apply Fabric.tally_onward
    | with_reducible apply State.tally_onward
    | with_reducible apply State.updPath_onward
    | fail_if_no_progress dsimp only
    | fail_if_no_progress with_reducible apply State.Onward.upd

theorem execNeighborReply_onward {k : Nat} {v6 : Bool} {addr : List Nat} {mac : Nat} {s : State} :
    ∃ t, execNeighborReply k v6 addr mac s = .next t ∧ s.Onward t := by
  have h : s.Onward s := .rfl
  refine ⟨_, rfl, ?_⟩
  repeat' first
    | with_reducible assumption
    | (extract_lets -merge +onlyGivenNames x
       first
       | (have _f := fun a => x a
          clear _f
          unfold x
          clear x)
       | (refine onward_cut (P := State.Onward s x) ?_ (fun hx => ?_)
          on_goal 1 => (unfold x; clear x)
          on_goal 2 => clear_value x)
       | clear_value x
       | (unfold x; clear x)
       | clear x)
    | with_reducible apply State.nbReply_onward
    | with_reducible apply State.received_onward
    | with_reducible refine State.Onward.ite ?_ ?_
    | split
    | fail_if_no_progress dsimp only

theorem execNeighborResolveTimeout_onward {f : Nat} {s : State} :
    ∃ t, execNeighborResolveTimeout f s = .next t ∧ s.Onward t := by
  have h : s.Onward s := .rfl
  refine ⟨_, rfl, ?_⟩
  repeat' first
    | with_reducible assumption
    | (extract_lets -merge +onlyGivenNames x
       first
       | (have _f := fun a => x a
          clear _f
          unfold x
          clear x)
       | (refine onward_cut (P := State.Onward s x) ?_ (fun hx => ?_)
          on_goal 1 => (unfold x; clear x)
          on_goal 2 => clear_value x)
       | (refine onward_cut (P := State.Onward s x.2) ?_ (fun hx => ?_)
          on_goal 1 => (unfold x; clear x)
          on_goal 2 => clear_value x)
       | (refine onward_cut (P := State.Onward s x.1) ?_ (fun hx => ?_)
          on_goal 1 => (unfold x; clear x)
          on_goal 2 => clear_value x)
       | clear_value x
       | (unfold x; clear x)
       | clear x)
    | with_reducible apply State.flowNext_onward
    | with_reducible apply State.npEv_onward
    | with_reducible apply State.updNet_onward
    | with_reducible refine State.Onward.ite ?_ ?_
    | split
    | fail_if_no_progress dsimp only
    | fail_if_no_progress with_reducible apply State.Onward.upd

theorem execNeighborAgeOut_onward {i : Nat} {s : State} : ∃ t, execNeighborAgeOut i s = .next t ∧ s.Onward t := by
  have h : s.Onward s := .rfl
  refine ⟨_, rfl, ?_⟩
  repeat' first
    | with_reducible assumption
    | with_reducible apply Fabric.wr_onward
    | with_reducible apply State.wr_onward
    | with_reducible refine State.Onward.ite ?_ ?_
    | split

theorem execFlowDatagramSend_onward {f : Nat} {s : State} : ∃ t, execFlowDatagramSend f s = .next t ∧ s.Onward t := by
  have h : s.Onward s := .rfl
  refine ⟨_, rfl, ?_⟩
  repeat' first
    | with_reducible assumption
    | (extract_lets -merge +onlyGivenNames x
       first
       | (have _f := fun a => x a
          clear _f
          unfold x
          clear x)
       | (refine onward_cut (P := State.Onward s x) ?_ (fun hx => ?_)
          on_goal 1 => (unfold x; clear x)
          on_goal 2 => clear_value x)
       | (refine onward_cut (P := State.Onward s x.2) ?_ (fun hx => ?_)
          on_goal 1 => (unfold x; clear x)
          on_goal 2 => clear_value x)
       | (refine onward_cut (P := State.Onward s x.1) ?_ (fun hx => ?_)
          on_goal 1 => (unfold x; clear x)
          on_goal 2 => clear_value x)
       | clear_value x
       | (unfold x; clear x)
       | clear x)
    | with_reducible apply State.flowNext_onward
    | with_reducible apply State.handbackStep_onward
    | with_reducible apply State.resolve_onward
    | with_reducible refine State.Onward.ite ?_ ?_
    | split
    | fail_if_no_progress dsimp only
    | fail_if_no_progress with_reducible apply State.Onward.upd

theorem execFrameTransportRequest_onward {k : Nat} {stream : Nat} {first : Nat} {count : Nat} {v6 : Bool}
    {addr : List Nat} {port : Nat} {s : State} :
    ∃ t, execFrameTransportRequest k stream first count v6 addr port s = .next t ∧ s.Onward t := by
  have h : s.Onward s := .rfl
  refine ⟨_, rfl, ?_⟩
  repeat' first
    | with_reducible assumption
    | with_reducible apply State.received_onward
    | with_reducible apply State.request_onward

theorem execNetworkFreeze_onward {k : Nat} {v6 : Bool} {addr : List Nat} {groups : Nat} {useT : Bool}
    {time : Nat} {s : State} :
    ∃ t, execNetworkFreeze k v6 addr groups useT time s = .next t ∧ s.Onward t := by
  have h : s.Onward s := .rfl
  refine ⟨_, rfl, ?_⟩
  repeat' first
    | with_reducible assumption
    | with_reducible apply State.networkFreeze_onward
    | with_reducible apply State.received_onward

theorem execDatagramDiscard_onward {k : Nat} {s : State} : ∃ t, execDatagramDiscard k s = .next t ∧ s.Onward t := by
  have h : s.Onward s := .rfl
  refine ⟨_, rfl, ?_⟩
  repeat' first
    | with_reducible assumption
    | with_reducible apply State.received_onward
    | with_reducible apply State.rxDrop_onward

theorem execFlowRestart_onward {f : Nat} {s : State} : ∃ t, execFlowRestart f s = .next t ∧ s.Onward t := by
  have h : s.Onward s := .rfl
  refine ⟨_, rfl, ?_⟩
  repeat' first
    | with_reducible assumption
    | with_reducible apply State.flowCtrlWrite_onward

theorem execCrookPulse_onward {k : Nat} {back : Bool} {s : State} :
    ∃ t, execCrookPulse k back s = .next t ∧ s.Onward t := by
  have h : s.Onward s := .rfl
  refine ⟨_, rfl, ?_⟩
  repeat' first
    | with_reducible assumption
    | with_reducible apply State.crookPulse_onward

theorem execCrookSilence_onward {k : Nat} {s : State} : ∃ t, execCrookSilence k s = .next t ∧ s.Onward t := by
  have h : s.Onward s := .rfl
  refine ⟨_, rfl, ?_⟩
  repeat' first
    | with_reducible assumption
    | with_reducible apply State.crookSilence_onward

theorem execCrookProbeReturn_onward {k : Nat} {back : Bool} {s : State} :
    ∃ t, execCrookProbeReturn k back s = .next t ∧ s.Onward t := by
  have h : s.Onward s := .rfl
  refine ⟨_, rfl, ?_⟩
  repeat' first
    | with_reducible assumption
    | with_reducible apply State.probeReturn_onward

theorem execCrookLoopCheckFail_onward {k : Nat} {s : State} :
    ∃ t, execCrookLoopCheckFail k s = .next t ∧ s.Onward t := by
  have h : s.Onward s := .rfl
  refine ⟨_, rfl, ?_⟩
  repeat' first
    | with_reducible assumption
    | with_reducible apply State.loopCheckFail_onward

theorem execCrookContention_onward {k : Nat} {s : State} : ∃ t, execCrookContention k s = .next t ∧ s.Onward t := by
  have h : s.Onward s := .rfl
  refine ⟨_, rfl, ?_⟩
  repeat' first
    | with_reducible assumption
    | with_reducible apply State.contention_onward

theorem execPathHealthLoss_onward {k : Nat} {txFault : Bool} {s : State} :
    ∃ t, execPathHealthLoss k txFault s = .next t ∧ s.Onward t := by
  have h : s.Onward s := .rfl
  refine ⟨_, rfl, ?_⟩
  repeat' first
    | with_reducible assumption
    | with_reducible apply State.npEv_onward
    | with_reducible apply State.pathFollow_onward
    | with_reducible apply State.pathLock_onward
    | with_reducible apply State.updPath_onward
    | with_reducible refine State.Onward.ite ?_ ?_
    | split
    | fail_if_no_progress dsimp only
    | fail_if_no_progress with_reducible apply State.Onward.upd

theorem execNetworkPathLinkUp_onward {k : Nat} {s : State} :
    ∃ t, execNetworkPathLinkUp k s = .next t ∧ s.Onward t := by
  have h : s.Onward s := .rfl
  refine ⟨_, rfl, ?_⟩
  repeat' first
    | with_reducible assumption
    | with_reducible apply State.pathLock_onward
    | with_reducible refine State.Onward.ite ?_ ?_
    | split

theorem execEpochSnapshot_onward {s : State} : ∃ t, execEpochSnapshot s = .next t ∧ s.Onward t := by
  have h : s.Onward s := .rfl
  refine ⟨_, rfl, ?_⟩
  repeat' first
    | with_reducible assumption
    | with_reducible apply State.epochDue_onward

theorem execEpochReceived_onward {k : Nat} {ok : Bool} {s : State} :
    ∃ t, execEpochReceived k ok s = .next t ∧ s.Onward t := by
  have h : s.Onward s := .rfl
  refine ⟨_, rfl, ?_⟩
  repeat' first
    | with_reducible assumption
    | with_reducible apply State.epochReceived_onward

theorem execMirrorStale_onward {k : Nat} {s : State} : ∃ t, execMirrorStale k s = .next t ∧ s.Onward t := by
  have h : s.Onward s := .rfl
  refine ⟨_, rfl, ?_⟩
  repeat' first
    | with_reducible assumption
    | with_reducible apply State.mirrorStale_onward

theorem execRevertHoldoffExpire_onward {s : State} : ∃ t, execRevertHoldoffExpire s = .next t ∧ s.Onward t := by
  have h : s.Onward s := .rfl
  refine ⟨_, rfl, ?_⟩
  repeat' first
    | with_reducible assumption
    | with_reducible apply State.startHandback_onward
    | with_reducible refine State.Onward.ite ?_ ?_
    | split

theorem execCrookRelease_onward {s : State} : ∃ t, execCrookRelease s = .next t ∧ s.Onward t := by
  have h : s.Onward s := .rfl
  refine ⟨_, rfl, ?_⟩
  repeat' first
    | with_reducible assumption
    | with_reducible apply State.startHandback_onward
    | with_reducible refine State.Onward.ite ?_ ?_
    | split
    | fail_if_no_progress with_reducible apply State.Onward.upd

theorem execPtpMessageTransmit_onward {d : Nat} {kind : Nat} {s : State} :
    ∃ t, execPtpMessageTransmit d kind s = .next t ∧ s.Onward t := by
  have h : s.Onward s := .rfl
  refine ⟨_, rfl, ?_⟩
  repeat' first
    | with_reducible assumption
    | with_reducible apply State.ptpTransmit_onward

theorem execPtpManagementGet_onward {d : Nat} {id : Nat} {set : Bool} {s : State} :
    ∃ t, execPtpManagementGet d id set s = .next t ∧ s.Onward t := by
  have h : s.Onward s := .rfl
  refine ⟨_, rfl, ?_⟩
  repeat' first
    | with_reducible assumption
    | with_reducible apply State.ptpManage_onward

/-! Paddock -/

theorem execFrameFind_onward {fn : Nat} {s : State} : ∃ t, execFrameFind fn s = .next t ∧ s.Onward t := by
  have h : s.Onward s := .rfl
  refine ⟨_, rfl, ?_⟩
  repeat' first
    | with_reducible assumption
    | with_reducible apply State.frameFind_onward

theorem execBar4Read_onward {fn : Nat} {addr : Nat} {len : Nat} {s : State} :
    ∃ t, execBar4Read fn addr len s = .next t ∧ s.Onward t := by
  have h : s.Onward s := .rfl
  refine ⟨_, rfl, ?_⟩
  repeat' first
    | with_reducible assumption
    | with_reducible apply Fabric.emit_onward
    | with_reducible apply State.emit_onward
    | with_reducible refine State.Onward.ite ?_ ?_
    | split

theorem execBar4Write_onward {fn : Nat} {addr : Nat} {data : List (Option Byte)} {s : State} :
    ∃ t, execBar4Write fn addr data s = .next t ∧ s.Onward t := by
  have h : s.Onward s := .rfl
  refine ⟨_, rfl, ?_⟩
  repeat' first
    | with_reducible assumption
    | (extract_lets -merge +onlyGivenNames x
       first
       | (have _f := fun a => x a
          clear _f
          unfold x
          clear x)
       | (refine onward_cut (P := State.Onward s x.2) ?_ (fun hx => ?_)
          on_goal 1 => (unfold x; clear x)
          on_goal 2 => clear_value x)
       | (refine onward_cut (P := State.Onward s x.1) ?_ (fun hx => ?_)
          on_goal 1 => (unfold x; clear x)
          on_goal 2 => clear_value x)
       | clear_value x
       | (unfold x; clear x)
       | clear x)
    | with_reducible apply State.bar4Put_onward
    | with_reducible apply Fabric.tally_onward
    | with_reducible apply State.tally_onward
    | with_reducible refine State.Onward.ite ?_ ?_
    | split
    | fail_if_no_progress dsimp only

/-! Parallel -/

theorem execPpAlignAcquired_onward {link : Nat} {s : State} :
    ∃ t, execPpAlignAcquired link s = .next t ∧ s.Onward t := by
  have h : s.Onward s := .rfl
  refine ⟨_, rfl, ?_⟩
  repeat' first
    | with_reducible assumption
    | with_reducible apply State.alignAcquired_onward

theorem execPpAlignLost_onward {link : Nat} {s : State} : ∃ t, execPpAlignLost link s = .next t ∧ s.Onward t := by
  have h : s.Onward s := .rfl
  refine ⟨_, rfl, ?_⟩
  repeat' first
    | with_reducible assumption
    | with_reducible apply State.alignLost_onward

theorem execPpAlignSlip_onward {value : Word} {s : State} : ∃ t, execPpAlignSlip value s = .next t ∧ s.Onward t := by
  have h : s.Onward s := .rfl
  refine ⟨_, rfl, ?_⟩
  repeat' first
    | with_reducible assumption
    | with_reducible apply State.alignWrite_onward

theorem execPpClockLost_onward {s : State} : ∃ t, execPpClockLost s = .next t ∧ s.Onward t := by
  have h : s.Onward s := .rfl
  refine ⟨_, rfl, ?_⟩
  repeat' first
    | with_reducible assumption
    | with_reducible apply State.clockLost_onward

theorem execPpClockPresent_onward {s : State} : ∃ t, execPpClockPresent s = .next t ∧ s.Onward t := by
  have h : s.Onward s := .rfl
  refine ⟨_, rfl, ?_⟩
  repeat' first
    | with_reducible assumption
    | with_reducible apply State.clockPresent_onward

theorem execPpSerTxWrite_onward {byte : Nat} {s : State} : ∃ t, execPpSerTxWrite byte s = .next t ∧ s.Onward t := by
  have h : s.Onward s := .rfl
  refine ⟨_, rfl, ?_⟩
  repeat' first
    | with_reducible assumption
    | with_reducible apply State.serialSend_onward

theorem execPpSerRxRead_onward {fn : Nat} {s : State} : ∃ t, execPpSerRxRead fn s = .next t ∧ s.Onward t := by
  have h : s.Onward s := .rfl
  refine ⟨_, rfl, ?_⟩
  repeat' first
    | with_reducible assumption
    | with_reducible apply Fabric.emit_onward
    | with_reducible apply State.emit_onward
    | with_reducible apply State.serialRead_onward
    | with_reducible refine State.Onward.ite ?_ ?_
    | split

theorem execPpSerByteReceived_onward {byte : Nat} {stop : Bool} {s : State} :
    ∃ t, execPpSerByteReceived byte stop s = .next t ∧ s.Onward t := by
  have h : s.Onward s := .rfl
  refine ⟨_, rfl, ?_⟩
  repeat' first
    | with_reducible assumption
    | with_reducible apply State.serialReceive_onward

theorem execPpSerByteSent_onward {s : State} : ∃ t, execPpSerByteSent s = .next t ∧ s.Onward t := by
  have h : s.Onward s := .rfl
  refine ⟨_, rfl, ?_⟩
  repeat' first
    | with_reducible assumption
    | with_reducible apply State.serialSent_onward

/-! Pens -/

theorem execPenCfgWrite_onward {fn : Nat} {p : Nat} {value : Word} {s : State} :
    ∃ t, execPenCfgWrite fn p value s = .next t ∧ s.Onward t := by
  have h : s.Onward s := .rfl
  refine ⟨_, rfl, ?_⟩
  repeat' first
    | with_reducible assumption
    | with_reducible apply State.penCfg_onward
    | with_reducible refine State.Onward.ite ?_ ?_
    | split

theorem execPenPop_onward {fn : Nat} {p : Nat} {count : Nat} {s : State} :
    ∃ t, execPenPop fn p count s = .next t ∧ s.Onward t := by
  have h : s.Onward s := .rfl
  refine ⟨_, rfl, ?_⟩
  repeat' first
    | with_reducible assumption
    | with_reducible apply State.penPop_onward
    | with_reducible refine State.Onward.ite ?_ ?_
    | split

theorem execPenPopComplete_onward {p : Nat} {s : State} : ∃ t, execPenPopComplete p s = .next t ∧ s.Onward t := by
  have h : s.Onward s := .rfl
  refine ⟨_, rfl, ?_⟩
  repeat' first
    | with_reducible assumption
    | with_reducible apply State.penPopDone_onward

theorem execHurdleInputChange_onward {k : Nat} {level : Bool} {s : State} :
    ∃ t, execHurdleInputChange k level s = .next t ∧ s.Onward t := by
  have h : s.Onward s := .rfl
  refine ⟨_, rfl, ?_⟩
  repeat' first
    | with_reducible assumption
    | with_reducible apply State.hurdleInput_onward

/-! Position -/

theorem execEncoderSet_onward {k : Nat} {s : State} : ∃ t, execEncoderSet k s = .next t ∧ s.Onward t := by
  have h : s.Onward s := .rfl
  refine ⟨_, rfl, ?_⟩
  repeat' first
    | with_reducible assumption
    | with_reducible apply State.encSet_onward

theorem execEncoderSetOnIndex_onward {k : Nat} {s : State} :
    ∃ t, execEncoderSetOnIndex k s = .next t ∧ s.Onward t := by
  have h : s.Onward s := .rfl
  refine ⟨_, rfl, ?_⟩
  repeat' first
    | with_reducible assumption
    | with_reducible apply State.encSetOnIndex_onward

theorem execEncoderAdjust_onward {k : Nat} {s : State} : ∃ t, execEncoderAdjust k s = .next t ∧ s.Onward t := by
  have h : s.Onward s := .rfl
  refine ⟨_, rfl, ?_⟩
  repeat' first
    | with_reducible assumption
    | with_reducible apply State.encAdjust_onward

theorem execCmpReset_onward {k : Nat} {s : State} : ∃ t, execCmpReset k s = .next t ∧ s.Onward t := by
  have h : s.Onward s := .rfl
  refine ⟨_, rfl, ?_⟩
  repeat' first
    | with_reducible assumption
    | with_reducible apply State.encCmpReset_onward

theorem execIndexEvent_onward {k : Nat} {z : Bool} {sample : Time} {s : State} :
    ∃ t, execIndexEvent k z sample s = .next t ∧ s.Onward t := by
  have h : s.Onward s := .rfl
  refine ⟨_, rfl, ?_⟩
  repeat' first
    | with_reducible assumption
    | with_reducible apply State.encIndex_onward

theorem execLineFault_onward {k : Nat} {signal : Nat} {on : Bool} {s : State} :
    ∃ t, execLineFault k signal on s = .next t ∧ s.Onward t := by
  have h : s.Onward s := .rfl
  refine ⟨_, rfl, ?_⟩
  repeat' first
    | with_reducible assumption
    | with_reducible apply State.encLineFault_onward

theorem execHallStateChange_onward {k : Nat} {state : Nat} {sample : Time} {s : State} :
    ∃ t, execHallStateChange k state sample s = .next t ∧ s.Onward t := by
  have h : s.Onward s := .rfl
  refine ⟨_, rfl, ?_⟩
  repeat' first
    | with_reducible assumption
    | with_reducible apply State.encHall_onward

theorem execSpeedStillTimeout_onward {k : Nat} {s : State} :
    ∃ t, execSpeedStillTimeout k s = .next t ∧ s.Onward t := by
  have h : s.Onward s := .rfl
  refine ⟨_, rfl, ?_⟩
  repeat' first
    | with_reducible assumption
    | with_reducible apply State.encStill_onward

theorem execCmpEntryWrite_onward {k : Nat} {hi : Word} {s : State} :
    ∃ t, execCmpEntryWrite k hi s = .next t ∧ s.Onward t := by
  have h : s.Onward s := .rfl
  refine ⟨_, rfl, ?_⟩
  repeat' first
    | with_reducible assumption
    | with_reducible apply State.cmpWrite_onward

theorem execCmpTailWrite_onward {k : Nat} {value : Word} {s : State} :
    ∃ t, execCmpTailWrite k value s = .next t ∧ s.Onward t := by
  have h : s.Onward s := .rfl
  refine ⟨_, rfl, ?_⟩
  repeat' first
    | with_reducible assumption
    | with_reducible apply State.cmpCtrl_onward

theorem execHistSnapshotRead_onward {k : Nat} {s : State} : ∃ t, execHistSnapshotRead k s = .next t ∧ s.Onward t := by
  have h : s.Onward s := .rfl
  refine ⟨_, rfl, ?_⟩
  repeat' first
    | with_reducible assumption
    | with_reducible apply State.histSnapshot_onward

theorem execSaRequestNow_onward {j : Nat} {line : Bool} {s : State} :
    ∃ t, execSaRequestNow j line s = .next t ∧ s.Onward t := by
  have h : s.Onward s := .rfl
  refine ⟨_, rfl, ?_⟩
  repeat' first
    | with_reducible assumption
    | with_reducible apply State.absAsk_onward
    | with_reducible apply State.setAbs_onward
    | fail_if_no_progress with_reducible apply State.Onward.upd

theorem execSaTransferComplete_onward {j : Nat} {word : Nat} {parity : Bool} {high : Bool} {s : State} :
    ∃ t, execSaTransferComplete j word parity high s = .next t ∧ s.Onward t := by
  have h : s.Onward s := .rfl
  refine ⟨_, rfl, ?_⟩
  repeat' first
    | with_reducible assumption
    | with_reducible apply State.absDone_onward

/-! Power -/

theorem execPowerDownRequest_onward {d : Nat} {s : State} : ∃ t, execPowerDownRequest d s = .next t ∧ s.Onward t := by
  have h : s.Onward s := .rfl
  refine ⟨_, rfl, ?_⟩
  repeat' first
    | with_reducible assumption
    | with_reducible apply State.pwrReqWrite_onward
    | with_reducible refine State.Onward.ite ?_ ?_
    | split

theorem execPowerDownComplete_onward {d : Nat} {s : State} :
    ∃ t, execPowerDownComplete d s = .next t ∧ s.Onward t := by
  have h : s.Onward s := .rfl
  refine ⟨_, rfl, ?_⟩
  repeat' first
    | with_reducible assumption
    | with_reducible apply State.downComplete_onward

theorem execPowerUpRequest_onward {d : Nat} {s : State} : ∃ t, execPowerUpRequest d s = .next t ∧ s.Onward t := by
  have h : s.Onward s := .rfl
  refine ⟨_, rfl, ?_⟩
  repeat' first
    | with_reducible assumption
    | with_reducible apply State.pwrReqWrite_onward
    | with_reducible refine State.Onward.ite ?_ ?_
    | split

theorem execPowerUpComplete_onward {d : Nat} {s : State} : ∃ t, execPowerUpComplete d s = .next t ∧ s.Onward t := by
  have h : s.Onward s := .rfl
  refine ⟨_, rfl, ?_⟩
  repeat' first
    | with_reducible assumption
    | with_reducible apply State.upComplete_onward

theorem execCageModuleInsert_onward {c : Nat} {s : State} : ∃ t, execCageModuleInsert c s = .next t ∧ s.Onward t := by
  have h : s.Onward s := .rfl
  refine ⟨_, rfl, ?_⟩
  repeat' first
    | with_reducible assumption
    | with_reducible apply State.cageInsert_onward

theorem execCageModuleReady_onward {c : Nat} {kind : Nat} {class_ : Nat} {s : State} :
    ∃ t, execCageModuleReady c kind class_ s = .next t ∧ s.Onward t := by
  have h : s.Onward s := .rfl
  refine ⟨_, rfl, ?_⟩
  repeat' first
    | with_reducible assumption
    | with_reducible apply State.cageReady_onward

theorem execCageModuleRemove_onward {c : Nat} {s : State} : ∃ t, execCageModuleRemove c s = .next t ∧ s.Onward t := by
  have h : s.Onward s := .rfl
  refine ⟨_, rfl, ?_⟩
  repeat' first
    | with_reducible assumption
    | with_reducible apply State.cageRemove_onward

theorem execCageRailFault_onward {c : Nat} {s : State} : ∃ t, execCageRailFault c s = .next t ∧ s.Onward t := by
  have h : s.Onward s := .rfl
  refine ⟨_, rfl, ?_⟩
  repeat' first
    | with_reducible assumption
    | with_reducible apply State.cageFault_onward

/-! Resets -/

theorem execColdReset_sound {mv : Nat} {s : State} : ∃ t, execColdReset mv s = .next t ∧ s.Sound t := by
  have h : s.Sound s := .rfl
  refine ⟨_, rfl, ?_⟩
  repeat' first
    | with_reducible assumption
    | with_reducible apply State.coldReset_sound

theorem execV12Loss_sound {s : State} : ∃ t, execV12Loss s = .next t ∧ s.Sound t := by
  have h : s.Sound s := .rfl
  refine ⟨_, rfl, ?_⟩
  repeat' first
    | with_reducible assumption
    | with_reducible apply State.supplyLost_sound
    | with_reducible refine State.Sound.ite ?_ ?_

theorem execV12RangeChange_sound {mv : Nat} {s : State} : ∃ t, execV12RangeChange mv s = .next t ∧ s.Sound t := by
  have h : s.Sound s := .rfl
  refine ⟨_, rfl, ?_⟩
  repeat' first
    | with_reducible assumption
    | with_reducible apply State.rangeChange_sound

theorem execAuxSupplyChange_onward {present : Bool} {s : State} :
    ∃ t, execAuxSupplyChange present s = .next t ∧ s.Onward t := by
  have h : s.Onward s := .rfl
  refine ⟨_, rfl, ?_⟩
  repeat' first
    | with_reducible assumption
    | with_reducible apply State.auxChange_onward

theorem execModuleResetAssert_onward {line : Nat} {s : State} :
    ∃ t, execModuleResetAssert line s = .next t ∧ s.Onward t := by
  have h : s.Onward s := .rfl
  refine ⟨_, rfl, ?_⟩
  repeat' first
    | with_reducible assumption
    | with_reducible apply State.resetAssert_onward

theorem execModuleResetRelease_sound {line : Nat} {s : State} :
    ∃ t, execModuleResetRelease line s = .next t ∧ s.Sound t := by
  have h : s.Sound s := .rfl
  refine ⟨_, rfl, ?_⟩
  repeat' first
    | with_reducible assumption
    | with_reducible apply State.resetRelease_sound

theorem execThermalSample_sound {temps : List Nat} {s : State} :
    ∃ t, execThermalSample temps s = .next t ∧ s.Sound t := by
  have h : s.Sound s := .rfl
  refine ⟨_, rfl, ?_⟩
  repeat' first
    | with_reducible assumption
    | with_reducible apply State.thermalSample_sound

theorem execShepherdBoot_onward {s : State} : ∃ t, execShepherdBoot s = .next t ∧ s.Onward t := by
  have h : s.Onward s := .rfl
  refine ⟨_, rfl, ?_⟩
  repeat' first
    | with_reducible assumption
    | with_reducible apply State.shepherdBoot_onward

theorem execWatchdogExpire_onward {s : State} : ∃ t, execWatchdogExpire s = .next t ∧ s.Onward t := by
  have h : s.Onward s := .rfl
  refine ⟨_, rfl, ?_⟩
  repeat' first
    | with_reducible assumption
    | with_reducible apply State.watchdog_onward

theorem execWarmReset_onward {s : State} : ∃ t, execWarmReset s = .next t ∧ s.Onward t := by
  have h : s.Onward s := .rfl
  refine ⟨_, rfl, ?_⟩
  repeat' first
    | with_reducible assumption
    | with_reducible apply State.warmReset_onward

theorem execWarmResetReload_onward {s : State} : ∃ t, execWarmResetReload s = .next t ∧ s.Onward t := by
  have h : s.Onward s := .rfl
  refine ⟨_, rfl, ?_⟩
  repeat' first
    | with_reducible assumption
    | with_reducible apply State.warmReload_onward

theorem execRecoveryScanComplete_onward {us : Nat} {rate : Nat} {s : State} :
    ∃ t, execRecoveryScanComplete us rate s = .next t ∧ s.Onward t := by
  have h : s.Onward s := .rfl
  refine ⟨_, rfl, ?_⟩
  repeat' first
    | with_reducible assumption
    | with_reducible apply State.recoveryEnd_onward

theorem execMfFunctionLevelReset_onward {s : State} : ∃ t, execMfFunctionLevelReset s = .next t ∧ s.Onward t := by
  have h : s.Onward s := .rfl
  refine ⟨_, rfl, ?_⟩
  repeat' first
    | with_reducible assumption
    | with_reducible apply State.managementReset_onward

theorem execLinkDown_onward {hot : Bool} {s : State} : ∃ t, execLinkDown hot s = .next t ∧ s.Onward t := by
  have h : s.Onward s := .rfl
  refine ⟨_, rfl, ?_⟩
  repeat' first
    | with_reducible assumption
    | with_reducible apply State.linkDown_onward

theorem execModuleUnseating_onward {s : State} : ∃ t, execModuleUnseating s = .next t ∧ s.Onward t := by
  have h : s.Onward s := .rfl
  refine ⟨_, rfl, ?_⟩
  repeat' first
    | with_reducible assumption
    | with_reducible apply State.unseat_onward

theorem execModuleReseated_onward {s : State} : ∃ t, execModuleReseated s = .next t ∧ s.Onward t := by
  have h : s.Onward s := .rfl
  refine ⟨_, rfl, ?_⟩
  repeat' first
    | with_reducible assumption
    | with_reducible apply State.reseat_onward

theorem execModuleRemoval_sound {s : State} : ∃ t, execModuleRemoval s = .next t ∧ s.Sound t := by
  have h : s.Sound s := .rfl
  refine ⟨_, rfl, ?_⟩
  repeat' first
    | with_reducible assumption
    | with_reducible apply State.supplyLost_sound

/-! Shepherd -/

theorem execDoeDiscovery_onward {index : Nat} {s : State} : ∃ t, execDoeDiscovery index s = .next t ∧ s.Onward t := by
  have h : s.Onward s := .rfl
  refine ⟨_, rfl, ?_⟩
  repeat' first
    | with_reducible assumption
    | with_reducible apply Fabric.emit_onward
    | with_reducible apply State.emit_onward
    | with_reducible apply Fabric.raise_onward
    | with_reducible apply State.raise_onward
    | with_reducible refine State.Onward.ite ?_ ?_
    | split
    | fail_if_no_progress dsimp only

theorem execUploadBegin_onward {mailbox : Bool} {total : Nat} {s : State} :
    ∃ t, execUploadBegin mailbox total s = .next t ∧ s.Onward t := by
  have h : s.Onward s := .rfl
  refine ⟨_, rfl, ?_⟩
  repeat' first
    | with_reducible assumption
    | with_reducible apply Machine.uploadRequest_onward

theorem execUploadData_onward {mailbox : Bool} {offset : Nat} {data : List Byte} {s : State} :
    ∃ t, execUploadData mailbox offset data s = .next t ∧ s.Onward t := by
  have h : s.Onward s := .rfl
  refine ⟨_, rfl, ?_⟩
  repeat' first
    | with_reducible assumption
    | with_reducible apply Machine.uploadRequest_onward

theorem execUploadEnd_onward {mailbox : Bool} {s : State} : ∃ t, execUploadEnd mailbox s = .next t ∧ s.Onward t := by
  have h : s.Onward s := .rfl
  refine ⟨_, rfl, ?_⟩
  repeat' first
    | with_reducible assumption
    | with_reducible apply Machine.uploadRequest_onward

theorem execUploadAbort_onward {mailbox : Bool} {s : State} :
    ∃ t, execUploadAbort mailbox s = .next t ∧ s.Onward t := by
  have h : s.Onward s := .rfl
  refine ⟨_, rfl, ?_⟩
  repeat' first
    | with_reducible assumption
    | with_reducible apply Machine.uploadRequest_onward

theorem execUploadQuery_onward {mailbox : Bool} {s : State} :
    ∃ t, execUploadQuery mailbox s = .next t ∧ s.Onward t := by
  have h : s.Onward s := .rfl
  refine ⟨_, rfl, ?_⟩
  repeat' first
    | with_reducible assumption
    | with_reducible apply Machine.uploadRequest_onward

theorem execUploadUnknownOp_onward {mailbox : Bool} {op : Nat} {s : State} :
    ∃ t, execUploadUnknownOp mailbox op s = .next t ∧ s.Onward t := by
  have h : s.Onward s := .rfl
  refine ⟨_, rfl, ?_⟩
  repeat' first
    | with_reducible assumption
    | with_reducible apply Machine.uploadRequest_onward
    | with_reducible refine State.Onward.ite ?_ ?_
    | split

theorem execFirmwareBegin_onward {total : Nat} {s : State} :
    ∃ t, execFirmwareBegin total s = .next t ∧ s.Onward t := by
  have h : s.Onward s := .rfl
  refine ⟨_, rfl, ?_⟩
  repeat' first
    | with_reducible assumption
    | with_reducible apply State.mailboxOp_onward

theorem execFirmwareData_onward {offset : Nat} {data : List Byte} {s : State} :
    ∃ t, execFirmwareData offset data s = .next t ∧ s.Onward t := by
  have h : s.Onward s := .rfl
  refine ⟨_, rfl, ?_⟩
  repeat' first
    | with_reducible assumption
    | with_reducible apply State.mailboxOp_onward

theorem execFirmwareEnd_onward {fail : Bool} {s : State} : ∃ t, execFirmwareEnd fail s = .next t ∧ s.Onward t := by
  have h : s.Onward s := .rfl
  refine ⟨_, rfl, ?_⟩
  repeat' first
    | with_reducible assumption
    | with_reducible apply State.firmwareWritten_onward
    | with_reducible apply State.mailboxOp_onward

theorem execFirmwareAbort_onward {s : State} : ∃ t, execFirmwareAbort s = .next t ∧ s.Onward t := by
  have h : s.Onward s := .rfl
  refine ⟨_, rfl, ?_⟩
  repeat' first
    | with_reducible assumption
    | with_reducible apply State.mailboxOp_onward

theorem execReadLogEntry_onward {entry : Nat} {s : State} : ∃ t, execReadLogEntry entry s = .next t ∧ s.Onward t := by
  have h : s.Onward s := .rfl
  refine ⟨_, rfl, ?_⟩
  repeat' first
    | with_reducible assumption
    | with_reducible apply State.mailboxOp_onward

theorem execShepherdRestart_onward {s : State} : ∃ t, execShepherdRestart s = .next t ∧ s.Onward t := by
  have h : s.Onward s := .rfl
  refine ⟨_, rfl, ?_⟩
  repeat' first
    | with_reducible assumption
    | with_reducible apply State.mailboxOp_onward

theorem execSpdmGetVersion_onward {smbus : Bool} {s : State} :
    ∃ t, execSpdmGetVersion smbus s = .next t ∧ s.Onward t := by
  have h : s.Onward s := .rfl
  refine ⟨_, rfl, ?_⟩
  repeat' first
    | with_reducible assumption
    | with_reducible apply State.spdmRequest_onward

theorem execSpdmGetCapabilities_onward {smbus : Bool} {s : State} :
    ∃ t, execSpdmGetCapabilities smbus s = .next t ∧ s.Onward t := by
  have h : s.Onward s := .rfl
  refine ⟨_, rfl, ?_⟩
  repeat' first
    | with_reducible assumption
    | with_reducible apply State.spdmRequest_onward

theorem execSpdmNegotiateAlgorithms_onward {smbus : Bool} {s : State} :
    ∃ t, execSpdmNegotiateAlgorithms smbus s = .next t ∧ s.Onward t := by
  have h : s.Onward s := .rfl
  refine ⟨_, rfl, ?_⟩
  repeat' first
    | with_reducible assumption
    | with_reducible apply State.spdmRequest_onward

theorem execSpdmGetDigests_onward {smbus : Bool} {s : State} :
    ∃ t, execSpdmGetDigests smbus s = .next t ∧ s.Onward t := by
  have h : s.Onward s := .rfl
  refine ⟨_, rfl, ?_⟩
  repeat' first
    | with_reducible assumption
    | with_reducible apply State.spdmRequest_onward

theorem execSpdmGetCertificate_onward {smbus : Bool} {slot : Nat} {off : Nat} {len : Nat} {s : State} :
    ∃ t, execSpdmGetCertificate smbus slot off len s = .next t ∧ s.Onward t := by
  have h : s.Onward s := .rfl
  refine ⟨_, rfl, ?_⟩
  repeat' first
    | with_reducible assumption
    | with_reducible apply State.spdmRequest_onward

theorem execSpdmChallenge_onward {smbus : Bool} {slot : Nat} {nonce : List Byte} {s : State} :
    ∃ t, execSpdmChallenge smbus slot nonce s = .next t ∧ s.Onward t := by
  have h : s.Onward s := .rfl
  refine ⟨_, rfl, ?_⟩
  repeat' first
    | with_reducible assumption
    | with_reducible apply State.spdmRequest_onward

theorem execSpdmGetMeasurements_onward {smbus : Bool} {op : Nat} {sign : Bool} {nonce : List Byte} {s : State} :
    ∃ t, execSpdmGetMeasurements smbus op sign nonce s = .next t ∧ s.Onward t := by
  have h : s.Onward s := .rfl
  refine ⟨_, rfl, ?_⟩
  repeat' first
    | with_reducible assumption
    | with_reducible apply State.spdmRequest_onward

theorem execSpdmRespondIfReady_onward {smbus : Bool} {code : Nat} {token : Nat} {s : State} :
    ∃ t, execSpdmRespondIfReady smbus code token s = .next t ∧ s.Onward t := by
  have h : s.Onward s := .rfl
  refine ⟨_, rfl, ?_⟩
  repeat' first
    | with_reducible assumption
    | with_reducible apply State.spdmRequest_onward

theorem execSpdmUnsupportedRequest_onward {smbus : Bool} {code : Nat} {s : State} :
    ∃ t, execSpdmUnsupportedRequest smbus code s = .next t ∧ s.Onward t := by
  have h : s.Onward s := .rfl
  refine ⟨_, rfl, ?_⟩
  repeat' first
    | with_reducible assumption
    | with_reducible apply State.spdmRequest_onward
    | with_reducible refine State.Onward.ite ?_ ?_
    | split

theorem execMctpSetEndpointId_onward {eid : Nat} {s : State} :
    ∃ t, execMctpSetEndpointId eid s = .next t ∧ s.Onward t := by
  have h : s.Onward s := .rfl
  refine ⟨_, rfl, ?_⟩
  repeat' first
    | with_reducible assumption
    | with_reducible apply State.mctpReply_onward
    | with_reducible apply State.updShep_onward
    | fail_if_no_progress dsimp only
    | fail_if_no_progress with_reducible apply State.Onward.upd

theorem execMctpGetEndpointId_onward {s : State} : ∃ t, execMctpGetEndpointId s = .next t ∧ s.Onward t := by
  have h : s.Onward s := .rfl
  refine ⟨_, rfl, ?_⟩
  repeat' first
    | with_reducible assumption
    | with_reducible apply State.mctpReply_onward

theorem execMctpGetVersionSupport_onward {s : State} : ∃ t, execMctpGetVersionSupport s = .next t ∧ s.Onward t := by
  have h : s.Onward s := .rfl
  refine ⟨_, rfl, ?_⟩
  repeat' first
    | with_reducible assumption
    | with_reducible apply State.mctpReply_onward
    | fail_if_no_progress dsimp only

theorem execMctpGetMessageTypeSupport_onward {s : State} :
    ∃ t, execMctpGetMessageTypeSupport s = .next t ∧ s.Onward t := by
  have h : s.Onward s := .rfl
  refine ⟨_, rfl, ?_⟩
  repeat' first
    | with_reducible assumption
    | with_reducible apply State.mctpReply_onward

theorem execHealthLogWrite_onward {fail : Bool} {s : State} :
    ∃ t, execHealthLogWrite fail s = .next t ∧ s.Onward t := by
  have h : s.Onward s := .rfl
  refine ⟨_, rfl, ?_⟩
  repeat' first
    | with_reducible assumption
    | with_reducible apply State.healthWrite_onward

theorem execCalOverride_onward {blocks : Nat} {s : State} : ∃ t, execCalOverride blocks s = .next t ∧ s.Onward t := by
  have h : s.Onward s := .rfl
  refine ⟨_, rfl, ?_⟩
  repeat' first
    | with_reducible assumption
    | with_reducible apply State.calOverrideCmd_onward

/-! Sources -/

theorem execSlotFire_onward {k : Nat} {s : State} : ∃ t, execSlotFire k s = .next t ∧ s.Onward t := by
  have h : s.Onward s := .rfl
  refine ⟨_, rfl, ?_⟩
  repeat' first
    | with_reducible assumption
    | with_reducible apply State.slotDue_onward

theorem execEncoderCountEdge_onward {k : Nat} {a : Bool} {b : Bool} {sample : Time} {s : State} :
    ∃ t, execEncoderCountEdge k a b sample s = .next t ∧ s.Onward t := by
  have h : s.Onward s := .rfl
  refine ⟨_, rfl, ?_⟩
  repeat' first
    | with_reducible assumption
    | with_reducible apply State.countEdge_onward

theorem execTriggerInputEdge_onward {i : Nat} {level : Bool} {first : Time} {s : State} :
    ∃ t, execTriggerInputEdge i level first s = .next t ∧ s.Onward t := by
  have h : s.Onward s := .rfl
  refine ⟨_, rfl, ?_⟩
  repeat' first
    | with_reducible assumption
    | with_reducible apply State.inputEdge_onward

theorem execConversionComplete_onward {c : Nat} {raw : Nat} {s : State} :
    ∃ t, execConversionComplete c raw s = .next t ∧ s.Onward t := by
  have h : s.Onward s := .rfl
  refine ⟨_, rfl, ?_⟩
  repeat' first
    | with_reducible assumption
    | with_reducible apply State.sampleReady_onward

/-! Time -/

theorem execBwPeriodWrite_onward {v : Nat} {s : State} : ∃ t, execBwPeriodWrite v s = .next t ∧ s.Onward t := by
  have h : s.Onward s := .rfl
  refine ⟨_, rfl, ?_⟩
  repeat' first
    | with_reducible assumption
    | with_reducible apply State.bwPeriod_onward

theorem execBwPeriodApply_onward {s : State} : ∃ t, execBwPeriodApply s = .next t ∧ s.Onward t := by
  have h : s.Onward s := .rfl
  refine ⟨_, rfl, ?_⟩
  repeat' first
    | with_reducible assumption
    | with_reducible apply State.bwApply_onward

theorem execIncCommit_onward {d : Nat} {int : Nat} {s : State} :
    ∃ t, execIncCommit d int s = .next t ∧ s.Onward t := by
  have h : s.Onward s := .rfl
  refine ⟨_, rfl, ?_⟩
  repeat' first
    | with_reducible assumption
    | with_reducible apply State.incCommit_onward

theorem execAdjustStart_onward {d : Nat} {ticks : Nat} {s : State} :
    ∃ t, execAdjustStart d ticks s = .next t ∧ s.Onward t := by
  have h : s.Onward s := .rfl
  refine ⟨_, rfl, ?_⟩
  repeat' first
    | with_reducible assumption
    | with_reducible apply State.adjustStart_onward

theorem execAdjustEnd_onward {d : Nat} {s : State} : ∃ t, execAdjustEnd d s = .next t ∧ s.Onward t := by
  have h : s.Onward s := .rfl
  refine ⟨_, rfl, ?_⟩
  repeat' first
    | with_reducible assumption
    | with_reducible apply State.advance_onward

theorem execTimeSet_onward {d : Nat} {s : State} : ∃ t, execTimeSet d s = .next t ∧ s.Onward t := by
  have h : s.Onward s := .rfl
  refine ⟨_, rfl, ?_⟩
  repeat' first
    | with_reducible assumption
    | with_reducible apply State.timeSet_onward

theorem execSetOnPps_onward {d : Nat} {s : State} : ∃ t, execSetOnPps d s = .next t ∧ s.Onward t := by
  have h : s.Onward s := .rfl
  refine ⟨_, rfl, ?_⟩
  repeat' first
    | with_reducible assumption
    | with_reducible apply State.setOnPps_onward

theorem execRestartServo_onward {d : Nat} {s : State} : ∃ t, execRestartServo d s = .next t ∧ s.Onward t := by
  have h : s.Onward s := .rfl
  refine ⟨_, rfl, ?_⟩
  repeat' first
    | with_reducible assumption
    | with_reducible apply State.loseHistory_onward

theorem execCatchupEnd_onward {d : Nat} {s : State} : ∃ t, execCatchupEnd d s = .next t ∧ s.Onward t := by
  have h : s.Onward s := .rfl
  refine ⟨_, rfl, ?_⟩
  repeat' first
    | with_reducible assumption
    | with_reducible apply State.advance_onward

theorem execJoinStart_onward {sel : Nat} {s : State} : ∃ t, execJoinStart sel s = .next t ∧ s.Onward t := by
  have h : s.Onward s := .rfl
  refine ⟨_, rfl, ?_⟩
  repeat' first
    | with_reducible assumption
    | with_reducible apply State.joinStart_onward

theorem execJoinComplete_onward {s : State} : ∃ t, execJoinComplete s = .next t ∧ s.Onward t := by
  have h : s.Onward s := .rfl
  refine ⟨_, rfl, ?_⟩
  repeat' first
    | with_reducible assumption
    | with_reducible apply State.joinRun_onward

theorem execJoinForce_onward {s : State} : ∃ t, execJoinForce s = .next t ∧ s.Onward t := by
  have h : s.Onward s := .rfl
  refine ⟨_, rfl, ?_⟩
  repeat' first
    | with_reducible assumption
    | with_reducible apply State.joinForce_onward

theorem execJoinCancel_onward {s : State} : ∃ t, execJoinCancel s = .next t ∧ s.Onward t := by
  have h : s.Onward s := .rfl
  refine ⟨_, rfl, ?_⟩
  repeat' first
    | with_reducible assumption
    | with_reducible apply State.joinCancel_onward

theorem execPtpSync_onward {d : Nat} {master : Nat} {gm : Nat} {s : State} :
    ∃ t, execPtpSync d master gm s = .next t ∧ s.Onward t := by
  have h : s.Onward s := .rfl
  refine ⟨_, rfl, ?_⟩
  repeat' first
    | with_reducible assumption
    | with_reducible apply State.ptpSync_onward

theorem execPtpAnnounce_onward {d : Nat} {domain : Nat} {transport : Nat} {data : List Nat} {s : State} :
    ∃ t, execPtpAnnounce d domain transport data s = .next t ∧ s.Onward t := by
  have h : s.Onward s := .rfl
  refine ⟨_, rfl, ?_⟩
  repeat' first
    | with_reducible assumption
    | with_reducible apply State.ptpAnnounce_onward

theorem execPtpDelayResponse_onward {d : Nat} {delay : Nat} {s : State} :
    ∃ t, execPtpDelayResponse d delay s = .next t ∧ s.Onward t := by
  have h : s.Onward s := .rfl
  refine ⟨_, rfl, ?_⟩
  repeat' first
    | with_reducible assumption
    | with_reducible apply State.ptpDelay_onward

theorem execAnnounceTimeout_onward {d : Nat} {s : State} : ∃ t, execAnnounceTimeout d s = .next t ∧ s.Onward t := by
  have h : s.Onward s := .rfl
  refine ⟨_, rfl, ?_⟩
  repeat' first
    | with_reducible assumption
    | with_reducible apply State.announceTimeout_onward

theorem execHoldoverExpire_onward {d : Nat} {s : State} : ∃ t, execHoldoverExpire d s = .next t ∧ s.Onward t := by
  have h : s.Onward s := .rfl
  refine ⟨_, rfl, ?_⟩
  repeat' first
    | with_reducible assumption
    | with_reducible apply State.holdoverExpire_onward

theorem execPpsInEdge_onward {s : State} : ∃ t, execPpsInEdge s = .next t ∧ s.Onward t := by
  have h : s.Onward s := .rfl
  refine ⟨_, rfl, ?_⟩
  repeat' first
    | with_reducible assumption
    | with_reducible apply State.ppsEdge_onward

theorem execPpsTimeout_onward {s : State} : ∃ t, execPpsTimeout s = .next t ∧ s.Onward t := by
  have h : s.Onward s := .rfl
  refine ⟨_, rfl, ?_⟩
  repeat' first
    | with_reducible assumption
    | with_reducible apply State.setLocks_onward
    | fail_if_no_progress with_reducible apply State.Onward.upd
    | with_reducible refine State.Onward.updTb ?_ ?_
    | fail_if_no_progress with_reducible apply TimeBase.Onward.upd
    | with_reducible apply State.Onward.tb

theorem execRefclkLock_onward {s : State} : ∃ t, execRefclkLock s = .next t ∧ s.Onward t := by
  have h : s.Onward s := .rfl
  refine ⟨_, rfl, ?_⟩
  repeat' first
    | with_reducible assumption
    | with_reducible apply State.setLocks_onward

theorem execRefclkLost_onward {s : State} : ∃ t, execRefclkLost s = .next t ∧ s.Onward t := by
  have h : s.Onward s := .rfl
  refine ⟨_, rfl, ?_⟩
  repeat' first
    | with_reducible assumption
    | with_reducible apply State.setLocks_onward

theorem execRefSelChange_onward {v : Nat} {s : State} : ∃ t, execRefSelChange v s = .next t ∧ s.Onward t := by
  have h : s.Onward s := .rfl
  refine ⟨_, rfl, ?_⟩
  repeat' first
    | with_reducible assumption
    | with_reducible apply State.refSel_onward

theorem execPpsOutPulse_onward {s : State} : ∃ t, execPpsOutPulse s = .next t ∧ s.Onward t := by
  have h : s.Onward s := .rfl
  refine ⟨_, rfl, ?_⟩
  repeat' first
    | with_reducible assumption
    | with_reducible apply Fabric.emit_onward
    | with_reducible apply State.emit_onward
    | with_reducible apply State.runTo_onward
    | with_reducible refine State.Onward.ite ?_ ?_
    | split

theorem execSlotArm_onward {k : Nat} {s : State} : ∃ t, execSlotArm k s = .next t ∧ s.Onward t := by
  have h : s.Onward s := .rfl
  refine ⟨_, rfl, ?_⟩
  repeat' first
    | with_reducible assumption
    | with_reducible apply State.slotArm_onward

theorem execSlotDisarm_onward {k : Nat} {s : State} : ∃ t, execSlotDisarm k s = .next t ∧ s.Onward t := by
  have h : s.Onward s := .rfl
  refine ⟨_, rfl, ?_⟩
  repeat' first
    | with_reducible assumption
    | with_reducible apply State.slotDisarm_onward

/-! Trigger -/

theorem execSoftwareTrigger_onward {mask : Nat} {s : State} :
    ∃ t, execSoftwareTrigger mask s = .next t ∧ s.Onward t := by
  have h : s.Onward s := .rfl
  refine ⟨_, rfl, ?_⟩
  repeat' first
    | with_reducible assumption
    | with_reducible apply State.softwareTrigger_onward

theorem execChannelPulse_onward {n : Nat} {s : State} : ∃ t, execChannelPulse n s = .next t ∧ s.Onward t := by
  have h : s.Onward s := .rfl
  refine ⟨_, rfl, ?_⟩
  repeat' first
    | with_reducible assumption
    | with_reducible apply State.combine_onward

theorem execRouteEdgeEmit_onward {n : Nat} {route : Nat} {s : State} :
    ∃ t, execRouteEdgeEmit n route s = .next t ∧ s.Onward t := by
  have h : s.Onward s := .rfl
  refine ⟨_, rfl, ?_⟩
  repeat' first
    | with_reducible assumption
    | with_reducible apply State.emitEdge_onward

theorem execInbandSend_onward {P : Nat} {s : State} : ∃ t, execInbandSend P s = .next t ∧ s.Onward t := by
  have h : s.Onward s := .rfl
  refine ⟨_, rfl, ?_⟩
  repeat' first
    | with_reducible assumption
    | with_reducible apply State.inbandSend_onward

theorem execExposureCommitReq_onward {fn : Nat} {n : Nat} {s : State} :
    ∃ t, execExposureCommitReq fn n s = .next t ∧ s.Onward t := by
  have h : s.Onward s := .rfl
  refine ⟨_, rfl, ?_⟩
  repeat' first
    | with_reducible assumption
    | with_reducible apply State.trigReq_onward
    | with_reducible refine State.Onward.ite ?_ ?_
    | split

theorem execExposureCommitCancel_onward {fn : Nat} {n : Nat} {s : State} :
    ∃ t, execExposureCommitCancel fn n s = .next t ∧ s.Onward t := by
  have h : s.Onward s := .rfl
  refine ⟨_, rfl, ?_⟩
  repeat' first
    | with_reducible assumption
    | with_reducible apply State.trigCancel_onward
    | with_reducible refine State.Onward.ite ?_ ?_
    | split

theorem execExposureCommitApply_onward {n : Nat} {s : State} :
    ∃ t, execExposureCommitApply n s = .next t ∧ s.Onward t := by
  have h : s.Onward s := .rfl
  refine ⟨_, rfl, ?_⟩
  repeat' first
    | with_reducible assumption
    | with_reducible apply State.trigApply_onward

end Sys2Proof.Machine
end

