-- ==== Sys2Proof/Laws/Fields.lean ====
section
/-!
SUPPORT. Registers and fields: what a read gives after a write, of the same field, of another field of the word, and of
another register.
-/
namespace Sys2Proof.Machine

/-- The bits of a field, one at a time. -/
theorem testBit_bitsOf (w : Word) (hi lo j : Nat) :
    (bitsOf w hi lo).testBit j = (decide (j < hi + 1 - lo) && w.toNat.testBit (lo + j)) := by
  unfold bitsOf
  rw [Nat.testBit_mod_two_pow, Nat.testBit_div_two_pow, Nat.add_comm j lo]

/-- A word with a field entered, one bit at a time. -/
theorem testBit_withBits (w : Word) {hi lo : Nat} (v j : Nat) (h : lo ≤ hi) (h32 : hi < 32) :
    (withBits w hi lo v).toNat.testBit j
      = if lo ≤ j ∧ j ≤ hi then v.testBit (j - lo) else w.toNat.testBit j := by
  have hw : w.toNat < 2 ^ 32 := w.isLt
  have e32 : (2 : Nat) ^ 32 = 2 ^ (31 - hi) * (2 ^ (hi + 1 - lo) * 2 ^ lo) := by
    rw [← Nat.pow_add, ← Nat.pow_add]; congr 1; omega
  have hl : 0 < 2 ^ lo := Nat.two_pow_pos lo
  have hm : 0 < 2 ^ (hi + 1 - lo) := Nat.two_pow_pos _
  have hx : v % 2 ^ (hi + 1 - lo) < 2 ^ (hi + 1 - lo) := Nat.mod_lt _ hm
  have h1 := Nat.div_add_mod w.toNat (2 ^ lo)
  have h2 := Nat.div_add_mod (w.toNat / 2 ^ lo) (2 ^ (hi + 1 - lo))
  have hr : w.toNat % 2 ^ lo < 2 ^ lo := Nat.mod_lt _ hl
  have ha : w.toNat / 2 ^ lo % 2 ^ (hi + 1 - lo) < 2 ^ (hi + 1 - lo) := Nat.mod_lt _ hm
  have hb : w.toNat / 2 ^ lo / 2 ^ (hi + 1 - lo) < 2 ^ (31 - hi) := by
    rw [Nat.div_div_eq_div_mul, Nat.div_lt_iff_lt_mul (Nat.mul_pos hl hm), Nat.mul_comm (2 ^ lo), ← e32]; exact hw
  have hn : w.toNat = 2 ^ lo * (2 ^ (hi + 1 - lo) * (w.toNat / 2 ^ lo / 2 ^ (hi + 1 - lo))
      + w.toNat / 2 ^ lo % 2 ^ (hi + 1 - lo)) + w.toNat % 2 ^ lo := by rw [h2, h1]
  have e : (withBits w hi lo v).toNat = 2 ^ lo * (2 ^ (hi + 1 - lo) * (w.toNat / 2 ^ lo / 2 ^ (hi + 1 - lo))
      + v % 2 ^ (hi + 1 - lo)) + w.toNat % 2 ^ lo := by
    unfold withBits
    simp only [BitVec.toNat_ofNat]
    rw [e32]
    generalize w.toNat % 2 ^ lo = r at *
    generalize w.toNat / 2 ^ lo / 2 ^ (hi + 1 - lo) = b at *
    generalize w.toNat / 2 ^ lo % 2 ^ (hi + 1 - lo) = a at *
    generalize v % 2 ^ (hi + 1 - lo) = x at *
    generalize w.toNat = n at *
    generalize 2 ^ lo = L at *
    generalize 2 ^ (hi + 1 - lo) = M at *
    generalize 2 ^ (31 - hi) = H at *
    have hs : n - a * L + x * L = L * (M * b + x) + r := by
      have : n = L * (M * b) + a * L + r := by rw [hn]; ring
      have e3 : L * (M * b + x) = L * (M * b) + x * L := by ring
      omega
    rw [hs, Nat.mod_eq_of_lt]
    calc L * (M * b + x) + r < L * (M * b + x) + L := by omega
      _ = L * (M * b + (x + 1)) := by ring
      _ ≤ L * (M * b + M) := by gcongr; omega
      _ = L * (M * (b + 1)) := by ring
      _ ≤ L * (M * H) := by gcongr; omega
      _ = H * (M * L) := by ring
  rw [e]
  rw [Nat.testBit_two_pow_mul_add _ hr, Nat.testBit_two_pow_mul_add _ hx]
  by_cases c1 : j < lo
  · rw [if_pos c1, if_neg (by omega), Nat.testBit_mod_two_pow]; simp [c1]
  · rw [if_neg c1]
    by_cases c2 : j - lo < hi + 1 - lo
    · rw [if_pos c2, if_pos (by omega), Nat.testBit_mod_two_pow]; simp [c2]
    · rw [if_neg c2, if_neg (by omega), Nat.testBit_div_two_pow, Nat.testBit_div_two_pow]
      congr 1; omega

/-- A field just entered reads as its value, cut to its width. -/
theorem bitsOf_withBits_same (w : Word) {hi lo : Nat} (v : Nat) (h : lo ≤ hi) (h32 : hi < 32) :
    bitsOf (withBits w hi lo v) hi lo = v % 2 ^ (hi + 1 - lo) := by
  apply Nat.eq_of_testBit_eq
  intro j
  rw [testBit_bitsOf, testBit_withBits w v _ h h32, Nat.testBit_mod_two_pow]
  by_cases c : j < hi + 1 - lo
  · rw [if_pos (by omega)]; simp
  · simp [c]

/-- Entering one field leaves the other fields of the word. -/
theorem bitsOf_withBits_other (w : Word) {hi lo hi' lo' : Nat} (v : Nat) (h : lo ≤ hi) (h32 : hi < 32)
    (hd : hi' < lo ∨ hi < lo') : bitsOf (withBits w hi lo v) hi' lo' = bitsOf w hi' lo' := by
  apply Nat.eq_of_testBit_eq
  intro j
  rw [testBit_bitsOf, testBit_bitsOf, testBit_withBits w v _ h h32]
  by_cases c : j < hi' + 1 - lo'
  · rw [if_neg (by omega)]
  · simp [c]

@[simp] theorem Fabric.rw_ww_same (b : Fabric) (key : Nat) (w : Word) : (b.ww key w).rw key = w := tget_tset_same ..

theorem Fabric.rw_ww_other (b : Fabric) {key key' : Nat} (w : Word) (h : key' ≠ key) :
    (b.ww key w).rw key' = b.rw key' := tget_tset_other _ _ _ h

namespace State

@[simp] theorem rw_ww_same (s : State) (key : Nat) (w : Word) : (s.ww key w).rw key = w := Fabric.rw_ww_same ..

theorem rw_ww_other (s : State) {key key' : Nat} (w : Word) (h : key' ≠ key) : (s.ww key w).rw key' = s.rw key' :=
  Fabric.rw_ww_other _ _ h

theorem rd_ww_same (s : State) (f : FRef) (w : Word) : (s.ww f.key w).rd f = bitsOf w f.hi f.lo := by
  show bitsOf ((s.fab.ww f.key w).rw f.key) f.hi f.lo = _
  rw [Fabric.rw_ww_same]

theorem rd_ww_other (s : State) {f : FRef} {key : Nat} (w : Word) (h : f.key ≠ key) : (s.ww key w).rd f = s.rd f := by
  show bitsOf ((s.fab.ww key w).rw f.key) f.hi f.lo = bitsOf (s.fab.rw f.key) f.hi f.lo
  rw [Fabric.rw_ww_other _ _ h]

/-- A field just written reads as its value, cut to its width. -/
theorem rd_wr_same (s : State) {f : FRef} (v : Nat) (h : f.lo ≤ f.hi) (h32 : f.hi < 32) :
    (s.wr f v).rd f = v % 2 ^ (f.hi + 1 - f.lo) := by
  show bitsOf ((s.fab.ww f.key _).rw f.key) f.hi f.lo = _
  rw [Fabric.rw_ww_same, bitsOf_withBits_same _ _ h h32]

/-- Writing one field leaves every other field, of the same word or of another. -/
theorem rd_wr_other (s : State) {f g : FRef} (v : Nat) (h : f.lo ≤ f.hi) (h32 : f.hi < 32)
    (hd : g.key ≠ f.key ∨ g.hi < f.lo ∨ f.hi < g.lo) : (s.wr f v).rd g = s.rd g := by
  show bitsOf ((s.fab.ww f.key _).rw g.key) g.hi g.lo = bitsOf (s.fab.rw g.key) g.hi g.lo
  by_cases e : g.key = f.key
  · rw [e, Fabric.rw_ww_same, bitsOf_withBits_other _ _ h h32 (hd.resolve_left fun x => x e)]
  · rw [Fabric.rw_ww_other _ _ e]

/-- Writing a field leaves every other register. -/
theorem rw_wr_other (s : State) {f : FRef} {key : Nat} (v : Nat) (h : key ≠ f.key) : (s.wr f v).rw key = s.rw key :=
  Fabric.rw_ww_other _ _ h

end State
end Sys2Proof.Machine
end

