-- ==== Sys2Proof/Laws/Mailbox.lean ====
section
/-! SUPPORT. What one mailbox operation is (R478): its registers written, then served or waiting. -/
namespace Sys2Proof.Machine
namespace State

/-- The registers of a mailbox operation, written before it is served. -/
def mailboxStaged (op arg : Nat) (data : List Byte) (s : State) : State :=
  (putWord 0 SH_MB_CMD (BitVec.ofNat 32 (2 ^ 31 + op))
    ((List.range ((min data.length 4096 + 3) / 4)).foldl (fun (t : State) i =>
      t.ww (SH_MB_DATA i) (BitVec.ofNat 32 (leNat ((data.drop (4 * i)).take 4))))
      ((s.wr SH_MB_ARG_ARG arg).wr SH_MB_LEN_BYTES (min data.length 4096)))).wr SH_MB_CMD_BUSY 1

/-- Writing data registers leaves the fields of any other register. -/
theorem rd_foldl_data (f : FRef) (g : Nat → Word) (l : List Nat) (s : State) (h : ∀ i ∈ l, f.key ≠ SH_MB_DATA i) :
    (l.foldl (fun (t : State) i => t.ww (SH_MB_DATA i) (g i)) s).rd f = s.rd f := by
  induction l generalizing s with
  | nil => rfl
  | cons i r ih =>
    rw [List.foldl_cons, ih _ fun j hj => h j (List.mem_cons_of_mem _ hj), rd_ww_other _ _ (h i List.mem_cons_self)]

@[simp] theorem leBytes_length (n v : Nat) : (leBytes n v).length = n := by
  induction n generalizing v with
  | zero => rfl
  | succ n ih => simp [leBytes, ih]

/-- The definition of the mailbox's command register. -/
theorem regAt_mailbox : regAt (SH_MB_CMD % fnSpan)
    = some { off := 0, fields := [fl 31 31 .wo, fl 30 30 .ro, fl 23 16 .ro, fl 7 0 .rw] } := by decide +kernel

/-- A written word of SH_MB_CMD changes OP alone, and raises no access error. -/
theorem putWord_mailbox (w : Word) (s : State) :
    putWord 0 SH_MB_CMD w s = s.ww SH_MB_CMD (withBits (s.rw SH_MB_CMD) 7 0 (bitsOf w 7 0)) := by
  unfold putWord
  rw [regAt_mailbox]
  rfl

theorem bitsOf_mailbox_op {op : Nat} (h : op < 256) : bitsOf (BitVec.ofNat 32 (2 ^ 31 + op)) 7 0 = op := by
  simp only [bitsOf, BitVec.toNat_ofNat]; omega

theorem bitsOf_mailbox_go {op : Nat} (h : op < 256) : bitsOf (BitVec.ofNat 32 (2 ^ 31 + op)) 31 31 = 1 := by
  simp only [bitsOf, BitVec.toNat_ofNat]; omega

/-- The operation a staged mailbox names. -/
theorem mailboxStaged_op (op arg : Nat) (data : List Byte) (s : State) (h : op < 256) :
    (mailboxStaged op arg data s).rd SH_MB_CMD_OP = op := by
  unfold mailboxStaged
  rw [rd_wr_other _ _ (by decide) (by decide) (Or.inr (Or.inl (by decide))), putWord_mailbox]
  show bitsOf ((State.ww _ SH_MB_CMD _).rw SH_MB_CMD) 7 0 = op
  rw [rw_ww_same, bitsOf_withBits_same _ _ (by decide) (by decide), bitsOf_mailbox_op h]
  exact Nat.mod_eq_of_lt h

/-- One mailbox operation: nothing while BUSY; else its registers are written, and it is served where the shepherd
serves, or waits. -/
theorem mailboxOp_eq (op arg : Nat) (data : List Byte) (s : State) (h : op < 256) :
    mailboxOp op arg data s = if s.rd SH_MB_CMD_BUSY = 1 then s
      else if (mailboxStaged op arg data s).shepherdRuns = true ∨ (mailboxStaged op arg data s).rd SH_STATUS_STATE = 3 then
        mailboxServe op (mailboxStaged op arg data s)
      else (mailboxStaged op arg data s).updShep fun x => { x with mailbox := some op } := by
  unfold mailboxOp mailboxCmd
  by_cases hb : s.rd SH_MB_CMD_BUSY = 1
  · rw [if_pos hb, if_pos hb]
  · rw [if_neg hb, if_neg hb]
    simp only
    rw [if_neg (by rw [bitsOf_mailbox_go h]; decide), if_neg]
    · have := mailboxStaged_op op arg data s h
      unfold mailboxStaged at this ⊢
      rw [this]
    · rw [rd_foldl_data _ _ _ _ fun i _ => by show SH_MB_CMD ≠ _; unfold SH_MB_CMD SH_MB_DATA; omega,
        rd_wr_other _ _ (by decide) (by decide) (Or.inl (by decide)),
        rd_wr_other _ _ (by decide) (by decide) (Or.inl (by decide))]
      exact hb

/-- One upload object: with the shepherd running it is answered by a data object of four words; else it waits. -/
theorem objectArrives_eq (op arg : Nat) (data : List Byte) (s : State) (h : 1 ≤ op ∧ op ≤ 5) :
    objectArrives op arg data s = if s.shepherdRuns = true then
      let r := uploadOp .doe false op arg data s
      (r.2.2.emit (.reply 0 ([0x3C#8, 0x1F#8, 0x01#8, 0x00#8] ++ leBytes 4 4
        ++ (leBytes 1 (op ||| 0x80) ++ leBytes 3 r.1 ++ leBytes 4 r.2.1)))).raise 839 0
      else s.updShep fun x => { x with objects := x.objects ++ [(op, arg, data)] } := by
  unfold objectArrives uploadObject
  rw [if_neg (by omega : ¬(op < 1 ∨ 5 < op))]
  simp only [doeReply, List.length_append, leBytes_length]

end State
end Sys2Proof.Machine
end

