-- ==== Sys2Proof/Laws/State.lean ====
section
/-!
SUPPORT. The fields of the state under each of its updates: an update touches one field, and an entry just made reads back.
-/
namespace Sys2Proof.Machine.State

variable (s : State)

@[simp] theorem setLane_pending (n : Nat) (x : Lane) : (s.setLane n x).pending = s.pending := rfl
@[simp] theorem setLane_fab (n : Nat) (x : Lane) : (s.setLane n x).fab = s.fab := rfl
@[simp] theorem setLane_snaps (n : Nat) (x : Lane) : (s.setLane n x).snaps = s.snaps := rfl
@[simp] theorem setLane_tb (n : Nat) (x : Lane) : (s.setLane n x).tb = s.tb := rfl
@[simp] theorem setLane_bw (n : Nat) (x : Lane) : (s.setLane n x).bw = s.bw := rfl
@[simp] theorem setLane_struct (n : Nat) (x : Lane) : (s.setLane n x).struct = s.struct := rfl
@[simp] theorem setLane_part (n : Nat) (x : Lane) : (s.setLane n x).part = s.part := rfl
@[simp] theorem setLane_streams (n : Nat) (x : Lane) : (s.setLane n x).streams = s.streams := rfl
@[simp] theorem setLane_hostHeld (n : Nat) (x : Lane) : (s.setLane n x).hostHeld = s.hostHeld := rfl
@[simp] theorem setLane_ports (n : Nat) (x : Lane) : (s.setLane n x).ports = s.ports := rfl
@[simp] theorem setLane_encs (n : Nat) (x : Lane) : (s.setLane n x).encs = s.encs := rfl
@[simp] theorem setLane_abs (n : Nat) (x : Lane) : (s.setLane n x).abs = s.abs := rfl
@[simp] theorem setLane_trigs (n : Nat) (x : Lane) : (s.setLane n x).trigs = s.trigs := rfl
@[simp] theorem setLane_inputs (n : Nat) (x : Lane) : (s.setLane n x).inputs = s.inputs := rfl
@[simp] theorem setLane_ais (n : Nat) (x : Lane) : (s.setLane n x).ais = s.ais := rfl
@[simp] theorem setLane_cals (n : Nat) (x : Lane) : (s.setLane n x).cals = s.cals := rfl
@[simp] theorem setLane_calFlash (n : Nat) (x : Lane) : (s.setLane n x).calFlash = s.calFlash := rfl
@[simp] theorem setLane_records (n : Nat) (x : Lane) : (s.setLane n x).records = s.records := rfl
@[simp] theorem setLane_strms (n : Nat) (x : Lane) : (s.setLane n x).strms = s.strms := rfl
@[simp] theorem setLane_firstRecord (n : Nat) (x : Lane) : (s.setLane n x).firstRecord = s.firstRecord := rfl
@[simp] theorem setLane_streamMoves (n : Nat) (x : Lane) : (s.setLane n x).streamMoves = s.streamMoves := rfl
@[simp] theorem setLane_committing (n : Nat) (x : Lane) : (s.setLane n x).committing = s.committing := rfl
@[simp] theorem setLane_flrOpen (n : Nat) (x : Lane) : (s.setLane n x).flrOpen = s.flrOpen := rfl
@[simp] theorem setLane_flrDue (n : Nat) (x : Lane) : (s.setLane n x).flrDue = s.flrDue := rfl
@[simp] theorem setLane_groups (n : Nat) (x : Lane) : (s.setLane n x).groups = s.groups := rfl
@[simp] theorem setLane_serial (n : Nat) (x : Lane) : (s.setLane n x).serial = s.serial := rfl
@[simp] theorem setLane_slips (n : Nat) (x : Lane) : (s.setLane n x).slips = s.slips := rfl
@[simp] theorem setLane_scanFull (n : Nat) (x : Lane) : (s.setLane n x).scanFull = s.scanFull := rfl
@[simp] theorem setLane_ctxs (n : Nat) (x : Lane) : (s.setLane n x).ctxs = s.ctxs := rfl
@[simp] theorem setLane_folds (n : Nat) (x : Lane) : (s.setLane n x).folds = s.folds := rfl
@[simp] theorem setLane_net (n : Nat) (x : Lane) : (s.setLane n x).net = s.net := rfl
@[simp] theorem setLane_chans (n : Nat) (x : Lane) : (s.setLane n x).chans = s.chans := rfl
@[simp] theorem setLane_drovers (n : Nat) (x : Lane) : (s.setLane n x).drovers = s.drovers := rfl
@[simp] theorem setLane_shep (n : Nat) (x : Lane) : (s.setLane n x).shep = s.shep := rfl
@[simp] theorem setLane_power (n : Nat) (x : Lane) : (s.setLane n x).power = s.power := rfl
@[simp] theorem setLane_freeCounter (n : Nat) (x : Lane) : (s.setLane n x).freeCounter = s.freeCounter := rfl

@[simp] theorem setPort_pending (P : Nat) (x : Port) : (s.setPort P x).pending = s.pending := rfl
@[simp] theorem setPort_fab (P : Nat) (x : Port) : (s.setPort P x).fab = s.fab := rfl
@[simp] theorem setPort_snaps (P : Nat) (x : Port) : (s.setPort P x).snaps = s.snaps := rfl
@[simp] theorem setPort_tb (P : Nat) (x : Port) : (s.setPort P x).tb = s.tb := rfl
@[simp] theorem setPort_bw (P : Nat) (x : Port) : (s.setPort P x).bw = s.bw := rfl
@[simp] theorem setPort_struct (P : Nat) (x : Port) : (s.setPort P x).struct = s.struct := rfl
@[simp] theorem setPort_part (P : Nat) (x : Port) : (s.setPort P x).part = s.part := rfl
@[simp] theorem setPort_streams (P : Nat) (x : Port) : (s.setPort P x).streams = s.streams := rfl
@[simp] theorem setPort_hostHeld (P : Nat) (x : Port) : (s.setPort P x).hostHeld = s.hostHeld := rfl
@[simp] theorem setPort_lanes (P : Nat) (x : Port) : (s.setPort P x).lanes = s.lanes := rfl
@[simp] theorem setPort_encs (P : Nat) (x : Port) : (s.setPort P x).encs = s.encs := rfl
@[simp] theorem setPort_abs (P : Nat) (x : Port) : (s.setPort P x).abs = s.abs := rfl
@[simp] theorem setPort_trigs (P : Nat) (x : Port) : (s.setPort P x).trigs = s.trigs := rfl
@[simp] theorem setPort_inputs (P : Nat) (x : Port) : (s.setPort P x).inputs = s.inputs := rfl
@[simp] theorem setPort_ais (P : Nat) (x : Port) : (s.setPort P x).ais = s.ais := rfl
@[simp] theorem setPort_cals (P : Nat) (x : Port) : (s.setPort P x).cals = s.cals := rfl
@[simp] theorem setPort_calFlash (P : Nat) (x : Port) : (s.setPort P x).calFlash = s.calFlash := rfl
@[simp] theorem setPort_records (P : Nat) (x : Port) : (s.setPort P x).records = s.records := rfl
@[simp] theorem setPort_strms (P : Nat) (x : Port) : (s.setPort P x).strms = s.strms := rfl
@[simp] theorem setPort_firstRecord (P : Nat) (x : Port) : (s.setPort P x).firstRecord = s.firstRecord := rfl
@[simp] theorem setPort_streamMoves (P : Nat) (x : Port) : (s.setPort P x).streamMoves = s.streamMoves := rfl
@[simp] theorem setPort_committing (P : Nat) (x : Port) : (s.setPort P x).committing = s.committing := rfl
@[simp] theorem setPort_flrOpen (P : Nat) (x : Port) : (s.setPort P x).flrOpen = s.flrOpen := rfl
@[simp] theorem setPort_flrDue (P : Nat) (x : Port) : (s.setPort P x).flrDue = s.flrDue := rfl
@[simp] theorem setPort_groups (P : Nat) (x : Port) : (s.setPort P x).groups = s.groups := rfl
@[simp] theorem setPort_serial (P : Nat) (x : Port) : (s.setPort P x).serial = s.serial := rfl
@[simp] theorem setPort_slips (P : Nat) (x : Port) : (s.setPort P x).slips = s.slips := rfl
@[simp] theorem setPort_scanFull (P : Nat) (x : Port) : (s.setPort P x).scanFull = s.scanFull := rfl
@[simp] theorem setPort_ctxs (P : Nat) (x : Port) : (s.setPort P x).ctxs = s.ctxs := rfl
@[simp] theorem setPort_folds (P : Nat) (x : Port) : (s.setPort P x).folds = s.folds := rfl
@[simp] theorem setPort_net (P : Nat) (x : Port) : (s.setPort P x).net = s.net := rfl
@[simp] theorem setPort_chans (P : Nat) (x : Port) : (s.setPort P x).chans = s.chans := rfl
@[simp] theorem setPort_drovers (P : Nat) (x : Port) : (s.setPort P x).drovers = s.drovers := rfl
@[simp] theorem setPort_shep (P : Nat) (x : Port) : (s.setPort P x).shep = s.shep := rfl
@[simp] theorem setPort_power (P : Nat) (x : Port) : (s.setPort P x).power = s.power := rfl
@[simp] theorem setPort_freeCounter (P : Nat) (x : Port) : (s.setPort P x).freeCounter = s.freeCounter := rfl

@[simp] theorem updCounter_pending (d : Nat) (g : Counter → Counter) : (s.updCounter d g).pending = s.pending := rfl
@[simp] theorem updCounter_fab (d : Nat) (g : Counter → Counter) : (s.updCounter d g).fab = s.fab := rfl
@[simp] theorem updCounter_snaps (d : Nat) (g : Counter → Counter) : (s.updCounter d g).snaps = s.snaps := rfl
@[simp] theorem updCounter_bw (d : Nat) (g : Counter → Counter) : (s.updCounter d g).bw = s.bw := rfl
@[simp] theorem updCounter_struct (d : Nat) (g : Counter → Counter) : (s.updCounter d g).struct = s.struct := rfl
@[simp] theorem updCounter_part (d : Nat) (g : Counter → Counter) : (s.updCounter d g).part = s.part := rfl
@[simp] theorem updCounter_streams (d : Nat) (g : Counter → Counter) : (s.updCounter d g).streams = s.streams := rfl
@[simp] theorem updCounter_hostHeld (d : Nat) (g : Counter → Counter) : (s.updCounter d g).hostHeld = s.hostHeld := rfl
@[simp] theorem updCounter_lanes (d : Nat) (g : Counter → Counter) : (s.updCounter d g).lanes = s.lanes := rfl
@[simp] theorem updCounter_ports (d : Nat) (g : Counter → Counter) : (s.updCounter d g).ports = s.ports := rfl
@[simp] theorem updCounter_encs (d : Nat) (g : Counter → Counter) : (s.updCounter d g).encs = s.encs := rfl
@[simp] theorem updCounter_abs (d : Nat) (g : Counter → Counter) : (s.updCounter d g).abs = s.abs := rfl
@[simp] theorem updCounter_trigs (d : Nat) (g : Counter → Counter) : (s.updCounter d g).trigs = s.trigs := rfl
@[simp] theorem updCounter_inputs (d : Nat) (g : Counter → Counter) : (s.updCounter d g).inputs = s.inputs := rfl
@[simp] theorem updCounter_ais (d : Nat) (g : Counter → Counter) : (s.updCounter d g).ais = s.ais := rfl
@[simp] theorem updCounter_cals (d : Nat) (g : Counter → Counter) : (s.updCounter d g).cals = s.cals := rfl
@[simp] theorem updCounter_calFlash (d : Nat) (g : Counter → Counter) : (s.updCounter d g).calFlash = s.calFlash := rfl
@[simp] theorem updCounter_records (d : Nat) (g : Counter → Counter) : (s.updCounter d g).records = s.records := rfl
@[simp] theorem updCounter_strms (d : Nat) (g : Counter → Counter) : (s.updCounter d g).strms = s.strms := rfl
@[simp] theorem updCounter_firstRecord (d : Nat) (g : Counter → Counter) : (s.updCounter d g).firstRecord = s.firstRecord := rfl
@[simp] theorem updCounter_streamMoves (d : Nat) (g : Counter → Counter) : (s.updCounter d g).streamMoves = s.streamMoves := rfl
@[simp] theorem updCounter_committing (d : Nat) (g : Counter → Counter) : (s.updCounter d g).committing = s.committing := rfl
@[simp] theorem updCounter_flrOpen (d : Nat) (g : Counter → Counter) : (s.updCounter d g).flrOpen = s.flrOpen := rfl
@[simp] theorem updCounter_flrDue (d : Nat) (g : Counter → Counter) : (s.updCounter d g).flrDue = s.flrDue := rfl
@[simp] theorem updCounter_groups (d : Nat) (g : Counter → Counter) : (s.updCounter d g).groups = s.groups := rfl
@[simp] theorem updCounter_serial (d : Nat) (g : Counter → Counter) : (s.updCounter d g).serial = s.serial := rfl
@[simp] theorem updCounter_slips (d : Nat) (g : Counter → Counter) : (s.updCounter d g).slips = s.slips := rfl
@[simp] theorem updCounter_scanFull (d : Nat) (g : Counter → Counter) : (s.updCounter d g).scanFull = s.scanFull := rfl
@[simp] theorem updCounter_ctxs (d : Nat) (g : Counter → Counter) : (s.updCounter d g).ctxs = s.ctxs := rfl
@[simp] theorem updCounter_folds (d : Nat) (g : Counter → Counter) : (s.updCounter d g).folds = s.folds := rfl
@[simp] theorem updCounter_net (d : Nat) (g : Counter → Counter) : (s.updCounter d g).net = s.net := rfl
@[simp] theorem updCounter_chans (d : Nat) (g : Counter → Counter) : (s.updCounter d g).chans = s.chans := rfl
@[simp] theorem updCounter_drovers (d : Nat) (g : Counter → Counter) : (s.updCounter d g).drovers = s.drovers := rfl
@[simp] theorem updCounter_shep (d : Nat) (g : Counter → Counter) : (s.updCounter d g).shep = s.shep := rfl
@[simp] theorem updCounter_power (d : Nat) (g : Counter → Counter) : (s.updCounter d g).power = s.power := rfl
@[simp] theorem updCounter_freeCounter (d : Nat) (g : Counter → Counter) : (s.updCounter d g).freeCounter = s.freeCounter := rfl

@[simp] theorem setSlot_pending (k : Nat) (x : Slot) : (s.setSlot k x).pending = s.pending := rfl
@[simp] theorem setSlot_fab (k : Nat) (x : Slot) : (s.setSlot k x).fab = s.fab := rfl
@[simp] theorem setSlot_snaps (k : Nat) (x : Slot) : (s.setSlot k x).snaps = s.snaps := rfl
@[simp] theorem setSlot_bw (k : Nat) (x : Slot) : (s.setSlot k x).bw = s.bw := rfl
@[simp] theorem setSlot_struct (k : Nat) (x : Slot) : (s.setSlot k x).struct = s.struct := rfl
@[simp] theorem setSlot_part (k : Nat) (x : Slot) : (s.setSlot k x).part = s.part := rfl
@[simp] theorem setSlot_streams (k : Nat) (x : Slot) : (s.setSlot k x).streams = s.streams := rfl
@[simp] theorem setSlot_hostHeld (k : Nat) (x : Slot) : (s.setSlot k x).hostHeld = s.hostHeld := rfl
@[simp] theorem setSlot_lanes (k : Nat) (x : Slot) : (s.setSlot k x).lanes = s.lanes := rfl
@[simp] theorem setSlot_ports (k : Nat) (x : Slot) : (s.setSlot k x).ports = s.ports := rfl
@[simp] theorem setSlot_encs (k : Nat) (x : Slot) : (s.setSlot k x).encs = s.encs := rfl
@[simp] theorem setSlot_abs (k : Nat) (x : Slot) : (s.setSlot k x).abs = s.abs := rfl
@[simp] theorem setSlot_trigs (k : Nat) (x : Slot) : (s.setSlot k x).trigs = s.trigs := rfl
@[simp] theorem setSlot_inputs (k : Nat) (x : Slot) : (s.setSlot k x).inputs = s.inputs := rfl
@[simp] theorem setSlot_ais (k : Nat) (x : Slot) : (s.setSlot k x).ais = s.ais := rfl
@[simp] theorem setSlot_cals (k : Nat) (x : Slot) : (s.setSlot k x).cals = s.cals := rfl
@[simp] theorem setSlot_calFlash (k : Nat) (x : Slot) : (s.setSlot k x).calFlash = s.calFlash := rfl
@[simp] theorem setSlot_records (k : Nat) (x : Slot) : (s.setSlot k x).records = s.records := rfl
@[simp] theorem setSlot_strms (k : Nat) (x : Slot) : (s.setSlot k x).strms = s.strms := rfl
@[simp] theorem setSlot_firstRecord (k : Nat) (x : Slot) : (s.setSlot k x).firstRecord = s.firstRecord := rfl
@[simp] theorem setSlot_streamMoves (k : Nat) (x : Slot) : (s.setSlot k x).streamMoves = s.streamMoves := rfl
@[simp] theorem setSlot_committing (k : Nat) (x : Slot) : (s.setSlot k x).committing = s.committing := rfl
@[simp] theorem setSlot_flrOpen (k : Nat) (x : Slot) : (s.setSlot k x).flrOpen = s.flrOpen := rfl
@[simp] theorem setSlot_flrDue (k : Nat) (x : Slot) : (s.setSlot k x).flrDue = s.flrDue := rfl
@[simp] theorem setSlot_groups (k : Nat) (x : Slot) : (s.setSlot k x).groups = s.groups := rfl
@[simp] theorem setSlot_serial (k : Nat) (x : Slot) : (s.setSlot k x).serial = s.serial := rfl
@[simp] theorem setSlot_slips (k : Nat) (x : Slot) : (s.setSlot k x).slips = s.slips := rfl
@[simp] theorem setSlot_scanFull (k : Nat) (x : Slot) : (s.setSlot k x).scanFull = s.scanFull := rfl
@[simp] theorem setSlot_ctxs (k : Nat) (x : Slot) : (s.setSlot k x).ctxs = s.ctxs := rfl
@[simp] theorem setSlot_folds (k : Nat) (x : Slot) : (s.setSlot k x).folds = s.folds := rfl
@[simp] theorem setSlot_net (k : Nat) (x : Slot) : (s.setSlot k x).net = s.net := rfl
@[simp] theorem setSlot_chans (k : Nat) (x : Slot) : (s.setSlot k x).chans = s.chans := rfl
@[simp] theorem setSlot_drovers (k : Nat) (x : Slot) : (s.setSlot k x).drovers = s.drovers := rfl
@[simp] theorem setSlot_shep (k : Nat) (x : Slot) : (s.setSlot k x).shep = s.shep := rfl
@[simp] theorem setSlot_power (k : Nat) (x : Slot) : (s.setSlot k x).power = s.power := rfl
@[simp] theorem setSlot_freeCounter (k : Nat) (x : Slot) : (s.setSlot k x).freeCounter = s.freeCounter := rfl

@[simp] theorem setAi_pending (c : Nat) (x : AiChan) : (s.setAi c x).pending = s.pending := rfl
@[simp] theorem setAi_fab (c : Nat) (x : AiChan) : (s.setAi c x).fab = s.fab := rfl
@[simp] theorem setAi_snaps (c : Nat) (x : AiChan) : (s.setAi c x).snaps = s.snaps := rfl
@[simp] theorem setAi_tb (c : Nat) (x : AiChan) : (s.setAi c x).tb = s.tb := rfl
@[simp] theorem setAi_bw (c : Nat) (x : AiChan) : (s.setAi c x).bw = s.bw := rfl
@[simp] theorem setAi_struct (c : Nat) (x : AiChan) : (s.setAi c x).struct = s.struct := rfl
@[simp] theorem setAi_part (c : Nat) (x : AiChan) : (s.setAi c x).part = s.part := rfl
@[simp] theorem setAi_streams (c : Nat) (x : AiChan) : (s.setAi c x).streams = s.streams := rfl
@[simp] theorem setAi_hostHeld (c : Nat) (x : AiChan) : (s.setAi c x).hostHeld = s.hostHeld := rfl
@[simp] theorem setAi_lanes (c : Nat) (x : AiChan) : (s.setAi c x).lanes = s.lanes := rfl
@[simp] theorem setAi_ports (c : Nat) (x : AiChan) : (s.setAi c x).ports = s.ports := rfl
@[simp] theorem setAi_encs (c : Nat) (x : AiChan) : (s.setAi c x).encs = s.encs := rfl
@[simp] theorem setAi_abs (c : Nat) (x : AiChan) : (s.setAi c x).abs = s.abs := rfl
@[simp] theorem setAi_trigs (c : Nat) (x : AiChan) : (s.setAi c x).trigs = s.trigs := rfl
@[simp] theorem setAi_inputs (c : Nat) (x : AiChan) : (s.setAi c x).inputs = s.inputs := rfl
@[simp] theorem setAi_cals (c : Nat) (x : AiChan) : (s.setAi c x).cals = s.cals := rfl
@[simp] theorem setAi_calFlash (c : Nat) (x : AiChan) : (s.setAi c x).calFlash = s.calFlash := rfl
@[simp] theorem setAi_records (c : Nat) (x : AiChan) : (s.setAi c x).records = s.records := rfl
@[simp] theorem setAi_strms (c : Nat) (x : AiChan) : (s.setAi c x).strms = s.strms := rfl
@[simp] theorem setAi_firstRecord (c : Nat) (x : AiChan) : (s.setAi c x).firstRecord = s.firstRecord := rfl
@[simp] theorem setAi_streamMoves (c : Nat) (x : AiChan) : (s.setAi c x).streamMoves = s.streamMoves := rfl
@[simp] theorem setAi_committing (c : Nat) (x : AiChan) : (s.setAi c x).committing = s.committing := rfl
@[simp] theorem setAi_flrOpen (c : Nat) (x : AiChan) : (s.setAi c x).flrOpen = s.flrOpen := rfl
@[simp] theorem setAi_flrDue (c : Nat) (x : AiChan) : (s.setAi c x).flrDue = s.flrDue := rfl
@[simp] theorem setAi_groups (c : Nat) (x : AiChan) : (s.setAi c x).groups = s.groups := rfl
@[simp] theorem setAi_serial (c : Nat) (x : AiChan) : (s.setAi c x).serial = s.serial := rfl
@[simp] theorem setAi_slips (c : Nat) (x : AiChan) : (s.setAi c x).slips = s.slips := rfl
@[simp] theorem setAi_scanFull (c : Nat) (x : AiChan) : (s.setAi c x).scanFull = s.scanFull := rfl
@[simp] theorem setAi_ctxs (c : Nat) (x : AiChan) : (s.setAi c x).ctxs = s.ctxs := rfl
@[simp] theorem setAi_folds (c : Nat) (x : AiChan) : (s.setAi c x).folds = s.folds := rfl
@[simp] theorem setAi_net (c : Nat) (x : AiChan) : (s.setAi c x).net = s.net := rfl
@[simp] theorem setAi_chans (c : Nat) (x : AiChan) : (s.setAi c x).chans = s.chans := rfl
@[simp] theorem setAi_drovers (c : Nat) (x : AiChan) : (s.setAi c x).drovers = s.drovers := rfl
@[simp] theorem setAi_shep (c : Nat) (x : AiChan) : (s.setAi c x).shep = s.shep := rfl
@[simp] theorem setAi_power (c : Nat) (x : AiChan) : (s.setAi c x).power = s.power := rfl
@[simp] theorem setAi_freeCounter (c : Nat) (x : AiChan) : (s.setAi c x).freeCounter = s.freeCounter := rfl

@[simp] theorem setEnc_pending (k : Nat) (x : Encoder) : (s.setEnc k x).pending = s.pending := rfl
@[simp] theorem setEnc_fab (k : Nat) (x : Encoder) : (s.setEnc k x).fab = s.fab := rfl
@[simp] theorem setEnc_snaps (k : Nat) (x : Encoder) : (s.setEnc k x).snaps = s.snaps := rfl
@[simp] theorem setEnc_tb (k : Nat) (x : Encoder) : (s.setEnc k x).tb = s.tb := rfl
@[simp] theorem setEnc_bw (k : Nat) (x : Encoder) : (s.setEnc k x).bw = s.bw := rfl
@[simp] theorem setEnc_struct (k : Nat) (x : Encoder) : (s.setEnc k x).struct = s.struct := rfl
@[simp] theorem setEnc_part (k : Nat) (x : Encoder) : (s.setEnc k x).part = s.part := rfl
@[simp] theorem setEnc_streams (k : Nat) (x : Encoder) : (s.setEnc k x).streams = s.streams := rfl
@[simp] theorem setEnc_hostHeld (k : Nat) (x : Encoder) : (s.setEnc k x).hostHeld = s.hostHeld := rfl
@[simp] theorem setEnc_lanes (k : Nat) (x : Encoder) : (s.setEnc k x).lanes = s.lanes := rfl
@[simp] theorem setEnc_ports (k : Nat) (x : Encoder) : (s.setEnc k x).ports = s.ports := rfl
@[simp] theorem setEnc_abs (k : Nat) (x : Encoder) : (s.setEnc k x).abs = s.abs := rfl
@[simp] theorem setEnc_trigs (k : Nat) (x : Encoder) : (s.setEnc k x).trigs = s.trigs := rfl
@[simp] theorem setEnc_inputs (k : Nat) (x : Encoder) : (s.setEnc k x).inputs = s.inputs := rfl
@[simp] theorem setEnc_ais (k : Nat) (x : Encoder) : (s.setEnc k x).ais = s.ais := rfl
@[simp] theorem setEnc_cals (k : Nat) (x : Encoder) : (s.setEnc k x).cals = s.cals := rfl
@[simp] theorem setEnc_calFlash (k : Nat) (x : Encoder) : (s.setEnc k x).calFlash = s.calFlash := rfl
@[simp] theorem setEnc_records (k : Nat) (x : Encoder) : (s.setEnc k x).records = s.records := rfl
@[simp] theorem setEnc_strms (k : Nat) (x : Encoder) : (s.setEnc k x).strms = s.strms := rfl
@[simp] theorem setEnc_firstRecord (k : Nat) (x : Encoder) : (s.setEnc k x).firstRecord = s.firstRecord := rfl
@[simp] theorem setEnc_streamMoves (k : Nat) (x : Encoder) : (s.setEnc k x).streamMoves = s.streamMoves := rfl
@[simp] theorem setEnc_committing (k : Nat) (x : Encoder) : (s.setEnc k x).committing = s.committing := rfl
@[simp] theorem setEnc_flrOpen (k : Nat) (x : Encoder) : (s.setEnc k x).flrOpen = s.flrOpen := rfl
@[simp] theorem setEnc_flrDue (k : Nat) (x : Encoder) : (s.setEnc k x).flrDue = s.flrDue := rfl
@[simp] theorem setEnc_groups (k : Nat) (x : Encoder) : (s.setEnc k x).groups = s.groups := rfl
@[simp] theorem setEnc_serial (k : Nat) (x : Encoder) : (s.setEnc k x).serial = s.serial := rfl
@[simp] theorem setEnc_slips (k : Nat) (x : Encoder) : (s.setEnc k x).slips = s.slips := rfl
@[simp] theorem setEnc_scanFull (k : Nat) (x : Encoder) : (s.setEnc k x).scanFull = s.scanFull := rfl
@[simp] theorem setEnc_ctxs (k : Nat) (x : Encoder) : (s.setEnc k x).ctxs = s.ctxs := rfl
@[simp] theorem setEnc_folds (k : Nat) (x : Encoder) : (s.setEnc k x).folds = s.folds := rfl
@[simp] theorem setEnc_net (k : Nat) (x : Encoder) : (s.setEnc k x).net = s.net := rfl
@[simp] theorem setEnc_chans (k : Nat) (x : Encoder) : (s.setEnc k x).chans = s.chans := rfl
@[simp] theorem setEnc_drovers (k : Nat) (x : Encoder) : (s.setEnc k x).drovers = s.drovers := rfl
@[simp] theorem setEnc_shep (k : Nat) (x : Encoder) : (s.setEnc k x).shep = s.shep := rfl
@[simp] theorem setEnc_power (k : Nat) (x : Encoder) : (s.setEnc k x).power = s.power := rfl
@[simp] theorem setEnc_freeCounter (k : Nat) (x : Encoder) : (s.setEnc k x).freeCounter = s.freeCounter := rfl

@[simp] theorem setAbs_pending (j : Nat) (x : AbsChan) : (s.setAbs j x).pending = s.pending := rfl
@[simp] theorem setAbs_fab (j : Nat) (x : AbsChan) : (s.setAbs j x).fab = s.fab := rfl
@[simp] theorem setAbs_snaps (j : Nat) (x : AbsChan) : (s.setAbs j x).snaps = s.snaps := rfl
@[simp] theorem setAbs_tb (j : Nat) (x : AbsChan) : (s.setAbs j x).tb = s.tb := rfl
@[simp] theorem setAbs_bw (j : Nat) (x : AbsChan) : (s.setAbs j x).bw = s.bw := rfl
@[simp] theorem setAbs_struct (j : Nat) (x : AbsChan) : (s.setAbs j x).struct = s.struct := rfl
@[simp] theorem setAbs_part (j : Nat) (x : AbsChan) : (s.setAbs j x).part = s.part := rfl
@[simp] theorem setAbs_streams (j : Nat) (x : AbsChan) : (s.setAbs j x).streams = s.streams := rfl
@[simp] theorem setAbs_hostHeld (j : Nat) (x : AbsChan) : (s.setAbs j x).hostHeld = s.hostHeld := rfl
@[simp] theorem setAbs_lanes (j : Nat) (x : AbsChan) : (s.setAbs j x).lanes = s.lanes := rfl
@[simp] theorem setAbs_ports (j : Nat) (x : AbsChan) : (s.setAbs j x).ports = s.ports := rfl
@[simp] theorem setAbs_encs (j : Nat) (x : AbsChan) : (s.setAbs j x).encs = s.encs := rfl
@[simp] theorem setAbs_trigs (j : Nat) (x : AbsChan) : (s.setAbs j x).trigs = s.trigs := rfl
@[simp] theorem setAbs_inputs (j : Nat) (x : AbsChan) : (s.setAbs j x).inputs = s.inputs := rfl
@[simp] theorem setAbs_ais (j : Nat) (x : AbsChan) : (s.setAbs j x).ais = s.ais := rfl
@[simp] theorem setAbs_cals (j : Nat) (x : AbsChan) : (s.setAbs j x).cals = s.cals := rfl
@[simp] theorem setAbs_calFlash (j : Nat) (x : AbsChan) : (s.setAbs j x).calFlash = s.calFlash := rfl
@[simp] theorem setAbs_records (j : Nat) (x : AbsChan) : (s.setAbs j x).records = s.records := rfl
@[simp] theorem setAbs_strms (j : Nat) (x : AbsChan) : (s.setAbs j x).strms = s.strms := rfl
@[simp] theorem setAbs_firstRecord (j : Nat) (x : AbsChan) : (s.setAbs j x).firstRecord = s.firstRecord := rfl
@[simp] theorem setAbs_streamMoves (j : Nat) (x : AbsChan) : (s.setAbs j x).streamMoves = s.streamMoves := rfl
@[simp] theorem setAbs_committing (j : Nat) (x : AbsChan) : (s.setAbs j x).committing = s.committing := rfl
@[simp] theorem setAbs_flrOpen (j : Nat) (x : AbsChan) : (s.setAbs j x).flrOpen = s.flrOpen := rfl
@[simp] theorem setAbs_flrDue (j : Nat) (x : AbsChan) : (s.setAbs j x).flrDue = s.flrDue := rfl
@[simp] theorem setAbs_groups (j : Nat) (x : AbsChan) : (s.setAbs j x).groups = s.groups := rfl
@[simp] theorem setAbs_serial (j : Nat) (x : AbsChan) : (s.setAbs j x).serial = s.serial := rfl
@[simp] theorem setAbs_slips (j : Nat) (x : AbsChan) : (s.setAbs j x).slips = s.slips := rfl
@[simp] theorem setAbs_scanFull (j : Nat) (x : AbsChan) : (s.setAbs j x).scanFull = s.scanFull := rfl
@[simp] theorem setAbs_ctxs (j : Nat) (x : AbsChan) : (s.setAbs j x).ctxs = s.ctxs := rfl
@[simp] theorem setAbs_folds (j : Nat) (x : AbsChan) : (s.setAbs j x).folds = s.folds := rfl
@[simp] theorem setAbs_net (j : Nat) (x : AbsChan) : (s.setAbs j x).net = s.net := rfl
@[simp] theorem setAbs_chans (j : Nat) (x : AbsChan) : (s.setAbs j x).chans = s.chans := rfl
@[simp] theorem setAbs_drovers (j : Nat) (x : AbsChan) : (s.setAbs j x).drovers = s.drovers := rfl
@[simp] theorem setAbs_shep (j : Nat) (x : AbsChan) : (s.setAbs j x).shep = s.shep := rfl
@[simp] theorem setAbs_power (j : Nat) (x : AbsChan) : (s.setAbs j x).power = s.power := rfl
@[simp] theorem setAbs_freeCounter (j : Nat) (x : AbsChan) : (s.setAbs j x).freeCounter = s.freeCounter := rfl

@[simp] theorem setStrm_pending (n : Nat) (x : Strm) : (s.setStrm n x).pending = s.pending := rfl
@[simp] theorem setStrm_fab (n : Nat) (x : Strm) : (s.setStrm n x).fab = s.fab := rfl
@[simp] theorem setStrm_snaps (n : Nat) (x : Strm) : (s.setStrm n x).snaps = s.snaps := rfl
@[simp] theorem setStrm_tb (n : Nat) (x : Strm) : (s.setStrm n x).tb = s.tb := rfl
@[simp] theorem setStrm_bw (n : Nat) (x : Strm) : (s.setStrm n x).bw = s.bw := rfl
@[simp] theorem setStrm_struct (n : Nat) (x : Strm) : (s.setStrm n x).struct = s.struct := rfl
@[simp] theorem setStrm_part (n : Nat) (x : Strm) : (s.setStrm n x).part = s.part := rfl
@[simp] theorem setStrm_streams (n : Nat) (x : Strm) : (s.setStrm n x).streams = s.streams := rfl
@[simp] theorem setStrm_hostHeld (n : Nat) (x : Strm) : (s.setStrm n x).hostHeld = s.hostHeld := rfl
@[simp] theorem setStrm_lanes (n : Nat) (x : Strm) : (s.setStrm n x).lanes = s.lanes := rfl
@[simp] theorem setStrm_ports (n : Nat) (x : Strm) : (s.setStrm n x).ports = s.ports := rfl
@[simp] theorem setStrm_encs (n : Nat) (x : Strm) : (s.setStrm n x).encs = s.encs := rfl
@[simp] theorem setStrm_abs (n : Nat) (x : Strm) : (s.setStrm n x).abs = s.abs := rfl
@[simp] theorem setStrm_trigs (n : Nat) (x : Strm) : (s.setStrm n x).trigs = s.trigs := rfl
@[simp] theorem setStrm_inputs (n : Nat) (x : Strm) : (s.setStrm n x).inputs = s.inputs := rfl
@[simp] theorem setStrm_ais (n : Nat) (x : Strm) : (s.setStrm n x).ais = s.ais := rfl
@[simp] theorem setStrm_cals (n : Nat) (x : Strm) : (s.setStrm n x).cals = s.cals := rfl
@[simp] theorem setStrm_calFlash (n : Nat) (x : Strm) : (s.setStrm n x).calFlash = s.calFlash := rfl
@[simp] theorem setStrm_records (n : Nat) (x : Strm) : (s.setStrm n x).records = s.records := rfl
@[simp] theorem setStrm_firstRecord (n : Nat) (x : Strm) : (s.setStrm n x).firstRecord = s.firstRecord := rfl
@[simp] theorem setStrm_streamMoves (n : Nat) (x : Strm) : (s.setStrm n x).streamMoves = s.streamMoves := rfl
@[simp] theorem setStrm_committing (n : Nat) (x : Strm) : (s.setStrm n x).committing = s.committing := rfl
@[simp] theorem setStrm_flrOpen (n : Nat) (x : Strm) : (s.setStrm n x).flrOpen = s.flrOpen := rfl
@[simp] theorem setStrm_flrDue (n : Nat) (x : Strm) : (s.setStrm n x).flrDue = s.flrDue := rfl
@[simp] theorem setStrm_groups (n : Nat) (x : Strm) : (s.setStrm n x).groups = s.groups := rfl
@[simp] theorem setStrm_serial (n : Nat) (x : Strm) : (s.setStrm n x).serial = s.serial := rfl
@[simp] theorem setStrm_slips (n : Nat) (x : Strm) : (s.setStrm n x).slips = s.slips := rfl
@[simp] theorem setStrm_scanFull (n : Nat) (x : Strm) : (s.setStrm n x).scanFull = s.scanFull := rfl
@[simp] theorem setStrm_ctxs (n : Nat) (x : Strm) : (s.setStrm n x).ctxs = s.ctxs := rfl
@[simp] theorem setStrm_folds (n : Nat) (x : Strm) : (s.setStrm n x).folds = s.folds := rfl
@[simp] theorem setStrm_net (n : Nat) (x : Strm) : (s.setStrm n x).net = s.net := rfl
@[simp] theorem setStrm_chans (n : Nat) (x : Strm) : (s.setStrm n x).chans = s.chans := rfl
@[simp] theorem setStrm_drovers (n : Nat) (x : Strm) : (s.setStrm n x).drovers = s.drovers := rfl
@[simp] theorem setStrm_shep (n : Nat) (x : Strm) : (s.setStrm n x).shep = s.shep := rfl
@[simp] theorem setStrm_power (n : Nat) (x : Strm) : (s.setStrm n x).power = s.power := rfl
@[simp] theorem setStrm_freeCounter (n : Nat) (x : Strm) : (s.setStrm n x).freeCounter = s.freeCounter := rfl

@[simp] theorem setGroup_pending (n : Nat) (x : Group) : (s.setGroup n x).pending = s.pending := rfl
@[simp] theorem setGroup_fab (n : Nat) (x : Group) : (s.setGroup n x).fab = s.fab := rfl
@[simp] theorem setGroup_snaps (n : Nat) (x : Group) : (s.setGroup n x).snaps = s.snaps := rfl
@[simp] theorem setGroup_tb (n : Nat) (x : Group) : (s.setGroup n x).tb = s.tb := rfl
@[simp] theorem setGroup_bw (n : Nat) (x : Group) : (s.setGroup n x).bw = s.bw := rfl
@[simp] theorem setGroup_struct (n : Nat) (x : Group) : (s.setGroup n x).struct = s.struct := rfl
@[simp] theorem setGroup_part (n : Nat) (x : Group) : (s.setGroup n x).part = s.part := rfl
@[simp] theorem setGroup_streams (n : Nat) (x : Group) : (s.setGroup n x).streams = s.streams := rfl
@[simp] theorem setGroup_hostHeld (n : Nat) (x : Group) : (s.setGroup n x).hostHeld = s.hostHeld := rfl
@[simp] theorem setGroup_lanes (n : Nat) (x : Group) : (s.setGroup n x).lanes = s.lanes := rfl
@[simp] theorem setGroup_ports (n : Nat) (x : Group) : (s.setGroup n x).ports = s.ports := rfl
@[simp] theorem setGroup_encs (n : Nat) (x : Group) : (s.setGroup n x).encs = s.encs := rfl
@[simp] theorem setGroup_abs (n : Nat) (x : Group) : (s.setGroup n x).abs = s.abs := rfl
@[simp] theorem setGroup_trigs (n : Nat) (x : Group) : (s.setGroup n x).trigs = s.trigs := rfl
@[simp] theorem setGroup_inputs (n : Nat) (x : Group) : (s.setGroup n x).inputs = s.inputs := rfl
@[simp] theorem setGroup_ais (n : Nat) (x : Group) : (s.setGroup n x).ais = s.ais := rfl
@[simp] theorem setGroup_cals (n : Nat) (x : Group) : (s.setGroup n x).cals = s.cals := rfl
@[simp] theorem setGroup_calFlash (n : Nat) (x : Group) : (s.setGroup n x).calFlash = s.calFlash := rfl
@[simp] theorem setGroup_records (n : Nat) (x : Group) : (s.setGroup n x).records = s.records := rfl
@[simp] theorem setGroup_strms (n : Nat) (x : Group) : (s.setGroup n x).strms = s.strms := rfl
@[simp] theorem setGroup_firstRecord (n : Nat) (x : Group) : (s.setGroup n x).firstRecord = s.firstRecord := rfl
@[simp] theorem setGroup_streamMoves (n : Nat) (x : Group) : (s.setGroup n x).streamMoves = s.streamMoves := rfl
@[simp] theorem setGroup_committing (n : Nat) (x : Group) : (s.setGroup n x).committing = s.committing := rfl
@[simp] theorem setGroup_flrOpen (n : Nat) (x : Group) : (s.setGroup n x).flrOpen = s.flrOpen := rfl
@[simp] theorem setGroup_flrDue (n : Nat) (x : Group) : (s.setGroup n x).flrDue = s.flrDue := rfl
@[simp] theorem setGroup_serial (n : Nat) (x : Group) : (s.setGroup n x).serial = s.serial := rfl
@[simp] theorem setGroup_slips (n : Nat) (x : Group) : (s.setGroup n x).slips = s.slips := rfl
@[simp] theorem setGroup_scanFull (n : Nat) (x : Group) : (s.setGroup n x).scanFull = s.scanFull := rfl
@[simp] theorem setGroup_ctxs (n : Nat) (x : Group) : (s.setGroup n x).ctxs = s.ctxs := rfl
@[simp] theorem setGroup_folds (n : Nat) (x : Group) : (s.setGroup n x).folds = s.folds := rfl
@[simp] theorem setGroup_net (n : Nat) (x : Group) : (s.setGroup n x).net = s.net := rfl
@[simp] theorem setGroup_chans (n : Nat) (x : Group) : (s.setGroup n x).chans = s.chans := rfl
@[simp] theorem setGroup_drovers (n : Nat) (x : Group) : (s.setGroup n x).drovers = s.drovers := rfl
@[simp] theorem setGroup_shep (n : Nat) (x : Group) : (s.setGroup n x).shep = s.shep := rfl
@[simp] theorem setGroup_power (n : Nat) (x : Group) : (s.setGroup n x).power = s.power := rfl
@[simp] theorem setGroup_freeCounter (n : Nat) (x : Group) : (s.setGroup n x).freeCounter = s.freeCounter := rfl

@[simp] theorem setFlow_pending (f : Nat) (x : Flow) : (s.setFlow f x).pending = s.pending := rfl
@[simp] theorem setFlow_fab (f : Nat) (x : Flow) : (s.setFlow f x).fab = s.fab := rfl
@[simp] theorem setFlow_snaps (f : Nat) (x : Flow) : (s.setFlow f x).snaps = s.snaps := rfl
@[simp] theorem setFlow_tb (f : Nat) (x : Flow) : (s.setFlow f x).tb = s.tb := rfl
@[simp] theorem setFlow_bw (f : Nat) (x : Flow) : (s.setFlow f x).bw = s.bw := rfl
@[simp] theorem setFlow_struct (f : Nat) (x : Flow) : (s.setFlow f x).struct = s.struct := rfl
@[simp] theorem setFlow_part (f : Nat) (x : Flow) : (s.setFlow f x).part = s.part := rfl
@[simp] theorem setFlow_streams (f : Nat) (x : Flow) : (s.setFlow f x).streams = s.streams := rfl
@[simp] theorem setFlow_hostHeld (f : Nat) (x : Flow) : (s.setFlow f x).hostHeld = s.hostHeld := rfl
@[simp] theorem setFlow_lanes (f : Nat) (x : Flow) : (s.setFlow f x).lanes = s.lanes := rfl
@[simp] theorem setFlow_ports (f : Nat) (x : Flow) : (s.setFlow f x).ports = s.ports := rfl
@[simp] theorem setFlow_encs (f : Nat) (x : Flow) : (s.setFlow f x).encs = s.encs := rfl
@[simp] theorem setFlow_abs (f : Nat) (x : Flow) : (s.setFlow f x).abs = s.abs := rfl
@[simp] theorem setFlow_trigs (f : Nat) (x : Flow) : (s.setFlow f x).trigs = s.trigs := rfl
@[simp] theorem setFlow_inputs (f : Nat) (x : Flow) : (s.setFlow f x).inputs = s.inputs := rfl
@[simp] theorem setFlow_ais (f : Nat) (x : Flow) : (s.setFlow f x).ais = s.ais := rfl
@[simp] theorem setFlow_cals (f : Nat) (x : Flow) : (s.setFlow f x).cals = s.cals := rfl
@[simp] theorem setFlow_calFlash (f : Nat) (x : Flow) : (s.setFlow f x).calFlash = s.calFlash := rfl
@[simp] theorem setFlow_records (f : Nat) (x : Flow) : (s.setFlow f x).records = s.records := rfl
@[simp] theorem setFlow_strms (f : Nat) (x : Flow) : (s.setFlow f x).strms = s.strms := rfl
@[simp] theorem setFlow_firstRecord (f : Nat) (x : Flow) : (s.setFlow f x).firstRecord = s.firstRecord := rfl
@[simp] theorem setFlow_streamMoves (f : Nat) (x : Flow) : (s.setFlow f x).streamMoves = s.streamMoves := rfl
@[simp] theorem setFlow_committing (f : Nat) (x : Flow) : (s.setFlow f x).committing = s.committing := rfl
@[simp] theorem setFlow_flrOpen (f : Nat) (x : Flow) : (s.setFlow f x).flrOpen = s.flrOpen := rfl
@[simp] theorem setFlow_flrDue (f : Nat) (x : Flow) : (s.setFlow f x).flrDue = s.flrDue := rfl
@[simp] theorem setFlow_groups (f : Nat) (x : Flow) : (s.setFlow f x).groups = s.groups := rfl
@[simp] theorem setFlow_serial (f : Nat) (x : Flow) : (s.setFlow f x).serial = s.serial := rfl
@[simp] theorem setFlow_slips (f : Nat) (x : Flow) : (s.setFlow f x).slips = s.slips := rfl
@[simp] theorem setFlow_scanFull (f : Nat) (x : Flow) : (s.setFlow f x).scanFull = s.scanFull := rfl
@[simp] theorem setFlow_ctxs (f : Nat) (x : Flow) : (s.setFlow f x).ctxs = s.ctxs := rfl
@[simp] theorem setFlow_folds (f : Nat) (x : Flow) : (s.setFlow f x).folds = s.folds := rfl
@[simp] theorem setFlow_chans (f : Nat) (x : Flow) : (s.setFlow f x).chans = s.chans := rfl
@[simp] theorem setFlow_drovers (f : Nat) (x : Flow) : (s.setFlow f x).drovers = s.drovers := rfl
@[simp] theorem setFlow_shep (f : Nat) (x : Flow) : (s.setFlow f x).shep = s.shep := rfl
@[simp] theorem setFlow_power (f : Nat) (x : Flow) : (s.setFlow f x).power = s.power := rfl
@[simp] theorem setFlow_freeCounter (f : Nat) (x : Flow) : (s.setFlow f x).freeCounter = s.freeCounter := rfl

@[simp] theorem setCtx_pending (k : Nat) (x : Ctx) : (s.setCtx k x).pending = s.pending := rfl
@[simp] theorem setCtx_fab (k : Nat) (x : Ctx) : (s.setCtx k x).fab = s.fab := rfl
@[simp] theorem setCtx_snaps (k : Nat) (x : Ctx) : (s.setCtx k x).snaps = s.snaps := rfl
@[simp] theorem setCtx_tb (k : Nat) (x : Ctx) : (s.setCtx k x).tb = s.tb := rfl
@[simp] theorem setCtx_bw (k : Nat) (x : Ctx) : (s.setCtx k x).bw = s.bw := rfl
@[simp] theorem setCtx_struct (k : Nat) (x : Ctx) : (s.setCtx k x).struct = s.struct := rfl
@[simp] theorem setCtx_part (k : Nat) (x : Ctx) : (s.setCtx k x).part = s.part := rfl
@[simp] theorem setCtx_streams (k : Nat) (x : Ctx) : (s.setCtx k x).streams = s.streams := rfl
@[simp] theorem setCtx_hostHeld (k : Nat) (x : Ctx) : (s.setCtx k x).hostHeld = s.hostHeld := rfl
@[simp] theorem setCtx_lanes (k : Nat) (x : Ctx) : (s.setCtx k x).lanes = s.lanes := rfl
@[simp] theorem setCtx_ports (k : Nat) (x : Ctx) : (s.setCtx k x).ports = s.ports := rfl
@[simp] theorem setCtx_encs (k : Nat) (x : Ctx) : (s.setCtx k x).encs = s.encs := rfl
@[simp] theorem setCtx_abs (k : Nat) (x : Ctx) : (s.setCtx k x).abs = s.abs := rfl
@[simp] theorem setCtx_trigs (k : Nat) (x : Ctx) : (s.setCtx k x).trigs = s.trigs := rfl
@[simp] theorem setCtx_inputs (k : Nat) (x : Ctx) : (s.setCtx k x).inputs = s.inputs := rfl
@[simp] theorem setCtx_ais (k : Nat) (x : Ctx) : (s.setCtx k x).ais = s.ais := rfl
@[simp] theorem setCtx_cals (k : Nat) (x : Ctx) : (s.setCtx k x).cals = s.cals := rfl
@[simp] theorem setCtx_calFlash (k : Nat) (x : Ctx) : (s.setCtx k x).calFlash = s.calFlash := rfl
@[simp] theorem setCtx_records (k : Nat) (x : Ctx) : (s.setCtx k x).records = s.records := rfl
@[simp] theorem setCtx_strms (k : Nat) (x : Ctx) : (s.setCtx k x).strms = s.strms := rfl
@[simp] theorem setCtx_firstRecord (k : Nat) (x : Ctx) : (s.setCtx k x).firstRecord = s.firstRecord := rfl
@[simp] theorem setCtx_streamMoves (k : Nat) (x : Ctx) : (s.setCtx k x).streamMoves = s.streamMoves := rfl
@[simp] theorem setCtx_committing (k : Nat) (x : Ctx) : (s.setCtx k x).committing = s.committing := rfl
@[simp] theorem setCtx_flrOpen (k : Nat) (x : Ctx) : (s.setCtx k x).flrOpen = s.flrOpen := rfl
@[simp] theorem setCtx_flrDue (k : Nat) (x : Ctx) : (s.setCtx k x).flrDue = s.flrDue := rfl
@[simp] theorem setCtx_groups (k : Nat) (x : Ctx) : (s.setCtx k x).groups = s.groups := rfl
@[simp] theorem setCtx_serial (k : Nat) (x : Ctx) : (s.setCtx k x).serial = s.serial := rfl
@[simp] theorem setCtx_slips (k : Nat) (x : Ctx) : (s.setCtx k x).slips = s.slips := rfl
@[simp] theorem setCtx_scanFull (k : Nat) (x : Ctx) : (s.setCtx k x).scanFull = s.scanFull := rfl
@[simp] theorem setCtx_folds (k : Nat) (x : Ctx) : (s.setCtx k x).folds = s.folds := rfl
@[simp] theorem setCtx_net (k : Nat) (x : Ctx) : (s.setCtx k x).net = s.net := rfl
@[simp] theorem setCtx_chans (k : Nat) (x : Ctx) : (s.setCtx k x).chans = s.chans := rfl
@[simp] theorem setCtx_drovers (k : Nat) (x : Ctx) : (s.setCtx k x).drovers = s.drovers := rfl
@[simp] theorem setCtx_shep (k : Nat) (x : Ctx) : (s.setCtx k x).shep = s.shep := rfl
@[simp] theorem setCtx_power (k : Nat) (x : Ctx) : (s.setCtx k x).power = s.power := rfl
@[simp] theorem setCtx_freeCounter (k : Nat) (x : Ctx) : (s.setCtx k x).freeCounter = s.freeCounter := rfl

@[simp] theorem setFold_pending (f : Nat) (x : FoldRun) : (s.setFold f x).pending = s.pending := rfl
@[simp] theorem setFold_fab (f : Nat) (x : FoldRun) : (s.setFold f x).fab = s.fab := rfl
@[simp] theorem setFold_snaps (f : Nat) (x : FoldRun) : (s.setFold f x).snaps = s.snaps := rfl
@[simp] theorem setFold_tb (f : Nat) (x : FoldRun) : (s.setFold f x).tb = s.tb := rfl
@[simp] theorem setFold_bw (f : Nat) (x : FoldRun) : (s.setFold f x).bw = s.bw := rfl
@[simp] theorem setFold_struct (f : Nat) (x : FoldRun) : (s.setFold f x).struct = s.struct := rfl
@[simp] theorem setFold_part (f : Nat) (x : FoldRun) : (s.setFold f x).part = s.part := rfl
@[simp] theorem setFold_streams (f : Nat) (x : FoldRun) : (s.setFold f x).streams = s.streams := rfl
@[simp] theorem setFold_hostHeld (f : Nat) (x : FoldRun) : (s.setFold f x).hostHeld = s.hostHeld := rfl
@[simp] theorem setFold_lanes (f : Nat) (x : FoldRun) : (s.setFold f x).lanes = s.lanes := rfl
@[simp] theorem setFold_ports (f : Nat) (x : FoldRun) : (s.setFold f x).ports = s.ports := rfl
@[simp] theorem setFold_encs (f : Nat) (x : FoldRun) : (s.setFold f x).encs = s.encs := rfl
@[simp] theorem setFold_abs (f : Nat) (x : FoldRun) : (s.setFold f x).abs = s.abs := rfl
@[simp] theorem setFold_trigs (f : Nat) (x : FoldRun) : (s.setFold f x).trigs = s.trigs := rfl
@[simp] theorem setFold_inputs (f : Nat) (x : FoldRun) : (s.setFold f x).inputs = s.inputs := rfl
@[simp] theorem setFold_ais (f : Nat) (x : FoldRun) : (s.setFold f x).ais = s.ais := rfl
@[simp] theorem setFold_cals (f : Nat) (x : FoldRun) : (s.setFold f x).cals = s.cals := rfl
@[simp] theorem setFold_calFlash (f : Nat) (x : FoldRun) : (s.setFold f x).calFlash = s.calFlash := rfl
@[simp] theorem setFold_records (f : Nat) (x : FoldRun) : (s.setFold f x).records = s.records := rfl
@[simp] theorem setFold_strms (f : Nat) (x : FoldRun) : (s.setFold f x).strms = s.strms := rfl
@[simp] theorem setFold_firstRecord (f : Nat) (x : FoldRun) : (s.setFold f x).firstRecord = s.firstRecord := rfl
@[simp] theorem setFold_streamMoves (f : Nat) (x : FoldRun) : (s.setFold f x).streamMoves = s.streamMoves := rfl
@[simp] theorem setFold_committing (f : Nat) (x : FoldRun) : (s.setFold f x).committing = s.committing := rfl
@[simp] theorem setFold_flrOpen (f : Nat) (x : FoldRun) : (s.setFold f x).flrOpen = s.flrOpen := rfl
@[simp] theorem setFold_flrDue (f : Nat) (x : FoldRun) : (s.setFold f x).flrDue = s.flrDue := rfl
@[simp] theorem setFold_groups (f : Nat) (x : FoldRun) : (s.setFold f x).groups = s.groups := rfl
@[simp] theorem setFold_serial (f : Nat) (x : FoldRun) : (s.setFold f x).serial = s.serial := rfl
@[simp] theorem setFold_slips (f : Nat) (x : FoldRun) : (s.setFold f x).slips = s.slips := rfl
@[simp] theorem setFold_scanFull (f : Nat) (x : FoldRun) : (s.setFold f x).scanFull = s.scanFull := rfl
@[simp] theorem setFold_ctxs (f : Nat) (x : FoldRun) : (s.setFold f x).ctxs = s.ctxs := rfl
@[simp] theorem setFold_net (f : Nat) (x : FoldRun) : (s.setFold f x).net = s.net := rfl
@[simp] theorem setFold_chans (f : Nat) (x : FoldRun) : (s.setFold f x).chans = s.chans := rfl
@[simp] theorem setFold_drovers (f : Nat) (x : FoldRun) : (s.setFold f x).drovers = s.drovers := rfl
@[simp] theorem setFold_shep (f : Nat) (x : FoldRun) : (s.setFold f x).shep = s.shep := rfl
@[simp] theorem setFold_power (f : Nat) (x : FoldRun) : (s.setFold f x).power = s.power := rfl
@[simp] theorem setFold_freeCounter (f : Nat) (x : FoldRun) : (s.setFold f x).freeCounter = s.freeCounter := rfl

@[simp] theorem setTrig_pending (n : Nat) (x : Trig) : (s.setTrig n x).pending = s.pending := rfl
@[simp] theorem setTrig_fab (n : Nat) (x : Trig) : (s.setTrig n x).fab = s.fab := rfl
@[simp] theorem setTrig_snaps (n : Nat) (x : Trig) : (s.setTrig n x).snaps = s.snaps := rfl
@[simp] theorem setTrig_tb (n : Nat) (x : Trig) : (s.setTrig n x).tb = s.tb := rfl
@[simp] theorem setTrig_bw (n : Nat) (x : Trig) : (s.setTrig n x).bw = s.bw := rfl
@[simp] theorem setTrig_struct (n : Nat) (x : Trig) : (s.setTrig n x).struct = s.struct := rfl
@[simp] theorem setTrig_part (n : Nat) (x : Trig) : (s.setTrig n x).part = s.part := rfl
@[simp] theorem setTrig_streams (n : Nat) (x : Trig) : (s.setTrig n x).streams = s.streams := rfl
@[simp] theorem setTrig_hostHeld (n : Nat) (x : Trig) : (s.setTrig n x).hostHeld = s.hostHeld := rfl
@[simp] theorem setTrig_lanes (n : Nat) (x : Trig) : (s.setTrig n x).lanes = s.lanes := rfl
@[simp] theorem setTrig_ports (n : Nat) (x : Trig) : (s.setTrig n x).ports = s.ports := rfl
@[simp] theorem setTrig_encs (n : Nat) (x : Trig) : (s.setTrig n x).encs = s.encs := rfl
@[simp] theorem setTrig_abs (n : Nat) (x : Trig) : (s.setTrig n x).abs = s.abs := rfl
@[simp] theorem setTrig_inputs (n : Nat) (x : Trig) : (s.setTrig n x).inputs = s.inputs := rfl
@[simp] theorem setTrig_ais (n : Nat) (x : Trig) : (s.setTrig n x).ais = s.ais := rfl
@[simp] theorem setTrig_cals (n : Nat) (x : Trig) : (s.setTrig n x).cals = s.cals := rfl
@[simp] theorem setTrig_calFlash (n : Nat) (x : Trig) : (s.setTrig n x).calFlash = s.calFlash := rfl
@[simp] theorem setTrig_records (n : Nat) (x : Trig) : (s.setTrig n x).records = s.records := rfl
@[simp] theorem setTrig_strms (n : Nat) (x : Trig) : (s.setTrig n x).strms = s.strms := rfl
@[simp] theorem setTrig_firstRecord (n : Nat) (x : Trig) : (s.setTrig n x).firstRecord = s.firstRecord := rfl
@[simp] theorem setTrig_streamMoves (n : Nat) (x : Trig) : (s.setTrig n x).streamMoves = s.streamMoves := rfl
@[simp] theorem setTrig_committing (n : Nat) (x : Trig) : (s.setTrig n x).committing = s.committing := rfl
@[simp] theorem setTrig_flrOpen (n : Nat) (x : Trig) : (s.setTrig n x).flrOpen = s.flrOpen := rfl
@[simp] theorem setTrig_flrDue (n : Nat) (x : Trig) : (s.setTrig n x).flrDue = s.flrDue := rfl
@[simp] theorem setTrig_groups (n : Nat) (x : Trig) : (s.setTrig n x).groups = s.groups := rfl
@[simp] theorem setTrig_serial (n : Nat) (x : Trig) : (s.setTrig n x).serial = s.serial := rfl
@[simp] theorem setTrig_slips (n : Nat) (x : Trig) : (s.setTrig n x).slips = s.slips := rfl
@[simp] theorem setTrig_scanFull (n : Nat) (x : Trig) : (s.setTrig n x).scanFull = s.scanFull := rfl
@[simp] theorem setTrig_ctxs (n : Nat) (x : Trig) : (s.setTrig n x).ctxs = s.ctxs := rfl
@[simp] theorem setTrig_folds (n : Nat) (x : Trig) : (s.setTrig n x).folds = s.folds := rfl
@[simp] theorem setTrig_net (n : Nat) (x : Trig) : (s.setTrig n x).net = s.net := rfl
@[simp] theorem setTrig_chans (n : Nat) (x : Trig) : (s.setTrig n x).chans = s.chans := rfl
@[simp] theorem setTrig_drovers (n : Nat) (x : Trig) : (s.setTrig n x).drovers = s.drovers := rfl
@[simp] theorem setTrig_shep (n : Nat) (x : Trig) : (s.setTrig n x).shep = s.shep := rfl
@[simp] theorem setTrig_power (n : Nat) (x : Trig) : (s.setTrig n x).power = s.power := rfl
@[simp] theorem setTrig_freeCounter (n : Nat) (x : Trig) : (s.setTrig n x).freeCounter = s.freeCounter := rfl

@[simp] theorem setPath_pending (k : Nat) (x : Path) : (s.setPath k x).pending = s.pending := rfl
@[simp] theorem setPath_fab (k : Nat) (x : Path) : (s.setPath k x).fab = s.fab := rfl
@[simp] theorem setPath_snaps (k : Nat) (x : Path) : (s.setPath k x).snaps = s.snaps := rfl
@[simp] theorem setPath_tb (k : Nat) (x : Path) : (s.setPath k x).tb = s.tb := rfl
@[simp] theorem setPath_bw (k : Nat) (x : Path) : (s.setPath k x).bw = s.bw := rfl
@[simp] theorem setPath_struct (k : Nat) (x : Path) : (s.setPath k x).struct = s.struct := rfl
@[simp] theorem setPath_part (k : Nat) (x : Path) : (s.setPath k x).part = s.part := rfl
@[simp] theorem setPath_streams (k : Nat) (x : Path) : (s.setPath k x).streams = s.streams := rfl
@[simp] theorem setPath_hostHeld (k : Nat) (x : Path) : (s.setPath k x).hostHeld = s.hostHeld := rfl
@[simp] theorem setPath_lanes (k : Nat) (x : Path) : (s.setPath k x).lanes = s.lanes := rfl
@[simp] theorem setPath_ports (k : Nat) (x : Path) : (s.setPath k x).ports = s.ports := rfl
@[simp] theorem setPath_encs (k : Nat) (x : Path) : (s.setPath k x).encs = s.encs := rfl
@[simp] theorem setPath_abs (k : Nat) (x : Path) : (s.setPath k x).abs = s.abs := rfl
@[simp] theorem setPath_trigs (k : Nat) (x : Path) : (s.setPath k x).trigs = s.trigs := rfl
@[simp] theorem setPath_inputs (k : Nat) (x : Path) : (s.setPath k x).inputs = s.inputs := rfl
@[simp] theorem setPath_ais (k : Nat) (x : Path) : (s.setPath k x).ais = s.ais := rfl
@[simp] theorem setPath_cals (k : Nat) (x : Path) : (s.setPath k x).cals = s.cals := rfl
@[simp] theorem setPath_calFlash (k : Nat) (x : Path) : (s.setPath k x).calFlash = s.calFlash := rfl
@[simp] theorem setPath_records (k : Nat) (x : Path) : (s.setPath k x).records = s.records := rfl
@[simp] theorem setPath_strms (k : Nat) (x : Path) : (s.setPath k x).strms = s.strms := rfl
@[simp] theorem setPath_firstRecord (k : Nat) (x : Path) : (s.setPath k x).firstRecord = s.firstRecord := rfl
@[simp] theorem setPath_streamMoves (k : Nat) (x : Path) : (s.setPath k x).streamMoves = s.streamMoves := rfl
@[simp] theorem setPath_committing (k : Nat) (x : Path) : (s.setPath k x).committing = s.committing := rfl
@[simp] theorem setPath_flrOpen (k : Nat) (x : Path) : (s.setPath k x).flrOpen = s.flrOpen := rfl
@[simp] theorem setPath_flrDue (k : Nat) (x : Path) : (s.setPath k x).flrDue = s.flrDue := rfl
@[simp] theorem setPath_groups (k : Nat) (x : Path) : (s.setPath k x).groups = s.groups := rfl
@[simp] theorem setPath_serial (k : Nat) (x : Path) : (s.setPath k x).serial = s.serial := rfl
@[simp] theorem setPath_slips (k : Nat) (x : Path) : (s.setPath k x).slips = s.slips := rfl
@[simp] theorem setPath_scanFull (k : Nat) (x : Path) : (s.setPath k x).scanFull = s.scanFull := rfl
@[simp] theorem setPath_ctxs (k : Nat) (x : Path) : (s.setPath k x).ctxs = s.ctxs := rfl
@[simp] theorem setPath_folds (k : Nat) (x : Path) : (s.setPath k x).folds = s.folds := rfl
@[simp] theorem setPath_chans (k : Nat) (x : Path) : (s.setPath k x).chans = s.chans := rfl
@[simp] theorem setPath_drovers (k : Nat) (x : Path) : (s.setPath k x).drovers = s.drovers := rfl
@[simp] theorem setPath_shep (k : Nat) (x : Path) : (s.setPath k x).shep = s.shep := rfl
@[simp] theorem setPath_power (k : Nat) (x : Path) : (s.setPath k x).power = s.power := rfl
@[simp] theorem setPath_freeCounter (k : Nat) (x : Path) : (s.setPath k x).freeCounter = s.freeCounter := rfl

@[simp] theorem updNet_pending (g : Network → Network) : (s.updNet g).pending = s.pending := rfl
@[simp] theorem updNet_fab (g : Network → Network) : (s.updNet g).fab = s.fab := rfl
@[simp] theorem updNet_snaps (g : Network → Network) : (s.updNet g).snaps = s.snaps := rfl
@[simp] theorem updNet_tb (g : Network → Network) : (s.updNet g).tb = s.tb := rfl
@[simp] theorem updNet_bw (g : Network → Network) : (s.updNet g).bw = s.bw := rfl
@[simp] theorem updNet_struct (g : Network → Network) : (s.updNet g).struct = s.struct := rfl
@[simp] theorem updNet_part (g : Network → Network) : (s.updNet g).part = s.part := rfl
@[simp] theorem updNet_streams (g : Network → Network) : (s.updNet g).streams = s.streams := rfl
@[simp] theorem updNet_hostHeld (g : Network → Network) : (s.updNet g).hostHeld = s.hostHeld := rfl
@[simp] theorem updNet_lanes (g : Network → Network) : (s.updNet g).lanes = s.lanes := rfl
@[simp] theorem updNet_ports (g : Network → Network) : (s.updNet g).ports = s.ports := rfl
@[simp] theorem updNet_encs (g : Network → Network) : (s.updNet g).encs = s.encs := rfl
@[simp] theorem updNet_abs (g : Network → Network) : (s.updNet g).abs = s.abs := rfl
@[simp] theorem updNet_trigs (g : Network → Network) : (s.updNet g).trigs = s.trigs := rfl
@[simp] theorem updNet_inputs (g : Network → Network) : (s.updNet g).inputs = s.inputs := rfl
@[simp] theorem updNet_ais (g : Network → Network) : (s.updNet g).ais = s.ais := rfl
@[simp] theorem updNet_cals (g : Network → Network) : (s.updNet g).cals = s.cals := rfl
@[simp] theorem updNet_calFlash (g : Network → Network) : (s.updNet g).calFlash = s.calFlash := rfl
@[simp] theorem updNet_records (g : Network → Network) : (s.updNet g).records = s.records := rfl
@[simp] theorem updNet_strms (g : Network → Network) : (s.updNet g).strms = s.strms := rfl
@[simp] theorem updNet_firstRecord (g : Network → Network) : (s.updNet g).firstRecord = s.firstRecord := rfl
@[simp] theorem updNet_streamMoves (g : Network → Network) : (s.updNet g).streamMoves = s.streamMoves := rfl
@[simp] theorem updNet_committing (g : Network → Network) : (s.updNet g).committing = s.committing := rfl
@[simp] theorem updNet_flrOpen (g : Network → Network) : (s.updNet g).flrOpen = s.flrOpen := rfl
@[simp] theorem updNet_flrDue (g : Network → Network) : (s.updNet g).flrDue = s.flrDue := rfl
@[simp] theorem updNet_groups (g : Network → Network) : (s.updNet g).groups = s.groups := rfl
@[simp] theorem updNet_serial (g : Network → Network) : (s.updNet g).serial = s.serial := rfl
@[simp] theorem updNet_slips (g : Network → Network) : (s.updNet g).slips = s.slips := rfl
@[simp] theorem updNet_scanFull (g : Network → Network) : (s.updNet g).scanFull = s.scanFull := rfl
@[simp] theorem updNet_ctxs (g : Network → Network) : (s.updNet g).ctxs = s.ctxs := rfl
@[simp] theorem updNet_folds (g : Network → Network) : (s.updNet g).folds = s.folds := rfl
@[simp] theorem updNet_chans (g : Network → Network) : (s.updNet g).chans = s.chans := rfl
@[simp] theorem updNet_drovers (g : Network → Network) : (s.updNet g).drovers = s.drovers := rfl
@[simp] theorem updNet_shep (g : Network → Network) : (s.updNet g).shep = s.shep := rfl
@[simp] theorem updNet_power (g : Network → Network) : (s.updNet g).power = s.power := rfl
@[simp] theorem updNet_freeCounter (g : Network → Network) : (s.updNet g).freeCounter = s.freeCounter := rfl

@[simp] theorem setChan_pending (c : Nat) (x : Chan) : (s.setChan c x).pending = s.pending := rfl
@[simp] theorem setChan_fab (c : Nat) (x : Chan) : (s.setChan c x).fab = s.fab := rfl
@[simp] theorem setChan_snaps (c : Nat) (x : Chan) : (s.setChan c x).snaps = s.snaps := rfl
@[simp] theorem setChan_tb (c : Nat) (x : Chan) : (s.setChan c x).tb = s.tb := rfl
@[simp] theorem setChan_bw (c : Nat) (x : Chan) : (s.setChan c x).bw = s.bw := rfl
@[simp] theorem setChan_struct (c : Nat) (x : Chan) : (s.setChan c x).struct = s.struct := rfl
@[simp] theorem setChan_part (c : Nat) (x : Chan) : (s.setChan c x).part = s.part := rfl
@[simp] theorem setChan_streams (c : Nat) (x : Chan) : (s.setChan c x).streams = s.streams := rfl
@[simp] theorem setChan_hostHeld (c : Nat) (x : Chan) : (s.setChan c x).hostHeld = s.hostHeld := rfl
@[simp] theorem setChan_lanes (c : Nat) (x : Chan) : (s.setChan c x).lanes = s.lanes := rfl
@[simp] theorem setChan_ports (c : Nat) (x : Chan) : (s.setChan c x).ports = s.ports := rfl
@[simp] theorem setChan_encs (c : Nat) (x : Chan) : (s.setChan c x).encs = s.encs := rfl
@[simp] theorem setChan_abs (c : Nat) (x : Chan) : (s.setChan c x).abs = s.abs := rfl
@[simp] theorem setChan_trigs (c : Nat) (x : Chan) : (s.setChan c x).trigs = s.trigs := rfl
@[simp] theorem setChan_inputs (c : Nat) (x : Chan) : (s.setChan c x).inputs = s.inputs := rfl
@[simp] theorem setChan_ais (c : Nat) (x : Chan) : (s.setChan c x).ais = s.ais := rfl
@[simp] theorem setChan_cals (c : Nat) (x : Chan) : (s.setChan c x).cals = s.cals := rfl
@[simp] theorem setChan_calFlash (c : Nat) (x : Chan) : (s.setChan c x).calFlash = s.calFlash := rfl
@[simp] theorem setChan_records (c : Nat) (x : Chan) : (s.setChan c x).records = s.records := rfl
@[simp] theorem setChan_strms (c : Nat) (x : Chan) : (s.setChan c x).strms = s.strms := rfl
@[simp] theorem setChan_firstRecord (c : Nat) (x : Chan) : (s.setChan c x).firstRecord = s.firstRecord := rfl
@[simp] theorem setChan_streamMoves (c : Nat) (x : Chan) : (s.setChan c x).streamMoves = s.streamMoves := rfl
@[simp] theorem setChan_committing (c : Nat) (x : Chan) : (s.setChan c x).committing = s.committing := rfl
@[simp] theorem setChan_flrOpen (c : Nat) (x : Chan) : (s.setChan c x).flrOpen = s.flrOpen := rfl
@[simp] theorem setChan_flrDue (c : Nat) (x : Chan) : (s.setChan c x).flrDue = s.flrDue := rfl
@[simp] theorem setChan_groups (c : Nat) (x : Chan) : (s.setChan c x).groups = s.groups := rfl
@[simp] theorem setChan_serial (c : Nat) (x : Chan) : (s.setChan c x).serial = s.serial := rfl
@[simp] theorem setChan_slips (c : Nat) (x : Chan) : (s.setChan c x).slips = s.slips := rfl
@[simp] theorem setChan_scanFull (c : Nat) (x : Chan) : (s.setChan c x).scanFull = s.scanFull := rfl
@[simp] theorem setChan_ctxs (c : Nat) (x : Chan) : (s.setChan c x).ctxs = s.ctxs := rfl
@[simp] theorem setChan_folds (c : Nat) (x : Chan) : (s.setChan c x).folds = s.folds := rfl
@[simp] theorem setChan_net (c : Nat) (x : Chan) : (s.setChan c x).net = s.net := rfl
@[simp] theorem setChan_drovers (c : Nat) (x : Chan) : (s.setChan c x).drovers = s.drovers := rfl
@[simp] theorem setChan_shep (c : Nat) (x : Chan) : (s.setChan c x).shep = s.shep := rfl
@[simp] theorem setChan_power (c : Nat) (x : Chan) : (s.setChan c x).power = s.power := rfl
@[simp] theorem setChan_freeCounter (c : Nat) (x : Chan) : (s.setChan c x).freeCounter = s.freeCounter := rfl

@[simp] theorem setDrover_pending (d : Nat) (x : Drover) : (s.setDrover d x).pending = s.pending := rfl
@[simp] theorem setDrover_fab (d : Nat) (x : Drover) : (s.setDrover d x).fab = s.fab := rfl
@[simp] theorem setDrover_snaps (d : Nat) (x : Drover) : (s.setDrover d x).snaps = s.snaps := rfl
@[simp] theorem setDrover_tb (d : Nat) (x : Drover) : (s.setDrover d x).tb = s.tb := rfl
@[simp] theorem setDrover_bw (d : Nat) (x : Drover) : (s.setDrover d x).bw = s.bw := rfl
@[simp] theorem setDrover_struct (d : Nat) (x : Drover) : (s.setDrover d x).struct = s.struct := rfl
@[simp] theorem setDrover_part (d : Nat) (x : Drover) : (s.setDrover d x).part = s.part := rfl
@[simp] theorem setDrover_streams (d : Nat) (x : Drover) : (s.setDrover d x).streams = s.streams := rfl
@[simp] theorem setDrover_hostHeld (d : Nat) (x : Drover) : (s.setDrover d x).hostHeld = s.hostHeld := rfl
@[simp] theorem setDrover_lanes (d : Nat) (x : Drover) : (s.setDrover d x).lanes = s.lanes := rfl
@[simp] theorem setDrover_ports (d : Nat) (x : Drover) : (s.setDrover d x).ports = s.ports := rfl
@[simp] theorem setDrover_encs (d : Nat) (x : Drover) : (s.setDrover d x).encs = s.encs := rfl
@[simp] theorem setDrover_abs (d : Nat) (x : Drover) : (s.setDrover d x).abs = s.abs := rfl
@[simp] theorem setDrover_trigs (d : Nat) (x : Drover) : (s.setDrover d x).trigs = s.trigs := rfl
@[simp] theorem setDrover_inputs (d : Nat) (x : Drover) : (s.setDrover d x).inputs = s.inputs := rfl
@[simp] theorem setDrover_ais (d : Nat) (x : Drover) : (s.setDrover d x).ais = s.ais := rfl
@[simp] theorem setDrover_cals (d : Nat) (x : Drover) : (s.setDrover d x).cals = s.cals := rfl
@[simp] theorem setDrover_calFlash (d : Nat) (x : Drover) : (s.setDrover d x).calFlash = s.calFlash := rfl
@[simp] theorem setDrover_records (d : Nat) (x : Drover) : (s.setDrover d x).records = s.records := rfl
@[simp] theorem setDrover_strms (d : Nat) (x : Drover) : (s.setDrover d x).strms = s.strms := rfl
@[simp] theorem setDrover_firstRecord (d : Nat) (x : Drover) : (s.setDrover d x).firstRecord = s.firstRecord := rfl
@[simp] theorem setDrover_streamMoves (d : Nat) (x : Drover) : (s.setDrover d x).streamMoves = s.streamMoves := rfl
@[simp] theorem setDrover_committing (d : Nat) (x : Drover) : (s.setDrover d x).committing = s.committing := rfl
@[simp] theorem setDrover_flrOpen (d : Nat) (x : Drover) : (s.setDrover d x).flrOpen = s.flrOpen := rfl
@[simp] theorem setDrover_flrDue (d : Nat) (x : Drover) : (s.setDrover d x).flrDue = s.flrDue := rfl
@[simp] theorem setDrover_groups (d : Nat) (x : Drover) : (s.setDrover d x).groups = s.groups := rfl
@[simp] theorem setDrover_serial (d : Nat) (x : Drover) : (s.setDrover d x).serial = s.serial := rfl
@[simp] theorem setDrover_slips (d : Nat) (x : Drover) : (s.setDrover d x).slips = s.slips := rfl
@[simp] theorem setDrover_scanFull (d : Nat) (x : Drover) : (s.setDrover d x).scanFull = s.scanFull := rfl
@[simp] theorem setDrover_ctxs (d : Nat) (x : Drover) : (s.setDrover d x).ctxs = s.ctxs := rfl
@[simp] theorem setDrover_folds (d : Nat) (x : Drover) : (s.setDrover d x).folds = s.folds := rfl
@[simp] theorem setDrover_net (d : Nat) (x : Drover) : (s.setDrover d x).net = s.net := rfl
@[simp] theorem setDrover_chans (d : Nat) (x : Drover) : (s.setDrover d x).chans = s.chans := rfl
@[simp] theorem setDrover_shep (d : Nat) (x : Drover) : (s.setDrover d x).shep = s.shep := rfl
@[simp] theorem setDrover_power (d : Nat) (x : Drover) : (s.setDrover d x).power = s.power := rfl
@[simp] theorem setDrover_freeCounter (d : Nat) (x : Drover) : (s.setDrover d x).freeCounter = s.freeCounter := rfl

@[simp] theorem setCal_pending (b : Nat) (x : CalBlock) : (s.setCal b x).pending = s.pending := rfl
@[simp] theorem setCal_fab (b : Nat) (x : CalBlock) : (s.setCal b x).fab = s.fab := rfl
@[simp] theorem setCal_snaps (b : Nat) (x : CalBlock) : (s.setCal b x).snaps = s.snaps := rfl
@[simp] theorem setCal_tb (b : Nat) (x : CalBlock) : (s.setCal b x).tb = s.tb := rfl
@[simp] theorem setCal_bw (b : Nat) (x : CalBlock) : (s.setCal b x).bw = s.bw := rfl
@[simp] theorem setCal_struct (b : Nat) (x : CalBlock) : (s.setCal b x).struct = s.struct := rfl
@[simp] theorem setCal_part (b : Nat) (x : CalBlock) : (s.setCal b x).part = s.part := rfl
@[simp] theorem setCal_streams (b : Nat) (x : CalBlock) : (s.setCal b x).streams = s.streams := rfl
@[simp] theorem setCal_hostHeld (b : Nat) (x : CalBlock) : (s.setCal b x).hostHeld = s.hostHeld := rfl
@[simp] theorem setCal_lanes (b : Nat) (x : CalBlock) : (s.setCal b x).lanes = s.lanes := rfl
@[simp] theorem setCal_ports (b : Nat) (x : CalBlock) : (s.setCal b x).ports = s.ports := rfl
@[simp] theorem setCal_encs (b : Nat) (x : CalBlock) : (s.setCal b x).encs = s.encs := rfl
@[simp] theorem setCal_abs (b : Nat) (x : CalBlock) : (s.setCal b x).abs = s.abs := rfl
@[simp] theorem setCal_trigs (b : Nat) (x : CalBlock) : (s.setCal b x).trigs = s.trigs := rfl
@[simp] theorem setCal_inputs (b : Nat) (x : CalBlock) : (s.setCal b x).inputs = s.inputs := rfl
@[simp] theorem setCal_ais (b : Nat) (x : CalBlock) : (s.setCal b x).ais = s.ais := rfl
@[simp] theorem setCal_calFlash (b : Nat) (x : CalBlock) : (s.setCal b x).calFlash = s.calFlash := rfl
@[simp] theorem setCal_records (b : Nat) (x : CalBlock) : (s.setCal b x).records = s.records := rfl
@[simp] theorem setCal_strms (b : Nat) (x : CalBlock) : (s.setCal b x).strms = s.strms := rfl
@[simp] theorem setCal_firstRecord (b : Nat) (x : CalBlock) : (s.setCal b x).firstRecord = s.firstRecord := rfl
@[simp] theorem setCal_streamMoves (b : Nat) (x : CalBlock) : (s.setCal b x).streamMoves = s.streamMoves := rfl
@[simp] theorem setCal_committing (b : Nat) (x : CalBlock) : (s.setCal b x).committing = s.committing := rfl
@[simp] theorem setCal_flrOpen (b : Nat) (x : CalBlock) : (s.setCal b x).flrOpen = s.flrOpen := rfl
@[simp] theorem setCal_flrDue (b : Nat) (x : CalBlock) : (s.setCal b x).flrDue = s.flrDue := rfl
@[simp] theorem setCal_groups (b : Nat) (x : CalBlock) : (s.setCal b x).groups = s.groups := rfl
@[simp] theorem setCal_serial (b : Nat) (x : CalBlock) : (s.setCal b x).serial = s.serial := rfl
@[simp] theorem setCal_slips (b : Nat) (x : CalBlock) : (s.setCal b x).slips = s.slips := rfl
@[simp] theorem setCal_scanFull (b : Nat) (x : CalBlock) : (s.setCal b x).scanFull = s.scanFull := rfl
@[simp] theorem setCal_ctxs (b : Nat) (x : CalBlock) : (s.setCal b x).ctxs = s.ctxs := rfl
@[simp] theorem setCal_folds (b : Nat) (x : CalBlock) : (s.setCal b x).folds = s.folds := rfl
@[simp] theorem setCal_net (b : Nat) (x : CalBlock) : (s.setCal b x).net = s.net := rfl
@[simp] theorem setCal_chans (b : Nat) (x : CalBlock) : (s.setCal b x).chans = s.chans := rfl
@[simp] theorem setCal_drovers (b : Nat) (x : CalBlock) : (s.setCal b x).drovers = s.drovers := rfl
@[simp] theorem setCal_shep (b : Nat) (x : CalBlock) : (s.setCal b x).shep = s.shep := rfl
@[simp] theorem setCal_power (b : Nat) (x : CalBlock) : (s.setCal b x).power = s.power := rfl
@[simp] theorem setCal_freeCounter (b : Nat) (x : CalBlock) : (s.setCal b x).freeCounter = s.freeCounter := rfl

@[simp] theorem updShep_pending (g : Shepherd → Shepherd) : (s.updShep g).pending = s.pending := rfl
@[simp] theorem updShep_fab (g : Shepherd → Shepherd) : (s.updShep g).fab = s.fab := rfl
@[simp] theorem updShep_snaps (g : Shepherd → Shepherd) : (s.updShep g).snaps = s.snaps := rfl
@[simp] theorem updShep_tb (g : Shepherd → Shepherd) : (s.updShep g).tb = s.tb := rfl
@[simp] theorem updShep_bw (g : Shepherd → Shepherd) : (s.updShep g).bw = s.bw := rfl
@[simp] theorem updShep_struct (g : Shepherd → Shepherd) : (s.updShep g).struct = s.struct := rfl
@[simp] theorem updShep_part (g : Shepherd → Shepherd) : (s.updShep g).part = s.part := rfl
@[simp] theorem updShep_streams (g : Shepherd → Shepherd) : (s.updShep g).streams = s.streams := rfl
@[simp] theorem updShep_hostHeld (g : Shepherd → Shepherd) : (s.updShep g).hostHeld = s.hostHeld := rfl
@[simp] theorem updShep_lanes (g : Shepherd → Shepherd) : (s.updShep g).lanes = s.lanes := rfl
@[simp] theorem updShep_ports (g : Shepherd → Shepherd) : (s.updShep g).ports = s.ports := rfl
@[simp] theorem updShep_encs (g : Shepherd → Shepherd) : (s.updShep g).encs = s.encs := rfl
@[simp] theorem updShep_abs (g : Shepherd → Shepherd) : (s.updShep g).abs = s.abs := rfl
@[simp] theorem updShep_trigs (g : Shepherd → Shepherd) : (s.updShep g).trigs = s.trigs := rfl
@[simp] theorem updShep_inputs (g : Shepherd → Shepherd) : (s.updShep g).inputs = s.inputs := rfl
@[simp] theorem updShep_ais (g : Shepherd → Shepherd) : (s.updShep g).ais = s.ais := rfl
@[simp] theorem updShep_cals (g : Shepherd → Shepherd) : (s.updShep g).cals = s.cals := rfl
@[simp] theorem updShep_calFlash (g : Shepherd → Shepherd) : (s.updShep g).calFlash = s.calFlash := rfl
@[simp] theorem updShep_records (g : Shepherd → Shepherd) : (s.updShep g).records = s.records := rfl
@[simp] theorem updShep_strms (g : Shepherd → Shepherd) : (s.updShep g).strms = s.strms := rfl
@[simp] theorem updShep_firstRecord (g : Shepherd → Shepherd) : (s.updShep g).firstRecord = s.firstRecord := rfl
@[simp] theorem updShep_streamMoves (g : Shepherd → Shepherd) : (s.updShep g).streamMoves = s.streamMoves := rfl
@[simp] theorem updShep_committing (g : Shepherd → Shepherd) : (s.updShep g).committing = s.committing := rfl
@[simp] theorem updShep_flrOpen (g : Shepherd → Shepherd) : (s.updShep g).flrOpen = s.flrOpen := rfl
@[simp] theorem updShep_flrDue (g : Shepherd → Shepherd) : (s.updShep g).flrDue = s.flrDue := rfl
@[simp] theorem updShep_groups (g : Shepherd → Shepherd) : (s.updShep g).groups = s.groups := rfl
@[simp] theorem updShep_serial (g : Shepherd → Shepherd) : (s.updShep g).serial = s.serial := rfl
@[simp] theorem updShep_slips (g : Shepherd → Shepherd) : (s.updShep g).slips = s.slips := rfl
@[simp] theorem updShep_scanFull (g : Shepherd → Shepherd) : (s.updShep g).scanFull = s.scanFull := rfl
@[simp] theorem updShep_ctxs (g : Shepherd → Shepherd) : (s.updShep g).ctxs = s.ctxs := rfl
@[simp] theorem updShep_folds (g : Shepherd → Shepherd) : (s.updShep g).folds = s.folds := rfl
@[simp] theorem updShep_net (g : Shepherd → Shepherd) : (s.updShep g).net = s.net := rfl
@[simp] theorem updShep_chans (g : Shepherd → Shepherd) : (s.updShep g).chans = s.chans := rfl
@[simp] theorem updShep_drovers (g : Shepherd → Shepherd) : (s.updShep g).drovers = s.drovers := rfl
@[simp] theorem updShep_power (g : Shepherd → Shepherd) : (s.updShep g).power = s.power := rfl
@[simp] theorem updShep_freeCounter (g : Shepherd → Shepherd) : (s.updShep g).freeCounter = s.freeCounter := rfl

@[simp] theorem updStruct_pending (g : Structure → Structure) : (s.updStruct g).pending = s.pending := rfl
@[simp] theorem updStruct_fab (g : Structure → Structure) : (s.updStruct g).fab = s.fab := rfl
@[simp] theorem updStruct_snaps (g : Structure → Structure) : (s.updStruct g).snaps = s.snaps := rfl
@[simp] theorem updStruct_tb (g : Structure → Structure) : (s.updStruct g).tb = s.tb := rfl
@[simp] theorem updStruct_bw (g : Structure → Structure) : (s.updStruct g).bw = s.bw := rfl
@[simp] theorem updStruct_part (g : Structure → Structure) : (s.updStruct g).part = s.part := rfl
@[simp] theorem updStruct_streams (g : Structure → Structure) : (s.updStruct g).streams = s.streams := rfl
@[simp] theorem updStruct_hostHeld (g : Structure → Structure) : (s.updStruct g).hostHeld = s.hostHeld := rfl
@[simp] theorem updStruct_lanes (g : Structure → Structure) : (s.updStruct g).lanes = s.lanes := rfl
@[simp] theorem updStruct_ports (g : Structure → Structure) : (s.updStruct g).ports = s.ports := rfl
@[simp] theorem updStruct_encs (g : Structure → Structure) : (s.updStruct g).encs = s.encs := rfl
@[simp] theorem updStruct_abs (g : Structure → Structure) : (s.updStruct g).abs = s.abs := rfl
@[simp] theorem updStruct_trigs (g : Structure → Structure) : (s.updStruct g).trigs = s.trigs := rfl
@[simp] theorem updStruct_inputs (g : Structure → Structure) : (s.updStruct g).inputs = s.inputs := rfl
@[simp] theorem updStruct_ais (g : Structure → Structure) : (s.updStruct g).ais = s.ais := rfl
@[simp] theorem updStruct_cals (g : Structure → Structure) : (s.updStruct g).cals = s.cals := rfl
@[simp] theorem updStruct_calFlash (g : Structure → Structure) : (s.updStruct g).calFlash = s.calFlash := rfl
@[simp] theorem updStruct_records (g : Structure → Structure) : (s.updStruct g).records = s.records := rfl
@[simp] theorem updStruct_strms (g : Structure → Structure) : (s.updStruct g).strms = s.strms := rfl
@[simp] theorem updStruct_firstRecord (g : Structure → Structure) : (s.updStruct g).firstRecord = s.firstRecord := rfl
@[simp] theorem updStruct_streamMoves (g : Structure → Structure) : (s.updStruct g).streamMoves = s.streamMoves := rfl
@[simp] theorem updStruct_committing (g : Structure → Structure) : (s.updStruct g).committing = s.committing := rfl
@[simp] theorem updStruct_flrOpen (g : Structure → Structure) : (s.updStruct g).flrOpen = s.flrOpen := rfl
@[simp] theorem updStruct_flrDue (g : Structure → Structure) : (s.updStruct g).flrDue = s.flrDue := rfl
@[simp] theorem updStruct_groups (g : Structure → Structure) : (s.updStruct g).groups = s.groups := rfl
@[simp] theorem updStruct_serial (g : Structure → Structure) : (s.updStruct g).serial = s.serial := rfl
@[simp] theorem updStruct_slips (g : Structure → Structure) : (s.updStruct g).slips = s.slips := rfl
@[simp] theorem updStruct_scanFull (g : Structure → Structure) : (s.updStruct g).scanFull = s.scanFull := rfl
@[simp] theorem updStruct_ctxs (g : Structure → Structure) : (s.updStruct g).ctxs = s.ctxs := rfl
@[simp] theorem updStruct_folds (g : Structure → Structure) : (s.updStruct g).folds = s.folds := rfl
@[simp] theorem updStruct_net (g : Structure → Structure) : (s.updStruct g).net = s.net := rfl
@[simp] theorem updStruct_chans (g : Structure → Structure) : (s.updStruct g).chans = s.chans := rfl
@[simp] theorem updStruct_drovers (g : Structure → Structure) : (s.updStruct g).drovers = s.drovers := rfl
@[simp] theorem updStruct_shep (g : Structure → Structure) : (s.updStruct g).shep = s.shep := rfl
@[simp] theorem updStruct_power (g : Structure → Structure) : (s.updStruct g).power = s.power := rfl
@[simp] theorem updStruct_freeCounter (g : Structure → Structure) : (s.updStruct g).freeCounter = s.freeCounter := rfl

@[simp] theorem inFab_pending (g : Fabric → Fabric) : (s.inFab g).pending = s.pending := rfl
@[simp] theorem inFab_snaps (g : Fabric → Fabric) : (s.inFab g).snaps = s.snaps := rfl
@[simp] theorem inFab_tb (g : Fabric → Fabric) : (s.inFab g).tb = s.tb := rfl
@[simp] theorem inFab_bw (g : Fabric → Fabric) : (s.inFab g).bw = s.bw := rfl
@[simp] theorem inFab_struct (g : Fabric → Fabric) : (s.inFab g).struct = s.struct := rfl
@[simp] theorem inFab_part (g : Fabric → Fabric) : (s.inFab g).part = s.part := rfl
@[simp] theorem inFab_streams (g : Fabric → Fabric) : (s.inFab g).streams = s.streams := rfl
@[simp] theorem inFab_hostHeld (g : Fabric → Fabric) : (s.inFab g).hostHeld = s.hostHeld := rfl
@[simp] theorem inFab_lanes (g : Fabric → Fabric) : (s.inFab g).lanes = s.lanes := rfl
@[simp] theorem inFab_ports (g : Fabric → Fabric) : (s.inFab g).ports = s.ports := rfl
@[simp] theorem inFab_encs (g : Fabric → Fabric) : (s.inFab g).encs = s.encs := rfl
@[simp] theorem inFab_abs (g : Fabric → Fabric) : (s.inFab g).abs = s.abs := rfl
@[simp] theorem inFab_trigs (g : Fabric → Fabric) : (s.inFab g).trigs = s.trigs := rfl
@[simp] theorem inFab_inputs (g : Fabric → Fabric) : (s.inFab g).inputs = s.inputs := rfl
@[simp] theorem inFab_ais (g : Fabric → Fabric) : (s.inFab g).ais = s.ais := rfl
@[simp] theorem inFab_cals (g : Fabric → Fabric) : (s.inFab g).cals = s.cals := rfl
@[simp] theorem inFab_calFlash (g : Fabric → Fabric) : (s.inFab g).calFlash = s.calFlash := rfl
@[simp] theorem inFab_records (g : Fabric → Fabric) : (s.inFab g).records = s.records := rfl
@[simp] theorem inFab_strms (g : Fabric → Fabric) : (s.inFab g).strms = s.strms := rfl
@[simp] theorem inFab_firstRecord (g : Fabric → Fabric) : (s.inFab g).firstRecord = s.firstRecord := rfl
@[simp] theorem inFab_streamMoves (g : Fabric → Fabric) : (s.inFab g).streamMoves = s.streamMoves := rfl
@[simp] theorem inFab_committing (g : Fabric → Fabric) : (s.inFab g).committing = s.committing := rfl
@[simp] theorem inFab_flrOpen (g : Fabric → Fabric) : (s.inFab g).flrOpen = s.flrOpen := rfl
@[simp] theorem inFab_flrDue (g : Fabric → Fabric) : (s.inFab g).flrDue = s.flrDue := rfl
@[simp] theorem inFab_groups (g : Fabric → Fabric) : (s.inFab g).groups = s.groups := rfl
@[simp] theorem inFab_serial (g : Fabric → Fabric) : (s.inFab g).serial = s.serial := rfl
@[simp] theorem inFab_slips (g : Fabric → Fabric) : (s.inFab g).slips = s.slips := rfl
@[simp] theorem inFab_scanFull (g : Fabric → Fabric) : (s.inFab g).scanFull = s.scanFull := rfl
@[simp] theorem inFab_ctxs (g : Fabric → Fabric) : (s.inFab g).ctxs = s.ctxs := rfl
@[simp] theorem inFab_folds (g : Fabric → Fabric) : (s.inFab g).folds = s.folds := rfl
@[simp] theorem inFab_net (g : Fabric → Fabric) : (s.inFab g).net = s.net := rfl
@[simp] theorem inFab_chans (g : Fabric → Fabric) : (s.inFab g).chans = s.chans := rfl
@[simp] theorem inFab_drovers (g : Fabric → Fabric) : (s.inFab g).drovers = s.drovers := rfl
@[simp] theorem inFab_shep (g : Fabric → Fabric) : (s.inFab g).shep = s.shep := rfl
@[simp] theorem inFab_power (g : Fabric → Fabric) : (s.inFab g).power = s.power := rfl
@[simp] theorem inFab_freeCounter (g : Fabric → Fabric) : (s.inFab g).freeCounter = s.freeCounter := rfl

@[simp] theorem ww_pending (key : Nat) (w : Word) : (s.ww key w).pending = s.pending := rfl
@[simp] theorem ww_snaps (key : Nat) (w : Word) : (s.ww key w).snaps = s.snaps := rfl
@[simp] theorem ww_tb (key : Nat) (w : Word) : (s.ww key w).tb = s.tb := rfl
@[simp] theorem ww_bw (key : Nat) (w : Word) : (s.ww key w).bw = s.bw := rfl
@[simp] theorem ww_struct (key : Nat) (w : Word) : (s.ww key w).struct = s.struct := rfl
@[simp] theorem ww_part (key : Nat) (w : Word) : (s.ww key w).part = s.part := rfl
@[simp] theorem ww_streams (key : Nat) (w : Word) : (s.ww key w).streams = s.streams := rfl
@[simp] theorem ww_hostHeld (key : Nat) (w : Word) : (s.ww key w).hostHeld = s.hostHeld := rfl
@[simp] theorem ww_lanes (key : Nat) (w : Word) : (s.ww key w).lanes = s.lanes := rfl
@[simp] theorem ww_ports (key : Nat) (w : Word) : (s.ww key w).ports = s.ports := rfl
@[simp] theorem ww_encs (key : Nat) (w : Word) : (s.ww key w).encs = s.encs := rfl
@[simp] theorem ww_abs (key : Nat) (w : Word) : (s.ww key w).abs = s.abs := rfl
@[simp] theorem ww_trigs (key : Nat) (w : Word) : (s.ww key w).trigs = s.trigs := rfl
@[simp] theorem ww_inputs (key : Nat) (w : Word) : (s.ww key w).inputs = s.inputs := rfl
@[simp] theorem ww_ais (key : Nat) (w : Word) : (s.ww key w).ais = s.ais := rfl
@[simp] theorem ww_cals (key : Nat) (w : Word) : (s.ww key w).cals = s.cals := rfl
@[simp] theorem ww_calFlash (key : Nat) (w : Word) : (s.ww key w).calFlash = s.calFlash := rfl
@[simp] theorem ww_records (key : Nat) (w : Word) : (s.ww key w).records = s.records := rfl
@[simp] theorem ww_strms (key : Nat) (w : Word) : (s.ww key w).strms = s.strms := rfl
@[simp] theorem ww_firstRecord (key : Nat) (w : Word) : (s.ww key w).firstRecord = s.firstRecord := rfl
@[simp] theorem ww_streamMoves (key : Nat) (w : Word) : (s.ww key w).streamMoves = s.streamMoves := rfl
@[simp] theorem ww_committing (key : Nat) (w : Word) : (s.ww key w).committing = s.committing := rfl
@[simp] theorem ww_flrOpen (key : Nat) (w : Word) : (s.ww key w).flrOpen = s.flrOpen := rfl
@[simp] theorem ww_flrDue (key : Nat) (w : Word) : (s.ww key w).flrDue = s.flrDue := rfl
@[simp] theorem ww_groups (key : Nat) (w : Word) : (s.ww key w).groups = s.groups := rfl
@[simp] theorem ww_serial (key : Nat) (w : Word) : (s.ww key w).serial = s.serial := rfl
@[simp] theorem ww_slips (key : Nat) (w : Word) : (s.ww key w).slips = s.slips := rfl
@[simp] theorem ww_scanFull (key : Nat) (w : Word) : (s.ww key w).scanFull = s.scanFull := rfl
@[simp] theorem ww_ctxs (key : Nat) (w : Word) : (s.ww key w).ctxs = s.ctxs := rfl
@[simp] theorem ww_folds (key : Nat) (w : Word) : (s.ww key w).folds = s.folds := rfl
@[simp] theorem ww_net (key : Nat) (w : Word) : (s.ww key w).net = s.net := rfl
@[simp] theorem ww_chans (key : Nat) (w : Word) : (s.ww key w).chans = s.chans := rfl
@[simp] theorem ww_drovers (key : Nat) (w : Word) : (s.ww key w).drovers = s.drovers := rfl
@[simp] theorem ww_shep (key : Nat) (w : Word) : (s.ww key w).shep = s.shep := rfl
@[simp] theorem ww_power (key : Nat) (w : Word) : (s.ww key w).power = s.power := rfl
@[simp] theorem ww_freeCounter (key : Nat) (w : Word) : (s.ww key w).freeCounter = s.freeCounter := rfl

@[simp] theorem wr_pending (f : FRef) (v : Nat) : (s.wr f v).pending = s.pending := rfl
@[simp] theorem wr_snaps (f : FRef) (v : Nat) : (s.wr f v).snaps = s.snaps := rfl
@[simp] theorem wr_tb (f : FRef) (v : Nat) : (s.wr f v).tb = s.tb := rfl
@[simp] theorem wr_bw (f : FRef) (v : Nat) : (s.wr f v).bw = s.bw := rfl
@[simp] theorem wr_struct (f : FRef) (v : Nat) : (s.wr f v).struct = s.struct := rfl
@[simp] theorem wr_part (f : FRef) (v : Nat) : (s.wr f v).part = s.part := rfl
@[simp] theorem wr_streams (f : FRef) (v : Nat) : (s.wr f v).streams = s.streams := rfl
@[simp] theorem wr_hostHeld (f : FRef) (v : Nat) : (s.wr f v).hostHeld = s.hostHeld := rfl
@[simp] theorem wr_lanes (f : FRef) (v : Nat) : (s.wr f v).lanes = s.lanes := rfl
@[simp] theorem wr_ports (f : FRef) (v : Nat) : (s.wr f v).ports = s.ports := rfl
@[simp] theorem wr_encs (f : FRef) (v : Nat) : (s.wr f v).encs = s.encs := rfl
@[simp] theorem wr_abs (f : FRef) (v : Nat) : (s.wr f v).abs = s.abs := rfl
@[simp] theorem wr_trigs (f : FRef) (v : Nat) : (s.wr f v).trigs = s.trigs := rfl
@[simp] theorem wr_inputs (f : FRef) (v : Nat) : (s.wr f v).inputs = s.inputs := rfl
@[simp] theorem wr_ais (f : FRef) (v : Nat) : (s.wr f v).ais = s.ais := rfl
@[simp] theorem wr_cals (f : FRef) (v : Nat) : (s.wr f v).cals = s.cals := rfl
@[simp] theorem wr_calFlash (f : FRef) (v : Nat) : (s.wr f v).calFlash = s.calFlash := rfl
@[simp] theorem wr_records (f : FRef) (v : Nat) : (s.wr f v).records = s.records := rfl
@[simp] theorem wr_strms (f : FRef) (v : Nat) : (s.wr f v).strms = s.strms := rfl
@[simp] theorem wr_firstRecord (f : FRef) (v : Nat) : (s.wr f v).firstRecord = s.firstRecord := rfl
@[simp] theorem wr_streamMoves (f : FRef) (v : Nat) : (s.wr f v).streamMoves = s.streamMoves := rfl
@[simp] theorem wr_committing (f : FRef) (v : Nat) : (s.wr f v).committing = s.committing := rfl
@[simp] theorem wr_flrOpen (f : FRef) (v : Nat) : (s.wr f v).flrOpen = s.flrOpen := rfl
@[simp] theorem wr_flrDue (f : FRef) (v : Nat) : (s.wr f v).flrDue = s.flrDue := rfl
@[simp] theorem wr_groups (f : FRef) (v : Nat) : (s.wr f v).groups = s.groups := rfl
@[simp] theorem wr_serial (f : FRef) (v : Nat) : (s.wr f v).serial = s.serial := rfl
@[simp] theorem wr_slips (f : FRef) (v : Nat) : (s.wr f v).slips = s.slips := rfl
@[simp] theorem wr_scanFull (f : FRef) (v : Nat) : (s.wr f v).scanFull = s.scanFull := rfl
@[simp] theorem wr_ctxs (f : FRef) (v : Nat) : (s.wr f v).ctxs = s.ctxs := rfl
@[simp] theorem wr_folds (f : FRef) (v : Nat) : (s.wr f v).folds = s.folds := rfl
@[simp] theorem wr_net (f : FRef) (v : Nat) : (s.wr f v).net = s.net := rfl
@[simp] theorem wr_chans (f : FRef) (v : Nat) : (s.wr f v).chans = s.chans := rfl
@[simp] theorem wr_drovers (f : FRef) (v : Nat) : (s.wr f v).drovers = s.drovers := rfl
@[simp] theorem wr_shep (f : FRef) (v : Nat) : (s.wr f v).shep = s.shep := rfl
@[simp] theorem wr_power (f : FRef) (v : Nat) : (s.wr f v).power = s.power := rfl
@[simp] theorem wr_freeCounter (f : FRef) (v : Nat) : (s.wr f v).freeCounter = s.freeCounter := rfl

@[simp] theorem tally_pending (f : FRef) (n : Nat) : (s.tally f n).pending = s.pending := rfl
@[simp] theorem tally_snaps (f : FRef) (n : Nat) : (s.tally f n).snaps = s.snaps := rfl
@[simp] theorem tally_tb (f : FRef) (n : Nat) : (s.tally f n).tb = s.tb := rfl
@[simp] theorem tally_bw (f : FRef) (n : Nat) : (s.tally f n).bw = s.bw := rfl
@[simp] theorem tally_struct (f : FRef) (n : Nat) : (s.tally f n).struct = s.struct := rfl
@[simp] theorem tally_part (f : FRef) (n : Nat) : (s.tally f n).part = s.part := rfl
@[simp] theorem tally_streams (f : FRef) (n : Nat) : (s.tally f n).streams = s.streams := rfl
@[simp] theorem tally_hostHeld (f : FRef) (n : Nat) : (s.tally f n).hostHeld = s.hostHeld := rfl
@[simp] theorem tally_lanes (f : FRef) (n : Nat) : (s.tally f n).lanes = s.lanes := rfl
@[simp] theorem tally_ports (f : FRef) (n : Nat) : (s.tally f n).ports = s.ports := rfl
@[simp] theorem tally_encs (f : FRef) (n : Nat) : (s.tally f n).encs = s.encs := rfl
@[simp] theorem tally_abs (f : FRef) (n : Nat) : (s.tally f n).abs = s.abs := rfl
@[simp] theorem tally_trigs (f : FRef) (n : Nat) : (s.tally f n).trigs = s.trigs := rfl
@[simp] theorem tally_inputs (f : FRef) (n : Nat) : (s.tally f n).inputs = s.inputs := rfl
@[simp] theorem tally_ais (f : FRef) (n : Nat) : (s.tally f n).ais = s.ais := rfl
@[simp] theorem tally_cals (f : FRef) (n : Nat) : (s.tally f n).cals = s.cals := rfl
@[simp] theorem tally_calFlash (f : FRef) (n : Nat) : (s.tally f n).calFlash = s.calFlash := rfl
@[simp] theorem tally_records (f : FRef) (n : Nat) : (s.tally f n).records = s.records := rfl
@[simp] theorem tally_strms (f : FRef) (n : Nat) : (s.tally f n).strms = s.strms := rfl
@[simp] theorem tally_firstRecord (f : FRef) (n : Nat) : (s.tally f n).firstRecord = s.firstRecord := rfl
@[simp] theorem tally_streamMoves (f : FRef) (n : Nat) : (s.tally f n).streamMoves = s.streamMoves := rfl
@[simp] theorem tally_committing (f : FRef) (n : Nat) : (s.tally f n).committing = s.committing := rfl
@[simp] theorem tally_flrOpen (f : FRef) (n : Nat) : (s.tally f n).flrOpen = s.flrOpen := rfl
@[simp] theorem tally_flrDue (f : FRef) (n : Nat) : (s.tally f n).flrDue = s.flrDue := rfl
@[simp] theorem tally_groups (f : FRef) (n : Nat) : (s.tally f n).groups = s.groups := rfl
@[simp] theorem tally_serial (f : FRef) (n : Nat) : (s.tally f n).serial = s.serial := rfl
@[simp] theorem tally_slips (f : FRef) (n : Nat) : (s.tally f n).slips = s.slips := rfl
@[simp] theorem tally_scanFull (f : FRef) (n : Nat) : (s.tally f n).scanFull = s.scanFull := rfl
@[simp] theorem tally_ctxs (f : FRef) (n : Nat) : (s.tally f n).ctxs = s.ctxs := rfl
@[simp] theorem tally_folds (f : FRef) (n : Nat) : (s.tally f n).folds = s.folds := rfl
@[simp] theorem tally_net (f : FRef) (n : Nat) : (s.tally f n).net = s.net := rfl
@[simp] theorem tally_chans (f : FRef) (n : Nat) : (s.tally f n).chans = s.chans := rfl
@[simp] theorem tally_drovers (f : FRef) (n : Nat) : (s.tally f n).drovers = s.drovers := rfl
@[simp] theorem tally_shep (f : FRef) (n : Nat) : (s.tally f n).shep = s.shep := rfl
@[simp] theorem tally_power (f : FRef) (n : Nat) : (s.tally f n).power = s.power := rfl
@[simp] theorem tally_freeCounter (f : FRef) (n : Nat) : (s.tally f n).freeCounter = s.freeCounter := rfl

@[simp] theorem wrWide_pending (key n v : Nat) : (s.wrWide key n v).pending = s.pending := rfl
@[simp] theorem wrWide_snaps (key n v : Nat) : (s.wrWide key n v).snaps = s.snaps := rfl
@[simp] theorem wrWide_tb (key n v : Nat) : (s.wrWide key n v).tb = s.tb := rfl
@[simp] theorem wrWide_bw (key n v : Nat) : (s.wrWide key n v).bw = s.bw := rfl
@[simp] theorem wrWide_struct (key n v : Nat) : (s.wrWide key n v).struct = s.struct := rfl
@[simp] theorem wrWide_part (key n v : Nat) : (s.wrWide key n v).part = s.part := rfl
@[simp] theorem wrWide_streams (key n v : Nat) : (s.wrWide key n v).streams = s.streams := rfl
@[simp] theorem wrWide_hostHeld (key n v : Nat) : (s.wrWide key n v).hostHeld = s.hostHeld := rfl
@[simp] theorem wrWide_lanes (key n v : Nat) : (s.wrWide key n v).lanes = s.lanes := rfl
@[simp] theorem wrWide_ports (key n v : Nat) : (s.wrWide key n v).ports = s.ports := rfl
@[simp] theorem wrWide_encs (key n v : Nat) : (s.wrWide key n v).encs = s.encs := rfl
@[simp] theorem wrWide_abs (key n v : Nat) : (s.wrWide key n v).abs = s.abs := rfl
@[simp] theorem wrWide_trigs (key n v : Nat) : (s.wrWide key n v).trigs = s.trigs := rfl
@[simp] theorem wrWide_inputs (key n v : Nat) : (s.wrWide key n v).inputs = s.inputs := rfl
@[simp] theorem wrWide_ais (key n v : Nat) : (s.wrWide key n v).ais = s.ais := rfl
@[simp] theorem wrWide_cals (key n v : Nat) : (s.wrWide key n v).cals = s.cals := rfl
@[simp] theorem wrWide_calFlash (key n v : Nat) : (s.wrWide key n v).calFlash = s.calFlash := rfl
@[simp] theorem wrWide_records (key n v : Nat) : (s.wrWide key n v).records = s.records := rfl
@[simp] theorem wrWide_strms (key n v : Nat) : (s.wrWide key n v).strms = s.strms := rfl
@[simp] theorem wrWide_firstRecord (key n v : Nat) : (s.wrWide key n v).firstRecord = s.firstRecord := rfl
@[simp] theorem wrWide_streamMoves (key n v : Nat) : (s.wrWide key n v).streamMoves = s.streamMoves := rfl
@[simp] theorem wrWide_committing (key n v : Nat) : (s.wrWide key n v).committing = s.committing := rfl
@[simp] theorem wrWide_flrOpen (key n v : Nat) : (s.wrWide key n v).flrOpen = s.flrOpen := rfl
@[simp] theorem wrWide_flrDue (key n v : Nat) : (s.wrWide key n v).flrDue = s.flrDue := rfl
@[simp] theorem wrWide_groups (key n v : Nat) : (s.wrWide key n v).groups = s.groups := rfl
@[simp] theorem wrWide_serial (key n v : Nat) : (s.wrWide key n v).serial = s.serial := rfl
@[simp] theorem wrWide_slips (key n v : Nat) : (s.wrWide key n v).slips = s.slips := rfl
@[simp] theorem wrWide_scanFull (key n v : Nat) : (s.wrWide key n v).scanFull = s.scanFull := rfl
@[simp] theorem wrWide_ctxs (key n v : Nat) : (s.wrWide key n v).ctxs = s.ctxs := rfl
@[simp] theorem wrWide_folds (key n v : Nat) : (s.wrWide key n v).folds = s.folds := rfl
@[simp] theorem wrWide_net (key n v : Nat) : (s.wrWide key n v).net = s.net := rfl
@[simp] theorem wrWide_chans (key n v : Nat) : (s.wrWide key n v).chans = s.chans := rfl
@[simp] theorem wrWide_drovers (key n v : Nat) : (s.wrWide key n v).drovers = s.drovers := rfl
@[simp] theorem wrWide_shep (key n v : Nat) : (s.wrWide key n v).shep = s.shep := rfl
@[simp] theorem wrWide_power (key n v : Nat) : (s.wrWide key n v).power = s.power := rfl
@[simp] theorem wrWide_freeCounter (key n v : Nat) : (s.wrWide key n v).freeCounter = s.freeCounter := rfl

@[simp] theorem emit_pending (e : Emit) : (s.emit e).pending = s.pending := rfl
@[simp] theorem emit_snaps (e : Emit) : (s.emit e).snaps = s.snaps := rfl
@[simp] theorem emit_tb (e : Emit) : (s.emit e).tb = s.tb := rfl
@[simp] theorem emit_bw (e : Emit) : (s.emit e).bw = s.bw := rfl
@[simp] theorem emit_struct (e : Emit) : (s.emit e).struct = s.struct := rfl
@[simp] theorem emit_part (e : Emit) : (s.emit e).part = s.part := rfl
@[simp] theorem emit_streams (e : Emit) : (s.emit e).streams = s.streams := rfl
@[simp] theorem emit_hostHeld (e : Emit) : (s.emit e).hostHeld = s.hostHeld := rfl
@[simp] theorem emit_lanes (e : Emit) : (s.emit e).lanes = s.lanes := rfl
@[simp] theorem emit_ports (e : Emit) : (s.emit e).ports = s.ports := rfl
@[simp] theorem emit_encs (e : Emit) : (s.emit e).encs = s.encs := rfl
@[simp] theorem emit_abs (e : Emit) : (s.emit e).abs = s.abs := rfl
@[simp] theorem emit_trigs (e : Emit) : (s.emit e).trigs = s.trigs := rfl
@[simp] theorem emit_inputs (e : Emit) : (s.emit e).inputs = s.inputs := rfl
@[simp] theorem emit_ais (e : Emit) : (s.emit e).ais = s.ais := rfl
@[simp] theorem emit_cals (e : Emit) : (s.emit e).cals = s.cals := rfl
@[simp] theorem emit_calFlash (e : Emit) : (s.emit e).calFlash = s.calFlash := rfl
@[simp] theorem emit_records (e : Emit) : (s.emit e).records = s.records := rfl
@[simp] theorem emit_strms (e : Emit) : (s.emit e).strms = s.strms := rfl
@[simp] theorem emit_firstRecord (e : Emit) : (s.emit e).firstRecord = s.firstRecord := rfl
@[simp] theorem emit_streamMoves (e : Emit) : (s.emit e).streamMoves = s.streamMoves := rfl
@[simp] theorem emit_committing (e : Emit) : (s.emit e).committing = s.committing := rfl
@[simp] theorem emit_flrOpen (e : Emit) : (s.emit e).flrOpen = s.flrOpen := rfl
@[simp] theorem emit_flrDue (e : Emit) : (s.emit e).flrDue = s.flrDue := rfl
@[simp] theorem emit_groups (e : Emit) : (s.emit e).groups = s.groups := rfl
@[simp] theorem emit_serial (e : Emit) : (s.emit e).serial = s.serial := rfl
@[simp] theorem emit_slips (e : Emit) : (s.emit e).slips = s.slips := rfl
@[simp] theorem emit_scanFull (e : Emit) : (s.emit e).scanFull = s.scanFull := rfl
@[simp] theorem emit_ctxs (e : Emit) : (s.emit e).ctxs = s.ctxs := rfl
@[simp] theorem emit_folds (e : Emit) : (s.emit e).folds = s.folds := rfl
@[simp] theorem emit_net (e : Emit) : (s.emit e).net = s.net := rfl
@[simp] theorem emit_chans (e : Emit) : (s.emit e).chans = s.chans := rfl
@[simp] theorem emit_drovers (e : Emit) : (s.emit e).drovers = s.drovers := rfl
@[simp] theorem emit_shep (e : Emit) : (s.emit e).shep = s.shep := rfl
@[simp] theorem emit_power (e : Emit) : (s.emit e).power = s.power := rfl
@[simp] theorem emit_freeCounter (e : Emit) : (s.emit e).freeCounter = s.freeCounter := rfl

@[simp] theorem keepRecord_pending (r : Rec) : (keepRecord r s).pending = s.pending := rfl
@[simp] theorem keepRecord_fab (r : Rec) : (keepRecord r s).fab = s.fab := rfl
@[simp] theorem keepRecord_snaps (r : Rec) : (keepRecord r s).snaps = s.snaps := rfl
@[simp] theorem keepRecord_tb (r : Rec) : (keepRecord r s).tb = s.tb := rfl
@[simp] theorem keepRecord_bw (r : Rec) : (keepRecord r s).bw = s.bw := rfl
@[simp] theorem keepRecord_struct (r : Rec) : (keepRecord r s).struct = s.struct := rfl
@[simp] theorem keepRecord_part (r : Rec) : (keepRecord r s).part = s.part := rfl
@[simp] theorem keepRecord_streams (r : Rec) : (keepRecord r s).streams = s.streams := rfl
@[simp] theorem keepRecord_hostHeld (r : Rec) : (keepRecord r s).hostHeld = s.hostHeld := rfl
@[simp] theorem keepRecord_lanes (r : Rec) : (keepRecord r s).lanes = s.lanes := rfl
@[simp] theorem keepRecord_ports (r : Rec) : (keepRecord r s).ports = s.ports := rfl
@[simp] theorem keepRecord_encs (r : Rec) : (keepRecord r s).encs = s.encs := rfl
@[simp] theorem keepRecord_abs (r : Rec) : (keepRecord r s).abs = s.abs := rfl
@[simp] theorem keepRecord_trigs (r : Rec) : (keepRecord r s).trigs = s.trigs := rfl
@[simp] theorem keepRecord_inputs (r : Rec) : (keepRecord r s).inputs = s.inputs := rfl
@[simp] theorem keepRecord_ais (r : Rec) : (keepRecord r s).ais = s.ais := rfl
@[simp] theorem keepRecord_cals (r : Rec) : (keepRecord r s).cals = s.cals := rfl
@[simp] theorem keepRecord_calFlash (r : Rec) : (keepRecord r s).calFlash = s.calFlash := rfl
@[simp] theorem keepRecord_strms (r : Rec) : (keepRecord r s).strms = s.strms := rfl
@[simp] theorem keepRecord_firstRecord (r : Rec) : (keepRecord r s).firstRecord = s.firstRecord := rfl
@[simp] theorem keepRecord_streamMoves (r : Rec) : (keepRecord r s).streamMoves = s.streamMoves := rfl
@[simp] theorem keepRecord_committing (r : Rec) : (keepRecord r s).committing = s.committing := rfl
@[simp] theorem keepRecord_flrOpen (r : Rec) : (keepRecord r s).flrOpen = s.flrOpen := rfl
@[simp] theorem keepRecord_flrDue (r : Rec) : (keepRecord r s).flrDue = s.flrDue := rfl
@[simp] theorem keepRecord_groups (r : Rec) : (keepRecord r s).groups = s.groups := rfl
@[simp] theorem keepRecord_serial (r : Rec) : (keepRecord r s).serial = s.serial := rfl
@[simp] theorem keepRecord_slips (r : Rec) : (keepRecord r s).slips = s.slips := rfl
@[simp] theorem keepRecord_scanFull (r : Rec) : (keepRecord r s).scanFull = s.scanFull := rfl
@[simp] theorem keepRecord_ctxs (r : Rec) : (keepRecord r s).ctxs = s.ctxs := rfl
@[simp] theorem keepRecord_folds (r : Rec) : (keepRecord r s).folds = s.folds := rfl
@[simp] theorem keepRecord_net (r : Rec) : (keepRecord r s).net = s.net := rfl
@[simp] theorem keepRecord_chans (r : Rec) : (keepRecord r s).chans = s.chans := rfl
@[simp] theorem keepRecord_drovers (r : Rec) : (keepRecord r s).drovers = s.drovers := rfl
@[simp] theorem keepRecord_shep (r : Rec) : (keepRecord r s).shep = s.shep := rfl
@[simp] theorem keepRecord_power (r : Rec) : (keepRecord r s).power = s.power := rfl
@[simp] theorem keepRecord_freeCounter (r : Rec) : (keepRecord r s).freeCounter = s.freeCounter := rfl

@[simp] theorem setUpload_pending (u : Option Upload) : (setUpload u s).pending = s.pending := rfl
@[simp] theorem setUpload_fab (u : Option Upload) : (setUpload u s).fab = s.fab := rfl
@[simp] theorem setUpload_snaps (u : Option Upload) : (setUpload u s).snaps = s.snaps := rfl
@[simp] theorem setUpload_tb (u : Option Upload) : (setUpload u s).tb = s.tb := rfl
@[simp] theorem setUpload_bw (u : Option Upload) : (setUpload u s).bw = s.bw := rfl
@[simp] theorem setUpload_part (u : Option Upload) : (setUpload u s).part = s.part := rfl
@[simp] theorem setUpload_streams (u : Option Upload) : (setUpload u s).streams = s.streams := rfl
@[simp] theorem setUpload_hostHeld (u : Option Upload) : (setUpload u s).hostHeld = s.hostHeld := rfl
@[simp] theorem setUpload_lanes (u : Option Upload) : (setUpload u s).lanes = s.lanes := rfl
@[simp] theorem setUpload_ports (u : Option Upload) : (setUpload u s).ports = s.ports := rfl
@[simp] theorem setUpload_encs (u : Option Upload) : (setUpload u s).encs = s.encs := rfl
@[simp] theorem setUpload_abs (u : Option Upload) : (setUpload u s).abs = s.abs := rfl
@[simp] theorem setUpload_trigs (u : Option Upload) : (setUpload u s).trigs = s.trigs := rfl
@[simp] theorem setUpload_inputs (u : Option Upload) : (setUpload u s).inputs = s.inputs := rfl
@[simp] theorem setUpload_ais (u : Option Upload) : (setUpload u s).ais = s.ais := rfl
@[simp] theorem setUpload_cals (u : Option Upload) : (setUpload u s).cals = s.cals := rfl
@[simp] theorem setUpload_calFlash (u : Option Upload) : (setUpload u s).calFlash = s.calFlash := rfl
@[simp] theorem setUpload_records (u : Option Upload) : (setUpload u s).records = s.records := rfl
@[simp] theorem setUpload_strms (u : Option Upload) : (setUpload u s).strms = s.strms := rfl
@[simp] theorem setUpload_firstRecord (u : Option Upload) : (setUpload u s).firstRecord = s.firstRecord := rfl
@[simp] theorem setUpload_streamMoves (u : Option Upload) : (setUpload u s).streamMoves = s.streamMoves := rfl
@[simp] theorem setUpload_committing (u : Option Upload) : (setUpload u s).committing = s.committing := rfl
@[simp] theorem setUpload_flrOpen (u : Option Upload) : (setUpload u s).flrOpen = s.flrOpen := rfl
@[simp] theorem setUpload_flrDue (u : Option Upload) : (setUpload u s).flrDue = s.flrDue := rfl
@[simp] theorem setUpload_groups (u : Option Upload) : (setUpload u s).groups = s.groups := rfl
@[simp] theorem setUpload_serial (u : Option Upload) : (setUpload u s).serial = s.serial := rfl
@[simp] theorem setUpload_slips (u : Option Upload) : (setUpload u s).slips = s.slips := rfl
@[simp] theorem setUpload_scanFull (u : Option Upload) : (setUpload u s).scanFull = s.scanFull := rfl
@[simp] theorem setUpload_ctxs (u : Option Upload) : (setUpload u s).ctxs = s.ctxs := rfl
@[simp] theorem setUpload_folds (u : Option Upload) : (setUpload u s).folds = s.folds := rfl
@[simp] theorem setUpload_net (u : Option Upload) : (setUpload u s).net = s.net := rfl
@[simp] theorem setUpload_chans (u : Option Upload) : (setUpload u s).chans = s.chans := rfl
@[simp] theorem setUpload_drovers (u : Option Upload) : (setUpload u s).drovers = s.drovers := rfl
@[simp] theorem setUpload_shep (u : Option Upload) : (setUpload u s).shep = s.shep := rfl
@[simp] theorem setUpload_power (u : Option Upload) : (setUpload u s).power = s.power := rfl
@[simp] theorem setUpload_freeCounter (u : Option Upload) : (setUpload u s).freeCounter = s.freeCounter := rfl

@[simp] theorem setFlash_pending (n : Nat) (f : FlashSlot) : (setFlash n f s).pending = s.pending := rfl
@[simp] theorem setFlash_fab (n : Nat) (f : FlashSlot) : (setFlash n f s).fab = s.fab := rfl
@[simp] theorem setFlash_snaps (n : Nat) (f : FlashSlot) : (setFlash n f s).snaps = s.snaps := rfl
@[simp] theorem setFlash_tb (n : Nat) (f : FlashSlot) : (setFlash n f s).tb = s.tb := rfl
@[simp] theorem setFlash_bw (n : Nat) (f : FlashSlot) : (setFlash n f s).bw = s.bw := rfl
@[simp] theorem setFlash_part (n : Nat) (f : FlashSlot) : (setFlash n f s).part = s.part := rfl
@[simp] theorem setFlash_streams (n : Nat) (f : FlashSlot) : (setFlash n f s).streams = s.streams := rfl
@[simp] theorem setFlash_hostHeld (n : Nat) (f : FlashSlot) : (setFlash n f s).hostHeld = s.hostHeld := rfl
@[simp] theorem setFlash_lanes (n : Nat) (f : FlashSlot) : (setFlash n f s).lanes = s.lanes := rfl
@[simp] theorem setFlash_ports (n : Nat) (f : FlashSlot) : (setFlash n f s).ports = s.ports := rfl
@[simp] theorem setFlash_encs (n : Nat) (f : FlashSlot) : (setFlash n f s).encs = s.encs := rfl
@[simp] theorem setFlash_abs (n : Nat) (f : FlashSlot) : (setFlash n f s).abs = s.abs := rfl
@[simp] theorem setFlash_trigs (n : Nat) (f : FlashSlot) : (setFlash n f s).trigs = s.trigs := rfl
@[simp] theorem setFlash_inputs (n : Nat) (f : FlashSlot) : (setFlash n f s).inputs = s.inputs := rfl
@[simp] theorem setFlash_ais (n : Nat) (f : FlashSlot) : (setFlash n f s).ais = s.ais := rfl
@[simp] theorem setFlash_cals (n : Nat) (f : FlashSlot) : (setFlash n f s).cals = s.cals := rfl
@[simp] theorem setFlash_calFlash (n : Nat) (f : FlashSlot) : (setFlash n f s).calFlash = s.calFlash := rfl
@[simp] theorem setFlash_records (n : Nat) (f : FlashSlot) : (setFlash n f s).records = s.records := rfl
@[simp] theorem setFlash_strms (n : Nat) (f : FlashSlot) : (setFlash n f s).strms = s.strms := rfl
@[simp] theorem setFlash_firstRecord (n : Nat) (f : FlashSlot) : (setFlash n f s).firstRecord = s.firstRecord := rfl
@[simp] theorem setFlash_streamMoves (n : Nat) (f : FlashSlot) : (setFlash n f s).streamMoves = s.streamMoves := rfl
@[simp] theorem setFlash_committing (n : Nat) (f : FlashSlot) : (setFlash n f s).committing = s.committing := rfl
@[simp] theorem setFlash_flrOpen (n : Nat) (f : FlashSlot) : (setFlash n f s).flrOpen = s.flrOpen := rfl
@[simp] theorem setFlash_flrDue (n : Nat) (f : FlashSlot) : (setFlash n f s).flrDue = s.flrDue := rfl
@[simp] theorem setFlash_groups (n : Nat) (f : FlashSlot) : (setFlash n f s).groups = s.groups := rfl
@[simp] theorem setFlash_serial (n : Nat) (f : FlashSlot) : (setFlash n f s).serial = s.serial := rfl
@[simp] theorem setFlash_slips (n : Nat) (f : FlashSlot) : (setFlash n f s).slips = s.slips := rfl
@[simp] theorem setFlash_scanFull (n : Nat) (f : FlashSlot) : (setFlash n f s).scanFull = s.scanFull := rfl
@[simp] theorem setFlash_ctxs (n : Nat) (f : FlashSlot) : (setFlash n f s).ctxs = s.ctxs := rfl
@[simp] theorem setFlash_folds (n : Nat) (f : FlashSlot) : (setFlash n f s).folds = s.folds := rfl
@[simp] theorem setFlash_net (n : Nat) (f : FlashSlot) : (setFlash n f s).net = s.net := rfl
@[simp] theorem setFlash_chans (n : Nat) (f : FlashSlot) : (setFlash n f s).chans = s.chans := rfl
@[simp] theorem setFlash_drovers (n : Nat) (f : FlashSlot) : (setFlash n f s).drovers = s.drovers := rfl
@[simp] theorem setFlash_shep (n : Nat) (f : FlashSlot) : (setFlash n f s).shep = s.shep := rfl
@[simp] theorem setFlash_power (n : Nat) (f : FlashSlot) : (setFlash n f s).power = s.power := rfl
@[simp] theorem setFlash_freeCounter (n : Nat) (f : FlashSlot) : (setFlash n f s).freeCounter = s.freeCounter := rfl

/-! A change of an entry is the entry of what it gives. -/

@[simp] theorem updLane_eq (n : Nat) (g : Lane → Lane) : s.updLane n g = s.setLane n (g (s.lane n)) := rfl
@[simp] theorem updPort_eq (n : Nat) (g : Port → Port) : s.updPort n g = s.setPort n (g (s.port n)) := rfl
@[simp] theorem updEnc_eq (n : Nat) (g : Encoder → Encoder) : s.updEnc n g = s.setEnc n (g (s.enc n)) := rfl
@[simp] theorem updStrm_eq (n : Nat) (g : Strm → Strm) : s.updStrm n g = s.setStrm n (g (s.strm n)) := rfl
@[simp] theorem updGroup_eq (n : Nat) (g : Group → Group) : s.updGroup n g = s.setGroup n (g (s.group n)) := rfl
@[simp] theorem updFlow_eq (n : Nat) (g : Flow → Flow) : s.updFlow n g = s.setFlow n (g (s.flow n)) := rfl
@[simp] theorem updCtx_eq (n : Nat) (g : Ctx → Ctx) : s.updCtx n g = s.setCtx n (g (s.ctx n)) := rfl
@[simp] theorem updTrig_eq (n : Nat) (g : Trig → Trig) : s.updTrig n g = s.setTrig n (g (s.trig n)) := rfl
@[simp] theorem updPath_eq (n : Nat) (g : Path → Path) : s.updPath n g = s.setPath n (g (s.path n)) := rfl
@[simp] theorem updChan_eq (n : Nat) (g : Chan → Chan) : s.updChan n g = s.setChan n (g (s.chan n)) := rfl
@[simp] theorem updCal_eq (n : Nat) (g : CalBlock → CalBlock) : s.updCal n g = s.setCal n (g (s.cal n)) := rfl

/-! What is entered is read back, and nothing else has moved. -/

@[simp] theorem lane_setLane_same (n : Nat) (x : Lane) : (s.setLane n x).lane n = x := tget_tset_same ..
theorem lane_setLane_other {n m : Nat} (x : Lane) (h : m ≠ n) : (s.setLane n x).lane m = s.lane m := tget_tset_other _ _ _ h
@[simp] theorem port_setPort_same (n : Nat) (x : Port) : (s.setPort n x).port n = x := tget_tset_same ..
theorem port_setPort_other {n m : Nat} (x : Port) (h : m ≠ n) : (s.setPort n x).port m = s.port m := tget_tset_other _ _ _ h
@[simp] theorem ai_setAi_same (n : Nat) (x : AiChan) : (s.setAi n x).ai n = x := tget_tset_same ..
theorem ai_setAi_other {n m : Nat} (x : AiChan) (h : m ≠ n) : (s.setAi n x).ai m = s.ai m := tget_tset_other _ _ _ h
@[simp] theorem enc_setEnc_same (n : Nat) (x : Encoder) : (s.setEnc n x).enc n = x := tget_tset_same ..
theorem enc_setEnc_other {n m : Nat} (x : Encoder) (h : m ≠ n) : (s.setEnc n x).enc m = s.enc m := tget_tset_other _ _ _ h
@[simp] theorem absChan_setAbs_same (n : Nat) (x : AbsChan) : (s.setAbs n x).absChan n = x := tget_tset_same ..
theorem absChan_setAbs_other {n m : Nat} (x : AbsChan) (h : m ≠ n) : (s.setAbs n x).absChan m = s.absChan m := tget_tset_other _ _ _ h
@[simp] theorem strm_setStrm_same (n : Nat) (x : Strm) : (s.setStrm n x).strm n = x := tget_tset_same ..
theorem strm_setStrm_other {n m : Nat} (x : Strm) (h : m ≠ n) : (s.setStrm n x).strm m = s.strm m := tget_tset_other _ _ _ h
@[simp] theorem group_setGroup_same (n : Nat) (x : Group) : (s.setGroup n x).group n = x := tget_tset_same ..
theorem group_setGroup_other {n m : Nat} (x : Group) (h : m ≠ n) : (s.setGroup n x).group m = s.group m := tget_tset_other _ _ _ h
@[simp] theorem flow_setFlow_same (n : Nat) (x : Flow) : (s.setFlow n x).flow n = x := tget_tset_same ..
theorem flow_setFlow_other {n m : Nat} (x : Flow) (h : m ≠ n) : (s.setFlow n x).flow m = s.flow m := tget_tset_other _ _ _ h
@[simp] theorem ctx_setCtx_same (n : Nat) (x : Ctx) : (s.setCtx n x).ctx n = x := tget_tset_same ..
theorem ctx_setCtx_other {n m : Nat} (x : Ctx) (h : m ≠ n) : (s.setCtx n x).ctx m = s.ctx m := tget_tset_other _ _ _ h
@[simp] theorem fold_setFold_same (n : Nat) (x : FoldRun) : (s.setFold n x).fold n = x := tget_tset_same ..
theorem fold_setFold_other {n m : Nat} (x : FoldRun) (h : m ≠ n) : (s.setFold n x).fold m = s.fold m := tget_tset_other _ _ _ h
@[simp] theorem trig_setTrig_same (n : Nat) (x : Trig) : (s.setTrig n x).trig n = x := tget_tset_same ..
theorem trig_setTrig_other {n m : Nat} (x : Trig) (h : m ≠ n) : (s.setTrig n x).trig m = s.trig m := tget_tset_other _ _ _ h
@[simp] theorem path_setPath_same (n : Nat) (x : Path) : (s.setPath n x).path n = x := tget_tset_same ..
theorem path_setPath_other {n m : Nat} (x : Path) (h : m ≠ n) : (s.setPath n x).path m = s.path m := tget_tset_other _ _ _ h
@[simp] theorem chan_setChan_same (n : Nat) (x : Chan) : (s.setChan n x).chan n = x := tget_tset_same ..
theorem chan_setChan_other {n m : Nat} (x : Chan) (h : m ≠ n) : (s.setChan n x).chan m = s.chan m := tget_tset_other _ _ _ h
@[simp] theorem drover_setDrover_same (n : Nat) (x : Drover) : (s.setDrover n x).drover n = x := tget_tset_same ..
theorem drover_setDrover_other {n m : Nat} (x : Drover) (h : m ≠ n) : (s.setDrover n x).drover m = s.drover m := tget_tset_other _ _ _ h
@[simp] theorem cal_setCal_same (n : Nat) (x : CalBlock) : (s.setCal n x).cal n = x := tget_tset_same ..
theorem cal_setCal_other {n m : Nat} (x : CalBlock) (h : m ≠ n) : (s.setCal n x).cal m = s.cal m := tget_tset_other _ _ _ h

end Sys2Proof.Machine.State
end

