-- ==== Sys2Proof/Laws/Step.lean ====
section
/-! SUPPORT. What the clock of an idle block keeps (see `Laws/Onward.lean`). -/
namespace Sys2Proof.Machine

theorem State.idle_onward {s t : State} (h : s.Onward t) : s.Onward t.idle := by
  unfold State.idle
  split
  · refine State.Onward.foldl (fun a d ha => ?_) (State.settle_onward (State.advance_onward h))
    split
    · exact State.pump_onward ha
    · exact ha
  · exact h

end Sys2Proof.Machine
end

