-- ==== Sys2Proof/Laws/Structure.lean ====
section
/-! SUPPORT. A write of STR_CTRL with one operation (R58, R60): SOURCE and POST_WAIT_S are taken, and it is served or waits. -/
namespace Sys2Proof.Machine
namespace State

/-- The definition of STR_CTRL. -/
theorem regAt_strCtrl : regAt (STR_CTRL % fnSpan)
    = some { off := 0, fields := [fl 31 31 .wo, fl 30 30 .wo, fl 29 29 .wo, fl 11 8 .rw 10, fl 1 0 .rw] } := by decide +kernel

/-- A written word of STR_CTRL changes POST_WAIT_S and SOURCE alone, and raises no access error. -/
theorem putWord_strCtrl (w : Word) (s : State) : putWord 0 STR_CTRL w s
    = s.ww STR_CTRL (withBits (withBits (s.rw STR_CTRL) 11 8 (bitsOf w 11 8)) 1 0 (bitsOf w 1 0)) := by
  unfold putWord
  rw [regAt_strCtrl]
  rfl

/-- STR_CTRL as an operation leaves it. -/
def strStaged (source wait : Nat) (s : State) : State :=
  s.ww STR_CTRL (withBits (withBits (s.rw STR_CTRL) 11 8 wait) 1 0 source)

theorem strStaged_source (source wait : Nat) (s : State) (h : source < 4) :
    (strStaged source wait s).rd STR_CTRL_SOURCE = source := by
  show bitsOf ((State.ww _ STR_CTRL _).rw STR_CTRL) 1 0 = source
  rw [rw_ww_same, bitsOf_withBits_same _ _ (by decide) (by decide)]
  exact Nat.mod_eq_of_lt h

/-- The bits of a word with one operation. -/
theorem strWord_bits {bit source wait : Nat} (hb : 29 ≤ bit ∧ bit ≤ 31) (hs : source < 4) (hw : wait < 16) :
    bitsOf (strWord bit source wait) 11 8 = wait ∧ bitsOf (strWord bit source wait) 1 0 = source
      ∧ ∀ j, 29 ≤ j ∧ j ≤ 31 → bitOn (strWord bit source wait) j = decide (j = bit) := by
  have key : ∀ b ∈ [29, 30, 31], ∀ x ∈ List.range 4, ∀ y ∈ List.range 16,
      bitsOf (strWord b x y) 11 8 = y ∧ bitsOf (strWord b x y) 1 0 = x
        ∧ ∀ j ∈ [29, 30, 31], bitOn (strWord b x y) j = decide (j = b) := by decide +kernel
  have r := key bit (by simp; omega) source (List.mem_range.2 hs) wait (List.mem_range.2 hw)
  exact ⟨r.1, r.2.1, fun j hj => r.2.2 j (by simp; omega)⟩

/-- GO (bit 31, operation 0), CHECK (bit 30, operation 1) and PROGRAM (bit 29, operation 2): served by the shepherd, or
waiting for it. -/
theorem strCtrl_eq {op source wait : Nat} (s : State) (ho : op < 3) (hs : source < 4) (hw : wait < 16) :
    strCtrl 0 (strWord (31 - op) source wait) s
      = if (strStaged source wait s).shepherdRuns = true then strServe op source (strStaged source wait s)
        else (strStaged source wait s).updStruct fun x => { x with waiting := x.waiting ++ [(op, source)] } := by
  obtain ⟨hwait, hsource, hbit⟩ := strWord_bits (bit := 31 - op) (by omega) hs hw
  unfold strCtrl
  rw [putWord_strCtrl, hwait, hsource, hbit 31 (by omega), hbit 30 (by omega), hbit 29 (by omega)]
  have hsrc := strStaged_source source wait s hs
  unfold strStaged at hsrc
  simp only [hsrc]
  match op, ho with
  | 0, _ => rfl
  | 1, _ => rfl
  | 2, _ => rfl

end State
end Sys2Proof.Machine
end

