-- ==== Sys2Proof/WellFormed.lean ====
section
/-!
DEFINITION. Which commands the device can be given: every number names a thing the device has.
-/
namespace Sys2Proof

/-- A command whose numbers name things the device has; register fields carry the bits they have. -/
def Instr.wf : Instr → Bool
  | .registerWrite fn _ _ => decide (fn < 9)
  | .misalignedAccess fn _ _ => decide (fn < 9)
  | .undefinedOffsetAccess fn _ _ _ => decide (fn < 9)
  | .wideValueLowRead fn _ => decide (fn < 9)
  | .readToClear fn _ _ => decide (fn < 9)
  | .bellwetherTick => true
  | .bwPeriodWrite v => decide (v < 1048576)
  | .bwPeriodApply => true
  | .controlShadowCommit st => decide (st < 97)
  | .recordComplete slot => decide (slot < 262144)
  | .recordTagTimeout slot => decide (slot < 262144)
  | .foldEnable _ _ => true
  | .foldHalt _ _ => true
  | .laneBlockReset n => decide (n < 56)
  | .portBlockReset P => decide (P < 25)
  | .pixelFoldBlockReset f => decide (f < 8)
  | .strGo source wait => decide (source < 4) && decide (wait < 16)
  | .strCheck source wait => decide (source < 4) && decide (wait < 16)
  | .strProgram source wait => decide (source < 4) && decide (wait < 16)
  | .programDone _ => true
  | .postWaitEnd => true
  | .activationQuiesce => true
  | .quiesceTimeout st => decide (st < 97)
  | .activationRetain => true
  | .activationReconfigure => true
  | .activationRetrain => true
  | .activationResume => true
  | .activationRollback => true
  | .lanePowerRequest n req => decide (n < 56) && decide (req < 4)
  | .laneExitComplete n vstep phase latency => decide (n < 56) && decide (vstep < 4096) && decide (phase < 64) && decide (latency < 16777216)
  | .laneExitTimeout n => decide (n < 56)
  | .cdrCoastTimeout n => decide (n < 56)
  | .densityWindowEnd n density _ _ => decide (n < 56) && decide (density < 257)
  | .freezeLimitExpire n => decide (n < 56)
  | .invalidHeader n valid => decide (n < 56) && decide (valid < 1025)
  | .blockLockAcquired n latency => decide (n < 56) && decide (latency < 16777216)
  | .blockLockLost n => decide (n < 56)
  | .slipWrite n _ => decide (n < 56)
  | .patternCheckerSync n _ => decide (n < 56)
  | .scanStart n _ => decide (n < 56)
  | .scanAbort n => decide (n < 56)
  | .scanComplete n _ => decide (n < 56)
  | .partnerDetect P _ => decide (P < 24)
  | .listenCandidateTimeout P => decide (P < 24)
  | .listenLimitExpire P => decide (P < 24)
  | .trainExit P _ => decide (P < 24)
  | .trainLimitExpire P => decide (P < 24)
  | .orderStep P => decide (P < 24)
  | .lockExit P _ standard => decide (P < 24) && decide (standard < 3)
  | .lockLimitExpire P => decide (P < 24)
  | .exchangeComplete P _ => decide (P < 24)
  | .exchangeLimitExpire P => decide (P < 24)
  | .partnerLost P lane => decide (P < 24) && decide (lane < 256)
  | .restPoll P _ => decide (P < 24)
  | .retrain P => decide (P < 24)
  | .trainingBlock n number _ tap action reply _ _ => decide (n < 48) && decide (number < 16) && decide (tap < 4) && decide (action < 8) && decide (reply < 4)
  | .capabilityBlock P _ _ _ => decide (P < 24)
  | .capabilityRepeat P => decide (P < 24)
  | .videoPacket st line _ _ _ _ _ => decide (st < 97) && decide (line < 65536)
  | .controlReadResponse P tag status _ => decide (P < 24) && decide (tag < 65536) && decide (status < 256)
  | .controlWriteAck P tag status => decide (P < 24) && decide (tag < 65536) && decide (status < 256)
  | .controlRequestTimeout P tag => decide (P < 24) && decide (tag < 65536)
  | .cameraEventPacket P event stream age _ => decide (P < 24) && decide (event < 65536) && decide (stream < 256) && decide (age < 1099511627776)
  | .heartbeatPacket P => decide (P < 24)
  | .probeTimer P => decide (P < 24)
  | .probeNow P => decide (P < 24)
  | .echoReceived P seq _ turn => decide (P < 24) && decide (seq < 256) && decide (turn < 4294967296)
  | .probeMiss P seq => decide (P < 24) && decide (seq < 256)
  | .startOfFrame st camFrame _ startAge endAge _ egen _ => decide (st < 97) && decide (camFrame < 65536) && decide (startAge < 4294967296) && decide (endAge < 4294967296) && decide (egen < 65536)
  | .endOfFrame st => decide (st < 97)
  | .frameTimeout st => decide (st < 97)
  | .resendTimeout st => decide (st < 97)
  | .camChannelGo fn P _ => decide (fn < 9) && decide (P < 24)
  | .ppAlignAcquired link => decide (link < 3)
  | .ppAlignLost link => decide (link < 3)
  | .ppAlignSlip _ => true
  | .ppClockLost => true
  | .ppClockPresent => true
  | .ppSerTxWrite byte => decide (byte < 256)
  | .ppSerRxRead fn => decide (fn < 9)
  | .ppSerByteReceived byte _ => decide (byte < 256)
  | .unitReady st => decide (st < 97)
  | .foldUnitStart f => decide (f < 8)
  | .foldUnitComplete f => decide (f < 8)
  | .throttleStepChange f k => decide (f < 8) && decide (k < 8)
  | .schedulerRebalance => true
  | .contextCommitReq fn f c => decide (fn < 9) && decide (f < 8) && decide (c < 256)
  | .contextCommitCancel fn f c => decide (fn < 9) && decide (f < 8) && decide (c < 256)
  | .burstRearm fn st => decide (fn < 9) && decide (st < 97)
  | .windowGraceExpire g st => decide (g < 16) && decide (st < 97)
  | .fgArm fn g => decide (fn < 9) && decide (g < 16)
  | .fgDisarm fn g => decide (fn < 9) && decide (g < 16)
  | .fgFreeze fn g => decide (fn < 9) && decide (g < 16)
  | .fgRearm fn g => decide (fn < 9) && decide (g < 16)
  | .fgRelease fn g r => decide (fn < 9) && decide (g < 16) && decide (r < 2)
  | .freezeRequest g cause _ => decide (g < 16) && decide (cause < 8)
  | .recoveryScanComplete _ _ => true
  | .frameFind fn => decide (fn < 9)
  | .bar4Read fn _ _ => decide (fn < 9)
  | .bar4Write fn _ _ => decide (fn < 9)
  | .penCfgWrite fn p _ => decide (fn < 9) && decide (p < 65536)
  | .penPop fn p count => decide (fn < 9) && decide (p < 65536) && decide (count < 33554432)
  | .penPopComplete p => decide (p < 65536)
  | .penHostPush fn p count => decide (fn < 9) && decide (p < 65536) && decide (count < 33554432)
  | .penDrop fn p => decide (fn < 9) && decide (p < 65536)
  | .penClear fn p => decide (fn < 9) && decide (p < 65536)
  | .hurdleInputChange k _ => decide (k < 8)
  | .channelStart fn c _ => decide (fn < 9) && decide (c < 4096)
  | .channelDisable fn c => decide (fn < 9) && decide (c < 4096)
  | .channelReset fn c => decide (fn < 9) && decide (c < 4096)
  | .listEntryFetch d => decide (d < 16)
  | .entryComplete d => decide (d < 16)
  | .readCompletion d _ _ _ => decide (d < 16)
  | .completionTimeout d _ _ => decide (d < 16)
  | .powerdownForceStop c => decide (c < 4096)
  | .linkUp rate width flit => decide (rate < 7) && decide (width < 17) && decide (flit < 2)
  | .linkDown _ => true
  | .linkRateChange rate width flit => decide (rate < 7) && decide (width < 17) && decide (flit < 2)
  | .linkRecovery => true
  | .pcieErrorLogged kind => decide (kind < 3)
  | .functionLevelReset fn => decide (fn < 9)
  | .mfFunctionLevelReset => true
  | .flrComplete fn => decide (fn < 9)
  | .partitionCommit fn => decide (fn < 16)
  | .partitionApply => true
  | .partitionRevert fn => decide (fn < 16)
  | .doeDiscovery _ => true
  | .uploadBegin _ _ => true
  | .uploadData _ _ _ => true
  | .uploadEnd _ => true
  | .uploadAbort _ => true
  | .uploadQuery _ => true
  | .uploadUnknownOp _ op => decide (op < 256)
  | .eventOccurrence src detail => decide (src < 1024) && decide (detail < 4294967296)
  | .eventHoldoffExpire fn src => decide (fn < 9) && decide (src < 1024)
  | .eventEnable fn src => decide (fn < 9) && decide (src < 1024)
  | .eventRaise fn src => decide (fn < 9) && decide (src < 1024)
  | .msixUnmask fn vec => decide (fn < 9) && decide (vec < 256)
  | .incCommit d int => decide (d < 2) && decide (int < 256)
  | .adjustStart d ticks => decide (d < 2) && decide (ticks < 4294967296)
  | .adjustEnd d => decide (d < 2)
  | .timeSet d => decide (d < 2)
  | .setOnPps d => decide (d < 2)
  | .restartServo d => decide (d < 2)
  | .catchupEnd d => decide (d < 2)
  | .joinStart sel => decide (sel < 2)
  | .joinComplete => true
  | .joinForce => true
  | .joinCancel => true
  | .ptpSync d _ _ => decide (d < 2)
  | .ptpAnnounce d domain transport _ => decide (d < 2) && decide (domain < 128) && decide (transport < 3)
  | .ptpDelayResponse d _ => decide (d < 2)
  | .ptpManagementGet d id _ => decide (d < 2) && decide (id < 65536)
  | .ptpMessageTransmit d kind => decide (d < 2) && decide (kind < 3)
  | .announceTimeout d => decide (d < 2)
  | .holdoverExpire d => decide (d < 2)
  | .ppsInEdge => true
  | .ppsTimeout => true
  | .refclkLock => true
  | .refSelChange v => decide (v < 2)
  | .ppsOutPulse => true
  | .slotArm k => decide (k < 64)
  | .slotDisarm k => decide (k < 64)
  | .slotFire k => decide (k < 64)
  | .encoderCountEdge k _ _ _ => decide (k < 4)
  | .encoderSet k => decide (k < 4)
  | .encoderSetOnIndex k => decide (k < 4)
  | .encoderAdjust k => decide (k < 4)
  | .cmpReset k => decide (k < 4)
  | .indexEvent k _ _ => decide (k < 4)
  | .lineFault k signal _ => decide (k < 4) && decide (signal < 6)
  | .hallStateChange k state _ => decide (k < 4) && decide (state < 8)
  | .speedStillTimeout k => decide (k < 4)
  | .cmpEntryWrite k _ => decide (k < 4)
  | .cmpTailWrite k _ => decide (k < 4)
  | .histSnapshotRead k => decide (k < 4)
  | .saRequestNow j _ => decide (j < 4)
  | .saTransferComplete j word _ _ => decide (j < 4) && decide (word < 281474976710656)
  | .triggerInputEdge n _ _ => decide (n < 8)
  | .softwareTrigger mask => decide (mask < 16777216)
  | .channelPulse n => decide (n < 24)
  | .routeEdgeEmit n route => decide (n < 24) && decide (route < 6)
  | .inbandSend P => decide (P < 24)
  | .exposureCommitReq fn n => decide (fn < 9) && decide (n < 24)
  | .exposureCommitCancel fn n => decide (fn < 9) && decide (n < 24)
  | .exposureCommitApply n => decide (n < 24)
  | .cameraExposureWrite n => decide (n < 24)
  | .aiConvertNow c => decide (c < 8)
  | .conversionStart c => decide (c < 8)
  | .conversionComplete c raw => decide (c < 8) && decide (raw < 262144)
  | .rangeSettled c => decide (c < 8)
  | .sampleWordFlush c => decide (c < 8)
  | .calRunDue b temp => decide (b < 4) && decide (temp < 65536)
  | .calRun blocks => decide (blocks < 16)
  | .calSave => true
  | .calOverride blocks => decide (blocks < 16)
  | .calLoad => true
  | .calFactory => true
  | .calGapConversion c raw => decide (c < 8) && decide (raw < 262144)
  | .delayLineMeasure l _ => decide (l < 25)
  | .calRunComplete b => decide (b < 4)
  | .calDeadlineExpire b => decide (b < 4)
  | .calNvSaveComplete _ => true
  | .arpRequest k _ _ => decide (k < 2)
  | .icmpEchoRequest k _ _ _ => decide (k < 2)
  | .pauseFrame k quanta => decide (k < 2) && decide (quanta < 65536)
  | .neighborResolveTimeout f => decide (f < 64)
  | .neighborAgeOut n => decide (n < 64)
  | .flowDatagramSend f => decide (f < 64)
  | .frameTransportRequest k stream first count _ _ port => decide (k < 2) && decide (stream < 256) && decide (first < 18446744073709551616) && decide (count < 65536) && decide (port < 65536)
  | .networkFreeze k _ _ groups _ _ => decide (k < 2) && decide (groups < 65536)
  | .remoteControl k _ _ port op off _ tag => decide (k < 2) && decide (port < 65536) && decide (op < 4294967296) && decide (off < 4294967296) && decide (tag < 4294967296)
  | .datagramDiscard k => decide (k < 2)
  | .flowRestart f => decide (f < 64)
  | .crookPulse k _ => decide (k < 2)
  | .crookSilence k => decide (k < 2)
  | .crookProbeReturn k _ => decide (k < 2)
  | .crookLoopCheckFail k => decide (k < 2)
  | .crookContention k => decide (k < 2)
  | .pathHealthLoss k _ => decide (k < 2)
  | .epochSnapshot => true
  | .epochReceived k _ => decide (k < 2)
  | .mirrorStale k => decide (k < 2)
  | .revertHoldoffExpire => true
  | .crookRelease => true
  | .shepherdBoot => true
  | .spdmGetVersion _ => true
  | .spdmGetCapabilities _ => true
  | .spdmNegotiateAlgorithms _ => true
  | .spdmGetDigests _ => true
  | .spdmGetCertificate _ _ _ _ => true
  | .spdmChallenge _ _ _ => true
  | .spdmGetMeasurements _ _ _ _ => true
  | .spdmRespondIfReady _ _ _ => true
  | .spdmUnsupportedRequest _ code => decide (code < 256)
  | .mctpSetEndpointId eid => decide (eid < 256)
  | .mctpGetEndpointId => true
  | .mctpGetVersionSupport => true
  | .mctpGetMessageTypeSupport => true
  | .firmwareBegin _ => true
  | .firmwareData _ _ => true
  | .firmwareEnd _ => true
  | .firmwareAbort => true
  | .shepherdRestart => true
  | .readLogEntry _ => true
  | .watchdogExpire => true
  | .thermalSample _ => true
  | .healthLogWrite _ => true
  | .coldReset _ => true
  | .v12Loss => true
  | .v12RangeChange _ => true
  | .auxSupplyChange _ => true
  | .powerDownRequest d => decide (d < 32)
  | .powerDownComplete d => decide (d < 32)
  | .powerUpRequest d => decide (d < 32)
  | .powerUpComplete d => decide (d < 32)
  | .moduleResetAssert line => decide (line < 2)
  | .moduleResetRelease line => decide (line < 2)
  | .warmReset => true
  | .warmResetReload => true
  | .moduleUnseating => true
  | .moduleReseated => true
  | .moduleRemoval => true
  | .cageModuleInsert c => decide (c < 8)
  | .cageModuleReady c kind class_ => decide (c < 8) && decide (kind < 16) && decide (class_ < 256)
  | .cageModuleRemove c => decide (c < 8)
  | .cageRailFault c => decide (c < 8)
  | .exchangeLockLossTimeout P lane => decide (P < 24) && decide (lane < 256)
  | .networkPathLinkUp k => decide (k < 2)
  | .neighborReply k _ _ mac => decide (k < 2) && decide (mac < 281474976710656)
  | .refclkLost => true
  | .ppSerByteSent => true
  | .writeCreditReturn d _ => decide (d < 16)

end Sys2Proof
end

