-- ==== Sys2Proof/Tests/Slice0.lean ====
section
/-!
SUPPORT. The model's own tests: the commands the device refuses as ill-formed, the spec's worked examples on single
steps and single operations, and values that meet what each obligation supposes.
-/
namespace Sys2Proof.Tests

set_option maxRecDepth 4000
open Sys2Proof Sys2Proof.Machine Host.Outcome

/-- Each command has one number just past what the device has, and is refused. -/
theorem test_wf_refuses_0 : ([
    .registerWrite 9 0 0,
    .misalignedAccess 9 0 0,
    .undefinedOffsetAccess 9 0 false 0,
    .wideValueLowRead 9 0,
    .readToClear 9 0 0,
    .bwPeriodWrite 1048576,
    .controlShadowCommit 97,
    .recordComplete 262144,
    .recordTagTimeout 262144,
    .laneBlockReset 56,
    .portBlockReset 25,
    .pixelFoldBlockReset 8,
    .strGo 4 0,
    .strGo 0 16,
    .strCheck 4 0,
    .strCheck 0 16,
    .strProgram 4 0,
    .strProgram 0 16,
    .quiesceTimeout 97,
    .lanePowerRequest 56 0,
    .lanePowerRequest 0 4,
    .laneExitComplete 56 0 0 0,
    .laneExitComplete 0 4096 0 0,
    .laneExitComplete 0 0 64 0] : List Instr).all (fun c => !c.wf) = true := by decide

/-- Each command has one number just past what the device has, and is refused. -/
theorem test_wf_refuses_1 : ([
    .laneExitComplete 0 0 0 16777216,
    .laneExitTimeout 56,
    .cdrCoastTimeout 56,
    .densityWindowEnd 56 0 0 0,
    .densityWindowEnd 0 257 0 0,
    .freezeLimitExpire 56,
    .invalidHeader 56 0,
    .invalidHeader 0 1025,
    .blockLockAcquired 56 0,
    .blockLockAcquired 0 16777216,
    .blockLockLost 56,
    .slipWrite 56 0,
    .patternCheckerSync 56 0,
    .scanStart 56 0,
    .scanAbort 56,
    .scanComplete 56 0,
    .partnerDetect 24 [],
    .listenCandidateTimeout 24,
    .listenLimitExpire 24,
    .trainExit 24 [],
    .trainLimitExpire 24,
    .orderStep 24,
    .lockExit 24 0 0,
    .lockExit 0 0 3] : List Instr).all (fun c => !c.wf) = true := by decide

/-- Each command has one number just past what the device has, and is refused. -/
theorem test_wf_refuses_2 : ([
    .lockLimitExpire 24,
    .exchangeComplete 24 [],
    .exchangeLimitExpire 24,
    .partnerLost 24 0,
    .partnerLost 0 256,
    .restPoll 24 [],
    .retrain 24,
    .trainingBlock 48 0 false 0 0 0 false false,
    .trainingBlock 0 16 false 0 0 0 false false,
    .trainingBlock 0 0 false 4 0 0 false false,
    .trainingBlock 0 0 false 0 8 0 false false,
    .trainingBlock 0 0 false 0 0 4 false false,
    .capabilityBlock 24 false false [],
    .capabilityRepeat 24,
    .videoPacket 97 0 0 [] false false false,
    .videoPacket 0 65536 0 [] false false false,
    .controlReadResponse 24 0 0 [],
    .controlReadResponse 0 65536 0 [],
    .controlReadResponse 0 0 256 [],
    .controlWriteAck 24 0 0,
    .controlWriteAck 0 65536 0,
    .controlWriteAck 0 0 256,
    .controlRequestTimeout 24 0,
    .controlRequestTimeout 0 65536] : List Instr).all (fun c => !c.wf) = true := by decide

/-- Each command has one number just past what the device has, and is refused. -/
theorem test_wf_refuses_3 : ([
    .cameraEventPacket 24 0 0 0 0,
    .cameraEventPacket 0 65536 0 0 0,
    .cameraEventPacket 0 0 256 0 0,
    .cameraEventPacket 0 0 0 1099511627776 0,
    .heartbeatPacket 24,
    .probeTimer 24,
    .probeNow 24,
    .echoReceived 24 0 0 0,
    .echoReceived 0 256 0 0,
    .echoReceived 0 0 0 4294967296,
    .probeMiss 24 0,
    .probeMiss 0 256,
    .startOfFrame 97 0 0 0 0 false 0 false,
    .startOfFrame 0 65536 0 0 0 false 0 false,
    .startOfFrame 0 0 0 4294967296 0 false 0 false,
    .startOfFrame 0 0 0 0 4294967296 false 0 false,
    .startOfFrame 0 0 0 0 0 false 65536 false,
    .endOfFrame 97,
    .frameTimeout 97,
    .resendTimeout 97,
    .camChannelGo 9 0 0,
    .camChannelGo 0 24 0,
    .ppAlignAcquired 3,
    .ppAlignLost 3] : List Instr).all (fun c => !c.wf) = true := by decide

/-- Each command has one number just past what the device has, and is refused. -/
theorem test_wf_refuses_4 : ([
    .ppSerTxWrite 256,
    .ppSerRxRead 9,
    .ppSerByteReceived 256 false,
    .unitReady 97,
    .foldUnitStart 8,
    .foldUnitComplete 8,
    .throttleStepChange 8 0,
    .throttleStepChange 0 8,
    .contextCommitReq 9 0 0,
    .contextCommitReq 0 8 0,
    .contextCommitReq 0 0 256,
    .contextCommitCancel 9 0 0,
    .contextCommitCancel 0 8 0,
    .contextCommitCancel 0 0 256,
    .burstRearm 9 0,
    .burstRearm 0 97,
    .windowGraceExpire 16 0,
    .windowGraceExpire 0 97,
    .fgArm 9 0,
    .fgArm 0 16,
    .fgDisarm 9 0,
    .fgDisarm 0 16,
    .fgFreeze 9 0,
    .fgFreeze 0 16] : List Instr).all (fun c => !c.wf) = true := by decide

/-- Each command has one number just past what the device has, and is refused. -/
theorem test_wf_refuses_5 : ([
    .fgRearm 9 0,
    .fgRearm 0 16,
    .fgRelease 9 0 0,
    .fgRelease 0 16 0,
    .fgRelease 0 0 2,
    .freezeRequest 16 0 0,
    .freezeRequest 0 8 0,
    .frameFind 9,
    .bar4Read 9 0 0,
    .bar4Write 9 0 [],
    .penCfgWrite 9 0 0,
    .penCfgWrite 0 65536 0,
    .penPop 9 0 0,
    .penPop 0 65536 0,
    .penPop 0 0 33554432,
    .penPopComplete 65536,
    .penHostPush 9 0 0,
    .penHostPush 0 65536 0,
    .penHostPush 0 0 33554432,
    .penDrop 9 0,
    .penDrop 0 65536,
    .penClear 9 0,
    .penClear 0 65536,
    .hurdleInputChange 8 false] : List Instr).all (fun c => !c.wf) = true := by decide

/-- Each command has one number just past what the device has, and is refused. -/
theorem test_wf_refuses_6 : ([
    .channelStart 9 0 false,
    .channelStart 0 4096 false,
    .channelDisable 9 0,
    .channelDisable 0 4096,
    .channelReset 9 0,
    .channelReset 0 4096,
    .listEntryFetch 16,
    .entryComplete 16,
    .readCompletion 16 0 false [],
    .completionTimeout 16 false 0,
    .powerdownForceStop 4096,
    .linkUp 7 0 0,
    .linkUp 0 17 0,
    .linkUp 0 0 2,
    .linkRateChange 7 0 0,
    .linkRateChange 0 17 0,
    .linkRateChange 0 0 2,
    .pcieErrorLogged 3,
    .functionLevelReset 9,
    .flrComplete 9,
    .partitionCommit 16,
    .partitionRevert 16,
    .uploadUnknownOp false 256,
    .eventOccurrence 1024 0] : List Instr).all (fun c => !c.wf) = true := by decide

/-- Each command has one number just past what the device has, and is refused. -/
theorem test_wf_refuses_7 : ([
    .eventOccurrence 0 4294967296,
    .eventHoldoffExpire 9 0,
    .eventHoldoffExpire 0 1024,
    .eventEnable 9 0,
    .eventEnable 0 1024,
    .eventRaise 9 0,
    .eventRaise 0 1024,
    .msixUnmask 9 0,
    .msixUnmask 0 256,
    .incCommit 2 0,
    .incCommit 0 256,
    .adjustStart 2 0,
    .adjustStart 0 4294967296,
    .adjustEnd 2,
    .timeSet 2,
    .setOnPps 2,
    .restartServo 2,
    .catchupEnd 2,
    .joinStart 2,
    .ptpSync 2 0 0,
    .ptpAnnounce 2 0 0 [],
    .ptpAnnounce 0 128 0 [],
    .ptpAnnounce 0 0 3 [],
    .ptpDelayResponse 2 0] : List Instr).all (fun c => !c.wf) = true := by decide

/-- Each command has one number just past what the device has, and is refused. -/
theorem test_wf_refuses_8 : ([
    .ptpManagementGet 2 0 false,
    .ptpManagementGet 0 65536 false,
    .ptpMessageTransmit 2 0,
    .ptpMessageTransmit 0 3,
    .announceTimeout 2,
    .holdoverExpire 2,
    .refSelChange 2,
    .slotArm 64,
    .slotDisarm 64,
    .slotFire 64,
    .encoderCountEdge 4 false false 0,
    .encoderSet 4,
    .encoderSetOnIndex 4,
    .encoderAdjust 4,
    .cmpReset 4,
    .indexEvent 4 false 0,
    .lineFault 4 0 false,
    .lineFault 0 6 false,
    .hallStateChange 4 0 0,
    .hallStateChange 0 8 0,
    .speedStillTimeout 4,
    .cmpEntryWrite 4 0,
    .cmpTailWrite 4 0,
    .histSnapshotRead 4] : List Instr).all (fun c => !c.wf) = true := by decide

/-- Each command has one number just past what the device has, and is refused. -/
theorem test_wf_refuses_9 : ([
    .saRequestNow 4 false,
    .saTransferComplete 4 0 false false,
    .saTransferComplete 0 281474976710656 false false,
    .triggerInputEdge 8 false 0,
    .softwareTrigger 16777216,
    .channelPulse 24,
    .routeEdgeEmit 24 0,
    .routeEdgeEmit 0 6,
    .inbandSend 24,
    .exposureCommitReq 9 0,
    .exposureCommitReq 0 24,
    .exposureCommitCancel 9 0,
    .exposureCommitCancel 0 24,
    .exposureCommitApply 24,
    .cameraExposureWrite 24,
    .aiConvertNow 8,
    .conversionStart 8,
    .conversionComplete 8 0,
    .conversionComplete 0 262144,
    .rangeSettled 8,
    .sampleWordFlush 8,
    .calRunDue 4 0,
    .calRunDue 0 65536,
    .calRun 16] : List Instr).all (fun c => !c.wf) = true := by decide

/-- Each command has one number just past what the device has, and is refused. -/
theorem test_wf_refuses_10 : ([
    .calOverride 16,
    .calGapConversion 8 0,
    .calGapConversion 0 262144,
    .delayLineMeasure 25 [],
    .calRunComplete 4,
    .calDeadlineExpire 4,
    .arpRequest 2 false [],
    .icmpEchoRequest 2 false [] [],
    .pauseFrame 2 0,
    .pauseFrame 0 65536,
    .neighborResolveTimeout 64,
    .neighborAgeOut 64,
    .flowDatagramSend 64,
    .frameTransportRequest 2 0 0 0 false [] 0,
    .frameTransportRequest 0 256 0 0 false [] 0,
    .frameTransportRequest 0 0 18446744073709551616 0 false [] 0,
    .frameTransportRequest 0 0 0 65536 false [] 0,
    .frameTransportRequest 0 0 0 0 false [] 65536,
    .networkFreeze 2 false [] 0 false 0,
    .networkFreeze 0 false [] 65536 false 0,
    .remoteControl 2 false [] 0 0 0 0 0,
    .remoteControl 0 false [] 65536 0 0 0 0,
    .remoteControl 0 false [] 0 4294967296 0 0 0,
    .remoteControl 0 false [] 0 0 4294967296 0 0] : List Instr).all (fun c => !c.wf) = true := by decide

/-- Each command has one number just past what the device has, and is refused. -/
theorem test_wf_refuses_11 : ([
    .remoteControl 0 false [] 0 0 0 0 4294967296,
    .datagramDiscard 2,
    .flowRestart 64,
    .crookPulse 2 false,
    .crookSilence 2,
    .crookProbeReturn 2 false,
    .crookLoopCheckFail 2,
    .crookContention 2,
    .pathHealthLoss 2 false,
    .epochReceived 2 false,
    .mirrorStale 2,
    .spdmUnsupportedRequest false 256,
    .mctpSetEndpointId 256,
    .powerDownRequest 32,
    .powerDownComplete 32,
    .powerUpRequest 32,
    .powerUpComplete 32,
    .moduleResetAssert 2,
    .moduleResetRelease 2,
    .cageModuleInsert 8,
    .cageModuleReady 8 0 0,
    .cageModuleReady 0 16 0,
    .cageModuleReady 0 0 256,
    .cageModuleRemove 8] : List Instr).all (fun c => !c.wf) = true := by decide

/-- Each command has one number just past what the device has, and is refused. -/
theorem test_wf_refuses_12 : ([
    .cageRailFault 8,
    .exchangeLockLossTimeout 24 0,
    .exchangeLockLossTimeout 0 256,
    .networkPathLinkUp 2,
    .neighborReply 2 false [] 0,
    .neighborReply 0 false [] 281474976710656,
    .writeCreditReturn 16 0] : List Instr).all (fun c => !c.wf) = true := by decide

/-- Each command has every number at the last the device has, and is accepted. -/
theorem test_wf_accepts_0 : ([
    .registerWrite 8 0 0,
    .misalignedAccess 8 0 0,
    .undefinedOffsetAccess 8 0 false 0,
    .wideValueLowRead 8 0,
    .readToClear 8 0 0,
    .bwPeriodWrite 1048575,
    .controlShadowCommit 96,
    .recordComplete 262143,
    .recordTagTimeout 262143,
    .laneBlockReset 55,
    .portBlockReset 24,
    .pixelFoldBlockReset 7,
    .strGo 3 15,
    .strCheck 3 15,
    .strProgram 3 15,
    .quiesceTimeout 96,
    .lanePowerRequest 55 3,
    .laneExitComplete 55 4095 63 16777215,
    .laneExitTimeout 55,
    .cdrCoastTimeout 55,
    .densityWindowEnd 55 256 0 0,
    .freezeLimitExpire 55,
    .invalidHeader 55 1024,
    .blockLockAcquired 55 16777215] : List Instr).all (fun c => c.wf) = true := by decide

/-- Each command has every number at the last the device has, and is accepted. -/
theorem test_wf_accepts_1 : ([
    .blockLockLost 55,
    .slipWrite 55 0,
    .patternCheckerSync 55 0,
    .scanStart 55 0,
    .scanAbort 55,
    .scanComplete 55 0,
    .partnerDetect 23 [],
    .listenCandidateTimeout 23,
    .listenLimitExpire 23,
    .trainExit 23 [],
    .trainLimitExpire 23,
    .orderStep 23,
    .lockExit 23 0 2,
    .lockLimitExpire 23,
    .exchangeComplete 23 [],
    .exchangeLimitExpire 23,
    .partnerLost 23 255,
    .restPoll 23 [],
    .retrain 23,
    .trainingBlock 47 15 false 3 7 3 false false,
    .capabilityBlock 23 false false [],
    .capabilityRepeat 23,
    .videoPacket 96 65535 0 [] false false false,
    .controlReadResponse 23 65535 255 []] : List Instr).all (fun c => c.wf) = true := by decide

/-- Each command has every number at the last the device has, and is accepted. -/
theorem test_wf_accepts_2 : ([
    .controlWriteAck 23 65535 255,
    .controlRequestTimeout 23 65535,
    .cameraEventPacket 23 65535 255 1099511627775 0,
    .heartbeatPacket 23,
    .probeTimer 23,
    .probeNow 23,
    .echoReceived 23 255 0 4294967295,
    .probeMiss 23 255,
    .startOfFrame 96 65535 0 4294967295 4294967295 false 65535 false,
    .endOfFrame 96,
    .frameTimeout 96,
    .resendTimeout 96,
    .camChannelGo 8 23 0,
    .ppAlignAcquired 2,
    .ppAlignLost 2,
    .ppSerTxWrite 255,
    .ppSerRxRead 8,
    .ppSerByteReceived 255 false,
    .unitReady 96,
    .foldUnitStart 7,
    .foldUnitComplete 7,
    .throttleStepChange 7 7,
    .contextCommitReq 8 7 255,
    .contextCommitCancel 8 7 255] : List Instr).all (fun c => c.wf) = true := by decide

/-- Each command has every number at the last the device has, and is accepted. -/
theorem test_wf_accepts_3 : ([
    .burstRearm 8 96,
    .windowGraceExpire 15 96,
    .fgArm 8 15,
    .fgDisarm 8 15,
    .fgFreeze 8 15,
    .fgRearm 8 15,
    .fgRelease 8 15 1,
    .freezeRequest 15 7 0,
    .frameFind 8,
    .bar4Read 8 0 0,
    .bar4Write 8 0 [],
    .penCfgWrite 8 65535 0,
    .penPop 8 65535 33554431,
    .penPopComplete 65535,
    .penHostPush 8 65535 33554431,
    .penDrop 8 65535,
    .penClear 8 65535,
    .hurdleInputChange 7 false,
    .channelStart 8 4095 false,
    .channelDisable 8 4095,
    .channelReset 8 4095,
    .listEntryFetch 15,
    .entryComplete 15,
    .readCompletion 15 0 false []] : List Instr).all (fun c => c.wf) = true := by decide

/-- Each command has every number at the last the device has, and is accepted. -/
theorem test_wf_accepts_4 : ([
    .completionTimeout 15 false 0,
    .powerdownForceStop 4095,
    .linkUp 6 16 1,
    .linkRateChange 6 16 1,
    .pcieErrorLogged 2,
    .functionLevelReset 8,
    .flrComplete 8,
    .partitionCommit 15,
    .partitionRevert 15,
    .uploadUnknownOp false 255,
    .eventOccurrence 1023 4294967295,
    .eventHoldoffExpire 8 1023,
    .eventEnable 8 1023,
    .eventRaise 8 1023,
    .msixUnmask 8 255,
    .incCommit 1 255,
    .adjustStart 1 4294967295,
    .adjustEnd 1,
    .timeSet 1,
    .setOnPps 1,
    .restartServo 1,
    .catchupEnd 1,
    .joinStart 1,
    .ptpSync 1 0 0] : List Instr).all (fun c => c.wf) = true := by decide

/-- Each command has every number at the last the device has, and is accepted. -/
theorem test_wf_accepts_5 : ([
    .ptpAnnounce 1 127 2 [],
    .ptpDelayResponse 1 0,
    .ptpManagementGet 1 65535 false,
    .ptpMessageTransmit 1 2,
    .announceTimeout 1,
    .holdoverExpire 1,
    .refSelChange 1,
    .slotArm 63,
    .slotDisarm 63,
    .slotFire 63,
    .encoderCountEdge 3 false false 0,
    .encoderSet 3,
    .encoderSetOnIndex 3,
    .encoderAdjust 3,
    .cmpReset 3,
    .indexEvent 3 false 0,
    .lineFault 3 5 false,
    .hallStateChange 3 7 0,
    .speedStillTimeout 3,
    .cmpEntryWrite 3 0,
    .cmpTailWrite 3 0,
    .histSnapshotRead 3,
    .saRequestNow 3 false,
    .saTransferComplete 3 281474976710655 false false] : List Instr).all (fun c => c.wf) = true := by decide

/-- Each command has every number at the last the device has, and is accepted. -/
theorem test_wf_accepts_6 : ([
    .triggerInputEdge 7 false 0,
    .softwareTrigger 16777215,
    .channelPulse 23,
    .routeEdgeEmit 23 5,
    .inbandSend 23,
    .exposureCommitReq 8 23,
    .exposureCommitCancel 8 23,
    .exposureCommitApply 23,
    .cameraExposureWrite 23,
    .aiConvertNow 7,
    .conversionStart 7,
    .conversionComplete 7 262143,
    .rangeSettled 7,
    .sampleWordFlush 7,
    .calRunDue 3 65535,
    .calRun 15,
    .calOverride 15,
    .calGapConversion 7 262143,
    .delayLineMeasure 24 [],
    .calRunComplete 3,
    .calDeadlineExpire 3,
    .arpRequest 1 false [],
    .icmpEchoRequest 1 false [] [],
    .pauseFrame 1 65535] : List Instr).all (fun c => c.wf) = true := by decide

/-- Each command has every number at the last the device has, and is accepted. -/
theorem test_wf_accepts_7 : ([
    .neighborResolveTimeout 63,
    .neighborAgeOut 63,
    .flowDatagramSend 63,
    .frameTransportRequest 1 255 18446744073709551615 65535 false [] 65535,
    .networkFreeze 1 false [] 65535 false 0,
    .remoteControl 1 false [] 65535 4294967295 4294967295 0 4294967295,
    .datagramDiscard 1,
    .flowRestart 63,
    .crookPulse 1 false,
    .crookSilence 1,
    .crookProbeReturn 1 false,
    .crookLoopCheckFail 1,
    .crookContention 1,
    .pathHealthLoss 1 false,
    .epochReceived 1 false,
    .mirrorStale 1,
    .spdmUnsupportedRequest false 255,
    .mctpSetEndpointId 255,
    .powerDownRequest 31,
    .powerDownComplete 31,
    .powerUpRequest 31,
    .powerUpComplete 31,
    .moduleResetAssert 1,
    .moduleResetRelease 1] : List Instr).all (fun c => c.wf) = true := by decide

/-- Each command has every number at the last the device has, and is accepted. -/
theorem test_wf_accepts_8 : ([
    .cageModuleInsert 7,
    .cageModuleReady 7 15 255,
    .cageModuleRemove 7,
    .cageRailFault 7,
    .exchangeLockLossTimeout 23 255,
    .networkPathLinkUp 1,
    .neighborReply 1 false [] 281474976710655,
    .writeCreditReturn 15 0] : List Instr).all (fun c => c.wf) = true := by decide

/-- A state with fields set, one after another. -/
def fields (l : List (FRef × Nat)) (s : State := State.reset) : State := l.foldl (fun s e => s.wr e.1 e.2) s

/-- A frame of stream 9, placed on context 5 of fold 2, with units ready. -/
def aJob (ready : List (Nat × Nat)) : Job := { slot := 7, seq := 1, stream := 9, fold := 2, ctx := 5, bank := {}, cgen := 0, restart := 0, ready := ready }
def framed (ready : List (Nat × Nat)) (l : List (FRef × Nat)) : State :=
  let s : State := { fields l with streams := [⟨9, 2, 0, 0, 0, 0, 0, 64, 64, 0, 4, 0, 0, 0, 0, 5⟩] }
  (State.keepRecord { stream := 9, slot := 7, seq := 1, state := 2 } s).updCtx (State.ctxKey (2, 5)) fun x => { x with jobs := [aJob ready] }
/-- Port 1 on lanes 5 and 6 under an image, its link in a state, its standard as given. -/
def ported (st : Nat) (standard : Nat := 3) (l : List (FRef × Nat) := []) : State :=
  let im : Image := { serial := 0, factory := false, digest := [], ports := [⟨1, 0, 5, 2, standard, 0, 1, true, 0⟩], folds := [], streams := none, parts := [], freezes := [], presets := [] }
  let s := fields ((PT_LINK_STATUS_STATE 1, st) :: l)
  State.setPort { s with struct := { s.struct with image := some im } } 1 { lanes := [5, 6], standard := standard, rate := 4 }
/-- Port 2 Active on CoaXPress with two streams, stream 9 enabled, the recovery scan over. -/
def streaming (l : List (FRef × Nat)) : State :=
  fields ([(PT_LINK_STATUS_STATE 2, 5), (PT_LINK_STATUS_STANDARD 2, 1), (PT_LINK_STATUS_STREAMS 2, 2), (ST_CTRL_ENABLE 2 1, 1),
    (PD_STATUS_SCAN, 2), (PD_STATUS_SELF_REFRESH, 0), (FH_CONTROL_HALT (PT_HDR 2), 0)] ++ l)
/-- A frame of stream 9 of eight lines of 64 bytes, with failed packets. -/
def anOpen (bad : List BadPacket) : Open := { slot := none, height := 8, lineLen := 64, fill := [], bad := bad }
def opened (bad : List BadPacket) (l : List (FRef × Nat)) : State :=
  (streaming l).updStrm 9 fun x => { x with frame := some (anOpen bad) }
/-- Path 0 holds the crook, its own pulse just back, with flow 3 in Push and a marker due where named. -/
def networked (l : List (FRef × Nat)) (m : Option (Nat × Nat × Nat) := none) : State :=
  let s := (fields ((NPP_STATUS_ROLE 0, 5) :: l)).updPath 0 fun x => { x with returned := some 0 }
  s.updFlow 3 fun x => { x with marker := m }
/-- An activation of the factory image from slot A in a stage, the shepherd running. -/
def activating (stage : Stage) (l : List (FRef × Nat) := []) : State :=
  let s := fields ((SH_STATUS_STATE, 1) :: l)
  { s with struct := { s.struct with stage := stage, next := some (1, factoryImage) } }

/-! The spec's worked examples, and published check values. -/

/-- Line 0 of the worked lines of 09, an encoder without history: 2,050 to 2,075. -/
def line0 : List Nat :=
  [2050, 2053, 2049, 2060, 2058, 2061, 2070, 2065, 2066, 2068, 2071, 2069, 2072, 2080, 2078, 2075]
def line1 : List Nat :=
  [2052, 2055, 2051, 2058, 2059, 2063, 2068, 2066, 2069, 2500, 2073, 2070, 2074, 2079, 2077, 2076]
def bytes0 : List Nat :=
  [0x00, 0x00, 0x13, 0x00, 0x0C, 0x05, 0x10, 0x00, 0x42, 0x18, 0xF3, 0x0C, 0xD1, 0x24, 0x44, 0x30, 0xCD, 0x00, 0xCA]
def stream1 : List Nat :=
  [0x34, 0x40, 0x32, 0x43, 0x26, 0xFF, 0xFF, 0xFF, 0xFF, 0x9C, 0x4F, 0xFF, 0xFF, 0xFF, 0xF8, 0x19, 0x14, 0x11, 0x20]

/-- 09, worked lines, line 0: its 19 bytes, and the block leaves A = 120 and N = 16. -/
theorem test_coder_line0 :
    let r := encodeLine none 12 1 0 true false false false none line0
    r.1.map (·.toNat) = bytes0 ∧ r.2.hist = some (120, 16) := by decide +kernel
/-- 09, worked lines, line 1: k = 3, two escapes, LENGTH 27, BO 12, no flags, WIDTH 16. -/
theorem test_coder_line1 :
    (encodeLine (some (120, 16)) 12 1 1 false false false false (some line0) line1).1.map (·.toNat)
      = [0x01, 0x00, 0x1B, 0x00, 0x0C, 0x00, 0x10, 0x00] ++ stream1 := by decide +kernel
theorem test_coder_reads_line0 : decodeLine 1 none (bytes0.map (BitVec.ofNat 8)) = line0 := by decide +kernel
theorem test_coder_reads_line1 :
    decodeLine 1 (some line0) (([0x01, 0x00, 0x1B, 0x00, 0x0C, 0x00, 0x10, 0x00] ++ stream1).map (BitVec.ofNat 8))
      = line1 := by decide +kernel

/-- 07, worked correction: offset 243, filter 62,136, black level 1,500 and 1,507, defect 1,504, gain 4,764,
shading 1,745, Mono8 109. -/
theorem test_correction_offset : planeOffset { dark := true } false [62080] 0 = 243 := by decide +kernel
theorem test_correction_filter : darkUpdate 3 62080 8003584 (8 * 4096) = 62136 := by decide +kernel
theorem test_correction_black :
    (blackRow { dark := true, col := true, pedestal := 64 } ⟨12, 12, false⟩ [65533, 0, 2] false [62080] 70
      [1676, 0, 1688]).1 = [1500, 0, 1507] := by decide +kernel
theorem test_correction_defect :
    (defectRow { defect := true } ⟨12, 12, false⟩ [⟨70, 1, 0, 0⟩] { y0 := 70, rows := [[1500, 0, 1507]] } 70
      [1500, 0, 1507]).1 = [1500, 1504, 1507] := by decide +kernel
theorem test_correction_gain :
    shadeGain { sx := 6, sy := 6, nx := 3, ny := 3 } [0, 0, 0, 0, 0x1200, 0x1300, 0, 0x1280, 0x1380] 0 100 70 = 4764 := by
  decide +kernel
theorem test_correction_output : (rnd (1500 * 4764) 12 = 1745) ∧ convertDepth 12 8 1745 = 109 := by decide +kernel

/-- 05, worked latency and placement: the block's eight bytes, and 16's start block. -/
theorem test_trigger_block : (State.triggerBlock 2 true 2618092749).map (·.toNat)
    = [0x66, 0x02, 0xCD, 0xEC, 0x0C, 0x9C, 0x00, 0x8F] := by decide +kernel
theorem test_trigger_block_alignment : (State.triggerBlock 0 true 318694556).map (·.toNat)
    = [0x66, 0x00, 0x9C, 0xE4, 0xFE, 0x12, 0x00, 0xA8] := by decide +kernel
theorem test_one_way : State.halfEven 176922 = 88461 := by decide
/-- 05: the increment 1.2500025 ns, d = 88,461 units at 28.125 Gbaud and SENSOR_OFFSET 1,850 ps give DELAY. -/
def latencyState (inc oneWay : Nat) : State :=
  let s := fields [(PT_LINK_STATUS_RATE 5, 4), (PT_TV_SENSOR_OFFSET_PICOSECONDS 5, 1850), (PT_TV_ONEWAY_UNITS 5, oneWay),
    (PT_LINK_STATUS_STANDARD 5, 3)]
  { s with tb := { s.tb with tda := { s.tb.tda with base := inc } } }
theorem test_block_delay : (latencyState 5368719858 88461).blockDelay 5 (Time.ofNs 40000) 0 = 2618092749 := by
  decide +kernel
/-- 06, worked exposure times: START_AGE and END_AGE back to the instants, to the nearest 2^-16 ns. -/
theorem test_exposure_ages :
    let a := Time.ofNs 412785113 + 0xC000
    (latencyState 5368719858 88461).ageTime 5 1427200 a = Time.ofNs 412762764 + 36720
      ∧ (latencyState 5368719858 88461).ageTime 5 787200 a = Time.ofNs 412772764 + 38031 := by decide +kernel

/-- 17, worked analogue run: GAIN 4,193,402 and OFFSET 3,917 from means of ten samples. -/
theorem test_analog_run :
    let l : List (Int × Nat) := [(0, 10), (656113, 10), (-654889, 10), (0, 10)]
    runGain l 10 5000000 0 = 4193402 ∧ runOffset l 10 0 = 3917 := by decide +kernel
/-- 17: a raw 65,611 becomes 65,536. -/
theorem test_analog_calibrated : calibrated 3917 4193402 65611 = (65536, false) := by decide +kernel

/-- The check value of CRC-32C for the nine digits (R44). -/
theorem test_crc_digits : crc32c (([0x31, 0x32, 0x33, 0x34, 0x35, 0x36, 0x37, 0x38, 0x39] : List Nat).map (BitVec.ofNat 8))
    = 0xE3069283#32 := by decide +kernel
/-- The published SHA-384 of the three letters abc (R45). -/
theorem test_sha_abc : beWord (sha384 [0x61#8, 0x62#8, 0x63#8])
    = 0xCB00753F45A35E8BB5A03D699AC65007272C32AB0EDED1631A8B605A43FF5BED8086072BA1E7CC2358BAECA134C825A7 := by
  decide +kernel

/-- Values that meet what `Obligations.StepRunsFront` supposes. -/
theorem wit_StepRunsFront : State.reset.pending = [] ∧ State.reset.coreRuns = false := by decide

/-- Values that meet what `Obligations.TimeNeverFalls` supposes. -/
theorem wit_TimeNeverFalls : State.reset.tb.Follows ∧
    (∀ c ∈ State.reset.pending.head?, (∀ mv, c ≠ .coldReset mv) ∧ c ≠ .v12Loss ∧ (∀ mv, c ≠ .v12RangeChange mv)
      ∧ (∀ l, c ≠ .moduleResetRelease l) ∧ (∀ l, c ≠ .thermalSample l) ∧ c ≠ .moduleRemoval)
    ∧ ∃ t, step State.reset = .next t := by
  refine ⟨fun _ => rfl, fun c h => ?_, _, rfl⟩
  cases h

/-- Values that meet what `Obligations.TimeSetApplies` supposes. -/
theorem wit_TimeSetApplies :
    let s := State.reset
    let u := (s.updCounter 0 fun c => { c with setOnPps := none }).advance 1
    65536 * s.rdTime (TD_SET 0) < (u.tb.counter 0).val := by decide

/-- Values that meet what `Obligations.JoinOutcomes` supposes. -/
theorem wit_JoinOutcomes : State.reset.rd TB_CTRL_SEL = 0 ∧
    (let u := (State.reset.wr TB_CTRL_SEL 1).advance 1
     let g : Int := ((u.tb.counter 1).val : Int) - (u.tb.dev : Int)
     0 ≤ g ∧ g ≤ ns32 (u.rd TB_JOIN_LIMIT_VALUE)) := by decide

/-- A state whose time base is at a chosen join. -/
def joining (j : Join) : State := { State.reset with tb := { dev := 4294967296, tda := { val := 4294967296 }, join := j, target := 1 } }

/-- Values that meet what `Obligations.JoinEnds` supposes. -/
theorem wit_JoinEnds : ((joining .catchUp).tb.join = .catchUp ∧ 0 < ((joining .catchUp).tb.counter 1).base) ∧
    (joining .wait).tb.join = .wait ∧ ((joining .wait).advance 1).tb.dev > (((joining .wait).advance 1).tb.counter 1).val ∧
    (joining .follow).tb.join = .follow := by decide

/-- Values that meet what `Obligations.ServoCommands` supposes. -/
theorem wit_ServoCommands :
    (let s := (fields [(TD_PTP_CFG_ROLE 1, 1), (TD_PTP_CFG_TRANSPORT 1, 3), (TD_STATUS_STATE 1, 2)]).updServo 1 fun v =>
      { v with master := some [1, 2, 3, 4, 5, 6], delay := some 3, history := some (0, 0) }
    s.rd (TD_PTP_CFG_ROLE 1) ≠ 0 ∧ (s.servo 1).master = some [1, 2, 3, 4, 5, 6] ∧ s.rd (TD_STATUS_STATE 1) = 2
      ∧ State.gmOf [1, 2, 3, 4, 5, 6] = 6 ∧ (s.servo 1).delay = some 3 ∧ (s.servo 1).history = some (0, 0)
      ∧ ((s.tb.counter 1).val : Int) - 0 - (s.servo 1).stepped ≤ 0) ∧
    (fields [(TD_STATUS_STATE 0, 3)]).rd (TD_STATUS_STATE 0) = 3 ∧ (fields [(TD_STATUS_STATE 0, 4)]).rd (TD_STATUS_STATE 0) = 4 ∧
    (let s := fields [(TD_PTP_CFG_ROLE 0, 1), (TD_PTP_CFG_TRANSPORT 0, 3), (TD_PTP_CFG_DOMAIN 0, 5)]
    s.rd (TD_PTP_CFG_ROLE 0) = 1 ∧ s.rd (TD_PTP_CFG_TRANSPORT 0) = 3 ∧ s.rd (TD_PTP_CFG_DOMAIN_AUTO 0) = 0
      ∧ s.rd (TD_PTP_CFG_DOMAIN 0) = 5 ∧ (s.servo 0).master = none) := by decide

/-- Values that meet what `Obligations.PpsAndReference` supposes. -/
theorem wit_PpsAndReference : State.reset.gmRuns = false ∧ (State.reset.wrTime TB_PPS_IN State.reset.now).gmRuns = false
    ∧ State.reset.tb.tda.setOnPps = none ∧ State.reset.tb.tdb.setOnPps = none ∧ State.reset.rd TB_CTRL_REF_SEL = 0
    ∧ (fields [(TB_PPS_OUT_ENABLE, 1)]).rd TB_PPS_OUT_ENABLE = 1 := by decide

/-- Values that meet what `Obligations.SlotCommands` supposes. -/
theorem wit_SlotCommands : (State.reset.slot 0).armed = false ∧ ((State.reset.slotArm 0).slot 0).armed = true := by decide

/-- Values that meet what `Obligations.TickPeriod` supposes. -/
theorem wit_TickPeriod : (1000000 < 1000001) ∧ (100 ≤ 200 ∧ 1000000000 % 200 = 0 ∧ 200 ≠ State.reset.bw.period)
    ∧ (State.reset.bwPeriod 0 200).bw.pendingPeriod = some 200 ∧ State.reset.bw.pendingPeriod = none := by decide

/-- Values that meet what `Obligations.EventOccurs` supposes. -/
theorem wit_EventOccurs : State.reset.seers 800 = [0] ∧ State.reset.fab.queue = [] ∧ State.reset.rd (EV_CFG_ENABLE 0 800) = 0
    ∧ ((State.reset.fab.tally (EV_TALLY_COUNT 0 800)).wr (EV_STATUS_PENDING 0 800) 1).rd (EV_CFG_ENABLE 0 800) = 0 := by decide

/-- Values that meet what `Obligations.EventCommands` supposes. -/
theorem wit_EventCommands :
    (let s := fields [(EV_CFG_ENABLE 0 800, 1), (EV_STATUS_UNDELIVERED 0 800, 3)]
    s.rd (EV_CFG_ENABLE 0 800) = 1 ∧ 0 < s.rd (EV_STATUS_UNDELIVERED 0 800) ∧ s.sees 0 800 = true) ∧
    State.reset.rd (EV_STATUS_UNDELIVERED 0 800) = 0 ∧ State.reset.sees 3 800 = false ∧
    (let pba : FRef := ⟨MSIX_PBA 0 1, 2, 2⟩
    ((fields [(pba, 1)]).wr (MSIX_CTRL_MASK 0 34) 0).rd pba = 1 ∧ ((fields []).wr (MSIX_CTRL_MASK 0 34) 0).rd pba = 0) := by
  decide

/-- Values that meet what `Obligations.HostLinkCommands` supposes. -/
theorem wit_HostLinkCommands : State.reset.rd HI_LINK_STATUS_UP = 0 ∧
    (State.reset.tally HI_RECOVERY_TALLY_COUNT).rd HI_LINK_STATUS_UP = 0 ∧
    (let s := fields [(HI_LINK_STATUS_UP, 1)]
    s.rd HI_LINK_STATUS_UP = 1 ∧ (s.tally HI_RECOVERY_TALLY_COUNT).rd HI_LINK_STATUS_UP = 1
      ∧ (s.tally HI_CORR_TALLY_COUNT).rd HI_LINK_STATUS_UP = 1 ∧ (s.tally HI_UNCORR_TALLY_COUNT).rd HI_LINK_STATUS_UP = 1
      ∧ s.rd HI_LINK_STATUS_RATE ≠ 6) := by decide

/-- Values that meet what `Obligations.RegisterAccess` supposes. -/
theorem wit_RegisterAccess : State.inBar 0 16 = true ∧ State.inBar 3 0x1400000 = false ∧ State.inBar 0 6 = true
    ∧ State.reset.defined 0xFFC = false ∧ State.inBar 0 0xFFC = true
    ∧ (∃ r, regAt TB_TIME = some r ∧ r.words > 1 ∧ r.word = 0) ∧ State.inBar 0 TB_TIME = true
    ∧ (∃ r, regAt (GLB_ACCERR_TALLY 0) = some r ∧ State.RegDef.readClears r = true) := by
  refine ⟨by decide, by decide, by decide, by decide, by decide, ⟨_, rfl, by decide, by decide⟩, by decide, ⟨_, rfl, by decide⟩⟩

/-- Values that meet what `Obligations.TallySaturates` supposes. -/
theorem wit_TallySaturates : (GLB_ACCERR_TALLY_COUNT 0).lo ≤ (GLB_ACCERR_TALLY_COUNT 0).hi ∧ (GLB_ACCERR_TALLY_COUNT 0).hi < 32
    ∧ (let f := HI_DOWN_TALLY_COUNT
      (fields [(f, 2 ^ (f.hi + 1 - f.lo) - 1)]).rd f = 2 ^ (f.hi + 1 - f.lo) - 1) := by decide

/-- Values that meet what `Obligations.FieldAccess` supposes. -/
theorem wit_FieldAccess : ∃ r, regAt GLB_RESET = some r := ⟨_, rfl⟩

/-- Values that meet what `Obligations.PartitionCommands` supposes. -/
theorem wit_PartitionCommands :
    (State.putWord 0 HI_PART_CMD (BitVec.ofNat 32 (2 ^ 31 + 256)) (fields [(HI_PART_CMD_BUSY, 1)])).rd HI_PART_CMD_BUSY = 1
    ∧ (let u := State.putWord 0 HI_PART_CMD (BitVec.ofNat 32 (2 ^ 31 + 256)) State.reset
      u.rd HI_PART_CMD_BUSY = 0 ∧ u.struct.stage.active = false)
    ∧ State.reset.committing = none ∧ ({ State.reset with committing := some { fn := 1 } } : State).committing = some { fn := 1 }
    ∧ (fields [(GLB_RESET_BUSY, 1)]).scopeWaits = true ∧ State.reset.scopeWaits = false
    ∧ State.reset.flrOpen.contains 1 = false ∧ State.reset.flrDue.contains 1 = false := by decide

/-- Values that meet what `Obligations.PenConfiguration` supposes. -/
theorem wit_PenConfiguration : State.reset.owner 7 ≠ 3 ∧ State.reset.owner 7 = 0
    ∧ (let s := fields [(PN_CFG_ENABLE 7, 1), (PN_CFG_SIZE_LOG2 7, 5)]
      s.rd (PN_CFG_ENABLE 7) = 1 ∧ bitsOf 6#32 4 0 ≠ s.rd (PN_CFG_SIZE_LOG2 7))
    ∧ (let u := State.putWord 0 (PN_CFG 7) 0x80000005#32 State.reset
      u.rd (PN_CFG_ENABLE 7) = 1 ∧ u.ringsOk 7 (u.rd (PN_CFG_SIZE_LOG2 7)) = false)
    ∧ (State.putWord 0 (PN_CFG 7) 5#32 State.reset).rd (PN_CFG_ENABLE 7) = 0
    ∧ State.reset.rd ⟨HU_IN, 3, 3⟩ = 0 ∧ State.reset.rd ⟨HU_IN, 3, 3⟩ ≠ 1 := by decide

/-- Values that meet what `Obligations.PenPops` supposes. -/
theorem wit_PenPops :
    (let s := fields [(PN_CFG_ENABLE 7, 1), (PN_LEVEL_VALUE 7, 3), (PN_RD_VALUE 7, 2)]
     s.owner 7 = 0 ∧ s.rd (PN_CFG_ENABLE 7) ≠ 0 ∧ 4 > s.rd (PN_LEVEL_VALUE 7) ∧ ¬ 3 > s.rd (PN_LEVEL_VALUE 7)
      ∧ s.rd (PN_STATUS_BUSY 7) ≠ 1 ∧ s.rd (PN_EXPECT_CHECK 7) ≠ 1 ∧ s.rd (PN_EXPECT_POINTER 7) ≠ s.rd (PN_RD_VALUE 7)
      ∧ s.penPops 7 = 0 ∧ (s.setPenPops 7 2).penPops 7 ≠ 0)
    ∧ (fields [(PN_STATUS_BUSY 7, 1)]).rd (PN_STATUS_BUSY 7) = 1 ∧ (fields [(PN_EXPECT_CHECK 7, 1)]).rd (PN_EXPECT_CHECK 7) = 1 := by decide

/-- Values that meet what `Obligations.PenPushDropClear` supposes. -/
theorem wit_PenPushDropClear : State.reset.owner 7 ≠ 3 ∧ State.reset.owner 7 = 0
    ∧ (let s := fields [(PN_CFG_ENABLE 7, 1), (PN_CFG_POLICY 7, 1), (PN_CFG_SIZE_LOG2 7, 4), (PN_LEVEL_VALUE 7, 15)]
      s.rd (PN_CFG_ENABLE 7) = 1 ∧ penHasRoom s.fab 7 2 = false ∧ penHasRoom s.fab 7 1 = true ∧ s.rd (PN_LEVEL_VALUE 7) ≠ 0)
    ∧ State.reset.rd (PN_LEVEL_VALUE 7) = 0 ∧ State.reset.rd (PN_STATUS_MIDPKT 7) = 0 := by decide

/-- Values that meet what `Obligations.ChannelCommands` supposes. -/
theorem wit_ChannelCommands :
    (let u := State.putWord 0 (CH_CTRL 0 5) 0x80000001#32 State.reset
     u.rd (CH_CTRL_ENABLE 0 5) = 1 ∧ u.penForChannel 5 = false)
    ∧ (let u := State.putWord 0 (CH_CTRL 0 5) 0x80000001#32 (fields [(CH_CFG_KIND 0 5, 2)])
      u.rd (CH_CTRL_ENABLE 0 5) ≠ 0 ∧ u.chKind 5 ≠ 3 ∧ u.penForChannel 5 = true ∧ u.chState 5 = 0)
    ∧ (let u := State.putWord 0 (CH_CTRL 0 5) 0x80000001#32 (fields [(CH_CFG_KIND 0 5, 2), (CH_STATUS_STATE 0 5, 6), (CH_STATUS_STOP_CAUSE 0 5, 2)])
      u.rd (CH_CTRL_ENABLE 0 5) ≠ 0 ∧ u.chKind 5 ≠ 3 ∧ u.penForChannel 5 = true ∧ u.chState 5 = 6 ∧ u.rd (CH_STATUS_STOP_CAUSE 0 5) = 2)
    ∧ State.reset.mayChannel 0 5 = true ∧ State.reset.chOwner 5 ≠ 3 ∧ (fields [(CH_CTRL_ENABLE 0 5, 1)]).rd (CH_CTRL_ENABLE 0 5) = 1
    ∧ (let s := State.setChan (fields [(CH_STATUS_STATE 0 5, 2)]) 5 { drain := true }
      (s.chan 5).drain = true ∧ s.chBusy 5 = true) ∧ (State.reset.chan 5).drain = false := by decide

/-- Values that meet what `Obligations.DroverWork` supposes. -/
theorem wit_DroverWork : (State.reset.drover 2).serving = none
    ∧ (let s := State.setDrover State.reset 2 { serving := some 517 }
      (s.drover 2).serving = some 517 ∧ (s.chan 517).entry = none ∧ s.fetching 517 = false ∧ s.chThrottled 517 = false
        ∧ (s.drover 2).reads.length < 256 ∧ (s.chan 517).nextPd = false)
    ∧ (let s := (State.setDrover State.reset 2 { serving := some 517 }).setChan 517 { nextPd := true, next := 0x10000000 }
      let u := (s.wrWide (CH_CUR 2 5) 2 0x10000000).updChan 517 fun y => { y with curPd := true }
      (s.chan 517).nextPd = true ∧ u.spanOk (s.chOwner 517) 0x10000000 16 false = true
        ∧ u.spanOk (s.chOwner 517) 0x10000000 16 true = true)
    ∧ (let s := (State.setDrover State.reset 2 { serving := some 517 }).setChan 517 { nextPd := true, next := 0x7FFFFFFFFFFF0 }
      let u := (s.wrWide (CH_CUR 2 5) 2 0x7FFFFFFFFFFF0).updChan 517 fun y => { y with curPd := true }
      u.spanOk (s.chOwner 517) 0x7FFFFFFFFFFF0 16 true = false) := by decide
/-- Values that meet what `Obligations.DroverWork` supposes. -/
theorem wit_DroverWork_done :
    (let e : ListEntry := { addr := 0, len := 64, ctl := 0, moved := 64, asked := 64 }
     let v := State.moves 2 ((State.setDrover State.reset 2 { serving := some 517 }).setChan 517 { entry := some e })
     (v.drover 2).serving = some 517 ∧ (v.chan 517).entry = some e ∧ v.entryDone 517 e = true)
    ∧ (let e : ListEntry := { addr := 0, len := 64, ctl := 0 }
     let v := State.moves 2 ((State.setDrover State.reset 2 { serving := some 517 }).setChan 517 { entry := some e })
     (v.drover 2).serving = some 517 ∧ (v.chan 517).entry = some e ∧ v.entryDone 517 e = false) := by decide
/-- Values that meet what `Obligations.DroverWork` supposes. -/
theorem wit_DroverWork_reads :
    (let s := State.setDrover State.reset 2 { reads := [{ tag := 4, ch := 5, list := true, off := 0, len := 16 },
      { tag := 6, ch := 5, list := false, off := 0, len := 16, state := 1 }, { tag := 7, ch := 5, list := false, off := 0, len := 16, state := 2 },
      { tag := 8, ch := 5, list := false, off := 0, len := 16 }] }
     (s.drover 2).reads.find? (fun r => r.tag == 3) = none ∧ (s.drover 2).reads.find? (fun r => r.tag == 3 && r.state == 0) = none
      ∧ ((s.drover 2).reads.find? (fun r => r.tag == 4)).any (fun r => r.state == 0 && r.list && r.len == 16) = true
      ∧ ((s.drover 2).reads.find? (fun r => r.tag == 6)).any (fun r => r.state == 1) = true
      ∧ ((s.drover 2).reads.find? (fun r => r.tag == 7)).any (fun r => r.state == 2) = true
      ∧ ((s.drover 2).reads.find? (fun r => r.tag == 4 && r.state == 0)).any (·.list) = true
      ∧ ((s.drover 2).reads.find? (fun r => r.tag == 8 && r.state == 0)).any (!·.list) = true) := by decide

/-- Values that meet what `Obligations.RecordsComplete` supposes. -/
theorem wit_RecordsComplete : State.reset.record 5 = none
    ∧ (let s := State.keepRecord { stream := 9, slot := 5, state := 2 } State.reset
      (s.record 5).any (fun r => r.state == 2 && !s.tagsCover r.mid) = true)
    ∧ (let s := State.keepRecord { stream := 9, slot := 5, state := 3 } State.reset; (s.record 5).any (fun r => r.state != 2) = true)
    ∧ (let s : State := { State.reset with bw := { State.reset.bw with count := 1, next := 2 ^ 60, queue := [] } }
      s.tagsCover 0 = true) := by decide

/-- Values that meet what `Obligations.FreezeCommands` supposes. -/
theorem wit_FreezeCommands : State.reset.mayGroup 3 2 = false ∧ State.reset.mayGroup 0 2 = true
    ∧ State.reset.fgState 2 = 0 ∧ (fields [(PD_FG_STATUS_STATE 2, 1)]).fgState 2 = 1
    ∧ (fields [(PD_FG_STATUS_STATE 2, 2)]).fgState 2 = 2
    ∧ State.reset.quiesced = false ∧ State.reset.rd (PD_FG_CFG_USE_TIME 2) = 0
    ∧ (fields [(PD_FG_CFG_USE_TIME 2, 1)]).rd (PD_FG_CFG_USE_TIME 2) = 1
    ∧ State.reset.rdTime (PD_FG_SW_TIME 2) ≤ State.reset.now
    ∧ (let s := (fields [(PD_FG_CFG_USE_TIME 2, 1)]).wrTime (PD_FG_SW_TIME 2) 6553600000
      s.rd (PD_FG_CFG_USE_TIME 2) = 1 ∧ s.now < s.rdTime (PD_FG_SW_TIME 2) ∧ s.quiesced = false)
    ∧ (let s : State := { State.reset with struct := { State.reset.struct with rollbackDue := some 1 } }; s.quiesced = true)
    ∧ (State.reset.group 2).armedAt ≤ 7
    ∧ (let s := fields [(PD_FG_STATUS_STATE 2, 2), (State.memberRef 2 9, 1)]
      s.fgState 2 = 2 ∧ s.isMember 2 9 = true ∧ (s.win 2 (s.fgRegion 2) 9).closed = false)
    ∧ (fields [(PD_ST_CTRL_MODE 9, 2)]).rd (PD_ST_CTRL_MODE 9) = 2
    ∧ (fields [(PD_ST_CTRL_MODE 9, 2)]).groupOf 9 = none := by decide

/-- Values that meet what `Obligations.FreezeHolds` supposes. -/
theorem wit_FreezeHolds : State.reset.mayGroup 3 2 = false ∧ State.reset.mayGroup 0 2 = true ∧ State.reset.fgState 2 ≠ 3
    ∧ (let s := fields [(PD_FG_STATUS_STATE 2, 3)]
      s.fgState 2 = 3 ∧ (s.group 2).switch = [] ∧ s.rd (State.heldRef 2 1) ≠ 1 ∧ s.members 2 = [])
    ∧ (let s := fields [(PD_FG_STATUS_STATE 2, 3), (PD_FG_STATUS_HELD_B 2, 1)]; s.rd (State.heldRef 2 1) = 1)
    ∧ (let s := fields [(PD_FG_STATUS_STATE 2, 3), (State.memberRef 2 9, 1), (PD_ST_REGION_B_FIRST_PAGES 9, 5000), (PD_ST_REGION_B_PAGES_PAGES 9, 8)]
      s.rd (State.heldRef 2 1) = 0 ∧ s.members 2 = [9] ∧ s.regionBOk 9 = true) := by decide

/-- Values that meet what `Obligations.RecoveryScan` supposes. -/
theorem wit_RecoveryScan : (fields [(PD_STATUS_SCAN, 1)]).rd PD_STATUS_SCAN = 1
    ∧ (fields [(PD_STATUS_SCAN, 2)]).rd PD_STATUS_SCAN ≠ 1 ∧ State.reset.flrDue = [] := by decide

/-- Values that meet what `Obligations.UnitsOfFrames` supposes. -/
theorem wit_UnitsOfFrames : State.reset.homeOf 9 = none ∧ State.reset.foldFree 2 = false ∧ State.reset.pickUnit 2 = none
    ∧ (State.reset.fold 2).unit = none := by decide

/-- Values that meet what `Obligations.UnitsOfFrames` supposes. -/
theorem wit_UnitsOfFrames_ready : let s := framed [] []; let h := (2, 5); let j := aJob []
    s.homeOf 9 = some h ∧ (s.ctx (State.ctxKey h)).jobs.find? (fun j => (s.nextUnit j).isSome) = some j
      ∧ s.nextUnit j = some (0, 0, true) := by decide
/-- Values that meet what `Obligations.UnitsOfFrames` supposes. -/
theorem wit_UnitsOfFrames_start : let s := framed [(0, 0)] [(⟨GLB_PWR_STATUS, 18, 18⟩, 1), (FH_CONTROL_ENABLE (foldHead 2), 1), (FH_CONTROL_HALT (foldHead 2), 0)]
    let h := (2, 5); let j := aJob [(0, 0)]
    s.foldFree 2 = true ∧ s.pickUnit 2 = some (h, j) ∧ s.jobIntact j = true ∧ j.ready = (0, 0) :: [] := by decide
/-- Values that meet what `Obligations.UnitsOfFrames` supposes. -/
theorem wit_UnitsOfFrames_done :
    let a := State.setFold (framed [] []) 2 { unit := some (State.ctxKey (2, 5), 7, 0, 0), computed := true }
    let b := State.pushOut 2 ((a.fold 2).out.length + 1) a
    let v := State.setFold b 2 {}
    (b.fold 2).out = [] ∧ (b.fold 2).unit = some (State.ctxKey (2, 5), 7, 0, 0)
      ∧ (v.ctx (State.ctxKey (2, 5))).jobs.find? (fun j => j.slot == 7 && j.fold == 2) = some (aJob []) := by decide

/-- Values that meet what `Obligations.ContextCommands` supposes. -/
theorem wit_ContextCommands : State.reset.mayContext 3 2 5 = false ∧ State.reset.mayContext 0 2 5 = true
    ∧ State.reset.homeOf 9 = none
    ∧ (fields [(FXC_STATUS_STREAM 2 5, 127)]).rd (FXC_STATUS_STREAM 2 5) = 127
    ∧ (fields [(FXC_STATUS_STREAM 2 5, 9)]).rd (FXC_STATUS_STREAM 2 5) ≠ 127
    ∧ State.reset.rd (FX_STATUS_THROTTLE 2) = 0 ∧ State.reset.rd (FX_STATUS_THROTTLE 2) ≠ 3 := by decide
/-- Values that meet what `Obligations.ContextCommands` supposes. -/
theorem wit_ContextCommands_published : let s := (framed [] []).updCtx (State.ctxKey (2, 5)) fun x => { x with publish := [(3, true)] }
    s.homeOf 9 = some (2, 5) ∧ (s.ctx (State.ctxKey (2, 5))).publish = (3, true) :: [] := by decide
/-- Values that meet what `Obligations.ContextCommands` supposes. -/
theorem wit_ContextCommands_bank :
    (let s := (framed [] [(FXC_STATUS_STREAM 2 5, 9)])
     let bk := bankAt s.fab 2 5 0
     s.rd (FXC_STATUS_STREAM 2 5) = 9 ∧ State.bankCheck bk (s.rd (ST_FORMAT_VALUE (State.portOf 9) (9 % 4))) (s.streamWidth 9) (s.streamHeight 9)
      (fun p => s.owner p == s.streamOwner 9) ≠ 0) := by decide
/-- Values that meet what `Obligations.ContextCommands` supposes. -/
theorem wit_ContextCommands_taken :
    let l := [(FXC_STATUS_STREAM 2 5, 9), (ST_FORMAT_VALUE (State.portOf 9) 1, 0x01080001), (FXB_OUT_FORMAT_FORMAT 2 5 0, 0x01080001),
      (FXB_TAP_SEL_TAP_B 2 5 0, 7), (FXS_ZONE_COUNT_ZX 2 5 0, 1), (FXS_ZONE_COUNT_ZY 2 5 0, 1), (FXS_WIN_COUNT_COUNT 2 5 0, 1)]
    let good (s : State) : Bool := State.bankCheck (bankAt s.fab 2 5 0) (s.rd (ST_FORMAT_VALUE (State.portOf 9) (9 % 4)))
      (s.streamWidth 9) (s.streamHeight 9) (fun p => s.owner p == s.streamOwner 9) == 0
    good (fields l) = true ∧ (bankAt (fields l).fab 2 5 0).coder = false
      ∧ good (fields ((FXB_ENABLES_CODER 2 5 0, 1) :: l)) = true ∧ (bankAt (fields ((FXB_ENABLES_CODER 2 5 0, 1) :: l)).fab 2 5 0).coder = true
      ∧ (fields ((GLB_PWR_STATUS_CODERS, 0) :: l)).rd GLB_PWR_STATUS_CODERS = 0 := by decide

/-- Values that meet what `Obligations.ScanStarts` supposes. -/
theorem wit_ScanStarts : bitsOf (0x5#32 ||| 0x80000000#32) 30 30 = 0
    ∧ (State.putWord 0 (LN_SCAN_CTRL 5) 0x80000005#32 (fields [(LN_SCAN_STAT_BUSY 5, 1)])).rd (LN_SCAN_STAT_BUSY 5) = 1
    ∧ (let u := State.putWord 0 (LN_SCAN_CTRL 5) 0x80000005#32 State.reset; u.rd (LN_SCAN_STAT_BUSY 5) ≠ 1 ∧ u.lanePower 5 ≠ 3)
    ∧ (let u := State.putWord 0 (LN_SCAN_CTRL 5) 0x80000005#32 (fields [(FH_STATUS_POWER (LN_HDR 5), 3)])
      u.rd (LN_SCAN_STAT_BUSY 5) ≠ 1 ∧ u.lanePower 5 = 3) := by decide

/-- Values that meet what `Obligations.LanePower` supposes. -/
theorem wit_LanePower : (fields [(LN_PWR_EXIT_BUSY 5, 1)]).rd (LN_PWR_EXIT_BUSY 5) = 1 ∧ State.reset.lanePower 5 = 0
    ∧ State.reset.rd (LN_PWR_EXIT_BUSY 5) = 0
    ∧ (let s := fields [(FH_STATUS_POWER (LN_HDR 5), 3), (LN_PWR_EXIT_BUSY 5, 1)]; s.lanePower 5 = 3 ∧ s.rd (LN_PWR_EXIT_BUSY 5) ≠ 0)
    ∧ (State.laneReset 5 State.reset).lanePort 5 = none
    ∧ (let s := fields [(FH_STATUS_POWER (LN_HDR 5), 3)]; s.lanePower 5 ≠ 0 ∧ s.rd (LN_PWR_EXIT_BUSY 5) ≠ 1) := by decide
/-- Values that meet what `Obligations.LanePower` supposes. -/
theorem wit_LanePower_port : (let v := State.laneReset 5 (ported 0); v.lanePort 5 = some 1 ∧ v.portState 1 = 0)
    ∧ (let v := State.laneReset 5 (ported 5); v.lanePort 5 = some 1 ∧ v.portState 1 = 5 ∧ (v.port 1).lanes.contains 5 = true)
    ∧ (let v := State.laneReset 5 (ported 3); v.lanePort 5 = some 1 ∧ v.portState 1 = 3) := by decide

/-- Values that meet what `Obligations.LaneAdaptation` supposes. -/
theorem wit_LaneAdaptation :
    (let s := fields [(FH_STATUS_POWER (LN_HDR 5), 3), (LN_ADAPT_THRESH 5, 16), (LN_ADAPT_RESUME 5, 2)]
     let u := s.wr (LN_DENSITY_DENSITY 5) 16
     u.rd (LN_ADAPT_MODE 5) = 0 ∧ u.lanePower 5 = 3 ∧ u.rd (LN_STATUS_ADAPT_FROZEN 5) = 0 ∧ u.rd (LN_ADAPT_THRESH 5) = 16
      ∧ u.rd (LN_ADAPT_RESUME 5) = 2 ∧ (u.lane 5).windows = 0 ∧ (u.updLane 5 fun l => { l with windows := 1 }).rd (LN_ADAPT_RESUME 5) = 2)
    ∧ (State.reset.wr (LN_DENSITY_DENSITY 5) 16).lanePower 5 ≠ 3
    ∧ (fields [(LN_STATUS_ADAPT_FROZEN 5, 1)]).rd (LN_STATUS_ADAPT_FROZEN 5) = 1 ∧ ((fields [(LN_STATUS_ADAPT_FROZEN 5, 1)]).lane 5).limitRaised = false := by decide

/-- Values that meet what `Obligations.LaneAlignment` supposes. -/
theorem wit_LaneAlignment : (fields [(LN_STATUS_BLOCK_LOCK 5, 1)]).rd (LN_STATUS_BLOCK_LOCK 5) = 1
    ∧ (State.reset.wr (LN_ALIGN_STAT_VALID 5) 1024).rd (LN_STATUS_BLOCK_LOCK 5) = 0 ∧ State.reset.rd (LN_ALIGN_MANUAL 5) ≠ 1
    ∧ (fields [(LN_ALIGN_MANUAL 5, 1)]).rd (LN_ALIGN_MANUAL 5) = 1 ∧ State.reset.lanePower 5 ≠ 3
    ∧ (fields [(FH_STATUS_POWER (LN_HDR 5), 3)]).lanePower 5 = 3
    ∧ (let s := fields [(LN_ALIGN_MANUAL 5, 1)]
      (State.putWord 0 (LN_ALIGN 5) 0x4101#32 (State.slipSettle 5 s)).rd (LN_ALIGN_MANUAL 5) ≠ 0 ∧ bitsOf 0x4101#32 14 8 = 65
      ∧ bitsOf 0x4201#32 14 8 = 66)
    ∧ (State.putWord 0 (LN_ALIGN 5) 0x4100#32 (State.slipSettle 5 State.reset)).rd (LN_ALIGN_MANUAL 5) = 0
    ∧ State.reset.rd (LN_PATTERN_RX_SEL 5) = 0 ∧ (fields [(LN_PATTERN_RX_SEL 5, 1)]).rd (LN_PATTERN_RX_SEL 5) ≠ 0
    ∧ State.reset.rd (LN_SCAN_STAT_BUSY 5) = 0 ∧ (fields [(LN_SCAN_STAT_BUSY 5, 1)]).rd (LN_SCAN_STAT_BUSY 5) ≠ 0 := by decide

/-- Values that meet what `Obligations.BringUpAdvances` supposes. -/
theorem wit_BringUpAdvances : State.reset.portState 1 ≠ 1 ∧ (ported 1).portState 1 = 1 ∧ ((ported 1).portEntry 1).isSome = true
    ∧ (let s := ported 2 1; s.portState 1 = 2 ∧ (s.port 1).lanes.filter [5].contains ≠ [])
    ∧ (let s := ported 3 1 [(LN_STATUS_BLOCK_LOCK 5, 1), (LN_STATUS_BLOCK_LOCK 6, 1)]
      s.portState 1 = 3 ∧ (s.port 1).lanes.all (fun n => s.rd (LN_STATUS_BLOCK_LOCK n) != 0) = true)
    ∧ (ported 3 1).rd (LN_STATUS_BLOCK_LOCK 5) = 0 ∧ ((ported 3 1).port 1).lanes.length ≠ 16 := by decide
/-- Values that meet what `Obligations.BringUpAdvances` supposes. -/
theorem wit_BringUpAdvances_agree :
    (let s := ported 4 1; let e : PortEntry := ⟨1, 0, 5, 2, 1, 0, 1, true, 0⟩
     s.portState 1 = 4 ∧ s.portEntry 1 = some e ∧ s.agree 1 e [(1, 2), (8, 64 + 65536 * 64)] = some (2, 1)
      ∧ s.agree 1 e [(1, 2)] = none) := by decide
/-- Values that meet what `Obligations.BringUpAdvances` supposes. -/
theorem wit_BringUpAdvances_order :
    let s := ported 3
    let s := State.setPort s 1 { lanes := List.range 16 }
    let s := (List.range 16).foldl (fun (s : State) n => s.setLane n { farNumber := some (15 - n) }) s
    s.portState 1 = 3 ∧ (s.port 1).lanes.length = 16 ∧ (s.port 1).lanes.any (fun n => (s.lane n).farInverted) = false
      ∧ (List.range 16).all ((s.port 1).lanes.map fun n => (s.lane n).farNumber.getD 16).contains = true := by decide

/-- Values that meet what `Obligations.BringUpFails` supposes. -/
theorem wit_BringUpFails : (ported 0).portState 1 = 0 ∧ (ported 1).portState 1 = 1 ∧ (ported 2).portState 1 = 2 ∧ (ported 3).portState 1 = 3
    ∧ (ported 4).portState 1 = 4 ∧ (ported 5).portState 1 = 5 ∧ (ported 6).portState 1 = 6 ∧ (ported 1).rd (PT_LINK_CTRL_LISTEN_HOLD 1) ≠ 1
    ∧ (ported 0).portEntry 1 ≠ none ∧ State.reset.portEntry 1 = none := by decide
/-- Values that meet what `Obligations.BringUpFails` supposes. -/
theorem wit_BringUpFails_limits :
    (let s := ported 2 3 [(FH_STATUS_FAULT (LN_HDR 5), 4)]; (s.portLanes 1).find? (fun n => s.rd (FH_STATUS_FAULT (LN_HDR n)) == 4) = some 5)
    ∧ (let s := ported 2; (s.portLanes 1).find? (fun n => s.rd (FH_STATUS_FAULT (LN_HDR n)) == 4) = none ∧ (s.port 1).standard = 3
      ∧ (s.port 1).lanes.any (fun n => !((s.lane n).farReady && (s.lane n).hold)) = true)
    ∧ ((ported 2 1).port 1).standard ≠ 3
    ∧ (let s := ported 3; (s.port 1).lanes.find? (fun n => s.rd (LN_STATUS_BLOCK_LOCK n) == 0) = some 5)
    ∧ (let s := ported 3 3 [(LN_STATUS_BLOCK_LOCK 5, 1), (LN_STATUS_BLOCK_LOCK 6, 1)]
      (s.port 1).lanes.find? (fun n => s.rd (LN_STATUS_BLOCK_LOCK n) == 0) = none ∧ (s.portLanes 1).length ≠ 16) := by decide

/-- Values that meet what `Obligations.TrainingAndCapabilities` supposes. -/
theorem wit_TrainingAndCapabilities : State.reset.lanePort 5 = none ∧ (ported 5).lanePort 5 = some 1 ∧ (ported 5).portState 1 = 5
    ∧ (ported 5 3 [(PT_LINK_STATUS_STANDARD 1, 3)]).standardOf 1 = 3 ∧ (ported 2).portState 1 = 2
    ∧ (let s := (ported 4).updPort 1 fun p => { p with capStep := 1 }; let e : PortEntry := ⟨1, 0, 5, 2, 3, 0, 1, true, 0⟩
      s.portState 1 = 4 ∧ (s.port 1).standard = 3 ∧ (s.port 1).capStep = 1 ∧ s.portEntry 1 = some e
        ∧ s.agree 1 e [(1, 2), (2, 2), (8, 64 + 65536 * 64)] = some (2, 1) ∧ s.agree 1 e [(1, 2), (2, 1)] = none)
    ∧ (((ported 4).updPort 1 fun p => { p with capStep := 3 }).port 1).capStep = 3
    ∧ (List.range 24).find? (fun P => PT_HDR P == 7) = none ∧ (List.range 24).find? (fun P => PT_HDR P == PT_HDR 3) = some 3 := by decide

/-- Values that meet what `Obligations.ControlChannel` supposes. -/
theorem wit_ControlChannel : State.reset.mayCamera 3 1 = false ∧ State.reset.mayCamera 0 1 = true
    ∧ (fields [(PT_CAM_STATUS_BUSY 1, 1)]).rd (PT_CAM_STATUS_BUSY 1) = 1 ∧ State.reset.rd (PT_CAM_STATUS_BUSY 1) ≠ 1
    ∧ (State.putWord 0 (PT_CAM_CMD 1) 0x80000004#32 State.reset).rd (PT_LINK_STATUS_STATE 1) ≠ 5
    ∧ (let u := State.putWord 0 (PT_CAM_CMD 1) 0x80000004#32 (ported 5 1); u.rd (PT_LINK_STATUS_STATE 1) = 5 ∧ u.rd (PT_CAM_CMD_LENGTH 1) ≤ u.maxControl 1)
    ∧ (let s := (ported 5).updPort 1 fun p => { p with requests := [{ tag := 3, write := false, addr := 0, len := 4, kind := 0, who := 0, sent := true },
        { tag := 4, write := true, addr := 0, len := 4, kind := 0, who := 0, sent := true }], probes := [9], capStep := 8 }
      (s.port 1).requests.find? (fun r => r.sent && r.tag == 4 && r.write == false) = none
      ∧ ((s.port 1).requests.find? (fun r => r.sent && r.tag == 3 && r.write == false)).any (·.kind != 2) = true
      ∧ ((s.port 1).requests.find? (fun r => r.sent && r.tag == 4 && r.write == true)).any (·.kind != 2) = true
      ∧ ((s.port 1).requests.find? (fun r => r.sent && r.tag == 4)).any (·.kind != 2) = true
      ∧ (s.port 1).probes.contains 9 = true ∧ (s.port 1).probes.contains 8 = false ∧ (s.port 1).capStep = 8)
    ∧ State.reset.torvelinkUp 1 = false ∧ (ported 5 3 [(PT_LINK_STATUS_STANDARD 1, 3)]).torvelinkUp 1 = true
    ∧ (let s := ported 5 1 [(PT_LINK_STATUS_STANDARD 1, 1)]; s.rd (PT_LINK_STATUS_STATE 1) = 5 ∧ s.standardOf 1 = 1) := by decide

/-- Values that meet what `Obligations.FramesOpenAndClose` supposes. -/
theorem wit_FramesOpenAndClose : State.reset.portCarries 2 = false ∧ (streaming []).portCarries 2 = true ∧ (streaming []).streamAgreed 9 = true
    ∧ (streaming [(PT_LINK_STATUS_STREAMS 2, 1)]).streamAgreed 9 = false
    ∧ (let u := State.camNumber 9 4 (State.closeFrame 9 2 (streaming []))
      u.rd (FH_CONTROL_HALT (PT_HDR 2)) = 0 ∧ u.intakeStopped = false ∧ u.rd (ST_CTRL_ENABLE 2 1) = 1 ∧ u.throttled 2 = false)
    ∧ (let u := State.camNumber 9 4 (State.closeFrame 9 2 (streaming [(PT_THROTTLE_ENABLE 2, 1), (PT_THROTTLE_KIND 2, 1), (⟨HU_IN, 0, 0⟩, 1)]))
      u.rd (FH_CONTROL_HALT (PT_HDR 2)) = 0 ∧ u.intakeStopped = false ∧ u.rd (ST_CTRL_ENABLE 2 1) = 1 ∧ u.throttled 2 = true)
    ∧ (State.camNumber 9 4 (State.closeFrame 9 2 (streaming [(ST_CTRL_ENABLE 2 1, 0)]))).rd (ST_CTRL_ENABLE 2 1) = 0
    ∧ (State.reset.strm 9).frame = none ∧ ((opened [] []).strm 9).frame = some (anOpen []) ∧ (anOpen []).bad = []
    ∧ (anOpen [⟨3, 0⟩]).bad ≠ [] := by decide

/-- Values that meet what `Obligations.VideoPackets` supposes. -/
theorem wit_VideoPackets : State.reset.portCarries 2 = false ∧ (streaming []).portCarries 2 = true ∧ (streaming []).streamAgreed 9 = true
    ∧ (streaming [(PT_LINK_STATUS_STREAMS 2, 1)]).streamAgreed 9 = false ∧ ((streaming []).strm 9).frame = none
    ∧ ((streaming []).strm 9).drop = false ∧ ((streaming []).updStrm 9 fun x => { x with drop := true }).portCarries 2 = true
    ∧ (opened [] []).portCarries 2 = true ∧ ((opened [] []).strm 9).frame = some (anOpen []) ∧ (anOpen []).bad.contains ⟨3, 0⟩ = false
    ∧ State.lineFits (anOpen []) ((opened [] []).packetPlace 9 0 0 (anOpen [])).1 = true
    ∧ State.lineFits { anOpen [] with arrived := 8 } 8 = false ∧ (anOpen []).height ≤ 8
    ∧ State.lineFits { anOpen [] with next := 4 } 3 = false ∧ 3 < (anOpen []).height := by decide

/-- Values that meet what `Obligations.ParallelPort` supposes. -/
theorem wit_ParallelPort : State.reset.rd PP_STATUS_CLK_OK = 0 ∧ (fields [(PP_STATUS_CLK_OK, 1)]).rd PP_STATUS_CLK_OK = 1
    ∧ (fields [(PP_STATUS_CLK_OK, 1)]).rd ⟨PP_STATUS, 1, 1⟩ = 0 ∧ (fields [(⟨PP_STATUS, 1, 1⟩, 1)]).rd ⟨PP_STATUS, 1, 1⟩ = 1
    ∧ (State.putWord 0 PP_ALIGN 0x601#32 State.reset).rd PP_ALIGN_MANUAL = 1 ∧ bitsOf 0x601#32 10 8 = 6 ∧ bitsOf 0x601#32 5 4 = 0
    ∧ (State.putWord 0 PP_ALIGN 0x700#32 State.reset).rd PP_ALIGN_MANUAL = 0
    ∧ State.reset.serial.shift = none ∧ State.reset.serial.tx.length < 256 ∧ State.reset.serial.rx = []
    ∧ State.reset.seesPort 0 24 = true ∧ State.reset.seesPort 3 24 = false := by decide

/-- Values that meet what `Obligations.IllegalTransitions` supposes. -/
theorem wit_IllegalTransitions : let u := (fields [(EN_CTRL_ENABLE 1, 1), (EN_CTRL_DECODE 1, 2)]).runTo (65536 * 0)
    (u.rd (EN_STATUS_A 1) == 1) = !true ∧ (u.rd (EN_STATUS_B 1) == 1) = !true ∧ u.rd (EN_CTRL_ENABLE 1) ≠ 0 ∧ u.rd (EN_CTRL_DECODE 1) < 3 := by decide

/-- Values that meet what `Obligations.EncoderCommands` supposes. -/
theorem wit_EncoderCommands : (State.reset.runTo 0).rd (EN_CTRL_ENABLE 1) = 0
    ∧ (let v := (fields [(EN_CMP_CTRL_TAIL 1, 5)]).ww (EN_CMP_WDATA 1 + 4) 0#32
      (0 + 65536 - v.rd (EN_CMP_HEAD_HEAD 1) % 65536) % 65536 < v.encDepth 1)
    ∧ ¬ (let v := State.reset.ww (EN_CMP_WDATA 1 + 4) 0#32; (0 + 65536 - v.rd (EN_CMP_HEAD_HEAD 1) % 65536) % 65536 < v.encDepth 1)
    ∧ State.reset.rd ⟨EN_STATUS 1, 18, 18⟩ ≠ 1 ∧ State.reset.rd ⟨EN_STATUS 1, 18, 18⟩ = 0
    ∧ (let u := (fields [(EN_CTRL_HALL_EN 1, 1), (EN_STATUS_HALL 1, 3)]).runTo 0; u.rd (EN_CTRL_HALL_EN 1) ≠ 0 ∧ u.rd (EN_STATUS_HALL 1) ≠ 7
      ∧ u.rd (EN_STATUS_HALL 1) ≠ 5)
    ∧ State.reset.rd (EN_CTRL_ENABLE 1) = 0 ∧ (fields [(EN_CTRL_ENABLE 1, 1)]).rd (EN_CTRL_ENABLE 1) ≠ 0 := by decide

/-- Values that meet what `Obligations.AbsolutePositions` supposes. -/
theorem wit_AbsolutePositions : (State.absWaiting 1 (State.reset.setAbs 1 { State.reset.absChan 1 with low := false })).rd (SA_CFG_ENABLE 1) = 0
    ∧ (let s := fields [(SA_CFG_ENABLE 1, 1)]
      let u := State.absWaiting 1 (s.setAbs 1 { s.absChan 1 with low := false })
      let v := State.absWaiting 1 (s.setAbs 1 { s.absChan 1 with low := true })
      let w := State.absWaiting 1 ((s.setAbs 1 { run := some (7, 9, 0) }).setAbs 1 { run := some (7, 9, 0) })
      u.rd (SA_CFG_ENABLE 1) ≠ 0 ∧ (u.absChan 1).run = none ∧ (u.absChan 1).low = false ∧ (v.absChan 1).low = true
        ∧ (w.absChan 1).run = some (7, 9, 0) ∧ (7 : Nat) ≠ s.now ∧ w.rd (SA_CFG_PARITY 1) = 0 ∧ w.rd (SA_PAIR_PAIR_EN 1) ≠ 1)
    ∧ (fields [(SA_CFG_PARITY 1, 2)]).rd (SA_CFG_PARITY 1) = 2 := by decide

/-- Values that meet what `Obligations.TriggerEdges` supposes. -/
theorem wit_TriggerEdges : (State.reset.trig 3).inbox = [] ∧ State.reset.nextEdge 3 0 = none
    ∧ (State.reset.port 2).held.find? (fun x => !x.long) = none ∧ (State.reset.rd (TI_STATUS_LEVEL 3) == 1) = false
    ∧ (let s := State.reset.updTrig 3 fun t => { t with inbox := [(0, false, 5)] }
      let u := s.runTo 0
      let v := State.trigPromote 3 (u.updTrig 3 fun t => { t with inbox := t.inbox.filter fun y => u.tb.dev < y.1 })
      (s.trig 3).inbox = [(0, false, 5)] ∧ v.rd (TR_CTRL_ENABLE 3) = 0)
    ∧ (let s := (fields [(TR_CTRL_ENABLE 3, 1)]).updTrig 3 fun t => { t with inbox := [(0, false, 5)] }
      let u := s.runTo 0
      let v := State.trigPromote 3 (u.updTrig 3 fun t => { t with inbox := t.inbox.filter fun y => u.tb.dev < y.1 })
      v.rd (TR_CTRL_ENABLE 3) ≠ 0 ∧ v.sequencerHeld = false ∧ v.rd (TR_CTRL_COMBINE 3) = 0)
    ∧ (State.reset.updTrig 3 fun t => { t with held := [{ id := 1, start := 0, end_ := 9, gen := 0, issue := 0, edges := [⟨0, true, 0, false⟩] }] }).nextEdge 3 0
      = some (1, ⟨0, true, 0, false⟩) := by decide
/-- Values that meet what `Obligations.TriggerEdges` supposes. -/
theorem wit_TriggerEdges_blocks :
    let x : HeldBlock := { channel := 3, place := 1, ident := 0, at_ := 0, rising := true }
    ((State.reset.setPort 2 { held := [x], lastSlot := some 0 }).port 2).held.find? (fun x => !x.long) = some x := by decide

/-- Values that meet what `Obligations.ExposureBanks` supposes. -/
theorem wit_ExposureBanks : State.reset.mayCommit 3 5 = false ∧ State.reset.mayCommit 0 5 = true
    ∧ State.trigCheck ((fields [(TR_DIVIDER_DIVIDER 5 0, 0)]).trigBank 5 0) ≠ 0
    ∧ (let s := ((fields [(TR_DIVIDER_DIVIDER 5 0, 1), (TR_BURST_COUNT 5 0, 1)]).wrWide (TR_WIDTH_LO 5 0) 2 1000)
      State.trigCheck (s.trigBank 5 0) = 0 ∧ s.rd (TR_CTRL_COMMIT_MODE 5) ≠ 1)
    ∧ (fields [(TR_CTRL_COMMIT_MODE 5, 1)]).rd (TR_CTRL_COMMIT_MODE 5) = 1
    ∧ ((State.trigPromote 5 State.reset).trig 5).commit ≠ .ready
    ∧ ((State.trigPromote 5 (State.reset.updTrig 5 fun t => { t with commit := .ready })).trig 5).commit = .ready
    ∧ (State.reset.trig 5).camDue = []
    ∧ (let s := State.reset.updTrig 5 fun t => { t with camDue := [(800, 3, true)] }
      (s.trig 5).camDue = [(800, 3, true)] ∧ s.inbandActive 5 = false)
    ∧ (streaming [(TR_INBAND_ENABLE 5, 1), (TR_INBAND_PORT 5, 2)]).inbandActive 5 = true
    ∧ (streaming [(TR_INBAND_ENABLE 5, 1), (TR_INBAND_PORT 5, 2)]).standardOf 2 ≠ 3 := by decide

/-- Values that meet what `Obligations.Conversions` supposes. -/
theorem wit_Conversions : State.reset.rd (AI_CTRL_ENABLE 2) = 0 ∧ (fields [(AI_CTRL_ENABLE 2, 1)]).rd (AI_CTRL_ENABLE 2) ≠ 0
    ∧ (State.reset.ai 2).starts = [] ∧ (State.reset.ai 2).convs = [] ∧ (State.reset.ai 2).word = none
    ∧ (let s := (fields [(AI_CTRL_ENABLE 2, 1)]).updAi 2 fun x => { x with starts := [0] }
      let k := State.clockAt 0 s
      let u := k.1.updAi 2 fun x => { x with starts := x.starts.filter fun t => k.2 < t }
      (s.ai 2).starts = [0] ∧ u.rd (AI_CTRL_ENABLE 2) ≠ 0 ∧ (u.ai 2).last = none ∧ (u.ai 2).settle = none)
    ∧ (let s := (fields [(AI_CTRL_ENABLE 2, 1)]).updAi 2 fun x => { x with convs := [⟨0, 0, 0, 0x400000, 0⟩] }
      (s.ai 2).convs = [⟨0, 0, 0, 0x400000, 0⟩] ∧ (s.updAi 2 fun a => { a with convs := [] }).rd (AI_CTRL_ENABLE 2) ≠ 0
      ∧ signed 18 5 ≠ -131072 ∧ signed 18 5 ≠ 131071 ∧ (calibrated 0 0x400000 (signed 18 5)).2 = false) := by decide

/-- Values that meet what `Obligations.Calibrations` supposes. -/
theorem wit_Calibrations :
    (let u := (fields [(CB_STATUS_STATE 1, 2)]).wr (CB_TEMP_NOW 1) 4000; 2 ≤ u.rd (CB_STATUS_STATE 1)
      ∧ u.rd CAL_TEMP_DELTA_SIXTEENTHS < 2 * (signed 16 4000 - signed 16 (u.cal 1).startTemp).natAbs)
    ∧ (let u := (fields [(CB_STATUS_STATE 1, 2)]).wr (CB_TEMP_NOW 1) 0; 2 * (signed 16 0 - signed 16 (u.cal 1).startTemp).natAbs ≤ u.rd CAL_TEMP_DELTA_SIXTEENTHS)
    ∧ (let u := (fields [(CB_STATUS_ACCEPTED 1, 1)]).wr (CB_TEMP_NOW 1) 4000; u.rd (CB_STATUS_STATE 1) = 0 ∧ u.calAccepted 1 = true
      ∧ u.rd CAL_TEMP_DELTA_SIXTEENTHS < (signed 16 4000 - signed 16 (u.rd (CB_TEMP_LAST 1))).natAbs ∧ (u.cal 1).again = none)
    ∧ (fields [(CB_STATUS_STATE 1, 1)]).rd (CB_STATUS_STATE 1) = 1 ∧ State.reset.calMayRun 1 = false
    ∧ (fields [(CB_STATUS_STATE 2, 1), (CAL_CTRL_AUTO, 15)]).calMayRun 2 = true ∧ (fields []).lineIdle 3 = true ∧ ((fields []).lineOf 2 3).1 < 64
    ∧ State.reset.rd (CB_STATUS_STATE 2) < 2 ∧ State.reset.calFlash.write = none
    ∧ (let s : State := { State.reset with calFlash := { State.reset.calFlash with write := some (0, 1, []) } }; s.calFlash.write ≠ none)
    ∧ (fields [(SH_STATUS_STATE, 1)]).rd SH_STATUS_STATE = 1 ∧ State.reset.calFlash.held = false := by decide

/-- Values that meet what `Obligations.NetworkTraffic` supposes. -/
theorem wit_NetworkTraffic : State.reset.activePath = none ∧ (networked []).activePath = some 0
    ∧ (networked []).flowTarget 0 3 = none ∧ (fields [(NPP_STATUS_ROLE 0, 5)]).gateOpen 0 = false
    ∧ (let s := networked [(NF_CTRL_ENABLE 3, 1), (NF_CTRL_MODE 3, 1)] (some (0, 0, 1))
      (s.flowTarget 0 3).isSome = true ∧ s.gateOpen 0 = true ∧ s.flowPaced 3 = true)
    ∧ (networked [(TD_PTP_CFG_ROLE 0, 1)]).rd (TD_PTP_CFG_ROLE 0) ≠ 0 := by decide
/-- Values that meet what `Obligations.NetworkTraffic` supposes. -/
theorem wit_NetworkTraffic_reply :
    let v := ((networked []).updNet fun n => { n with resolving := [⟨false, [7]⟩] }).tally (NPP_RX_TALLY_COUNT 0)
    v.rd (NPP_STATUS_ROLE 0) = 5 ∧ v.net.resolving.contains ⟨false, [7]⟩ = true
      ∧ (v.updNet fun n => { n with resolving := [], reported := [] }).nbPlace = some 0 := by decide

/-- Values that meet what `Obligations.CrookAndMirror` supposes. -/
theorem wit_CrookAndMirror :
    (let s := fields [(NPP_STATUS_ROLE 1, 3), (NPP_CFG_ENABLE 1, 1), (GLB_PWR_STATUS_PATHS, 3)]
     let t := s.updPath 1 fun x => { x with ready := true, locked := true }
     t.rd (NPP_STATUS_ROLE 1) = 3 ∧ t.healthyNow 1 = true ∧ t.holds 0 = false ∧ s.healthyNow 1 = false)
    ∧ State.reset.activePath = none ∧ State.reset.net.handback = none ∧ State.reset.net.flight = none
    ∧ (networked []).activePath = some 0 := by decide
/-- Values that meet what `Obligations.CrookAndMirror` supposes. -/
theorem wit_CrookAndMirror_epoch :
    let s := (fields [(NPP_STATUS_ROLE 0, 5), (NPP_STATUS_ROLE 1, 3)]).updNet fun n => { n with flight := some { State.noEpoch with number := 4 } }
    let t := s.updPath 1 fun x => { x with epoch := some { State.noEpoch with number := 3 } }
    s.net.flight.map (·.number) = some 4 ∧ s.holds 1 = false ∧ s.holds 0 = true ∧ s.roleOf 1 = 3
      ∧ ((s.path 1).epoch.map fun y => (y.number + 1) % 2 ^ 32) ≠ some 4
      ∧ ((t.path 1).epoch.map fun y => (y.number + 1) % 2 ^ 32) = some 4 ∧ t.net.handback.isNone = true
      ∧ (State.install 1 { State.noEpoch with number := 4 } t).net.handback.isNone = true
      ∧ (State.syncEpoch 1 { State.noEpoch with number := 4 } (t.wr (NPP_STATUS_ROLE 1) 2)).net.handback.isNone = true := by decide

/-- Values that meet what `Obligations.SpdmAndMctp` supposes. -/
theorem wit_SpdmAndMctp : State.reset.deferredOf 0 = none ∧ State.reset.shepherdRuns = false
    ∧ (fields [(SH_STATUS_STATE, 1)]).shepherdRuns = true
    ∧ (State.setDeferred 1 (some .version) State.reset).deferredOf 1 = some .version := by decide

/-- Values that meet what `Obligations.UploadsAndMailbox` supposes. -/
theorem wit_UploadsAndMailbox : (0 = 0 ∨ 5 < 0) ∧ (0x40 < 256 ∧ (0x40 = 0 ∨ 5 < 0x40) ∧ (0x40 < 0x10 ∨ 0x14 < 0x40) ∧ 0x40 ≠ 0x20) := by decide

/-- Values that meet what `Obligations.ActivationAndTick` supposes. -/
theorem wit_ActivationAndTick : State.reset.struct.program = none ∧ State.reset.struct.rollbackDue = none
    ∧ (let s := activating .quiesce
       s.struct.stage = .quiesce ∧ s.shepherdRuns = true ∧ s.struct.next.isSome = true
         ∧ (s.rd PD_STATUS_SCAN == 1 || (List.range 97).any (fun n => (s.strm n).frame.isSome) || s.listedChannels.any s.chBusy) = false)
    ∧ (activating .retain).struct.stage = .retain ∧ (activating .retrain).struct.stage = .retrain
    ∧ (activating .retrain).unseated = false ∧ State.reset.shepherdRuns = false := by decide
/-- Values that meet what `Obligations.ActivationAndTick` supposes. -/
theorem wit_ActivationAndTick_rollback :
    let s := { activating .idle with struct := { (activating .idle).struct with rollbackDue := some 2, program := some ⟨1, [], true⟩ } }
    s.struct.rollbackDue = some 2 ∧ s.shepherdRuns = true ∧ s.rd GLB_RESET_BUSY ≠ 1 ∧ s.struct.stage = .idle
      ∧ s.struct.program = some ⟨1, [], true⟩ := by decide
/-- Values that meet what `Obligations.ActivationAndTick` supposes. -/
theorem wit_ActivationAndTick_tick :
    (let b := State.reset.runTo State.reset.bw.next; b.bw.next ≤ b.tb.dev)
    ∧ (let s := fields [(GLB_RESET_CAUSE_LAST, 1)]
       let b := s.runTo (s.bw.next); ¬ b.tb.dev < b.bw.next) := by decide +kernel

end Sys2Proof.Tests
end

/-! SUPPORT. What a write of one field leaves of the shared parts' fields, and what a count makes of a tally (R17). -/
namespace Sys2Proof.Machine

/-- A field just written reads as its value, cut to its width. -/
theorem Fabric.rd_wr_same (b : Fabric) {f : FRef} (v : Nat) (h : f.lo ≤ f.hi) (h32 : f.hi < 32) :
    (b.wr f v).rd f = v % 2 ^ (f.hi + 1 - f.lo) := by
  unfold Fabric.rd Fabric.wr
  rw [Fabric.rw_ww_same, bitsOf_withBits_same _ _ h h32]

/-- Writing one field leaves every other field, of the same word or of another. -/
theorem Fabric.rd_wr_other (b : Fabric) {f g : FRef} (v : Nat) (h : f.lo ≤ f.hi) (h32 : f.hi < 32)
    (hd : g.key ≠ f.key ∨ g.hi < f.lo ∨ f.hi < g.lo) : (b.wr f v).rd g = b.rd g := by
  unfold Fabric.rd Fabric.wr
  by_cases e : g.key = f.key
  · rw [e, Fabric.rw_ww_same, bitsOf_withBits_other _ _ h h32 (hd.resolve_left fun x => x e)]
  · rw [Fabric.rw_ww_other _ _ e]

/-- A count raises a tally, to all ones at most. -/
theorem Fabric.rd_tally_same (b : Fabric) {f : FRef} (n : Nat) (h : f.lo ≤ f.hi) (h32 : f.hi < 32) :
    (b.tally f n).rd f = min (b.rd f + n) (2 ^ (f.hi + 1 - f.lo) - 1) := by
  have hpos : 0 < 2 ^ (f.hi + 1 - f.lo) := Nat.two_pow_pos _
  unfold Fabric.tally
  rw [Fabric.rd_wr_same _ _ h h32]
  exact Nat.mod_eq_of_lt (by omega)

/-- Settles O20: a tally's count is one write of its field, cut to all ones before it is entered. -/
theorem tallySaturates : Obligations.TallySaturates := by
  rintro f g n b ⟨h, h32⟩
  have hsame := b.rd_tally_same n h h32
  refine ⟨hsame, fun hones => ?_, fun ⟨hd, _⟩ => b.rd_wr_other _ h h32 hd, fun _ => rfl, rfl⟩
  rw [hsame, hones]
  exact Nat.min_eq_right (Nat.le_add_right _ _)

end Sys2Proof.Machine

/-! SUPPORT. What a register makes of a written word, one bit at a time (R8, R10, R11). The fields of every register of the
map lie within its word and share no bit, so each bit belongs to one field at most. -/
namespace Sys2Proof.Machine

/-- Two fields that share no bit. -/
def Field.Apart (f g : Field) : Prop := f.hi < g.lo ∨ g.hi < f.lo

/-- Fields that lie within a word of 32 bits and share no bit. -/
structure FieldsFit (l : List Field) : Prop where
  within : ∀ f ∈ l, f.lo ≤ f.hi ∧ f.hi < 32
  apart : l.Pairwise Field.Apart

theorem FieldsFit.tail {f : Field} {l : List Field} (h : FieldsFit (f :: l)) : FieldsFit l :=
  ⟨fun g hg => h.within g (List.mem_cons_of_mem _ hg), h.apart.of_cons⟩

/-- `FieldsFit`, decided. -/
def fieldsFit : List Field → Bool
  | [] => true
  | f :: l => decide (f.lo ≤ f.hi) && decide (f.hi < 32)
      && l.all (fun g => decide (f.hi < g.lo) || decide (g.hi < f.lo)) && fieldsFit l

theorem FieldsFit.of_fieldsFit {l : List Field} (h : fieldsFit l = true) : FieldsFit l := by
  induction l with
  | nil => exact ⟨by simp, .nil⟩
  | cons f l ih =>
    simp only [fieldsFit, Bool.and_eq_true, decide_eq_true_eq, List.all_eq_true, Bool.or_eq_true] at h
    obtain ⟨⟨⟨hlo, hhi⟩, hapart⟩, hl⟩ := h
    have hfit := ih hl
    exact ⟨List.forall_mem_cons.2 ⟨⟨hlo, hhi⟩, hfit.within⟩, .cons hapart hfit.apart⟩

theorem findReg_mem {rs : List RegDef} {o : Nat} {r : RegDef} (h : findReg rs o = some r) : r ∈ rs :=
  List.mem_of_find?_eq_some h

/-- What a block answers at an offset is one of its registers. -/
theorem Block.find_mem {b : Block} {off : Nat} {r : RegDef} (h : b.find off = some r) : r ∈ b.regs := by
  unfold Block.find at h
  split at h
  · cases h
  · dsimp only at h
    split at h
    · cases h
    · split at h
      · exact findReg_mem h
      · split at h
        · exact findReg_mem h
        · cases h

/-- The fields of every register of the map lie within its word and share no bit (R529). -/
theorem blocks_fieldsFit : (blocks.all fun b => b.regs.all fun r => fieldsFit r.fields) = true := by decide +kernel

theorem regAt_fieldsFit {off : Nat} {r : RegDef} (h : regAt off = some r) : FieldsFit r.fields := by
  obtain ⟨b, hb, hr⟩ := List.exists_of_findSome?_eq_some h
  exact .of_fieldsFit (List.all_eq_true.1 (List.all_eq_true.1 blocks_fieldsFit b hb) r (Block.find_mem hr))

/-- A word that takes the bits of a field from another word. -/
theorem getLsbD_withBits_bitsOf (w u : Word) {hi lo : Nat} (i : Nat) (h : lo ≤ hi) (h32 : hi < 32) :
    (withBits w hi lo (bitsOf u hi lo)).getLsbD i = if lo ≤ i ∧ i ≤ hi then u.getLsbD i else w.getLsbD i := by
  simp only [← BitVec.testBit_toNat]
  rw [testBit_withBits w _ i h h32, testBit_bitsOf]
  by_cases c : lo ≤ i ∧ i ≤ hi
  · rw [if_pos c, if_pos c, decide_eq_true (by omega), Bool.true_and, Nat.add_sub_of_le c.1]
  · rw [if_neg c, if_neg c]

/-- Bit `i` of a field after word `w` is written, where it held `held` (R8, R11). -/
def Field.bitAfter (f : Field) (w : Word) (held : Bool) (i : Nat) : Bool :=
  match f.acc with
  | .rw | .rwk => if f.legal.holds (f.hi + 1 - f.lo) (bitsOf w f.hi f.lo) then w.getLsbD i else held
  | .w1c => held && !w.getLsbD i
  | .w1s => held || w.getLsbD i
  | .ro | .rc | .rok | .wo => held

/-- Whether a field takes writes and has no meaning for the encoding written to it (R11). -/
def Field.refuses (f : Field) (w : Word) : Bool :=
  (f.acc == .rw || f.acc == .rwk || f.acc == .wo) && !f.legal.holds (f.hi + 1 - f.lo) (bitsOf w f.hi f.lo)

/-- What one field makes of a written word: its own bits by its access code, every other bit as it stands. -/
theorem Field.take_getLsbD (f : Field) (w : Word) (a : Word × Nat) (i : Nat) (h : f.lo ≤ f.hi) (h32 : f.hi < 32) :
    (f.take w a).1.getLsbD i
      = if f.lo ≤ i ∧ i ≤ f.hi then f.bitAfter w (a.1.getLsbD i) i else a.1.getLsbD i := by
  have hbits := fun u => getLsbD_withBits_bitsOf a.1 u i h h32
  unfold Field.take Field.bitAfter
  cases f.acc with
  | rw | rwk => dsimp only; split <;> simp [hbits]
  | wo => dsimp only; split <;> simp
  | w1c =>
    have hmask : f.lo ≤ i ∧ i ≤ f.hi → (a.1 &&& ~~~w).getLsbD i = (a.1.getLsbD i && !w.getLsbD i) := fun c => by
      simp [show i < 32 by omega]
    rw [hbits]
    split
    · next c => exact hmask c
    · rfl
  | w1s => simp [hbits]
  | ro | rc | rok => simp

/-- A field counts one access error where it refuses what is written. -/
theorem Field.take_errors (f : Field) (w : Word) (a : Word × Nat) :
    (f.take w a).2 = a.2 + if f.refuses w then 1 else 0 := by
  unfold Field.take Field.refuses
  cases f.acc with
  | rw | rwk | wo => dsimp only; split <;> simp_all
  | w1c | w1s | ro | rc | rok => simp

/-- A bit outside every field stays. -/
theorem foldl_take_getLsbD_outside {l : List Field} (w : Word) (a : Word × Nat) {i : Nat} (hl : FieldsFit l)
    (hi : ∀ f ∈ l, i < f.lo ∨ f.hi < i) :
    (l.foldl (fun a f => f.take w a) a).1.getLsbD i = a.1.getLsbD i := by
  induction l generalizing a with
  | nil => rfl
  | cons f l ih =>
    obtain ⟨h, h32⟩ := hl.within f List.mem_cons_self
    have hf := hi f List.mem_cons_self
    rw [List.foldl_cons, ih _ hl.tail fun g hg => hi g (List.mem_cons_of_mem _ hg), f.take_getLsbD w a i h h32,
      if_neg (by omega)]

/-- A bit of a field goes by the access code of that field alone. -/
theorem foldl_take_getLsbD_inside {l : List Field} (w : Word) (a : Word × Nat) {f : Field} {i : Nat} (hl : FieldsFit l)
    (hf : f ∈ l) (hi : f.lo ≤ i ∧ i ≤ f.hi) :
    (l.foldl (fun a f => f.take w a) a).1.getLsbD i = f.bitAfter w (a.1.getLsbD i) i := by
  induction l generalizing a with
  | nil => cases hf
  | cons g l ih =>
    obtain ⟨h, h32⟩ := hl.within g List.mem_cons_self
    have happart : ∀ k ∈ l, g.hi < k.lo ∨ k.hi < g.lo := fun k hk => List.rel_of_pairwise_cons hl.apart hk
    rw [List.foldl_cons]
    rcases List.mem_cons.1 hf with rfl | hmem
    · rw [foldl_take_getLsbD_outside w _ hl.tail fun k hk => by have := happart k hk; omega,
        f.take_getLsbD w a i h h32, if_pos hi]
    · have := happart f hmem
      rw [ih _ hl.tail hmem, g.take_getLsbD w a i h h32, if_neg (by omega)]

/-- The access errors of a written word: one for each field that refuses it. -/
theorem foldl_take_errors (l : List Field) (w : Word) (a : Word × Nat) :
    (l.foldl (fun a f => f.take w a) a).2 = a.2 + (l.filter (·.refuses w)).length := by
  induction l generalizing a with
  | nil => rfl
  | cons f l ih =>
    rw [List.foldl_cons, ih, f.take_errors, List.filter_cons]
    split <;> simp [Nat.add_assoc, Nat.add_comm]

/-- Settles O21: the fields of a register of the map share no bit, so the word written goes through them one by one. -/
theorem fieldAccess : Obligations.FieldAccess := by
  intro off r old w hr
  have hfit := regAt_fieldsFit hr
  refine ⟨fun i hi => foldl_take_getLsbD_outside w (old, 0) hfit hi.2,
    fun f hf i hi => foldl_take_getLsbD_inside w (old, 0) hfit hf hi, ?_⟩
  exact (foldl_take_errors r.fields w (old, 0)).trans (Nat.zero_add _)

end Sys2Proof.Machine

/-! SUPPORT. An occurrence that meets an empty queue, in a view that is not enabled (R337). -/
namespace Sys2Proof.Machine

@[simp] theorem Fabric.queue_wr (b : Fabric) (f : FRef) (v : Nat) : (b.wr f v).queue = b.queue := rfl
@[simp] theorem Fabric.queue_tally (b : Fabric) (f : FRef) (n : Nat) : (b.tally f n).queue = b.queue := rfl
@[simp] theorem Fabric.queue_setView (b : Fabric) (fn src : Nat) (v : View) : (b.setView fn src v).queue = b.queue := rfl
@[simp] theorem Fabric.view_wr (b : Fabric) (f : FRef) (v fn src : Nat) : (b.wr f v).view fn src = b.view fn src := rfl
@[simp] theorem Fabric.view_tally (b : Fabric) (f : FRef) (n fn src : Nat) : (b.tally f n).view fn src = b.view fn src :=
  rfl

theorem drain_of_queue_nil {owner : Nat → Nat} {now : Time} {b : Fabric} (n : Nat) (h : b.queue = []) :
    drain owner now n b = b := by
  cases n with
  | zero => rfl
  | succ n => rw [drain, h]

/-- With nothing waiting, an occurrence that leaves nothing waiting goes to its views and that is all. -/
theorem Fabric.raise_of_queue_nil {owner : Nat → Nat} {now : Time} {i : Indication} {b : Fabric} (h : b.queue = [])
    (ho : (occur owner now i b).queue = []) : b.raise owner now i = occur owner now i b := by
  have hb : { b with queue := [] } = b := by rw [← h]
  rw [Fabric.raise, Fabric.indicate, h]
  show drain owner now 15 (occur owner now i { b with queue := [] }) = _
  rw [hb, drain_of_queue_nil _ ho]

/-- An indication that one function alone sees reaches one view. -/
theorem occur_of_vis_singleton {owner : Nat → Nat} {now : Time} {i : Indication} {fn : Nat} (b : Fabric)
    (h : i.vis = [fn]) : occur owner now i b = viewOccur owner now i b fn := by
  rw [occur, h, List.foldl_cons, List.foldl_nil]

/-- A view's registers after an occurrence: counted in its tally, PENDING set (R336). -/
def Fabric.counted (b : Fabric) (fn src : Nat) : Fabric :=
  (b.tally (EV_TALLY_COUNT fn src)).wr (EV_STATUS_PENDING fn src) 1

/-- What a view keeps after an occurrence: its first cause, and the latest cause and detail (R337). -/
def View.noting (v : View) (i : Indication) : View :=
  { v with seen := true, first := if v.seen then v.first else i.cause, last := i.cause, detail := i.detail }

theorem Fabric.queue_counted (b : Fabric) (fn src : Nat) : (b.counted fn src).queue = b.queue := by
  rw [Fabric.counted, Fabric.queue_wr, Fabric.queue_tally]

theorem Fabric.view_counted (b : Fabric) (fn src : Nat) : (b.counted fn src).view fn src = b.view fn src := by
  rw [Fabric.counted, Fabric.view_wr, Fabric.view_tally]

/-- An occurrence in a view that is not enabled is counted and kept, and nothing is delivered. -/
theorem viewOccur_of_disabled {owner : Nat → Nat} {now : Time} {i : Indication} {b : Fabric} {fn : Nat}
    (h : (b.counted fn i.src).rd (EV_CFG_ENABLE fn i.src) = 0) :
    viewOccur owner now i b fn = (b.counted fn i.src).setView fn i.src ((b.view fn i.src).noting i) := by
  rw [← b.view_counted fn i.src]
  exact if_pos h

/-- The same of a raised source that one function alone sees, with nothing waiting. -/
theorem Fabric.raise_of_disabled {owner : Nat → Nat} {now : Time} {i : Indication} {b : Fabric} {fn : Nat}
    (hvis : i.vis = [fn]) (hq : b.queue = []) (h : (b.counted fn i.src).rd (EV_CFG_ENABLE fn i.src) = 0) :
    b.raise owner now i = (b.counted fn i.src).setView fn i.src ((b.view fn i.src).noting i) := by
  have hocc := (occur_of_vis_singleton (owner := owner) (now := now) b hvis).trans (viewOccur_of_disabled h)
  rw [Fabric.raise_of_queue_nil hq, hocc]
  rw [hocc, Fabric.queue_setView, Fabric.queue_counted, hq]

/-- Settles O16: one view sees the source, it is not enabled, and the queue was empty. -/
theorem eventOccurs : Obligations.EventOccurs := by
  rintro src detail s ⟨hseers, hqueue, -⟩ b hdisabled
  have hraise := Fabric.raise_of_disabled (owner := s.owner) (now := s.now) (i := ⟨src, s.now, detail, [0]⟩) rfl
    hqueue hdisabled
  show Host.Outcome.next (s.raise src detail) = _
  rw [State.raise, hseers, State.raiseTo, State.inFab, hraise]
  rfl

end Sys2Proof.Machine

/-! SUPPORT. The tick period (R29, R31). -/
namespace Sys2Proof.Machine

/-- Settles O15: the three branches of a write of PERIOD_NS, and the two of the period's application. -/
theorem tickPeriod : Obligations.TickPeriod := by
  intro v s
  refine ⟨?inForce, ?refused, ?pending, ?applied, ?idle⟩
  case inForce =>
    rintro ⟨hlo, hhi, hdiv, heq⟩
    show Host.Outcome.next (s.bwPeriod 0 v) = _
    rw [State.bwPeriod, if_neg (by omega), if_pos heq]
  case refused =>
    intro hbad
    show Host.Outcome.next (s.bwPeriod 0 v) = _
    rw [State.bwPeriod, if_pos hbad]
  case pending =>
    rintro ⟨hlo, hhi, hdiv, hne⟩
    show Host.Outcome.next (s.bwPeriod 0 v) = _
    rw [State.bwPeriod, if_neg (by omega), if_neg hne]
  case applied =>
    intro hp
    refine ⟨s.bwApply, rfl, ?_⟩
    rw [State.bwApply, hp]
    exact ⟨rfl, rfl⟩
  case idle =>
    intro hp
    show Host.Outcome.next s.bwApply = _
    rw [State.bwApply, hp]

end Sys2Proof.Machine

/-! SUPPORT. What a step is, and what every step keeps: the six commands that reset the core keep `Sound`, every other
command keeps `Onward` (see `Laws/Onward.lean`). -/
namespace Sys2Proof.Machine

/-- Settles O1: both branches of `step`, and the idle clock of a core that does not run. -/
theorem stepRunsFront : Obligations.StepRunsFront := by
  refine ⟨fun _ _ => rfl, fun s h => ?_, fun s h => ?_⟩
  · rw [step, h]
  · rw [State.idle, if_neg (by simp [h])]

/-- The commands that may reset the core, and with it device time and both counters (R349). -/
def mayResetCore : Instr → Bool
  | .coldReset _ | .v12Loss | .v12RangeChange _ | .moduleResetRelease _ | .thermalSample _ | .moduleRemoval => true
  | _ => false

/-- Every command but those answers a next state that is `Onward`. -/
theorem exec_onward {c : Instr} (h : mayResetCore c = false) (s : State) : ∃ t, exec c s = .next t ∧ s.Onward t := by
  cases c with
  | registerWrite => exact execRegisterWrite_onward
  | misalignedAccess => exact execMisalignedAccess_onward
  | undefinedOffsetAccess => exact execUndefinedOffsetAccess_onward
  | wideValueLowRead => exact execWideValueLowRead_onward
  | readToClear => exact execReadToClear_onward
  | bellwetherTick => exact execBellwetherTick_onward
  | bwPeriodWrite => exact execBwPeriodWrite_onward
  | bwPeriodApply => exact execBwPeriodApply_onward
  | controlShadowCommit => exact execControlShadowCommit_onward
  | recordComplete => exact execRecordComplete_onward
  | recordTagTimeout => exact execRecordTagTimeout_onward
  | foldEnable => exact execFoldEnable_onward
  | foldHalt => exact execFoldHalt_onward
  | laneBlockReset => exact execLaneBlockReset_onward
  | portBlockReset => exact execPortBlockReset_onward
  | pixelFoldBlockReset => exact execPixelFoldBlockReset_onward
  | strGo => exact execStrGo_onward
  | strCheck => exact execStrCheck_onward
  | strProgram => exact execStrProgram_onward
  | programDone => exact execProgramDone_onward
  | postWaitEnd => exact execPostWaitEnd_onward
  | activationQuiesce => exact execActivationQuiesce_onward
  | quiesceTimeout => exact execQuiesceTimeout_onward
  | activationRetain => exact execActivationRetain_onward
  | activationReconfigure => exact execActivationReconfigure_onward
  | activationRetrain => exact execActivationRetrain_onward
  | activationResume => exact execActivationResume_onward
  | activationRollback => exact execActivationRollback_onward
  | lanePowerRequest => exact execLanePowerRequest_onward
  | laneExitComplete => exact execLaneExitComplete_onward
  | laneExitTimeout => exact execLaneExitTimeout_onward
  | cdrCoastTimeout => exact execCdrCoastTimeout_onward
  | densityWindowEnd => exact execDensityWindowEnd_onward
  | freezeLimitExpire => exact execFreezeLimitExpire_onward
  | invalidHeader => exact execInvalidHeader_onward
  | blockLockAcquired => exact execBlockLockAcquired_onward
  | blockLockLost => exact execBlockLockLost_onward
  | slipWrite => exact execSlipWrite_onward
  | patternCheckerSync => exact execPatternCheckerSync_onward
  | scanStart => exact execScanStart_onward
  | scanAbort => exact execScanAbort_onward
  | scanComplete => exact execScanComplete_onward
  | partnerDetect => exact execPartnerDetect_onward
  | listenCandidateTimeout => exact execListenCandidateTimeout_onward
  | listenLimitExpire => exact execListenLimitExpire_onward
  | trainExit => exact execTrainExit_onward
  | trainLimitExpire => exact execTrainLimitExpire_onward
  | orderStep => exact execOrderStep_onward
  | lockExit => exact execLockExit_onward
  | lockLimitExpire => exact execLockLimitExpire_onward
  | exchangeComplete => exact execExchangeComplete_onward
  | exchangeLimitExpire => exact execExchangeLimitExpire_onward
  | partnerLost => exact execPartnerLost_onward
  | restPoll => exact execRestPoll_onward
  | retrain => exact execRetrain_onward
  | trainingBlock => exact execTrainingBlock_onward
  | capabilityBlock => exact execCapabilityBlock_onward
  | capabilityRepeat => exact execCapabilityRepeat_onward
  | videoPacket => exact execVideoPacket_onward
  | controlReadResponse => exact execControlReadResponse_onward
  | controlWriteAck => exact execControlWriteAck_onward
  | controlRequestTimeout => exact execControlRequestTimeout_onward
  | cameraEventPacket => exact execCameraEventPacket_onward
  | heartbeatPacket => exact execHeartbeatPacket_onward
  | probeTimer => exact execProbeTimer_onward
  | probeNow => exact execProbeNow_onward
  | echoReceived => exact execEchoReceived_onward
  | probeMiss => exact execProbeMiss_onward
  | startOfFrame => exact execStartOfFrame_onward
  | endOfFrame => exact execEndOfFrame_onward
  | frameTimeout => exact execFrameTimeout_onward
  | resendTimeout => exact execResendTimeout_onward
  | camChannelGo => exact execCamChannelGo_onward
  | ppAlignAcquired => exact execPpAlignAcquired_onward
  | ppAlignLost => exact execPpAlignLost_onward
  | ppAlignSlip => exact execPpAlignSlip_onward
  | ppClockLost => exact execPpClockLost_onward
  | ppClockPresent => exact execPpClockPresent_onward
  | ppSerTxWrite => exact execPpSerTxWrite_onward
  | ppSerRxRead => exact execPpSerRxRead_onward
  | ppSerByteReceived => exact execPpSerByteReceived_onward
  | unitReady => exact execUnitReady_onward
  | foldUnitStart => exact execFoldUnitStart_onward
  | foldUnitComplete => exact execFoldUnitComplete_onward
  | throttleStepChange => exact execThrottleStepChange_onward
  | schedulerRebalance => exact execSchedulerRebalance_onward
  | contextCommitReq => exact execContextCommitReq_onward
  | contextCommitCancel => exact execContextCommitCancel_onward
  | burstRearm => exact execBurstRearm_onward
  | windowGraceExpire => exact execWindowGraceExpire_onward
  | fgArm => exact execFgArm_onward
  | fgDisarm => exact execFgDisarm_onward
  | fgFreeze => exact execFgFreeze_onward
  | fgRearm => exact execFgRearm_onward
  | fgRelease => exact execFgRelease_onward
  | freezeRequest => exact execFreezeRequest_onward
  | recoveryScanComplete => exact execRecoveryScanComplete_onward
  | frameFind => exact execFrameFind_onward
  | bar4Read => exact execBar4Read_onward
  | bar4Write => exact execBar4Write_onward
  | penCfgWrite => exact execPenCfgWrite_onward
  | penPop => exact execPenPop_onward
  | penPopComplete => exact execPenPopComplete_onward
  | penHostPush => exact execPenHostPush_onward
  | penDrop => exact execPenDrop_onward
  | penClear => exact execPenClear_onward
  | hurdleInputChange => exact execHurdleInputChange_onward
  | channelStart => exact execChannelStart_onward
  | channelDisable => exact execChannelDisable_onward
  | channelReset => exact execChannelReset_onward
  | listEntryFetch => exact execListEntryFetch_onward
  | entryComplete => exact execEntryComplete_onward
  | readCompletion => exact execReadCompletion_onward
  | completionTimeout => exact execCompletionTimeout_onward
  | powerdownForceStop => exact execPowerdownForceStop_onward
  | linkUp => exact execLinkUp_onward
  | linkDown => exact execLinkDown_onward
  | linkRateChange => exact execLinkRateChange_onward
  | linkRecovery => exact execLinkRecovery_onward
  | pcieErrorLogged => exact execPcieErrorLogged_onward
  | functionLevelReset => exact execFunctionLevelReset_onward
  | mfFunctionLevelReset => exact execMfFunctionLevelReset_onward
  | flrComplete => exact execFlrComplete_onward
  | partitionCommit => exact execPartitionCommit_onward
  | partitionApply => exact execPartitionApply_onward
  | partitionRevert => exact execPartitionRevert_onward
  | doeDiscovery => exact execDoeDiscovery_onward
  | uploadBegin => exact execUploadBegin_onward
  | uploadData => exact execUploadData_onward
  | uploadEnd => exact execUploadEnd_onward
  | uploadAbort => exact execUploadAbort_onward
  | uploadQuery => exact execUploadQuery_onward
  | uploadUnknownOp => exact execUploadUnknownOp_onward
  | eventOccurrence => exact execEventOccurrence_onward
  | eventHoldoffExpire => exact execEventHoldoffExpire_onward
  | eventEnable => exact execEventEnable_onward
  | eventRaise => exact execEventRaise_onward
  | msixUnmask => exact execMsixUnmask_onward
  | incCommit => exact execIncCommit_onward
  | adjustStart => exact execAdjustStart_onward
  | adjustEnd => exact execAdjustEnd_onward
  | timeSet => exact execTimeSet_onward
  | setOnPps => exact execSetOnPps_onward
  | restartServo => exact execRestartServo_onward
  | catchupEnd => exact execCatchupEnd_onward
  | joinStart => exact execJoinStart_onward
  | joinComplete => exact execJoinComplete_onward
  | joinForce => exact execJoinForce_onward
  | joinCancel => exact execJoinCancel_onward
  | ptpSync => exact execPtpSync_onward
  | ptpAnnounce => exact execPtpAnnounce_onward
  | ptpDelayResponse => exact execPtpDelayResponse_onward
  | ptpManagementGet => exact execPtpManagementGet_onward
  | ptpMessageTransmit => exact execPtpMessageTransmit_onward
  | announceTimeout => exact execAnnounceTimeout_onward
  | holdoverExpire => exact execHoldoverExpire_onward
  | ppsInEdge => exact execPpsInEdge_onward
  | ppsTimeout => exact execPpsTimeout_onward
  | refclkLock => exact execRefclkLock_onward
  | refSelChange => exact execRefSelChange_onward
  | ppsOutPulse => exact execPpsOutPulse_onward
  | slotArm => exact execSlotArm_onward
  | slotDisarm => exact execSlotDisarm_onward
  | slotFire => exact execSlotFire_onward
  | encoderCountEdge => exact execEncoderCountEdge_onward
  | encoderSet => exact execEncoderSet_onward
  | encoderSetOnIndex => exact execEncoderSetOnIndex_onward
  | encoderAdjust => exact execEncoderAdjust_onward
  | cmpReset => exact execCmpReset_onward
  | indexEvent => exact execIndexEvent_onward
  | lineFault => exact execLineFault_onward
  | hallStateChange => exact execHallStateChange_onward
  | speedStillTimeout => exact execSpeedStillTimeout_onward
  | cmpEntryWrite => exact execCmpEntryWrite_onward
  | cmpTailWrite => exact execCmpTailWrite_onward
  | histSnapshotRead => exact execHistSnapshotRead_onward
  | saRequestNow => exact execSaRequestNow_onward
  | saTransferComplete => exact execSaTransferComplete_onward
  | triggerInputEdge => exact execTriggerInputEdge_onward
  | softwareTrigger => exact execSoftwareTrigger_onward
  | channelPulse => exact execChannelPulse_onward
  | routeEdgeEmit => exact execRouteEdgeEmit_onward
  | inbandSend => exact execInbandSend_onward
  | exposureCommitReq => exact execExposureCommitReq_onward
  | exposureCommitCancel => exact execExposureCommitCancel_onward
  | exposureCommitApply => exact execExposureCommitApply_onward
  | cameraExposureWrite => exact execCameraExposureWrite_onward
  | aiConvertNow => exact execAiConvertNow_onward
  | conversionStart => exact execConversionStart_onward
  | conversionComplete => exact execConversionComplete_onward
  | rangeSettled => exact execRangeSettled_onward
  | sampleWordFlush => exact execSampleWordFlush_onward
  | calRunDue => exact execCalRunDue_onward
  | calRun => exact execCalRun_onward
  | calSave => exact execCalSave_onward
  | calOverride => exact execCalOverride_onward
  | calLoad => exact execCalLoad_onward
  | calFactory => exact execCalFactory_onward
  | calGapConversion => exact execCalGapConversion_onward
  | delayLineMeasure => exact execDelayLineMeasure_onward
  | calRunComplete => exact execCalRunComplete_onward
  | calDeadlineExpire => exact execCalDeadlineExpire_onward
  | calNvSaveComplete => exact execCalNvSaveComplete_onward
  | arpRequest => exact execArpRequest_onward
  | icmpEchoRequest => exact execIcmpEchoRequest_onward
  | pauseFrame => exact execPauseFrame_onward
  | neighborResolveTimeout => exact execNeighborResolveTimeout_onward
  | neighborAgeOut => exact execNeighborAgeOut_onward
  | flowDatagramSend => exact execFlowDatagramSend_onward
  | frameTransportRequest => exact execFrameTransportRequest_onward
  | networkFreeze => exact execNetworkFreeze_onward
  | remoteControl => exact execRemoteControl_onward
  | datagramDiscard => exact execDatagramDiscard_onward
  | flowRestart => exact execFlowRestart_onward
  | crookPulse => exact execCrookPulse_onward
  | crookSilence => exact execCrookSilence_onward
  | crookProbeReturn => exact execCrookProbeReturn_onward
  | crookLoopCheckFail => exact execCrookLoopCheckFail_onward
  | crookContention => exact execCrookContention_onward
  | pathHealthLoss => exact execPathHealthLoss_onward
  | epochSnapshot => exact execEpochSnapshot_onward
  | epochReceived => exact execEpochReceived_onward
  | mirrorStale => exact execMirrorStale_onward
  | revertHoldoffExpire => exact execRevertHoldoffExpire_onward
  | crookRelease => exact execCrookRelease_onward
  | shepherdBoot => exact execShepherdBoot_onward
  | spdmGetVersion => exact execSpdmGetVersion_onward
  | spdmGetCapabilities => exact execSpdmGetCapabilities_onward
  | spdmNegotiateAlgorithms => exact execSpdmNegotiateAlgorithms_onward
  | spdmGetDigests => exact execSpdmGetDigests_onward
  | spdmGetCertificate => exact execSpdmGetCertificate_onward
  | spdmChallenge => exact execSpdmChallenge_onward
  | spdmGetMeasurements => exact execSpdmGetMeasurements_onward
  | spdmRespondIfReady => exact execSpdmRespondIfReady_onward
  | spdmUnsupportedRequest => exact execSpdmUnsupportedRequest_onward
  | mctpSetEndpointId => exact execMctpSetEndpointId_onward
  | mctpGetEndpointId => exact execMctpGetEndpointId_onward
  | mctpGetVersionSupport => exact execMctpGetVersionSupport_onward
  | mctpGetMessageTypeSupport => exact execMctpGetMessageTypeSupport_onward
  | firmwareBegin => exact execFirmwareBegin_onward
  | firmwareData => exact execFirmwareData_onward
  | firmwareEnd => exact execFirmwareEnd_onward
  | firmwareAbort => exact execFirmwareAbort_onward
  | shepherdRestart => exact execShepherdRestart_onward
  | readLogEntry => exact execReadLogEntry_onward
  | watchdogExpire => exact execWatchdogExpire_onward
  | healthLogWrite => exact execHealthLogWrite_onward
  | auxSupplyChange => exact execAuxSupplyChange_onward
  | powerDownRequest => exact execPowerDownRequest_onward
  | powerDownComplete => exact execPowerDownComplete_onward
  | powerUpRequest => exact execPowerUpRequest_onward
  | powerUpComplete => exact execPowerUpComplete_onward
  | moduleResetAssert => exact execModuleResetAssert_onward
  | warmReset => exact execWarmReset_onward
  | warmResetReload => exact execWarmResetReload_onward
  | moduleUnseating => exact execModuleUnseating_onward
  | moduleReseated => exact execModuleReseated_onward
  | cageModuleInsert => exact execCageModuleInsert_onward
  | cageModuleReady => exact execCageModuleReady_onward
  | cageModuleRemove => exact execCageModuleRemove_onward
  | cageRailFault => exact execCageRailFault_onward
  | exchangeLockLossTimeout => exact execExchangeLockLossTimeout_onward
  | networkPathLinkUp => exact execNetworkPathLinkUp_onward
  | neighborReply => exact execNeighborReply_onward
  | refclkLost => exact execRefclkLost_onward
  | ppSerByteSent => exact execPpSerByteSent_onward
  | writeCreditReturn => exact execWriteCreditReturn_onward
  | thermalSample => cases h
  | coldReset => cases h
  | v12Loss => cases h
  | v12RangeChange => cases h
  | moduleResetRelease => cases h
  | moduleRemoval => cases h

/-- Every command answers a next state that is `Sound`. -/
theorem exec_sound (c : Instr) (s : State) : ∃ t, exec c s = .next t ∧ s.Sound t := by
  cases h : mayResetCore c with
  | false =>
    obtain ⟨t, ht, hon⟩ := exec_onward h s
    exact ⟨t, ht, hon.sound⟩
  | true =>
    unfold mayResetCore at h
    split at h
    · exact execColdReset_sound
    · exact execV12Loss_sound
    · exact execV12RangeChange_sound
    · exact execModuleResetRelease_sound
    · exact execThermalSample_sound
    · exact execModuleRemoval_sound
    · cases h

/-- Every step answers a next state that is `Sound`, the front of the queue gone. -/
theorem step_sound (s : State) : ∃ t, step s = .next t ∧ ({ s with pending := s.pending.tail } : State).Sound t := by
  unfold step
  split
  case _ h => exact ⟨s.idle, rfl, by rw [h, List.tail_nil, ← h]; exact (State.idle_onward .rfl).sound⟩
  case _ c rest h => rw [h]; exact exec_sound c _

/-- What an operation keeps includes the canonical form of the tables. -/
theorem State.Kept.canonical {s t : State} (k : s.Kept t) (h : s.canonical = true) : t.canonical = true := by
  simp only [State.canonical, Bool.and_eq_true] at h ⊢
  exact ⟨k.fab.mem h.1, k.fab.regs h.2⟩

/-- A step keeps the tables canonical and device time at the counter it follows. -/
theorem step_canonical_follows {s t : State} (ht : step s = .next t) (hc : s.canonical = true) (hf : s.tb.Follows) :
    t.canonical = true ∧ t.tb.Follows := by
  obtain ⟨u, hu, hsound⟩ := step_sound s
  obtain rfl : u = t := Host.Outcome.next.inj (hu.symm.trans ht)
  exact ⟨hsound.kept.canonical hc, hsound.follows hf⟩

/-- A state with a register and a byte of the paddock written, and a command waiting. -/
def writtenState : State :=
  { (State.reset.ww GLB_BW_CTRL 5#32).setBytes 64 [7#8] with pending := [.timeSet 0] }

/-- `writtenState` meets what `Obligations.CanonicalKept` supposes, with neither table empty. -/
theorem writtenState_canonical_follows : writtenState.canonical = true ∧ writtenState.tb.Follows
    ∧ writtenState.fab.regs ≠ [] ∧ writtenState.fab.mem ≠ [] ∧ ∃ t, step writtenState = .next t :=
  ⟨by decide +kernel, fun _ => rfl, by decide +kernel, by decide +kernel,
    (exec_sound (.timeSet 0) _).imp fun _ => And.left⟩

/-- Settles O2: every command is `Sound`, and `Sound` keeps both. -/
theorem canonicalKept : Obligations.CanonicalKept :=
  fun _ _ ht ⟨hc, hf⟩ => step_canonical_follows ht hc hf

end Sys2Proof.Machine

/-! SUPPORT. What every step leaves of the queue, of what has been sent and of the numbers of free values (R22, R341). -/
namespace Sys2Proof.Machine

/-- An operation only adds to what has been sent. -/
theorem State.Kept.out_appends {s t : State} (k : s.Kept t) : ∃ l, t.fab.out = l ++ s.fab.out :=
  k.fab.out.imp fun _ => Eq.symm

/-- Settles O5: every step answers a next state, and keeps what `Sound` keeps from the queue without its front. -/
theorem queueAndOutputs : Obligations.QueueAndOutputs := by
  refine ⟨fun s => (step_sound s).imp fun _ => And.left, fun s t ht => ?_⟩
  obtain ⟨u, hu, hsound⟩ := step_sound s
  obtain rfl : u = t := Host.Outcome.next.inj (hu.symm.trans ht)
  exact ⟨hsound.kept.pending, hsound.kept.out_appends, hsound.kept.free⟩

end Sys2Proof.Machine

/-! SUPPORT. What a set of a counter makes of the counters and of device time (R352, R367, R368). -/
namespace Sys2Proof.Machine

theorem TimeBase.counter_setCounter_same (a : TimeBase) (d : Nat) (c : Counter) : (a.setCounter d c).counter d = c := by
  unfold TimeBase.counter TimeBase.setCounter
  split <;> rfl

@[simp] theorem TimeBase.setCounter_dev (a : TimeBase) (d : Nat) (c : Counter) : (a.setCounter d c).dev = a.dev := by
  unfold TimeBase.setCounter
  split <;> rfl

@[simp] theorem TimeBase.setCounter_join (a : TimeBase) (d : Nat) (c : Counter) : (a.setCounter d c).join = a.join := by
  unfold TimeBase.setCounter
  split <;> rfl

@[simp] theorem TimeBase.setCounter_active (a : TimeBase) (d : Nat) (c : Counter) :
    (a.setCounter d c).active = a.active := by
  unfold TimeBase.setCounter
  split <;> rfl

namespace State

@[simp] theorem raise_tb (s : State) (src detail : Nat) : (s.raise src detail).tb = s.tb := rfl
@[simp] theorem wrIf_tb (s : State) (f : FRef) (c : Bool) : (s.wrIf f c).tb = s.tb := rfl

@[simp] theorem syncTime_tb (s : State) : s.syncTime.tb = s.tb := by
  rw [syncTime, wr_tb]
  simp only [wrIf_tb]

@[simp] theorem joined_tb (s : State) : s.joined.tb = s.tb := by
  rw [joined, raise_tb, tally_tb, syncTime_tb]

@[simp] theorem bwTake_tb (p : Nat) (s : State) : (s.bwTake p).tb = s.tb := by
  rw [bwTake, wr_tb, wr_tb]

@[simp] theorem steppedNext_tb (s : State) : s.steppedNext.tb = s.tb := rfl

@[simp] theorem steppedTake_tb (old : Nat) (s : State) : (s.steppedTake old).tb = s.tb := by
  unfold steppedTake
  split
  · rfl
  · rw [steppedNext_tb, bwTake_tb]

/-- A forward step has marked the slots it passed, and left all else of the time base. -/
theorem forwardStep_tb (s : State) (old : Nat) : (s.forwardStep old).tb = (s.steppedMarks old).tb := by
  simp only [forwardStep]
  split
  · rw [steppedTake_tb]
  · rw [raise_tb, tally_tb, steppedNext_tb, steppedTake_tb]

@[simp] theorem forwardStep_counter (s : State) (old d : Nat) : (s.forwardStep old).tb.counter d = s.tb.counter d := by
  rw [forwardStep_tb]
  rfl

@[simp] theorem forwardStep_dev (s : State) (old : Nat) : (s.forwardStep old).tb.dev = s.tb.dev := by
  rw [forwardStep_tb]
  rfl

/-- A completed join leaves the counters: device time alone has stepped. -/
@[simp] theorem joinStep_counter (e d : Nat) (s : State) : (s.joinStep e).tb.counter d = s.tb.counter d := by
  simp only [joinStep, forwardStep_counter, joined_tb]
  rfl

@[simp] theorem joinWait_counter (e d : Nat) (g : Int) (s : State) : (s.joinWait e g).tb.counter d = s.tb.counter d := by
  simp only [joinWait, raise_tb, syncTime_tb]
  cases s.tb.join <;> rfl

@[simp] theorem joinCatch_counter (e d : Nat) (s : State) : (s.joinCatch e).tb.counter d = s.tb.counter d := by
  simp only [joinCatch, syncTime_tb]
  rfl

@[simp] theorem joinJudge_counter (e d : Nat) (s : State) : (s.joinJudge e).tb.counter d = s.tb.counter d := by
  simp only [joinJudge]
  split <;> split <;> simp

/-- What follows a set leaves the counters as they have been set. -/
theorem afterSet_counter (d e : Nat) (s : State) : (s.afterSet d).tb.counter e = s.tb.counter e := by
  unfold afterSet
  split
  case h_1 | h_2 =>
    split
    · rw [forwardStep_counter]
      rfl
    · split
      · rw [joinStep_counter]
      · rfl
  case h_3 =>
    split
    · rw [joinJudge_counter]
    · rfl
  case h_4 =>
    split
    · rw [joinStep_counter]
    · rfl

theorem afterSet_of_follow_same {d : Nat} {s : State} (hj : s.tb.join = .follow) (ha : s.tb.active = d) :
    (s.afterSet d).tb.dev = (s.tb.counter d).val := by
  rw [afterSet, hj]
  simp [sameCounter, ha]

theorem afterSet_of_follow_other {d : Nat} {s : State} (hj : s.tb.join = .follow)
    (ha : sameCounter s.tb.active d = false) : s.afterSet d = s := by
  rw [afterSet, hj]
  simp [ha]

/-- A counter as an accepted set leaves it, before device time and the joins take note: counted, with its event. -/
def counterSet (d v : Nat) (s : State) : State :=
  stepEvent d 1 ((s.updCounter d fun c => { c with val := v }).tally (TD_STEP_TALLY_COUNT d))

theorem counterSet_tb (d v : Nat) (s : State) :
    (s.counterSet d v).tb = s.tb.setCounter d { s.tb.counter d with val := v } := rfl

theorem counterSet_val (d v : Nat) (s : State) : ((s.counterSet d v).tb.counter d).val = v := by
  rw [counterSet_tb, TimeBase.counter_setCounter_same]

theorem applySet_of_lt {d v : Nat} {s : State} (h : v < (s.tb.counter d).val) :
    s.applySet d v = (s.wr (TD_STATUS_SET_REFUSED d) 1).raise (652 + d) 0 := if_pos h

theorem applySet_of_le {d v : Nat} {s : State} (h : (s.tb.counter d).val ≤ v) :
    s.applySet d v = (s.counterSet d v).afterSet d := if_neg (Nat.not_lt.2 h)

end State

/-- Settles O7: below the counter the set is refused, else the counter is set and device time follows it. -/
theorem timeSetApplies : Obligations.TimeSetApplies := by
  intro d s hd u v
  refine ⟨fun h => congrArg Host.Outcome.next (State.applySet_of_lt h), fun h => ⟨u.applySet d v, rfl, ?_⟩⟩
  have hjoin : (u.counterSet d v).tb.join = u.tb.join := by simp [State.counterSet_tb]
  have hactive : (u.counterSet d v).tb.active = u.tb.active := by simp [State.counterSet_tb]
  rw [State.applySet_of_le h, State.afterSet_counter, State.counterSet_val]
  refine ⟨rfl, fun ⟨hfollow, hself⟩ => ?_, fun ⟨hfollow, hother⟩ => ?_⟩
  · rw [State.afterSet_of_follow_same (hjoin.trans hfollow) (hactive.trans hself), State.counterSet_val]
  · have hne : State.sameCounter (u.counterSet d v).tb.active d = false := by
      rw [hactive, hother]
      interval_cases d <;> rfl
    rw [State.afterSet_of_follow_other (hjoin.trans hfollow) hne]
    simp [State.counterSet_tb]

end Sys2Proof.Machine

/-! SUPPORT. When a record completes (R20). -/
namespace Sys2Proof.Machine

theorem exec_recordComplete_of_covered {slot : Nat} {s : State} {r : Rec} (h : s.record slot = some r)
    (hclosed : r.state = 2) (hcover : s.tagsCover r.mid = true) :
    exec (.recordComplete slot) s = .next (s.completeRecord slot false) := by
  show execRecordComplete slot s = _
  rw [execRecordComplete, h]
  exact congrArg Host.Outcome.next (if_pos ⟨hclosed, hcover⟩)

theorem exec_recordComplete_of_not_covered {slot : Nat} {s : State} {r : Rec} (h : s.record slot = some r)
    (hn : ¬ (r.state = 2 ∧ s.tagsCover r.mid = true)) : exec (.recordComplete slot) s = .next s := by
  show execRecordComplete slot s = _
  rw [execRecordComplete, h]
  exact congrArg Host.Outcome.next (if_neg hn)

theorem exec_recordTagTimeout_of_closed {slot : Nat} {s : State} {r : Rec} (h : s.record slot = some r)
    (hclosed : r.state = 2) : exec (.recordTagTimeout slot) s = .next (s.completeRecord slot true) := by
  show execRecordTagTimeout slot s = _
  rw [execRecordTagTimeout, h]
  exact congrArg Host.Outcome.next (if_pos hclosed)

theorem exec_recordTagTimeout_of_not_closed {slot : Nat} {s : State} {r : Rec} (h : s.record slot = some r)
    (hn : r.state ≠ 2) : exec (.recordTagTimeout slot) s = .next s := by
  show execRecordTagTimeout slot s = _
  rw [execRecordTagTimeout, h]
  exact congrArg Host.Outcome.next (if_neg hn)

/-- Settles O29: a slot without a record, then the record's state, its cover, and the two commands that complete it. -/
theorem recordsComplete : Obligations.RecordsComplete := by
  intro slot s
  refine ⟨fun hnone => ?_, fun r hr => ⟨fun hopen => ?_, fun hcover => ?_, fun late hclosed => ?_⟩⟩
  · constructor
    · show execRecordComplete slot s = _
      rw [execRecordComplete, hnone]
    · show execRecordTagTimeout slot s = _
      rw [execRecordTagTimeout, hnone]
  · exact ⟨exec_recordComplete_of_not_covered hr fun h => hopen h.1, exec_recordTagTimeout_of_not_closed hr hopen⟩
  · exact exec_recordComplete_of_not_covered hr fun h => Bool.eq_false_iff.1 hcover h.2
  · constructor
    · rintro ⟨rfl, hcover⟩
      rewrite [exec_recordComplete_of_covered hr hclosed hcover, State.completeRecord, hr]
      rfl
    · rintro rfl
      rewrite [exec_recordTagTimeout_of_closed hr hclosed, State.completeRecord, hr]
      rfl

end Sys2Proof.Machine

/-! SUPPORT. Commits of a context's bank (R21, R208, R213), and the throttle of a fold (R206). -/
namespace Sys2Proof.Machine
namespace State

/-- What a request finds of the pending bank of a context, for the stream the context serves (R208). -/
def bankVerdict (s : State) (f c : Nat) : Nat :=
  let st := s.rd (FXC_STATUS_STREAM f c)
  bankCheck (bankAt s.fab f c 0) (s.rd (ST_FORMAT_VALUE (portOf st) (st % 4))) (s.streamWidth st) (s.streamHeight st)
    fun p => s.owner p == s.streamOwner st

/-- The code a commit request answers in REJECT (R208, R485). -/
def rejectCode (s : State) (f c : Nat) : Nat :=
  if s.rd (FXC_STATUS_STREAM f c) = 127 then 10
  else if s.bankVerdict f c = 0 ∧ (bankAt s.fab f c 0).coder ∧ s.rd GLB_PWR_STATUS_CODERS = 0 then 14
  else s.bankVerdict f c

/-- A request is shown in REJECT, and is pending or raises the fold's event by its code. -/
theorem contextReq_eq (f c : Nat) (s : State) :
    s.contextReq f c = if s.rejectCode f c = 0 then (s.wr (FXC_COMMIT_REJECT f c) 0).wr (FXC_COMMIT_PENDING f c) 1
      else (s.wr (FXC_COMMIT_REJECT f c) (s.rejectCode f c)).raise (328 + 8 * f + 1) 0 := by
  show (if s.rejectCode f c = 0 then (s.wr (FXC_COMMIT_REJECT f c) (s.rejectCode f c)).wr (FXC_COMMIT_PENDING f c) 1
    else (s.wr (FXC_COMMIT_REJECT f c) (s.rejectCode f c)).raise (328 + 8 * f + 1) 0) = _
  split
  · next h => rw [h]
  · rfl

theorem contextReq_of_rejected {f c code : Nat} {s : State} (h : s.rejectCode f c = code) (hne : code ≠ 0) :
    s.contextReq f c = (s.wr (FXC_COMMIT_REJECT f c) code).raise (328 + 8 * f + 1) 0 := by
  rw [contextReq_eq, h, if_neg hne]

theorem contextReq_of_taken {f c : Nat} {s : State} (h : s.rejectCode f c = 0) :
    s.contextReq f c = (s.wr (FXC_COMMIT_REJECT f c) 0).wr (FXC_COMMIT_PENDING f c) 1 := by
  rw [contextReq_eq, if_pos h]

theorem rejectCode_of_no_stream {f c : Nat} {s : State} (h : s.rd (FXC_STATUS_STREAM f c) = 127) :
    s.rejectCode f c = 10 := if_pos h

theorem rejectCode_of_no_coders {f c : Nat} {s : State} (hst : s.rd (FXC_STATUS_STREAM f c) ≠ 127)
    (hok : s.bankVerdict f c = 0) (hcoder : (bankAt s.fab f c 0).coder = true) (hpwr : s.rd GLB_PWR_STATUS_CODERS = 0) :
    s.rejectCode f c = 14 := by
  rw [rejectCode, if_neg hst, if_pos ⟨hok, hcoder, hpwr⟩]

theorem rejectCode_of_bank {f c : Nat} {s : State} (hst : s.rd (FXC_STATUS_STREAM f c) ≠ 127)
    (h : ¬ (s.bankVerdict f c = 0 ∧ (bankAt s.fab f c 0).coder = true ∧ s.rd GLB_PWR_STATUS_CODERS = 0)) :
    s.rejectCode f c = s.bankVerdict f c := by
  rw [rejectCode, if_neg hst, if_neg h]

/-- A commit that has run on the control side is published (R21). -/
theorem publishCommit_of_run {st gen : Nat} {s : State} {h : Nat × Nat} {r : List (Nat × Bool)} (hh : s.homeOf st = some h)
    (hp : (s.ctx (ctxKey h)).publish = (gen, true) :: r) :
    s.publishCommit st = ((wr (s.updCtx (ctxKey h) fun x => { x with publish := r }) (FXC_GEN_VALUE h.1 h.2) gen).wr
      ⟨FX_COMMIT_DONE h.1 (h.2 / 32), h.2 % 32, h.2 % 32⟩ 1).raise (328 + 8 * h.1) 0 := by
  rw [publishCommit, hh]
  simp only [hp]
  rfl

end State

theorem exec_contextCommitReq_of_may {fn f c : Nat} {s : State} (h : s.mayContext fn f c = true) :
    exec (.contextCommitReq fn f c) s = .next (s.contextReq f c) := congrArg Host.Outcome.next (if_pos h)

/-- Settles O34: the code of a request goes by the context's stream, the bank's check and the coders' domain. -/
theorem contextCommands : Obligations.ContextCommands := by
  intro fn f c st k s x bk bad
  refine ⟨fun hno => ?notOwner, fun ⟨hmay, hx⟩ => ?noStream, fun ⟨hmay, hx, hbad⟩ => ?badBank,
    fun ⟨hmay, hx, hok, hcoder, hpwr⟩ => ?noCoders, fun ⟨hmay, hx, hok, hcoder⟩ => ?taken, fun hmay => ?cancel,
    fun hnone => ?noHome, fun h gen r ⟨hh, hp⟩ => ?published, fun hk => ?sameStep, fun hk => ?newStep, rfl, rfl⟩
  case notOwner =>
    have hn : ¬ s.mayContext fn f c = true := Bool.eq_false_iff.1 hno
    exact ⟨congrArg Host.Outcome.next (if_neg hn), congrArg Host.Outcome.next (if_neg hn)⟩
  case noStream =>
    rw [exec_contextCommitReq_of_may hmay, State.contextReq_of_rejected (State.rejectCode_of_no_stream hx) (by decide)]
  case badBank =>
    rw [exec_contextCommitReq_of_may hmay,
      State.contextReq_of_rejected (State.rejectCode_of_bank hx fun h => hbad h.1) hbad]
    rfl
  case noCoders =>
    rw [exec_contextCommitReq_of_may hmay,
      State.contextReq_of_rejected (State.rejectCode_of_no_coders hx hok hcoder hpwr) (by decide)]
  case taken =>
    have hno : ¬ (bk.coder = true ∧ s.rd GLB_PWR_STATUS_CODERS = 0) := by
      rintro ⟨hc, hp⟩
      exact hcoder.elim (Bool.eq_false_iff.1 · hc) (· hp)
    rw [exec_contextCommitReq_of_may hmay,
      State.contextReq_of_taken ((State.rejectCode_of_bank hx fun h => hno h.2).trans hok)]
  case cancel => exact congrArg Host.Outcome.next (if_pos hmay)
  case noHome =>
    show Host.Outcome.next (s.publishCommit st) = _
    rw [State.publishCommit, hnone]
  case published => exact congrArg Host.Outcome.next (State.publishCommit_of_run hh hp)
  case sameStep => exact congrArg Host.Outcome.next (if_pos hk)
  case newStep => exact congrArg Host.Outcome.next (if_neg hk)

end Sys2Proof.Machine

/-! SUPPORT. Training blocks and capability sets by the state of the port (R132, R137, R145), and the switches of a fold
(R25). -/
namespace Sys2Proof.Machine
namespace State

theorem trainingBlock_of_no_port {n : Nat} {s : State} (number : Nat) (ready : Bool) (tap action reply : Nat)
    (inverted better : Bool) (h : s.lanePort n = none) :
    s.trainingBlock n number ready tap action reply inverted better = s := by
  rw [trainingBlock, h]

theorem trainingBlock_of_stray {n P : Nat} {s : State} (number : Nat) (ready : Bool) (tap action reply : Nat)
    (inverted better : Bool) (h : s.lanePort n = some P) (hst : s.portState P = 5) (h3 : s.standardOf P = 3) :
    s.trainingBlock n number ready tap action reply inverted better = s.tally (PT_TV_STRAY_TALLY_COUNT P) := by
  rw [trainingBlock, h]
  simp only [if_pos hst, if_pos h3]

/-- A port that is Off, in Exchange or in Rest takes no training block. -/
theorem trainingBlock_of_not_training {n P : Nat} {s : State} (number : Nat) (ready : Bool) (tap action reply : Nat)
    (inverted better : Bool) (h : s.lanePort n = some P) (hst : s.portState P = 0 ∨ 4 ≤ s.portState P)
    (h5 : s.portState P ≠ 5) :
    s.trainingBlock n number ready tap action reply inverted better = s := by
  rw [trainingBlock, h]
  dsimp only
  rw [if_neg h5, if_pos hst]

theorem trainingBlock_of_training {n P : Nat} {s : State} (number : Nat) (ready : Bool) (tap action reply : Nat)
    (inverted better : Bool) (h : s.lanePort n = some P) (hst : s.portState P ≠ 0 ∧ s.portState P < 4) :
    s.trainingBlock n number ready tap action reply inverted better =
      let v := if (s.port P).standard = 0 ∧ 2 ≤ s.portState P ∧ 3 ≤ (s.port P).rate then nameStandard P 3 s else s
      let w := v.updLane n fun l => { l with farNumber := some number, farReady := ready, farInverted := inverted }
      if s.portState P = 2 ∧ (w.port P).standard = 3 then tapRequest n tap action (tapSearch n reply better w) else w := by
  rw [trainingBlock, h]
  dsimp only
  rw [if_neg (by omega), if_neg (by omega)]

theorem capabilitySet_of_stray {P : Nat} {s : State} {e : PortEntry} (agreed reject : Bool) (fs : List (Nat × Nat))
    (h : s.portEntry P = some e) (hst : s.portState P = 5) (h3 : s.standardOf P = 3) :
    s.capabilitySet P agreed reject fs = s.tally (PT_TV_STRAY_TALLY_COUNT P) := by
  rw [capabilitySet, h]
  exact if_pos ⟨hst, h3⟩

/-- A declared set in Exchange, with the device's own declared: nothing in common fails the attempt. -/
theorem capabilitySet_of_disagreed {P : Nat} {s : State} {e : PortEntry} (reject : Bool) {fs : List (Nat × Nat)}
    (h : s.portEntry P = some e) (hst : s.portState P = 4) (h3 : (s.port P).standard = 3) (hstep : (s.port P).capStep = 1)
    (ha : s.agree P e fs = none) : s.capabilitySet P false reject fs = attemptFail P 4 7 255 s := by
  rw [capabilitySet, h]
  dsimp only
  rw [if_neg (by omega), if_neg (by omega), if_pos ⟨hstep, rfl⟩, ha]

theorem capabilitySet_of_declared {P lanes streams : Nat} {s : State} {e : PortEntry} (reject : Bool)
    {fs : List (Nat × Nat)} (h : s.portEntry P = some e) (hst : s.portState P = 4) (h3 : (s.port P).standard = 3)
    (hstep : (s.port P).capStep = 1) (ha : s.agree P e fs = some (lanes, streams)) :
    s.capabilitySet P false reject fs
      = (s.setPort P { s.port P with capStep := 3, farCaps := fs, agreed := s.agreedSet P lanes streams fs }).emit
        (.portBlock P (capBlocks true (s.agreedSet P lanes streams fs))) := by
  rw [capabilitySet, h]
  dsimp only
  rw [if_neg (by omega), if_neg (by omega), if_pos ⟨hstep, rfl⟩, ha]

/-- An agreed set in Exchange, with the device's own agreed sent: rejected, or the control channel is probed. -/
theorem capabilitySet_of_agreed {P : Nat} {s : State} {e : PortEntry} (reject : Bool) (fs : List (Nat × Nat))
    (h : s.portEntry P = some e) (hst : s.portState P = 4) (h3 : (s.port P).standard = 3)
    (hstep : (s.port P).capStep = 3) :
    s.capabilitySet P true reject fs = if reject then attemptFail P 4 7 255 s
      else addRequest P { tag := 0, write := false, addr := 0, len := 4, kind := 2, who := 0 }
        (s.setPort P { s.port P with capStep := 5 }) := by
  rw [capabilitySet, h]
  dsimp only
  rw [if_neg (by omega), if_neg (by omega), if_neg (by omega), if_pos ⟨hstep, rfl⟩]

/-- What a repeat sends, by the step at hand. -/
theorem capabilityRepeat_of_entry {P : Nat} {s : State} {e : PortEntry} (h : s.portEntry P = some e) :
    s.capabilityRepeat P = if s.portState P ≠ 4 then s
      else if (s.port P).capStep = 1 then s.emit (.portBlock P (capBlocks false (declaredSet e)))
      else if (s.port P).capStep = 3 then s.emit (.portBlock P (capBlocks true (s.port P).agreed))
      else s := by
  rw [capabilityRepeat, h]

end State

/-- Settles O41: blocks and sets by the port's state and step, and ENABLE by the fold whose header it stands in. -/
theorem trainingAndCapabilities : Obligations.TrainingAndCapabilities := by
  intro P n number tap action reply off ready inverted better agreed reject on fs s block
  refine ⟨fun hnone => ?noPort, fun Q hQ => ?block, fun e he => ?set, ?enable, rfl⟩
  case noPort =>
    exact congrArg Host.Outcome.next (State.trainingBlock_of_no_port number ready tap action reply inverted better hnone)
  case block =>
    refine ⟨fun ⟨hst, h3⟩ => congrArg Host.Outcome.next ?_, fun hst => congrArg Host.Outcome.next ?_,
      fun hst => congrArg Host.Outcome.next ?_⟩
    · exact State.trainingBlock_of_stray number ready tap action reply inverted better hQ hst h3
    · exact State.trainingBlock_of_not_training number ready tap action reply inverted better hQ (by omega) (by omega)
    · exact State.trainingBlock_of_training number ready tap action reply inverted better hQ (by omega)
  case set =>
    refine ⟨fun ⟨hst, h3⟩ => ?_, fun ⟨hst, h3, hstep, ha⟩ => ?_, fun lanes streams ⟨hst, h3, hstep, ha⟩ => ?_,
      fun ⟨hst, h3, hstep⟩ => ⟨?_, ?_⟩, fun hidle => ?_, fun ⟨hst, hstep⟩ => ?_, fun ⟨hst, hstep⟩ => ?_⟩ <;>
      refine congrArg Host.Outcome.next ?_
    · exact State.capabilitySet_of_stray agreed reject fs he hst h3
    · exact State.capabilitySet_of_disagreed reject he hst h3 hstep ha
    · exact State.capabilitySet_of_declared reject he hst h3 hstep ha
    · exact State.capabilitySet_of_agreed true fs he hst h3 hstep
    · exact State.capabilitySet_of_agreed false fs he hst h3 hstep
    · rw [State.capabilityRepeat_of_entry he]
      split
      · rfl
      · rw [if_neg (by omega), if_neg (by omega)]
    · rw [State.capabilityRepeat_of_entry he, if_neg (by omega), if_pos hstep]
    · rw [State.capabilityRepeat_of_entry he, if_neg (by omega), if_neg (by omega), if_pos hstep]
  case enable =>
    refine ⟨fun hnone => ?_, fun Q hQ => ?_⟩
    · show Host.Outcome.next (s.foldEnable off on) = _
      rw [State.foldEnable, hnone]
      rfl
    · show Host.Outcome.next (s.foldEnable off on) = _
      rw [State.foldEnable, hQ]
      rfl

end Sys2Proof.Machine

/-! SUPPORT. Where the stages of an activation, a rollback and the flash write of PROGRAM stay as they are, and where a tick
does not yet begin (R62, R65, R68, R33). -/
namespace Sys2Proof.Machine
namespace State

theorem programDone_of_none {s : State} (fail : Bool) (h : s.struct.program = none) : s.programDone fail = s := by
  rw [programDone, h]

/-- What Retain waits for: the recovery scan, open frames, and channels that still move (R62). -/
def retainWaits (s : State) : Bool :=
  s.rd PD_STATUS_SCAN == 1 || (List.range 97).any (fun st => (s.strm st).frame.isSome) || s.listedChannels.any s.chBusy

theorem retain_of_stopped {s : State} (h : s.struct.stage ≠ .quiesce ∨ ¬ s.shepherdRuns = true ∨ s.retainWaits = true) :
    s.retain = s := if_pos h

theorem reconfigure_of_stopped {s : State}
    (h : (s.struct.stage ≠ .retain ∧ s.struct.stage ≠ .rollback) ∨ ¬ s.shepherdRuns = true) :
    s.reconfigure = s := if_pos h

theorem reconfigure_of_next {s : State} {x : Nat × Image} (hst : s.struct.stage = .retain ∨ s.struct.stage = .rollback)
    (hruns : s.shepherdRuns = true) (hx : s.struct.next = some x) :
    s.reconfigure = loadImage x.1 x.2 (firstPower (setStage .reconfigure 4 s)) := by
  have hgo : ¬ ((s.struct.stage ≠ .retain ∧ s.struct.stage ≠ .rollback) ∨ ¬ s.shepherdRuns = true) := by
    rintro (⟨hretain, hrollback⟩ | hstop)
    · exact hst.elim hretain hrollback
    · exact hstop hruns
  rw [reconfigure, if_neg hgo, hx]

theorem resume_of_stopped {s : State} {n : Nat} {im : Image} (hx : s.struct.next = some (n, im))
    (h : s.struct.stage ≠ .retrain ∨ ¬ s.shepherdRuns = true ∨ (s.unseated = true ∧ (n = 1 ∨ n = 2))) :
    s.resume = s := by
  rw [resume, hx]
  exact if_pos h

theorem rollback_of_none {s : State} (h : s.struct.rollbackDue = none) : s.rollback = s := by
  rw [rollback, h]

theorem rollback_of_stopped {s : State} {code : Nat} (hdue : s.struct.rollbackDue = some code)
    (h : ¬ s.shepherdRuns = true ∨ s.rd GLB_RESET_BUSY = 1 ∨ s.struct.stage ≠ .idle) : s.rollback = s := by
  rw [rollback, hdue]
  exact if_pos h

/-- A rollback that is due, by whether an image was in force before. -/
theorem rollback_of_due {s : State} {code : Nat} (hdue : s.struct.rollbackDue = some code)
    (hruns : s.shepherdRuns = true) (hbusy : s.rd GLB_RESET_BUSY ≠ 1) (hst : s.struct.stage = .idle) :
    (s.struct.prior = none → s.rollback = bootSelect (s.updStruct fun x => { x with rollbackDue := none }))
    ∧ ∀ p, s.struct.prior = some p → s.rollback = ((rollbackBegin code 3 p
        (idleOutputs ((List.range 97).foldl (fun (t : State) k => closeFrame k 5 t) s.notePlaced))).raise 866 0).wr
          STR_STATUS_STATE 4 := by
  have hgo : ¬ (¬ s.shepherdRuns = true ∨ s.rd GLB_RESET_BUSY = 1 ∨ s.struct.stage ≠ .idle) :=
    not_or.2 ⟨not_not.2 hruns, not_or.2 ⟨hbusy, not_not.2 hst⟩⟩
  rw [rollback, hdue]
  dsimp only
  rw [if_neg hgo]
  exact ⟨fun hp => by rw [hp], fun p hp => by rw [hp]⟩

end State

/-- Settles O60: each command by what it meets, the image of its source, the stage before, or the boundary of the tick. -/
theorem activationAndTick : Obligations.ActivationAndTick := by
  intro source wait st fail s u asked runs clipped
  refine ⟨fun ⟨hs, hw⟩ => ?go, fun ⟨hs, hw⟩ => ?check, fun ⟨hs, hw⟩ => ?program, fun hnone => ?noProgram,
    fun p hp => ?programDone, ?postWait, ?quiesce, ?timeout,
    ⟨fun hstop => ?retainStays, fun x ⟨hst, hruns, hquiet, hx⟩ => ?retain⟩,
    fun hstop => ?reconfigureStays, fun x ⟨hst, hruns, hx⟩ => ?reconfigure, ?retrain,
    fun n im hx => ⟨fun hstop => ?resumeStays, fun ⟨hst, hruns, hseat⟩ => ?resume⟩,
    fun hnone => ?noRollback, fun code hdue => ⟨fun hstop => ?rollbackStays, fun ⟨hruns, hbusy, hst⟩ => ?rollback⟩,
    ⟨fun hlt => ?early, fun hle => ?tick⟩⟩
  case go => exact congrArg Host.Outcome.next (State.strCtrl_eq (op := 0) s (by decide) hs hw)
  case check => exact congrArg Host.Outcome.next (State.strCtrl_eq (op := 1) s (by decide) hs hw)
  case program => exact congrArg Host.Outcome.next (State.strCtrl_eq (op := 2) s (by decide) hs hw)
  case noProgram => exact congrArg Host.Outcome.next (State.programDone_of_none fail hnone)
  case programDone =>
    show Host.Outcome.next (s.programDone fail) = _
    rw [State.programDone, hp]
    rfl
  case postWait => rfl
  case quiesce => rfl
  case timeout => rfl
  case retainStays => exact congrArg Host.Outcome.next (State.retain_of_stopped hstop)
  case retain =>
    have hgo : ¬ (s.struct.stage ≠ .quiesce ∨ ¬ s.shepherdRuns = true ∨ s.retainWaits = true) :=
      not_or.2 ⟨not_not.2 hst, not_or.2 ⟨not_not.2 hruns, Bool.eq_false_iff.1 hquiet⟩⟩
    refine congrArg Host.Outcome.next ((if_neg hgo).trans ?_)
    rw [hx]
    rfl
  case reconfigureStays => exact congrArg Host.Outcome.next (State.reconfigure_of_stopped hstop)
  case reconfigure => exact congrArg Host.Outcome.next (State.reconfigure_of_next hst hruns hx)
  case retrain => rfl
  case resumeStays => exact congrArg Host.Outcome.next (State.resume_of_stopped hx hstop)
  case resume =>
    intro back a b c v w y z
    show Host.Outcome.next s.resume = _
    rw [State.resume, hx]
    exact congrArg Host.Outcome.next (if_neg (not_or.2 ⟨not_not.2 hst, not_or.2 ⟨not_not.2 hruns, hseat⟩⟩))
  case noRollback => exact congrArg Host.Outcome.next (State.rollback_of_none hnone)
  case rollbackStays => exact congrArg Host.Outcome.next (State.rollback_of_stopped hdue hstop)
  case rollback =>
    obtain ⟨hboot, hprior⟩ := State.rollback_of_due hdue hruns hbusy hst
    refine congrArg Host.Outcome.next ?_
    cases hp : s.struct.prior with
    | none => exact hboot hp
    | some p => exact hprior p hp
  case early => exact congrArg Host.Outcome.next (if_pos hlt)
  case tick => exact congrArg Host.Outcome.next (if_neg (Nat.not_lt.2 hle))

end Sys2Proof.Machine

/-! SUPPORT. What each upload request does by the upload its transport has open, and what the shepherd answers to a mailbox
operation (R42, R333, R477, R478). -/
namespace Sys2Proof.Machine
namespace State

/-- A transport that has no upload of the kind open is answered so by every request but BEGIN and QUERY (R333). -/
theorem uploadOp_of_none {t : Transport} {fw : Bool} {s : State} (op arg : Nat) (l : List Byte)
    (h : s.uploadOf t fw = none) (ho : op ≠ 1 ∧ op ≠ 5) : uploadOp t fw op arg l s = (s.noUpload t, 0, s) := by
  unfold uploadOp
  rw [h]
  exact (if_neg ho.1).trans (if_neg ho.2)

/-- DATA with the upload open: appended at the offset reached, in words, within the total. -/
theorem uploadOp_data_of_some {t : Transport} {fw : Bool} {s : State} {u : Upload} (off : Nat) (l : List Byte)
    (h : s.uploadOf t fw = some u) :
    uploadOp t fw 2 off l s = if off ≠ u.bytes.length then (1, u.bytes.length, s)
      else if l.length < 4 ∨ l.length > 65536 ∨ l.length % 4 ≠ 0 ∨ u.bytes.length + l.length > u.total then
        (2, u.bytes.length, s)
      else (0, u.bytes.length + l.length, setUpload (some { u with bytes := u.bytes ++ l }) s) := by
  unfold uploadOp
  rw [h]
  rfl

/-- END with the upload open: a complete image becomes the image in RAM, unless an activation uses that (R42). -/
theorem uploadOp_end_of_some {t : Transport} {fw : Bool} {s : State} {u : Upload} (arg : Nat) (l : List Byte)
    (h : s.uploadOf t fw = some u) :
    uploadOp t fw 3 arg l s = if u.bytes.length ≠ u.total then (1, u.bytes.length, s)
      else if s.uploadInUse = true then (3, u.bytes.length, s)
      else (0, u.total, (setUploaded u.bytes (setUpload none s)).raise 840 0) := by
  unfold uploadOp
  rw [h]
  rfl

/-- ABORT with the upload open drops it. -/
theorem uploadOp_abort_of_some {t : Transport} {fw : Bool} {s : State} {u : Upload} (arg : Nat) (l : List Byte)
    (h : s.uploadOf t fw = some u) : uploadOp t fw 4 arg l s = (0, 0, setUpload none s) := by
  unfold uploadOp
  rw [h]
  rfl

/-- The result of an upload request as the mailbox answers it. -/
def mailboxAnswer (r : Nat × Nat × State) : State := mailboxDone r.1 r.2.1 r.2.2

/-- An operation that no rule names, or that Recovery does not serve, is answered 4 (R477, R478). -/
theorem mailboxServe_of_unserved {op : Nat} {s : State}
    (hupload : ¬ (1 ≤ op ∧ op ≤ 5 ∧ s.rd SH_STATUS_STATE ≠ 3))
    (hfirmware : op < 0x10 ∨ 0x14 < op) (hlog : ¬ (op = 0x20 ∧ s.rd SH_STATUS_STATE ≠ 3)) :
    mailboxServe op s = mailboxDone 4 0 s := by
  unfold mailboxServe
  simp only [beq_iff_eq]
  rw [if_neg hupload, if_neg (by omega), if_neg (by omega), if_neg (by omega), if_neg (by omega), if_neg (by omega),
    if_neg hlog]

/-- A request of an image upload in the mailbox, by what the request does: Recovery does not serve it. -/
theorem mailboxServe_upload {op : Nat} {s : State} {r : Nat × Nat × State} (h : 1 ≤ op ∧ op ≤ 5)
    (hrequest : uploadOp .mailbox false op (s.rd SH_MB_ARG_ARG) s.mailboxBytes s = r) :
    mailboxServe op s = if s.rd SH_STATUS_STATE = 3 then mailboxDone 4 0 s else mailboxAnswer r := by
  split
  case isTrue hrec =>
    exact mailboxServe_of_unserved (fun ⟨_, _, hrun⟩ => hrun hrec) (by omega) (by omega)
  case isFalse hrun =>
    rw [← hrequest]
    exact if_pos ⟨h.1, h.2, mt beq_iff_eq.1 hrun⟩

/-- READ_LOG_ENTRY (OP 0x20): Recovery does not serve it. -/
theorem mailboxServe_log (s : State) :
    mailboxServe 0x20 s = if s.rd SH_STATUS_STATE = 3 then mailboxDone 4 0 s else readLog s := by
  split
  case isTrue hrec => exact mailboxServe_of_unserved (by omega) (by omega) fun ⟨_, hrun⟩ => hrun hrec
  case isFalse hrun => exact if_pos ⟨rfl, mt beq_iff_eq.1 hrun⟩

/-- One mailbox operation, by what its service is. -/
theorem mailboxOp_of_serve {op arg : Nat} {data : List Byte} {s : State} {serve : State → State} (h : op < 256)
    (hserve : ∀ t, mailboxServe op t = serve t) :
    mailboxOp op arg data s = if s.rd SH_MB_CMD_BUSY = 1 then s
      else
        let t := mailboxStaged op arg data s
        if t.shepherdRuns = true ∨ t.rd SH_STATUS_STATE = 3 then serve t
        else t.updShep fun x => { x with mailbox := some op } := by
  rw [mailboxOp_eq op arg data s h, hserve]

/-- An OP that names no request is answered 4 as a data object, or waits (R333). -/
theorem objectArrives_of_unknown {op arg : Nat} {data : List Byte} {s : State} (h : op < 1 ∨ 5 < op) :
    objectArrives op arg data s = if s.shepherdRuns = true then
      (s.emit (.reply 0 ([0x3C#8, 0x1F#8, 0x01#8, 0x00#8] ++ leBytes 4 4
        ++ (leBytes 1 (op ||| 0x80) ++ leBytes 3 4 ++ leBytes 4 0)))).raise 839 0
      else s.updShep fun x => { x with objects := x.objects ++ [(op, arg, data)] } := by
  unfold objectArrives uploadObject
  rw [if_pos h]
  simp only [doeReply, List.length_append, leBytes_length]

end State

/-- Settles O56: each request by the upload its transport has open, each mailbox operation by what its service is. -/
theorem uploadsAndMailbox : Obligations.UploadsAndMailbox := by
  intro total offset op entry data fail s staged answered freed mailed running object got begun appended ended aborted
    queried complete
  have hdata : ∀ tr fw off l t, State.uploadOp tr fw 2 off l t = appended tr fw off l t := fun tr fw off l t => by
    cases h : t.uploadOf tr fw with
    | none => simp only [State.uploadOp_of_none 2 off l h (by decide), appended, h]
    | some u => simp only [State.uploadOp_data_of_some off l h, appended, h]
  have hend : ∀ tr n l t, State.uploadOp tr false 3 n l t = ended tr t := fun tr n l t => by
    cases h : t.uploadOf tr false with
    | none => simp only [State.uploadOp_of_none 3 n l h (by decide), ended, h]
    | some u => simp only [State.uploadOp_end_of_some n l h, ended, h]
  have habort : ∀ tr fw n l t, State.uploadOp tr fw 4 n l t = aborted tr fw t := fun tr fw n l t => by
    cases h : t.uploadOf tr fw with
    | none => simp only [State.uploadOp_of_none 4 n l h (by decide), aborted, h]
    | some u => simp only [State.uploadOp_abort_of_some n l h, aborted, h]
  have hobject : ∀ o arg l r, 1 ≤ o ∧ o ≤ 5 → State.uploadOp .doe false o arg l s = r →
      State.objectArrives o arg l s = object o arg l r := fun o arg l r h hr => by
    rw [State.objectArrives_eq o arg l s h, hr]
  refine ⟨?begin, ?beginObject, ?data, ?dataObject, ?finish, ?finishObject, ?abort, ?abortObject, ?query,
    ?queryObject, fun h => ?unknownObject, fun ⟨hlt, hupload, hfirmware, hlog⟩ => ?unknown, ?firmwareBegin,
    ?firmwareData, ?firmwareAbort, ?firmwareEnd, ?restart, ?log⟩ <;> refine congrArg Host.Outcome.next ?_
  case begin =>
    exact State.mailboxOp_of_serve (serve := running fun t => answered (begun .mailbox false (t.rd SH_MB_ARG_ARG) t))
      (by decide) fun _ => State.mailboxServe_upload (by decide) rfl
  case beginObject => exact hobject _ _ _ _ (by decide) rfl
  case data =>
    exact State.mailboxOp_of_serve
      (serve := running fun t => answered (appended .mailbox false (t.rd SH_MB_ARG_ARG) t.mailboxBytes t))
      (by decide) fun _ => State.mailboxServe_upload (by decide) (hdata ..)
  case dataObject => exact hobject _ _ _ _ (by decide) (hdata ..)
  case finish =>
    exact State.mailboxOp_of_serve (serve := running fun t => answered (ended .mailbox t))
      (by decide) fun _ => State.mailboxServe_upload (by decide) (hend ..)
  case finishObject => exact hobject _ _ _ _ (by decide) (hend ..)
  case abort =>
    exact State.mailboxOp_of_serve (serve := running fun t => answered (aborted .mailbox false t))
      (by decide) fun _ => State.mailboxServe_upload (by decide) (habort ..)
  case abortObject => exact hobject _ _ _ _ (by decide) (habort ..)
  case query =>
    exact State.mailboxOp_of_serve (serve := running fun t => answered (queried .mailbox t))
      (by decide) fun _ => State.mailboxServe_upload (by decide) rfl
  case queryObject => exact hobject _ _ _ _ (by decide) rfl
  case unknownObject =>
    have hnamed : ¬ ((1 ≤ op ∧ op ≤ 5) ∨ (false = true ∧ ((0x10 ≤ op ∧ op ≤ 0x14) ∨ op = 0x20))) :=
      fun hop => hop.elim (by omega) fun x => Bool.noConfusion x.1
    exact (if_neg hnamed).trans (State.objectArrives_of_unknown (by omega))
  case unknown =>
    refine (if_neg (by omega)).trans ?_
    exact State.mailboxOp_of_serve (serve := fun t => answered (4, 0, t)) hlt
      fun _ => State.mailboxServe_of_unserved (by omega) hfirmware (by omega)
  case firmwareBegin =>
    exact State.mailboxOp_of_serve (serve := fun t => answered (begun .mailbox true (t.rd SH_MB_ARG_ARG) t))
      (by decide) fun _ => rfl
  case firmwareData =>
    exact State.mailboxOp_of_serve
      (serve := fun t => answered (appended .mailbox true (t.rd SH_MB_ARG_ARG) t.mailboxBytes t))
      (by decide) fun _ => congrArg State.mailboxAnswer (hdata ..)
  case firmwareAbort =>
    exact State.mailboxOp_of_serve (serve := fun t => answered (aborted .mailbox true t))
      (by decide) fun _ => congrArg State.mailboxAnswer (habort ..)
  case firmwareEnd =>
    have hwritten : s.mailboxOp 0x12 0 [] = mailed 0x12 0 [] complete :=
      State.mailboxOp_of_serve (by decide) fun _ => rfl
    exact congrArg (State.firmwareWritten fail) hwritten
  case restart => exact State.mailboxOp_of_serve (by decide) fun _ => rfl
  case log => exact State.mailboxOp_of_serve (by decide) State.mailboxServe_log

end Sys2Proof.Machine

/-! SUPPORT. The supplies, the resets and live plugging (R323, R331, R483, R487-R489, R495, R496). -/
namespace Sys2Proof.Machine

/-- Settles O58: each command is its operation with the shared parts written out, so every guard and every write stands
on both sides in the same order. -/
theorem suppliesAndResets : Obligations.SuppliesAndResets := by
  intro mv line present hot s lost started
  have hlost : ∀ aux seated, s.supplyLost aux seated = lost aux seated := fun _ _ => rfl
  have hstarted : ∀ n t, State.startUp n t = started n t := fun _ _ => rfl
  refine ⟨?cold, ?loss, ?removal, ?range, ?aux, ?assert, ?release, ?warm, ?reload, ?management, ?down, ?unseat,
    ?reseat⟩
  case cold | aux | assert => rfl
  case loss => exact congrArg (fun t => Host.Outcome.next (if s.power.v12 then t else s)) (hlost ..)
  case removal => exact congrArg Host.Outcome.next (hlost ..)
  case range =>
    show Host.Outcome.next (s.rangeChange mv) = _
    rw [State.rangeChange, hlost]
    rfl
  case release =>
    show Host.Outcome.next (s.resetRelease line) = _
    simp only [State.resetRelease, hstarted]
  case warm | reload => rfl
  case management | down => rfl
  case unseat | reseat => rfl

end Sys2Proof.Machine

/-! SUPPORT. The start of an eye scan (R93, R95). -/
namespace Sys2Proof.Machine

/-- A word written with START has bit 31 set. -/
theorem bitsOf_or_start (w : Word) : bitsOf (w ||| 0x80000000#32) 31 31 = 1 := by
  have hbit : (w ||| 0x80000000#32).toNat.testBit 31 = true := by
    rw [BitVec.toNat_or, Nat.testBit_or]
    exact Bool.or_eq_true_iff.2 (.inr (by decide))
  show (w ||| 0x80000000#32).toNat / 2 ^ 31 % 2 = 1
  rw [← Nat.toNat_testBit, hbit]
  rfl

namespace State

/-- What a start leaves of the scan before: no lost lock, no disagreements, no bits. -/
def scanCleared (n : Nat) (s : State) : State :=
  ((s.wr (LN_SCAN_STAT_LOCK_LOST n) 0).wr (LN_SCAN_ERR_COUNT n) 0).wrWide (LN_SCAN_BITS n) 2 0

/-- A write with START and without ABORT: no scan begins while one is under way, and the word's other fields are taken
(log entry 77); else the scan starts on an Active lane and ends at once on another. -/
theorem scanWrite_of_start (fn n : Nat) {w : Word} (s : State) (hstart : bitsOf w 31 31 = 1) (habort : bitsOf w 30 30 = 0) :
    scanWrite fn n w s =
      let u := putWord fn (LN_SCAN_CTRL n) w s
      let v := scanCleared n u
      if u.rd (LN_SCAN_STAT_BUSY n) = 1 then u
      else if v.lanePower n = 3 then (v.wr (LN_SCAN_STAT_BUSY n) 1).wr (LN_SCAN_STAT_END n) 0
      else (v.wr (LN_SCAN_STAT_END n) 2).raise (4 * n + 3) 0 := by
  rw [scanWrite, habort, hstart]
  simp only [Nat.zero_ne_one, Nat.one_ne_zero, if_false, false_or]
  rfl

end State

/-- Settles O35: a word with START set meets a scan under way, a lane that is not Active, or one that is. -/
theorem scanStarts : Obligations.ScanStarts := by
  intro n value s habort u v
  have hwrite := State.scanWrite_of_start 0 n s (bitsOf_or_start value) habort
  refine ⟨fun hbusy => ?busy, fun ⟨hidle, hpower⟩ => ?notActive, fun ⟨hidle, hpower⟩ => ?active⟩ <;>
    refine congrArg Host.Outcome.next (hwrite.trans ?_)
  case busy => exact if_pos hbusy
  case notActive => exact (if_neg hidle).trans (if_neg hpower)
  case active => exact (if_neg hidle).trans (if_pos hpower)

end Sys2Proof.Machine

/-! SUPPORT. Power requests of a lane, the end of an exit, and a lane block reset (R97–R101). -/
namespace Sys2Proof.Machine
namespace State

/-- A request during an exit waits. -/
theorem laneRequest_of_exit {n r : Nat} {s : State} (h : (s.wr (LN_PWR_REQ n) r).rd (LN_PWR_EXIT_BUSY n) = 1) :
    laneRequest n r s = (s.wr (LN_PWR_REQ n) r).updLane n fun l => { l with deferred := some r } := if_pos h

theorem laneRequest_of_no_exit {n r : Nat} {s : State} (h : (s.wr (LN_PWR_REQ n) r).rd (LN_PWR_EXIT_BUSY n) ≠ 1) :
    laneRequest n r s = laneApply n r (s.wr (LN_PWR_REQ n) r) := if_neg h

theorem laneApply_of_unpowered {n r : Nat} {s : State} (h : s.lanePower n = 0) : laneApply n r s = s := if_pos h

/-- A request for Active starts an exit, where the lane is not Active. -/
theorem laneApply_active {n : Nat} {s : State} (h : s.lanePower n ≠ 0) :
    laneApply n 3 s = if s.lanePower n = 3 then s else s.wr (LN_PWR_EXIT_BUSY n) 1 := (if_neg h).trans (if_pos rfl)

/-- Another state than Active is entered at once. -/
theorem laneApply_of_ne_active {n r : Nat} {s : State} (h : s.lanePower n ≠ 0) (hr : r ≠ 3) :
    laneApply n r s = setLanePower n r (if s.lanePower n = 3 then laneLeave n s else s) := (if_neg h).trans (if_neg hr)

theorem laneExit_of_no_exit {n : Nat} {s : State} (locked : Bool) (vstep phase latency : Nat)
    (h : s.rd (LN_PWR_EXIT_BUSY n) = 0) : laneExit n locked vstep phase latency s = s := if_pos h

/-- Clock recovery as an exit leaves it: locked and with no fault (R99), or without the lock and with fault 4 (R100). -/
def exitResult (n : Nat) (locked : Bool) (phase latency : Nat) (s : State) : State :=
  if locked then
    (((((s.wr (LN_STATUS_CDR_LOCK n) 1).wr (LN_STATUS_SIGNAL n) 1).wr (LN_STATUS_FREQ_OK n) 1).wr (LN_STATUS_PHASE n)
      phase).wr (LN_RX_LATENCY_LATENCY n) latency).wr (FH_STATUS_FAULT (LN_HDR n)) 0
  else (s.wr (LN_STATUS_CDR_LOCK n) 0).wr (FH_STATUS_FAULT (LN_HDR n)) 4

/-- The end of an exit from another state than Rest: neither the rate nor the scan's step is taken anew. -/
theorem laneExit_of_not_rest {n : Nat} {s : State} (locked : Bool) (vstep phase latency : Nat)
    (hbusy : s.rd (LN_PWR_EXIT_BUSY n) ≠ 0) (hpower : s.lanePower n ≠ 1) :
    laneExit n locked vstep phase latency s = laneDeferred n (raise (adaptStart n
      (exitResult n locked phase latency ((s.wr (LN_PWR_EXIT_BUSY n) 0).wr (FH_STATUS_POWER (LN_HDR n)) 3)))
        (4 * n + 2) 0) := by
  rw [laneExit, if_neg hbusy]
  simp only [hpower, false_and, if_false]
  rfl

theorem laneBlockReset_of_no_port {n : Nat} {s : State} (h : (laneReset n s).lanePort n = none) :
    laneBlockReset n s = laneReset n s := by
  rw [laneBlockReset, h]

/-- A lane block reset of a port's lane, by the state of the port. -/
theorem laneBlockReset_of_port {n P : Nat} {s : State} (h : (laneReset n s).lanePort n = some P) :
    laneBlockReset n s =
      let v := laneReset n s
      if v.portState P = 0 ∨ v.portState P = 6 then v
      else if v.portState P = 5 then
        if (v.port P).lanes.contains n then listenAfresh P (leaveActive P 5 v) else v
      else listen P v := by
  rw [laneBlockReset, h]

end State

theorem exec_lanePowerRequest_of_ne_zero {n req : Nat} {s : State} (h : req ≠ 0) :
    exec (.lanePowerRequest n req) s = .next (s.laneRequest n req) := congrArg Host.Outcome.next (if_neg h)

/-- Settles O36: a request by the exit under way and the power at hand, an exit's end by whether one is, and a reset by
the port that uses the lane. -/
theorem lanePower : Obligations.LanePower := by
  intro n req vstep phase latency s u
  refine ⟨rfl, fun ⟨h0, hexit⟩ => ?waits, fun ⟨h0, hexit, hoff⟩ => ?unpowered, fun ⟨hexit, hpower⟩ => ?active,
    fun ⟨h0, h3, hexit, hpower⟩ => ?entered, fun hbusy => ?noExit, fun ⟨hbusy, hrest⟩ => ?exitEnds, rfl,
    fun hnone => ?noPort, fun P hP => ?port⟩
  case waits => rw [exec_lanePowerRequest_of_ne_zero h0, State.laneRequest_of_exit hexit]
  case unpowered =>
    rw [exec_lanePowerRequest_of_ne_zero h0, State.laneRequest_of_no_exit hexit, State.laneApply_of_unpowered hoff]
  case active =>
    rw [exec_lanePowerRequest_of_ne_zero (by decide), State.laneRequest_of_no_exit hexit, State.laneApply_active hpower]
  case entered =>
    rw [exec_lanePowerRequest_of_ne_zero h0, State.laneRequest_of_no_exit hexit, State.laneApply_of_ne_active hpower h3]
    rfl
  case noExit =>
    exact ⟨congrArg Host.Outcome.next (State.laneExit_of_no_exit true vstep phase latency hbusy),
      congrArg Host.Outcome.next (State.laneExit_of_no_exit false _ 0 0 hbusy)⟩
  case exitEnds =>
    exact ⟨congrArg Host.Outcome.next (State.laneExit_of_not_rest true vstep phase latency hbusy hrest),
      congrArg Host.Outcome.next (State.laneExit_of_not_rest false _ 0 0 hbusy hrest)⟩
  case noPort => exact congrArg Host.Outcome.next (State.laneBlockReset_of_no_port hnone)
  case port =>
    have hreset := State.laneBlockReset_of_port hP
    refine ⟨fun hst => congrArg Host.Outcome.next (hreset.trans ?_),
      fun ⟨hst, hlanes⟩ => congrArg Host.Outcome.next (hreset.trans ?_),
      fun ⟨h0, h6, h5⟩ => congrArg Host.Outcome.next (hreset.trans ?_)⟩
    · exact if_pos hst
    · exact (if_neg (by omega)).trans ((if_pos hst).trans (if_pos hlanes))
    · exact (if_neg (by omega)).trans (if_neg h5)

end Sys2Proof.Machine

/-! SUPPORT. The end of a density window, and the freezing of adaptation (R80–R82). -/
namespace Sys2Proof.Machine
namespace State

/-- The equaliser takes the values of a window (R80): those at its end (log entry 36). -/
def eqTaken (n : Nat) (ctle dfe : Word) (s : State) : State :=
  ((s.wr (LN_CTLE_GAIN n) (bitsOf ctle 9 8)).wr (LN_CTLE_PEAK n) (bitsOf ctle 3 0)).ww (LN_DFE n) dfe

/-- Outside adaptation by the lane itself a window's end shows its density alone. -/
theorem densityEnd_of_not_adapting {n : Nat} (density : Nat) (ctle dfe : Word) {s : State} :
    let u := s.wr (LN_DENSITY_DENSITY n) density
    ¬ (u.rd (LN_ADAPT_MODE n) = 0 ∧ u.lanePower n = 3) → densityEnd n density ctle dfe s = u :=
  fun h => if_pos (not_and_or.1 h)

/-- A window of an adapting lane that is not frozen: its values are taken, and a low density freezes. -/
theorem densityEnd_of_not_frozen {n : Nat} (density : Nat) (ctle dfe : Word) {s : State} :
    let u := s.wr (LN_DENSITY_DENSITY n) density
    u.rd (LN_ADAPT_MODE n) = 0 ∧ u.lanePower n = 3 → u.rd (LN_STATUS_ADAPT_FROZEN n) = 0 →
    densityEnd n density ctle dfe s =
      let v := eqTaken n ctle dfe u
      if density < u.rd (LN_ADAPT_THRESH n) then
        ((v.wr (LN_STATUS_ADAPT_FROZEN n) 1).tally (LN_FREEZE_TALLY_COUNT n)).updLane n fun l =>
          { l with windows := 0, limitRaised := false }
      else v := fun hon hfrozen => (if_neg fun h => not_and_or.2 h hon).trans (if_pos hfrozen)

/-- A window of a frozen lane: a low density starts the count of windows again, another adds to it, and RESUME of them
end the freeze. -/
theorem densityEnd_of_frozen {n : Nat} (density : Nat) (ctle dfe : Word) {s : State} :
    let u := s.wr (LN_DENSITY_DENSITY n) density
    u.rd (LN_ADAPT_MODE n) = 0 ∧ u.lanePower n = 3 → u.rd (LN_STATUS_ADAPT_FROZEN n) ≠ 0 →
    densityEnd n density ctle dfe s =
      if density < u.rd (LN_ADAPT_THRESH n) then u.updLane n fun l => { l with windows := 0 }
      else if u.rd (LN_ADAPT_RESUME n) ≤ (u.lane n).windows + 1 then freezeStop n u
      else u.updLane n fun l => { l with windows := (u.lane n).windows + 1 } :=
  fun hon hfrozen => (if_neg fun h => not_and_or.2 h hon).trans (if_neg hfrozen)

/-- The limit does nothing outside a frozen interval, nor a second time in one. -/
theorem freezeLimit_of_done {n : Nat} {s : State}
    (h : s.rd (LN_STATUS_ADAPT_FROZEN n) = 0 ∨ (s.lane n).limitRaised = true) : freezeLimit n s = s := if_pos h

theorem freezeLimit_of_due {n : Nat} {s : State} (hfrozen : s.rd (LN_STATUS_ADAPT_FROZEN n) ≠ 0)
    (hdue : (s.lane n).limitRaised = false) :
    freezeLimit n s = (s.updLane n fun l => { l with limitRaised := true }).raise (4 * n + 1) 0 :=
  if_neg (not_or.2 ⟨hfrozen, Bool.eq_false_iff.1 hdue⟩)

end State

/-- Settles O37: a window by whether the lane adapts, whether it is frozen, and its density; the limit by whether it is
due. -/
theorem laneAdaptation : Obligations.LaneAdaptation := by
  intro n density ctle dfe s u low on v
  refine ⟨fun hon => ?off, fun ⟨hon, hfrozen, hlow⟩ => ?values, fun ⟨hon, hfrozen, hlow⟩ => ?freezes,
    fun ⟨hon, hfrozen, hlow⟩ => ?again, fun ⟨hon, hfrozen, hlow, hresume⟩ => ?resumes,
    fun ⟨hon, hfrozen, hlow, hresume⟩ => ?counts, fun hdone => ?limitDone, fun ⟨hfrozen, hdue⟩ => ?limitDue⟩ <;>
    refine congrArg Host.Outcome.next ?_
  case off => exact State.densityEnd_of_not_adapting density ctle dfe hon
  case values => exact (State.densityEnd_of_not_frozen density ctle dfe hon hfrozen).trans (if_neg hlow)
  case freezes => exact (State.densityEnd_of_not_frozen density ctle dfe hon hfrozen).trans (if_pos hlow)
  case again => exact (State.densityEnd_of_frozen density ctle dfe hon hfrozen).trans (if_pos hlow)
  case resumes =>
    exact (State.densityEnd_of_frozen density ctle dfe hon hfrozen).trans ((if_neg hlow).trans (if_pos hresume))
  case counts =>
    exact (State.densityEnd_of_frozen density ctle dfe hon hfrozen).trans
      ((if_neg hlow).trans (if_neg (Nat.not_le.2 hresume)))
  case limitDone => exact State.freezeLimit_of_done hdone
  case limitDue => exact State.freezeLimit_of_due hfrozen hdue

end Sys2Proof.Machine

/-! SUPPORT. Block lock, manual slips and the end of a scan (R89–R91, R94). -/
namespace Sys2Proof.Machine
namespace State

/-- Invalid headers are counted under lock; before it the boundary slips, unless alignment is manual. -/
theorem badHeader_of_locked {n valid : Nat} {s : State}
    (h : (s.wr (LN_ALIGN_STAT_VALID n) valid).rd (LN_STATUS_BLOCK_LOCK n) = 1) :
    badHeader n valid s = (s.wr (LN_ALIGN_STAT_VALID n) valid).tally (LN_HDR_ERR_TALLY_COUNT n) := if_pos h

theorem badHeader_of_unlocked {n valid : Nat} {s : State}
    (h : (s.wr (LN_ALIGN_STAT_VALID n) valid).rd (LN_STATUS_BLOCK_LOCK n) ≠ 1) :
    badHeader n valid s =
      let u := s.wr (LN_ALIGN_STAT_VALID n) valid
      if u.rd (LN_ALIGN_MANUAL n) = 1 then u
      else u.updLane n fun l => { l with boundary := (l.boundary + 1) % 66 } := if_neg h

/-- A loss of a lock the lane holds: a scan under way is marked, the event raised, the loss counted. -/
theorem lockLoss_of_locked {n : Nat} {s : State} (h : s.rd (LN_STATUS_BLOCK_LOCK n) ≠ 0) :
    lockLoss n s =
      let v := s.wr (LN_STATUS_BLOCK_LOCK n) 0
      (raise (if v.rd (LN_SCAN_STAT_BUSY n) = 1 then v.wr (LN_SCAN_STAT_LOCK_LOST n) 1 else v) (4 * n) 0).tally
        (LN_LOCK_LOSS_TALLY_COUNT n) :=
  (if_neg h).trans (congrArg (tally · (LN_LOCK_LOSS_TALLY_COUNT n)) (if_neg h))

section
variable {fn n : Nat} {w : Word} {s : State}

/-- A write of LN_ALIGN into manual mode: a slip count in range adds to the pending slips, to 65 at most. -/
theorem alignSlip_of_manual (h : (putWord fn (LN_ALIGN n) w (slipSettle n s)).rd (LN_ALIGN_MANUAL n) ≠ 0) :
    alignSlip fn n w s =
      let v := putWord fn (LN_ALIGN n) w (slipSettle n s)
      let p := min 65 ((v.lane n).slips + bitsOf w 14 8)
      if 1 ≤ bitsOf w 14 8 ∧ bitsOf w 14 8 ≤ 65 then
        (v.setLane n { v.lane n with slips := p }).wr (LN_ALIGN_STAT_PENDING n) p
      else v := if_neg h

/-- A write of LN_ALIGN outside manual mode, before and after: a slip count in range is ignored, and shown so. -/
theorem alignSlip_of_automatic (h : (putWord fn (LN_ALIGN n) w (slipSettle n s)).rd (LN_ALIGN_MANUAL n) = 0)
    (hwas : (slipSettle n s).rd (LN_ALIGN_MANUAL n) ≠ 1) :
    alignSlip fn n w s =
      let v := putWord fn (LN_ALIGN n) w (slipSettle n s)
      if 1 ≤ bitsOf w 14 8 ∧ bitsOf w 14 8 ≤ 65 then v.wr (LN_ALIGN_SLIP_IGNORED n) 1 else v := by
  refine (if_pos h).trans ?_
  rw [if_neg hwas]

end

/-- A scan cut short ends with counts that are the next two free values (log entry 36). -/
theorem scanCut_of_busy {n : Nat} {s : State} (code : Nat) (h : s.rd (LN_SCAN_STAT_BUSY n) ≠ 0) :
    scanCut n code s = scanEnd n code ((wr { s with freeCounter := s.freeCounter + 2 } (LN_SCAN_ERR_COUNT n)
      (Config.scanPartial s.freeCounter).toNat).wrWide (LN_SCAN_BITS n) 2
        (Config.scanPartial (s.freeCounter + 1)).toNat) := if_neg h

theorem scanDone_of_busy {n errors : Nat} {s : State} (h : s.rd (LN_SCAN_STAT_BUSY n) ≠ 0) :
    scanDone n errors s = scanEnd n 0 ((s.wr (LN_SCAN_ERR_COUNT n) (min errors 0xFFFFFFFF)).wrWide (LN_SCAN_BITS n) 2
      (2 ^ (20 + s.rd (LN_SCAN_CTRL_PRESCALE n)))) := if_neg h

end State

/-- Settles O38: headers and locks by the lock at hand, a slip by the mode before and after its write, the checker by
its pattern, and a scan's end by whether one is under way. -/
theorem laneAlignment : Obligations.LaneAlignment := by
  intro n valid latency errors w s u
  refine ⟨fun hlock => ?counted, fun ⟨hlock, hmanual⟩ => ?manual, fun ⟨hlock, hmanual⟩ => ?slips,
    fun hno => ?noRise, fun ⟨hpower, hlock⟩ => ?rise, fun hlock => ?noLoss, fun hlock => ?loss,
    ⟨fun ⟨hmode, hcount⟩ => ?slipNone, fun ⟨hmode, hlo, hhi⟩ => ?slipAdded,
      fun ⟨hmode, hwas, hlo, hhi⟩ => ?slipIgnored⟩,
    fun hsel => ?noPattern, fun hsel => ?pattern, fun hidle => ⟨?noDone, ?noAbort⟩, fun hbusy => ⟨?done, ?abort⟩⟩ <;>
    refine congrArg Host.Outcome.next ?_
  case counted => exact State.badHeader_of_locked hlock
  case manual => exact (State.badHeader_of_unlocked hlock).trans (if_pos hmanual)
  case slips => exact (State.badHeader_of_unlocked hlock).trans (if_neg hmanual)
  case noRise => exact if_pos hno
  case rise => exact if_neg (not_or.2 ⟨not_not.2 hpower, hlock⟩)
  case noLoss => exact if_pos hlock
  case loss => exact State.lockLoss_of_locked hlock
  case slipNone => exact (State.alignSlip_of_manual hmode).trans (if_neg (by omega))
  case slipAdded => exact (State.alignSlip_of_manual hmode).trans (if_pos ⟨hlo, hhi⟩)
  case slipIgnored => exact (State.alignSlip_of_automatic hmode hwas).trans (if_pos ⟨hlo, hhi⟩)
  case noPattern => exact if_pos hsel
  case pattern => exact if_neg hsel
  case noDone => exact if_pos hidle
  case noAbort => exact if_pos hidle
  case done => exact State.scanDone_of_busy hbusy
  case abort => exact State.scanCut_of_busy 1 hbusy

end Sys2Proof.Machine

/-! SUPPORT. The limits of bring-up, the loss of a partner, and the ways back to Listen (R111–R115, R123). -/
namespace Sys2Proof.Machine
namespace State

section
variable {P : Nat} {s : State}

theorem listenLimit_of_other (h : s.portState P ≠ 1 ∨ s.rd (PT_LINK_CTRL_LISTEN_HOLD P) = 1) : listenLimit P s = s :=
  if_pos h

theorem listenLimit_of_listen (hst : s.portState P = 1) (hhold : s.rd (PT_LINK_CTRL_LISTEN_HOLD P) ≠ 1) :
    listenLimit P s = attemptFail P 1 1 255 s := if_neg (not_or.2 ⟨not_not.2 hst, hhold⟩)

theorem trainLimit_of_other (h : s.portState P ≠ 2) : trainLimit P s = s := if_pos h

/-- The lane of a port whose exit failed under R100, which the Train limit names. -/
def exitFailed (s : State) (P : Nat) : Option Nat :=
  (s.portLanes P).find? fun n => s.rd (FH_STATUS_FAULT (LN_HDR n)) == 4

theorem trainLimit_of_exitFailed {n : Nat} (hst : s.portState P = 2) (hbad : s.exitFailed P = some n) :
    trainLimit P s = attemptFail P 2 0x0A n s := by
  rw [exitFailed] at hbad
  rw [trainLimit, if_neg (not_not.2 hst), hbad]

/-- The Train limit with no lane to name: Torvelink's training is not finished, or the port shows no signal. -/
theorem trainLimit_of_none (hst : s.portState P = 2) (hbad : s.exitFailed P = none) :
    trainLimit P s = attemptFail P 2 (if (s.port P).standard = 3
      ∧ ((s.port P).lanes.any fun n => !((s.lane n).farReady && (s.lane n).hold)) = true then 2 else 3) 255 s := by
  rw [exitFailed] at hbad
  rw [trainLimit, if_neg (not_not.2 hst), hbad]

theorem lockLimit_of_other (h : s.portState P ≠ 3) : lockLimit P s = s := if_pos h

/-- The lane of a port that the Lock limit finds without block lock. -/
def unlockedLane (s : State) (P : Nat) : Option Nat :=
  (s.port P).lanes.find? fun n => s.rd (LN_STATUS_BLOCK_LOCK n) == 0

theorem lockLimit_of_unlockedLane {n : Nat} (hst : s.portState P = 3) (hopen : s.unlockedLane P = some n) :
    lockLimit P s = attemptFail P 3 4 n s := by
  rw [unlockedLane] at hopen
  rw [lockLimit, if_neg (not_not.2 hst), hopen]

/-- The Lock limit with every lane locked: a bonded port is not in order, or the skew stands in the way. -/
theorem lockLimit_of_none (hst : s.portState P = 3) (hopen : s.unlockedLane P = none) :
    lockLimit P s
      = attemptFail P 3 (if (s.portLanes P).length = 16 ∧ (s.port P).orderDone = false then 6 else 5) 255 s := by
  rw [unlockedLane] at hopen
  rw [lockLimit, if_neg (not_not.2 hst), hopen]
  simp only [Bool.and_eq_true, decide_eq_true_eq, Bool.not_eq_true']

theorem exchangeLimit_of_other (h : s.portState P ≠ 4) : exchangeLimit P s = s := if_pos h

theorem exchangeLimit_of_exchange (h : s.portState P = 4) : exchangeLimit P s = attemptFail P 4 0x0C 255 s :=
  if_neg (not_not.2 h)

theorem exchangeLockLoss_of_other (lane : Nat) (h : s.portState P ≠ 4) : exchangeLockLoss P lane s = s := if_pos h

theorem exchangeLockLoss_of_exchange (lane : Nat) (h : s.portState P = 4) :
    exchangeLockLoss P lane s = attemptFail P 4 0x0B lane s := if_neg (not_not.2 h)

theorem partnerLost_of_other (lane : Nat) (h : s.portState P ≠ 5) : partnerLost P lane s = s := if_pos h

theorem partnerLost_of_active (lane : Nat) (h : s.portState P = 5) :
    partnerLost P lane s = listenAfresh P (lastFail P 5 9 lane ((leaveActive P 3 s).tally (PT_DOWN_TALLY_COUNT P))) :=
  if_neg (not_not.2 h)

theorem restPoll_of_other (seen : List Nat) (h : s.portState P ≠ 6) : restPoll P seen s = s := if_pos h

theorem restPoll_of_rest (seen : List Nat) (h : s.portState P = 6) :
    restPoll P seen s =
      let u := (s.portLanes P).foldl (fun (s : State) n => s.wrIf (LN_STATUS_SIGNAL n) (seen.contains n)) s
      if (u.portLanes P).any seen.contains then listenAfresh P u else u := if_neg (not_not.2 h)

theorem retrain_of_off (h : s.portState P = 0) : retrain P s = s := if_pos h

theorem retrain_of_rest (h : s.portState P = 6) : retrain P s = listenAfresh P s :=
  (if_neg (by omega)).trans (if_pos h)

theorem retrain_of_active (h : s.portState P = 5) : retrain P s = listenAfresh P (leaveActive P 5 s) :=
  (if_neg (by omega)).trans ((if_neg (by omega)).trans (if_pos h))

theorem retrain_of_attempt (h0 : s.portState P ≠ 0) (h5 : s.portState P ≠ 5) (h6 : s.portState P ≠ 6) :
    retrain P s = listen P s := (if_neg h0).trans ((if_neg h6).trans (if_neg h5))

theorem portBlockReset_of_no_entry (h : s.portEntry P = none) : portBlockReset P s = s := by
  rw [portBlockReset, h]

theorem portBlockReset_of_camera {e : PortEntry} (h : s.portEntry P = some e) (hP : P < 24) :
    portBlockReset P s
      = listenAfresh P ((entryLanes e).foldl (fun (s : State) n => laneReset n s) (leaveActive P 5 s)) := by
  rw [portBlockReset, h]
  exact if_neg (by omega)

end

end State

/-- Settles O40: a limit, a loss, a poll and a retrain by the state of the port, and a limit's cause by the lane it finds
and by what the other lanes still lack. -/
theorem bringUpFails : Obligations.BringUpFails := by
  intro P lane seen s
  refine ⟨fun hother => ?listenOther, fun ⟨hst, hhold⟩ => ?listen,
    fun hother => ?trainOther,
    ⟨fun n ⟨hst, hbad⟩ => ?trainLane, fun ⟨hst, hbad, htaps⟩ => ?trainTaps, fun ⟨hst, hbad, htaps⟩ => ?train⟩,
    fun hother => ?lockOther,
    ⟨fun n ⟨hst, hopen⟩ => ?lockLane, fun ⟨hst, hopen, horder⟩ => ?lockOrder, fun ⟨hst, hopen, horder⟩ => ?lock⟩,
    fun hother => ⟨?exchangeOther, ?lockLossOther⟩, fun hst => ⟨?exchange, ?lockLoss⟩,
    fun hother => ?lostOther, fun hst => ?lost, fun hother => ?pollOther, fun hst => ?poll,
    fun hst => ?retrainOff, fun hst => ?retrainRest, fun hst => ?retrainActive, fun ⟨h0, h5, h6⟩ => ?retrainAttempt,
    fun hnone => ?noEntry, fun e ⟨he, hP⟩ => ?reset⟩ <;>
    refine congrArg Host.Outcome.next ?_
  case listenOther => exact State.listenLimit_of_other hother
  case listen => exact State.listenLimit_of_listen hst hhold
  case trainOther => exact State.trainLimit_of_other hother
  case trainLane => exact State.trainLimit_of_exitFailed hst hbad
  case trainTaps => exact (State.trainLimit_of_none hst hbad).trans (by rw [if_pos htaps])
  case train => exact (State.trainLimit_of_none hst hbad).trans (by rw [if_neg htaps])
  case lockOther => exact State.lockLimit_of_other hother
  case lockLane => exact State.lockLimit_of_unlockedLane hst hopen
  case lockOrder => exact (State.lockLimit_of_none hst hopen).trans (by rw [if_pos horder])
  case lock => exact (State.lockLimit_of_none hst hopen).trans (by rw [if_neg horder])
  case exchangeOther => exact State.exchangeLimit_of_other hother
  case lockLossOther => exact State.exchangeLockLoss_of_other lane hother
  case exchange => exact State.exchangeLimit_of_exchange hst
  case lockLoss => exact State.exchangeLockLoss_of_exchange lane hst
  case lostOther => exact State.partnerLost_of_other lane hother
  case lost => exact State.partnerLost_of_active lane hst
  case pollOther => exact State.restPoll_of_other seen hother
  case poll => exact State.restPoll_of_rest seen hst
  case retrainOff => exact State.retrain_of_off hst
  case retrainRest => exact State.retrain_of_rest hst
  case retrainActive => exact State.retrain_of_active hst
  case retrainAttempt => exact State.retrain_of_attempt h0 h5 h6
  case noEntry => exact State.portBlockReset_of_no_entry hnone
  case reset => exact State.portBlockReset_of_camera he hP

end Sys2Proof.Machine

/-! SUPPORT. The host's control requests, their answers, and the probes and events of a port (R111, R120, R142, R143, R151,
R152, R176). -/
namespace Sys2Proof.Machine
namespace State

@[simp] theorem port_wr (P : Nat) (f : FRef) (v : Nat) (s : State) : (s.wr f v).port P = s.port P := rfl
@[simp] theorem port_tally (P : Nat) (f : FRef) (n : Nat) (s : State) : (s.tally f n).port P = s.port P := rfl

/-- A word with GO while a request of the host is under way is refused. -/
theorem camCommand_of_busy {P : Nat} {w : Word} {s : State} (fn : Nat) (hgo : bitsOf w 31 31 = 1)
    (hbusy : s.rd (PT_CAM_STATUS_BUSY P) = 1) : camCommand fn P w s = s.wr (PT_CAM_STATUS_REFUSED P) 1 :=
  (if_neg (by omega)).trans (if_pos hbusy)

/-- A word with GO otherwise: it ends at once on a port that is not Active and with too much data, and else joins the
port's requests. -/
theorem camCommand_of_idle {P : Nat} {w : Word} {s : State} (fn : Nat) (hgo : bitsOf w 31 31 = 1)
    (hidle : s.rd (PT_CAM_STATUS_BUSY P) ≠ 1) :
    camCommand fn P w s =
      let u := putWord fn (PT_CAM_CMD P) w s
      let len := u.rd (PT_CAM_CMD_LENGTH P)
      if u.rd (PT_LINK_STATUS_STATE P) ≠ 5 then camDone P 7 u
      else if u.maxControl P < len then camDone P 3 u
      else addRequest P
        { tag := 0, write := u.rd (PT_CAM_CMD_WRITE P) == 1, addr := u.rdWide (PT_CAM_ADDR P) 2, len := len, kind := 0,
          who := fn, bytes := if u.rd (PT_CAM_CMD_WRITE P) = 1 then u.camBytes P len else [] } (u.wr (PT_CAM_STATUS_BUSY P) 1) := by
  refine (if_neg (by omega)).trans ((if_neg hidle).trans ?_)
  simp only [beq_iff_eq]

section
variable {P tag status : Nat} {write : Bool} {data : List Byte} {s : State}

theorem controlAnswer_of_none
    (h : (s.port P).requests.find? (fun r => r.sent && r.tag == tag && r.write == write) = none) :
    controlAnswer P tag status write data s = if s.torvelinkUp P then s.tally (PT_TV_STRAY_TALLY_COUNT P) else s := by
  rw [controlAnswer, h]

/-- An answer to a request that is not Exchange's own only ends it. -/
theorem controlAnswer_of_request {r : CtrlRequest}
    (h : (s.port P).requests.find? (fun r => r.sent && r.tag == tag && r.write == write) = some r) (hkind : r.kind ≠ 2) :
    controlAnswer P tag status write data s = requestDone P r status data s := by
  rw [controlAnswer, h]
  exact if_neg fun hown => hkind hown.1

theorem controlTimeout_of_request {r : CtrlRequest}
    (h : (s.port P).requests.find? (fun r => r.sent && r.tag == tag) = some r) (hkind : r.kind ≠ 2) :
    controlTimeout P tag s
      = requestDone P r 5 [] (if s.standardOf P = 3 then s.tally (PT_TV_CTRL_TIMEOUT_TALLY_COUNT P) else s) := by
  rw [controlTimeout, h]
  exact if_neg fun hown => hkind hown.1

end

section
variable {P seq : Nat} {s : State} (elapsed turn : Nat)

theorem echo_of_down (h : s.torvelinkUp P = false) : echo P seq elapsed turn s = s := if_pos (by rw [h]; rfl)

theorem echo_of_stray (hup : s.torvelinkUp P = true) (hseq : (s.port P).probes.contains seq = false) :
    echo P seq elapsed turn s = s.tally (PT_TV_STRAY_TALLY_COUNT P) :=
  (if_neg (by rw [hup]; decide)).trans (if_pos (by rw [hseq]; rfl))

/-- An echo after Exchange has had both of its own notes its times and no more: no probe follows it. -/
theorem echo_of_exchanged (hup : s.torvelinkUp P = true) (hseq : (s.port P).probes.contains seq = true)
    (hstep : (s.port P).capStep = 8) :
    echo P seq elapsed turn s
      = (((s.setPort P { s.port P with probes := (s.port P).probes.erase seq, keepAlive := s.now }).wr
          (PT_TV_RTT_UNITS P) (elapsed - turn)).wr (PT_TV_ONEWAY_UNITS P) (halfEven (elapsed - turn))).tally
            (PT_TV_PROBE_TALLY_COUNT P) := by
  have hkeeps : (if (s.port P).capStep = 6 ∨ (s.port P).capStep = 7 then (s.port P).capStep + 1 else (s.port P).capStep)
      = (s.port P).capStep := if_neg (by omega)
  refine (if_neg (by rw [hup]; decide)).trans ((if_neg (by rw [hseq]; decide)).trans ?_)
  dsimp only
  rw [hkeeps]
  refine if_neg fun ⟨_, hnext⟩ => ?_
  rw [port_tally, port_wr, port_wr, port_setPort_same] at hnext
  exact absurd (hstep.symm.trans hnext) (by decide)

theorem probeMiss_of_other (h : (s.port P).probes.contains seq = false) : probeMiss P seq s = s :=
  if_pos (by rw [h]; rfl)

theorem probeMiss_of_probe (h : (s.port P).probes.contains seq = true) :
    probeMiss P seq s =
      let v := (s.setPort P { s.port P with probes := (s.port P).probes.erase seq }).tally (PT_TV_PROBE_MISS_TALLY_COUNT P)
      if v.portState P = 4 then attemptFail P 4 8 255 v else v := if_neg (by rw [h]; decide)

end

theorem cameraEvent_of_not_active {P : Nat} {s : State} (event stream age arrival : Nat)
    (h : s.rd (PT_LINK_STATUS_STATE P) ≠ 5) : cameraEvent P event stream age arrival s = s := if_pos h

/-- Outside Torvelink an event of no stream pulses its source at its arrival. -/
theorem cameraEvent_of_no_stream {P stream : Nat} {s : State} (event age arrival : Nat)
    (hst : s.rd (PT_LINK_STATUS_STATE P) = 5) (hother : s.standardOf P ≠ 3) (hstream : 4 ≤ stream) :
    cameraEvent P event stream age arrival s = srcPulse 5 event P true arrival s.tb.dev s := by
  refine (if_neg (not_not.2 hst)).trans ((if_neg fun h => hother h.1).trans ?_)
  dsimp only
  rw [if_neg (by omega), if_neg hother]

end State

/-- Settles O42: a request by what stands in its way, an answer and a timeout by the request they end, an echo and a miss
by the probe they name. -/
theorem controlChannel : Obligations.ControlChannel := by
  intro fn P seq elapsed turn tag status event stream age arrival w data s go u
  have hgo : bitsOf go 31 31 = 1 := bitsOf_or_start w
  have hmayGo (hmay : s.mayCamera fn P = true) : exec (.camChannelGo fn P w) s = .next (s.camCommand fn P go) :=
    congrArg Host.Outcome.next (if_pos hmay)
  refine ⟨fun hmay => congrArg Host.Outcome.next ?mayNot,
    fun ⟨hmay, hbusy⟩ => (hmayGo hmay).trans (congrArg Host.Outcome.next ?busy),
    fun ⟨hmay, hidle, hst⟩ => (hmayGo hmay).trans (congrArg Host.Outcome.next ?linkDown),
    fun ⟨hmay, hidle, hst, hlen⟩ => (hmayGo hmay).trans (congrArg Host.Outcome.next ?tooLong),
    fun ⟨hmay, hidle, hst, hlen⟩ => (hmayGo hmay).trans (congrArg Host.Outcome.next ?waits),
    fun write hnone => ?noRequest, fun r hkind => ⟨fun hr => ?read, fun hr => ?written, fun hr => ?timeout⟩,
    ⟨rfl, rfl⟩, fun hdown => ?echoDown, fun ⟨hup, hseq⟩ => ?echoStray, fun ⟨hup, hseq, hstep⟩ => ?echo,
    fun hseq => ?missOther, fun hseq => ?miss, fun hst => ?eventDown, fun ⟨hst, hother, hstream⟩ => ?event,
    fun hon => ?alive, fun hoff => ?notAlive⟩
  case mayNot => exact if_neg (Bool.eq_false_iff.1 hmay)
  case busy => exact State.camCommand_of_busy fn hgo hbusy
  case linkDown => exact (State.camCommand_of_idle fn hgo hidle).trans (if_pos hst)
  case tooLong =>
    exact (State.camCommand_of_idle fn hgo hidle).trans ((if_neg (not_not.2 hst)).trans (if_pos hlen))
  case waits =>
    exact (State.camCommand_of_idle fn hgo hidle).trans ((if_neg (not_not.2 hst)).trans (if_neg (Nat.not_lt.2 hlen)))
  case noRequest =>
    refine ⟨fun hread => ?_, fun hwrite => ?_⟩
    · exact congrArg Host.Outcome.next (State.controlAnswer_of_none (hread ▸ hnone))
    · exact congrArg Host.Outcome.next (State.controlAnswer_of_none (hwrite ▸ hnone))
  case read => exact congrArg Host.Outcome.next (State.controlAnswer_of_request hr hkind)
  case written => exact congrArg Host.Outcome.next (State.controlAnswer_of_request hr hkind)
  case timeout => exact congrArg Host.Outcome.next (State.controlTimeout_of_request hr hkind)
  case echoDown => exact congrArg Host.Outcome.next (State.echo_of_down elapsed turn hdown)
  case echoStray => exact congrArg Host.Outcome.next (State.echo_of_stray elapsed turn hup hseq)
  case echo => exact congrArg Host.Outcome.next (State.echo_of_exchanged elapsed turn hup hseq hstep)
  case missOther => exact congrArg Host.Outcome.next (State.probeMiss_of_other hseq)
  case miss => exact congrArg Host.Outcome.next (State.probeMiss_of_probe hseq)
  case eventDown => exact congrArg Host.Outcome.next (State.cameraEvent_of_not_active event stream age arrival hst)
  case event => exact congrArg Host.Outcome.next (State.cameraEvent_of_no_stream event age arrival hst hother hstream)
  case alive => exact congrArg Host.Outcome.next (if_pos hon)
  case notAlive => exact congrArg Host.Outcome.next (if_neg hoff)

end Sys2Proof.Machine

/-! SUPPORT. Power domains on request, and the modules in the cages (R482, R485, R486, R497–R499). -/
namespace Sys2Proof.Machine

/-- Settles O59: a request is a write of its domain's bit that asks each domain whose bit moves; every other clause is its
operation with the steps that other operations share left by name (a job's end, the restart of ports, silent lanes), so
every guard and every write stands on both sides in the same order. -/
theorem domainsAndCages : Obligations.DomainsAndCages := by
  intro d c kind class_ s asked
  have hasked : ∀ v, State.pwrReqWrite 0 (withBits (s.rw GLB_PWR_REQ) (domainBit d) (domainBit d) v) s = asked v :=
    fun _ => rfl
  refine ⟨?down, ?up, ?upBegins, ?downBegins, ?downEnds, ?upEnds, ?inserted, ?ready, ?removed, ?fault⟩
  case down => exact congrArg (fun t => Host.Outcome.next (if domainCodes.contains d then t else s)) (hasked 0)
  case up => exact congrArg (fun t => Host.Outcome.next (if domainCodes.contains d then t else s)) (hasked 1)
  case upBegins | downBegins => rfl
  case downEnds | upEnds => rfl
  case inserted | ready => rfl
  case removed | fault => rfl

end Sys2Proof.Machine

/-! SUPPORT. A start of frame of a stream beyond the agreed count (R145, R165). -/
namespace Sys2Proof.Machine
namespace State

/-- A start of frame of a stream not agreed changes nothing: the stray is counted at the video packet that carries it. -/
theorem startOfFrame_of_not_agreed {st : Nat} {s : State} (i : FirstInfo) (h : s.streamAgreed st = false) :
    startOfFrame st i s = s := if_pos (by rw [h, Bool.not_false, Bool.or_true])

/-- A count on a tally below all ones changes the state. -/
theorem tally_ne_self {f : FRef} {s : State} (h : f.lo ≤ f.hi) (h32 : f.hi < 32)
    (hroom : s.rd f < 2 ^ (f.hi + 1 - f.lo) - 1) : s.tally f ≠ s := by
  intro hsame
  have hcount : (s.tally f).rd f = min (s.rd f + 1) (2 ^ (f.hi + 1 - f.lo) - 1) := s.fab.rd_tally_same 1 h h32
  rw [hsame] at hcount
  omega

/-- Port 2 Active on Torvelink with one stream agreed, no stray counted: stream 9 is its second. -/
def oneAgreed : State :=
  ((State.reset.wr (PT_LINK_STATUS_STATE 2) 5).wr (PT_LINK_STATUS_STANDARD 2) 3).wr (PT_LINK_STATUS_STREAMS 2) 1

theorem oneAgreed_facts :
    oneAgreed.portCarries (portOf 9) = true ∧ oneAgreed.streamAgreed 9 = false ∧ oneAgreed.standardOf (portOf 9) = 3
      ∧ oneAgreed.rd (PT_TV_STRAY_TALLY_COUNT (portOf 9)) = 0 := by decide

end State

/-- Refutes O43: on an Active Torvelink port with one stream agreed, the start of a frame of the second stream changes
nothing, where the statement has it count as a stray; the model counts that stray at the packet's own command. -/
theorem not_framesOpenAndClose : ¬ Obligations.FramesOpenAndClose := by
  intro h
  obtain ⟨hcarries, hbeyond, hstandard, hzero⟩ := State.oneAgreed_facts
  obtain ⟨-, hstray, -⟩ := h 9 0 0 0 0 0 false false State.oneAgreed
  have hcounts := hstray ⟨hcarries, hbeyond⟩
  rw [if_pos hstandard] at hcounts
  have hkeeps : exec (.startOfFrame 9 0 0 0 0 false 0 false) State.oneAgreed = .next State.oneAgreed :=
    congrArg Host.Outcome.next (State.startOfFrame_of_not_agreed _ hbeyond)
  have hsame : State.oneAgreed = State.oneAgreed.tally (PT_TV_STRAY_TALLY_COUNT (State.portOf 9)) :=
    Host.Outcome.next.inj (hkeeps.symm.trans hcounts)
  refine State.tally_ne_self (by decide) (by decide) ?_ hsame.symm
  rw [hzero]
  decide

end Sys2Proof.Machine

/-! SUPPORT. What a video packet does, by the port, the stream and the open frame it meets (R162, R165, R166, R168). -/
namespace Sys2Proof.Machine

/-- The open frame once a packet has come that ends at byte `reach` of its line. -/
def Open.afterPacket (o : Open) (cont : Bool) (reach : Nat) : Open :=
  { o with arrived := if o.inLine then o.arrived else o.arrived + 1, inLine := cont, at_ := if cont then reach else 0 }

namespace State

section
variable {st line off : Nat} {data : List Byte} {good cont resent : Bool} {s : State}

theorem videoPacket_of_silent (h : s.portCarries (portOf st) = false) :
    videoPacket st line off data good cont resent s = s := if_pos (by rw [h]; rfl)

theorem videoPacket_of_not_agreed (hport : s.portCarries (portOf st) = true) (h : s.streamAgreed st = false) :
    videoPacket st line off data good cont resent s
      = if s.standardOf (portOf st) = 3 then s.tally (PT_TV_STRAY_TALLY_COUNT (portOf st)) else s :=
  (if_neg (by rw [hport]; decide)).trans (if_pos (by rw [h]; rfl))

/-- A resent packet of an agreed stream goes to the resends its frame awaits. -/
theorem videoPacket_of_resent (hport : s.portCarries (portOf st) = true) (h : s.streamAgreed st = true) :
    videoPacket st line off data good cont true s = resentPacket st line off data s :=
  (if_neg (by rw [hport]; decide)).trans (if_neg (by rw [h]; decide))

/-- A packet of an agreed stream with no frame open. -/
theorem videoPacket_of_no_frame (hport : s.portCarries (portOf st) = true) (h : s.streamAgreed st = true)
    (hnone : (s.strm st).frame = none) :
    videoPacket st line off data good cont false s =
      if (s.strm st).drop then
        if (s.strm st).overflow then s.tally (ST_IN_DROP_TALLY_COUNT (portOf st) (st % 4)) (ceilDiv data.length 64) else s
      else
        let v := strayLine st line cont s
        if good then v else v.tally (ST_CRC_TALLY_COUNT (portOf st) (st % 4)) := by
  refine (if_neg (by rw [hport]; decide)).trans ((if_neg (by rw [h]; decide)).trans ?_)
  dsimp only
  rw [hnone]
  exact if_neg Bool.false_ne_true

theorem videoPacket_of_frame {o : Open} (hport : s.portCarries (portOf st) = true) (h : s.streamAgreed st = true)
    (ho : (s.strm st).frame = some o) :
    videoPacket st line off data good cont false s = framePacket st line off data good cont o s := by
  refine (if_neg (by rw [hport]; decide)).trans ((if_neg (by rw [h]; decide)).trans ?_)
  dsimp only
  rw [ho]
  exact if_neg Bool.false_ne_true

theorem resentPacket_of_no_frame (hnone : (s.strm st).frame = none) :
    resentPacket st line off data s = s.tally (ST_STRAY_TALLY_COUNT (portOf st) (st % 4)) := by
  rw [resentPacket, hnone]

theorem resentPacket_of_not_awaited {o : Open} (ho : (s.strm st).frame = some o)
    (hbad : o.bad.contains ⟨line, off⟩ = false) :
    resentPacket st line off data s = s.tally (ST_STRAY_TALLY_COUNT (portOf st) (st % 4)) := by
  rw [resentPacket, ho]
  exact if_pos (by rw [hbad]; rfl)

/-- A good packet of an open frame: a line that fits takes it, one beyond the height is surplus, any other a stray. -/
theorem framePacket_of_good (o : Open) :
    framePacket st line off data true cont o s =
      let p := s.packetPlace st line off o
      let o' := o.afterPacket cont (p.2 + data.length)
      let v := s.updStrm st fun x => { x with frame := some o' }
      if lineFits o p.1 then overflowCheck st (placeBytes st p.1 p.2 data cont v)
      else if o.height ≤ p.1 then surplusLine st p.1 cont o' v
      else strayLine st p.1 cont v := by
  have hframe (o' : Open) : ((s.updStrm st fun x => { x with frame := some o' }).strm st).frame = some o' := by
    rw [updStrm_eq, strm_setStrm_same]
  unfold framePacket
  dsimp only
  rw [if_pos rfl, hframe]
  simp only [Bool.true_and, decide_eq_true_eq]
  rfl

end

end State

/-- Settles O44: a packet by its port and stream; a resent one by the resends awaited, any other by whether a frame is
open, and in the open frame by the line it names. -/
theorem videoPackets : Obligations.VideoPackets := by
  intro st line off data ok cont s P x
  refine ⟨fun resent hsilent => ?silent, fun resent ⟨hport, hbeyond⟩ => ?beyond, fun ⟨hport, hagreed⟩ =>
    ⟨fun hnone => ?lateNone, fun o ⟨ho, hbad⟩ => ?late, fun ⟨hnone, hdrop⟩ => ?dropped, fun ⟨hnone, hdrop⟩ => ?stray,
      fun o ho => ⟨fun hfits => ?fits, fun ⟨hno, hbelow⟩ => ?surplus, fun ⟨hno, hwithin⟩ => ?behind⟩⟩⟩ <;>
    refine congrArg Host.Outcome.next ?_
  case silent => exact State.videoPacket_of_silent hsilent
  case beyond => exact State.videoPacket_of_not_agreed hport hbeyond
  case lateNone => exact (State.videoPacket_of_resent hport hagreed).trans (State.resentPacket_of_no_frame hnone)
  case late => exact (State.videoPacket_of_resent hport hagreed).trans (State.resentPacket_of_not_awaited ho hbad)
  case dropped => exact (State.videoPacket_of_no_frame hport hagreed hnone).trans (if_pos hdrop)
  case stray => exact (State.videoPacket_of_no_frame hport hagreed hnone).trans (if_neg (Bool.eq_false_iff.1 hdrop))
  case fits =>
    exact (State.videoPacket_of_frame hport hagreed ho).trans ((State.framePacket_of_good o).trans (if_pos hfits))
  case surplus =>
    exact (State.videoPacket_of_frame hport hagreed ho).trans
      ((State.framePacket_of_good o).trans ((if_neg (Bool.eq_false_iff.1 hno)).trans (if_pos hbelow)))
  case behind =>
    exact (State.videoPacket_of_frame hport hagreed ho).trans
      ((State.framePacket_of_good o).trans ((if_neg (Bool.eq_false_iff.1 hno)).trans (if_neg (Nat.not_le.2 hwithin))))

end Sys2Proof.Machine

/-! SUPPORT. The links, the clock and the serial channel of the parallel port (R178, R179, R181). -/
namespace Sys2Proof.Machine
namespace State

section
variable {b : Nat} {s : State}

theorem serialSend_of_quiet (h : s.serial.shift = none) : serialSend b s = serialShift b s :=
  if_pos (Option.isNone_iff_eq_none.2 h)

/-- A byte to send while another is shifted out: it waits, unless the FIFO is full. -/
theorem serialSend_of_shifting (h : s.serial.shift ≠ none) :
    serialSend b s =
      if 256 ≤ s.serial.tx.length then s.wr PP_SER_STATUS_TX_OVF 1
      else serialShow { s with serial := { s.serial with tx := s.serial.tx ++ [b] } } :=
  if_neg (by rwa [Option.isNone_iff_eq_none])

theorem serialSent_of_quiet (h : s.serial.shift = none) : serialSent s = s := by rw [serialSent, h]

theorem serialSent_of_last (h : s.serial.shift ≠ none) (htx : s.serial.tx = []) :
    serialSent s = { s with serial := { s.serial with shift := none } } := by
  obtain ⟨c, hc⟩ := Option.ne_none_iff_exists'.1 h
  rw [serialSent, hc, htx]

theorem serialSent_of_more {r : List Nat} (h : s.serial.shift ≠ none) (htx : s.serial.tx = b :: r) :
    serialSent s
      = serialShow (emit { s with serial := { s.serial with tx := r, shift := some b } } (.serialByte b)) := by
  obtain ⟨c, hc⟩ := Option.ne_none_iff_exists'.1 h
  rw [serialSent, hc, htx]
  rfl

/-- A byte received with its stop bit into a full FIFO is lost; the first loss raises the event. -/
theorem serialReceive_of_full (h : 256 ≤ s.serial.rx.length) :
    serialReceive b true s =
      let u := (s.wr PP_SER_STATUS_RX_OVF 1).tally PP_SER_OVR_TALLY_COUNT
      if s.rd PP_SER_STATUS_RX_OVF = 0 then u.raise 321 0 else u := (if_neg (by decide)).trans (if_pos h)

/-- A byte received with its stop bit waits; the event is raised where none did. -/
theorem serialReceive_of_room (h : s.serial.rx.length < 256) :
    serialReceive b true s =
      let u := serialShow { s with serial := { s.serial with rx := s.serial.rx ++ [b] } }
      if s.serial.rx = [] then u.raise 321 0 else u := by
  refine (if_neg (by decide)).trans ((if_neg (Nat.not_le.2 h)).trans ?_)
  simp only [List.isEmpty_iff]

end

end State

/-- Settles O45: a link by its bit and the clock, a slip by mode and range, the clock by its bit, and the serial channel
by what it shifts out and by the room of its FIFOs. -/
theorem parallelPort : Obligations.ParallelPort := by
  intro fn link byte w s
  refine ⟨fun hnone => ?noAlign, fun ⟨hclock, hopen⟩ => ?align, fun hopen => ?noLoss, fun haligned => ?loss,
    ⟨fun hslip => ?slip, fun hno => ?noSlip⟩,
    fun hgone => ?stillGone, fun hclock => ?clockGone, fun hclock => ?stillClock, fun hgone => ?clockBack,
    fun hquiet => ?shifts, fun ⟨hshift, hfull⟩ => ?sendLost, fun ⟨hshift, hroom⟩ => ?sendWaits,
    fun hquiet => ?sentNone, fun ⟨hshift, htx⟩ => ?sentLast, fun b r ⟨hshift, htx⟩ => ?sentMore,
    ?framing, fun hfull => ?overrun, fun hroom => ?received, fun hsees => ?read, fun hhidden => ?hidden⟩ <;>
    refine congrArg Host.Outcome.next ?_
  case noAlign => exact if_pos hnone
  case align => exact if_neg (not_or.2 ⟨hclock, hopen⟩)
  case noLoss => exact if_pos hopen
  case loss => exact if_neg haligned
  case slip => exact if_pos hslip
  case noSlip => exact if_neg hno
  case stillGone => exact if_pos hgone
  case clockGone => exact if_neg hclock
  case stillClock => exact if_pos hclock
  case clockBack => exact if_neg hgone
  case shifts => exact State.serialSend_of_quiet hquiet
  case sendLost => exact (State.serialSend_of_shifting hshift).trans (if_pos hfull)
  case sendWaits => exact (State.serialSend_of_shifting hshift).trans (if_neg (Nat.not_le.2 hroom))
  case sentNone => exact State.serialSent_of_quiet hquiet
  case sentLast => exact State.serialSent_of_last hshift htx
  case sentMore => exact State.serialSent_of_more hshift htx
  case framing => exact if_pos rfl
  case overrun => exact State.serialReceive_of_full hfull
  case received => exact State.serialReceive_of_room hroom
  case read => exact if_pos hsees
  case hidden => exact if_neg (Bool.eq_false_iff.1 hhidden)

end Sys2Proof.Machine

/-! SUPPORT. The units of a fold's frames: ready, started, computed and pushed, complete (R186, R200, R204, R205, R280). -/
namespace Sys2Proof.Machine
namespace State

section
variable {st f n y l : Nat} {h : Nat × Nat} {j : Job} {last : Bool} {rest : List (Nat × Nat)} {s : State}

theorem unitReady_of_no_home (hnone : s.homeOf st = none) : unitReady st s = s := by
  rw [unitReady, hnone]

/-- The next unit of a job joins those ready; found behind earlier ones it is late, and counts (R205). -/
theorem unitReady_of_next (hh : s.homeOf st = some h)
    (hj : (s.ctx (ctxKey h)).jobs.find? (fun j => (s.nextUnit j).isSome) = some j)
    (hu : s.nextUnit j = some (y, n, last)) :
    unitReady st s =
      let u := mapJobs (ctxKey h) (fun i => i.slot == j.slot && i.seq == j.seq)
        (fun i => { i with ready := i.ready ++ [(y, n)], readyTo := y + n, lastReady := last }) s
      if s.backlog (ctxKey h) then
        foldEv j.fold 2 (((u.wr (FXC_STATUS_LATE h.1 h.2) 1).tally (FXC_LATE_TALLY_COUNT h.1 h.2)).tally
          (FX_LATE_TALLY_COUNT j.fold))
      else u := by
  rw [unitReady, hh]
  simp only [hj, hu]

/-- A fold that cannot take a unit, or has none to take, starts none, however many lost frames it might still skip. -/
theorem unitStart_of_no_choice (hno : s.foldFree f = false ∨ s.pickUnit f = none) : unitStart f n s = s := by
  cases n with
  | zero => rfl
  | succ n =>
    rw [unitStart]
    rcases hno with hbusy | hempty
    · rw [hbusy]
      rfl
    · rw [hempty]
      exact ite_self s

/-- A free fold takes the first ready unit of the scheduler's choice (R204). -/
theorem unitStart_of_choice (hfree : s.foldFree f = true) (hpick : s.pickUnit f = some (h, j))
    (hintact : s.jobIntact j = true) (hready : j.ready = (y, l) :: rest) :
    unitStart f (n + 1) s =
      let u := mapJobs (ctxKey h) (fun i => i.slot == j.slot && i.seq == j.seq) (fun i => { i with ready := rest }) s
      u.setFold f { u.fold f with unit := some (ctxKey h, j.slot, y, l), computed := false } := by
  rw [unitStart, hfree, hpick]
  dsimp only
  rw [hintact, hready]
  rfl

end

/-- The unit in progress, computed where it was not yet (R200). -/
def computeOnce (f : Nat) (s : State) : State :=
  match (s.fold f).unit with
  | some u => if (s.fold f).computed then s else computeUnit f u s
  | none => s

/-- The unit in progress computed, and its words pushed until a full pen stalls the fold (R200, R280). -/
def pushedUnit (f : Nat) (s : State) : State :=
  pushOut f (((computeOnce f s).fold f).out.length + 1) (computeOnce f s)

section
variable {f : Nat} {u : Nat × Nat × Nat × Nat} {s : State}

/-- What a completion does once the words are pushed. -/
theorem unitComplete_eq (f : Nat) (s : State) : unitComplete f s =
    if !((pushedUnit f s).fold f).out.isEmpty then pushedUnit f s
    else match ((pushedUnit f s).fold f).unit with
      | none => pushedUnit f s
      | some u =>
        let h := (u.1 / 256, u.1 % 256)
        let v := (pushedUnit f s).setFold f {}
        match (v.ctx u.1).jobs.find? fun j => j.slot == u.2.1 && j.fold == f with
        | none => lateOff h v
        | some j =>
          let w := v.updCtx u.1 fun x => { x with served := x.served + ((v.jobRecord j).map (·.width)).getD 0 * u.2.2.2 }
          if j.lastReady ∧ j.ready.isEmpty then frameDone h j w else lateOff h w := rfl

/-- A fold that still owes words, or has no unit in progress, stays as the push leaves it. -/
theorem unitComplete_of_waiting (h : ((pushedUnit f s).fold f).out ≠ [] ∨ ((pushedUnit f s).fold f).unit = none) :
    unitComplete f s = pushedUnit f s := by
  rw [unitComplete_eq]
  by_cases hout : ((pushedUnit f s).fold f).out = []
  · rw [if_neg (by rw [hout]; decide), h.resolve_left (not_not_intro hout)]
  · exact if_pos (by simpa using hout)

/-- With no words left the unit completes: its pixels count as served, and a frame leaves with its last unit. -/
theorem unitComplete_of_done {j : Job} (hout : ((pushedUnit f s).fold f).out = [])
    (hunit : ((pushedUnit f s).fold f).unit = some u)
    (hjob : (((pushedUnit f s).setFold f {}).ctx u.1).jobs.find? (fun j => j.slot == u.2.1 && j.fold == f) = some j) :
    unitComplete f s =
      let h := (u.1 / 256, u.1 % 256)
      let v := (pushedUnit f s).setFold f {}
      let w := v.updCtx u.1 fun x => { x with served := x.served + ((v.jobRecord j).map (·.width)).getD 0 * u.2.2.2 }
      if j.lastReady ∧ j.ready = [] then frameDone h j w else lateOff h w := by
  rw [unitComplete_eq, if_neg (by rw [hout]; decide), hunit]
  simp only [hjob, List.isEmpty_iff]

end

end State

/-- Settles O33: a unit becomes ready by the stream's home and its first job with one; the fuel of a start is never
none, so a free fold takes its choice at once; a completion goes by what the push leaves of words and unit. -/
theorem unitsOfFrames : Obligations.UnitsOfFrames := by
  intro st f s
  refine ⟨fun hnone => ?noHome, fun h j y n last ⟨hh, hj, hu⟩ => ?ready, fun hno => ?noStart,
    fun h j y l rest ⟨hfree, hpick, hintact, hready⟩ => ?start, fun hwaits => ?waits,
    fun u ⟨hout, hunit⟩ j hjob => ?completes⟩ <;>
    refine congrArg Host.Outcome.next ?_
  case noHome => exact State.unitReady_of_no_home hnone
  case ready => exact State.unitReady_of_next hh hj hu
  case noStart => exact State.unitStart_of_no_choice hno
  case start =>
    rw [Nat.add_comm]
    exact State.unitStart_of_choice hfree hpick hintact hready
  case waits => exact State.unitComplete_of_waiting hwaits
  case completes => exact State.unitComplete_of_done hout hunit hjob

end Sys2Proof.Machine

/-! SUPPORT. The state a reset leaves (R248, R349, log entries 2 and 3). -/
namespace Sys2Proof.Machine

/-- Settles O3: both tables are empty at reset, and an empty table is canonical. -/
theorem canonicalAtReset : Obligations.CanonicalAtReset :=
  ⟨rfl, fun _ => rfl, rfl, rfl, rfl, rfl, rfl, rfl⟩

end Sys2Proof.Machine

/-! SUPPORT. The paddock through BAR4 (R249, R250). -/
namespace Sys2Proof.Machine

theorem Fabric.byte_setByte_same (b : Fabric) (a : Nat) (v : Byte) : (b.setByte a v).byte a = v :=
  tget_tset_same ..

theorem Fabric.byte_setByte_other (b : Fabric) {a x : Nat} (v : Byte) (h : x ≠ a) : (b.setByte a v).byte x = b.byte x :=
  tget_tset_other _ _ _ h

namespace State

theorem bar4Bytes_length (s : State) (fn a n : Nat) : (s.bar4Bytes fn a n).length = n := by
  induction n generalizing a with
  | zero => rfl
  | succ n ih => rw [bar4Bytes, List.length_cons, ih]

theorem bar4Bytes_getElem? (s : State) (fn a : Nat) {n i : Nat} (h : i < n) :
    (s.bar4Bytes fn a n)[i]? = some (if s.bar4Reads fn (a + i) then s.fab.byte (a + i) else 0) := by
  induction n generalizing a i with
  | zero => exact absurd h (Nat.not_lt_zero i)
  | succ n ih =>
    rw [bar4Bytes]
    cases i with
    | zero => rfl
    | succ i => rw [List.getElem?_cons_succ, ih (a + 1) (Nat.lt_of_succ_lt_succ h), Nat.add_assoc, Nat.add_comm 1 i]

/-- No byte of the paddock decides who may write. -/
theorem bar4Writes_setByte (s : State) (fn x a : Nat) (v : Byte) :
    (s.inFab (·.setByte a v)).bar4Writes fn x = s.bar4Writes fn x := rfl

section
variable {fn a : Nat} {b : Byte} {l : List (Option Byte)} {s : State}

theorem bar4Put_served (h : s.bar4Writes fn a = true) :
    bar4Put fn a (some b :: l) s = bar4Put fn (a + 1) l (s.inFab (·.setByte a b)) := if_pos h

theorem bar4Put_ignored (h : s.bar4Writes fn a = false) :
    bar4Put fn a (some b :: l) s = (true, (bar4Put fn (a + 1) l s).2) := if_neg (Bool.eq_false_iff.1 h)

end

/-- A write through BAR4 changes the paddock's bytes alone. -/
theorem bar4Put_frame (fn a : Nat) (l : List (Option Byte)) (s : State) :
    (bar4Put fn a l s).2 = s.inFab ({ · with mem := (bar4Put fn a l s).2.fab.mem }) := by
  induction l generalizing a s with
  | nil => rfl
  | cons o l ih =>
    cases o with
    | none => exact ih (a + 1) s
    | some b =>
      cases h : s.bar4Writes fn a with
      | true => rw [bar4Put_served h]; exact ih (a + 1) _
      | false => rw [bar4Put_ignored h]; exact ih (a + 1) s

/-- Byte `x` comes with its enable, as `b`, in the bytes written from `a` on. -/
def ByteEnabled (a : Nat) (l : List (Option Byte)) (x : Nat) (b : Byte) : Prop := a ≤ x ∧ l[x - a]? = some (some b)

theorem not_byteEnabled_nil {a x : Nat} {b : Byte} : ¬ ByteEnabled a [] x b := by simp [ByteEnabled]

theorem byteEnabled_cons {a x : Nat} {b : Byte} {o : Option Byte} {l : List (Option Byte)} :
    ByteEnabled a (o :: l) x b ↔ (x = a ∧ o = some b) ∨ ByteEnabled (a + 1) l x b := by
  unfold ByteEnabled
  rcases Nat.lt_trichotomy x a with hlt | rfl | hgt
  · omega
  · simp
  · obtain ⟨k, rfl⟩ : ∃ k, x = a + 1 + k := ⟨x - (a + 1), by omega⟩
    rw [show a + 1 + k - a = k + 1 by omega, Nat.add_sub_cancel_left, List.getElem?_cons_succ]
    simp [show a ≤ a + 1 + k by omega, show a + 1 + k ≠ a by omega]

theorem byteEnabled_of_getElem? {a i : Nat} {b : Byte} {l : List (Option Byte)} (h : l[i]? = some (some b)) :
    ByteEnabled a l (a + i) b := ⟨Nat.le_add_right a i, by rwa [Nat.add_sub_cancel_left]⟩

/-- The answer of a write says whether a byte with its enable was ignored. -/
theorem bar4Put_fst (fn a : Nat) (l : List (Option Byte)) (s : State) :
    (bar4Put fn a l s).1 = true ↔ ∃ x b, ByteEnabled a l x b ∧ s.bar4Writes fn x = false := by
  induction l generalizing a s with
  | nil => simp [bar4Put, not_byteEnabled_nil]
  | cons o l ih =>
    simp only [byteEnabled_cons]
    cases o with
    | none => simp only [reduceCtorEq, and_false, false_or]; exact ih (a + 1) s
    | some b =>
      cases h : s.bar4Writes fn a with
      | true =>
        rw [bar4Put_served h, ih]
        simp only [bar4Writes_setByte]
        constructor
        · rintro ⟨x, c, hc, hx⟩
          exact ⟨x, c, .inr hc, hx⟩
        · rintro ⟨x, c, ⟨rfl, -⟩ | hc, hx⟩
          · exact absurd h (Bool.eq_false_iff.1 hx)
          · exact ⟨x, c, hc, hx⟩
      | false =>
        rw [bar4Put_ignored h]
        exact iff_of_true rfl ⟨a, b, .inl ⟨rfl, rfl⟩, h⟩

/-- A byte without its enable, or not writable, stays. -/
theorem bar4Put_byte_kept {fn a x : Nat} {l : List (Option Byte)} {s : State}
    (h : ∀ b, ByteEnabled a l x b → s.bar4Writes fn x = false) : (bar4Put fn a l s).2.fab.byte x = s.fab.byte x := by
  induction l generalizing a s with
  | nil => rfl
  | cons o l ih =>
    have htail : ∀ b, ByteEnabled (a + 1) l x b → s.bar4Writes fn x = false :=
      fun b hb => h b (byteEnabled_cons.2 (.inr hb))
    cases o with
    | none => exact ih htail
    | some b =>
      cases hw : s.bar4Writes fn a with
      | true =>
        have hne : x ≠ a := by
          rintro rfl
          exact absurd hw (Bool.eq_false_iff.1 (h b (byteEnabled_cons.2 (.inl ⟨rfl, rfl⟩))))
        rw [bar4Put_served hw]
        refine (ih (s := s.inFab (·.setByte a b)) htail).trans ?_
        exact s.fab.byte_setByte_other b hne
      | false => rw [bar4Put_ignored hw]; exact ih htail

/-- A writable byte takes what comes with its enable. -/
theorem bar4Put_byte_put {fn a x : Nat} {b : Byte} {l : List (Option Byte)} {s : State} (h : ByteEnabled a l x b)
    (hx : s.bar4Writes fn x = true) : (bar4Put fn a l s).2.fab.byte x = b := by
  induction l generalizing a s with
  | nil => exact absurd h not_byteEnabled_nil
  | cons o l ih =>
    rcases byteEnabled_cons.1 h with ⟨rfl, rfl⟩ | htail
    · rw [bar4Put_served hx, bar4Put_byte_kept fun c hc => absurd hc.1 (Nat.not_succ_le_self x)]
      exact s.fab.byte_setByte_same x b
    · cases o with
      | none => exact ih htail hx
      | some c =>
        cases hw : s.bar4Writes fn a with
        | true => rw [bar4Put_served hw]; exact ih htail hx
        | false => rw [bar4Put_ignored hw]; exact ih htail hx

/-- A write through BAR4, and its count where a byte was ignored (R249). -/
def bar4Written (fn addr : Nat) (data : List (Option Byte)) (s : State) : State :=
  if (bar4Put fn addr data s).1 then (bar4Put fn addr data s).2.tally PD_BAR4_REFUSED_TALLY_COUNT
  else (bar4Put fn addr data s).2

theorem bar4Written_of_served {fn addr : Nat} {data : List (Option Byte)} {s : State}
    (h : ∀ x b, ByteEnabled addr data x b → s.bar4Writes fn x = true) :
    bar4Written fn addr data s = (bar4Put fn addr data s).2 := by
  refine if_neg fun hfst => ?_
  obtain ⟨x, b, hb, hx⟩ := (bar4Put_fst ..).1 hfst
  exact absurd (h x b hb) (Bool.eq_false_iff.1 hx)

theorem bar4Written_of_ignored {fn addr x : Nat} {b : Byte} {data : List (Option Byte)} {s : State}
    (hb : ByteEnabled addr data x b) (hx : s.bar4Writes fn x = false) :
    bar4Written fn addr data s = (bar4Put fn addr data s).2.tally PD_BAR4_REFUSED_TALLY_COUNT :=
  if_pos ((bar4Put_fst ..).2 ⟨x, b, hb, hx⟩)

/-- A tally is a register, so the bytes are those put. -/
theorem bar4Written_byte (fn addr : Nat) (data : List (Option Byte)) (s : State) (x : Nat) :
    (bar4Written fn addr data s).fab.byte x = (bar4Put fn addr data s).2.fab.byte x := by
  unfold bar4Written
  split <;> rfl

theorem bar4Written_frame (fn addr : Nat) (data : List (Option Byte)) (s : State) :
    (bar4Written fn addr data s).fab.out = s.fab.out ∧ (bar4Written fn addr data s).tb = s.tb
      ∧ (bar4Written fn addr data s).pending = s.pending := by
  unfold bar4Written
  rw [bar4Put_frame]
  split <;> exact ⟨rfl, rfl, rfl⟩

end State

theorem exec_bar4Read_of_within {fn addr len : Nat} (s : State) (h : len ≤ 4096 ∧ addr + len ≤ 0x2000000000) :
    exec (.bar4Read fn addr len) s = .next (s.emit (.bar4Reply fn (s.bar4Bytes fn addr len))) :=
  congrArg Host.Outcome.next (if_pos h)

theorem exec_bar4Write_of_within {fn addr : Nat} {data : List (Option Byte)} (s : State)
    (h : data.length ≤ 512 ∧ addr + data.length ≤ 0x2000000000) :
    exec (.bar4Write fn addr data) s = .next (State.bar4Written fn addr data s) := congrArg Host.Outcome.next (if_pos h)

/-- A state that grants function 3 the first page of the table and pen area (R250). -/
def grantingState : State := (State.reset.wr (PD_FN_AREA_FIRST_PAGES 2) 128).wr (PD_FN_AREA_COUNT_PAGES 2) 1

/-- `grantingState` and two writes of function 3 meet what `Obligations.PaddockAccess` supposes: one stays within the
grant, the other reaches a byte below it. -/
theorem grantingState_writes :
    grantingState.bar4Reads 3 (128 * State.pageBytes) = true ∧ grantingState.bar4Writes 3 (128 * State.pageBytes) = true
      ∧ grantingState.bar4Writes 3 (128 * State.pageBytes - 1) = false
      ∧ State.bar4Put 3 (128 * State.pageBytes) [some 7#8] grantingState
        = (false, grantingState.inFab (·.setByte (128 * State.pageBytes) 7#8))
      ∧ State.bar4Put 3 (128 * State.pageBytes - 1) [some 9#8, none] grantingState = (true, grantingState) := by decide

/-- Settles O28: a write's bytes go one by one to the addresses that may be written, which no byte decides. -/
theorem paddockAccess : Obligations.PaddockAccess := by
  intro fn addr len data s
  refine ⟨fun hread => ⟨s.bar4Bytes fn addr len, s.bar4Bytes_length fn addr len, exec_bar4Read_of_within s hread,
    fun i hi => s.bar4Bytes_getElem? fn addr hi⟩, fun hwrite => ⟨State.bar4Written fn addr data s,
    exec_bar4Write_of_within s hwrite, fun a => ?bytes, fun hserved => ?served, fun i b ⟨hb, hno⟩ => ?ignored,
    State.bar4Written_frame fn addr data s⟩, rfl⟩
  case bytes =>
    rw [State.bar4Written_byte]
    split
    · next b hb =>
      split
      · next h => exact State.bar4Put_byte_put ⟨h.1, hb⟩ h.2
      · next h => exact State.bar4Put_byte_kept fun c hc => Bool.eq_false_iff.2 fun hw => h ⟨hc.1, hw⟩
    · next hnone => exact State.bar4Put_byte_kept fun c hc => absurd hc.2 (hnone c)
  case served =>
    have hall : ∀ x b, State.ByteEnabled addr data x b → s.bar4Writes fn x = true := fun x b ⟨hle, hb⟩ => by
      have := hserved (x - addr) b hb
      rwa [Nat.add_sub_cancel' hle] at this
    rw [State.bar4Written_of_served hall, State.bar4Put_frame]
    rfl
  case ignored =>
    rw [State.bar4Written_of_ignored (State.byteEnabled_of_getElem? hb) hno, State.bar4Put_frame]
    rfl

end Sys2Proof.Machine

/-! SUPPORT. Arming, freezing and disarming a group, the end of a grace, and a burst's new fill (R252, R258, R259, R261,
R264, log entry 54). -/
namespace Sys2Proof.Machine
namespace State

section
variable {g st cause : Nat} {t : Time} {s : State}

theorem fgDisarm_of_armed (h : s.fgState g = 1) : fgDisarm g s = fgEnter g 0 s := if_pos h

theorem fgDisarm_of_post (h : s.fgState g = 2) : fgDisarm g s = clipOpen g s :=
  (if_neg (by omega)).trans (if_pos h)

theorem fgDisarm_of_other (h1 : s.fgState g ≠ 1) (h2 : s.fgState g ≠ 2) : fgDisarm g s = s :=
  (if_neg h1).trans (if_neg h2)

theorem fgRequest_of_armed (h : s.fgState g = 1) (hdate : (s.group g).armedAt ≤ t) :
    fgRequest g t cause s = fgApply g t cause s := if_pos ⟨h, hdate⟩

theorem fgRequest_of_lost (h : s.fgState g ≠ 1 ∨ t < (s.group g).armedAt) : fgRequest g t cause s = fgLost g s :=
  if_neg fun ⟨harmed, hdate⟩ => h.elim (· harmed) (Nat.not_lt.2 hdate)

/-- Outside an activation a request reaches its group at once. -/
theorem freezeAt_of_running (h : s.quiesced = false) : freezeAt g t cause s = fgRequest g t cause s :=
  if_neg (Bool.eq_false_iff.1 h)

/-- A word with FREEZE alone runs none of the group's other commands (R269). -/
theorem fgCmd_of_freeze (h : s.quiesced = false) : fgCmd g 0x20000000#32 s = fgFreeze g s :=
  if_neg (Bool.eq_false_iff.1 h)

theorem fgFreeze_of_now (h : s.rd (PD_FG_CFG_USE_TIME g) = 0) : fgFreeze g s = fgRequest g s.now 6 s :=
  if_neg (by omega)

/-- A freeze dated by SW_TIME, which is lost where that lies ahead (R259). -/
theorem fgFreeze_of_time (h : s.rd (PD_FG_CFG_USE_TIME g) = 1) : fgFreeze g s =
    if s.now < s.rdTime (PD_FG_SW_TIME g) then fgLost g s else fgRequest g (s.rdTime (PD_FG_SW_TIME g)) 6 s := if_pos h

theorem graceEnd_of_open (h : s.fgState g = 2) (hm : s.isMember g st = true)
    (hw : (s.win g (s.fgRegion g) st).closed = false) :
    graceEnd g st s = frozenCheck g (closeWin g st true true s) := if_pos ⟨h, hm, by rw [hw]; rfl⟩

theorem graceEnd_of_none
    (h : s.fgState g ≠ 2 ∨ s.isMember g st = false ∨ (s.win g (s.fgRegion g) st).closed = true) :
    graceEnd g st s = s := by
  refine if_neg fun ⟨hpost, hm, hopen⟩ => ?_
  rcases h with hno | hno | hclosed
  · exact hno hpost
  · exact Bool.eq_false_iff.1 hno hm
  · rw [hclosed] at hopen
    exact absurd hopen (by decide)

/-- A burst stream whose region no group holds starts a new fill (R252). -/
theorem burstRearm_of_free (hmode : s.rd (PD_ST_CTRL_MODE st) = 2)
    (hfree : ∀ g, s.groupOf st = some g → s.rd (heldRef g (s.activeRegion st)) = 0) :
    burstRearm st s = (wr (((s.frames st).filter fun v => v.region == s.activeRegion st).foldl
      (fun s v => markOver v s) s) (PD_ST_CTRL_BURST_DONE st) 0).wr (PD_ST_WRITE_OFFSET st) 0 := by
  refine if_neg ?_
  rw [hmode]
  cases hg : s.groupOf st with
  | none => simp
  | some g => simp [hfree g hg]

end
end State

theorem exec_freezeRequest_of_running {g cause t : Nat} {s : State} (h : s.quiesced = false) :
    exec (.freezeRequest g cause t) s = .next (State.fgRequest g t cause s) :=
  congrArg Host.Outcome.next (State.freezeAt_of_running h)

theorem exec_fgFreeze_of_running {fn g : Nat} {s : State} (hmay : s.mayGroup fn g = true) (h : s.quiesced = false) :
    exec (.fgFreeze fn g) s = .next (State.fgFreeze g s) :=
  congrArg Host.Outcome.next ((if_pos hmay).trans (State.fgCmd_of_freeze h))

/-- A command to a group answers nothing to a function that may not command it. -/
theorem next_mayGroup_of_not {fn g : Nat} {s t : State} (h : s.mayGroup fn g = false) :
    (Host.Outcome.next (if s.mayGroup fn g then t else s) : Host.Outcome State Fault Refusal) = .next s :=
  congrArg Host.Outcome.next (if_neg (Bool.eq_false_iff.1 h))

theorem next_mayGroup {fn g : Nat} {s t u : State} (h : s.mayGroup fn g = true) (ht : t = u) :
    (Host.Outcome.next (if s.mayGroup fn g then t else s) : Host.Outcome State Fault Refusal) = .next u :=
  congrArg Host.Outcome.next ((if_pos h).trans ht)

/-- Settles O30: a command by the group's state, a request by the activation, the group's state and its date, a software
freeze by how it is dated. -/
theorem freezeCommands : Obligations.FreezeCommands := by
  intro fn g st cause t s
  refine ⟨fun hno => ?notAllowed, fun hmay => ⟨fun hdisarmed => ?arm, fun hother => ?armNone, fun harmed => ?disarm,
      fun hpost => ?disarmPost, fun hother => ?disarmNone, fun ⟨hrun, hnow⟩ => ?freezeNow,
      fun ⟨hrun, htime, hpast⟩ => ?freezePast, fun ⟨hrun, htime, hahead⟩ => ?freezeAhead⟩,
    fun hheld => ?held, fun ⟨hrun, harmed, hdate⟩ => ?applied, fun ⟨hrun, hlost⟩ => ?lost,
    fun ⟨hpost, hm, hopen⟩ => ?grace, fun hnone => ?graceNone, fun ⟨hmay, hmode, hfree⟩ => ?burst⟩
  case notAllowed => exact ⟨next_mayGroup_of_not hno, next_mayGroup_of_not hno, next_mayGroup_of_not hno⟩
  case arm => exact next_mayGroup hmay (if_pos hdisarmed)
  case armNone => exact next_mayGroup hmay (if_neg hother)
  case disarm => exact next_mayGroup hmay (State.fgDisarm_of_armed harmed)
  case disarmPost => exact next_mayGroup hmay (State.fgDisarm_of_post hpost)
  case disarmNone => exact next_mayGroup hmay (State.fgDisarm_of_other (by omega) (by omega))
  case freezeNow =>
    rw [exec_fgFreeze_of_running hmay hrun, exec_freezeRequest_of_running hrun, State.fgFreeze_of_now hnow]
  case freezePast =>
    rw [exec_fgFreeze_of_running hmay hrun, exec_freezeRequest_of_running hrun, State.fgFreeze_of_time htime,
      if_neg (Nat.not_lt.2 hpast)]
  case freezeAhead =>
    rw [exec_fgFreeze_of_running hmay hrun, State.fgFreeze_of_time htime, if_pos hahead]
    rfl
  case held => exact congrArg Host.Outcome.next (if_pos hheld)
  case applied => rw [exec_freezeRequest_of_running hrun, State.fgRequest_of_armed harmed hdate]
  case lost =>
    rw [exec_freezeRequest_of_running hrun, State.fgRequest_of_lost hlost]
    rfl
  case grace => exact congrArg Host.Outcome.next (State.graceEnd_of_open hpost hm hopen)
  case graceNone => exact congrArg Host.Outcome.next (State.graceEnd_of_none hnone)
  case burst => exact congrArg Host.Outcome.next ((if_pos hmay).trans (State.burstRearm_of_free hmode hfree))

end Sys2Proof.Machine

/-! SUPPORT. REARM and RELEASE of a frozen group (R258, R264, log entry 54). -/
namespace Sys2Proof.Machine
namespace State

/-- Why REARM of a Frozen group is refused: the other region is held, or a member has no usable region B (R264). -/
def RearmRefused (g : Nat) (s : State) : Prop :=
  s.rd (heldRef g (1 - s.fgRegion g)) = 1 ∨ (s.members g).all s.regionBOk = false

/-- An accepted REARM: the other region becomes the group's and its windows are emptied; every member is to switch. -/
def rearmed (g : Nat) (s : State) : State :=
  let o := 1 - s.fgRegion g
  (s.wr (PD_FG_STATUS_REGION g) o).updGroup g fun x =>
    { x with switch := s.members g, winA := if o = 0 then [] else x.winA, winB := if o = 0 then x.winB else [] }

section
variable {g : Nat} {s : State}

theorem fgRearm_of_busy (h : s.fgState g ≠ 3 ∨ (s.group g).switch ≠ []) : fgRearm g s = s :=
  if_pos (h.imp_right fun hne => by simpa using hne)

/-- REARM of a Frozen group whose members have switched: refused, or accepted with its members to switch. -/
theorem fgRearm_of_frozen (h : s.fgState g = 3) (hsw : (s.group g).switch = []) : fgRearm g s =
    if s.rd (heldRef g (1 - s.fgRegion g)) = 1 ∨ !((s.members g).all s.regionBOk) then
      fgEv g 3 (s.wr (PD_FG_STATUS_REARM_REFUSED g) 1)
    else if (s.members g).isEmpty then enterArmed g (rearmed g s)
    else (s.members g).foldl (fun s st => if s.portUp (portOf st) then s else memberSwitch g st s) (rearmed g s) :=
  if_neg (by simp [h, hsw])

theorem fgRearm_of_refused (h : s.fgState g = 3) (hsw : (s.group g).switch = []) (hr : RearmRefused g s) :
    fgRearm g s = fgEv g 3 (s.wr (PD_FG_STATUS_REARM_REFUSED g) 1) :=
  (fgRearm_of_frozen h hsw).trans (if_pos (hr.imp_right fun hno => by rw [hno]; rfl))

theorem fgRearm_of_accepted (h : s.fgState g = 3) (hsw : (s.group g).switch = []) (hr : ¬ RearmRefused g s) :
    fgRearm g s = if s.members g = [] then enterArmed g (rearmed g s)
      else (s.members g).foldl (fun s st => if s.portUp (portOf st) then s else memberSwitch g st s) (rearmed g s) := by
  have hok : ¬ (s.rd (heldRef g (1 - s.fgRegion g)) = 1 ∨ (!((s.members g).all s.regionBOk)) = true) :=
    fun hno => hr (hno.imp_right fun hbad => by simpa using hbad)
  rw [fgRearm_of_frozen h hsw, if_neg hok]
  simp only [List.isEmpty_iff]

end
end State

/-- Settles O31: REARM by the group's state, its members' switches and the refusal; RELEASE has one course. -/
theorem freezeHolds : Obligations.FreezeHolds := by
  intro fn g r s
  refine ⟨fun hno => ⟨next_mayGroup_of_not hno, next_mayGroup_of_not hno⟩, fun hmay => ?_⟩
  intro o ms refuse u
  refine ⟨fun hbusy => ?busy, fun ⟨hfrozen, hsw, hr⟩ => ?refused, fun ⟨hfrozen, hsw, hr, hnone⟩ => ?noMembers,
    fun ⟨hfrozen, hsw, hr, hsome⟩ => ?members, ?release⟩
  case busy => exact next_mayGroup hmay (State.fgRearm_of_busy hbusy)
  case refused => exact next_mayGroup hmay (State.fgRearm_of_refused hfrozen hsw hr)
  case noMembers => exact next_mayGroup hmay ((State.fgRearm_of_accepted hfrozen hsw hr).trans (if_pos hnone))
  case members => exact next_mayGroup hmay ((State.fgRearm_of_accepted hfrozen hsw hr).trans (if_neg hsome))
  case release => exact next_mayGroup hmay rfl

end Sys2Proof.Machine

/-! SUPPORT. The end of the recovery scan (R267, R268, R500, log entries 55 and 65). -/
namespace Sys2Proof.Machine
namespace State

theorem scanComplete_of_idle (us rate : Nat) {s : State} (h : s.rd PD_STATUS_SCAN ≠ 1) : scanComplete us rate s = s :=
  if_pos h

theorem flrDueNow_of_none {s : State} (h : s.flrDue = []) : s.flrDueNow = s := by
  obtain ⟨⟩ := s
  cases h
  rfl

end State

/-- Settles O32: the scan ends as the model's steps say, and the resets that waited follow it. -/
theorem recoveryScan : Obligations.RecoveryScan := by
  intro us rate s
  refine ⟨fun ⟨hidle, hnone⟩ => congrArg Host.Outcome.next ?_, fun hruns => ?_⟩
  · rw [State.recoveryEnd, State.scanComplete_of_idle us rate hidle, State.flrDueNow_of_none hnone]
    exact ite_self s
  · intro read valid kept a b c d e f g
    have hend : State.scanComplete us rate s = g := if_neg (not_not_intro hruns)
    show Host.Outcome.next (State.recoveryEnd us rate s) = _
    rw [State.recoveryEnd, hend]

end Sys2Proof.Machine

/-! SUPPORT. A pen's configuration and the hurdle inputs (R273, R284, R286, R287). -/
namespace Sys2Proof.Machine

/-- A command to a pen changes nothing when a function gives it that may not. -/
theorem next_mayPen_of_not {fn p : Nat} {s t : State} (h : fn ≠ 0 ∧ s.owner p ≠ fn) :
    (Host.Outcome.next (if fn = 0 ∨ s.owner p = fn then t else s) : Host.Outcome State Fault Refusal) = .next s :=
  congrArg Host.Outcome.next (if_neg (not_or.2 h))

theorem next_mayPen {fn p : Nat} {s t u : State} (h : fn = 0 ∨ s.owner p = fn) (ht : t = u) :
    (Host.Outcome.next (if fn = 0 ∨ s.owner p = fn then t else s) : Host.Outcome State Fault Refusal) = .next u :=
  congrArg Host.Outcome.next ((if_pos h).trans ht)

namespace State

/-- A size that `penCfg` does not find bad is one that SIZE_LOG2 defines (R273). -/
theorem not_badSize_iff {n : Nat} :
    ¬ (((1 ≤ n && n ≤ 3) || n > 24 : Bool) = true) ↔ n = 0 ∨ (4 ≤ n ∧ n ≤ 24) := by
  simp only [Bool.or_eq_true, Bool.and_eq_true, decide_eq_true_eq]
  omega

/-- The word written to PN_CFG resizes a pen that is enabled (R273). -/
def PenResizes (p : Nat) (w : Word) (s : State) : Prop :=
  s.rd (PN_CFG_ENABLE p) = 1 ∧ (bitsOf w 4 0 = 0 ∨ (4 ≤ bitsOf w 4 0 ∧ bitsOf w 4 0 ≤ 24)) ∧
    bitsOf w 4 0 ≠ s.rd (PN_CFG_SIZE_LOG2 p)

/-- A pen is enabled without a size, or with rings outside its owner's pages (R273). -/
def PenLacksRings (p : Nat) (s : State) : Prop :=
  s.rd (PN_CFG_ENABLE p) = 1 ∧ (s.rd (PN_CFG_SIZE_LOG2 p) = 0 ∨ s.ringsOk p (s.rd (PN_CFG_SIZE_LOG2 p)) = false)

/-- How an applied write of PN_CFG ends: the hurdle state, then the output the pen was routed to and the one it is
routed to now (R284, R286). -/
def penCfgFinish (pin p : Nat) (s : State) : State :=
  pinFollow ((penEval p (penWmEn p s)).rd (PN_CFG_HO_PIN p)) (pinFollow pin (penEval p (penWmEn p s)))

section
variable {fn p k : Nat} {w : Word} {level : Bool} {s : State}

theorem penCfg_of_resizes (h : PenResizes p w s) : penCfg fn p w s = s.wr (PN_STATUS_CFG_REFUSED p) 1 := by
  obtain ⟨hon, hdefined, hmoved⟩ := h
  exact if_pos ⟨hon, not_badSize_iff.2 hdefined, hmoved⟩

/-- Any other write is one by fields, with a test of the rings it leaves. -/
theorem penCfg_of_applied (h : ¬ PenResizes p w s) :
    penCfg fn p w s =
      let u := putWord fn (PN_CFG p) w s
      penCfgFinish (s.rd (PN_CFG_HO_PIN p)) p
        (if u.rd (PN_CFG_ENABLE p) = 1 ∧
            (u.rd (PN_CFG_SIZE_LOG2 p) = 0 ∨ ¬ u.ringsOk p (u.rd (PN_CFG_SIZE_LOG2 p)) = true) then
          (u.wr (PN_CFG_ENABLE p) 0).wr (PN_STATUS_CFG_REFUSED p) 1 else u) :=
  if_neg fun ⟨hon, hgood, hmoved⟩ => h ⟨hon, not_badSize_iff.1 hgood, hmoved⟩

theorem penCfg_of_lacksRings (h : ¬ PenResizes p w s) (hr : PenLacksRings p (putWord fn (PN_CFG p) w s)) :
    penCfg fn p w s = penCfgFinish (s.rd (PN_CFG_HO_PIN p)) p
      (((putWord fn (PN_CFG p) w s).wr (PN_CFG_ENABLE p) 0).wr (PN_STATUS_CFG_REFUSED p) 1) :=
  (penCfg_of_applied h).trans
    (congrArg (penCfgFinish (s.rd (PN_CFG_HO_PIN p)) p)
      (if_pos (hr.imp_right (Or.imp_right Bool.eq_false_iff.1))))

theorem penCfg_of_fits (h : ¬ PenResizes p w s) (hr : ¬ PenLacksRings p (putWord fn (PN_CFG p) w s)) :
    penCfg fn p w s = penCfgFinish (s.rd (PN_CFG_HO_PIN p)) p (putWord fn (PN_CFG p) w s) :=
  (penCfg_of_applied h).trans
    (congrArg (penCfgFinish (s.rd (PN_CFG_HO_PIN p)) p)
      (if_neg fun hno => hr (And.imp_right (Or.imp_right Bool.eq_false_iff.2) hno)))

theorem hurdleInput_of_same (h : s.rd ⟨HU_IN, k, k⟩ = if level then 1 else 0) : hurdleInput k level s = s := if_pos h

theorem hurdleInput_of_new (h : s.rd ⟨HU_IN, k, k⟩ ≠ if level then 1 else 0) :
    hurdleInput k level s = (s.wr ⟨HU_IN, k, k⟩ (if level then 1 else 0)).wr
      (if level then ⟨HU_IN, 24 + k, 24 + k⟩ else ⟨HU_IN, 16 + k, 16 + k⟩) 1 := by
  refine (if_neg h).trans ?_
  cases level with
  | false => rfl
  | true => rfl

end

end State

/-- Settles O23: a write of PN_CFG by who writes, by whether it resizes an enabled pen, and by the rings it leaves; a
hurdle input by the level it has. -/
theorem penConfiguration : Obligations.PenConfiguration := by
  intro fn p k level w s size was u lacksRings defined finish
  refine ⟨fun hno => ?notAllowed, fun ⟨hmay, hresizes⟩ => ?resize, fun ⟨hmay, happlied, hlacks⟩ => ?disabled,
    fun ⟨hmay, happlied, hfits⟩ => ?written, fun hsame => ?sameLevel, fun hnew => ?newLevel⟩
  case notAllowed => exact next_mayPen_of_not hno
  case resize => exact next_mayPen hmay (State.penCfg_of_resizes hresizes)
  case disabled => exact next_mayPen hmay (State.penCfg_of_lacksRings happlied hlacks)
  case written => exact next_mayPen hmay (State.penCfg_of_fits happlied hfits)
  case sameLevel => exact congrArg Host.Outcome.next (State.hurdleInput_of_same hsame)
  case newLevel => exact congrArg Host.Outcome.next (State.hurdleInput_of_new hnew)

end Sys2Proof.Machine

/-! SUPPORT. Software pops (R275, R276, R290, log entry 6). -/
namespace Sys2Proof.Machine
namespace State

section
variable {p count : Nat} {s : State}

theorem penPop_of_idle (h : count = 0 ∨ s.rd (PN_CFG_ENABLE p) = 0) : penPop p count s = s := if_pos h

/-- A pop of words of an enabled pen is refused, stale, or under way, judged in this order (R276). -/
theorem penPop_of_words (hcount : 0 < count) (hon : s.rd (PN_CFG_ENABLE p) ≠ 0) :
    penPop p count s =
      if count > s.rd (PN_LEVEL_VALUE p) ∨ s.rd (PN_STATUS_BUSY p) = 1 then s.wr (PN_STATUS_POP_REFUSED p) 1
      else if s.rd (PN_EXPECT_CHECK p) = 1 ∧ s.rd (PN_EXPECT_POINTER p) ≠ s.rd (PN_RD_VALUE p) then
        s.wr (PN_STATUS_STALE p) 1
      else (s.setPenPops p count).wr (PN_STATUS_BUSY p) 1 :=
  if_neg (not_or.2 ⟨Nat.ne_of_gt hcount, hon⟩)

theorem penPopDone_of_none (h : s.penPops p = 0) : penPopDone p s = s := if_pos h

theorem penPopDone_of_pop (h : s.penPops p ≠ 0) :
    penPopDone p s =
      let u := (s.setPenPops p 0).inFab (penTake p (min (s.penPops p) (s.rd (PN_LEVEL_VALUE p))))
      penEval p ((u.wr (PN_EXPECT_POINTER p) (u.rd (PN_RD_VALUE p))).wr (PN_STATUS_BUSY p) 0) := if_neg h

end

end State

/-- Settles O24: a pop by who asks, by its count and the pen, then by the refusal and the stale check; a completion by
whether a pop is under way. -/
theorem penPops : Obligations.PenPops := by
  intro fn p count s mine runs refused stale
  refine ⟨fun hno => ?noPop, fun ⟨⟨hmay, hcount, hon⟩, hrefused⟩ => ?refused,
    fun ⟨⟨hmay, hcount, hon⟩, hroom, hstale⟩ => ?stale, fun ⟨⟨hmay, hcount, hon⟩, hroom, hfresh⟩ => ?underWay,
    fun hnone => ?noneUnderWay, fun hpop => ?completes⟩
  case noPop =>
    by_cases hmay : mine
    · have hidle : count = 0 ∨ s.rd (PN_CFG_ENABLE p) = 0 := by
        by_contra hwords
        obtain ⟨hcount, hon⟩ := not_or.1 hwords
        exact hno ⟨hmay, Nat.pos_of_ne_zero hcount, hon⟩
      exact next_mayPen hmay (State.penPop_of_idle hidle)
    · exact next_mayPen_of_not (not_or.1 hmay)
  case refused => exact next_mayPen hmay ((State.penPop_of_words hcount hon).trans (if_pos hrefused))
  case stale =>
    exact next_mayPen hmay ((State.penPop_of_words hcount hon).trans ((if_neg hroom).trans (if_pos hstale)))
  case underWay =>
    exact next_mayPen hmay ((State.penPop_of_words hcount hon).trans ((if_neg hroom).trans (if_neg hfresh)))
  case noneUnderWay => exact congrArg Host.Outcome.next (State.penPopDone_of_none hnone)
  case completes => exact congrArg Host.Outcome.next (State.penPopDone_of_pop hpop)

end Sys2Proof.Machine

/-! SUPPORT. Host pushes, DROP and CLEAR (R277, R279, R280, R290, R317). -/
namespace Sys2Proof.Machine
namespace State

section
variable {p count : Nat} {s : State}

theorem penHostPush_of_refused (hon : s.rd (PN_CFG_ENABLE p) = 1) (hfull : penHasRoom s.fab p count = false) :
    penHostPush p count s = s.inFab (penRefuse p) := if_pos ⟨hon, Bool.eq_false_iff.1 hfull⟩

/-- A push that is not refused pushes the words from WR on, one after another (R277). -/
theorem penHostPush_of_taken (h : s.rd (PN_CFG_ENABLE p) ≠ 1 ∨ penHasRoom s.fab p count = true) :
    penHostPush p count s = (s.inFab fun b =>
      ((List.range count).map fun i => s.hostWord p (s.rd (PN_WR_VALUE p) + i)).foldl
        (fun b x => penPushWith s.owner s.now p (x.2.toNat ≥ 128) (landHost p x) b) b).settle :=
  if_neg fun ⟨hon, hfull⟩ => h.elim (fun hoff => hoff hon) hfull

theorem penDrop_of_empty (hempty : s.rd (PN_LEVEL_VALUE p) = 0) (hbetween : s.rd (PN_STATUS_MIDPKT p) = 0) :
    penDrop p s = s := if_pos ⟨hempty, hbetween⟩

/-- DROP takes the packet at RD, and drops what is still to come of it where its end is not in the pen (R279). -/
theorem penDrop_of_packet (h : s.rd (PN_LEVEL_VALUE p) ≠ 0 ∨ s.rd (PN_STATUS_MIDPKT p) ≠ 0) :
    penDrop p s =
      let len := penPacketLen s.fab p (s.rd (PN_RD_VALUE p)) (s.rd (PN_LEVEL_VALUE p))
      let u := s.inFab fun b => penTake p len.1 (penCut p 8 b)
      penEval p ((if len.2 then u else u.wr (PN_STATUS_DROPPING p) 1).tally (PN_LOST_PKT_TALLY_DROPPED p)) :=
  if_neg fun ⟨hempty, hbetween⟩ => h.elim (fun hwords => hwords hempty) fun hmid => hmid hbetween

end

end State

/-- Settles O25: each command by who asks; a push by its room, DROP by whether there is a packet to take, and CLEAR has
one course. -/
theorem penPushDropClear : Obligations.PenPushDropClear := by
  intro fn p count s
  refine ⟨fun hno => ⟨next_mayPen_of_not hno, next_mayPen_of_not hno, next_mayPen_of_not hno⟩, fun hmay => ?_⟩
  refine ⟨fun ⟨hon, hfull⟩ => next_mayPen hmay (congrArg (State.cutSettle p) ?refused),
    fun htaken => next_mayPen hmay (congrArg (State.cutSettle p) ?pushed),
    fun ⟨hempty, hbetween⟩ => next_mayPen hmay (congrArg (State.cutSettle p) ?nothing),
    fun hpacket => next_mayPen hmay (congrArg (State.cutSettle p) ?packet), next_mayPen hmay rfl⟩
  case refused => exact State.penHostPush_of_refused hon hfull
  case pushed => exact State.penHostPush_of_taken htaken
  case nothing => exact State.penDrop_of_empty hempty hbetween
  case packet => exact State.penDrop_of_packet hpacket

end Sys2Proof.Machine

/-! SUPPORT. A drover's fetches, its entries' ends and what answers its requests (R293, R298, R299, R303, R310, R311). -/
namespace Sys2Proof.Machine
namespace State

/-- The served channel may fetch: it has no entry and no fetch under way, the throttle is not against it, and the
drover has room for one more read (R293, R298, R306). -/
def MayFetch (d c : Nat) (s : State) : Prop :=
  (s.chan c).entry = none ∧ s.fetching c = false ∧ s.chThrottled c = false ∧ (s.drover d).reads.length < 256

/-- CH_CUR names the entry that the channel fetches next (R298). -/
def nameNext (d c : Nat) (s : State) : State :=
  (s.wrWide (CH_CUR d (c % 256)) 2 (s.chan c).next).updChan c fun y => { y with curPd := (s.chan c).nextPd }

/-- The channel's owner may read and write the next entry in the paddock (R303). -/
def NextAllowed (d c : Nat) (s : State) : Prop :=
  (nameNext d c s).spanOk (s.chOwner c) (s.chan c).next 16 false = true ∧
    (nameNext d c s).spanOk (s.chOwner c) (s.chan c).next 16 true = true

/-- The fetch of a channel that may: from the paddock at once where its owner may reach the entry there, else an abort;
from the host by a read (R298, R303, R311). -/
def fetchNow (d c : Nat) (s : State) : State :=
  let u := nameNext d c s
  let a := (s.chan c).next
  if (s.chan c).nextPd then
    if u.spanOk (s.chOwner c) a 16 false ∧ u.spanOk (s.chOwner c) a 16 true then takeEntry c (u.fab.bytes a 16) u
    else fetchFail c 4 u
  else issueRead c true 0 a 16 u

/-- The drover without its request of a tag. -/
def dropTag (d tag : Nat) (s : State) : State :=
  s.updDrover d fun x => { x with reads := x.reads.filter fun y => y.tag != tag }

/-- The drover with its request of a tag timed out (R310). -/
def expireTag (d tag : Nat) (s : State) : State :=
  s.updDrover d fun x => { x with reads := x.reads.map fun y => if y.tag = tag then { y with state := 1 } else y }

section
variable {d c tag : Nat} {err : Bool} {data : List Byte} {e : ListEntry} {r : ReadTag} {s : State}

theorem fetchEntry_of_idle (h : (s.drover d).serving = none) : fetchEntry d s = s := by
  rw [fetchEntry, h]

theorem fetchBlocked_iff :
    ((s.chan c).entry.isSome = true ∨ s.fetching c = true ∨ s.chThrottled c = true ∨ (s.drover d).reads.length ≥ 256) ↔
      ¬ MayFetch d c s := by
  simp only [MayFetch, Option.isSome_iff_ne_none, not_and_or, Bool.not_eq_false, not_lt, ge_iff_le, ne_eq]

theorem fetchEntry_of_serving (h : (s.drover d).serving = some c) :
    fetchEntry d s =
      if (s.chan c).entry.isSome ∨ s.fetching c ∨ s.chThrottled c ∨ (s.drover d).reads.length ≥ 256 then s
      else fetchNow d c s := by
  rw [fetchEntry, h]
  rfl

theorem fetchEntry_of_blocked (h : (s.drover d).serving = some c) (hno : ¬ MayFetch d c s) : fetchEntry d s = s :=
  (fetchEntry_of_serving h).trans (if_pos (fetchBlocked_iff.2 hno))

theorem fetchEntry_of_free (h : (s.drover d).serving = some c) (hmay : MayFetch d c s) :
    fetchEntry d s = fetchNow d c s :=
  (fetchEntry_of_serving h).trans (if_neg fun hblocked => fetchBlocked_iff.1 hblocked hmay)

theorem fetchEntry_of_host (h : (s.drover d).serving = some c) (hmay : MayFetch d c s)
    (hhost : (s.chan c).nextPd = false) :
    fetchEntry d s = issueRead c true 0 (s.chan c).next 16 (nameNext d c s) :=
  (fetchEntry_of_free h hmay).trans (if_neg (Bool.eq_false_iff.1 hhost))

theorem fetchEntry_of_paddock (h : (s.drover d).serving = some c) (hmay : MayFetch d c s)
    (hpd : (s.chan c).nextPd = true) (hok : NextAllowed d c s) :
    fetchEntry d s = takeEntry c ((nameNext d c s).fab.bytes (s.chan c).next 16) (nameNext d c s) :=
  (fetchEntry_of_free h hmay).trans ((if_pos hpd).trans (if_pos hok))

theorem fetchEntry_of_barred (h : (s.drover d).serving = some c) (hmay : MayFetch d c s)
    (hpd : (s.chan c).nextPd = true) (hno : ¬ NextAllowed d c s) :
    fetchEntry d s = fetchFail c 4 (nameNext d c s) :=
  (fetchEntry_of_free h hmay).trans ((if_pos hpd).trans (if_neg hno))

/-- Once all that can move has moved, the entry of the served channel ends exactly where its transfer has (R299). -/
theorem completeEntry_of_entry (h : ((moves d s).drover d).serving = some c)
    (he : ((moves d s).chan c).entry = some e) :
    completeEntry d s = showState d (if (moves d s).entryDone c e then
      finishEntry c e ((moves d s).entryStatus c e) (moves d s) else moves d s) := by
  simp only [completeEntry, h, he]

/-- A completion whose tag is known ends its request, and its bytes go where the request's state says, unless an
awaited one brings only a part of them (R310). -/
theorem readDone_of_tag (h : (s.drover d).reads.find? (fun r => r.tag == tag) = some r)
    (hwhole : ¬ (r.state = 0 ∧ ¬ err ∧ data.length ≠ r.len)) :
    readDone d tag err data s =
      let c := 256 * d + r.ch
      let u := dropTag d tag s
      if r.state = 1 then showState d (u.tally (DV_LATE_TALLY_COUNT d))
      else if r.state = 2 then showState d u
      else if r.list then showState d (if err then fetchFail c 2 u else takeEntry c data u)
      else match (u.chan c).entry with
        | none => showState d u
        | some e => pump d (if err then failEntry c 2 u else setEntry c { e with got := e.got ++ [(r.off, data)] } u) := by
  rw [readDone, h]
  exact if_neg hwhole

theorem readDone_of_unknown (h : (s.drover d).reads.find? (fun r => r.tag == tag) = none) :
    readDone d tag err data s = s := by
  rw [readDone, h]

theorem readDone_of_late (h : (s.drover d).reads.find? (fun r => r.tag == tag) = some r) (hlate : r.state = 1) :
    readDone d tag err data s = showState d ((dropTag d tag s).tally (DV_LATE_TALLY_COUNT d)) :=
  (readDone_of_tag h fun ⟨hawaited, _⟩ => by omega).trans (if_pos hlate)

theorem readDone_of_unwanted (h : (s.drover d).reads.find? (fun r => r.tag == tag) = some r) (hdropped : r.state = 2) :
    readDone d tag err data s = showState d (dropTag d tag s) :=
  (readDone_of_tag h fun ⟨hawaited, _⟩ => by omega).trans ((if_neg (by omega)).trans (if_pos hdropped))

/-- An awaited list read with an error aborts its channel; a whole one gives the channel its entry (R298, R311). -/
theorem readDone_of_list (h : (s.drover d).reads.find? (fun r => r.tag == tag) = some r) (hawaited : r.state = 0)
    (hlist : r.list = true) (hwhole : err = true ∨ data.length = r.len) :
    readDone d tag err data s = showState d (if err then fetchFail (256 * d + r.ch) 2 (dropTag d tag s)
      else takeEntry (256 * d + r.ch) data (dropTag d tag s)) :=
  (readDone_of_tag h fun ⟨_, hok, hpart⟩ => hwhole.elim hok hpart).trans
    ((if_neg (by omega)).trans ((if_neg (by omega)).trans (if_pos hlist)))

theorem timeOut_of_unawaited (h : (s.drover d).reads.find? (fun r => r.tag == tag && r.state == 0) = none) :
    timeOut d false tag s = s := by
  rw [timeOut, h]
  rfl

/-- An awaited read that times out aborts the channel of a list fetch, and fails the entry of a data read (R310, R311). -/
theorem timeOut_of_awaited (h : (s.drover d).reads.find? (fun r => r.tag == tag && r.state == 0) = some r) :
    timeOut d false tag s = showState d (if r.list then fetchFail (256 * d + r.ch) 3 (expireTag d tag s)
      else moves d (failEntry (256 * d + r.ch) 3 (expireTag d tag s))) := by
  rw [timeOut, h]
  rfl

end

end State

/-- LIST_ENTRY_FETCH: the fetch, and then all that the drover can move. -/
theorem exec_listEntryFetch {d : Nat} {s t : State} (h : State.fetchEntry d s = t) :
    exec (.listEntryFetch d) s = .next (State.pump d t) :=
  congrArg (fun u => Host.Outcome.next (State.pump d u)) h

/-- Settles O27: a fetch by whether the channel may and where its next entry lies, an entry's end by its transfer, a
completion and a timeout by the state and kind of the request, a credit's return has one course. -/
theorem droverWork : Obligations.DroverWork := by
  intro d n tag err data s
  refine ⟨fun hidle => exec_listEntryFetch (State.fetchEntry_of_idle hidle), fun c hserve => ?fetch, ?complete,
    fun hnone => congrArg Host.Outcome.next (State.readDone_of_unknown hnone), fun r hr => ?readDone,
    fun hnone => congrArg Host.Outcome.next (State.timeOut_of_unawaited hnone), fun r hr => ?timeOut, rfl⟩
  case fetch =>
    exact ⟨fun hno => exec_listEntryFetch (State.fetchEntry_of_blocked hserve hno),
      fun ⟨hfree, hhost⟩ => exec_listEntryFetch (State.fetchEntry_of_host hserve hfree hhost),
      fun ⟨hfree, hpd, hmay⟩ => exec_listEntryFetch (State.fetchEntry_of_paddock hserve hfree hpd hmay),
      fun ⟨hfree, hpd, hno⟩ => exec_listEntryFetch (State.fetchEntry_of_barred hserve hfree hpd hno)⟩
  case complete =>
    refine ⟨fun c e ⟨hserve, he, hdone⟩ => congrArg Host.Outcome.next ?ended,
      fun c e ⟨hserve, he, hmore⟩ => congrArg Host.Outcome.next ?underWay⟩
    case ended => rw [State.completeEntry_of_entry hserve he, if_pos hdone]
    case underWay => rw [State.completeEntry_of_entry hserve he, if_neg (Bool.eq_false_iff.1 hmore)]
  case readDone =>
    refine ⟨fun hlate => congrArg Host.Outcome.next (State.readDone_of_late hr hlate),
      fun ⟨hdropped, _⟩ => congrArg Host.Outcome.next (State.readDone_of_unwanted hr hdropped),
      fun ⟨hawaited, hlist, herr⟩ => congrArg Host.Outcome.next ?failed,
      fun ⟨hawaited, hlist, hok, hwhole⟩ => congrArg Host.Outcome.next ?entry⟩
    case failed => exact (State.readDone_of_list hr hawaited hlist (.inl herr)).trans (by rw [if_pos herr]; rfl)
    case entry =>
      exact (State.readDone_of_list hr hawaited hlist (.inr hwhole)).trans (by rw [if_neg (Bool.eq_false_iff.1 hok)]; rfl)
  case timeOut =>
    refine ⟨fun hlist => congrArg Host.Outcome.next ?list, fun hdata => congrArg Host.Outcome.next ?read⟩
    case list => exact (State.timeOut_of_awaited hr).trans (by rw [if_pos hlist]; rfl)
    case read => exact (State.timeOut_of_awaited hr).trans (by rw [if_neg (Bool.eq_false_iff.1 hdata)]; rfl)

end Sys2Proof.Machine

/-! SUPPORT. Hold-offs and enables of a view, software sources, and MSI-X masks (R338, R339, R340, R343). -/
namespace Sys2Proof.Machine
namespace State

section
variable {fn src : Nat} {s : State}

/-- The hold-off of an enabled view with undelivered occurrences delivers them (R338). -/
theorem viewHoldoff_of_due (h : s.rd (EV_CFG_ENABLE fn src) = 1 ∧ 0 < s.rd (EV_STATUS_UNDELIVERED fn src)) :
    viewHoldoff fn src s = (s.inFab (deliver s.owner s.now false fn src)).settle :=
  if_pos h

theorem viewHoldoff_of_delivered (h : s.rd (EV_STATUS_UNDELIVERED fn src) = 0) : viewHoldoff fn src s = s :=
  if_neg fun ⟨_, hpos⟩ => Nat.ne_of_gt hpos h

/-- A write of EV_CFG to a view that is enabled delivers nothing, whatever it leaves (R339). -/
theorem evCfg_of_enabled (w : Word) (h : s.rd (EV_CFG_ENABLE fn src) = 1) :
    evCfg fn src w s = putWord fn (EV_CFG fn src) w s :=
  if_neg fun ⟨hwas, _⟩ => Nat.one_ne_zero (h.symm.trans hwas)

/-- The software sources of the management function (R343). -/
theorem mayRaise_zero_iff : mayRaise 0 src = true ↔ 928 ≤ src ∧ src ≤ 1023 := by
  simp [mayRaise]

/-- The twelve software sources of a capture function (R343). -/
theorem mayRaise_capture_iff (h : 0 < fn) :
    mayRaise fn src = true ↔ 916 + 12 * fn ≤ src ∧ src ≤ 927 + 12 * fn := by
  simp [mayRaise, h.ne']

theorem evRaise_of_own (h : mayRaise fn src = true) : evRaise fn src s = s.raise src 0 := if_pos h

theorem evRaise_of_other (h : ¬ mayRaise fn src = true) : evRaise fn src s = s.accErr fn := if_neg h

end
end State

/-- An enable of a view that the function sees is a write of EV_CFG with ENABLE set. -/
theorem execEventEnable_of_sees {fn src : Nat} {s : State} (h : s.sees fn src = true) :
    execEventEnable fn src s = .next (s.evCfg fn src (s.rw (EV_CFG fn src) ||| 0x80000000)) :=
  congrArg Host.Outcome.next (if_pos h)

theorem execEventEnable_of_unseen {fn src : Nat} {s : State} (h : s.sees fn src = false) :
    execEventEnable fn src s = .next s :=
  congrArg Host.Outcome.next (if_neg (Bool.eq_false_iff.1 h))

/-- Settles O17: a hold-off by what the view has undelivered, an enable by who sees the view and how it stood, a raise
by whose source it is, an unmask by the entry's pending bit. -/
theorem eventCommands : Obligations.EventCommands := by
  intro fn src vec s
  refine ⟨fun hdue => congrArg Host.Outcome.next (State.viewHoldoff_of_due hdue),
    fun hnone => congrArg Host.Outcome.next (State.viewHoldoff_of_delivered hnone), execEventEnable_of_unseen,
    fun ⟨hsees, hon⟩ => ?enabled,
    fun ⟨hlo, hhi, hfn⟩ => ?capture, fun hmine => ?management, fun ⟨hother, hfn⟩ => ?other, ?pending, ?silent⟩
  case enabled =>
    exact (execEventEnable_of_sees hsees).trans (congrArg Host.Outcome.next (State.evCfg_of_enabled _ hon))
  case capture =>
    exact congrArg Host.Outcome.next (State.evRaise_of_own ((State.mayRaise_capture_iff hfn).2 ⟨hlo, hhi⟩))
  case management => exact congrArg Host.Outcome.next (State.evRaise_of_own (State.mayRaise_zero_iff.2 hmine))
  case other =>
    exact congrArg Host.Outcome.next (State.evRaise_of_other (mt (State.mayRaise_capture_iff hfn).1 hother))
  case pending => exact fun hset => congrArg Host.Outcome.next (if_pos hset)
  case silent => exact fun hclear => congrArg Host.Outcome.next (if_neg (by rw [hclear]; decide))

end Sys2Proof.Machine

/-! SUPPORT. What an SPDM request is answered, by the shepherd's state and the request kept under a token (R469). -/
namespace Sys2Proof.Machine

/-- Whether a request takes up a kept one (R469). -/
def SpdmRequest.resumes : SpdmRequest → Bool
  | .respondIfReady _ _ => true
  | _ => false

namespace State

section
variable {tr : Nat} {s : State}

/-- A request that names no kept one is served, or kept while the firmware does not run. -/
theorem spdmRequest_of_new {r : SpdmRequest} (h : r.resumes = false) :
    spdmRequest tr r s = if s.shepherdRuns = true then spdmServe tr r s else spdmNotReady tr r s := by
  cases r with
  | respondIfReady => cases h
  | _ => rfl

/-- RESPOND_IF_READY with nothing kept is not expected. -/
theorem spdmRequest_resume_of_none (code token : Nat) (h : s.deferredOf tr = none) :
    spdmRequest tr (.respondIfReady code token) s = spdmError tr 4 0 s := by
  simp only [spdmRequest, h]

/-- RESPOND_IF_READY takes up the request kept, by its code and token. -/
theorem spdmRequest_resume_of_some (code token : Nat) {q : SpdmRequest} (h : s.deferredOf tr = some q) :
    spdmRequest tr (.respondIfReady code token) s
      = if spdmCode q ≠ code ∨ s.shep.token ≠ token then spdmError tr 1 0 s
        else if s.shepherdRuns = true then spdmServe tr q (setDeferred tr none s) else spdmNotReady tr q s := by
  simp only [spdmRequest, h]

/-- A new request, by the answer that serves it. -/
theorem spdmRequest_of_serve {r : SpdmRequest} {served : State} (h : r.resumes = false)
    (hserve : spdmServe tr r s = served) :
    spdmRequest tr r s = if s.shepherdRuns = true then served else spdmNotReady tr r s := by
  rw [spdmRequest_of_new h, hserve]

/-- The same, with the wait for the firmware first. -/
theorem spdmRequest_of_wait {r : SpdmRequest} {served : State} (h : r.resumes = false)
    (hserve : spdmServe tr r s = served) :
    spdmRequest tr r s = if ¬ s.shepherdRuns = true then spdmNotReady tr r s else served := by
  rw [spdmRequest_of_serve h hserve, ite_not]

end
end State

/-- Settles O55: each request by whether the firmware runs, RESPOND_IF_READY by what is kept; the control requests and
discovery have one answer each. -/
theorem spdmAndMctp : Obligations.SpdmAndMctp := by
  intro smbus sign slot off len op code token eid index nonce s tr answer later signed runs
  refine ⟨?version, ?capabilities, ?algorithms, ?digests, ?certificate, ?challenge, ?measurements,
    fun hnone => ?nothing, fun q hq => ?resumed, ?unsupported, rfl, rfl, rfl, rfl, rfl⟩ <;>
    refine congrArg Host.Outcome.next ?_
  case version => exact State.spdmRequest_of_serve rfl rfl
  case capabilities => exact State.spdmRequest_of_serve rfl rfl
  case algorithms => exact State.spdmRequest_of_serve rfl rfl
  case digests => exact State.spdmRequest_of_serve rfl rfl
  case certificate => exact State.spdmRequest_of_wait rfl rfl
  case challenge => exact State.spdmRequest_of_wait rfl rfl
  case measurements => exact State.spdmRequest_of_wait rfl rfl
  case nothing => exact State.spdmRequest_resume_of_none code token hnone
  case resumed => exact State.spdmRequest_resume_of_some code token hq
  case unsupported =>
    exact ite_congr rfl (fun _ => rfl) fun _ => State.spdmRequest_of_serve rfl rfl

end Sys2Proof.Machine

/-! SUPPORT. Time between the resets of the core (R349). -/
namespace Sys2Proof.Machine

/-- The idle clock and every command at the front but those that may reset the core are `Onward`. -/
theorem step_onward {s : State} (h : ∀ c ∈ s.pending.head?, mayResetCore c = false) :
    ∃ t, step s = .next t ∧ ({ s with pending := s.pending.tail } : State).Onward t := by
  unfold step
  split
  case _ hq => exact ⟨s.idle, rfl, by rw [hq, List.tail_nil, ← hq]; exact State.idle_onward .rfl⟩
  case _ c rest hq => rw [hq] at h ⊢; exact exec_onward (h c rfl) _

/-- Settles O4: no command but those six resets the core, and every other one is `Onward`. -/
theorem timeNeverFalls : Obligations.TimeNeverFalls := by
  intro s t ht hf hno
  have hreset : ∀ c ∈ s.pending.head?, mayResetCore c = false := fun c hc => by
    obtain ⟨hcold, hloss, hrange, hrelease, hthermal, hremoval⟩ := hno c hc
    unfold mayResetCore
    split
    · exact absurd rfl (hcold _)
    · exact absurd rfl hloss
    · exact absurd rfl (hrange _)
    · exact absurd rfl (hrelease _)
    · exact absurd rfl (hthermal _)
    · exact absurd rfl hremoval
    · rfl
  obtain ⟨u, hu, hon⟩ := step_onward hreset
  obtain rfl : u = t := Host.Outcome.next.inj (hu.symm.trans ht)
  obtain ⟨_, hdev, htda, htdb⟩ := hon.tb hf
  exact ⟨hdev, htda, htdb⟩

end Sys2Proof.Machine

/-! SUPPORT. What the clock makes of the counts of an adjustment and of a halving (R351, R352). -/
namespace Sys2Proof.Machine

@[simp] theorem TimeBase.run_tda (a : TimeBase) (n : Nat) : (a.run n).tda = a.tda.run n := by
  simp only [TimeBase.run]
  split <;> rfl

@[simp] theorem TimeBase.run_tdb (a : TimeBase) (n : Nat) : (a.run n).tdb = a.tdb.run n := by
  simp only [TimeBase.run]
  split <;> rfl

@[simp] theorem TimeBase.run_counter (a : TimeBase) (n d : Nat) : (a.run n).counter d = (a.counter d).run n := by
  unfold TimeBase.counter
  split
  · rw [TimeBase.run_tda]
  · rw [TimeBase.run_tdb]

namespace State

@[simp] theorem runSpan_tb (n : Nat) (s : State) : (s.runSpan n).tb = s.tb.run n := by
  simp only [runSpan]
  split
  · rw [joined_tb]
  · rw [syncTime_tb]

/-- The spans that the clocks fall into add up to the clocks. -/
theorem advanceIn_adjLeft (k n d : Nat) (s : State) :
    ((s.advanceIn k n).tb.counter d).adjLeft = (s.tb.counter d).adjLeft - n := by
  induction k generalizing n s with
  | zero => simp [advanceIn, Counter.run]
  | succ k ih =>
    simp only [advanceIn]
    split
    · simp [Counter.run]
    · simp only [ih, runSpan_tb, TimeBase.run_counter, Counter.run]
      omega

theorem advanceIn_halveLeft (k n d : Nat) (s : State) :
    ((s.advanceIn k n).tb.counter d).halveLeft = (s.tb.counter d).halveLeft - n := by
  induction k generalizing n s with
  | zero => simp [advanceIn, Counter.run]
  | succ k ih =>
    simp only [advanceIn]
    split
    · simp [Counter.run]
    · simp only [ih, runSpan_tb, TimeBase.run_counter, Counter.run]
      omega

theorem advance_adjLeft (n d : Nat) (s : State) :
    ((s.advance n).tb.counter d).adjLeft = (s.tb.counter d).adjLeft - n := advanceIn_adjLeft ..

theorem advance_halveLeft (n d : Nat) (s : State) :
    ((s.advance n).tb.counter d).halveLeft = (s.tb.counter d).halveLeft - n := advanceIn_halveLeft ..

end State

/-- Settles O8: both counts lose every clock that the command runs. -/
theorem timeRunsOut : Obligations.TimeRunsOut := by
  intro d s
  refine ⟨⟨_, rfl, ?adjDone, ?halved⟩, ⟨_, rfl, ?halveDone, ?adjusted⟩⟩
  case adjDone => rw [State.advance_adjLeft, Nat.sub_self]
  case halved => rw [State.advance_halveLeft]
  case halveDone => rw [State.advance_halveLeft, Nat.sub_self]
  case adjusted => rw [State.advance_adjLeft]

end Sys2Proof.Machine

/-! SUPPORT. Writes of the increment and of an adjustment (R350, R351). -/
namespace Sys2Proof.Machine

/-- Settles O9: a servo that owns the increment refuses; else each write by its limits. -/
theorem incrementWrites : Obligations.IncrementWrites := by
  intro d int ticks s v a
  refine ⟨fun howned => ⟨?_, ?_⟩, fun hfree => ?_, rfl⟩
  · exact congrArg Host.Outcome.next (if_pos howned)
  · exact congrArg Host.Outcome.next (if_pos howned)
  have hno : ¬ s.servoOwns d = true := Bool.eq_false_iff.1 hfree
  refine ⟨fun hin => ?inside, fun hout => ?outside, ?cancel, fun ⟨hpos, hlo, hhi⟩ => ?start, fun ⟨hpos, hout⟩ => ?bad⟩
  case inside => exact congrArg Host.Outcome.next ((if_neg hno).trans (if_pos hin))
  case outside => exact congrArg Host.Outcome.next ((if_neg hno).trans (if_neg hout))
  case cancel => exact congrArg Host.Outcome.next ((if_neg hno).trans (if_pos rfl))
  case start =>
    exact congrArg Host.Outcome.next ((if_neg hno).trans ((if_neg (Nat.ne_of_gt hpos)).trans (if_pos ⟨hlo, hhi⟩)))
  case bad =>
    exact congrArg Host.Outcome.next ((if_neg hno).trans ((if_neg (Nat.ne_of_gt hpos)).trans (if_neg hout)))

end Sys2Proof.Machine

/-! SUPPORT. What events and pens leave of the registers: those below their windows (R272, R288, R336-R342). -/
namespace Sys2Proof.Machine

/-- Every register below the windows of the events, the pens and the message vectors stands. -/
def Fabric.LowStands (b c : Fabric) : Prop := ∀ key < 0xF00000, c.rw key = b.rw key

namespace Fabric.LowStands

variable {b c : Fabric}

theorem refl : b.LowStands b := fun _ _ => rfl

/-- A write of a field in those windows. -/
theorem wr {f : FRef} {v : Nat} (h : b.LowStands c) (hf : 0xF00000 ≤ f.key) : b.LowStands (c.wr f v) :=
  fun key hk => (Fabric.rw_ww_other c _ (by omega)).trans (h key hk)

theorem tally {f : FRef} {n : Nat} (h : b.LowStands c) (hf : 0xF00000 ≤ f.key) : b.LowStands (c.tally f n) := h.wr hf

/-- A change outside the registers. -/
theorem other {d : Fabric} (h : b.LowStands c) (hr : d.regs = c.regs) : b.LowStands d :=
  fun key hk => (by rw [Fabric.rw, hr]; rfl : d.rw key = c.rw key).trans (h key hk)

theorem ite {p : Prop} [Decidable p] {d : Fabric} (h : b.LowStands c) (k : b.LowStands d) :
    b.LowStands (if p then c else d) := by
  split
  · exact h
  · exact k

end Fabric.LowStands

/-- A pen's registers, and a function's own event and vector registers, lie in those windows. -/
theorem penKey_high {k p : Nat} (hk : 0xF00000 ≤ k := by decide) : 0xF00000 ≤ k + 0x40 * p := Nat.le_add_right_of_le hk

theorem fnKey_high {fn k : Nat} (hk : 0xF00000 ≤ k := by decide) : 0xF00000 ≤ 0x4000000 * fn + k :=
  Nat.le_add_left_of_le hk

theorem eventKey_high {fn k n i : Nat} (hk : 0xF00000 ≤ k := by decide) : 0xF00000 ≤ 0x4000000 * fn + k + i * n :=
  Nat.le_add_right_of_le (fnKey_high hk)

section
variable {b c : Fabric} {owner : Nat → Nat} {now : Time} {p : Nat}

theorem setBytes_regs (l : List Byte) (a : Nat) (b : Fabric) : (b.setBytes a l).regs = b.regs := by
  induction l generalizing a b with
  | nil => rfl
  | cons v r ih => exact ih (a + 1) (b.setByte a v)

theorem indicate_lowStands {i : Indication} (h : b.LowStands c) : b.LowStands (c.indicate i) := h.other rfl

theorem setView_lowStands {fn src : Nat} {v : View} (h : b.LowStands c) : b.LowStands (c.setView fn src v) := h.other rfl

theorem penGroupEvent_lowStands (h : b.LowStands c) : b.LowStands (penGroupEvent owner now p c) :=
  (h.wr (v := 1) (f := ⟨PNG_NOTICE (p / 512) (p % 512 / 32), p % 32, p % 32⟩) (by
    change 0xF00000 ≤ 0xF60000 + _ + _
    omega)).other rfl

theorem hurdlePin_lowStands {k : Nat} (h : b.LowStands c) : b.LowStands (hurdlePin c k) :=
  h.wr (show 0xF00000 ≤ HU_OUT by decide)

theorem penPin_lowStands (h : b.LowStands c) : b.LowStands (penPin p c) := h.ite (hurdlePin_lowStands h)

theorem penCross_lowStands {v : Nat} (h : b.LowStands c) : b.LowStands (penCross owner now p v c) := by
  have hcross := penPin_lowStands (p := p) (((h.wr (f := PN_STATUS_HURDLE p) (v := v) penKey_high).wr
    (f := if v = 1 then PN_STATUS_UP p else PN_STATUS_DOWN p) (v := 1) (by split <;> exact penKey_high)).tally
      (f := PN_EVENT_TALLY_CROSS p) (n := 1) penKey_high)
  exact .ite (penGroupEvent_lowStands hcross) hcross

theorem penHurdle_lowStands (h : b.LowStands c) : b.LowStands (penHurdle owner now p c) :=
  h.ite (.ite (penCross_lowStands h) (.ite (penCross_lowStands h) h))

theorem penSetPtrs_lowStands {wr rd : Nat} (h : b.LowStands c) : b.LowStands (penSetPtrs p wr rd c) :=
  (((h.wr penKey_high).wr penKey_high).wr penKey_high).wr penKey_high

theorem penTake_lowStands {n : Nat} (h : b.LowStands c) : b.LowStands (penTake p n c) :=
  h.ite (((penSetPtrs_lowStands h).wr penKey_high).wr penKey_high)

theorem penEndPop_lowStands (h : b.LowStands c) : b.LowStands (penEndPop p c) :=
  h.ite ((((h.other (d := { c with pops := tset (fun _ => 0) c.pops p 0 }) rfl).wr penKey_high).wr penKey_high).wr
    penKey_high)

theorem penCut_lowStands {v : Nat} (h : b.LowStands c) : b.LowStands (penCut p v c) := .ite (h.other rfl) h

theorem penOverwrite_lowStands (h : b.LowStands c) : b.LowStands (penOverwrite owner now p c) := by
  simp only [penOverwrite]
  generalize penPacketLen c p _ _ = len
  have htorn := (h.wr (f := PN_STATUS_TORN p) (v := 1) penKey_high).ite (p := (c.rd (PN_STATUS_MIDPKT p) == 1) = true) h
  have htake := penTake_lowStands (p := p) (n := len.1) (penCut_lowStands (p := p) (v := 7) htorn)
  have hwords (n : Nat) := htake.tally (f := PN_LOST_WORD_TALLY_COUNT p) (n := n) penKey_high
  have hlost := (hwords len.1).ite (p := len.2 = true)
    ((hwords (len.1 + 1)).wr (f := PN_STATUS_DROPPING p) (v := 1) penKey_high)
  have hend := penEndPop_lowStands (p := p) (hlost.tally (f := PN_LOST_PKT_TALLY_OVERWRITTEN p) (n := 1) penKey_high)
  exact .ite (penGroupEvent_lowStands hend) hend

theorem penLand_lowStands {data : List Byte} {last : Bool} (h : b.LowStands c) :
    b.LowStands (penLand p data last c) := by
  simp only [penLand]
  generalize hw : (c.setBytes _ _).setByte _ _ = d
  have hd : b.LowStands d := h.other (hw ▸ setBytes_regs ..)
  split
  · exact (penSetPtrs_lowStands hd).wr penKey_high
  · exact penSetPtrs_lowStands hd

theorem penRefuse_lowStands (h : b.LowStands c) : b.LowStands (penRefuse p c) := (h.tally penKey_high).wr penKey_high

theorem penPushWith_lowStands {last : Bool} {land : Fabric → Fabric} (hland : ∀ d, b.LowStands d → b.LowStands (land d))
    (h : b.LowStands c) : b.LowStands (penPushWith owner now p last land c) := by
  have hdrop (d : Fabric) (hd : b.LowStands d) : b.LowStands
      (if last then (d.wr (PN_STATUS_DROPPING p) 0).wr (PN_STATUS_MIDPKT p) 0 else d) :=
    ((hd.wr penKey_high).wr penKey_high).ite hd
  have hover := penOverwrite_lowStands (owner := owner) (now := now) (p := p) h
  exact (h.tally penKey_high).ite (.ite (hdrop c h) (.ite (.ite (penRefuse_lowStands h)
    (.ite (penHurdle_lowStands (hdrop _ hover)) (penHurdle_lowStands (hland _ hover)))) (penHurdle_lowStands (hland _ h))))

theorem penPushAll_lowStands {ws : List (List Byte)} (h : b.LowStands c) :
    b.LowStands (penPushAll owner now p ws c) := by
  induction ws generalizing c with
  | nil => exact h
  | cons w r ih =>
    cases r with
    | nil => exact penPushWith_lowStands (fun _ => penLand_lowStands) h
    | cons w' r' => exact ih (penPushWith_lowStands (fun _ => penLand_lowStands) h)

theorem penAdmit_lowStands {packet : List Byte} (h : b.LowStands c) :
    b.LowStands (penAdmit owner now p packet c).2 := by
  simp only [penAdmit]
  split
  · exact h.tally penKey_high
  · split
    · exact penPushAll_lowStands h
    · exact penRefuse_lowStands h

theorem sendVector_lowStands {fn vec : Nat} (h : b.LowStands c) : b.LowStands (sendVector fn vec c) :=
  .ite (h.wr eventKey_high) (h.other rfl)

theorem discardRecord_lowStands {fn src : Nat} (h : b.LowStands c) : b.LowStands (discardRecord now fn src c) :=
  have hdrop := h.tally (f := EV_DROP_TALLY_COUNT fn) (n := 1) fnKey_high
  .ite hdrop (indicate_lowStands hdrop)

theorem sendRecord_lowStands {fn src count flags : Nat} {v : View} (h : b.LowStands c) :
    b.LowStands (sendRecord owner now fn src count flags v c) := by
  have hseq := h.wr (f := EV_SEQ_VALUE fn) (v := c.rd (EV_SEQ_VALUE fn) + 1) fnKey_high
  have hadmit := penAdmit_lowStands (owner := owner) (now := now) (p := c.rd (EV_CFG_PEN fn src))
    (packet := eventRecord fn src count flags v (c.rd (EV_SEQ_VALUE fn))) hseq
  exact .ite (.ite hadmit (discardRecord_lowStands hadmit)) (discardRecord_lowStands hseq)

theorem deliver_lowStands {late : Bool} {fn src : Nat} (h : b.LowStands c) :
    b.LowStands (deliver owner now late fn src c) := by
  have hview := (h.wr (f := EV_STATUS_UNDELIVERED fn src) (v := 0) eventKey_high).other
    (d := (c.wr (EV_STATUS_UNDELIVERED fn src) 0).setView fn src {}) rfl
  have hrecord := (sendRecord_lowStands (owner := owner) (now := now) (fn := fn) (src := src)
    (count := c.rd (EV_STATUS_UNDELIVERED fn src))
    (flags := c.rd (EV_STATUS_OVERFLOW fn src) + if late then 2 else 0) (v := c.view fn src) hview).ite
      (p := c.rd (EV_CFG_ROUTE fn src) ≥ 2) hview
  exact .ite (sendVector_lowStands hrecord) hrecord

theorem viewOccur_lowStands {i : Indication} {fn : Nat} (h : b.LowStands c) :
    b.LowStands (viewOccur owner now i c fn) := by
  have hcount := (h.tally (f := EV_TALLY_COUNT fn i.src) (n := 1) eventKey_high).wr (f := EV_STATUS_PENDING fn i.src) (v := 1)
    eventKey_high
  have hmore (u : Nat) := (hcount.wr (f := EV_STATUS_OVERFLOW fn i.src) (v := 1) eventKey_high).ite (p := u = 65535)
    (hcount.wr (f := EV_STATUS_UNDELIVERED fn i.src) (v := u + 1) eventKey_high)
  exact .ite (setView_lowStands hcount)
    (.ite (deliver_lowStands (setView_lowStands (hmore _))) (setView_lowStands (hmore _)))

theorem drain_lowStands {n : Nat} (h : b.LowStands c) : b.LowStands (drain owner now n c) := by
  have hoccur (i : Indication) (l : List Nat) (d : Fabric) (hd : b.LowStands d) :
      b.LowStands (l.foldl (viewOccur owner now i) d) := by
    induction l generalizing d with
    | nil => exact hd
    | cons fn r ih => exact ih _ (viewOccur_lowStands hd)
  induction n generalizing c with
  | zero => exact h
  | succ n ih =>
    rw [drain]
    split
    · exact h
    · exact ih (hoccur _ _ _ (h.other rfl))

end

namespace State

/-- An event, whatever it sets off, leaves the fields below the windows. -/
theorem rd_raise (s : State) (src detail : Nat) {f : FRef} (h : f.key < 0xF00000) : (s.raise src detail).rd f = s.rd f :=
  congrArg (bitsOf · f.hi f.lo) (drain_lowStands (.other .refl rfl) f.key h)

end State
end Sys2Proof.Machine

/-! SUPPORT. What a join makes of device time, by the gap to the new counter (R353–R355, R368). -/
namespace Sys2Proof.Machine
namespace State

@[simp] theorem forwardStep_join (s : State) (old : Nat) : (s.forwardStep old).tb.join = s.tb.join := by
  rw [forwardStep_tb]
  rfl

@[simp] theorem forwardStep_active (s : State) (old : Nat) : (s.forwardStep old).tb.active = s.tb.active := by
  rw [forwardStep_tb]
  rfl

/-- Device time as a completed join leaves it. -/
theorem joinStep_tb (d : Nat) (s : State) :
    (s.joinStep d).tb.join = .follow ∧ (s.joinStep d).tb.active = d ∧ (s.joinStep d).tb.dev = (s.tb.counter d).val := by
  simp only [joinStep, forwardStep_join, forwardStep_active, forwardStep_dev, joined_tb, and_self]

/-- A join that catches up leaves device time as it stood. -/
theorem joinCatch_tb (d : Nat) (s : State) :
    (s.joinCatch d).tb.join = .catchUp ∧ (s.joinCatch d).tb.target = d ∧ (s.joinCatch d).tb.dev = s.tb.dev := by
  simp only [joinCatch, syncTime_tb, and_self]

/-- A join that waits leaves device time as it stood. -/
theorem joinWait_tb (d : Nat) (g : Int) (s : State) :
    ((s.joinWait d g).tb.join = .wait ∨ (s.joinWait d g).tb.join = .waitRunning) ∧ (s.joinWait d g).tb.target = d
      ∧ (s.joinWait d g).tb.dev = s.tb.dev := by
  simp only [joinWait, raise_tb, syncTime_tb]
  cases s.tb.join <;> simp

theorem gapLe_iff {g : Int} {limit : Nat} : joinJudge.gapLe g limit = true ↔ (g.natAbs : Int) ≤ ns32 limit := by
  rw [joinJudge.gapLe, decide_eq_true_iff, Int.ofNat_le]

theorem joinJudge_of_step {d : Nat} {s : State} (h0 : 0 ≤ s.joinGap d)
    (h : s.joinGap d ≤ ns32 (s.rd TB_JOIN_LIMIT_VALUE)) : s.joinJudge d = s.joinStep d := by
  rw [joinJudge, if_pos h0, if_pos (gapLe_iff.2 (by omega))]

theorem joinJudge_of_catch {d : Nat} {s : State} (h0 : s.joinGap d < 0)
    (h : -s.joinGap d ≤ ns32 (s.rd TB_JOIN_BACK_LIMIT_VALUE)) : s.joinJudge d = s.joinCatch d := by
  rw [joinJudge, if_neg (by omega), if_pos (gapLe_iff.2 (by omega))]

theorem joinJudge_of_wait {d : Nat} {s : State}
    (h : (ns32 (s.rd TB_JOIN_LIMIT_VALUE) : Int) < s.joinGap d ∨ (ns32 (s.rd TB_JOIN_BACK_LIMIT_VALUE) : Int) < -s.joinGap d) :
    s.joinJudge d = s.joinWait d (s.joinGap d) := by
  unfold joinJudge
  rcases h with h | h
  · rw [if_pos (by omega), if_neg (by rw [gapLe_iff]; omega)]
  · rw [if_neg (by omega), if_neg (by rw [gapLe_iff]; omega)]

/-- The join's start noted: the gap shown, the domain kept, and EV648. -/
def joinNoted (d : Nat) (s : State) : State :=
  let u := s.wr TB_JOIN_GAP_VALUE (toSigned 32 (gapPs (s.joinGap d)))
  { u with tb := { u.tb with domains := (u.tb.dev, d) :: u.tb.domains } }.raise 648 d

theorem joinBegin_eq (d : Nat) (s : State) : s.joinBegin d = ((s.advance 1).joinNoted d).joinJudge d := rfl

theorem joinNoted_tb (d : Nat) (s : State) :
    (s.joinNoted d).tb = { s.tb with domains := (s.tb.dev, d) :: s.tb.domains } := by
  rw [joinNoted, raise_tb, wr_tb]

theorem joinNoted_counter (d e : Nat) (s : State) : (s.joinNoted d).tb.counter e = s.tb.counter e := by
  rw [joinNoted_tb]
  rfl

theorem joinNoted_dev (d : Nat) (s : State) : (s.joinNoted d).tb.dev = s.tb.dev := by rw [joinNoted_tb]

theorem joinNoted_gap (d : Nat) (s : State) : (s.joinNoted d).joinGap d = s.joinGap d := by
  rw [joinGap, joinGap, joinNoted_counter, joinNoted_dev]

/-- The note leaves the limits, which stand in other registers. -/
theorem joinNoted_limits (d : Nat) (s : State) :
    (s.joinNoted d).rd TB_JOIN_LIMIT_VALUE = s.rd TB_JOIN_LIMIT_VALUE
      ∧ (s.joinNoted d).rd TB_JOIN_BACK_LIMIT_VALUE = s.rd TB_JOIN_BACK_LIMIT_VALUE :=
  ⟨(rd_raise _ _ _ (by decide)).trans (rd_wr_other s _ (by decide) (by decide) (.inl (by decide))),
    (rd_raise _ _ _ (by decide)).trans (rd_wr_other s _ (by decide) (by decide) (.inl (by decide)))⟩

end State

/-- Settles O10: a write of SEL by whether it changes it, a join by its gap, which the note of its start leaves. -/
theorem joinOutcomes : Obligations.JoinOutcomes := by
  intro d s hd
  refine ⟨fun hsame => congrArg Host.Outcome.next (if_pos hsame), fun hchange => ?_⟩
  intro u g
  obtain ⟨hlimit, hback⟩ := u.joinNoted_limits d
  have hgap : (u.joinNoted d).joinGap d = g := u.joinNoted_gap d
  refine ⟨(u.joinNoted d).joinJudge d, congrArg Host.Outcome.next (if_neg hchange), fun ⟨h0, hle⟩ => ?step,
    fun ⟨hneg, hle⟩ => ?catchUp, fun hfar => ?wait⟩
  case step =>
    rw [State.joinJudge_of_step (hgap ▸ h0) (by rw [hgap, hlimit]; exact hle), State.joinStep_counter]
    obtain ⟨hjoin, hactive, hdev⟩ := (u.joinNoted d).joinStep_tb d
    exact ⟨hjoin, hactive, hdev, hdev.trans (by rw [State.joinNoted_counter])⟩
  case catchUp =>
    rw [State.joinJudge_of_catch (hgap ▸ hneg) (by rw [hgap, hback]; exact hle), ← u.joinNoted_dev d]
    exact (u.joinNoted d).joinCatch_tb d
  case wait =>
    rw [State.joinJudge_of_wait (by rw [hgap, hlimit, hback]; exact hfar), ← u.joinNoted_dev d]
    exact (u.joinNoted d).joinWait_tb d _

end Sys2Proof.Machine

/-! SUPPORT. The end of a catch-up (R355). -/
namespace Sys2Proof.Machine

/-- Without adjustments and halvings a catch-up alone bounds the span. -/
theorem TimeBase.span_of_catchUp {a : TimeBase} (hj : a.join = .catchUp) (haa : a.tda.adjLeft = 0)
    (hah : a.tda.halveLeft = 0) (hba : a.tdb.adjLeft = 0) (hbh : a.tdb.halveLeft = 0) : a.span = a.catchClocks := by
  simp [TimeBase.span, minSpan, hj, haa, hah, hba, hbh]

/-- In the clocks that it takes, a catch-up reaches its counter. -/
theorem TimeBase.catchClocks_reaches {a : TimeBase} (hinc : 0 < (a.counter a.target).inc) :
    a.dev + a.catchClocks * ((a.counter a.target).inc / 2)
      ≤ (a.counter a.target).val + a.catchClocks * (a.counter a.target).inc := by
  simp only [TimeBase.catchClocks]
  generalize (a.counter a.target).inc = i at *
  generalize (a.counter a.target).val = v
  have hpos : 0 < i - i / 2 := by omega
  have hceil : a.dev - v ≤ ceilDiv (a.dev - v) (i - i / 2) * (i - i / 2) := by
    have := Nat.lt_div_mul_add (a := a.dev - v + (i - i / 2) - 1) hpos
    unfold ceilDiv
    omega
  generalize ceilDiv (a.dev - v) (i - i / 2) = n at *
  have hsplit : n * i = n * (i - i / 2) + n * (i / 2) := by rw [← Nat.mul_add]; congr 1; omega
  omega

/-- Both counters run by the same clocks, whatever device time does. -/
theorem TimeBase.counter_of_ran (a : TimeBase) (n dev d : Nat) :
    ({ a with tda := a.tda.run n, tdb := a.tdb.run n, dev := dev } : TimeBase).counter d = (a.counter d).run n := by
  unfold TimeBase.counter
  split <;> rfl

/-- A run of those clocks ends a catch-up: device time takes the counter's value and follows it. -/
theorem TimeBase.run_catchClocks {a : TimeBase} (hj : a.join = .catchUp) (hinc : 0 < (a.counter a.target).inc) :
    (a.run a.catchClocks).join = .follow ∧ (a.run a.catchClocks).active = a.target
      ∧ (a.run a.catchClocks).dev = ((a.run a.catchClocks).counter a.target).val := by
  have hdev : a.devInc = (a.counter a.target).inc / 2 := by rw [TimeBase.devInc, hj]
  rw [TimeBase.run_counter]
  simp only [TimeBase.run, hdev, TimeBase.counter_of_ran]
  rw [if_pos ⟨hj, TimeBase.catchClocks_reaches hinc⟩]
  exact ⟨rfl, rfl, rfl⟩

namespace State

/-- A span of clocks that bounds itself is run at once. -/
theorem advanceIn_of_le_span {k n : Nat} {s : State} (h : n ≤ s.tb.span) : s.advanceIn (k + 1) n = s.runSpan n :=
  if_pos (.inr h)

theorem joinRun_of_done {n : Nat} {s : State} (h : s.tb.join ≠ .catchUp) : s.joinRun n = s := by
  cases n with
  | zero => rfl
  | succ n => exact if_neg h

/-- Without adjustments and halvings a catch-up ends in one span. -/
theorem joinRun_of_catchUp {n : Nat} {s : State} (hj : s.tb.join = .catchUp) (hspan : s.tb.span = s.tb.catchClocks)
    (hinc : 0 < (s.tb.counter s.tb.target).inc) : s.joinRun (n + 1) = s.runSpan s.tb.catchClocks := by
  have hone : s.advance s.tb.catchClocks = s.runSpan s.tb.catchClocks := advanceIn_of_le_span hspan.ge
  obtain ⟨hfollow, -⟩ := TimeBase.run_catchClocks hj hinc
  rw [joinRun, if_pos hj, hone, joinRun_of_done (by rw [runSpan_tb, hfollow]; decide)]

/-- Where no join waits, none is shown to. -/
theorem syncTime_joinWait {s : State} (h : s.isWaiting = false) : s.syncTime.rd TB_STATUS_JOIN_WAIT = 0 := by
  rw [isWaiting] at h
  rw [syncTime, rd_wr_other _ _ (by decide) (by decide) (.inr (.inr (by decide)))]
  simp only [h, wrIf]
  rw [rd_wr_same _ _ (by decide) (by decide)]
  rfl

theorem isWaiting_iff (s : State) : s.isWaiting = true ↔ s.tb.join = .wait ∨ s.tb.join = .waitRunning := by
  simp [isWaiting]

theorem joinGap_nonneg_iff {d : Nat} {s : State} : 0 ≤ s.joinGap d ↔ s.tb.dev ≤ (s.tb.counter d).val := by
  rw [joinGap, Int.sub_nonneg, Int.ofNat_le]

/-- A waiting join is forced by where the new counter stands one clock later. -/
theorem joinForce_of_waiting {s u : State} (h : s.tb.join = .wait ∨ s.tb.join = .waitRunning) (hu : s.advance 1 = u) :
    s.joinForce = if u.tb.dev ≤ (u.tb.counter u.tb.target).val then joinStep u.tb.target u else joinCatch u.tb.target u := by
  rw [joinForce, if_pos (s.isWaiting_iff.2 h)]
  simp only [hu, joinGap_nonneg_iff]

end State

/-- Settles O11: a catch-up ends in one span, a waiting join goes by its gap one clock later, and its cancellation only
writes SEL and STATUS. -/
theorem joinEnds : Obligations.JoinEnds := by
  intro s
  refine ⟨fun ⟨hj, haa, hah, hba, hbh, hbase⟩ => ?complete, fun hwait => ?force, fun hwait => ?cancel, fun hfollow => ?none⟩
  case complete =>
    have hinc : 0 < (s.tb.counter s.tb.target).inc := by
      have hfree : (s.tb.counter s.tb.target).adjLeft = 0 ∧ (s.tb.counter s.tb.target).halveLeft = 0 := by
        unfold TimeBase.counter
        split
        · exact ⟨haa, hah⟩
        · exact ⟨hba, hbh⟩
      simpa [Counter.inc, hfree] using hbase
    obtain ⟨hfollow, hactive, hdev⟩ := TimeBase.run_catchClocks hj hinc
    refine ⟨_, congrArg Host.Outcome.next
      (State.joinRun_of_catchUp hj (TimeBase.span_of_catchUp hj haa hah hba hbh) hinc), ?_⟩
    rw [State.runSpan_tb]
    exact ⟨hfollow, hactive, hdev⟩
  case force =>
    intro u
    refine ⟨_, congrArg Host.Outcome.next (State.joinForce_of_waiting hwait (u := u) rfl), fun hahead => ?_, fun hbehind => ?_⟩
    · rw [if_pos hahead]
      exact u.joinStep_tb u.tb.target
    · rw [if_neg (Nat.not_le.2 hbehind)]
      exact u.joinCatch_tb u.tb.target
  case cancel =>
    refine ⟨_, congrArg Host.Outcome.next (if_pos hwait), ?_⟩
    simp only [State.syncTime_tb, State.wr_tb, true_and, and_true]
    exact State.syncTime_joinWait rfl
  case none =>
    have hno : ¬ s.isWaiting = true := by rw [State.isWaiting_iff, hfollow]; decide
    refine ⟨congrArg Host.Outcome.next (if_neg hno), ?_, congrArg Host.Outcome.next (State.joinRun_of_done ?_)⟩
    · refine congrArg Host.Outcome.next ?_
      rw [State.joinCancel, if_neg (by rw [hfollow]; decide), if_neg (by rw [hfollow]; decide)]
    · rw [hfollow]
      decide

end Sys2Proof.Machine

/-! SUPPORT. What a sample makes of an encoder in which both filtered levels change (R373). -/
namespace Sys2Proof.Machine

/-- A quadrature mode counts nothing for a change of both lines. -/
theorem decodeEdge_of_both {mode : Nat} (invert a b : Bool) (h : mode < 3) : decodeEdge mode invert (!a) (!b) a b = none := by
  unfold decodeEdge
  rw [if_neg (Nat.ne_of_lt h), if_pos ⟨Bool.not_ne_self a, Bool.not_ne_self b⟩]

theorem Fabric.wr_mem (b : Fabric) (f : FRef) (v : Nat) : (b.wr f v).mem = b.mem := rfl

theorem Fabric.wr_out (b : Fabric) (f : FRef) (v : Nat) : (b.wr f v).out = b.out := rfl

namespace State

theorem linesFire_nil (k : Nat) (sample : Time) (s : State) : linesFire k [] sample s = s := rfl

theorem wrIf_fab (s : State) (f : FRef) (c : Bool) : (s.wrIf f c).fab = s.fab.wr f (if c then 1 else 0) := rfl

/-- The levels of A and B taken. -/
def encLevels (k : Nat) (a b : Bool) (e : Encoder) (s : State) : State :=
  ((s.setEnc k e).wrIf (EN_STATUS_A k) a).wrIf (EN_STATUS_B k) b

section
variable (k : Nat) (a b : Bool) (e : Encoder) (sample : Time) (s : State)

/-- Taking the levels leaves every register but EN_STATUS. -/
theorem encLevels_rw {key : Nat} (h : key ≠ EN_STATUS k) : (s.encLevels k a b e).rw key = s.rw key :=
  (rw_wr_other _ _ h).trans (rw_wr_other _ _ h)

theorem encLevels_rd {f : FRef} (h : f.key ≠ EN_STATUS k) : (s.encLevels k a b e).rd f = s.rd f :=
  congrArg (bitsOf · f.hi f.lo) (encLevels_rw k a b e s h)

theorem encLevels_b : (s.encLevels k a b e).rd (EN_STATUS_B k) = if b then 1 else 0 := by
  unfold encLevels wrIf
  rw [rd_wr_same _ _ le_rfl (show 30 < 32 by decide)]
  cases b <;> rfl

theorem encLevels_a : (s.encLevels k a b e).rd (EN_STATUS_A k) = if a then 1 else 0 := by
  unfold encLevels wrIf
  rw [rd_wr_other _ _ le_rfl (show 30 < 32 by decide) (.inr (.inr (show 30 < 31 by decide))),
    rd_wr_same _ _ le_rfl (show 31 < 32 by decide)]
  cases a <;> rfl

theorem encLevels_tb : (s.encLevels k a b e).tb = s.tb := by
  rw [encLevels, wrIf_tb, wrIf_tb, setEnc_tb]

theorem encLevels_mem : (s.encLevels k a b e).fab.mem = s.fab.mem := by
  rw [encLevels, wrIf_fab, Fabric.wr_mem, wrIf_fab, Fabric.wr_mem, setEnc_fab]

theorem encLevels_out : (s.encLevels k a b e).fab.out = s.fab.out := by
  rw [encLevels, wrIf_fab, Fabric.wr_out, wrIf_fab, Fabric.wr_out, setEnc_fab]

/-- A disabled encoder takes the levels, and counts nothing (R371). -/
theorem countEdge_of_disabled {s u : State} (hu : s.runTo (65536 * sample) = u) (hoff : u.rd (EN_CTRL_ENABLE k) = 0) :
    ∃ e, s.countEdge k a b sample = u.encLevels k a b e := by
  have hctrl : EN_CTRL k ≠ EN_STATUS k := by unfold EN_CTRL EN_STATUS; omega
  have hedge : ∃ e, s.encEdge k a b sample = (u.encLevels k a b e, []) := by
    unfold encEdge
    simp only [hu]
    exact ⟨_, if_pos ((encLevels_rd k a b _ u hctrl).trans hoff)⟩
  refine hedge.imp fun e he => ?_
  rw [countEdge, he]
  exact linesFire_nil k sample _

/-- Both levels taken, at the sample that changed both. -/
def encBoth : State := s.encLevels k a b { s.enc k with aAt := some sample, bAt := some sample }

/-- A change of both lines comes to what the decode makes of it. -/
theorem countEdge_of_both {k : Nat} {a b : Bool} {sample : Time} {s u : State} (hu : s.runTo (65536 * sample) = u)
    (ha : (u.rd (EN_STATUS_A k) == 1) = !a) (hb : (u.rd (EN_STATUS_B k) == 1) = !b) (hon : u.rd (EN_CTRL_ENABLE k) ≠ 0)
    (hmode : u.rd (EN_CTRL_DECODE k) < 3) :
    s.countEdge k a b sample = (encDecoded k none false sample (u.encBoth k a b sample)).1 := by
  have hctrl : EN_CTRL k ≠ EN_STATUS k := by unfold EN_CTRL EN_STATUS; omega
  have hon' : (u.encBoth k a b sample).rd (EN_CTRL_ENABLE k) ≠ 0 := (encLevels_rd k a b _ u hctrl).trans_ne hon
  have hmode' : (u.encBoth k a b sample).rd (EN_CTRL_DECODE k) < 3 := (encLevels_rd k a b _ u hctrl).trans_lt hmode
  have hedge : s.encEdge k a b sample = encDecoded k none false sample (u.encBoth k a b sample) := by
    unfold encEdge
    simp only [hu, ha, hb, Bool.not_bne_self, if_true, Bool.and_true, Bool.not_true, Bool.and_false]
    refine (if_neg hon').trans ?_
    rw [← decodeEdge_of_both ((u.encBoth k a b sample).rd (EN_CTRL_INVERT_DIR k) == 1) a b hmode']
    rfl
  rw [countEdge, hedge]
  exact linesFire_nil k sample _

end
end State

namespace State

/-- A wide value reads the same where its words do. -/
theorem rdWide_congr {s t : State} {key n : Nat} (h : ∀ i < n, s.rw (key + 4 * i) = t.rw (key + 4 * i)) :
    s.rdWide key n = t.rdWide key n := by
  show s.fab.rdWide key n = t.fab.rdWide key n
  induction n with
  | zero => rfl
  | succ n ih =>
    rw [Fabric.rdWide, Fabric.rdWide, ih fun i hi => h i (Nat.lt_succ_of_lt hi)]
    exact congrArg (fun w : Word => _ + w.toNat * _) (h n n.lt_succ_self)

section
variable (k : Nat) (s : State)

/-- An illegal transition counted and shown. -/
def illShown : State := (s.tally (EN_ILL_TALLY_COUNT k)).wr (EN_STATUS_ILL k) 1

theorem illShown_rw {key : Nat} (ht : key ≠ EN_ILL_TALLY k) (hst : key ≠ EN_STATUS k) :
    (s.illShown k).rw key = s.rw key := (rw_wr_other _ _ hst).trans (rw_wr_other _ _ ht)

theorem illShown_tally : (s.illShown k).rd (EN_ILL_TALLY_COUNT k) = min (s.rd (EN_ILL_TALLY_COUNT k) + 1) (2 ^ 32 - 1) := by
  have hkey : EN_ILL_TALLY k ≠ EN_STATUS k := by unfold EN_ILL_TALLY EN_STATUS; omega
  unfold illShown
  rw [rd_wr_other _ _ le_rfl (show 12 < 32 by decide) (.inl hkey)]
  exact Fabric.rd_tally_same s.fab 1 (Nat.zero_le 31) (show 31 < 32 by decide)

theorem illShown_ill : (s.illShown k).rd (EN_STATUS_ILL k) = 1 := by
  unfold illShown
  rw [rd_wr_same _ _ le_rfl (show 12 < 32 by decide)]
  rfl

/-- The levels stand. -/
theorem illShown_level {bit : Nat} (h : 12 < bit) : (s.illShown k).rd ⟨EN_STATUS k, bit, bit⟩ = s.rd ⟨EN_STATUS k, bit, bit⟩ := by
  have hkey : EN_STATUS k ≠ EN_ILL_TALLY k := by unfold EN_ILL_TALLY EN_STATUS; omega
  exact (rd_wr_other _ _ le_rfl (show 12 < 32 by decide) (.inr (.inr h))).trans (rd_wr_other _ _ (Nat.zero_le 31) (show 31 < 32 by decide) (.inl hkey))

end
end State

/-- Settles O46: the decode of both lines names no count, and each write leaves the fields beside its own. -/
theorem illegalTransitions : Obligations.IllegalTransitions := by
  intro k a b sample s u v w ⟨ha, hb, hon, hmode⟩
  have hpos (i : Nat) (hi : i < 2) : EN_POS k + 4 * i ≠ EN_STATUS k ∧ EN_POS k + 4 * i ≠ EN_ILL_TALLY k := by
    unfold EN_POS EN_STATUS EN_ILL_TALLY
    omega
  have htally : EN_ILL_TALLY k ≠ EN_STATUS k := by unfold EN_ILL_TALLY EN_STATUS; omega
  refine ⟨congrArg Host.Outcome.next (State.countEdge_of_both rfl ha hb hon hmode), ?position, ?tally, v.illShown_ill k,
    ?levelA, ?levelB⟩
  case position =>
    refine State.rdWide_congr fun i hi => ?_
    obtain ⟨hst, ht⟩ := hpos i hi
    exact (v.illShown_rw k ht hst).trans (u.encLevels_rw k a b _ hst)
  case tally =>
    rw [← u.encLevels_rd k a b _ htally]
    exact v.illShown_tally k
  case levelA => exact (v.illShown_level k (bit := 31) (by decide)).trans (u.encLevels_a k a b _)
  case levelB => exact (v.illShown_level k (bit := 30) (by decide)).trans (u.encLevels_b k a b _)

end Sys2Proof.Machine

/-! SUPPORT. The commands and lines of an encoder (R374–R379, R381, R385, R386, R394). -/
namespace Sys2Proof.Machine

namespace State

/-- A level of Z that is no rise, or rises on a disabled encoder, only shows. -/
theorem encIndex_of_quiet {k : Nat} {z : Bool} {sample : Time} {s u : State} (hu : s.runTo (65536 * sample) = u)
    (h : z = false ∨ u.rd (EN_STATUS_Z k) = 1 ∨ (u.wrIf (EN_STATUS_Z k) z).rd (EN_CTRL_ENABLE k) = 0) :
    s.encIndex k z sample = u.wrIf (EN_STATUS_Z k) z := by
  unfold encIndex
  simp only [hu]
  refine if_neg fun ⟨hon, hrise, hwas, _⟩ => ?_
  rcases h with h | h | h
  · exact absurd hrise (h ▸ Bool.false_ne_true)
  · exact hwas (beq_iff_eq.2 h)
  · exact absurd (h.symm.trans hon) (by decide)

/-- A Hall state by whether it shows and by whether it is one of the six that a motor has (R379). -/
theorem encHall_of_run {k state : Nat} {sample : Time} {s u : State} (hu : s.runTo (65536 * sample) = u) :
    s.encHall k state sample = if 2 ≤ k ∨ u.rd (EN_CTRL_HALL_EN k) = 0 ∨ u.rd (EN_STATUS_HALL k) = state then u
      else if state = 0 ∨ state = 7 then
        (((((u.wr (EN_STATUS_HALL k) state).tally (EN_HALL_ILL_TALLY_COUNT k)).wr (EN_STATUS_HALL_ILL k) 1).raiseAt
          (680 + 12 * k + 8) state ((u.wr (EN_STATUS_HALL k) state).encStamp k sample)))
      else u.wr (EN_STATUS_HALL k) state := by
  unfold encHall
  simp only [hu]
  rfl

end State

/-- Settles O47: a disabled encoder's edge, then each command by its own test. -/
theorem encoderCommands : Obligations.EncoderCommands := by
  intro k signal state a b z on sample w s u t x
  refine ⟨fun hoff => ?edge, rfl, rfl, rfl, rfl, ⟨fun hin => ?refused, fun hout => ?stored⟩, rfl, fun hquiet => ?index,
    ⟨fun hsame => ?faultStays, fun ⟨hne, hhas⟩ => ?fault⟩, ?hall, fun hoff => ?stillOff, fun hon => ?still, rfl⟩
  case edge =>
    obtain ⟨e, he⟩ := State.countEdge_of_disabled k a b sample (s := s) rfl hoff
    refine ⟨_, congrArg Host.Outcome.next he, u.encLevels_a k a b e, u.encLevels_b k a b e, ?_,
      u.encLevels_tb k a b e, u.encLevels_mem k a b e, u.encLevels_out k a b e⟩
    refine State.rdWide_congr fun i hi => u.encLevels_rw k a b e ?_
    unfold EN_POS EN_STATUS
    omega
  case refused => exact congrArg Host.Outcome.next (if_pos hin)
  case stored => exact congrArg Host.Outcome.next (if_neg hout)
  case index => exact congrArg Host.Outcome.next (State.encIndex_of_quiet rfl hquiet)
  case faultStays => exact congrArg Host.Outcome.next (if_pos hsame)
  case fault => exact congrArg Host.Outcome.next (if_neg (not_or.2 ⟨hne, hhas⟩))
  case hall =>
    have hrun := State.encHall_of_run (k := k) (state := state) (sample := sample) (s := s) (u := u) rfl
    refine ⟨fun hno => ?_, fun ⟨⟨hk, hen, hne⟩, h0, h7⟩ => ?_, fun ⟨⟨hk, hen, hne⟩, hill⟩ => ?_⟩ <;>
      refine congrArg Host.Outcome.next (hrun.trans ?_)
    · exact if_pos (by omega)
    · rw [if_neg (by omega), if_neg (by omega)]
    · rw [if_neg (by omega), if_pos hill]
  case stillOff => exact congrArg Host.Outcome.next (if_pos hoff)
  case still => exact congrArg Host.Outcome.next (if_neg hon)

end Sys2Proof.Machine

/-! SUPPORT. Requests and transfers of an absolute channel (R388–R391, log entry 24). -/
namespace Sys2Proof.Machine
namespace State

section
variable {j : Nat} {at_ : Time} {s : State}

theorem absRequest_of_disabled (h : s.rd (SA_CFG_ENABLE j) = 0) : s.absRequest j at_ = s := if_pos h

/-- A request while a transfer of another instant runs is a miss. -/
theorem absRequest_of_running {r : Time × Time × Int} (hon : s.rd (SA_CFG_ENABLE j) ≠ 0) (hrun : (s.absChan j).run = some r)
    (hne : r.1 ≠ at_) : s.absRequest j at_ = absErr j (s.tally (SA_MISS_TALLY_COUNT j)) := by
  unfold absRequest
  simp only [hrun]
  rw [if_neg hon, if_neg hne]

/-- Else a request goes by the data line's level. -/
theorem absRequest_of_idle (hon : s.rd (SA_CFG_ENABLE j) ≠ 0) (hrun : (s.absChan j).run = none) :
    s.absRequest j at_ = if (s.absChan j).low then absErr j (s.wr (SA_STATUS_NOT_READY j) 1)
      else (s.draw.2.setAbs j { s.absChan j with run := some (at_, at_ + (Config.absStart s.draw.1).val,
        s.encPos (s.rd (SA_PAIR_ENC j))) }).wr (SA_STATUS_BUSY j) 1 := by
  unfold absRequest
  simp only [hrun]
  rw [if_neg hon]

end

/-- A channel's transfer gone, and the line as it was left (R390). -/
def absEnded (j : Nat) (high : Bool) (s : State) : State :=
  (s.setAbs j { s.absChan j with run := none, low := !high }).wr (SA_STATUS_BUSY j) 0

/-- The parity bit received is wrong (R388). -/
def absBad (j word : Nat) (parity : Bool) (s : State) : Prop :=
  let odd := (ones (s.rd (SA_CFG_BITS j)) (word % 2 ^ s.rd (SA_CFG_BITS j)) + if parity then 1 else 0) % 2
  (s.rd (SA_CFG_PARITY j) = 1 ∧ odd = 1) ∨ (s.rd (SA_CFG_PARITY j) = 2 ∧ odd = 0)

/-- The position received (R388). -/
def absValue (j word : Nat) (s : State) : Nat :=
  let raw := word % 2 ^ s.rd (SA_CFG_BITS j)
  if s.rd (SA_CFG_GRAY j) = 1 then ungray (s.rd (SA_CFG_BITS j)) raw else raw

/-- A good transfer's position, its instant and VALID (R390). -/
def absShown (j value : Nat) (sample : Time) (s : State) : State :=
  ((s.wrWide (SA_POS j) 2 value).wrTime (SA_TIME j) sample).wr (SA_STATUS_VALID j) 1

section
variable {j word : Nat} {parity high : Bool} {s u : State}

theorem absDone_of_none (hu : absWaiting j s = u) (h : (u.absChan j).run = none) :
    s.absDone j word parity high = u := by
  unfold absDone
  simp only [hu, h]

theorem absDone_of_bad {r : Time × Time × Int} (hu : absWaiting j s = u) (h : (u.absChan j).run = some r)
    (hbad : u.absBad j word parity) : s.absDone j word parity true
      = absErr j (((u.absEnded j true).wr (SA_STATUS_PARITY_ERR j) 1).tally (SA_ERR_TALLY_COUNT j)) := by
  unfold absDone
  simp only [hu, h]
  exact (if_pos (.inl hbad)).trans
    (congrArg (fun t : State => absErr j (t.tally (SA_ERR_TALLY_COUNT j))) ((if_pos trivial).trans (if_pos hbad)))

theorem absDone_of_low {r : Time × Time × Int} (hu : absWaiting j s = u) (h : (u.absChan j).run = some r)
    (hgood : ¬ u.absBad j word parity) : s.absDone j word parity false
      = absErr j (((u.absEnded j false).wr (SA_STATUS_MONO_ERR j) 1).tally (SA_ERR_TALLY_COUNT j)) := by
  unfold absDone
  simp only [hu, h]
  exact (if_pos (.inr Bool.false_ne_true)).trans (congrArg (fun t : State => absErr j (t.tally (SA_ERR_TALLY_COUNT j)))
    ((if_neg Bool.false_ne_true).trans (congrArg (fun t : State => t.wr (SA_STATUS_MONO_ERR j) 1) (if_neg hgood))))

theorem absDone_of_good {asked sample : Time} {count : Int} (hu : absWaiting j s = u)
    (h : (u.absChan j).run = some (asked, sample, count)) (hgood : ¬ u.absBad j word parity)
    (hpair : ((u.absEnded j true).absShown j (u.absValue j word) sample).rd (SA_PAIR_PAIR_EN j) ≠ 1) :
    let y := (u.absEnded j true).absShown j (u.absValue j word) sample
    s.absDone j word parity true = ((y.setAbs j { y.absChan j with done := true }).tally (SA_GOOD_TALLY_COUNT j)).raise
      (680 + 12 * j + 10) (u.absValue j word % 2 ^ 32) := by
  unfold absDone
  simp only [hu, h]
  exact (if_neg (not_or.2 ⟨hgood, not_not.2 trivial⟩)).trans (congrArg (fun t : State => ((t.setAbs j
    { t.absChan j with done := true }).tally (SA_GOOD_TALLY_COUNT j)).raise (680 + 12 * j + 10) (u.absValue j word % 2 ^ 32))
    (if_neg hpair))

end
end State

/-- Settles O48: a request by the channel's enable, its transfer and its line, a transfer's end by what it received. -/
theorem absolutePositions : Obligations.AbsolutePositions := by
  intro j word line parity high s u run
  refine ⟨fun hoff => ?off, fun hon r ⟨hrun, hne⟩ => ?miss, fun ⟨hon, hrun, hlow⟩ => ?notReady,
    fun ⟨hon, hrun, hlow⟩ => ?start, fun hnone => ?none, fun asked sample count hrun => ?ended⟩
  case off => exact congrArg Host.Outcome.next (State.absRequest_of_disabled hoff)
  case miss => exact congrArg Host.Outcome.next (State.absRequest_of_running hon hrun hne)
  case notReady => exact congrArg Host.Outcome.next ((State.absRequest_of_idle hon hrun).trans (if_pos hlow))
  case start =>
    exact congrArg Host.Outcome.next ((State.absRequest_of_idle hon hrun).trans (if_neg (ne_true_of_eq_false hlow)))
  case none => exact congrArg Host.Outcome.next (State.absDone_of_none rfl hnone)
  case ended =>
    refine ⟨fun ⟨hbad, hhigh⟩ => ?_, fun ⟨hgood, hhigh⟩ => ?_, fun ⟨hgood, hhigh, hpair⟩ => ?_⟩ <;> subst hhigh
    · exact congrArg Host.Outcome.next (State.absDone_of_bad rfl hrun hbad)
    · exact congrArg Host.Outcome.next (State.absDone_of_low rfl hrun hgood)
    · exact congrArg Host.Outcome.next (State.absDone_of_good rfl hrun hgood hpair)

end Sys2Proof.Machine

/-! SUPPORT. Software triggers, channel pulses, edges and in-band blocks (R396, R397, R400–R402, R408). -/
namespace Sys2Proof.Machine
namespace State

/-- What a source's pulse puts into a channel's inbox: for source A, then for source B. -/
def pulsesFor (s : State) (n kind index port : Nat) (rising : Bool) (cause arrival : Nat) : List (Nat × Bool × Nat) :=
  (if s.srcNames n false kind index port rising then [(arrival, false, cause)] else [])
    ++ (if s.srcNames n true kind index port rising then [(arrival, true, cause)] else [])

/-- One channel takes a pulse of a source. -/
def takePulse (n kind index port : Nat) (rising : Bool) (cause arrival : Nat) (s : State) : State :=
  s.setTrig n { s.trig n with inbox := (s.trig n).inbox ++ s.pulsesFor n kind index port rising cause arrival }

section
variable (kind index port : Nat) (rising : Bool) (cause arrival : Nat)

theorem srcPulseTo_cons (n : Nat) (l : List Nat) (s : State) :
    srcPulseTo (n :: l) kind index port rising cause arrival s
      = srcPulseTo l kind index port rising cause arrival (s.takePulse n kind index port rising cause arrival) := by
  unfold srcPulseTo takePulse pulsesFor updTrig
  rw [List.foldl_cons]
  congr 2
  cases ha : s.srcNames n false kind index port rising <;> cases hb : s.srcNames n true kind index port rising <;>
    simp [ha, hb]

/-- A pulse reaches each channel of the list once, and changes nothing but its inbox. -/
theorem srcPulseTo_spec (l : List Nat) (hl : l.Nodup) (s : State) :
    (srcPulseTo l kind index port rising cause arrival s).fab = s.fab
      ∧ (srcPulseTo l kind index port rising cause arrival s).tb = s.tb
      ∧ ∀ m, (srcPulseTo l kind index port rising cause arrival s).trig m = if m ∈ l then
        { s.trig m with inbox := (s.trig m).inbox ++ s.pulsesFor m kind index port rising cause arrival } else s.trig m := by
  induction l generalizing s with
  | nil => exact ⟨rfl, rfl, fun m => rfl⟩
  | cons n l ih =>
    obtain ⟨hnot, hrest⟩ := List.nodup_cons.1 hl
    rw [srcPulseTo_cons]
    obtain ⟨hfab, htb, htrig⟩ := ih hrest (s.takePulse n kind index port rising cause arrival)
    refine ⟨hfab, htb, fun m => (htrig m).trans ?_⟩
    by_cases hm : m = n
    · subst hm
      rw [if_neg hnot, if_pos List.mem_cons_self]
      exact trig_setTrig_same ..
    · have hother : (s.takePulse n kind index port rising cause arrival).trig m = s.trig m := trig_setTrig_other _ _ hm
      rw [hother]
      simp only [List.mem_cons, hm, false_or]
      rfl

end

/-- A software trigger reaches the channels of its mask (R396). -/
theorem softwareTrigger_trig (mask : Nat) (s : State) (m : Nat) :
    (s.softwareTrigger mask).trig m = if m < 24 ∧ mask.testBit m = true then
      { s.trig m with inbox := (s.trig m).inbox ++ s.pulsesFor m 4 0 0 true s.now s.tb.dev } else s.trig m := by
  obtain ⟨-, -, htrig⟩ := srcPulseTo_spec 4 0 0 true s.now s.tb.dev ((List.range 24).filter mask.testBit)
    (List.nodup_range.filter _) s
  rw [softwareTrigger, htrig m]
  simp only [List.mem_filter, List.mem_range]

section
variable {n : Nat} {s u : State} {x : Nat × Bool × Nat} {r : List (Nat × Bool × Nat)}

/-- The channel as its next pulses have arrived. -/
def pulsesTaken (n : Nat) (u : State) : State :=
  trigPromote n (u.updTrig n fun t => { t with inbox := t.inbox.filter fun y => u.tb.dev < y.1 })

theorem combine_of_empty (h : (s.trig n).inbox = []) : s.combine n = s := by
  unfold combine
  rw [h]

theorem combine_of_stopped (h : (s.trig n).inbox = x :: r) (hu : s.runTo (r.foldl (fun a y => min a y.1) x.1) = u)
    (hstop : (u.pulsesTaken n).rd (TR_CTRL_ENABLE n) = 0 ∨ (u.pulsesTaken n).sequencerHeld = true) :
    s.combine n = u.pulsesTaken n := by
  unfold combine
  rw [h]
  simp only [hu]
  exact if_pos hstop

/-- COMBINE 0: source A alone makes the channel's pulses (R397). -/
theorem combine_of_single (h : (s.trig n).inbox = x :: r) (hu : s.runTo (r.foldl (fun a y => min a y.1) x.1) = u)
    (hgo : ¬ ((u.pulsesTaken n).rd (TR_CTRL_ENABLE n) = 0 ∨ (u.pulsesTaken n).sequencerHeld = true))
    (hmode : (u.pulsesTaken n).rd (TR_CTRL_COMBINE n) = 0) :
    s.combine n = ((((x :: r).filter fun y => y.1 ≤ u.tb.dev).filter fun y => y.2.1 == false).map fun y => y.2.2).foldl
      (fun s c => channelPulse n c s) (u.pulsesTaken n) := by
  unfold combine
  rw [h]
  simp only [hu]
  exact (if_neg hgo).trans (if_pos hmode)

theorem emitEdge_of_none {route : Nat} (h : s.nextEdge n route = none) : s.emitEdge n route = s := by
  unfold emitEdge
  rw [h]

theorem inbandSend_of_none {P : Nat} (h : (s.port P).held.find? (fun x => !x.long) = none) : s.inbandSend P = s := by
  unfold inbandSend
  rw [h]

end
end State

/-- Settles O49: a trigger by its mask, a pulse by the inbox and the channel, an edge by its route, a block by its delay,
and an input by its level. -/
theorem triggerEdges : Obligations.TriggerEdges := by
  intro n mask route P level first s
  refine ⟨⟨s.softwareTrigger mask, rfl, ?fab, ?tb, ?trig⟩, fun hempty => ?noPulse, fun x r hx hstop => ?stopped,
    fun x r hx ⟨hon, hfree, hmode⟩ => ?pulse, fun hnone => ?noEdge, fun id e he => ?edge, fun hnone => ?noBlock,
    fun x hx => ?block, fun hsame => ?sameLevel, fun hnew => ?input⟩
  case fab => exact (State.srcPulseTo_spec 4 0 0 true s.now s.tb.dev _ (List.nodup_range.filter _) s).1
  case tb => exact (State.srcPulseTo_spec 4 0 0 true s.now s.tb.dev _ (List.nodup_range.filter _) s).2.1
  case trig =>
    intro m
    rw [State.softwareTrigger_trig, State.pulsesFor, List.append_assoc]
  case noPulse => exact congrArg Host.Outcome.next (State.combine_of_empty hempty)
  case stopped => exact congrArg Host.Outcome.next (State.combine_of_stopped hx rfl hstop)
  case pulse =>
    exact congrArg Host.Outcome.next (State.combine_of_single hx rfl (not_or.2 ⟨hon, Bool.eq_false_iff.1 hfree⟩) hmode)
  case noEdge => exact congrArg Host.Outcome.next (State.emitEdge_of_none hnone)
  case edge =>
    show Host.Outcome.next (s.emitEdge n route) = _
    unfold State.emitEdge
    rw [he]
    rfl
  case noBlock => exact congrArg Host.Outcome.next (State.inbandSend_of_none hnone)
  case block =>
    intro next delay
    refine ⟨fun hlong => ?_, fun hfits => ?_⟩ <;> refine congrArg Host.Outcome.next ?_ <;> unfold State.inbandSend <;> rw [hx]
    · exact if_pos hlong
    · exact if_neg (not_lt.2 hfits)
  case sameLevel => exact congrArg Host.Outcome.next (if_pos hsame)
  case input =>
    have hne : ¬ (s.rd (TI_STATUS_LEVEL n) == 1) = level := by rw [hnew]; exact Bool.not_ne_self level
    exact congrArg Host.Outcome.next (if_neg hne)

end Sys2Proof.Machine

/-! SUPPORT. Commits of an exposure bank and the camera's exposure writes (R405–R407, R412, R414). -/
namespace Sys2Proof.Machine

/-- A fold of operations that leave a part leaves it. -/
theorem foldl_part_stands {σ α β : Type} (part : σ → β) {g : σ → α → σ} (hg : ∀ s a, part (g s a) = part s) (l : List α)
    (s : σ) : part (l.foldl g s) = part s := by
  induction l generalizing s with
  | nil => rfl
  | cons a l ih => rw [List.foldl_cons, ih, hg]

namespace State

section
variable {n : Nat} {s : State}

/-- A request takes its code; one that fails raises the channel's event, one that passes waits (R405). -/
theorem trigReq_eq : s.trigReq n =
    let u := s.wr (TR_COMMIT_REJECT n) (trigCheck (s.trigBank n 0))
    if trigCheck (s.trigBank n 0) ≠ 0 then u.raise (728 + n) 5
    else (u.updTrig n fun t => { t with commit := if u.rd (TR_CTRL_COMMIT_MODE n) = 1 then TrigCommit.sof else .tick (u.bw.count + 1) }).wr
      (TR_COMMIT_PENDING n) 1 := rfl

/-- The half before gives way without touching time or the queue. -/
theorem trigPromote_rest : (trigPromote n s).tb = s.tb ∧ (trigPromote n s).pending = s.pending := by
  unfold trigPromote
  split
  · exact ⟨rfl, rfl⟩
  · split
    · exact ⟨rfl, rfl⟩
    · exact ⟨rfl, rfl⟩

theorem trigApply_of_not_ready (h : ((trigPromote n s).trig n).commit ≠ .ready) : s.trigApply n = trigPromote n s := if_pos h

/-- The shadow half copied to the active one. -/
def bankCopied (n : Nat) (s : State) : State :=
  (List.range 8).foldl (fun s k => s.ww (TR_DELAY_LO n 1 + 4 * k) (s.rw (TR_DELAY_LO n 0 + 4 * k))) s

theorem bankCopied_tb : (s.bankCopied n).tb = s.tb := by
  refine foldl_part_stands State.tb ?_ _ _
  exact fun _ _ => rfl

theorem bankCopied_pending : (s.bankCopied n).pending = s.pending := by
  refine foldl_part_stands State.pending ?_ _ _
  exact fun _ _ => rfl

/-- A channel changed, and its event raised: its own part is the change, time and the queue stand. -/
theorem trigEv_updTrig (detail : Nat) (g : Trig → Trig) : (trigEv n detail (s.updTrig n g)).trig n = g (s.trig n)
    ∧ (trigEv n detail (s.updTrig n g)).tb = s.tb ∧ (trigEv n detail (s.updTrig n g)).pending = s.pending :=
  ⟨trig_setTrig_same .., rfl, rfl⟩

/-- A ready bank becomes active: no commit waits any more, and time and the queue stand. -/
theorem trigApply_of_ready (h : ((trigPromote n s).trig n).commit = .ready) :
    ((s.trigApply n).trig n).commit = .idle ∧ (s.trigApply n).tb = s.tb ∧ (s.trigApply n).pending = s.pending := by
  obtain ⟨htb, hpending⟩ := trigPromote_rest (n := n) (s := s)
  have hshape : ∃ (u : State) (g : Trig → Trig), s.trigApply n = trigEv n 4 (u.updTrig n g) ∧ (∀ t, (g t).commit = .idle)
      ∧ u.tb = (bankCopied n (trigPromote n s)).tb ∧ u.pending = (bankCopied n (trigPromote n s)).pending :=
    ⟨_, _, if_neg (not_not.2 h), fun _ => rfl, by rw [wr_tb, wr_tb]; rfl, by rw [wr_pending, wr_pending]; rfl⟩
  obtain ⟨u, g, happly, hidle, hutb, hupending⟩ := hshape
  obtain ⟨htrig, hevtb, hevpending⟩ := trigEv_updTrig (n := n) (s := u) 4 g
  rw [happly, htrig, hevtb, hevpending, hutb, hupending, bankCopied_tb, bankCopied_pending]
  exact ⟨hidle _, htb, hpending⟩

theorem exposureWrite_of_none (h : (s.trig n).camDue = []) : s.exposureWrite n = s := by
  simp only [exposureWrite, h]

/-- The exposure write that a channel has due, its control work done. -/
theorem exposureWrite_of_due {width gen : Nat} {rest : List (Nat × Nat × Bool)}
    (h : (s.trig n).camDue = (width, gen, true) :: rest) :
    s.exposureWrite n =
      let v := s.updTrig n fun t => { t with camDue := rest }
      let P := v.rd (TR_INBAND_PORT n)
      let r : CtrlRequest := { tag := 0, write := true, addr := v.rdWide (TR_CAM_EXP_ADDR n) 2, len := 4, kind := 1, who := n,
                               gen := gen, bytes := leBytes 4 (camWidth width (v.rd (TR_CAM_EXP_SCALE_PICOSECONDS n))) }
      let w := addRequest P r v
      if (!v.inbandActive n) = true then camFail n v
      else if w.standardOf P = 3 ∧ (w.port P).egen then addRequest P { r with addr := 0x40, bytes := leBytes 4 gen } w
      else w := by
  simp only [exposureWrite, h]
  rfl

end
end State

/-- Settles O50: a request by who asks and by its code, an application by whether a commit is ready, a camera's write by its
route. -/
theorem exposureBanks : Obligations.ExposureBanks := by
  intro fn n s code u
  refine ⟨fun hno => ⟨?_, ?_⟩, fun ⟨hmay, hbad⟩ => ?rejected, fun ⟨hmay, hgood, hsof⟩ => ?sof,
    fun ⟨hmay, hgood, htick⟩ => ?tick, fun hmay => ?cancelled, fun hidle => ?idle, fun hready => ?applied, fun hnone => ?none,
    fun width gen rest hdue => ⟨fun hoff => ?failed, fun ⟨hactive, hstd⟩ => ?written⟩⟩
  · exact congrArg Host.Outcome.next (if_neg (ne_true_of_eq_false hno))
  · exact congrArg Host.Outcome.next (if_neg (ne_true_of_eq_false hno))
  case rejected => exact congrArg Host.Outcome.next ((if_pos hmay).trans (State.trigReq_eq.trans (if_pos hbad)))
  case sof =>
    refine congrArg Host.Outcome.next ((if_pos hmay).trans (State.trigReq_eq.trans ((if_neg (not_not.2 hgood)).trans ?_)))
    rw [if_pos hsof]
  case tick =>
    refine congrArg Host.Outcome.next ((if_pos hmay).trans (State.trigReq_eq.trans ((if_neg (not_not.2 hgood)).trans ?_)))
    rw [if_neg htick]
  case cancelled => exact congrArg Host.Outcome.next (if_pos hmay)
  case idle => exact congrArg Host.Outcome.next (State.trigApply_of_not_ready hidle)
  case applied => exact ⟨_, rfl, State.trigApply_of_ready hready⟩
  case none => exact congrArg Host.Outcome.next (State.exposureWrite_of_none hnone)
  case failed => exact congrArg Host.Outcome.next ((State.exposureWrite_of_due hdue).trans (if_pos (by rw [hoff]; rfl)))
  case written =>
    refine ⟨_, rfl, rfl, rfl, rfl, rfl, rfl, rfl, fun hother => congrArg Host.Outcome.next
      ((State.exposureWrite_of_due hdue).trans ((if_neg (by rw [hactive]; decide)).trans (if_neg fun ⟨hthree, _⟩ => hother hthree)))⟩

end Sys2Proof.Machine

/-! SUPPORT. Conversions, from their starts to their samples, and sample words (R416–R421, R428). -/
namespace Sys2Proof.Machine
namespace State

/-- A conversion would follow the last too closely, or meet a range that settles (R417). -/
def convClose (x : AiChan) (inst : Time) : Bool :=
  (match x.last with
    | none => false
    | some t => decide (inst < t + gridUnits)) ||
  (match x.settle with
    | none => false
    | some t => decide (inst < t))

theorem convClose_iff {x : AiChan} {inst : Time} : convClose x inst = true
    ↔ (∃ t, x.last = some t ∧ inst < t + gridUnits) ∨ (∃ t, x.settle = some t ∧ inst < t) := by
  unfold convClose
  cases x.last <;> cases x.settle <;> simp

section
variable {c : Nat} {s u : State}

theorem conversionStart_of_none (h : (s.ai c).starts = []) : s.conversionStart c = s := by
  unfold conversionStart
  rw [h]

/-- The start at its clock, by what stands in its way (R416, R417, R428). -/
theorem conversionStart_of_start {t0 : Nat} {r : List Nat} {k : State × Nat} {inst : Time} (h : (s.ai c).starts = t0 :: r)
    (hk : clockAt (r.foldl min t0) s = k) (hu : k.1.updAi c (fun x => { x with starts := x.starts.filter fun t => k.2 < t }) = u)
    (hinst : ((k.2 / 65536 : Nat) + u.apertureSkew c).toNat = inst) :
    s.conversionStart c = if u.rd (AI_CTRL_ENABLE c) = 0 then u
      else if u.reserveUsed c inst then (u.tally (AI_RESERVE_TALLY_COUNT c)).setAi c { u.ai c with lost := true }
      else if convClose (u.ai c) inst then
        aiEv c 0 inst ((u.tally (AI_MISS_TALLY_COUNT c)).setAi c { u.ai c with lost := true })
      else u.setAi c { u.ai c with
        last := some inst
        convs := (u.ai c).convs ++ [⟨inst, u.rd (AI_CTRL_RANGE c), (u.coefficients c (u.rd (AI_CTRL_RANGE c))).1,
          (u.coefficients c (u.rd (AI_CTRL_RANGE c))).2, (u.ai c).gen⟩] } := by
  subst hk hu hinst
  unfold conversionStart
  rw [h]
  rfl

theorem sampleReady_of_done {raw : Nat} {r : State × List (Bool × Time)} (h : conversionDone c (signed 18 raw) s = r) :
    s.sampleReady c raw = r.2.foldl (fun (s : State) x => sourceFreeze 3 c x.1 x.2 s) r.1 := by
  subst h
  rfl

theorem conversionDone_of_none {x : Int} (h : (s.ai c).convs = []) : s.conversionDone c x = (s, []) := by
  unfold conversionDone
  rw [h]

theorem conversionDone_of_disabled {x : Int} {v : Conversion} {r : List Conversion} (h : (s.ai c).convs = v :: r)
    (hoff : (s.updAi c fun a => { a with convs := r }).rd (AI_CTRL_ENABLE c) = 0) :
    s.conversionDone c x = (s.updAi c fun a => { a with convs := r }, []) := by
  unfold conversionDone
  rw [h]
  exact if_pos hoff

/-- A sample within the range shows, joins its word and passes the threshold unit (R418, R419, R421). -/
theorem conversionDone_of_inside {x : Int} {v : Conversion} {r : List Conversion} (h : (s.ai c).convs = v :: r)
    (hon : (s.updAi c fun a => { a with convs := r }).rd (AI_CTRL_ENABLE c) ≠ 0)
    (hin : ¬ (x = -131072 ∨ x = 131071 ∨ (calibrated v.offset v.gain x).2 = true)) :
    s.conversionDone c x =
      let y := (calibrated v.offset v.gain x).1
      let a := (s.updAi c fun a => { a with convs := r }).tally (AI_CONV_TALLY_COUNT c)
      let b := (((a.wr (AI_LAST_OVR c) 0).wr (AI_LAST_VALUE c) (toSigned 18 y)).wrTime (AI_LAST_TIME c) v.at_).updAi c
        fun a => { a with fresh := a.fresh ++ [⟨v.at_, y⟩] }
      thresholds c ⟨v.at_, y⟩ (wordAdd c v y false b) := by
  unfold conversionDone
  rw [h]
  refine (if_neg hon).trans ?_
  simp only [if_neg hin, decide_eq_false hin]
  rfl

theorem closeWord_of_none (h : (s.ai c).word = none) : s.closeWord c = s := by
  unfold closeWord
  rw [h]

/-- A word that closes is admitted to its pen, or dropped (R419). -/
theorem closeWord_of_some {w : SampleWord} {r : Bool × State} (h : (s.ai c).word = some w)
    (hr : (s.updAi c fun x => { x with word := none }).penAdmit w.pen (wordBytes c w) = r) :
    s.closeWord c = if r.1 then r.2
      else aiEv c 1 r.2.now ((r.2.tally (AI_DROP_TALLY_COUNT c)).updAi c fun x => { x with lost := true }) := by
  subst hr
  unfold closeWord
  rw [h]

end
end State

/-- Settles O51: a start by what stands in its way, a conversion's end by the one under way, a word by its pen. -/
theorem conversions : Obligations.Conversions := by
  intro c raw s
  refine ⟨fun hoff => congrArg Host.Outcome.next (if_pos hoff), fun hon => congrArg Host.Outcome.next (if_neg hon),
    fun hnone => congrArg Host.Outcome.next (State.conversionStart_of_none hnone), fun t0 r h => ?start,
    fun hnone => congrArg Host.Outcome.next (State.sampleReady_of_done (State.conversionDone_of_none hnone)),
    fun v r ⟨h, hoff⟩ => congrArg Host.Outcome.next (State.sampleReady_of_done (State.conversionDone_of_disabled h hoff)),
    fun v r ⟨h, hon⟩ => ?inside, rfl, fun hnone => congrArg Host.Outcome.next (State.closeWord_of_none hnone),
    fun w hw => ?flush⟩
  case start =>
    intro k u inst x close range
    have hstart := State.conversionStart_of_start h (k := k) (u := u) (inst := inst) rfl rfl rfl
    refine ⟨fun hoff => ?_, fun ⟨hon, hused⟩ => ?_, fun ⟨hon, hfree, hclose⟩ => ?_, fun ⟨hon, hfree, hfar⟩ => ?_⟩ <;>
      refine congrArg Host.Outcome.next (hstart.trans ?_)
    · exact if_pos hoff
    · rw [if_neg hon, if_pos hused]
    · rw [if_neg hon, if_neg (ne_true_of_eq_false hfree), if_pos (State.convClose_iff.2 hclose)]
    · rw [if_neg hon, if_neg (ne_true_of_eq_false hfree), if_neg (mt State.convClose_iff.1 hfar)]
  case inside =>
    intro x y a ⟨hlo, hhi, hclamp⟩ b e
    have hin : ¬ (x = -131072 ∨ x = 131071 ∨ y.2 = true) := by simp [hlo, hhi, hclamp]
    exact congrArg Host.Outcome.next (State.sampleReady_of_done (State.conversionDone_of_inside h hon hin))
  case flush =>
    intro r
    have hclose := State.closeWord_of_some (r := r) hw rfl
    exact ⟨fun hin => congrArg Host.Outcome.next (hclose.trans (if_pos hin)),
      fun hout => congrArg Host.Outcome.next (hclose.trans (if_neg (ne_true_of_eq_false hout)))⟩

end Sys2Proof.Machine

/-! SUPPORT. Calibration runs, their sets and their copies in flash (R423–R434). -/
namespace Sys2Proof.Machine
namespace State

section
variable {b c l temp : Nat} {s u : State}

/-- Sixteenths of a degree between two readings. -/
def tempMoved (temp from_ : Nat) : Nat := (signed 16 temp - signed 16 from_).natAbs

/-- A block waits to be tried again, and its time has come (R425). -/
def calRetry (s : State) (b : Nat) : Bool :=
  match (s.cal b).again with
  | none => false
  | some t => decide (t ≤ s.now)

/-- A temperature falls on a block whose run measures, or on one that may fall due (R423, R430). -/
theorem calTemp_eq (hu : s.wr (CB_TEMP_NOW b) temp = u) : s.calTemp b temp =
    if 2 ≤ u.rd (CB_STATUS_STATE b) then
      if u.rd CAL_TEMP_DELTA_SIXTEENTHS < 2 * tempMoved temp (u.cal b).startTemp then
        ((calClear b u).updCal b fun x => { x with startTemp := temp }).wr (CB_STATUS_STATE b) 2
      else u
    else if u.rd (CB_STATUS_STATE b) = 0 ∧ ((!u.calAccepted b && (u.cal b).again.isNone) || u.calRetry b
        || (u.calAccepted b && tempMoved temp (u.rd (CB_TEMP_LAST b)) > u.rd CAL_TEMP_DELTA_SIXTEENTHS)) then
      calDue b false u
    else u := by
  subst hu
  rfl

/-- A conversion that may not proceed, has its points or has no gap counts for nothing (R427). -/
theorem gapConversion_of_stopped {x : Int} (h : ¬ (s.calMayRun (c / 4) = true ∧ s.pointsDone c < 27 ∧ s.gapOpen c s.now = true)) :
    s.gapConversion c x = s := by
  refine if_pos (Classical.by_contradiction fun hno => h ?_)
  obtain ⟨hrun, hrest⟩ := not_or.1 hno
  obtain ⟨hpoints, hopen⟩ := not_or.1 hrest
  exact ⟨not_not.1 hrun, Nat.lt_of_not_le hpoints, not_not.1 hopen⟩

theorem gapConversion_of_open {x : Int} (h : s.calMayRun (c / 4) = true ∧ s.pointsDone c < 27 ∧ s.gapOpen c s.now = true)
    (hu : calBegin (c / 4) s = u) : s.gapConversion c x =
      let v := u.updAi c fun a => { a with cal := addPoint u.calSamples x a.cal }
      if (blockChannels (c / 4)).all (fun c => v.pointsDone c ≥ 15) then v.wr (CB_STATUS_STATE (c / 4)) 3 else v := by
  subst hu
  obtain ⟨hrun, hpoints, hopen⟩ := h
  exact if_neg (not_or.2 ⟨not_not.2 hrun, not_or.2 ⟨Nat.not_le.2 hpoints, not_not.2 hopen⟩⟩)

/-- The block that a delay line belongs to (R422). -/
def lineBlock (l : Nat) : Nat := if l < 12 then 2 else 3

theorem lineMeasure_of_stopped {counts : List Nat}
    (h : s.calMayRun (lineBlock l) = false ∨ s.lineIdle l = false ∨ 64 ≤ (s.lineOf (lineBlock l) l).1) :
    s.lineMeasure l counts = s :=
  if_pos (h.imp ne_true_of_eq_false (Or.imp_left ne_true_of_eq_false))

theorem lineMeasure_of_open {counts : List Nat}
    (h : s.calMayRun (lineBlock l) = true ∧ s.lineIdle l = true ∧ (s.lineOf (lineBlock l) l).1 < 64)
    (hu : calBegin (lineBlock l) s = u) : s.lineMeasure l counts =
      let b := lineBlock l
      let x := u.lineOf b l
      let v := u.updCal b fun a =>
        { a with lines := tset (fun _ => (0, [])) a.lines l (x.1 + 1, addCounts x.2 (counts.take 128)) }
      if (blockLines b).all (fun l => (v.lineOf b l).1 ≥ 64) then v.wr (CB_STATUS_STATE b) 3 else v := by
  subst hu
  obtain ⟨hrun, hidle, hshort⟩ := h
  exact if_neg (not_or.2 ⟨not_not.2 hrun, not_or.2 ⟨not_not.2 hidle, Nat.not_le.2 hshort⟩⟩)

/-- A run that measures all is accepted within three times the noise, else rejected (R425, R426). -/
theorem calComplete_of_measured (hruns : 2 ≤ s.rd (CB_STATUS_STATE b)) (hmeasured : s.calMeasured b = true)
    (hu : s.tally (CB_RUN_TALLY_COUNT b) = u) : s.calComplete b =
      if s.calResidual b ≤ 3 * (if b < 2 then u.rd CAL_REFV_NOISE_TENTHS_UV else u.rd CAL_REFCLK_JITTER_TENTHS_PS) then
        calAccept b ((s.calResidual b + 1) / 2) u
      else calReject b ((s.calResidual b + 1) / 2) u := by
  subst hu
  exact if_neg (not_or.2 ⟨Nat.not_lt.2 hruns, not_not.2 hmeasured⟩)

/-- Two states that differ in registers alone. -/
def RegsOnly (s t : State) : Prop := t.tb = s.tb ∧ t.fab.mem = s.fab.mem ∧ t.calFlash = s.calFlash ∧ t.power = s.power

theorem RegsOnly.wr {s t : State} (h : s.RegsOnly t) (f : FRef) (v : Nat) : s.RegsOnly (t.wr f v) := by
  obtain ⟨htb, hmem, hflash, hpower⟩ := h
  exact ⟨(wr_tb ..).trans htb, (Fabric.wr_mem ..).trans hmem, (wr_calFlash ..).trans hflash, (wr_power ..).trans hpower⟩

theorem RegsOnly.putSet {s t : State} (h : s.RegsOnly t) (off v : Nat) : s.RegsOnly (t.putSet off v) := h.wr ..

/-- The copies in flash are no register, no byte of the paddock and no time. -/
def withFlash (f : CalFlash) (s : State) : State := { s with calFlash := f }

/-- The generation and the time that a save enters into the set's header. -/
def saveHeader (gen : Nat) (s : State) : State :=
  let u := s.putSet 8 gen
  (u.putSet 0x10 (Time.sec u.now % 2 ^ 32)).putSet 0x14 (Time.sec u.now / 2 ^ 32 % 2 ^ 16)

/-- The CRC over the set. -/
def saveCrc (s : State) : State := s.putSet 0x9FC (crc32c (s.setBytesInForce.take 0x9FC)).toNat

/-- The registers of a save that begins. -/
def saveShown (gen : Nat) (s : State) : State := (s.wr CAL_NV_GEN_GEN gen).wr CAL_STATUS_NV_BUSY 1

/-- The flash as a save begins. -/
def saveBegun (write : Nat × Nat × List Byte) (s : State) : CalFlash :=
  { s.calFlash with write := some write, last := some s.now, held := s.unseated }

theorem RegsOnly.saveHeader {s t : State} (h : s.RegsOnly t) (gen : Nat) : s.RegsOnly (t.saveHeader gen) :=
  ((h.putSet ..).putSet ..).putSet ..

theorem RegsOnly.saveCrc {s t : State} (h : s.RegsOnly t) : s.RegsOnly t.saveCrc := h.putSet ..

theorem RegsOnly.saveShown {s t : State} (h : s.RegsOnly t) (gen : Nat) : s.RegsOnly (t.saveShown gen) := (h.wr ..).wr ..

/-- A save where none is under way enters the set's header and CRC, shows BUSY, and keeps what is written (R432). -/
theorem calSave_of_free (h : s.calFlash.write = none) : ∃ (gen : Nat) (write : Nat × Nat × List Byte),
    s.calSave = ((s.saveHeader gen).saveCrc.saveShown gen).withFlash (((s.saveHeader gen).saveCrc.saveShown gen).saveBegun write) := by
  have hfree : ¬ s.calFlash.write.isSome = true := by rw [h]; decide
  simp only [calSave, saveHeader, saveCrc, saveShown, saveBegun, withFlash, if_neg hfree]
  exact ⟨_, _, rfl⟩

theorem saveShown_busy (s : State) (gen : Nat) : (s.saveShown gen).rd CAL_STATUS_NV_BUSY = 1 :=
  (rd_wr_same _ _ (by decide) (by decide)).trans (by decide)

/-- A save that begins shows BUSY, keeps what is written, and is held while the module is unseated. -/
theorem withFlash_saveBegun {v : State} {write : Nat × Nat × List Byte} (hbusy : v.rd CAL_STATUS_NV_BUSY = 1) (hv : s.RegsOnly v) :
    let t := v.withFlash (v.saveBegun write)
    t.rd CAL_STATUS_NV_BUSY = 1 ∧ t.calFlash.write ≠ none ∧ t.calFlash.last = some s.now ∧ t.calFlash.held = s.unseated
      ∧ t.tb = s.tb ∧ t.fab.mem = s.fab.mem := by
  obtain ⟨htb, hmem, -, hpower⟩ := hv
  have hnow : v.now = s.now := by rw [now, now, htb]
  have hunseated : v.unseated = s.unseated := by rw [unseated, unseated, hpower]
  exact ⟨hbusy, Option.some_ne_none _, congrArg some hnow, hunseated, htb, hmem⟩

theorem calSave_shows (h : s.calFlash.write = none) : s.calSave.rd CAL_STATUS_NV_BUSY = 1 ∧ s.calSave.calFlash.write ≠ none
    ∧ s.calSave.calFlash.last = some s.now ∧ s.calSave.calFlash.held = s.unseated ∧ s.calSave.tb = s.tb
    ∧ s.calSave.fab.mem = s.fab.mem := by
  obtain ⟨gen, write, hsave⟩ := calSave_of_free h
  have hself : s.RegsOnly s := ⟨rfl, rfl, rfl, rfl⟩
  rw [hsave]
  exact withFlash_saveBegun (saveShown_busy ..) ((hself.saveHeader gen).saveCrc.saveShown gen)

/-- A save that no firmware completes stays under way. -/
theorem calSaved_of_stopped {ok : Bool}
    (h : s.calFlash.write = none ∨ s.rd SH_STATUS_STATE ≠ 1 ∨ s.calFlash.held = true) : s.calSaved ok = s := by
  unfold calSaved
  split
  · rfl
  · next hwrite => exact if_pos (h.resolve_left (by rw [hwrite]; exact Option.some_ne_none _))

/-- A completed save's slot stands in its copy, or is lost (R432). -/
theorem calSaved_of_write {ok : Bool} {copy gen : Nat} {bytes : List Byte} (h : s.calFlash.write = some (copy, gen, bytes))
    (hruns : s.rd SH_STATUS_STATE = 1) (hfree : s.calFlash.held = false) : s.calSaved ok =
      let f := s.calFlash
      let l := if ok then bytes else []
      let u := (s.withFlash (if copy = 0 then { f with copy0 := addSlot f.copy0 l, write := none }
        else { f with copy1 := addSlot f.copy1 l, write := none })).wr CAL_STATUS_NV_BUSY 0
      if ok then (u.wr CAL_STATUS_COPY copy).raise 796 gen
      else (((u.tally CAL_NV_FAIL_TALLY_COUNT).raise 797 0).tally SH_FLASH_FAIL_TALLY_COUNT).raise 870 (0x180 + copy) := by
  unfold calSaved
  rw [h]
  exact if_neg (not_or.2 ⟨not_not.2 hruns, ne_true_of_eq_false hfree⟩)

/-- An override of a staging set in range takes its blocks, and is measured (R434). -/
theorem calOverrideCmd_of_ok {mask : Nat} (h : s.stagingOk = true) : s.calOverrideCmd mask =
    extendSet (calPending (((List.range 4).filter mask.testBit).foldl (fun s b => calTake b ((State.wr ((blockWords b).foldl
      (fun s i => s.ww (CAL_SET i) (s.rw (CAL_STAGE i))) s) (CB_STATUS_USER b) 1).wr ⟨CAL_SET 3, b, b⟩ 1)) s)) := by
  have hrun : s.calOverride mask = _ := if_neg (not_not.2 h)
  rw [calOverrideCmd, hrun]
  rfl

theorem calOverrideCmd_of_bad {mask : Nat} (h : ¬ s.stagingOk = true) : s.calOverrideCmd mask = s.wr CAL_STATUS_OVR_REFUSED 1 := by
  have hrun : s.calOverride mask = (s.wr CAL_STATUS_OVR_REFUSED 1, false) := if_pos h
  rw [calOverrideCmd, hrun]
  rfl

end
end State

/-- Settles O52: each command by its own tests. -/
theorem calibrations : Obligations.Calibrations := by
  intro b c l raw temp blocks counts ok s
  refine ⟨rfl, ⟨fun ⟨hruns, hmoved⟩ => ?restarted, fun ⟨hruns, hstays⟩ => ?runs, fun hdue => ?due,
      fun ⟨hidle, hacc, hmoved⟩ => ?moved, fun ⟨hidle, hacc, hagain, hstays⟩ => ?stays⟩,
    ⟨fun hno => ?noPoint, fun ⟨hrun, hshort, hopen⟩ => ?point⟩, fun hno => ?noWindow, fun ⟨hrun, hidle, hshort⟩ => ?window,
    ⟨fun hno => ?unfinished, fun ⟨hruns, hmeasured, hsmall⟩ => ?accepted, fun ⟨hruns, hmeasured, hlarge⟩ => ?rejected⟩,
    fun hidle => congrArg Host.Outcome.next (if_pos hidle), fun hdue => congrArg Host.Outcome.next (if_neg hdue), rfl, rfl,
    ?override, fun hbusy => ?busy, fun hfree => ?save, fun hno => ?noSaved, fun copy gen bytes ⟨hwrite, hruns, hfree⟩ => ?saved⟩
  case restarted =>
    exact congrArg Host.Outcome.next ((State.calTemp_eq rfl).trans ((if_pos hruns).trans (if_pos hmoved)))
  case runs =>
    exact congrArg Host.Outcome.next ((State.calTemp_eq rfl).trans ((if_pos hruns).trans (if_neg (Nat.not_lt.2 hstays))))
  case due =>
    refine congrArg Host.Outcome.next ((State.calTemp_eq rfl).trans ?_)
    rw [if_neg (by omega), if_neg (by omega)]
  case moved =>
    refine congrArg Host.Outcome.next ((State.calTemp_eq rfl).trans ?_)
    refine (if_neg (by omega)).trans (if_pos ⟨hidle, ?_⟩)
    rw [hacc, decide_eq_true (show State.tempMoved _ _ > _ from hmoved), Bool.true_and, Bool.or_true]
  case stays =>
    refine congrArg Host.Outcome.next ((State.calTemp_eq rfl).trans ?_)
    rw [if_neg (by omega), if_neg]
    rintro ⟨-, h⟩
    rw [hacc, State.calRetry, hagain, decide_eq_false (show ¬ State.tempMoved _ _ > _ from Nat.not_lt.2 hstays)] at h
    simp at h
  case noPoint => exact congrArg Host.Outcome.next (State.gapConversion_of_stopped hno)
  case point => exact congrArg Host.Outcome.next (State.gapConversion_of_open ⟨hrun, hshort, hopen⟩ rfl)
  case noWindow => exact congrArg Host.Outcome.next (State.lineMeasure_of_stopped hno)
  case window => exact congrArg Host.Outcome.next (State.lineMeasure_of_open ⟨hrun, hidle, hshort⟩ rfl)
  case unfinished => exact congrArg Host.Outcome.next (if_pos (hno.imp_right ne_true_of_eq_false))
  case accepted =>
    exact congrArg Host.Outcome.next ((State.calComplete_of_measured hruns hmeasured rfl).trans (if_pos hsmall))
  case rejected =>
    exact congrArg Host.Outcome.next ((State.calComplete_of_measured hruns hmeasured rfl).trans (if_neg (Nat.not_le.2 hlarge)))
  case override =>
    refine congrArg Host.Outcome.next ?_
    split
    next hok => exact State.calOverrideCmd_of_ok hok
    next hbad => exact State.calOverrideCmd_of_bad hbad
  case busy => exact congrArg Host.Outcome.next (if_pos (Option.isSome_iff_ne_none.2 hbusy))
  case save => exact ⟨_, rfl, State.calSave_shows hfree⟩
  case noSaved => exact congrArg Host.Outcome.next (State.calSaved_of_stopped hno)
  case saved =>
    intro f u
    exact ⟨congrArg Host.Outcome.next (State.calSaved_of_write hwrite hruns hfree),
      congrArg Host.Outcome.next (State.calSaved_of_write hwrite hruns hfree)⟩

end Sys2Proof.Machine

/-! SUPPORT. What a path receives, and what a flow and the precision time service send (R356, R439–R450). -/
namespace Sys2Proof.Machine
namespace State

section
variable {a src : NetAddr} {k j f g st d kind id mac first count port : Nat} {s u : State}

/-- An answer that nobody asked for fills nothing (R441). -/
theorem nbReply_of_unasked (h : s.net.resolving.contains a = false) : s.nbReply a mac = s :=
  if_pos (ne_true_of_eq_false h)

/-- An answer that was asked for fills the entry that a new resolution takes (R441). -/
theorem nbReply_of_asked {e : Nat} (h : s.net.resolving.contains a = true)
    (hu : (s.updNet fun n => { n with resolving := n.resolving.filter (· != a), reported := n.reported.filter (· != a) }) = u)
    (he : u.nbPlace = some e) : s.nbReply a mac =
      nbTouch e (wrWide ((List.range 4).foldl (fun (t : State) j => t.wr (NB_IP_ADDRESS e j) (a.words.getD j 0))
        (u.ww (NB_CTRL e) (BitVec.ofNat 32 (2 ^ 31 + if a.v6 then 2 ^ 28 else 0)))) (NB_MAC e) 2 mac) := by
  subst hu
  simp only [nbReply, h, he, not_true_eq_false, if_false]

theorem request_of_inactive (h : s.roleOf k ≠ 5) : s.request k st first count src port = rxDrop k s := if_pos h

theorem request_of_unserved (h : s.roleOf k = 5) (hs : s.serves st = none) :
    s.request k st first count src port = refuseRequest k none ⟨0, st, first, count, src, port⟩ 5 s := by
  simp only [request, h, hs, ne_eq, not_true_eq_false, if_false, Option.getD_none]

theorem request_of_served (h : s.roleOf k = 5) (hs : s.serves st = some g) :
    s.request k st first count src port =
      if s.rd NP_CTRL_SERVE_OPEN = 0 ∧ src ≠ (s.flowDest g).1 then refuseRequest k (some g) ⟨g, st, first, count, src, port⟩ 4 s
      else if (s.path k).requests.length ≥ 16 then refuseRequest k (some g) ⟨g, st, first, count, src, port⟩ 3 s
      else s.updPath k fun x => { x with requests := x.requests ++ [⟨g, st, first, count, src, port⟩] } := by
  simp only [request, h, hs, ne_eq, not_true_eq_false, if_false, Option.getD_some]

/-- A message of precision time leaves on the active path (R356). -/
theorem ptpSend_of_active {body : List Byte} (hj : s.activePath = some j) : s.ptpSend kind d body =
    netSend j (.netFrame j 3 (leBytes 1 kind ++ leBytes 1 (s.rd (TD_PTP_CFG_DOMAIN d)) ++ body)) s := by
  unfold ptpSend
  rw [hj]

theorem ptpManage_of_stopped {set : Bool} (h : s.rd (TD_PTP_CFG_ROLE d) = 0 ∨ s.activePath = none) :
    s.ptpManage d id set = s :=
  if_pos (h.imp_right Option.isNone_iff_eq_none.2)

theorem ptpManage_of_refused {set : Bool} (hrole : s.rd (TD_PTP_CFG_ROLE d) ≠ 0) (hj : s.activePath = some j)
    (h : set = true ∨ 3 < id) : s.ptpManage d id set = s.ptpSend 14 d (leBytes 1 id ++ [0xFF#8]) :=
  (if_neg (not_or.2 ⟨hrole, by rw [hj]; exact Bool.false_ne_true⟩)).trans (if_pos h)

/-- A GET of a data set is answered with its values (R356). -/
theorem ptpManage_of_get (hrole : s.rd (TD_PTP_CFG_ROLE d) ≠ 0) (hj : s.activePath = some j) (hid : id ≤ 3) :
    s.ptpManage d id false = s.ptpSend 13 d (leBytes 1 id ++
      (if id = 0 then s.ownDataset d ++ [s.rd (TD_PTP_CFG_DOMAIN d), s.rd (TD_PTP_CFG_ROLE d)]
        else if id = 1 then [s.rd (TD_OFFSET_PICOSECONDS d), s.rd (TD_PATH_DELAY_PICOSECONDS d)]
        else if id = 2 then (s.servo d).master.getD (s.ownDataset d)
        else [s.rd TB_STATUS_REF_LOCK, s.rd TB_STATUS_PPS_LOCK]).flatMap (leBytes 8)) :=
  (if_neg (not_or.2 ⟨hrole, by rw [hj]; exact Bool.false_ne_true⟩)).trans
    (if_neg (not_or.2 ⟨Bool.false_ne_true, Nat.not_lt.2 hid⟩))

/-- Whether a message of precision time is due at its interval: 0 Sync and 2 Announce as master, 1 Delay_Req as slave. -/
def ptpDue (s : State) (d kind : Nat) : Prop :=
  s.rd (TD_PTP_CFG_ROLE d) ≠ 0 ∧ (if kind = 1 then (s.servo d).master.isSome else s.rd (TD_STATUS_STATE d) = 5)

theorem ptpTransmit_of_stopped (h : ¬ s.ptpDue d kind ∨ s.activePath = none) : s.ptpTransmit d kind = s :=
  if_pos (h.imp_right Option.isNone_iff_eq_none.2)

theorem ptpTransmit_of_due (h : s.ptpDue d kind) (hj : s.activePath = some j) : s.ptpTransmit d kind =
    let l := tget (fun _ => [0, 0, 0]) s.net.ptpSeq d
    ptpSend kind d (leBytes 2 (l.getD kind 0) ++ timeBytes (s.counterTime d)
        ++ if kind = 2 then (s.ownDataset d).flatMap (leBytes 8) else [])
      (s.updNet fun n => { n with ptpSeq := tset (fun _ => [0, 0, 0]) n.ptpSeq d (l.set kind ((l.getD kind 0 + 1) % 65536)) }) :=
  if_neg (not_or.2 ⟨not_not.2 h, by rw [hj]; exact Bool.false_ne_true⟩)

theorem inBar_zero (off : Nat) : (inBar 0 off = true) = (off < 0x4000000) := decide_eq_true_eq

/-- A control datagram is not accepted, refused by its offset, or carried out, and answered with its status (R449). -/
theorem remoteControl_eq {op off tag : Nat} {value : Word} (hu : s.received k = u) :
    s.remoteControl k src port op off value tag =
      if u.roleOf k ≠ 5 then u.rxDrop k
      else if u.rd NP_CTRL_REMOTE_EN = 0 ∨ ¬ u.allowed src then remoteReply k src port 2 off value tag u.netRefused
      else if (op ≠ 1 ∧ op ≠ 2) ∨ off % 4 ≠ 0 ∨ ¬ off < 0x4000000 ∨ (op = 2 ∧ remoteBarred off) then
        remoteReply k src port 1 off value tag u.netRefused
      else if op = 2 then remoteReply k src port 0 off value tag (writeWord 0 off value (npEv k 10 off u))
      else remoteReply k src port 0 off (readWord 0 off (npEv k 10 off u)).1 tag (readWord 0 off (npEv k 10 off u)).2 := by
  subst hu
  simp only [remoteControl, inBar_zero]

end
end State

section
variable {j f : Nat} {s : State}

theorem execFlowDatagramSend_of_inactive (h : s.activePath = none) : execFlowDatagramSend f s = .next s := by
  unfold execFlowDatagramSend
  rw [h]

theorem execFlowDatagramSend_of_nothing (hj : s.activePath = some j) (h : s.flowTarget j f = none) :
    execFlowDatagramSend f s = .next s := by
  simp only [execFlowDatagramSend, hj, h]

/-- A flow's next datagram waits for the gate, for its pacing and for the resolution of its destination (R444). -/
theorem execFlowDatagramSend_of_target {t : NetAddr × Nat} (hj : s.activePath = some j) (h : s.flowTarget j f = some t) :
    execFlowDatagramSend f s = .next (if ¬ s.gateOpen j ∨ ¬ s.flowPaced f then s else
      match (s.resolve j t.1).1 with
      | none => (s.resolve j t.1).2
      | some m => ((s.resolve j t.1).2.flowNext f ⟨j, t.1, t.2, some m⟩).handbackStep) := by
  simp only [execFlowDatagramSend, hj, h] <;> rfl

theorem execNeighborResolveTimeout_of_inactive (h : s.activePath = none) : execNeighborResolveTimeout f s = .next s := by
  unfold execNeighborResolveTimeout
  rw [h]

theorem execNeighborResolveTimeout_of_nothing (hj : s.activePath = some j) (h : s.flowTarget j f = none) :
    execNeighborResolveTimeout f s = .next s := by
  simp only [execNeighborResolveTimeout, hj, h]

/-- A destination not resolved in time costs the datagram, and is reported once (R441). -/
theorem execNeighborResolveTimeout_of_target {t : NetAddr × Nat} (hj : s.activePath = some j) (h : s.flowTarget j f = some t) :
    execNeighborResolveTimeout f s = .next (if ¬ s.net.resolving.contains (s.nextHop t.1) then s else
      let u := State.flowNext f ⟨j, t.1, t.2, none⟩
        (s.updNet fun n => { n with resolving := n.resolving.filter (· != s.nextHop t.1) })
      if s.net.reported.contains (s.nextHop t.1) then u else
        (u.updNet fun n => { n with reported := n.reported ++ [s.nextHop t.1] }).raise (800 + 16 * j + 12) u.nbIndex) := by
  simp only [execNeighborResolveTimeout, hj, h, ite_not]
  rfl

end

/-- Settles O53: each arrival and each transmission by its own tests. -/
theorem networkTraffic : Obligations.NetworkTraffic := by
  intro k i f stream first count port groups mac quanta op off tag d kind id v6 useT set addr data value time s
    a v active dropped refused send
  refine ⟨rfl, rfl, rfl, fun hno => ?unasked, fun e ⟨hactive, hasked, he⟩ => ?filled, rfl, rfl, ?request, rfl, ?remote,
    fun j hj => ⟨fun hnone => ⟨?nothing, ?nothing'⟩, fun t ht => ⟨fun hclosed => ?waits, fun ⟨hopen, hpaced⟩ => ?sent, ?timeout⟩⟩,
    fun hnone => ⟨?inactive, ?inactive'⟩, rfl, fun j hj => ⟨?transmit, fun ⟨hrole, hrefused⟩ => ?refused,
      fun ⟨hrole, hget, hid⟩ => ?properties, fun ⟨hrole, hget, hid⟩ => ?default⟩, fun hno => ⟨?silent, ?silent'⟩⟩
  case unasked =>
    refine congrArg Host.Outcome.next ?_
    obtain hrole | hnot := hno
    · exact if_neg hrole
    · exact (ite_eq_right_iff.2 fun _ => State.nbReply_of_unasked hnot)
  case filled =>
    exact congrArg Host.Outcome.next ((if_pos hactive).trans (State.nbReply_of_asked hasked rfl he))
  case request =>
    refine congrArg Host.Outcome.next ?_
    split
    next hrole => exact State.request_of_inactive hrole
    next hrole =>
      split
      next hs => exact State.request_of_unserved (not_not.1 hrole) hs
      next g hs => exact State.request_of_served (not_not.1 hrole) hs
  case remote => exact congrArg Host.Outcome.next (State.remoteControl_eq rfl)
  case nothing => exact execFlowDatagramSend_of_nothing hj hnone
  case nothing' => exact execNeighborResolveTimeout_of_nothing hj hnone
  case waits =>
    exact (execFlowDatagramSend_of_target hj ht).trans (congrArg Host.Outcome.next
      (if_pos (hclosed.imp ne_true_of_eq_false ne_true_of_eq_false)))
  case sent =>
    exact (execFlowDatagramSend_of_target hj ht).trans (congrArg Host.Outcome.next
      (if_neg (not_or.2 ⟨not_not.2 hopen, not_not.2 hpaced⟩)))
  case timeout => exact execNeighborResolveTimeout_of_target hj ht
  case inactive => exact execFlowDatagramSend_of_inactive hnone
  case inactive' => exact execNeighborResolveTimeout_of_inactive hnone
  case transmit =>
    intro due l u
    refine congrArg Host.Outcome.next ?_
    split
    next hdue => exact State.ptpTransmit_of_due hdue hj
    next hdue => exact State.ptpTransmit_of_stopped (.inl hdue)
  case refused =>
    exact congrArg Host.Outcome.next ((State.ptpManage_of_refused hrole hj hrefused).trans (State.ptpSend_of_active hj))
  case properties =>
    subst hget hid
    exact congrArg Host.Outcome.next ((State.ptpManage_of_get hrole hj (by decide)).trans (State.ptpSend_of_active hj))
  case default =>
    subst hget hid
    exact congrArg Host.Outcome.next ((State.ptpManage_of_get hrole hj (by decide)).trans (State.ptpSend_of_active hj))
  case silent =>
    refine congrArg Host.Outcome.next (State.ptpTransmit_of_stopped (hno.symm.imp_left fun hrole => ?_))
    exact fun ⟨hdue, _⟩ => hdue hrole
  case silent' => exact congrArg Host.Outcome.next (State.ptpManage_of_stopped hno.symm)

end Sys2Proof.Machine

/-! SUPPORT. The crook, a path's health, and the mirror link (R451–R460). -/
namespace Sys2Proof.Machine
namespace State

section
variable {j k : Nat} {s : State}

/-- A change of ROLE is shown and raised (R460). -/
theorem setRole_of_ne {r : Nat} (h : s.roleOf k ≠ r) :
    s.setRole k r = (s.wr (NPP_STATUS_ROLE k) r).raise (800 + 16 * k) r := if_neg h

/-- A pulse of the other path within the last 50 µs (R459). -/
def pulseHeard (s : State) (k : Nat) : Prop :=
  s.holds (1 - k) = true ∧ ∃ t, (s.path (1 - k)).returned = some t ∧ s.now < t + Time.ofUs 50

/-- A healthy path that waits and hears no pulse drives its probe (R452). -/
theorem crookSilence_of_silent (hrole : s.roleOf k = 2 ∨ s.roleOf k = 3) (hhealthy : s.healthyNow k = true)
    (hheard : ¬ s.pulseHeard k) :
    s.crookSilence k = ((s.wr (NPP_STATUS_ROLE k) 4).raise (800 + 16 * k) 4).emit (.crook k) := by
  have hnew : s.roleOf k ≠ 4 := by omega
  rw [← setRole_of_ne hnew]
  refine if_pos ⟨hrole, hhealthy, ?_⟩
  split
  next t ht =>
    refine Bool.not_eq_true' _ ▸ Bool.eq_false_iff.2 fun h => hheard ?_
    rw [Bool.and_eq_true, decide_eq_true_eq] at h
    exact ⟨h.1, t, ht, h.2⟩
  next => rfl

theorem crookSilence_of_not (h : ¬ ((s.roleOf k = 2 ∨ s.roleOf k = 3) ∧ s.healthyNow k = true ∧ ¬ s.pulseHeard k)) :
    s.crookSilence k = s := by
  refine if_neg fun ⟨hrole, hhealthy, hsilent⟩ => h ⟨hrole, hhealthy, fun ⟨hholds, t, ht, hrecent⟩ => ?_⟩
  simp only [ht, hholds, hrecent, decide_true, Bool.and_self, Bool.not_true] at hsilent
  exact Bool.false_ne_true hsilent

/-- Contention is counted, shown, and raised on both paths (R452). -/
def contended (s : State) : State :=
  (((s.tally NP_CONTEND_TALLY_COUNT).wr NP_STATUS_CONTEND 1).raise 807 1).raise 823 1

/-- A holder that met contention stops, and listens before it seizes again (R452). -/
def stopHolder (j : Nat) (s : State) : State :=
  if s.holds j then setRole j 3 ((letGo j 0 s).updPath j fun x => { x with listen := true }) else s

theorem contention_of_holder (h : s.holds k = true) : s.contention k = stopHolder 1 (stopHolder 0 s.contended) :=
  if_neg (not_not.2 h)

/-- The loss of a path's lock is counted and raised once (R452). -/
theorem pathLock_false : s.pathLock k false =
    let v := ((s.updPath k fun x => { x with locked := false }).wr (NPP_STATUS_LINK k) 0).wr (NPP_STATUS_FEC_LOCK k) 0
    pathFollow k (if s.rd (NPP_STATUS_LINK k) = 1 then
      (v.tally (NPP_LINK_DOWN_TALLY_COUNT k)).raise (800 + 16 * k + 6) 0 else v) := rfl

/-- A path that locks shows its link, and its FEC where it uses one (R452). -/
theorem pathLock_true : s.pathLock k true =
    let v := (s.updPath k fun x => { x with locked := true, txFault := false }).wr (NPP_STATUS_LINK k) 1
    let w := v.wr (NPP_STATUS_FEC_LOCK k) (if s.rd (NPP_CFG_FEC k) = 1 then 1 else 0)
    pathFollow k (if s.rd (NPP_STATUS_LINK k) = 0 then w.raise (800 + 16 * k + 6) 1 else w) := by
  simp only [pathLock, wrIf, Bool.true_and, if_true, beq_iff_eq]
  rfl

/-! Epochs. -/

theorem handbackStep_of_none (h : s.net.handback = none) : s.handbackStep = s := by
  unfold handbackStep
  rw [h]

theorem epochDue_of_none (h : s.activePath = none) : s.epochDue = s.handbackStep := by
  unfold epochDue
  rw [h]

/-- The active path snapshots the millisecond that is due, unless a handback has sent its final epoch (R453, R457). -/
theorem epochDue_of_active (h : s.activePath = some j) : s.epochDue =
    let v := s.runTo (65536 * max s.now (Time.ofMs s.net.nextMs))
    let w := handbackStep (v.updNet fun n => { n with nextMs := v.now / Time.ofMs 1 + 1 })
    if w.roleOf j = 5 then snapshot j w else w := by
  unfold epochDue
  rw [h]

theorem epochReceived_of_none {ok : Bool} (h : s.net.flight = none) : s.epochReceived k ok = s := by
  unfold epochReceived
  rw [h]

section
variable {e : Epoch} {ok : Bool} {v : State} (hflight : s.net.flight = some e)
  (hv : (s.updNet fun n => { n with flight := none }) = v)
include hflight hv

/-- A damaged copy, or one that reaches a holder, installs nothing (R453). -/
theorem epochReceived_of_lost (h : ok = false ∨ v.holds k = true) : s.epochReceived k ok = v := by
  subst hv
  unfold epochReceived
  rw [hflight]
  exact if_pos (h.imp_left ne_true_of_eq_false)

/-- A copy that neither syncs a path nor is the next in order installs nothing (R455). -/
theorem epochReceived_of_unfit (hok : ok = true) (hfree : v.holds k = false) (hsync : v.roleOf k ≠ 2)
    (hnext : ¬ (v.roleOf k = 3 ∧ (v.path k).epoch.map (fun y => (y.number + 1) % 2 ^ 32) = some e.number)) :
    s.epochReceived k ok = v := by
  subst hv
  unfold epochReceived
  rw [hflight]
  exact (if_neg (not_or.2 ⟨not_not.2 hok, ne_true_of_eq_false hfree⟩)).trans (if_neg (not_or.2 ⟨hsync, hnext⟩))

/-- With no handback under way, a path in Standby installs the copy next in order (R453). -/
theorem epochReceived_of_next (hok : ok = true) (hrole : v.roleOf k = 3)
    (hnext : (v.path k).epoch.map (fun y => (y.number + 1) % 2 ^ 32) = some e.number)
    (hafter : (v.install k e).net.handback = none) : s.epochReceived k ok = v.install k e := by
  subst hv
  have hfree : State.holds (s.updNet fun n => { n with flight := none }) k = false := by rw [holds, hrole]; decide
  unfold epochReceived
  rw [hflight]
  refine (if_neg (not_or.2 ⟨not_not.2 hok, ne_true_of_eq_false hfree⟩)).trans ((if_pos (.inr ⟨hrole, hnext⟩)).trans ?_)
  simp only [hrole, hafter, if_false, show ¬ (3 = 2) by decide]

/-- With no handback under way, a path in Syncing installs the copy (R455). -/
theorem epochReceived_of_sync (hok : ok = true) (hrole : v.roleOf k = 2)
    (hafter : (v.syncEpoch k e).net.handback = none) : s.epochReceived k ok = v.syncEpoch k e := by
  subst hv
  have hfree : State.holds (s.updNet fun n => { n with flight := none }) k = false := by rw [holds, hrole]; decide
  unfold epochReceived
  rw [hflight]
  refine (if_neg (not_or.2 ⟨not_not.2 hok, ne_true_of_eq_false hfree⟩)).trans ((if_pos (.inl hrole)).trans ?_)
  simp only [hrole, hafter, if_true]

end
end
end State

/-- Settles O54: each command by its own tests. -/
theorem crookAndMirror : Obligations.CrookAndMirror := by
  intro k back ok s role holder u fault
  refine ⟨rfl, ⟨fun ⟨hrole, hhealthy, hheard⟩ => ?probe, fun hno => ?quiet⟩, rfl, rfl, ?contention, congrArg Host.Outcome.next (if_pos rfl),
    congrArg Host.Outcome.next ((if_neg Bool.false_ne_true).trans State.pathLock_false), ?lock, fun ⟨hactive, hback⟩ => ?idle, fun j hj => ?due, fun hflight => ?noCopy, fun e hflight =>
    ⟨fun hlost => ?lost, fun ⟨hok, hfree, hsync, hnext⟩ => ?unfit, fun ⟨hok, hrole, hnext, _⟩ hafter => ?next,
      fun ⟨hok, hrole, hafter⟩ => ?sync⟩, rfl, rfl, fun hactive => ?noRelease, fun j hj => ?release⟩
  case probe => exact congrArg Host.Outcome.next (State.crookSilence_of_silent hrole hhealthy hheard)
  case quiet => exact congrArg Host.Outcome.next (State.crookSilence_of_not hno)
  case contention =>
    refine congrArg Host.Outcome.next ?_
    split
    next hno => exact if_pos hno
    next hholds => exact State.contention_of_holder (not_not.1 hholds)
  case lock =>
    refine congrArg Host.Outcome.next ?_
    split
    · exact State.pathLock_true
    · rfl
  case idle =>
    exact congrArg Host.Outcome.next ((State.epochDue_of_none hactive).trans (State.handbackStep_of_none hback))
  case due => exact congrArg Host.Outcome.next (State.epochDue_of_active hj)
  case noCopy => exact congrArg Host.Outcome.next (State.epochReceived_of_none hflight)
  case lost => exact congrArg Host.Outcome.next (State.epochReceived_of_lost hflight rfl hlost)
  case unfit => exact congrArg Host.Outcome.next (State.epochReceived_of_unfit hflight rfl hok hfree hsync hnext)
  case next => exact congrArg Host.Outcome.next (State.epochReceived_of_next hflight rfl hok hrole hnext hafter)
  case sync => exact congrArg Host.Outcome.next (State.epochReceived_of_sync hflight rfl hok hrole hafter)
  case noRelease =>
    unfold exec execCrookRelease
    rw [hactive]
  case release =>
    unfold exec execCrookRelease
    rw [hj]
    rfl

end Sys2Proof.Machine

/-! SUPPORT. The shepherd's boot, its watchdog, a temperature sample, and the health log (R464–R477). -/
namespace Sys2Proof.Machine
namespace State

section
variable {s u v : State} {t : List Int} {temps : List Nat} {fail : Bool}

/-- The shepherd boots out of reset, with 12 V and no trip (R464). -/
theorem shepherdBoot_eq : s.shepherdBoot =
    if s.rd SH_STATUS_STATE ≠ 0 ∨ ¬ s.power.v12 ∨ s.power.inReset ∨ s.power.tripped then s else
      let v := (startFirmware (extend 0 (digestBytes Config.romDigest) ((s.milestone 0).milestone 2))).milestone 1
      if v.shepherdRuns then v.firmwareBoots else v.serveAll := rfl

/-- A rollback that a reset left due goes on; else a boot image is selected (R65, R67). -/
def bootImage (s : State) : State :=
  match s.struct.rollbackDue, s.struct.prior with
  | some _, some p => extend 2 p.2.digest s
  | _, _ => bootSelect s

/-- Started firmware measures its identity, loads the health log, counts the boot, loads the coefficients and makes
every block due, shows the slots, and takes up an image (R464). -/
theorem firmwareBoots_of_started (h : u = v) : (if u.shepherdRuns then u.firmwareBoots else u.serveAll) =
    if v.shepherdRuns = true then
      let a := (healthLoad (extend 5 (sha384 Config.identity) v)).tally SH_BOOTS_COUNT
      let b := (List.range 4).foldl (fun (t : State) n => calDue n false t) (extendSet (calLoadBoot a))
      serveAll (bootImage (showSlot 1 (showSlot 0 b)))
    else v.serveAll := by
  subst h
  rfl

/-- What a sample leads to once the readings are taken: a trip, the end of a reset that a trip has held, or neither. -/
def thermalEnd (t : List Int) (s : State) : State :=
  let hot := (List.range t.length).filter fun i => 16 * 115 ≤ t.getD i 0
  let again := hot.any s.shep.hot.contains
  let w := s.updShep fun x => { x with hot := hot }
  if again ∧ ¬ w.power.tripped then trip w
  else if w.power.released ∧ ¬ w.stillHot then startUp w.power.lastLine w else w

/-- A sample sets the readings, moves each fold's step, counts throttled time and warns (R473, R474). -/
theorem thermalSample_eq (ht : (temps.take 12).map (signed 16) = t)
    (hv : thermalWarn t (throttleMs (stepJoin ((List.range 8).foldl (fun (s : State) f => stepFold t f s)
      (thermalRead (temps.take 12) s)))) = v) : s.thermalSample temps = thermalEnd t v := by
  subst ht hv
  rfl

/-- A health log entry with the tallies as they stand (R476). -/
def healthEntry (s : State) : HealthEntry := ⟨((s.healthBest.map (·.seq)).getD 0 + 1) % 2 ^ 32, healthKeys.map s.rw⟩

/-- The entries kept before the one at the next place: those of its sector go where it begins one (R476). -/
def healthKept (s : State) : List (Nat × Option HealthEntry) :=
  if s.shep.healthNext % 512 = 0 then
    s.shep.health.filter fun e => e.1 < s.shep.healthNext || s.shep.healthNext + 512 ≤ e.1
  else s.shep.health

theorem healthAppend_eq : s.healthAppend fail =
    let w := s.updShep fun x =>
      { x with
        health := if fail then s.healthKept else tset (fun _ => none) s.healthKept s.shep.healthNext (some s.healthEntry)
        healthNext := (s.shep.healthNext + 1) % 8192 }
    if fail then (w.tally SH_FLASH_FAIL_TALLY_COUNT).raise 870 (0x185 + s.shep.healthNext / 512) else w := rfl

/-- Each minute, running firmware in a seated module appends to the log; the sixtieth counts an hour (R476). -/
theorem healthWrite_of_due (h : ¬ (¬ s.shepherdRuns = true ∨ s.unseated = true))
    (hu : s.updShep (fun x => { x with minutes := (s.shep.minutes + 1) % 60 }) = u)
    (hv : (if s.shep.minutes + 1 = 60 then u.tally SH_HOURS_COUNT else u) = v) : s.healthWrite fail = v.healthAppend fail := by
  subst hu hv
  exact if_neg h

end
end State

/-- Settles O57: the boot, the watchdog, a sample and the minute's log write, each by its own tests. -/
theorem supervisionOfTheModule : Obligations.SupervisionOfTheModule := by
  intro temps fail s
  refine ⟨?boot, congrArg Host.Outcome.next rfl, ?sample, ?minute⟩
  case boot =>
    refine congrArg Host.Outcome.next (State.shepherdBoot_eq.trans (if_congr Iff.rfl rfl ?_))
    generalize State.extend 0 _ _ = u
    exact State.firmwareBoots_of_started rfl
  case sample =>
    intro raw t u v hot again w
    exact congrArg Host.Outcome.next (State.thermalSample_eq (t := t) (v := v) rfl rfl)
  case minute =>
    intro n u v place kept entry w
    refine congrArg Host.Outcome.next ?_
    split
    next hno => exact if_pos hno
    next hdue => exact (State.healthWrite_of_due hdue rfl rfl).trans State.healthAppend_eq

end Sys2Proof.Machine
